-- ==== Sys2Proof/Word.lean ====
section
/-! DEFINITION. The word types of the part, the numbers that name its stations, ports, pools and slots, and
the bit fields of a 32-bit word (R193: bit 0 is the least significant bit of a field). -/

namespace Sys2Proof

abbrev Byte := BitVec 8
abbrev Half := BitVec 16
abbrev Word := BitVec 32

/-- A stamp: a 32-bit value of the hall clock (R8, R49). -/
abbrev Stamp := BitVec 32

abbrev Station := Fin 32
abbrev Port := Fin 12
abbrev Pool := Fin 8

/-- A global slot number (00_scope, 0.4). -/
abbrev Slot := Fin 128

end Sys2Proof
end

