-- ==== Sys2Proof/Syntax.lean ====
section
/-! DEFINITION. The commands of the block: one constructor for each row of the table of operations and events.
Operands that a port, station or lane number bounds carry that bound in their type; the rest is judged by
WellFormed. -/

namespace Sys2Proof

/-- The three samples of one bit of a line character, about the middle of the bit; `true` is the high level
(R98). -/
structure BitSamples where
  first : Bool
  second : Bool
  third : Bool
  deriving DecidableEq, Repr, Inhabited

/-- What the receiver samples of one line character: whether the line has shown a high sample since the character before
it, which a start edge needs where that one's stop bit was low; then the samples of its eleven bits: start bit, eight data
bits least significant first, mark bit, stop bit (R97, R98; log entry 17). -/
structure LineCharacter where
  afterHigh : Bool
  start : BitSamples
  data : Vector BitSamples 8
  mark : BitSamples
  stop : BitSamples
  deriving DecidableEq, Repr

/-- One report of a CONTACT frame, as its seven payload bytes give it (R162, R201). -/
structure ContactReport where
  id : Byte
  phase : Byte
  x : Half
  y : Half
  pressure : Byte
  deriving DecidableEq, Repr, Inhabited

/-- The commands. `lanes` are the byte lanes that a write enables; a frame command carries the content of the
frame whose last character is taken in it (log entry 8). -/
inductive Instr where
  | powerOnReset
  | wipeCompletion
  | start
  | stop
  | wipe
  | reset
  | nudgeVisit (station : Station)
  | nudgeWholeSweep
  | noticeWrite (value : Word)
  | maskWrite (value : Word)
  | stationNoticeWrite (value : Word)
  | registerWriteIgnored (offset : Nat) (lanes : BitVec 4) (value : Word)
  | messagesEnabledChange (enabled : Bool)
  | configurationValidation
  | startCompletion
  | hallTick
  | deadlineExpiry
  | sweepTimerExpiry
  | wholeSweepStart
  | visit (station : Station)
  | wholeSweepEnd
  | decayTimerExpiry
  | characterReceived (port : Port) (character : LineCharacter)
  | frameRejected (port : Port) (kind : Byte) (payload : List Byte) (check : Byte)
  | stateFrame (port : Port) (condition : Byte) (capability : Byte)
  | sheetFrame (port : Port)
  | imageFrame (port : Port) (data : List Byte)
  | imageEndFrame (port : Port) (total : Word)
  | contactFrame (port : Port) (reports : List ContactReport)
  | ackFrame (port : Port)
  | nakFrame (port : Port)
  | frameSent (port : Port)
  | responseTimerExpiry (port : Port)
  | probeTimerExpiry (port : Port)
  | sheetTimerExpiry (port : Port)
  | starveTimerExpiry (port : Port)
  | holdTimerExpiry (port : Port)
  | hostExchangeMemoryWrite (offset : Nat) (lanes : BitVec 4) (value : Word)
  deriving DecidableEq, Repr

end Sys2Proof
end

