-- ==== Sys2Proof/Config.lean ====
section
/-! DEFINITION. The constants of the part, and the free values: what the manual leaves open and nothing in the
model constrains. -/

namespace Sys2Proof

/-- The size of exchange memory, 128 KiB (R9, R13). -/
def Config.exchangeBytes : Nat := 131072

/-- The size of the register window (R202). -/
def Config.registerWindowBytes : Nat := 64

/-- The number of data blocks (R139). -/
def Config.blocks : Nat := 896

/-- The data bytes of one block (R200). -/
def Config.blockData : Nat := 120

/-- The max bytes that a scan's max bytes of 0 stands for (R33). -/
def Config.allBlockBytes : Nat := 107520

/-- FREE VALUE (log entry 5). The bytes that exchange memory holds at the n-th power-on: "a power-on leaves
exchange memory contents unknown" (R13). -/
opaque Config.powerOnBytes (n : Nat) : List (Nat × Byte)

/-- FREE VALUE (log entry 4). How many slots the START rebuild of the n-th draw has taken when the next command comes: R16
gives the order of the slots and no time for them, and R21 has a RESET find it "at whatever slot it had reached". -/
opaque Config.rebuildReach (n : Nat) : Nat

/-- FREE VALUE (log entry 9). The place in a frame, counted in characters, that the transmitter of a port has reached when
its frames are given up for the n-th time: no row gives the end of a single character. -/
opaque Config.cutPlace (port : Fin 12) (n : Nat) : Nat

end Sys2Proof
end

