-- ==== Sys2Proof/Machine/State.lean ====
section
/-! DEFINITION. The state of the part: every register, record, list, counter and timer that the manual gives it,
as plain data, and the machine right after the power-on reset. -/

namespace Sys2Proof.Machine

/-! ### Codes and states -/

/-- The engine states (R12). -/
inductive Engine where
  | wiping | stopped | starting | running | draining
  deriving DecidableEq, Repr, Inhabited

/-- How far a START has come: its working copy is taken at the acceptance (R14), its rebuild follows the validation and
has then taken the slots below `next` (R15, R16), and its completion follows the rebuild (R17). -/
inductive StartPhase where
  | idle | copied
  | rebuilding (next : Nat)
  deriving DecidableEq, Repr, Inhabited

/-- STATUS: last command (R3). -/
inductive Command where
  | none | start | stop | wipe | reset
  deriving DecidableEq, Repr, Inhabited

/-- STATUS: last outcome (R3). -/
inductive CommandOutcome where
  | none | accepted | refused
  deriving DecidableEq, Repr, Inhabited

/-- STATUS: refusal reason (R3). -/
inductive RefusalReason where
  | none | wrongState | busy
  deriving DecidableEq, Repr, Inhabited

/-- STATUS: configuration result (R3, R15). -/
inductive ConfigResult where
  | none | noPorts | portClassBad | poolMixed
  deriving DecidableEq, Repr, Inhabited

/-- The class of a port or pool (R14). `bad` is an undefined class code: it is read into the working copy, and the
validation of R15 keeps the engine out of RUNNING. -/
inductive PortClass where
  | none | printer | scanner | panel | bad
  deriving DecidableEq, Repr, Inhabited

/-- Port states (06, 6.5; R197). -/
inductive PortState where
  | offline | probing | free | serving | faulted
  deriving DecidableEq, Repr, Inhabited

/-- A port's last condition (R113, R197). -/
inductive Condition where
  | none | ready | busy | paperOut | jam | coverOpen | lampFail | panelFault | lineRefused | lineSilent
  deriving DecidableEq, Repr, Inhabited

/-- Shadow states, and the codes of the owner field (R22, R199). -/
inductive SlotState where
  | empty | posted | queued | serving | finished
  deriving DecidableEq, Repr, Inhabited

/-- Job classes (R199). -/
inductive JobClass where
  | print | scan | hold
  deriving DecidableEq, Repr, Inhabited

/-- Station states (R25). -/
inductive StationState where
  | closed | opened | suspended
  deriving DecidableEq, Repr, Inhabited

/-- Block marks (R139). -/
inductive BlockMark where
  | outside | loaned (loans : Nat) | spare | result
  deriving DecidableEq, Repr, Inhabited

/-- Job outcomes (R199). -/
inductive JobOutcome where
  | none | refused | cancelled | expired | done | doneShort | failed
  deriving DecidableEq, Repr, Inhabited

/-- Detail codes (R199). -/
inductive Detail where
  | none | stationClosed | noPriority | badClass | badPool | notPermitted | badChain | chainLoop | chainConflict
  | badParam | beforeAccept | byHost | engineStop | reset | notGranted | starved | truncated | countMismatch
  | portFaults
  deriving DecidableEq, Repr, Inhabited

/-- A timer: stopped, or running with an expiry stamp (R51). -/
abbrev Timer := Option Stamp

/-- Exchange memory: (address, byte) pairs with addresses strictly rising, no zero byte listed, none above the last
address; an unlisted byte reads 0 (R13; log entry 5). -/
abbrev Memory := List Host.Cell

/-! ### The working copy of the configuration (R14) -/

structure PortConfig where
  cls : PortClass := .none
  pool : Pool := 0
  rate : Nat := 0
  probeInterval : Nat := 0
  responseTimeout : Nat := 0
  sheetTimeout : Nat := 0
  starveLimit : Nat := 0
  deriving DecidableEq, Repr, Inhabited

structure PoolConfig where
  agingStep : Nat := 0
  agingCap : Nat := 0
  preempt : Bool := false
  deriving DecidableEq, Repr, Inhabited

structure WorkingCopy where
  sweepInterval : Nat := 0
  decayPeriod : Nat := 0
  lowWater : Nat := 0
  ports : Vector PortConfig 12 := Vector.replicate 12 {}
  pools : Vector PoolConfig 8 := Vector.replicate 8 {}
  deriving DecidableEq, Repr

/-! ### Stations -/

/-- The sampled copy of a station entry (R25). -/
structure StationSample where
  state : StationState := .closed
  basePriority : Nat := 0
  shareWeight : Nat := 1
  groupCeiling : Nat := 0
  mayPrint : Bool := false
  mayScan : Bool := false
  mayHold : Bool := false
  notify : Bool := false
  deriving DecidableEq, Repr, Inhabited

/-- The four counters of a station (10, 10.2). -/
structure StationCounters where
  handoverFaults : Nat := 0
  jobsFinished : Nat := 0
  usage : Nat := 0
  overflow : Nat := 0
  deriving DecidableEq, Repr, Inhabited

/-! ### Slots and jobs -/

/-- One entry of a chain record: a block and its sheet-end mark (R123). -/
structure ChainEntry where
  block : Nat
  sheetEnd : Bool
  deriving DecidableEq, Repr, Inhabited

/-- The clamp flags of a slot's result (R33). -/
structure ClampFlags where
  urgency : Bool := false
  copies : Bool := false
  resolution : Bool := false
  maxBytes : Bool := false
  duration : Bool := false
  deriving DecidableEq, Repr, Inhabited

/-- The per-job records of a slot (R22, R33, R64, R123, R150, R175). The defaults are the cleared record. -/
structure JobRecord where
  cls : Option JobClass := none
  pool : Pool := 0
  urgency : Nat := 0
  acceptStamp : Stamp := 0
  expiry : Option Stamp := none
  agedOut : Bool := false
  firstGrant : Option Stamp := none
  serviceGrant : Option Stamp := none
  port : Option Port := none
  interruptions : Nat := 0
  faults : Nat := 0
  clamps : ClampFlags := {}
  chain : List ChainEntry := []
  copies : Nat := 0
  resumeCopy : Nat := 0
  resumeSheet : Nat := 0
  sheetsDone : Nat := 0
  mode : Nat := 0
  resolution : Nat := 0
  maxBytes : Nat := 0
  resultChain : List Nat := []
  holdRemaining : Nat := 0
  contactsDelivered : Nat := 0
  cancelLatch : Bool := false
  closeLatch : Bool := false
  deriving DecidableEq, Repr, Inhabited

/-- The part's own copy of the outcome and the detail of a slot: those that it last wrote there, NONE and NONE from the wipe
to the slot's first finish (R10, R185). -/
structure ResultCodes where
  outcome : JobOutcome := .none
  detail : Detail := .none
  deriving DecidableEq, Repr, Inhabited

/-- A slot's shadow with the records of its job (R22), and the codes of its last finish, which outlive the job's records (log
entry 7). -/
structure SlotShadow where
  state : SlotState := .empty
  job : JobRecord := {}
  codes : ResultCodes := {}
  deriving DecidableEq, Repr, Inhabited

/-! ### Pools -/

/-- The pool statistics; the queue length is the length of the queue (R78, R79). -/
structure PoolStats where
  granted : Nat := 0
  regrants : Nat := 0
  waitTotal : Nat := 0
  waitMax : Nat := 0
  preemptions : Nat := 0
  faultRequeues : Nat := 0
  expiries : Nat := 0
  deriving DecidableEq, Repr, Inhabited

/-! ### Lines -/

/-- The frame receiver (R101). IN_FRAME is split by its position. `lineLow` is HUNTING after a character whose stop bit was
low: a high sample must come before the next start edge (R98). -/
inductive Receiver where
  | hunting
  | lineLow
  | awaitLength (kind : Byte)
  | awaitPayload (kind : Byte) (length : Nat) (got : List Byte)
  | awaitCheck (kind : Byte) (payload : List Byte)
  deriving DecidableEq, Repr, Inhabited

/-- The frames that expect no answer (R106). -/
inductive ReplyKind where
  | ack | nak | pause | go
  deriving DecidableEq, Repr, Inhabited

/-- The frames that expect an answer, with their payloads (R104). -/
inductive AnswerFrame where
  | ask
  | feed (data : List Byte)
  | openScan (mode : Byte) (resolution : Byte)
  | closeScan
  deriving DecidableEq, Repr, Inhabited

/-- The owner of a frame: the probe, or a service named by its grant (R106; log entry 16). -/
inductive FrameOwner where
  | probe
  | service (grant : Nat)
  deriving DecidableEq, Repr, Inhabited

/-- A frame that expects an answer, with its owner. -/
structure Offered where
  frame : AnswerFrame
  owner : FrameOwner
  deriving DecidableEq, Repr, Inhabited

/-- The phase of the outstanding frame (R106). -/
inductive SendPhase where
  | awaitingSend | beingSent | awaitingAnswer
  deriving DecidableEq, Repr, Inhabited

/-- The outstanding place's frame (R106). -/
structure Outstanding where
  offered : Offered
  sends : Nat
  phase : SendPhase
  deriving DecidableEq, Repr, Inhabited

/-- What the line carries: the frame whose character is in progress (R106). `withdrawn` is a frame that left the
outstanding place while it was being sent: an OPEN-SCAN (R158), or an ASK that a READY has overtaken (R122). -/
inductive Sending where
  | idle
  | reply (kind : ReplyKind)
  | outstanding
  | withdrawn (frame : AnswerFrame)
  deriving DecidableEq, Repr, Inhabited

/-- The transmitter of a port with its response timer (R106, R107). -/
structure Transmitter where
  sending : Sending := .idle
  outstanding : Option Outstanding := none
  waiting : Option Offered := none
  replies : List ReplyKind := []
  responseTimer : Timer := none
  deriving DecidableEq, Repr, Inhabited

/-- The character that was in progress when the transmitter last gave up its frames, sent whole before anything that
follows; and how often it has given up a frame, the MODEL's count for its free place in the frame (R106, R111; log entry
9). -/
structure CutFrame where
  character : Option (Byte × Bool) := none
  count : Nat := 0
  deriving DecidableEq, Repr, Inhabited

/-- The line counters (R112). -/
structure LineCounters where
  noise : Nat := 0
  framing : Nat := 0
  check : Nat := 0
  resend : Nat := 0
  deriving DecidableEq, Repr, Inhabited

/-! ### Services -/

/-- Print service phases (R125). -/
inductive PrintPhase where
  | idle | feeding | stalled | sheetWait
  deriving DecidableEq, Repr, Inhabited

/-- The print service; its current job is the port's (R125). `entry` counts the entries of the chain record from 0;
`fed` tells that a FEED has been sent for the sheet (R127). -/
structure PrintService where
  phase : PrintPhase := .idle
  copy : Nat := 0
  sheet : Nat := 0
  entry : Nat := 0
  busy : Bool := false
  early : Bool := false
  fed : Bool := false
  sheetTimer : Timer := none
  deriving DecidableEq, Repr, Inhabited

/-- Scan service phases (R150). -/
inductive ScanPhase where
  | idle | opening | taking | starved | closing
  deriving DecidableEq, Repr, Inhabited

/-- The scan service; its current job is the port's (R150). -/
structure ScanService where
  phase : ScanPhase := .idle
  resolution : Nat := 0
  stored : Nat := 0
  current : Option Nat := none
  fill : Nat := 0
  wanted : Nat := 0
  starveTimer : Timer := none
  deriving DecidableEq, Repr, Inhabited

/-- Hold service phases (R175). -/
inductive HoldPhase where
  | idle | holding
  deriving DecidableEq, Repr, Inhabited

/-- The hold service; its current job is the port's (R175). -/
structure HoldService where
  phase : HoldPhase := .idle
  timer : Timer := none
  deriving DecidableEq, Repr, Inhabited

/-! ### Touch -/

/-- One sampled zone (R164). The default is a disabled one. -/
structure Zone where
  x0 : Nat := 0
  y0 : Nat := 0
  x1 : Nat := 0
  y1 : Nat := 0
  station : Nat := 0
  enabled : Bool := false
  deriving DecidableEq, Repr, Inhabited

/-- Destination, record and last position of a contact in ZONE or HOLD (R166). -/
structure Capture where
  station : Station
  zone : Nat
  record : Fin 4
  x : Nat
  y : Nat
  pressure : Nat
  deriving DecidableEq, Repr, Inhabited

/-- An entry of a contact table (R166). -/
inductive Contact where
  | none
  | zone (c : Capture)
  | hold (c : Capture)
  | orphan
  | dropped
  deriving DecidableEq, Repr, Inhabited

/-- The discard counters of a panel (R163). -/
structure Discards where
  unrouted : Nat := 0
  closed : Nat := 0
  stray : Nat := 0
  malformed : Nat := 0
  deriving DecidableEq, Repr, Inhabited

/-- The events that a mailbox record holds (R171). -/
structure MailEvents where
  down : Bool := false
  moved : Bool := false
  up : Bool := false
  deriving DecidableEq, Repr, Inhabited

/-- The router's state of one mailbox record (R170; events and synthetic flag: R10, log entry 11). -/
structure Mailbox where
  seq : Half := 0
  key : Option (Port × Fin 10) := none
  lifted : Bool := false
  events : MailEvents := {}
  synthetic : Bool := false
  deriving DecidableEq, Repr, Inhabited

/-! ### Ports -/

/-- All that the part keeps for one port (R113, R101, R106, R112, R119, R81, R74, R125, R150, R175, R163). -/
structure PortRecord where
  state : PortState := .offline
  condition : Condition := .none
  capability : Nat := 0
  receiver : Receiver := .hunting
  transmitter : Transmitter := {}
  cut : CutFrame := {}
  counters : LineCounters := {}
  probeTimer : Timer := none
  holdLevel : Nat := 0
  yieldPending : Bool := false
  job : Option Slot := none
  grantNumber : Nat := 0
  print : PrintService := {}
  scan : ScanService := {}
  hold : HoldService := {}
  zones : Vector Zone 16 := Vector.replicate 16 {}
  contacts : Vector Contact 10 := Vector.replicate 10 .none
  discards : Discards := {}
  deriving DecidableEq, Repr

/-! ### The whole part -/

/-- A whole sweep in progress: timed or nudged, and the station it visits next; 32 when its closing steps are due
(R40, R42). -/
structure Sweep where
  nudged : Bool
  next : Nat
  deriving DecidableEq, Repr, Inhabited

/-- What no service, queue or finish operation changes: the engine and its STATUS fields, the clock unit's timers, the
sweeper's timing and samples, the working copy, and the host's enables. -/
structure Control where
  engine : Engine := .wiping
  startPhase : StartPhase := .idle
  lastCommand : Command := .none
  lastOutcome : CommandOutcome := .none
  refusalReason : RefusalReason := .none
  configResult : ConfigResult := .none
  errorSubject : Nat := 0
  mask : BitVec 8 := 0
  messagesEnabled : Bool := false
  messagesSent : Nat := 0
  clock : Stamp := 0
  nudgeVisits : Vector Bool 32 := Vector.replicate 32 false
  nudgeSweep : Bool := false
  work : WorkingCopy := {}
  samples : Vector StationSample 32 := Vector.replicate 32 {}
  sweep : Option Sweep := none
  sweepTimer : Timer := none
  sweepHeld : Bool := false
  decayTimer : Timer := none
  deriving DecidableEq, Repr

/-- The MODEL's count of the free values drawn: the contents of exchange memory at a power-on, and the slots that a START
rebuild has taken (log entries 4 and 5). -/
structure FreeValues where
  drawn : Nat := 0
  deriving DecidableEq, Repr, Inhabited

/-- The state of the block. `notice` holds the sticky bits of NOTICE in their positions, its bit 0 always clear
(R5); `pending` is the queue of the commands that wait, first in, first out. -/
structure State where
  ctl : Control
  mem : Memory
  notice : BitVec 8
  stationNotice : Word
  slots : Vector SlotShadow 128
  queues : Vector (List Slot) 8
  deadlines : List Slot
  stats : Vector PoolStats 8
  stations : Vector StationCounters 32
  ports : Vector PortRecord 12
  marks : Vector BlockMark 896
  spare : List Nat
  mailboxes : Vector (Vector Mailbox 4) 32
  free : FreeValues
  pending : List Instr
  deriving DecidableEq, Repr

/-- The reasons a step stops with a fault. All are raised by the access commands of Machine/HostAccess.lean and are
safe: the manual describes no such access, so the model stops where no behaviour is given (log entry 22). -/
inductive Fault where
  /-- An exchange or register access at an offset that is not a multiple of 4; raised by
  HOST_EXCHANGE_MEMORY_WRITE and REGISTER_WRITE_IGNORED; safe. -/
  | misaligned (offset : Nat)
  /-- An access at or above the end of exchange memory (R9: 128 KiB); raised by HOST_EXCHANGE_MEMORY_WRITE;
  safe. -/
  | outsideExchangeMemory (offset : Nat)
  /-- An access at or above the end of the register window (R202: 64 bytes); raised by REGISTER_WRITE_IGNORED;
  safe. -/
  | outsideRegisterWindow (offset : Nat)
  deriving DecidableEq, Repr

/-- The reasons a step is refused. -/
inductive Refusal where
  /-- A command whose row has no meaning in the model: raised by no arm, since every row has one; safe. -/
  | notModelled (mnemonic : String)
  deriving DecidableEq, Repr

/-- The part right after the power-on reset: WIPING, every register and record at its power-on value (R3, R5 to R8,
R13, R21, R22), exchange memory with nothing listed (log entries 5, 9, 15, 25). -/
def State.reset : State where
  ctl := {}
  mem := []
  notice := 0
  stationNotice := 0
  slots := Vector.replicate 128 {}
  queues := Vector.replicate 8 []
  deadlines := []
  stats := Vector.replicate 8 {}
  stations := Vector.replicate 32 {}
  ports := Vector.replicate 12 {}
  marks := Vector.replicate 896 .outside
  spare := []
  mailboxes := Vector.replicate 32 (Vector.replicate 4 {})
  free := {}
  pending := []

end Sys2Proof.Machine
end

