-- ==== Sys2Proof/Machine/Memory.lean ====
section
/-! DEFINITION. Exchange memory: bytes, little-endian words, blocks of bytes, and its canonical form (R9, R193). -/

namespace Sys2Proof.Machine

/-- The byte at an address. What an unlisted address reads as is 0 (R13; log entry 5). -/
def readByte : Memory → Nat → Byte
  | [], _ => 0
  | (k, v) :: rest, a => if k = a then v else readByte rest a

/-- Put a byte into a sorted list, listing no zero. -/
def insertByte : Memory → Nat → Byte → Memory
  | [], a, b => if b = 0 then [] else [(a, b)]
  | (k, v) :: rest, a, b =>
    if a < k then (if b = 0 then (k, v) :: rest else (a, b) :: (k, v) :: rest)
    else if a = k then (if b = 0 then rest else (a, b) :: rest)
    else (k, v) :: insertByte rest a b

/-- Write a byte. There is no byte outside the 128 KiB (R9). -/
def writeByte (m : Memory) (a : Nat) (b : Byte) : Memory :=
  if a < Config.exchangeBytes then insertByte m a b else m

/-- The little-endian word at an address (R193). -/
def readWord (m : Memory) (a : Nat) : Word :=
  readByte m (a + 3) ++ readByte m (a + 2) ++ readByte m (a + 1) ++ readByte m a

/-- Write a little-endian word (R9, R193). -/
def writeWord (m : Memory) (a : Nat) (w : Word) : Memory :=
  writeByte (writeByte (writeByte (writeByte m a (w.extractLsb' 0 8)) (a + 1) (w.extractLsb' 8 8))
    (a + 2) (w.extractLsb' 16 8)) (a + 3) (w.extractLsb' 24 8)

/-- Write a word where its old value and its new one differ. -/
def rewriteWord (m : Memory) (a : Nat) (old new : Word) : Memory := if old = new then m else writeWord m a new

/-- Write the words of a list, each at its offset from an address. -/
def writeWords (m : Memory) (a : Nat) (words : List (Nat × Word)) : Memory :=
  words.foldl (fun m w => writeWord m (a + w.1) w.2) m

/-- Write those words of a list that differ from the words of another list in the same places. -/
def rewriteWords (m : Memory) (a : Nat) (old new : List (Nat × Word)) : Memory :=
  (old.zip new).foldl (fun m w => rewriteWord m (a + w.2.1) w.1.2 w.2.2) m

/-- The addresses of a memory rise strictly from above `low`, and no byte listed is 0. -/
def risingFrom : Nat → Memory → Bool
  | _, [] => true
  | low, (k, v) :: rest => decide (low ≤ k) && decide (v ≠ 0) && decide (k < Config.exchangeBytes) &&
      risingFrom (k + 1) rest

/-- The canonical form of exchange memory. -/
def Memory.wf (m : Memory) : Bool := risingFrom 0 m

/-- The memory that holds the bytes of a list and 0 elsewhere. -/
def memoryOf (bytes : List (Nat × Byte)) : Memory :=
  bytes.foldl (fun m c => writeByte m c.1 c.2) []

/-- The `n` bytes from an address on. -/
def readBytes (m : Memory) (a n : Nat) : List Byte := (List.range n).map fun i => readByte m (a + i)

/-- Field of `n` bits from bit `low` of a word, as a number. -/
def field (w : Word) (low n : Nat) : Nat := (w.extractLsb' low n).toNat

/-- A number placed in the `n` bits from bit `low` of a word of zeros. -/
def place (v low n : Nat) : Word := (BitVec.ofNat n v).setWidth 32 <<< low

/-- The word `w` with the `n` bits from bit `low` replaced (the merge of R194). -/
def merge (w : Word) (v low n : Nat) : Word := (w &&& ~~~(place (2 ^ n - 1) low n)) ||| place v low n

end Sys2Proof.Machine
end

