-- ==== Sys2Proof/Machine/Ops.lean ====
section
/-! DEFINITION. The named operations over the state: one for each list, register and record, which every meaning is
written with. Each changes the one thing it names; those that the manual mirrors to exchange memory write the mirror
with it. -/

namespace Sys2Proof.Machine

/-! ### Numbers and addresses (R193) -/

def allStations : List Station := List.finRange 32
def allPorts : List Port := List.finRange 12
def allPools : List Pool := List.finRange 8
def allSlots : List Slot := List.finRange 128
def fourIndices : List (Fin 4) := List.finRange 4

/-- The station of a slot (00_scope, 0.4). -/
def stationOf (g : Slot) : Station := ⟨g.val / 4, by omega⟩

/-- Slot index i of station s is slot s × 4 + i (00_scope, 0.4). -/
def slotOf (st : Station) (i : Fin 4) : Slot := ⟨st.val * 4 + i.val, by omega⟩

def portAddress (p : Port) : Nat := 0x0100 + p.val * 32
def poolAddress (q : Pool) : Nat := 0x0280 + q.val * 32
def stationAddress (st : Station) : Nat := 0x0380 + st.val * 32
def zoneAddress (p : Port) (z : Nat) : Nat := 0x0780 + p.val * 128 + z * 8
def mailboxAddress (st : Station) (r : Fin 4) : Nat := 0x0D80 + st.val * 64 + r.val * 16
def slotAddress (g : Slot) : Nat := 0x2000 + g.val * 64
def blockAddress (b : Nat) : Nat := 0x4000 + (b - 1) * 128

/-- A count raised by `n` that stays at `limit` instead of wrapping (00_scope, 0.4). -/
def saturate (limit count n : Nat) : Nat := min limit (count + n)

def max16 : Nat := 65535
def max32 : Nat := 4294967295

/-! ### Time (R49 to R51) -/

/-- (later − earlier) mod 2^32 (R49). -/
def interval (later earlier : Stamp) : Nat := (later - earlier).toNat

/-- The reach test (R50). -/
def reached (clock target : Stamp) : Bool := decide (interval clock target < 2 ^ 31)

/-- A running timer whose expiry stamp the clock has reached (R51). -/
def timerReached (clock : Stamp) : Timer → Bool
  | none => false
  | some e => reached clock e

/-- A timer started with a period in ms (R51). -/
def startTimer (clock : Stamp) (period : Nat) : Timer := some (clock + BitVec.ofNat 32 period)

/-! ### Exchange memory -/

def State.word (s : State) (a : Nat) : Word := readWord s.mem a

def State.putWord (s : State) (a : Nat) (w : Word) : State := { s with mem := writeWord s.mem a w }

/-- Write a mirror word where a value that it shows has changed: the mirrors that are written "at each change" (R80, R112, R113,
R163). -/
def State.remirror (s : State) (a : Nat) (old new : Word) : State := { s with mem := rewriteWord s.mem a old new }

/-- Write those mirror words of an entry that show a changed value. -/
def State.remirrorAll (s : State) (a : Nat) (old new : List (Nat × Word)) : State :=
  { s with mem := rewriteWords s.mem a old new }

/-- Write every mirror word of an entry. -/
def State.putWords (s : State) (a : Nat) (words : List (Nat × Word)) : State :=
  { s with mem := writeWords s.mem a words }

def State.putByte (s : State) (a : Nat) (b : Byte) : State := { s with mem := writeByte s.mem a b }

/-! ### Control registers -/

def State.setControl (s : State) (f : Control → Control) : State := { s with ctl := f s.ctl }

/-! ### Notices (R5, R6) -/

/-- The sticky bits of NOTICE (R5). -/
inductive NoticeBit where
  | engine | spareLow | spareEmpty | refill | portDown | portUp | handover
  deriving DecidableEq, Repr

/-- The mask of a sticky bit in NOTICE (R202). -/
def noticeMask : NoticeBit → BitVec 8
  | .engine => 0x02
  | .spareLow => 0x04
  | .spareEmpty => 0x08
  | .refill => 0x10
  | .portDown => 0x20
  | .portUp => 0x40
  | .handover => 0x80

def State.setNotice (s : State) (b : NoticeBit) : State := { s with notice := s.notice ||| noticeMask b }

/-- The mask of a station's bit in STATION_NOTICE (R202). -/
def stationMask (st : Station) : Word := 1 <<< st.val

def State.setStationNotice (s : State) (st : Station) : State :=
  { s with stationNotice := s.stationNotice ||| stationMask st }

/-! ### Stations -/

def State.sample (s : State) (st : Station) : StationSample := s.ctl.samples[st.val]

def State.counters (s : State) (st : Station) : StationCounters := s.stations[st.val]

def State.setCounters (s : State) (st : Station) (c : StationCounters) : State :=
  { s with stations := s.stations.set st.val c }

/-- The mirror word of the handover fault and jobs-finished counts (R197). -/
def tallyWord (c : StationCounters) : Word := place c.handoverFaults 0 16 ||| place c.jobsFinished 16 16

/-- The mirror word of the usage score and the overflow count (R197). -/
def scoreWord (c : StationCounters) : Word := place c.usage 0 16 ||| place c.overflow 16 16

/-- The two mirror words of a station entry: the handover fault and jobs-finished counts, the usage score and the overflow
count (R197). -/
inductive CounterPair where
  | tallies | scores
  deriving DecidableEq, Repr

/-- The offset of a mirror word in its station entry (R197). -/
def CounterPair.offset : CounterPair → Nat
  | .tallies => 0x08
  | .scores => 0x0C

/-- A mirror word of a station's counters (R197). -/
def CounterPair.word : CounterPair → StationCounters → Word
  | .tallies => tallyWord
  | .scores => scoreWord

/-- Change a station's counters and write the mirror word of a pair, also where its counts stand at their maximum or by a charge
of 0 points: a finish, a charge, a handover fault and an overflow each write their mirror (R28, R172, R182, R186, R188). -/
def State.updateCounters (s : State) (st : Station) (pair : CounterPair) (f : StationCounters → StationCounters) : State :=
  let c := f (s.counters st)
  (s.setCounters st c).putWord (stationAddress st + pair.offset) (pair.word c)

/-- Set a station's counters to 0 and write the zeros to their mirrors (R16). -/
def State.clearCounters (s : State) (st : Station) : State :=
  ((s.setCounters st {}).putWord (stationAddress st + 0x08) 0).putWord (stationAddress st + 0x0C) 0

/-! ### Slots -/

def State.slot (s : State) (g : Slot) : SlotShadow := s.slots[g.val]

def State.job (s : State) (g : Slot) : JobRecord := (s.slot g).job

def State.setSlot (s : State) (g : Slot) (x : SlotShadow) : State := { s with slots := s.slots.set g.val x }

def State.updateJob (s : State) (g : Slot) (f : JobRecord → JobRecord) : State :=
  s.setSlot g { s.slot g with job := f (s.job g) }

/-- The owner codes (R199). -/
def ownerCode : SlotState → Word
  | .empty => 0
  | .posted => 1
  | .queued => 2
  | .serving => 3
  | .finished => 4

/-- A slot with its shadow EMPTY and its records cleared; the codes of its last finish stay (R16, R21, R29). -/
def clearShadow (x : SlotShadow) : SlotShadow := { codes := x.codes }

/-- The part's copy of the outcome and the detail that a finish writes (R10). -/
def State.setCodes (s : State) (g : Slot) (o : JobOutcome) (d : Detail) : State :=
  s.setSlot g { s.slot g with codes := { outcome := o, detail := d } }

/-- The state of a slot's shadow without its owner field: the changes in which the part writes nothing to the slot
(R29, R16). -/
def State.setShadow (s : State) (g : Slot) (x : SlotState) : State := s.setSlot g { s.slot g with state := x }

/-- A change of shadow state that writes the same code into the owner field in the same event (R22). -/
def State.handSlot (s : State) (g : Slot) (x : SlotState) : State :=
  (s.setShadow g x).putWord (slotAddress g) (ownerCode x)

/-! ### Pools -/

def State.queue (s : State) (q : Pool) : List Slot := s.queues[q.val]

def State.pool (s : State) (q : Pool) : PoolConfig := s.ctl.work.pools[q.val]

def State.portConfig (s : State) (p : Port) : PortConfig := s.ctl.work.ports[p.val]

/-- The member ports of a pool (R60). -/
def State.members (s : State) (q : Pool) : List Port :=
  allPorts.filter fun p => (s.portConfig p).cls ≠ .none && (s.portConfig p).pool = q

/-- The class of a pool: that of its member ports, NONE without members (R14, R60). -/
def State.poolClass (s : State) (q : Pool) : PortClass :=
  match s.members q with
  | [] => .none
  | p :: _ => (s.portConfig p).cls

/-- Replace a pool's queue and write the queue-length mirror, merged into its word (R79, R80, R194). -/
def State.setQueue (s : State) (q : Pool) (l : List Slot) : State :=
  { s with
    queues := s.queues.set q.val l
    mem := writeWord s.mem (poolAddress q) (merge (readWord s.mem (poolAddress q)) l.length 24 8) }

def State.setDeadlines (s : State) (l : List Slot) : State := { s with deadlines := l }

def State.poolStats (s : State) (q : Pool) : PoolStats := s.stats[q.val]

def State.setStats (s : State) (q : Pool) (x : PoolStats) : State := { s with stats := s.stats.set q.val x }

/-- The mirror words of a pool's statistics with their offsets in its entry (R197). -/
def statWords (x : PoolStats) : List (Nat × Word) :=
  [(0x04, BitVec.ofNat 32 x.granted), (0x08, BitVec.ofNat 32 x.regrants), (0x0C, BitVec.ofNat 32 x.waitTotal),
    (0x10, BitVec.ofNat 32 x.waitMax), (0x14, BitVec.ofNat 32 x.preemptions), (0x18, BitVec.ofNat 32 x.faultRequeues),
    (0x1C, BitVec.ofNat 32 x.expiries)]

/-- Change a pool's statistics and write the mirrors of those that change (R80). -/
def State.updateStats (s : State) (q : Pool) (f : PoolStats → PoolStats) : State :=
  let x := s.poolStats q
  (s.setStats q (f x)).remirrorAll (poolAddress q) (statWords x) (statWords (f x))

/-- Set a pool's statistics to 0 and write the zeros to their mirrors (R16). -/
def State.clearStats (s : State) (q : Pool) : State := (s.setStats q {}).putWords (poolAddress q) (statWords {})

/-! ### Ports -/

def State.port (s : State) (p : Port) : PortRecord := s.ports[p.val]

def State.setPort (s : State) (p : Port) (x : PortRecord) : State := { s with ports := s.ports.set p.val x }

def State.modifyPort (s : State) (p : Port) (f : PortRecord → PortRecord) : State := s.setPort p (f (s.port p))

/-- The code of a port state (R197). -/
def portStateCode : PortState → Nat
  | .offline => 0
  | .probing => 1
  | .free => 2
  | .serving => 3
  | .faulted => 4

/-- The code of a condition (R197). -/
def conditionCode : Condition → Nat
  | .none => 0
  | .ready => 1
  | .busy => 2
  | .paperOut => 3
  | .jam => 4
  | .coverOpen => 5
  | .lampFail => 6
  | .panelFault => 7
  | .lineRefused => 8
  | .lineSilent => 9

/-- The mirror word of a port's state, condition and capability (R113, R197). -/
def portMirrorWord (x : PortRecord) : Word :=
  place (portStateCode x.state) 0 8 ||| place (conditionCode x.condition) 8 8 ||| place x.capability 16 8

/-- Write the state, condition and capability mirrors of a port (R113). -/
def State.mirrorPort (s : State) (p : Port) : State := s.putWord (portAddress p + 0x08) (portMirrorWord (s.port p))

/-- Change a port's state, with its condition and capability, and write the three mirrors, as its rule says (R20, R74, R114,
R118, R120, R121). -/
def State.updatePort (s : State) (p : Port) (f : PortRecord → PortRecord) : State :=
  (s.modifyPort p f).mirrorPort p

/-- Set a port's condition or capability; the mirrors are written "at each change" (R113), so a value that the port already
held writes none (DEDUCED, log entry 32). -/
def State.notePort (s : State) (p : Port) (f : PortRecord → PortRecord) : State :=
  (s.modifyPort p f).remirror (portAddress p + 0x08) (portMirrorWord (s.port p)) (portMirrorWord (f (s.port p)))

/-- The mirror words of a port's line counters with their offsets in its entry (R197). -/
def lineWords (c : LineCounters) : List (Nat × Word) :=
  [(0x0C, BitVec.ofNat 32 c.noise), (0x10, BitVec.ofNat 32 c.framing), (0x14, BitVec.ofNat 32 c.check),
    (0x18, BitVec.ofNat 32 c.resend)]

/-- Change a port's line counters and write the mirrors of those that change (R112). -/
def State.updateLineCounters (s : State) (p : Port) (f : LineCounters → LineCounters) : State :=
  let c := (s.port p).counters
  (s.modifyPort p fun x => { x with counters := f c }).remirrorAll (portAddress p) (lineWords c) (lineWords (f c))

/-- Set a port's line counters to 0 and write the zeros to their mirrors (R16, R112). -/
def State.clearLineCounters (s : State) (p : Port) : State :=
  (s.modifyPort p fun x => { x with counters := {} }).putWords (portAddress p) (lineWords {})

/-- The mirror words of a panel's discard counters with their offsets in its entry (R195). -/
def discardWords (d : Discards) : List (Nat × Word) :=
  [(0, place d.unrouted 0 16 ||| place d.closed 16 16), (4, place d.stray 0 16 ||| place d.malformed 16 16)]

/-- The address of a port's discard counts in the hall header (R195). -/
def discardAddress (p : Port) : Nat := 0x40 + p.val * 8

/-- Change a panel's discard counters and write the mirrors of those that change (R163). -/
def State.updateDiscards (s : State) (p : Port) (f : Discards → Discards) : State :=
  let d := (s.port p).discards
  (s.modifyPort p fun x => { x with discards := f d }).remirrorAll (discardAddress p) (discardWords d)
    (discardWords (f d))

/-- Set a port's discard counters to 0 and write the zeros to their mirrors (R16, R163, R196). -/
def State.clearDiscards (s : State) (p : Port) : State :=
  (s.modifyPort p fun x => { x with discards := {} }).putWords (discardAddress p) (discardWords {})

/-- A port whose state is SERVING. -/
def State.isServing (s : State) (p : Port) : Bool := (s.port p).state == .serving

/-- Some port is SERVING. -/
def State.anyServing (s : State) : Bool := allPorts.any s.isServing

/-! ### Blocks -/

/-- An index in 1..896 (R139). -/
def isBlock (b : Nat) : Bool := decide (1 ≤ b ∧ b ≤ Config.blocks)

/-- A block's mark (R139). -/
def State.mark (s : State) (b : Nat) : BlockMark :=
  if h : 1 ≤ b ∧ b ≤ 896 then s.marks[b - 1] else .outside

def State.setMark (s : State) (b : Nat) (m : BlockMark) : State :=
  if h : 1 ≤ b ∧ b ≤ 896 then { s with marks := s.marks.set (b - 1) m } else s

def State.setSpare (s : State) (l : List Nat) : State := { s with spare := l }

/-! ### Mailboxes -/

def State.mailbox (s : State) (st : Station) (r : Fin 4) : Mailbox := s.mailboxes[st.val][r.val]

def State.setMailbox (s : State) (st : Station) (r : Fin 4) (m : Mailbox) : State :=
  { s with mailboxes := s.mailboxes.set st.val (s.mailboxes[st.val].set r.val m) }

/-! ### The model's free values -/

/-- One more free value is drawn (log entries 4 and 5). -/
def State.drawFree (s : State) : State := { s with free := { drawn := s.free.drawn + 1 } }

end Sys2Proof.Machine
end

