-- ==== Sys2Proof/Machine/Flags.lean ====
section
/-! DEFINITION. Flags: the interrupt request and its message (R7), and the result word with its clamp and validity
flags (R183, R199). -/

namespace Sys2Proof.Machine

/-! ### The interrupt (R5, R7) -/

/-- NOTICE as it reads: bit 0, STATIONS, is 1 while STATION_NOTICE is not zero (R5, R202). -/
def State.noticeWord (s : State) : BitVec 8 :=
  s.notice ||| (if s.stationNotice = 0 then 0 else 1)

/-- The interrupt request: some NOTICE bit and its enable are both 1 (R7). -/
def State.request (s : State) : Bool := decide (s.noticeWord &&& s.ctl.mask ≠ 0)

/-- A message is sent where the request rises over one event while messages are enabled (R7, R188). -/
def settleInterrupt (before after : State) : State :=
  if !before.request && after.request && after.ctl.messagesEnabled then
    after.setControl fun c => { c with messagesSent := c.messagesSent + 1 }
  else after

/-! ### The result word (R183, R199) -/

/-- The validity flags, in the order of the result word's bits 24 to 30 (R199). -/
structure Validity where
  accept : Bool := false
  firstGrant : Bool := false
  port : Bool := false
  sheets : Bool := false
  scanStore : Bool := false
  scanReport : Bool := false
  contacts : Bool := false
  deriving DecidableEq, Repr

def outcomeCode : JobOutcome → Nat
  | .none => 0
  | .refused => 1
  | .cancelled => 2
  | .expired => 3
  | .done => 4
  | .doneShort => 5
  | .failed => 6

def detailCode : Detail → Nat
  | .none => 0
  | .stationClosed => 1
  | .noPriority => 2
  | .badClass => 3
  | .badPool => 4
  | .notPermitted => 5
  | .badChain => 6
  | .chainLoop => 7
  | .chainConflict => 8
  | .badParam => 9
  | .beforeAccept => 10
  | .byHost => 11
  | .engineStop => 12
  | .reset => 13
  | .notGranted => 14
  | .starved => 15
  | .truncated => 16
  | .countMismatch => 17
  | .portFaults => 18

/-- The clamp flags as a number, URGENCY in bit 0 (R199). -/
def clampBits (c : ClampFlags) : Nat :=
  c.urgency.toNat + 2 * c.copies.toNat + 4 * c.resolution.toNat + 8 * c.maxBytes.toNat + 16 * c.duration.toNat

/-- The validity flags as a number, the accept stamp's in bit 0 (R199). -/
def validityBits (v : Validity) : Nat :=
  v.accept.toNat + 2 * v.firstGrant.toNat + 4 * v.port.toNat + 8 * v.sheets.toNat + 16 * v.scanStore.toNat +
    32 * v.scanReport.toNat + 64 * v.contacts.toNat

/-- The result word at 0x18 of a slot, reserved bits 0 (R194, R199). -/
def resultWord (outcomeAndDetail : Nat) (clamps : Nat) (v : Validity) : Word :=
  place outcomeAndDetail 0 16 ||| place clamps 16 5 ||| place (validityBits v) 24 7

/-- Outcome in bits 0 to 7, detail in bits 8 to 15 (R199). -/
def outcomePair (o : JobOutcome) (d : Detail) : Nat := outcomeCode o + 256 * detailCode d

/-- The part's copy of a slot's codes, as the result word has them (R10, R199). -/
def codesPair (c : ResultCodes) : Nat := outcomePair c.outcome c.detail

end Sys2Proof.Machine
end

