-- ==== Sys2Proof/Machine/Operands.lean ====
section
/-! DEFINITION. What the part reads from exchange memory, field by field with the clamps of the rule that uses the
field: the configuration (R14), a station entry (R25), a zone (R164), a request (R30, R33), a block header (R200). -/

namespace Sys2Proof.Machine

/-! ### Configuration (R14, R195, R197) -/

/-- Class codes (R197). -/
def classOfCode : Nat → PortClass
  | 0 => .none
  | 1 => .printer
  | 2 => .scanner
  | 3 => .panel
  | _ => .bad

/-- A value whose 0 stands for a default (R14). -/
def orDefault (v default : Nat) : Nat := if v = 0 then default else v

/-- The sweep interval's clamp: 0 gives 20, above 250 gives 250. R14 states no case for 1..19, which its used range
20..250 leaves out; R41 has the value "clamped into 20..250 ms", so they give 20 (log entry 23). -/
def clampSweepInterval (v : Nat) : Nat := max 20 (min 250 v)

def readPortConfig (m : Memory) (p : Port) : PortConfig :=
  let w0 := readWord m (portAddress p)
  let w4 := readWord m (portAddress p + 0x04)
  { cls := classOfCode (field w0 0 8)
    pool := ⟨min 7 (field w0 8 8), by omega⟩
    rate := min 3 (field w0 16 8)
    probeInterval := orDefault (field w0 24 8) 2
    responseTimeout := orDefault (field w4 0 16) 100
    sheetTimeout := orDefault (field w4 16 8) 30
    starveLimit := orDefault (field w4 16 8) 5 }

def readPoolConfig (m : Memory) (q : Pool) : PoolConfig :=
  let w := readWord m (poolAddress q)
  { agingStep := field w 0 16
    agingCap := min 63 (field w 16 7)
    preempt := field w 23 1 == 1 }

/-- The working copy of the configuration (R14). -/
def readWorkingCopy (m : Memory) : WorkingCopy :=
  { sweepInterval := clampSweepInterval (field (readWord m 0x00) 0 16)
    decayPeriod := field (readWord m 0x00) 16 8
    lowWater := min 896 (field (readWord m 0x04) 0 16)
    ports := Vector.ofFn (readPortConfig m)
    pools := Vector.ofFn (readPoolConfig m) }

/-! ### Stations (R25, R197) -/

/-- Station state codes; any other code is taken as CLOSED (R25). -/
def stationStateOfCode : Nat → StationState
  | 1 => .opened
  | 2 => .suspended
  | _ => .closed

/-- The sample of a station entry with its clamps (R25). -/
def readSample (m : Memory) (st : Station) : StationSample :=
  let w0 := readWord m (stationAddress st)
  let w4 := readWord m (stationAddress st + 0x04)
  { state := stationStateOfCode (field w0 0 8)
    basePriority := min 200 (field w0 8 8)
    shareWeight := max 1 (min 15 (field w0 16 8))
    groupCeiling := field w0 24 8
    mayPrint := field w4 0 1 == 1
    mayScan := field w4 1 1 == 1
    mayHold := field w4 2 1 == 1
    notify := field w4 4 1 == 1 }

/-! ### Zones (R164, R198) -/

/-- A zone as sampled, its coordinates clamped to 4095 (R164). -/
def readZone (m : Memory) (p : Port) (z : Nat) : Zone :=
  let w0 := readWord m (zoneAddress p z)
  let w4 := readWord m (zoneAddress p z + 0x04)
  { x0 := min 4095 (field w0 0 13)
    y0 := min 4095 (field w0 13 13)
    x1 := min 4095 (field w4 0 13)
    y1 := min 4095 (field w4 13 13)
    station := field w0 26 6
    enabled := field w4 26 1 == 1 }

/-! ### Requests (R30, R33, R199) -/

/-- The request fields and the cancel byte of a slot, as read once at the examination that accepts (R30). -/
structure Request where
  cancel : Nat
  cls : Option JobClass
  pool : Nat
  urgency : Nat
  deadline : Nat
  firstBlock : Nat
  copies : Nat
  mode : Nat
  resolution : Nat
  maxBytes : Nat
  duration : Nat
  deriving DecidableEq, Repr

/-- Class codes of a slot (R199). -/
def jobClassOfCode : Nat → Option JobClass
  | 1 => some .print
  | 2 => some .scan
  | 3 => some .hold
  | _ => none

def readRequest (m : Memory) (g : Slot) : Request :=
  let w4 := readWord m (slotAddress g + 0x04)
  let wC := readWord m (slotAddress g + 0x0C)
  { cancel := field w4 0 8
    cls := jobClassOfCode (field w4 8 8)
    pool := field w4 16 8
    urgency := field w4 24 8
    deadline := field (readWord m (slotAddress g + 0x08)) 0 16
    firstBlock := field wC 0 16
    copies := field wC 16 8
    mode := field wC 0 8
    resolution := field wC 8 8
    maxBytes := (readWord m (slotAddress g + 0x10)).toNat
    duration := field wC 0 16 }

/-- The cancel byte of a slot (R199). -/
def readCancel (m : Memory) (g : Slot) : Nat := field (readWord m (slotAddress g + 0x04)) 0 8

/-- The clamp flags that acceptance sets (R33). -/
def clampFlagsOf (r : Request) : ClampFlags :=
  { urgency := decide (3 < r.urgency)
    copies := r.cls == some .print && decide (r.copies = 0 ∨ 9 < r.copies)
    resolution := r.cls == some .scan && decide (3 < r.resolution)
    maxBytes := r.cls == some .scan && decide (r.maxBytes = 0)
    duration := r.cls == some .hold && decide (r.duration = 0 ∨ 3600 < r.duration) }

/-- The clamped duration in seconds (R33). -/
def clampDuration (d : Nat) : Nat := max 1 (min 3600 d)

/-- The owner field's state, none for an undefined code (R199). -/
def ownerState (w : Word) : Option SlotState :=
  if w = 0 then some .empty
  else if w = 1 then some .posted
  else if w = 2 then some .queued
  else if w = 3 then some .serving
  else if w = 4 then some .finished
  else none

def readOwner (m : Memory) (g : Slot) : Option SlotState := ownerState (readWord m (slotAddress g))

/-! ### Block headers (R200) -/

def readLink (m : Memory) (b : Nat) : Nat := field (readWord m (blockAddress b)) 0 16

/-- The length field as the print service takes it: above 120 is taken as 120 (R127). -/
def readLength (m : Memory) (b : Nat) : Nat := min Config.blockData (field (readWord m (blockAddress b)) 16 16)

def readEndSheet (m : Memory) (b : Nat) : Bool := field (readWord m (blockAddress b + 0x04)) 0 1 == 1

/-- The first `n` data bytes of a block (R200). -/
def readData (m : Memory) (b n : Nat) : List Byte := readBytes m (blockAddress b + 0x08) n

/-! ### Result fields that the START rebuild reads (R16, R199) -/

/-- The class code of the slot is SCAN and its scan store validity flag is set (R16). -/
def holdsResultChain (m : Memory) (g : Slot) : Bool :=
  jobClassOfCode (field (readWord m (slotAddress g + 0x04)) 8 8) == some .scan &&
    field (readWord m (slotAddress g + 0x18)) 28 1 == 1

/-- The first result block of a slot (R199). -/
def readFirstResult (m : Memory) (g : Slot) : Nat := field (readWord m (slotAddress g + 0x2C)) 0 16

end Sys2Proof.Machine
end

