-- ==== Sys2Proof/Machine/Line.lean ====
section
/-! DEFINITION. The peripheral lines: the samples of a character (R98, R99), frames and their check (R100 to R104), and
the transmitter (R106 to R111). -/

namespace Sys2Proof.Machine

/-! ### Characters (R98, R99) -/

/-- The quality of a received character (R99). -/
inductive Quality where
  | good | noisy | framing
  deriving DecidableEq, Repr

/-- A qualified character: data byte, mark bit, quality (R99). -/
structure Character where
  data : Byte
  mark : Bool
  quality : Quality
  deriving DecidableEq, Repr

/-- The value of a bit: the majority of its three samples (R98). -/
def majority (b : BitSamples) : Bool := b.first && b.second || b.first && b.third || b.second && b.third

/-- The three samples of a bit disagree (R98). -/
def disagrees (b : BitSamples) : Bool := !(b.first == b.second && b.second == b.third)

/-- The data byte of a character, least significant bit first (R97). -/
def sampledByte (bits : List BitSamples) : Byte :=
  BitVec.ofNat 8 (bits.foldr (fun b rest => (majority b).toNat + 2 * rest) 0)

/-- The character that the samples give: none for a false start; FRAMING where the stop bit is low, else NOISY where
some bit's samples disagree, else GOOD (R98, R99). -/
def qualify (c : LineCharacter) : Option Character :=
  if majority c.start then none
  else
    let noisy := disagrees c.start || c.data.toList.any disagrees || disagrees c.mark || disagrees c.stop
    some
      { data := sampledByte c.data.toList
        mark := majority c.mark
        quality := if !majority c.stop then .framing else if noisy then .noisy else .good }

/-! ### Frames (R100, R104, R201) -/

/-- Kind code, length and payload of a frame's characters, checked by their sum (R100). -/
def frameSum (kind : Byte) (payload : List Byte) : Nat :=
  kind.toNat + payload.length + (payload.map BitVec.toNat).sum

/-- The check character of a frame (R100). -/
def checkOf (kind : Byte) (payload : List Byte) : Byte :=
  BitVec.ofNat 8 ((256 - frameSum kind payload % 256) % 256)

/-- The receiver accepts the check (R100). -/
def checkHolds (kind : Byte) (payload : List Byte) (check : Byte) : Bool :=
  (frameSum kind payload + check.toNat) % 256 == 0

/-- The characters of a frame, each with its mark bit: header, length, payload, check (R97, R201). -/
def frameCharacters (kind : Byte) (payload : List Byte) : List (Byte × Bool) :=
  (kind, true) :: (BitVec.ofNat 8 payload.length, false) ::
    (payload.map fun b => (b, false)) ++ [(checkOf kind payload, false)]

/-- A frame that a peripheral sends, with its payload's fields (R104, R201). -/
inductive PeripheralFrame where
  | ack
  | nak
  | state (condition capability : Byte)
  | sheet
  | image (data : List Byte)
  | imageEnd (total : Word)
  | contact (reports : List ContactReport)
  deriving DecidableEq, Repr

/-- The reports of a CONTACT payload, seven bytes each (R201). -/
def parseReports : List Byte → Option (List ContactReport)
  | [] => some []
  | i :: ph :: x0 :: x1 :: y0 :: y1 :: pr :: rest =>
    (parseReports rest).map fun more =>
      { id := i, phase := ph, x := x1 ++ x0, y := y1 ++ y0, pressure := pr } :: more
  | _ => none

/-- The frame of a kind code and payload, none where the kind is not one of the seven or the length does not suit it
(R103, R104, R201). -/
def parseFrame (kind : Byte) (payload : List Byte) : Option PeripheralFrame :=
  if kind = 0x10 then (if payload = [] then some .ack else none)
  else if kind = 0x11 then (if payload = [] then some .nak else none)
  else if kind = 0x20 then
    match payload with
    | [c, k] => some (.state c k)
    | _ => none
  else if kind = 0x21 then (if payload = [] then some .sheet else none)
  else if kind = 0x22 then
    (if 1 ≤ payload.length ∧ payload.length ≤ 120 then some (.image payload) else none)
  else if kind = 0x23 then
    match payload with
    | [b0, b1, b2, b3] => some (.imageEnd (b3 ++ b2 ++ b1 ++ b0))
    | _ => none
  else if kind = 0x24 then
    (if 7 ≤ payload.length ∧ payload.length ≤ 70 then (parseReports payload).map .contact else none)
  else none

/-- The condition of a STATE code (R197, R201). -/
def conditionOfCode : Nat → Option Condition
  | 1 => some .ready
  | 2 => some .busy
  | 3 => some .paperOut
  | 4 => some .jam
  | 5 => some .coverOpen
  | 6 => some .lampFail
  | 7 => some .panelFault
  | _ => none

/-- The conditions that a class of port reports (R115). -/
def reports : PortClass → Condition → Bool
  | .printer, c => c == .ready || c == .busy || c == .paperOut || c == .jam || c == .coverOpen
  | .scanner, c => c == .ready || c == .busy || c == .jam || c == .lampFail || c == .coverOpen
  | .panel, c => c == .ready || c == .busy || c == .panelFault
  | _, _ => false

/-- The condition of a STATE that is good at a port of the class (R103, R115). -/
def goodCondition (cls : PortClass) (code : Byte) : Option Condition :=
  match conditionOfCode code.toNat with
  | some c => if reports cls c then some c else none
  | none => none

/-- A frame whose length and content are good at a port of the class (R103). -/
def goodFrame (cls : PortClass) : PeripheralFrame → Bool
  | .state c _ => (goodCondition cls c).isSome
  | .image data => decide (1 ≤ data.length ∧ data.length ≤ 120)
  | .contact reports => decide (1 ≤ reports.length ∧ reports.length ≤ 10)
  | .ack | .nak | .sheet | .imageEnd _ => true

/-- The capability that a good STATE sets (R115). -/
def capabilityOf (cls : PortClass) (byte : Byte) : Nat :=
  match cls with
  | .scanner => min 3 byte.toNat
  | .panel => max 1 (min 10 byte.toNat)
  | _ => 0

/-- Kind codes of the frames that the part sends (R201). -/
def answerFrameKind : AnswerFrame → Byte
  | .ask => 0x01
  | .feed _ => 0x02
  | .openScan _ _ => 0x03
  | .closeScan => 0x04

def answerFramePayload : AnswerFrame → List Byte
  | .ask => []
  | .feed data => data
  | .openScan mode resolution => [mode, resolution]
  | .closeScan => []

def replyKindCode : ReplyKind → Byte
  | .pause => 0x05
  | .go => 0x06
  | .ack => 0x10
  | .nak => 0x11

/-- The characters of the frame that the transmitter is sending (R97, R100, R201). -/
def wireCharacters (t : Transmitter) : List (Byte × Bool) :=
  match t.sending with
  | .idle => []
  | .reply k => frameCharacters (replyKindCode k) []
  | .outstanding =>
    match t.outstanding with
    | some o => frameCharacters (answerFrameKind o.offered.frame) (answerFramePayload o.offered.frame)
    | none => []
  | .withdrawn f => frameCharacters (answerFrameKind f) (answerFramePayload f)

/-- The levels of a sent character's eleven bit-times, `true` for high: a low start bit, the data bits least significant
first, the mark bit, a high stop bit (R97). -/
def lineBits (c : Byte × Bool) : List Bool :=
  false :: ((List.range 8).map fun i => c.1.getLsbD i) ++ [c.2, true]

/-- The level at which a line rests between characters (R97). -/
def restLevel : Bool := true

/-- The characters that a port has on its line, in the order in which they are sent: the character that a cut-off frame had
in progress, then the frame that the transmitter is sending (R97, R106, R111). -/
def PortRecord.output (x : PortRecord) : List (Byte × Bool) := x.cut.character.toList ++ wireCharacters x.transmitter

/-- The level of a port's line in each bit-time of its output, and at rest after it (R97). -/
def PortRecord.level (x : PortRecord) (time : Nat) : Bool := (x.output.flatMap lineBits)[time]?.getD restLevel

/-- The frames are given up: of a frame that is being sent one character is in progress, and completes; nothing is in
progress on an idle transmitter (R106, R111). Which character it is, is a free value. DESIGN CHOICE, unsafe: a frame that an
idle transmitter takes up in the very event that gives it up has begun a character too, which the manual does not say (log
entry 9). -/
def cutFrame (p : Port) (x : PortRecord) : CutFrame :=
  match wireCharacters x.transmitter with
  | [] => x.cut
  | _ :: _ => { character := x.output[Config.cutPlace p (x.cut.count + 1) % x.output.length]?, count := x.cut.count + 1 }

/-! ### The transmitter (R106 to R111) -/

/-- The transmitter, when idle, chooses the next frame: the oldest reply, then the outstanding frame that awaits a send
(R106; a reply leaves the list when it is chosen, log entry 9). -/
def chooseNext (t : Transmitter) : Transmitter :=
  match t.sending with
  | .idle =>
    match t.replies with
    | k :: rest => { t with sending := .reply k, replies := rest }
    | [] =>
      match t.outstanding with
      | some o =>
        match o.phase with
        | .awaitingSend => { t with sending := .outstanding, outstanding := some { o with phase := .beingSent } }
        | _ => t
      | none => t
  | _ => t

/-- A reply placed in the reply list; one placed while the list holds four is not sent (R106). -/
def placeReply (k : ReplyKind) (t : Transmitter) : Transmitter :=
  if t.replies.length < 4 then chooseNext { t with replies := t.replies ++ [k] } else t

/-- A frame that expects an answer enters the outstanding place, or the waiting place if that is taken (R107); a frame
still in the waiting place gives way (log entry 10). -/
def offer (f : Offered) (t : Transmitter) : Transmitter :=
  match t.outstanding with
  | none => chooseNext { t with outstanding := some { offered := f, sends := 1, phase := .awaitingSend } }
  | some _ => { t with waiting := some f }

/-- The frame in the waiting place moves to the empty outstanding place (R108). -/
def moveUp (t : Transmitter) : Transmitter :=
  match t.outstanding, t.waiting with
  | none, some f =>
    chooseNext { t with outstanding := some { offered := f, sends := 1, phase := .awaitingSend }, waiting := none }
  | _, _ => t

/-- The outstanding frame, where it awaits its answer (R108). -/
def awaitedFrame (t : Transmitter) : Option Offered :=
  match t.outstanding with
  | some o => match o.phase with
    | .awaitingAnswer => some o.offered
    | _ => none
  | none => none

/-- The outstanding frame is completed: the response timer stops, the place empties, and the waiting frame moves up
(R108). -/
def completeFrame (t : Transmitter) : Transmitter := moveUp { t with outstanding := none, responseTimer := none }

/-- The outstanding frame is an ASK whose first send is not over (R106, R107). -/
def firstAskDue (t : Transmitter) : Bool :=
  match t.outstanding with
  | some o => o.offered.frame == .ask && o.sends == 1 && o.phase != .awaitingAnswer
  | none => false

/-- The outstanding frame is completed before its send is over (R122): one that awaits its send is not sent, one that is being
sent goes out whole and is not awaited (DESIGN CHOICE, log entry 30). -/
def completeUnsent (t : Transmitter) : Transmitter :=
  match t.outstanding with
  | some o =>
    match o.phase with
    | .beingSent => completeFrame { t with sending := .withdrawn o.offered.frame }
    | _ => completeFrame t
  | none => t

/-- The check character of the frame being sent has been sent (R107): an answer-expecting frame then awaits its answer
with the response timer started, and the next frame is chosen. -/
def frameDone (clock : Stamp) (timeout : Nat) (t : Transmitter) : Transmitter :=
  match t.sending with
  | .idle => t
  | .reply _ => chooseNext { t with sending := .idle }
  | .withdrawn _ => chooseNext { t with sending := .idle }
  | .outstanding =>
    match t.outstanding with
    | some o =>
      chooseNext { t with
        sending := .idle
        outstanding := some { o with phase := .awaitingAnswer }
        responseTimer := startTimer clock timeout }
    | none => chooseNext { t with sending := .idle }

/-- The current send ended without success and is not the third: the frame goes out again at its turn (R109). -/
def resendFrame (o : Outstanding) (t : Transmitter) : Transmitter :=
  chooseNext { t with
    outstanding := some { o with sends := o.sends + 1, phase := .awaitingSend }
    responseTimer := none }

/-- The outstanding frame is abandoned after its third send (R109). -/
def abandonOutstanding (t : Transmitter) : Transmitter := { t with outstanding := none, responseTimer := none }

/-- A port's transmitter gives up its frames (R111): every place and the reply list are emptied and the response timer
stopped; the character in progress completes. -/
def giveUpFrames (p : Port) (x : PortRecord) : PortRecord := { x with transmitter := {}, cut := cutFrame p x }

/-- A service's own OPEN-SCAN. -/
def isOpenScanOf (grant : Nat) (f : Offered) : Bool :=
  match f.frame with
  | .openScan _ _ => f.owner == .service grant
  | _ => false

/-- The OPEN-SCAN of a service is withdrawn from the place it holds (R158). -/
def withdrawOpenScan (grant : Nat) (t : Transmitter) : Transmitter :=
  match t.outstanding with
  | some o =>
    if isOpenScanOf grant o.offered then
      match o.phase with
      | .awaitingSend => moveUp { t with outstanding := none }
      | .beingSent => moveUp { t with outstanding := none, sending := .withdrawn o.offered.frame }
      | .awaitingAnswer => moveUp { t with outstanding := none, responseTimer := none }
    else
      match t.waiting with
      | some f => if isOpenScanOf grant f then { t with waiting := none } else t
      | none => t
  | none => t

/-- Change a port's transmitter. -/
def State.transmit (s : State) (p : Port) (f : Transmitter → Transmitter) : State :=
  s.modifyPort p fun x => { x with transmitter := f x.transmitter }

/-- The current service of the port offers a frame that expects an answer, named by its grant (R106, R107). -/
def State.offerFrame (s : State) (p : Port) (f : AnswerFrame) : State :=
  s.transmit p (offer { frame := f, owner := .service (s.port p).grantNumber })

/-- The probe offers ASK (R107, R114, R119). -/
def State.offerAsk (s : State) (p : Port) : State := s.transmit p (offer { frame := .ask, owner := .probe })

def State.reply (s : State) (p : Port) (k : ReplyKind) : State := s.transmit p (placeReply k)

end Sys2Proof.Machine
end

