-- ==== Sys2Proof/Machine/Blocks.lean ====
section
/-! DEFINITION. The block map unit: marks, loans, the spare chain, takes, returns and the refill splice (R139 to R149),
and the GO test (R154). -/

namespace Sys2Proof.Machine

/-! ### Loans (R141) -/

/-- A block gains one loan. -/
def State.lend (s : State) (b : Nat) : State :=
  match s.mark b with
  | .outside => s.setMark b (.loaned 1)
  | .loaned n => s.setMark b (.loaned (n + 1))
  | .spare | .result => s

/-- A block gives back one loan. -/
def State.unlend (s : State) (b : Nat) : State :=
  match s.mark b with
  | .loaned n => s.setMark b (if n ≤ 1 then .outside else .loaned (n - 1))
  | .outside | .spare | .result => s

/-- One loan for each entry of a chain record. -/
def State.lendAll (s : State) (chain : List ChainEntry) : State := chain.foldl (fun s e => s.lend e.block) s

/-- One loan given back for each entry of a chain record. -/
def State.unlendAll (s : State) (chain : List ChainEntry) : State := chain.foldl (fun s e => s.unlend e.block) s

/-! ### The spare chain (R142) -/

/-- The spare mirrors of the hall header (R142, R195). -/
def State.mirrorSpare (s : State) : State :=
  (s.putWord 0x10 (place (s.spare.headD 0) 0 16 ||| place (s.spare.getLastD 0) 16 16)).putWord 0x14
    (place s.spare.length 0 16)

/-- Write a block's link, merged into its header word (R142, R194). -/
def State.writeLink (s : State) (b link : Nat) : State :=
  s.putWord (blockAddress b) (merge (s.word (blockAddress b)) link 0 16)

/-- Write the length of a scan's current result block (R152). The part owns the whole header of a RESULT block and writes its own
value (R10, R200): the block is the last of its chain, whose link is 0 (R143; log entry 31). -/
def State.writeLength (s : State) (b n : Nat) : State := s.putWord (blockAddress b) (place n 16 16)

/-- Link the blocks of a list each to the next, the last to 0 (R142). -/
def State.linkChain (s : State) : List Nat → State
  | [] => s
  | [b] => s.writeLink b 0
  | b :: next :: rest => State.linkChain (s.writeLink b next) (next :: rest)

/-- Every block of a list takes a mark. -/
def State.markAll (s : State) (blocks : List Nat) (m : BlockMark) : State := blocks.foldl (fun s b => s.setMark b m) s

/-- Blocks join the spare tail: marked SPARE, linked behind the old tail, mirrors written (R142). -/
def State.joinSpare (s : State) (blocks : List Nat) : State :=
  match blocks with
  | [] => s
  | first :: _ =>
    let linked := match s.spare.getLast? with
      | some tail => s.writeLink tail first
      | none => s
    (((linked.markAll blocks .spare).linkChain blocks).setSpare (s.spare ++ blocks)).mirrorSpare

/-- The notices of a take, judged on the count before it (R143). -/
def State.judgeSpare (s : State) (before : Nat) : State :=
  let low := s.ctl.work.lowWater
  let s := if low ≠ 0 ∧ low < before ∧ before - 1 ≤ low then s.setNotice .spareLow else s
  if before = 1 then s.setNotice .spareEmpty else s

/-- A take by the scan of slot `g` at port `p`: the head block becomes its current result block (R143). -/
def State.take (s : State) (p : Port) (g : Slot) : State :=
  match s.spare with
  | [] => s
  | b :: rest =>
    let marked := ((s.setSpare rest).setMark b .result).updateJob g fun j => { j with resultChain := j.resultChain ++ [b] }
    let headed := (marked.putWord (blockAddress b) 0).putWord (blockAddress b + 4) 0
    let linked := match (s.port p).scan.current with
      | some c => headed.writeLink c b
      | none => headed
    let served := linked.modifyPort p fun x => { x with scan := { x.scan with current := some b, fill := 0 } }
    served.mirrorSpare.judgeSpare (rest.length + 1)

/-! ### GO (R154) -/

/-- The room of a scan service: its current block's remainder and 120 bytes for each spare block (R152). -/
def scanRoom (x : ScanService) (spareCount : Nat) : Nat :=
  (match x.current with
    | some _ => Config.blockData - x.fill
    | none => 0) + Config.blockData * spareCount

/-- The GO test at one port (R154). A GO that finds the reply list full is not placed, and the scan stays STARVED. -/
def State.goTestAt (s : State) (p : Port) : State :=
  let x := s.port p
  if x.scan.phase = .starved ∧ x.scan.wanted ≤ scanRoom x.scan s.spare.length ∧ x.transmitter.replies.length < 4 then
    (s.reply p .go).modifyPort p fun x => { x with scan := { x.scan with phase := .taking, starveTimer := none } }
  else s

/-- The GO test for every starved scan of the hall (R154). -/
def State.goTest (s : State) : State := allPorts.foldl State.goTestAt s

/-- A re-queued scan gives its result chain back to the spare tail, and the GO test is made; an empty record changes
nothing (R144). -/
def State.returnResults (s : State) (g : Slot) : State :=
  match (s.job g).resultChain with
  | [] => s
  | blocks => ((s.joinSpare blocks).updateJob g fun j => { j with resultChain := [] }).goTest

/-- The release of a result chain (R145). -/
def State.releaseResults (s : State) (g : Slot) : State :=
  (s.markAll (s.job g).resultChain .outside).updateJob g fun j => { j with resultChain := [] }

/-! ### The refill splice (R146 to R148) -/

/-- The outcome of the refill walk: the blocks that passed, and the failing index with its result code if one failed
(R147; result codes of R195). -/
structure RefillWalk where
  passed : List Nat
  failure : Option (Nat × Nat)
  deriving DecidableEq, Repr

/-- The refill walk from an index, with at most `n` more blocks (R147). -/
def refillWalk (s : State) : Nat → Nat → List Nat → RefillWalk
  | n, b, passed =>
    if Config.blocks < b then { passed, failure := some (2, b) }
    else match n with
    | 0 => { passed, failure := some (3, b) }
    | n + 1 =>
      if s.mark b ≠ .outside then { passed, failure := some (4, b) }
      else
        let link := readLink s.mem b
        if link = 0 then { passed := passed ++ [b], failure := none }
        else refillWalk s n link (passed ++ [b])

/-- The refill status word: result code, count and subject (R148, R195). -/
def refillStatus (result count subject : Nat) : Word :=
  place result 0 4 ||| place count 4 12 ||| place subject 16 16

/-- What a splice writes last: the status word, the refill word 0 and NOTICE.REFILL (R148, R188). -/
def State.closeSplice (s : State) (status : Word) : State :=
  ((s.putWord 0x0C status).putWord 0x08 0).setNotice .refill

/-- The refill word is sampled, and spliced where it is not 0 (R146 to R148, R196). -/
def State.spliceRefill (s : State) : State :=
  let w := s.word 0x08
  if w = 0 then s
  else
    let walk := refillWalk s Config.blocks w.toNat []
    match walk.failure with
    | some (code, subject) => s.closeSplice (refillStatus code walk.passed.length subject)
    | none => ((s.joinSpare walk.passed).closeSplice (refillStatus 1 walk.passed.length 0)).goTest

end Sys2Proof.Machine
end

