-- ==== Sys2Proof/Machine/Touch.lean ====
section
/-! DEFINITION. The touch router: zone samples, contact tables, mailboxes and synthetic lifts (R162 to R174). -/

namespace Sys2Proof.Machine

/-! ### Mailboxes (R170 to R173) -/

/-- The phases of a contact report (R162). -/
inductive TouchPhase where
  | down | move | up
  deriving DecidableEq, Repr

/-- Phase codes (R201). -/
def touchPhaseOfCode : Nat → Option TouchPhase
  | 1 => some .down
  | 2 => some .move
  | 3 => some .up
  | _ => none

/-- A report as a mailbox write takes it (R171). -/
structure MailReport where
  key : Port × Fin 10
  zone : Nat
  phase : TouchPhase
  synthetic : Bool
  x : Nat
  y : Nat
  pressure : Nat
  deriving DecidableEq, Repr

/-- Join a phase's event to the events already there (R171). -/
def joinEvent (e : MailEvents) : TouchPhase → MailEvents
  | .down => { e with down := true }
  | .move => { e with moved := true }
  | .up => { e with up := true }

/-- The word of a record with its key, events, synthetic flag and zone (R198). -/
def mailWord (key : Option (Port × Fin 10)) (e : MailEvents) (synthetic : Bool) (zone : Nat) : Word :=
  (match key with
    | some (p, i) => place i.val 0 4 ||| place p.val 4 4 ||| place 1 8 1
    | none => 0) |||
  place e.down.toNat 9 1 ||| place e.moved.toNat 10 1 ||| place e.up.toNat 11 1 ||| place synthetic.toNat 12 1 |||
  place zone 16 8

/-- The words of one mailbox write, in the order of R170. -/
def State.writeMailWords (s : State) (st : Station) (r : Fin 4) (seq : Half) (events position : Word) : State :=
  let a := mailboxAddress st r
  (((s.putWord a ((seq + 1).setWidth 32)).putWord (a + 0x08) events).putWord (a + 0x0C) position).putWord a
    ((seq + 2).setWidth 32)

/-- The ack word of a record (R198). -/
def State.mailAck (s : State) (st : Station) (r : Fin 4) : Half :=
  (s.word (mailboxAddress st r + 0x04)).extractLsb' 0 16

/-- The write replaces the events: the record is newly taken, or the host has acknowledged it (R171). -/
def State.replaces (s : State) (st : Station) (r : Fin 4) (newlyTaken : Bool) : Bool :=
  newlyTaken || s.mailAck st r == (s.mailbox st r).seq

/-- The write gains DOWN or UP (R173). -/
def gains (e : MailEvents) (replace : Bool) : TouchPhase → Bool
  | .down => replace || !e.down
  | .move => false
  | .up => replace || !e.up

/-- The record after a write (R170, R171). -/
def mailAfter (b : Mailbox) (replace : Bool) (m : MailReport) : Mailbox :=
  { seq := b.seq + 2
    key := some m.key
    lifted := match m.phase with
      | .up => true
      | .down => false
      | .move => b.lifted
    events := joinEvent (if replace then {} else b.events) m.phase
    synthetic := (!replace && b.synthetic) || m.synthetic }

/-- A mailbox write for a report (R170, R171), with its notice (R173). -/
def State.mailboxWrite (s : State) (st : Station) (r : Fin 4) (newlyTaken : Bool) (m : MailReport) : State :=
  let b := s.mailbox st r
  let replace := s.replaces st r newlyTaken
  let after := mailAfter b replace m
  let written := (s.writeMailWords st r b.seq (mailWord after.key after.events after.synthetic m.zone)
    (place m.x 0 12 ||| place m.y 12 12 ||| place m.pressure 24 8)).setMailbox st r after
  if gains b.events replace m.phase && (s.sample st).notify then written.setStationNotice st else written

/-- The clearing of a record: a mailbox write of key empty, events empty, flags clear, other fields 0 (R170). -/
def State.clearMailbox (s : State) (st : Station) (r : Fin 4) : State :=
  let seq := (s.mailbox st r).seq
  (s.writeMailWords st r seq 0 0).setMailbox st r { seq := seq + 2 }

/-- At entry to RUNNING a record's seq is read from memory, an odd value raised by 1, and the record written free
(R17). -/
def State.openMailbox (s : State) (st : Station) (r : Fin 4) : State :=
  let seq := (s.word (mailboxAddress st r)).extractLsb' 0 16
  let even := if seq.toNat % 2 = 1 then seq + 1 else seq
  (s.setMailbox st r { seq := even }).clearMailbox st r

/-- A record is free when its key is empty, or it is lifted and acknowledged (R172). -/
def State.recordFree (s : State) (st : Station) (r : Fin 4) : Bool :=
  let b := s.mailbox st r
  b.key.isNone || b.lifted && s.mailAck st r == b.seq

/-- The record for a new contact with key `k`, and whether it is newly taken (R172). -/
def State.chooseRecord (s : State) (st : Station) (k : Port × Fin 10) : Option (Fin 4 × Bool) :=
  match fourIndices.find? fun r => (s.mailbox st r).key == some k with
  | some r => some (r, false)
  | none => (fourIndices.find? fun r => s.recordFree st r).map fun r => (r, true)

/-! ### Contact tables (R166, R174) -/

def State.contact (s : State) (p : Port) (i : Fin 10) : Contact := (s.port p).contacts[i.val]

def State.setContact (s : State) (p : Port) (i : Fin 10) (c : Contact) : State :=
  s.modifyPort p fun x => { x with contacts := x.contacts.set i.val c }

def tenIndices : List (Fin 10) := List.finRange 10

/-- A synthetic UP for a captured contact, at its last position with pressure 0 (R174). -/
def State.syntheticUp (s : State) (p : Port) (i : Fin 10) (c : Capture) : State :=
  s.mailboxWrite c.station c.record false
    { key := (p, i), zone := c.zone, phase := .up, synthetic := true, x := c.x, y := c.y, pressure := 0 }

/-- One entry lifted, if it is of a kind that the event lifts (R174). -/
def State.liftEntry (zones holds : Bool) (p : Port) (after : Contact) (s : State) (i : Fin 10) : State :=
  match s.contact p i with
  | .zone c => if zones then (s.syntheticUp p i c).setContact p i after else s
  | .hold c => if holds then (s.syntheticUp p i c).setContact p i after else s
  | .none | .orphan | .dropped => s

/-- The entries of a panel that an event lifts, in ascending contact id (R174). -/
def State.liftEntries (s : State) (p : Port) (zones holds : Bool) (after : Contact) : State :=
  tenIndices.foldl (State.liftEntry zones holds p after) s

/-- Every entry of a panel becomes NONE, as the STOP leaves it (R174). -/
def State.clearContacts (s : State) (p : Port) : State :=
  s.modifyPort p fun x => { x with contacts := Vector.replicate 10 .none }

/-- Touch routing stops: the panels in ascending port number, every captured contact lifted, every entry NONE (R19,
R174). -/
def State.stopTouch (s : State) : State :=
  allPorts.foldl (fun s p => (s.liftEntries p true true .none).clearContacts p) s

/-- An entry captured for a station becomes ORPHAN without a write (R46). -/
def orphanOf (st : Station) : Contact → Contact
  | .zone c => if c.station = st then .orphan else .zone c
  | .hold c => if c.station = st then .orphan else .hold c
  | other => other

/-- The close of a station reaches the touch router: its contacts become ORPHAN on every panel, its records are
cleared (R46). -/
def State.closeTouch (s : State) (st : Station) : State :=
  let orphaned := allPorts.foldl
    (fun s p => s.modifyPort p fun x => { x with contacts := x.contacts.map (orphanOf st) }) s
  fourIndices.foldl (fun s r => s.clearMailbox st r) orphaned

/-! ### Zones (R164, R165) -/

/-- The zone sample of a panel is replaced whole (R164). -/
def State.sampleZones (s : State) (p : Port) : State :=
  if (s.portConfig p).cls = .panel then
    s.modifyPort p fun x => { x with zones := Vector.ofFn fun z => readZone s.mem p z.val }
  else s

/-- A new sample of every panel's zone table (R40, R164). -/
def State.sampleAllZones (s : State) : State := allPorts.foldl State.sampleZones s

/-- A zone that can match and contains the point (R164, R165). -/
def zoneContains (z : Zone) (x y : Nat) : Bool :=
  z.enabled && decide (z.station ≤ 31) && decide (z.x0 ≤ x ∧ x ≤ z.x1 ∧ z.y0 ≤ y ∧ y ≤ z.y1)

/-- The index and station of the first zone that takes a point (R165). -/
def zoneAt (zones : List Zone) (x y : Nat) : Nat → Option (Nat × Station)
  | i =>
    match zones with
    | [] => none
    | z :: rest =>
      if zoneContains z x y then some (i, ⟨min 31 z.station, by omega⟩) else zoneAt rest x y (i + 1)

/-! ### Contact reports (R162, R167 to R169) -/

/-- A discard of a new contact is counted (R163, R165). -/
def State.countUnrouted (s : State) (p : Port) : State :=
  s.updateDiscards p fun d => { d with unrouted := saturate max16 d.unrouted 1 }

def State.countClosed (s : State) (p : Port) : State :=
  s.updateDiscards p fun d => { d with closed := saturate max16 d.closed 1 }

def State.countStray (s : State) (p : Port) : State :=
  s.updateDiscards p fun d => { d with stray := saturate max16 d.stray 1 }

def State.countMalformed (s : State) (p : Port) : State :=
  s.updateDiscards p fun d => { d with malformed := saturate max16 d.malformed 1 }

/-- The slot of the hold that a panel port serves. -/
def State.holdOf (s : State) (p : Port) : Option Slot :=
  if (s.port p).state = .serving ∧ (s.portConfig p).cls = .panel then (s.port p).job else none

/-- A new contact whose destination is known takes a record and is written as DOWN, or is DROPPED (R168, R172). -/
def State.deliver (s : State) (p : Port) (i : Fin 10) (st : Station) (zone : Nat) (holder : Option Slot)
    (synthetic : Bool) (x y pressure : Nat) : State :=
  match s.chooseRecord st (p, i) with
  | some (r, newlyTaken) =>
    let written := s.mailboxWrite st r newlyTaken
      { key := (p, i), zone, phase := .down, synthetic, x, y, pressure }
    let c : Capture := { station := st, zone, record := r, x, y, pressure }
    match holder with
    | some g =>
      (written.setContact p i (.hold c)).updateJob g fun j =>
        { j with contactsDelivered := saturate max16 j.contactsDelivered 1 }
    | none => written.setContact p i (.zone c)
  | none =>
    (s.setContact p i .dropped).updateCounters st .scores fun c => { c with overflow := saturate max16 c.overflow 1 }

/-- A new contact is routed, to the holder or by the zone search (R165, R168). -/
def State.newContact (s : State) (p : Port) (i : Fin 10) (synthetic : Bool) (x y pressure : Nat) : State :=
  match s.holdOf p with
  | some g => s.deliver p i (stationOf g) 255 (some g) synthetic x y pressure
  | none =>
    match zoneAt (s.port p).zones.toList x y 0 with
    | some (z, st) =>
      if (s.sample st).state = .closed then s.countClosed p
      else s.deliver p i st z none synthetic x y pressure
    | none => s.countUnrouted p

/-- A report on a captured contact: a repeated DOWN, a MOVE or an UP (R167, R169). -/
def State.capturedReport (s : State) (p : Port) (i : Fin 10) (c : Capture) (rebuild : Capture → Contact)
    (phase : TouchPhase) (x y pressure : Nat) : State :=
  match phase with
  | .down => ((s.syntheticUp p i c).setContact p i .none).newContact p i false x y pressure
  | .move =>
    (s.mailboxWrite c.station c.record false
      { key := (p, i), zone := c.zone, phase := .move, synthetic := false, x, y, pressure }).setContact p i
        (rebuild { c with x, y, pressure })
  | .up =>
    (s.mailboxWrite c.station c.record false
      { key := (p, i), zone := c.zone, phase := .up, synthetic := false, x, y, pressure }).setContact p i .none

/-- A report that is not malformed acts on its entry (R167). -/
def State.touch (s : State) (p : Port) (i : Fin 10) (phase : TouchPhase) (x y pressure : Nat) : State :=
  match s.contact p i with
  | .none =>
    match phase with
    | .down => s.newContact p i false x y pressure
    | .move => s.newContact p i true x y pressure
    | .up => s.countStray p
  | .zone c => s.capturedReport p i c .zone phase x y pressure
  | .hold c => s.capturedReport p i c .hold phase x y pressure
  | .orphan | .dropped =>
    match phase with
    | .down => (s.setContact p i .none).newContact p i false x y pressure
    | .move => s
    | .up => s.setContact p i .none

/-- One report of a CONTACT frame: malformed reports are counted, the others act on the contact table (R162). -/
def State.takeReport (p : Port) (s : State) (r : ContactReport) : State :=
  match touchPhaseOfCode r.phase.toNat with
  | none => s.countMalformed p
  | some phase =>
    if h : r.id.toNat < 10 then
      if (s.port p).capability ≤ r.id.toNat ∧ s.contact p ⟨r.id.toNat, h⟩ = .none then s.countMalformed p
      else s.touch p ⟨r.id.toNat, h⟩ phase (min 4095 r.x.toNat) (min 4095 r.y.toNat) r.pressure.toNat
    else s.countMalformed p

end Sys2Proof.Machine
end

