-- ==== Sys2Proof/Machine/Finish.lean ====
section
/-! DEFINITION. The result writer: the finish step with its stages, and the usage charge (R77, R182 to R186). -/

namespace Sys2Proof.Machine

/-! ### Usage (R76, R77) -/

/-- A station is charged one point for each 100 ms of busy time, and the score's mirror is written (R77, R186). -/
def State.charge (s : State) (st : Station) (busy : Nat) : State :=
  s.updateCounters st .scores fun c => { c with usage := saturate max16 c.usage (busy / 100) }

/-- The busy time of the service of a slot, ending now (R77). -/
def State.busyTime (s : State) (g : Slot) : Nat :=
  match (s.job g).serviceGrant with
  | some t => interval s.ctl.clock t
  | none => 0

/-- The charge at the end of the service of a slot (R77). -/
def State.chargeService (s : State) (g : Slot) : State := s.charge (stationOf g) (s.busyTime g)

/-! ### Results (R183, R184, R199) -/

/-- What every finish shares: the part's copy of its outcome and detail (R10), and stages 2 to 4, owner and shadow FINISHED, the
jobs-finished count with its mirror, the station's notice (R182). -/
def State.closeFinish (s : State) (g : Slot) (o : JobOutcome) (d : Detail) : State :=
  (((s.setCodes g o d).handSlot g .finished).updateCounters (stationOf g) .tallies fun c =>
    { c with jobsFinished := saturate max16 c.jobsFinished 1 }).setStationNotice (stationOf g)

/-- The class results of a slot: the words 0x28, 0x2C and 0x30 that the class has (R183, R199). -/
structure ClassResults where
  count : Word := 0
  chain : Word := 0
  reported : Word := 0
  deriving DecidableEq, Repr

/-- Stage 1 of a finish: the result word, the granted fields, and the class fields of the job's own class (R183). -/
def State.writeResults (s : State) (g : Slot) (word firstGrant portWord : Word) (cls : Option JobClass)
    (r : ClassResults) : State :=
  let a := slotAddress g
  let common := ((s.putWord (a + 0x18) word).putWord (a + 0x20) firstGrant).putWord (a + 0x24) portWord
  match cls with
  | none => common
  | some .print => common.putWord (a + 0x28) r.count
  | some .hold => common.putWord (a + 0x28) r.count
  | some .scan => ((common.putWord (a + 0x28) r.count).putWord (a + 0x2C) r.chain).putWord (a + 0x30) r.reported

/-- The bytes stored that a scan's finish reports: the service's while it serves, 0 otherwise (R160, R184). -/
def State.storedBytes (s : State) (g : Slot) : Nat :=
  match (s.slot g).state, (s.job g).port with
  | .serving, some p => (s.port p).scan.stored
  | _, _ => 0

/-- The validity flags of the finish of an accepted job (R184). -/
def finishValidity (j : JobRecord) (reported : Option Word) : Validity :=
  let granted := j.firstGrant.isSome
  { accept := true
    firstGrant := granted
    port := granted
    sheets := granted && j.cls == some .print
    scanStore := granted && j.cls == some .scan
    scanReport := granted && j.cls == some .scan && reported.isSome
    contacts := granted && j.cls == some .hold }

/-- The class results of an accepted job; a field whose flag is clear holds 0 (R183, R184). -/
def State.classResults (s : State) (g : Slot) (reported : Option Word) : ClassResults :=
  let j := s.job g
  if j.firstGrant.isSome then
    match j.cls with
    | some .print => { count := BitVec.ofNat 32 j.sheetsDone }
    | some .scan =>
      { count := BitVec.ofNat 32 (s.storedBytes g)
        chain := place (j.resultChain.headD 0) 0 16 ||| place j.resultChain.length 16 16
        reported := reported.getD 0 }
    | some .hold => { count := BitVec.ofNat 32 j.contactsDelivered }
    | none => {}
  else {}

/-- The word with the port of the last service and the two counts (R183, R199). -/
def portWord (j : JobRecord) : Word :=
  (match j.firstGrant, j.port with
    | some _, some p => place p.val 0 8
    | _, _ => 0) ||| place j.interruptions 8 8 ||| place j.faults 16 8

/-- Stage 1 of the finish of an accepted job (R183, R184). -/
def State.writeJobResults (s : State) (g : Slot) (o : JobOutcome) (d : Detail) (reported : Option Word) : State :=
  let j := s.job g
  s.writeResults g (resultWord (outcomePair o d) (clampBits j.clamps) (finishValidity j reported))
    (j.firstGrant.getD 0) (portWord j) j.cls (s.classResults g reported)

/-- The finish step of an accepted job, QUEUED or SERVING (R182 to R186): results, owner, counters, notice, then the
accounts: the charge if the finish ends a service, the loans of a print. -/
def State.finish (s : State) (g : Slot) (o : JobOutcome) (d : Detail) (reported : Option Word) : State :=
  let closed := (s.writeJobResults g o d reported).closeFinish g o d
  let charged := if (s.slot g).state = .serving then closed.chargeService g else closed
  match (s.job g).cls with
  | some .print => charged.unlendAll (s.job g).chain
  | _ => charged

/-- A refusal: outcome REFUSED, every validity and clamp flag clear, the counts and class fields 0 (R31, R184). -/
def State.refuse (s : State) (g : Slot) (cls : Option JobClass) (d : Detail) : State :=
  (s.writeResults g (resultWord (outcomePair .refused d) 0 {}) 0 0 cls {}).closeFinish g .refused d

/-- A cancel before acceptance: CANCELLED BEFORE_ACCEPT, accept stamp written now and valid, clamp flags written (R34,
R184). -/
def State.cancelBeforeAccept (s : State) (g : Slot) (cls : Option JobClass) (clamps : ClampFlags) : State :=
  ((s.writeResults g (resultWord (outcomePair .cancelled .beforeAccept) (clampBits clamps) { accept := true }) 0 0 cls
    {}).putWord (slotAddress g + 0x1C) s.ctl.clock).closeFinish g .cancelled .beforeAccept

end Sys2Proof.Machine
end

