-- ==== Sys2Proof/Machine/Queue.lean ====
section
/-! DEFINITION. Pool queues, the deadline list and rank (R52 to R54, R61 to R63, R67 to R71), the outrank test (R88) and
the re-queue that preemption and fault share (R90, R91). -/

namespace Sys2Proof.Machine

/-! ### The deadline list (R52 to R54) -/

/-- The distance from the clock to a job's expiry stamp, as a signed 32-bit difference (R52). -/
def State.expiryDistance (s : State) (g : Slot) : Int :=
  match (s.job g).expiry with
  | some e => (e - s.ctl.clock).toInt
  | none => 0

/-- A slot stands before another on the deadline list: earlier expiry stamp, ties by slot number (R52, R53). -/
def State.expiresBefore (s : State) (g h : Slot) : Bool :=
  decide (s.expiryDistance g < s.expiryDistance h) ||
    decide (s.expiryDistance g = s.expiryDistance h) && decide (g < h)

/-- Insert before the first entry that an element precedes. -/
def insertBefore {α : Type} (precedes : α → α → Bool) (x : α) : List α → List α
  | [] => [x]
  | y :: rest => if precedes x y then x :: y :: rest else y :: insertBefore precedes x rest

/-- A job joins the deadline list (R53). -/
def State.joinDeadlines (s : State) (g : Slot) : State :=
  s.setDeadlines (insertBefore s.expiresBefore g s.deadlines)

/-- An entry leaves the deadline list, the others keep their order (R54). -/
def State.leaveDeadlines (s : State) (g : Slot) : State := s.setDeadlines (s.deadlines.erase g)

/-! ### Pool queues (R61 to R63) -/

/-- The time a job has waited (R49, R62). -/
def State.waited (s : State) (g : Slot) : Nat := interval s.ctl.clock (s.job g).acceptStamp

/-- A job precedes an entry if it has waited longer, or as long with the lower slot number (R62). -/
def State.precedes (s : State) (g h : Slot) : Bool :=
  decide (s.waited h < s.waited g) || decide (s.waited g = s.waited h) && decide (g < h)

/-- A job joins its pool queue at the position its accept stamp gives it (R62). -/
def State.joinQueue (s : State) (g : Slot) : State :=
  let q := (s.job g).pool
  s.setQueue q (insertBefore s.precedes g (s.queue q))

/-- An entry leaves its pool queue (R63). -/
def State.leaveQueue (s : State) (g : Slot) : State :=
  let q := (s.job g).pool
  s.setQueue q ((s.queue q).erase g)

/-- A queued job leaves its pool queue and the deadline list, and is finished (R19, R36, R45). -/
def State.finishQueued (s : State) (g : Slot) (o : JobOutcome) (d : Detail) : State :=
  ((s.leaveQueue g).leaveDeadlines g).finish g o d none

/-! ### Rank (R67 to R71) -/

/-- The aging bonus (R69). -/
def agingBonus (step cap : Nat) (aged : Bool) (waited : Nat) : Nat :=
  if step = 0 then 0 else if aged then cap else min cap (waited / (step * 100))

/-- The usage penalty (R70). -/
def usagePenalty (usage weight : Nat) : Nat := min 63 (usage / (weight * 16))

/-- The sum of the four terms, clamped into 1..255 (R71). -/
def rankValue (base urgency bonus penalty : Nat) : Nat :=
  (max 1 (min 255 ((base : Int) + 4 * urgency + bonus - penalty))).toNat

/-- The aging bonus of a job at the clock value (R68, R69). -/
def State.bonusOf (s : State) (g : Slot) : Nat :=
  let c := s.pool (s.job g).pool
  agingBonus c.agingStep c.agingCap (s.job g).agedOut (s.waited g)

/-- The rank of a job (R68 to R71). -/
def State.rankOf (s : State) (g : Slot) : Nat :=
  let st := stationOf g
  rankValue (max 1 (s.sample st).basePriority) (s.job g).urgency (s.bonusOf g)
    (usagePenalty (s.counters st).usage (s.sample st).shareWeight)

/-- The computation of a job's rank sets its aged-out latch where its bonus is at the cap and aging is on (R69). -/
def State.latchAged (s : State) (g : Slot) : State :=
  let c := s.pool (s.job g).pool
  if c.agingStep ≠ 0 ∧ s.bonusOf g = c.agingCap then s.updateJob g fun j => { j with agedOut := true } else s

def State.latchAll (s : State) (jobs : List Slot) : State := jobs.foldl State.latchAged s

/-- A queued job is eligible when its station's sample is OPEN (R67). -/
def State.eligible (s : State) (g : Slot) : Bool := (s.sample (stationOf g)).state == .opened

/-! ### The outrank test (R88) -/

/-- The jobs that the outrank test of a port ranks: eligible, of another station than the serving job's (R88). -/
def State.outrankJobs (s : State) (p : Port) (g : Slot) : List Slot :=
  (s.queue (s.portConfig p).pool).filter fun h => s.eligible h && stationOf h != stationOf g

/-- The answer of the outrank test (R88). -/
def State.outranked (s : State) (p : Port) (g : Slot) : Bool :=
  (s.outrankJobs p g).any fun h => decide ((s.port p).holdLevel < s.rankOf h)

/-! ### Re-queue (R90, R91) -/

/-- What the two re-queues share: the slot QUEUED again, its station charged, and its place in the pool queue; it does
not rejoin the deadline list (R90, R91). -/
def State.requeue (s : State) (g : Slot) : State := ((s.handSlot g .queued).joinQueue g).chargeService g

/-- A re-queue by preemption, less the port's change (R90). -/
def State.requeuePreempted (s : State) (g : Slot) : State :=
  ((s.requeue g).updateJob g fun j => { j with interruptions := saturate 255 j.interruptions 1 }).updateStats
    (s.job g).pool fun x => { x with preemptions := saturate max32 x.preemptions 1 }

/-- A re-queue by fault, less the port's change (R91). -/
def State.requeueFaulted (s : State) (g : Slot) : State :=
  ((s.requeue g).updateJob g fun j => { j with faults := j.faults + 1 }).updateStats
    (s.job g).pool fun x => { x with faultRequeues := saturate max32 x.faultRequeues 1 }

/-! ### Ports leaving SERVING (R74, R81, R118) -/

/-- The service engines of a port are IDLE and its pairing with a job is dissolved, hold level 0 and yield-pending
clear (R74, R81). -/
def clearService (x : PortRecord) : PortRecord :=
  { x with job := none, holdLevel := 0, yieldPending := false, print := {}, scan := {}, hold := {} }

/-- A service end that makes the port FREE; it keeps its last condition and capability (R118). -/
def State.releasePort (s : State) (p : Port) : State :=
  s.updatePort p fun x => { clearService x with state := .free }

end Sys2Proof.Machine
end

