-- ==== Sys2Proof/Machine/Print.lean ====
section
/-! DEFINITION. The print service: sheets, boundaries, and the chain record it follows (R123 to R136). -/

namespace Sys2Proof.Machine

/-! ### The chain record (R123, R124) -/

/-- The sheets per copy of a chain record: its marked entries (R123). -/
def sheetsPerCopy (chain : List ChainEntry) : Nat := (chain.filter fun e => e.sheetEnd).length

/-- The first entry of a sheet: the one after the entry that ends the sheet before it, the first entry for sheet 1
(R126). -/
def sheetStart : List ChainEntry → Nat → Nat
  | _, 0 => 0
  | _, 1 => 0
  | [], _ => 0
  | e :: rest, n + 2 => 1 + sheetStart rest (if e.sheetEnd then n + 1 else n + 2)

/-! ### Boundary checks (R132) -/

/-- What a sheet boundary decides (R132). -/
inductive Boundary where
  | finish (o : JobOutcome) (d : Detail)
  | requeue
  | next
  deriving DecidableEq, Repr

/-- The next sheet of a print as (copy, sheet), none after the last sheet of the last copy (R132, step 2). -/
def nextSheet (j : JobRecord) (copy sheet : Nat) : Option (Nat × Nat) :=
  if sheet < sheetsPerCopy j.chain then some (copy, sheet + 1)
  else if copy < j.copies then some (copy + 1, 1)
  else none

/-- The outrank test is asked at this boundary: no earlier check applies, a sheet remains and a yield is pending (R88,
R132). -/
def State.asksOutrank (s : State) (p : Port) (g : Slot) (remaining : Bool) : Bool :=
  !(s.job g).cancelLatch && !(s.job g).closeLatch && s.ctl.engine != .draining && remaining &&
    (s.port p).yieldPending

/-- The ordered checks of a sheet boundary (R132, step 3). -/
def State.boundaryCheck (s : State) (p : Port) (g : Slot) (remaining : Bool) : Boundary :=
  if (s.job g).cancelLatch then .finish .cancelled .byHost
  else if (s.job g).closeLatch then .finish .cancelled .stationClosed
  else if s.ctl.engine = .draining then .finish .doneShort .engineStop
  else if remaining && (s.port p).yieldPending && s.outranked p g then .requeue
  else if remaining then .next
  else .finish .done .none

/-- Change the print service of a port. -/
def State.modifyPrint (s : State) (p : Port) (f : PrintService → PrintService) : State :=
  s.modifyPort p fun x => { x with print := f x.print }

/-- The count of a boundary (R132, step 1): a sheet ended by SHEET is counted, an empty one is not; the sheet timer
stops and the early-SHEET flag is clear. -/
def State.countSheet (s : State) (p : Port) (g : Slot) (counted : Bool) : State :=
  (if counted then s.updateJob g fun j => { j with sheetsDone := j.sheetsDone + 1 } else s).modifyPrint p
    fun x => { x with sheetTimer := none, early := false }

/-- A sheet begins (R127): the sheet timer starts, and the service goes to the sheet's first entry. -/
def State.beginSheet (s : State) (p : Port) (g : Slot) (copy sheet : Nat) : State :=
  s.modifyPrint p fun x => { x with
    copy, sheet, entry := sheetStart (s.job g).chain sheet, fed := false
    sheetTimer := startTimer s.ctl.clock ((s.portConfig p).sheetTimeout * 1000) }

/-- The checks of a boundary are acted on (R132). The answer tells whether a next sheet has begun. -/
def State.closeSheet (s : State) (p : Port) (g : Slot) (next : Option (Nat × Nat)) : State × Bool :=
  let latched := if s.asksOutrank p g next.isSome then s.latchAll (s.outrankJobs p g) else s
  match s.boundaryCheck p g next.isSome, next with
  | .finish o d, _ => ((latched.finish g o d none).releasePort p, false)
  | .requeue, some (c, n) =>
    (((latched.updateJob g fun j => { j with resumeCopy := c, resumeSheet := n }).requeuePreempted g).releasePort p, false)
  | .next, some (c, n) => (latched.beginSheet p g c n, true)
  | _, none => (latched, false)

/-- A sheet boundary (R132): count, next sheet, checks. -/
def State.sheetBoundary (s : State) (p : Port) (g : Slot) (counted : Bool) : State × Bool :=
  let x := (s.port p).print
  (s.countSheet p g counted).closeSheet p g (nextSheet (s.job g) x.copy x.sheet)

/-! ### Entries (R127) -/

/-- The service goes on to the next entry. -/
def State.nextEntry (s : State) (p : Port) : State := s.modifyPrint p fun x => { x with entry := x.entry + 1 }

/-- A FEED falls due at a block of length `n` (R127): the early-SHEET flag is cleared; the FEED is offered, or STALLED
under the BUSY flag. -/
def State.feedDue (s : State) (p : Port) (b n : Nat) : State :=
  if (s.port p).print.busy then s.modifyPrint p fun x => { x with early := false, phase := .stalled }
  else
    (s.modifyPrint p fun x => { x with early := false, phase := .feeding, fed := true }).offerFrame p
      (.feed (readData s.mem b n))

/-- The service reaches its entry and acts on it, passing entries of length 0 and the boundaries of empty sheets in the
same event (R127). The bound counts the entries still to reach. -/
def State.reachEntries (p : Port) (g : Slot) : Nat → State → State
  | 0, s => s
  | n + 1, s =>
    match (s.job g).chain[(s.port p).print.entry]? with
    | none => s
    | some e =>
      let length := readLength s.mem e.block
      if length ≠ 0 then s.feedDue p e.block length
      else if !e.sheetEnd then State.reachEntries p g n (s.nextEntry p)
      else if (s.port p).print.fed && !(s.port p).print.early then s.modifyPrint p fun x => { x with phase := .sheetWait }
      else
        match s.sheetBoundary p g (s.port p).print.fed with
        | (s', true) => State.reachEntries p g n s'
        | (s', false) => s'

/-- The most entries that a print can reach: those of every copy (R123). -/
def entryBound (j : JobRecord) : Nat := j.chain.length * (j.copies + 1) + 1

/-- The service acts on the entry it stands at (R127). -/
def State.runPrint (s : State) (p : Port) (g : Slot) : State :=
  State.reachEntries p g (entryBound (s.job g)) s

/-- A boundary that the printer's confirmation ends, with the sheet that may begin in it (R130, R132). -/
def State.confirmSheet (s : State) (p : Port) (g : Slot) : State :=
  match s.sheetBoundary p g true with
  | (s', true) => s'.runPrint p g
  | (s', false) => s'

/-! ### The service's events -/

/-- A grant of a printer port starts the print service at the job's resume point (R126). -/
def State.startPrint (s : State) (p : Port) (g : Slot) : State :=
  let j := s.job g
  let busy := (s.port p).condition == .busy
  ((s.modifyPrint p fun _ => { busy := busy }).beginSheet p g j.resumeCopy j.resumeSheet).runPrint p g

/-- A FEED of the current service has been answered ACK (R128). -/
def State.feedAnswered (s : State) (p : Port) (g : Slot) : State :=
  match (s.job g).chain[(s.port p).print.entry]? with
  | none => s
  | some e =>
    if !e.sheetEnd then (s.nextEntry p).runPrint p g
    else if (s.port p).print.early then s.confirmSheet p g
    else s.modifyPrint p fun x => { x with phase := .sheetWait }

/-- A STATE BUSY or READY at a serving print (R129). READY offers the FEED of a stalled entry, whose block is read
now. -/
def State.printCondition (s : State) (p : Port) (g : Slot) (c : Condition) : State :=
  if c = .busy then s.modifyPrint p fun x => { x with busy := true }
  else
    let cleared := s.modifyPrint p fun x => { x with busy := false }
    if (s.port p).print.phase = .stalled then cleared.runPrint p g else cleared

/-- A good SHEET at a serving print (R130). -/
def State.sheetTaken (s : State) (p : Port) (g : Slot) : State :=
  match (s.port p).print.phase with
  | .sheetWait => s.confirmSheet p g
  | .feeding => if (s.port p).print.early then s else s.modifyPrint p fun x => { x with early := true }
  | .idle | .stalled => s

/-- What a print leaves in its record at a fault end: the start of the sheet in progress (R133). -/
def State.keepSheet (s : State) (p : Port) (g : Slot) : State :=
  s.updateJob g fun j => { j with resumeCopy := (s.port p).print.copy, resumeSheet := (s.port p).print.sheet }

end Sys2Proof.Machine
end

