-- ==== Sys2Proof/Machine/Scan.lean ====
section
/-! DEFINITION. The scan service: opening, storing, starving, truncation and its ends by cause (R150 to R160). -/

namespace Sys2Proof.Machine

/-- Change the scan service of a port. -/
def State.modifyScan (s : State) (p : Port) (f : ScanService → ScanService) : State :=
  s.modifyPort p fun x => { x with scan := f x.scan }

/-- A grant of a scanner port starts the scan service (R151). -/
def State.startScan (s : State) (p : Port) (g : Slot) : State :=
  let j := s.job g
  let maximum := (s.port p).capability
  let inUse := min j.resolution maximum
  let flagged := if maximum < j.resolution then
      s.updateJob g fun j => { j with clamps := { j.clamps with resolution := true } }
    else s
  (flagged.modifyScan p fun _ => { phase := .opening, resolution := inUse }).offerFrame p
    (.openScan (BitVec.ofNat 8 j.mode) (BitVec.ofNat 8 inUse))

/-- The scan service takes IMAGE and IMAGE-END frames (R151). -/
def takesFrames (x : ScanService) : Bool := x.phase == .taking || x.phase == .starved

/-! ### Storing (R152) -/

/-- The bytes due of a frame of `length` bytes (R152). -/
def State.bytesDue (s : State) (p : Port) (g : Slot) (length : Nat) : Nat :=
  min length ((s.job g).maxBytes - (s.port p).scan.stored)

/-- The current result block has room for a byte, or a take gives the service one that has (R152). -/
def State.roomForByte (s : State) (p : Port) (g : Slot) : State :=
  match (s.port p).scan.current with
  | some _ => if (s.port p).scan.fill < Config.blockData then s else s.take p g
  | none => s.take p g

/-- One data byte is written into the current result block, whose length is rewritten to its new fill (R152). The part writes whole
words (R9); DESIGN CHOICE, unsafe: the other bytes of the data word stay as memory holds them, behind the fill and before it (log
entry 33). -/
def State.storeByte (p : Port) (g : Slot) (s : State) (b : Byte) : State :=
  let s := s.roomForByte p g
  let x := (s.port p).scan
  match x.current with
  | none => s
  | some c =>
    ((s.putByte (blockAddress c + 8 + x.fill) b).writeLength c (x.fill + 1)).modifyScan p
      fun x => { x with fill := x.fill + 1, stored := x.stored + 1 }

/-- Truncation: CLOSE-SCAN is offered and the phase becomes CLOSING (R157). -/
def State.truncate (s : State) (p : Port) : State :=
  (s.offerFrame p .closeScan).modifyScan p fun x => { x with phase := .closing }

/-- A frame that passes the room test is stored and ACKed (R152); a STARVED service returns to TAKING (R153). -/
def State.storeImage (s : State) (p : Port) (g : Slot) (data : List Byte) : State :=
  let stored := data.foldl (State.storeByte p g) s
  let answered := (stored.modifyScan p fun x => { x with phase := .taking, starveTimer := none }).reply p .ack
  if (answered.port p).scan.stored = (s.job g).maxBytes then answered.truncate p else answered

/-- A frame that fails the room test is answered PAUSE (R153). The starve timer starts where the service was not yet
STARVED, and keeps running where it was. -/
def State.starve (s : State) (p : Port) (due : Nat) : State :=
  (s.reply p .pause).modifyScan p fun x => { x with
    phase := .starved
    wanted := due
    starveTimer := if x.phase = .starved then x.starveTimer
      else startTimer s.ctl.clock ((s.portConfig p).starveLimit * 1000) }

/-- A good IMAGE at a serving scan (R152, R153, R157). -/
def State.imageTaken (s : State) (p : Port) (g : Slot) (data : List Byte) : State :=
  if takesFrames (s.port p).scan then
    let due := s.bytesDue p g data.length
    if due ≤ scanRoom (s.port p).scan s.spare.length then s.storeImage p g (data.take due) else s.starve p due
  else s

/-! ### Ends -/

/-- The end of a scan that finishes the job and frees the port (R155 to R158). -/
def State.finishScan (s : State) (p : Port) (g : Slot) (o : JobOutcome) (d : Detail) (reported : Option Word) : State :=
  (s.finish g o d reported).releasePort p

/-- A good IMAGE-END at a serving scan (R156). -/
def State.imageEndTaken (s : State) (p : Port) (g : Slot) (total : Word) : State :=
  if takesFrames (s.port p).scan then
    if total.toNat = (s.port p).scan.stored then (s.reply p .ack).finishScan p g .done .none (some total)
    else (s.reply p .ack).finishScan p g .doneShort .countMismatch (some total)
  else s

/-- The frames of an end by cause, by the service's phase (R158). -/
def State.closeScanFrames (s : State) (p : Port) : State :=
  match (s.port p).scan.phase with
  | .opening => (s.transmit p (withdrawOpenScan (s.port p).grantNumber)).offerFrame p .closeScan
  | .taking | .starved => s.offerFrame p .closeScan
  | .closing | .idle => s

/-- A cancel, a close or a STOP ends a serving scan at once (R158). -/
def State.endScan (s : State) (p : Port) (g : Slot) (o : JobOutcome) (d : Detail) : State :=
  (s.closeScanFrames p).finishScan p g o d none

/-- The starve timer expires at a STARVED scan (R155). -/
def State.starveOut (s : State) (p : Port) (g : Slot) : State :=
  (s.offerFrame p .closeScan).finishScan p g .doneShort .starved none

end Sys2Proof.Machine
end

