-- ==== Sys2Proof/Machine/Hold.lean ====
section
/-! DEFINITION. The hold service (R175 to R179). -/

namespace Sys2Proof.Machine

/-- A grant of a panel port starts the hold service and lifts the panel's ZONE entries (R176). -/
def State.startHold (s : State) (p : Port) (g : Slot) : State :=
  (s.modifyPort p fun x => { x with
    hold := { phase := .holding, timer := startTimer s.ctl.clock (s.job g).holdRemaining } }).liftEntries p true false
      .orphan

/-- The time that a hold's timer had left (R178, R179). -/
def State.holdLeft (s : State) (p : Port) : Nat :=
  match (s.port p).hold.timer with
  | some e => interval e s.ctl.clock
  | none => 0

/-- The remaining hold time is kept in the job's record. -/
def State.keepHold (s : State) (g : Slot) (ms : Nat) : State := s.updateJob g fun j => { j with holdRemaining := ms }

/-- The remaining time that a re-queued hold keeps: 0 is taken as 1 ms (R179). -/
def State.keepLeft (s : State) (p : Port) (g : Slot) : State := s.keepHold g (max 1 (s.holdLeft p))

/-- The hold timer expires: the hold ends in full (R177). -/
def State.holdExpired (s : State) (p : Port) (g : Slot) : State :=
  (((s.keepHold g 0).liftEntries p false true .orphan).finish g .done .none none).releasePort p

/-- A cancel ends a hold: its contacts are lifted (R178). -/
def State.holdCancelled (s : State) (p : Port) (g : Slot) : State :=
  (((s.keepHold g (s.holdLeft p)).liftEntries p false true .orphan).finish g .cancelled .byHost none).releasePort p

/-- HOLD entries become ORPHAN without a write (R178: station close). -/
def orphanHold : Contact → Contact
  | .hold _ => .orphan
  | other => other

/-- A station close ends a hold: its contacts become ORPHAN without a write (R178). -/
def State.holdClosed (s : State) (p : Port) (g : Slot) : State :=
  (((s.keepHold g (s.holdLeft p)).modifyPort p fun x => { x with contacts := x.contacts.map orphanHold }).finish g
    .cancelled .stationClosed none).releasePort p

/-- A STOP ends a hold; the STOP has lifted its contacts (R174, R178). -/
def State.holdStopped (s : State) (p : Port) (g : Slot) : State :=
  ((s.keepHold g (s.holdLeft p)).finish g .doneShort .engineStop none).releasePort p

/-- A preemption ends a hold and re-queues its job (R85, R90, R179). -/
def State.holdPreempted (s : State) (p : Port) (g : Slot) : State :=
  (((s.keepLeft p g).liftEntries p false true .orphan).requeuePreempted g).releasePort p

end Sys2Proof.Machine
end

