-- ==== Sys2Proof/Machine/Review.lean ====
section
/-! DEFINITION. The pool scheduler's review: ranking, grant step, preemption step (R65, R66, R72 to R74, R78, R83 to R86),
and the port states that bring it (R120, R121, R91 to R93). -/

namespace Sys2Proof.Machine

/-! ### The grant (R72 to R74, R78) -/

/-- The pool statistics after a grant: a first grant adds its wait, a regrant is counted (R78). -/
def grantStats (first : Bool) (wait : Nat) (x : PoolStats) : PoolStats :=
  if first then
    { x with
      granted := saturate max32 x.granted 1
      waitTotal := saturate max32 x.waitTotal wait
      waitMax := max x.waitMax wait }
  else { x with regrants := saturate max32 x.regrants 1 }

/-- The record after a grant (R73). -/
def grantRecord (clock : Stamp) (p : Port) (j : JobRecord) : JobRecord :=
  { j with
    serviceGrant := some clock
    port := some p
    firstGrant := some (j.firstGrant.getD clock) }

/-- The port after a grant (R74). -/
def grantPort (g : Slot) (level : Nat) (x : PortRecord) : PortRecord :=
  { x with state := .serving, job := some g, holdLevel := level, yieldPending := false, grantNumber := x.grantNumber + 1 }

/-- The port's service engine starts the job by its class (R74). -/
def State.startService (s : State) (p : Port) (g : Slot) : State :=
  match (s.portConfig p).cls with
  | .printer => s.startPrint p g
  | .scanner => s.startScan p g
  | .panel => s.startHold p g
  | .none | .bad => s

/-- A job of rank `rank` is granted to a port (R73, R74). -/
def State.grant (s : State) (g : Slot) (rank : Nat) (p : Port) : State :=
  let j := s.job g
  let left := ((s.handSlot g .serving).leaveQueue g).leaveDeadlines g
  let counted := (left.updateJob g (grantRecord s.ctl.clock p)).updateStats j.pool
    (grantStats j.firstGrant.isNone (interval s.ctl.clock j.acceptStamp))
  (counted.updatePort p (grantPort g (max rank (s.sample (stationOf g)).groupCeiling))).startService p g

/-! ### The review (R66) -/

/-- The lowest-numbered FREE port of a pool (R72). -/
def State.freePort (s : State) (q : Pool) : Option Port := (s.members q).find? fun p => (s.port p).state == .free

/-- The element of the greatest value, the first of equals. -/
def firstBest {α : Type} (value : α → Nat) : List α → Option α
  | [] => none
  | x :: rest =>
    match firstBest value rest with
    | some y => if value x < value y then some y else some x
    | none => some x

/-- The rank that step 1 of a review gave a slot. -/
def rankIn (ranks : List (Slot × Nat)) (g : Slot) : Nat :=
  match ranks.find? fun r => r.1 == g with
  | some r => r.2
  | none => 0

/-- The best waiting job that a review may consider: eligible, not preempted in it, of the highest rank, nearest the
head among equals (R72, R84, R86). -/
def State.bestWaiting (s : State) (q : Pool) (ranks : List (Slot × Nat)) (excluded : List Slot) : Option Slot :=
  firstBest (rankIn ranks) ((s.queue q).filter fun g => s.eligible g && !excluded.contains g)

/-- A candidate port of the preemption step: SERVING a job of another station (R84). -/
def State.isCandidate (s : State) (g : Slot) (p : Port) : Bool :=
  match (s.port p).job with
  | some h => s.isServing p && stationOf h != stationOf g
  | none => false

/-- The candidate port of the lowest hold level, the lowest-numbered among equals (R84). -/
def State.candidate (s : State) (q : Pool) (g : Slot) : Option Port :=
  firstBest (fun p => 256 - (s.port p).holdLevel) ((s.members q).filter (s.isCandidate g))

/-- What the preemption step does for the best waiting job (R83 to R85). -/
inductive Preemption where
  | nothing
  | endHold (p : Port) (g : Slot)
  | askYield (p : Port)
  deriving DecidableEq, Repr

/-- The decision of the preemption step; the pool has no FREE port (R83 to R85). -/
def State.preemption (s : State) (q : Pool) (ranks : List (Slot × Nat)) (g : Slot) : Preemption :=
  if (s.pool q).preempt then
    match s.candidate q g with
    | some p =>
      if (s.port p).holdLevel < rankIn ranks g then
        match s.poolClass q, (s.port p).job with
        | .panel, some h => .endHold p h
        | .printer, _ => .askYield p
        | _, _ => .nothing
      else .nothing
    | none => .nothing
  else .nothing

/-- The yield-pending flag of a port is set (R85). -/
def State.askYield (s : State) (p : Port) : State := s.modifyPort p fun x => { x with yieldPending := true }

/-- Grant steps and preemption steps, until a preemption step does nothing or sets a flag (R66, R86). The bound is
reached by no review: each round grants a slot or preempts one, and a slot preempted is excluded (R86). -/
def State.reviewRounds (q : Pool) (ranks : List (Slot × Nat)) : Nat → List Slot → State → State
  | 0, _, s => s
  | n + 1, excluded, s =>
    match s.bestWaiting q ranks excluded with
    | none => s
    | some g =>
      match s.freePort q with
      | some p => State.reviewRounds q ranks n excluded (s.grant g (rankIn ranks g) p)
      | none =>
        match s.preemption q ranks g with
        | .nothing => s
        | .askYield p => s.askYield p
        | .endHold p h => State.reviewRounds q ranks n (h :: excluded) ((s.holdPreempted p h).latchAged h)

/-- The bound of a review's rounds: a grant and a preemption for each of the 128 slots. -/
def reviewBound : Nat := 257

/-- A review of one pool (R65, R66): in RUNNING and DRAINING its queue is ranked; in RUNNING the grant and preemption
steps follow. -/
def State.review (s : State) (q : Pool) : State :=
  match s.ctl.engine with
  | .running =>
    let ranks := (s.queue q).map fun g => (g, s.rankOf g)
    State.reviewRounds q ranks reviewBound [] (s.latchAll (s.queue q))
  | .draining => s.latchAll (s.queue q)
  | .wiping | .stopped | .starting => s

/-- Pools 0 to 7 are reviewed in order (R40, R59). -/
def State.reviewAll (s : State) : State := allPools.foldl State.review s

/-- The pool of a port is reviewed where the event has made the port FREE (R65). -/
def State.reviewFreed (s : State) (p : Port) : State :=
  if (s.port p).state = .free then s.review (s.portConfig p).pool else s

/-! ### Entry to FAULTED and to FREE (R120, R121) -/

/-- The port after its entry to FAULTED; `none` for the entry by SHEET_LATE, which keeps the last condition (R120). -/
def faultPort (clock : Stamp) (probeInterval : Nat) (p : Port) (c : Option Condition) (x : PortRecord) : PortRecord :=
  { giveUpFrames p (clearService x) with
    state := .faulted
    condition := c.getD x.condition
    probeTimer := startTimer clock (probeInterval * 1000) }

/-- A port enters FAULTED (R120): contacts lifted, frames given up, probe timer started, PORT_DOWN set. -/
def State.enterFaulted (s : State) (p : Port) (c : Option Condition) : State :=
  ((s.liftEntries p true true .orphan).updatePort p
    (faultPort s.ctl.clock (s.portConfig p).probeInterval p c)).setNotice .portDown

/-- A port enters FREE by a STATE READY (R121): probe timer stopped, PORT_UP set, the pool reviewed. -/
def State.enterFree (s : State) (p : Port) : State :=
  ((s.updatePort p fun x => { x with state := .free, condition := .ready, probeTimer := none }).setNotice
    .portUp).review (s.portConfig p).pool

/-! ### Fault ends (R91 to R93, R133, R159, R179) -/

/-- What becomes of the job at a fault end: FAILED at its third fault, a finish by latch or drain, or none for a
re-queue (R92, R93). -/
def State.faultFinish (s : State) (g : Slot) : Option (JobOutcome × Detail) :=
  let j := s.job g
  if 2 ≤ j.faults then some (.failed, .portFaults)
  else if j.cls = some .print ∧ j.cancelLatch then some (.cancelled, .byHost)
  else if j.cls = some .print ∧ j.closeLatch then some (.cancelled, .stationClosed)
  else if s.ctl.engine = .draining then some (.cancelled, .engineStop)
  else none

/-- The progress that a service leaves in the job's record at a fault end: the sheet of a print, the time of a hold
(R133, R179). -/
def State.keepProgress (s : State) (p : Port) (g : Slot) : State :=
  match (s.portConfig p).cls with
  | .printer => s.keepSheet p g
  | .panel => s.keepLeft p g
  | .scanner | .none | .bad => s

/-- A re-queue by fault with the return of a scan's result blocks; the scan service is no longer STARVED when the GO
test is made (R91, R144, R159). -/
def State.requeueByFault (s : State) (p : Port) (g : Slot) : State :=
  ((s.requeueFaulted g).modifyScan p fun _ => {}).returnResults g

/-- A service ends by fault (R91 to R93): the job is finished or re-queued, the port becomes FAULTED, and for a re-queue
the pool is reviewed for the join. -/
def State.faultEnd (s : State) (p : Port) (g : Slot) (c : Option Condition) : State :=
  let kept := s.keepProgress p g
  match s.faultFinish g with
  | some (o, d) => (kept.finish g o d none).enterFaulted p c
  | none => ((kept.requeueByFault p g).enterFaulted p c).review (s.job g).pool

/-- A fault at a port acts by the port's state (R116 to R119). In FAULTED the last condition is set. -/
def State.faultAt (s : State) (p : Port) (c : Condition) : State :=
  match (s.port p).state with
  | .probing | .free => s.enterFaulted p (some c)
  | .serving =>
    match (s.port p).job with
    | some g => s.faultEnd p g (some c)
    | none => s
  | .faulted => s.notePort p fun x => { x with condition := c }
  | .offline => s

end Sys2Proof.Machine
end

