-- ==== Sys2Proof/Machine/Engine.lean ====
section
/-! DEFINITION. Engine control: the commands of CONTROL, the wipe, START with its validation, rebuild and completion, STOP
and the end of draining (R2, R3, R12 to R21), and the meanings of their rows. -/

namespace Sys2Proof.Machine

/-! ### Entry to STOPPED (R20, R113) -/

/-- A port going OFFLINE: frames given up, probe timer stopped, state mirror written; its condition and capability stay
(R20, R111, R113). -/
def offlinePort (p : Port) (x : PortRecord) : PortRecord :=
  { giveUpFrames p x with state := .offline, probeTimer := none }

/-- The engine enters STOPPED from RUNNING or DRAINING (R20): ports OFFLINE, timers stopped, the sweep and the pending
nudges dropped, NOTICE.ENGINE set. -/
def State.enterStopped (s : State) : State :=
  ((allPorts.foldl (fun s p => s.updatePort p (offlinePort p)) s).setControl fun c => { c with
    engine := .stopped
    sweep := none
    sweepTimer := none
    sweepHeld := false
    decayTimer := none
    nudgeVisits := Vector.replicate 32 false
    nudgeSweep := false }).setNotice .engine

/-- The last SERVING port to leave SERVING takes a DRAINING engine to STOPPED in the same event (R20). -/
def drainEnd (before after : State) : State :=
  if after.ctl.engine = .draining ∧ before.anyServing = true ∧ after.anyServing = false then after.enterStopped
  else after

/-- What closes every event: the end of draining (R20) and the interrupt (R7). -/
def closeEvent (before after : State) : State := settleInterrupt before (drainEnd before after)

/-! ### CONTROL (R2, R3) -/

/-- STATUS records a command that R2 judges (R3). -/
def recordCommand (k : Command) (o : CommandOutcome) (r : RefusalReason) (c : Control) : Control :=
  { c with lastCommand := k, lastOutcome := o, refusalReason := r }

/-- A refused command changes STATUS only (R2). -/
def State.refuseCommand (s : State) (k : Command) (r : RefusalReason) : State :=
  s.setControl (recordCommand k .refused r)

/-- How a command is judged in an engine state: accepted, or the reason of its refusal (R2). -/
def judgeCommand : Command → Engine → Option RefusalReason
  | .start, .stopped => none
  | .start, .running => some .wrongState
  | .start, .draining => some .wrongState
  | .start, .starting => some .busy
  | .start, .wiping => some .busy
  | .stop, .running => none
  | .stop, .draining => none
  | .stop, .stopped => some .wrongState
  | .stop, .starting => some .busy
  | .stop, .wiping => some .busy
  | .wipe, .stopped => none
  | .wipe, .running => some .wrongState
  | .wipe, .draining => some .wrongState
  | .wipe, .starting => some .busy
  | .wipe, .wiping => some .busy
  | .reset, .stopped => none
  | .reset, .starting => none
  | .reset, .running => none
  | .reset, .draining => none
  | .reset, .wiping => some .busy
  | .none, _ => none

/-! ### START (R14 to R17) -/

/-- START accepted: STARTING, configuration result NONE, the working copy taken (R3, R14). -/
def State.acceptStart (s : State) : State :=
  s.setControl fun c => { recordCommand .start .accepted .none c with
    engine := .starting
    startPhase := .copied
    configResult := .none
    errorSubject := 0
    work := readWorkingCopy s.mem }

/-- The ports of a working copy with their numbers. -/
def WorkingCopy.badPort (w : WorkingCopy) : Option Port := allPorts.find? fun p => w.ports[p.val].cls == .bad

/-- Some port has a class other than NONE (R15). -/
def WorkingCopy.anyPort (w : WorkingCopy) : Bool := allPorts.any fun p => w.ports[p.val].cls != .none

/-- Two ports of class other than NONE assigned to the pool have different classes (R15). -/
def WorkingCopy.mixed (w : WorkingCopy) (q : Pool) : Bool :=
  allPorts.any fun p => allPorts.any fun r =>
    w.ports[p.val].cls != .none && w.ports[r.val].cls != .none && w.ports[p.val].pool == q &&
      w.ports[r.val].pool == q && w.ports[p.val].cls != w.ports[r.val].cls

/-- The validation: none if all three checks pass, else the code and its subject (R15). -/
def WorkingCopy.validate (w : WorkingCopy) : Option (ConfigResult × Nat) :=
  match w.badPort with
  | some p => some (.portClassBad, p.val)
  | none =>
    if !w.anyPort then some (.noPorts, 0)
    else
      match allPools.find? w.mixed with
      | some q => some (.poolMixed, q.val)
      | none => none

/-- A failed validation: STATUS takes the code, the engine enters STOPPED (R15). -/
def State.failStart (s : State) (r : ConfigResult) (subject : Nat) : State :=
  (s.setControl fun c => { c with engine := .stopped, startPhase := .idle, configResult := r, errorSubject := subject }).setNotice
    .engine

/-! ### The rebuild (R16) -/

/-- A handover fault that the rebuild counts (R16). -/
def State.rebuildFault (s : State) (g : Slot) : State :=
  ((s.updateCounters (stationOf g) .tallies fun c => { c with handoverFaults := saturate max16 c.handoverFaults 1 }).setNotice
    .handover).setStationNotice (stationOf g)

/-- The walk of a FINISHED scan slot's result chain from an index, with at most `n` more blocks (R16). -/
def State.rebuildWalk (g : Slot) : Nat → Nat → State → State
  | n, b, s =>
    if b = 0 then s
    else if isBlock b && s.mark b == .outside then
      match n with
      | 0 => s
      | n + 1 =>
        State.rebuildWalk g n (readLink s.mem b)
          ((s.setMark b .result).updateJob g fun j => { j with resultChain := j.resultChain ++ [b] })
    else s.rebuildFault g

/-- The result word that the rebuild writes: CANCELLED RESET, the clamp bits as read, of the validity flags the accept
stamp's alone (R16, R184; log entry 24). -/
def rebuiltWord (w : Word) : Word := resultWord (outcomePair .cancelled .reset) (field w 16 5) { accept := true }

/-- The rebuild of one slot, by the owner code it reads (R16). -/
def State.rebuildSlot (s : State) (g : Slot) : State :=
  match readOwner s.mem g with
  | some .queued | some .serving =>
    (s.putWord (slotAddress g + 0x18) (rebuiltWord (s.word (slotAddress g + 0x18)))).closeFinish g .cancelled .reset
  | none => (s.handSlot g .empty).rebuildFault g
  | some .finished =>
    let kept := s.setShadow g .finished
    if holdsResultChain s.mem g then State.rebuildWalk g Config.blocks (readFirstResult s.mem g) kept else kept
  | some .empty => s.setShadow g .empty
  | some .posted => s.setShadow g .posted

/-- Every record that the rebuild clears, with the zeros it writes to the mirrors (R16, R163, R196); no job is left on a queue
or on the deadline list (R12). -/
def State.rebuildClear (s : State) : State :=
  let cleared : State := { s with
    marks := Vector.replicate 896 .outside
    slots := s.slots.map clearShadow
    deadlines := [] }
  let s1 := (cleared.setSpare []).mirrorSpare
  let s2 := allStations.foldl State.clearCounters s1
  let s3 := allPools.foldl (fun s q => (s.setQueue q []).clearStats q) s2
  allPorts.foldl (fun s p => (s.clearLineCounters p).clearDiscards p) s3

/-- The rebuild of the slots of a list, in its order. -/
def State.rebuildSlots (s : State) (slots : List Slot) : State := slots.foldl State.rebuildSlot s

/-- The rebuild whole: the records cleared, then the slots in ascending number (R16). -/
def State.rebuild (s : State) : State := s.rebuildClear.rebuildSlots allSlots

/-- The slots that the rebuild has taken when the next command comes, 0..128 (log entry 4). -/
def State.rebuildReach (s : State) : Nat := min 128 (Config.rebuildReach (s.free.drawn + 1))

/-- CONFIGURATION_VALIDATION: the checks; where they pass, the rebuild begins, and has taken a free number of slots when the
next command comes (R15, R16; log entry 4). -/
def State.validateStart (s : State) : State :=
  match s.ctl.work.validate with
  | some (r, subject) => s.failStart r subject
  | none =>
    ((s.rebuildClear.rebuildSlots (allSlots.take s.rebuildReach)).setControl fun c =>
      { c with startPhase := .rebuilding s.rebuildReach }).drawFree

/-! ### START completion (R17, R114) -/

/-- A port at entry to RUNNING: PROBING for a class other than NONE, the receiver HUNTING, condition NONE, capability 0
(R101, R114). A port of class NONE keeps its line at rest, so nothing is left in progress on it (R97). -/
def probingPort (cls : PortClass) (x : PortRecord) : PortRecord :=
  if cls = .none then { x with condition := .none, capability := 0, cut := { x.cut with character := none } }
  else { x with state := .probing, receiver := .hunting, condition := .none, capability := 0 }

/-- A port enters PROBING and its probe offers ASK; a port of class NONE stays OFFLINE (R114). -/
def State.openPort (s : State) (p : Port) : State :=
  let opened := s.updatePort p (probingPort (s.portConfig p).cls)
  if (s.portConfig p).cls = .none then opened else opened.offerAsk p

/-- The mailboxes of a station are written free (R17). -/
def State.openStation (s : State) (st : Station) : State := fourIndices.foldl (fun s r => s.openMailbox st r) s

/-- START completes: RUNNING, first samples, mailboxes free, ports probed, timers started, the first whole sweep begun
as a timed one (R17, R41, R58). -/
def State.completeStart (s : State) : State :=
  let entered := s.setControl fun c => { c with
    engine := .running
    startPhase := .idle
    samples := Vector.ofFn (readSample s.mem)
    sweep := some { nudged := false, next := 0 }
    sweepTimer := startTimer c.clock c.work.sweepInterval
    sweepHeld := false
    decayTimer := if c.work.decayPeriod = 0 then none else startTimer c.clock (c.work.decayPeriod * 1000) }
  let routed := allStations.foldl State.openStation entered.sampleAllZones
  (allPorts.foldl (fun s p => (s.clearContacts p).openPort p) routed).setNotice .engine

/-! ### STOP (R19) -/

/-- One slot at a STOP: a QUEUED job is finished CANCELLED ENGINE_STOP (R19). -/
def State.stopQueued (s : State) (g : Slot) : State :=
  if (s.slot g).state = .queued then s.finishQueued g .cancelled .engineStop else s

/-- One port at a STOP: a serving scan or hold ends at once, a print goes on (R19). -/
def State.stopService (s : State) (p : Port) : State :=
  match (s.port p).state, (s.portConfig p).cls, (s.port p).job with
  | .serving, .scanner, some g => s.endScan p g .doneShort .engineStop
  | .serving, .panel, some g => s.holdStopped p g
  | _, _, _ => s

/-- STOP accepted in RUNNING: DRAINING, queued jobs cancelled, touch stopped, scans and holds ended; STOPPED at once if no
port is SERVING then (R19). -/
def State.drain (s : State) : State :=
  let draining := s.setControl fun c => { recordCommand .stop .accepted .none c with engine := .draining }
  let ended := allPorts.foldl State.stopService (allSlots.foldl State.stopQueued draining).stopTouch
  if ended.anyServing then ended else ended.enterStopped

/-- STOP accepted: in DRAINING it has no effect beyond STATUS (R2). -/
def State.acceptStop (s : State) : State :=
  if s.ctl.engine = .draining then s.setControl (recordCommand .stop .accepted .none) else s.drain

/-! ### WIPE (R13) -/

/-- WIPE accepted: WIPING, and the records that describe memory are cleared (R13). -/
def State.acceptWipe (s : State) : State :=
  { (s.setControl fun c => { recordCommand .wipe .accepted .none c with engine := .wiping }) with
    slots := Vector.replicate 128 {}
    marks := Vector.replicate 896 .outside
    spare := []
    mailboxes := Vector.replicate 32 (Vector.replicate 4 {}) }

/-- The wipe completes: exchange memory is zero, the engine enters STOPPED (R13). -/
def State.completeWipe (s : State) : State :=
  ({ (s.setControl fun c => { c with engine := .stopped }) with mem := [] }).setNotice .engine

/-! ### RESET and power-on (R13, R21) -/

/-- The control registers after an accepted RESET: MASK, the enabled messages and CLOCK keep their values (R21). -/
def resetControl (c : Control) : Control :=
  { engine := .stopped
    lastCommand := .reset
    lastOutcome := .accepted
    mask := c.mask
    messagesEnabled := c.messagesEnabled
    messagesSent := c.messagesSent
    clock := c.clock }

/-- RESET accepted: every record that R21 lists is cleared, a character in progress completes, NOTICE shows ENGINE alone, exchange
memory is not touched (R21, R111). The codes that the part last wrote to each slot are not listed (log entry 7). -/
def State.acceptReset (s : State) : State :=
  { State.reset with
    ctl := resetControl s.ctl
    mem := s.mem
    slots := s.slots.map clearShadow
    notice := noticeMask .engine
    ports := Vector.ofFn fun p => { cut := cutFrame p (s.port p) }
    free := s.free
    pending := s.pending }

/-- The power-on reset: every register and record at its power-on value, exchange memory unknown, the wipe begun (R13; log
entries 5 and 15). -/
def State.powerOn (s : State) : State :=
  { State.reset with
    ctl := { messagesEnabled := s.ctl.messagesEnabled, messagesSent := s.ctl.messagesSent }
    mem := memoryOf (Config.powerOnBytes (s.free.drawn + 1))
    free := { s.free with drawn := s.free.drawn + 1 }
    pending := s.pending }

/-! ### CONTROL writes -/

/-- A CONTROL write of a command is judged by R2 and acted on. -/
def State.control (s : State) (k : Command) : State :=
  match judgeCommand k s.ctl.engine with
  | some reason => s.refuseCommand k reason
  | none =>
    match k with
    | .start => s.acceptStart
    | .stop => s.acceptStop
    | .wipe => s.acceptWipe
    | .reset => s.acceptReset
    | .none => s

/-! ### Meanings -/

/-- POWER_ON_RESET (R13). -/
def execPowerOnReset (s : State) : Host.Outcome State Fault Refusal := .next s.powerOn

/-- WIPE_COMPLETION (R13), while a wipe runs. -/
def execWipeCompletion (s : State) : Host.Outcome State Fault Refusal :=
  if s.ctl.engine = .wiping then .next (closeEvent s s.completeWipe) else .next s

/-- START (R2, R14). -/
def execStart (s : State) : Host.Outcome State Fault Refusal := .next (closeEvent s (s.control .start))

/-- STOP (R2, R19). -/
def execStop (s : State) : Host.Outcome State Fault Refusal := .next (closeEvent s (s.control .stop))

/-- WIPE (R2, R13). -/
def execWipe (s : State) : Host.Outcome State Fault Refusal := .next (closeEvent s (s.control .wipe))

/-- RESET (R2, R21). -/
def execReset (s : State) : Host.Outcome State Fault Refusal := .next (closeEvent s (s.control .reset))

/-- CONFIGURATION_VALIDATION (R15, R16), once the working copy has been taken. -/
def execConfigurationValidation (s : State) : Host.Outcome State Fault Refusal :=
  if s.ctl.engine = .starting ∧ s.ctl.startPhase = .copied then .next (closeEvent s s.validateStart) else .next s

/-- START_COMPLETION (R17): the rebuild takes the slots from `next` on, and START completes when it has taken slot 127. -/
def execStartCompletion (s : State) : Host.Outcome State Fault Refusal :=
  match s.ctl.engine, s.ctl.startPhase with
  | .starting, .rebuilding next => .next (closeEvent s (s.rebuildSlots (allSlots.drop next)).completeStart)
  | _, _ => .next s

end Sys2Proof.Machine
end

