-- ==== Sys2Proof/Machine/Sweep.lean ====
section
/-! DEFINITION. The slot sweeper: whole sweeps, visits, acceptance, cancels, releases, handover faults and station states
(R22 to R47), and the meanings of their rows. -/

namespace Sys2Proof.Machine

/-! ### Acceptance (R30 to R35) -/

/-- The chain walk of acceptance from a block, with at most `n` more blocks (R32, R124). It gives the chain record, or
the detail of the first failure. -/
def chainWalk (s : State) : Nat → Nat → Except Detail (List ChainEntry)
  | 0, _ => .error .chainLoop
  | n + 1, b =>
    let link := readLink s.mem b
    if Config.blocks < link then .error .chainLoop
    else if s.mark b == .spare || s.mark b == .result then .error .chainConflict
    else if link = 0 then .ok [{ block := b, sheetEnd := true }]
    else
      match chainWalk s n link with
      | .ok rest => .ok ({ block := b, sheetEnd := readEndSheet s.mem b } :: rest)
      | .error d => .error d

/-- The pool class that serves a job class (R14). -/
def servingClass : JobClass → PortClass
  | .print => .printer
  | .scan => .scanner
  | .hold => .panel

/-- The station's permission for a job class (R25). -/
def permits (x : StationSample) : JobClass → Bool
  | .print => x.mayPrint
  | .scan => x.mayScan
  | .hold => x.mayHold

/-- Check 4 passes: the pool number is a pool's, of the class that serves the job class (R31). -/
def State.servesPool (s : State) (cls : JobClass) (number : Nat) : Bool :=
  if h : number < 8 then s.poolClass ⟨number, h⟩ == servingClass cls else false

/-- A job that passes validation: its class, its pool, and for a print its chain record (R31). -/
structure Validated where
  cls : JobClass
  pool : Pool
  chain : List ChainEntry
  deriving DecidableEq, Repr

/-- The checks of acceptance that follow check 5, by class (R31, R32). -/
def State.validateParameters (s : State) (r : Request) (cls : JobClass) : Except Detail (List ChainEntry) :=
  match cls with
  | .print => if isBlock r.firstBlock then chainWalk s Config.blocks r.firstBlock else .error .badChain
  | .scan => if 1 ≤ r.mode ∧ r.mode ≤ 3 then .ok [] else .error .badParam
  | .hold => .ok []

/-- The ordered checks of acceptance (R31). -/
def State.validateRequest (s : State) (st : Station) (r : Request) : Except Detail Validated :=
  let x := s.sample st
  if x.state = .closed then .error .stationClosed
  else if x.basePriority = 0 then .error .noPriority
  else
    match r.cls with
    | none => .error .badClass
    | some cls =>
      if !s.servesPool cls r.pool then .error .badPool
      else if !permits x cls then .error .notPermitted
      else
        match s.validateParameters r cls with
        | .error d => .error d
        | .ok chain => .ok { cls, pool := ⟨r.pool % 8, by omega⟩, chain }

/-- The records of a job at its acceptance (R33, R35, R123, R175). -/
def freshJob (clock : Stamp) (r : Request) (v : Validated) : JobRecord :=
  { cls := some v.cls
    pool := v.pool
    urgency := min 3 r.urgency
    acceptStamp := clock
    expiry := if r.deadline = 0 then none else some (clock + BitVec.ofNat 32 (r.deadline * 100))
    clamps := clampFlagsOf r
    chain := v.chain
    copies := if v.cls = .print then max 1 (min 9 r.copies) else 0
    resumeCopy := if v.cls = .print then 1 else 0
    resumeSheet := if v.cls = .print then 1 else 0
    mode := if v.cls = .scan then r.mode else 0
    resolution := if v.cls = .scan then min 3 r.resolution else 0
    maxBytes := if v.cls = .scan then orDefault r.maxBytes Config.allBlockBytes else 0
    holdRemaining := if v.cls = .hold then clampDuration r.duration * 1000 else 0 }

/-- The writes of an acceptance: the accept stamp, the result word with the clamp flags and only the accept stamp valid,
then the owner field QUEUED (R35). The word is written whole (R194, R199), with the outcome and the detail of the part's own
copy, NONE and NONE until the slot's first finish (R10, R185; log entry 7). -/
def State.writeAcceptance (s : State) (g : Slot) (clamps : ClampFlags) : State :=
  ((s.putWord (slotAddress g + 0x1C) s.ctl.clock).putWord (slotAddress g + 0x18)
    (resultWord (codesPair (s.slot g).codes) (clampBits clamps) { accept := true })).handSlot g .queued

/-- A slot becomes QUEUED: stamp, records, writes, queue and list, loans, review (R35). -/
def State.enqueue (s : State) (g : Slot) (r : Request) (v : Validated) : State :=
  let j := freshJob s.ctl.clock r v
  let written := (s.setSlot g { s.slot g with job := j }).writeAcceptance g j.clamps
  let queued := written.joinQueue g
  let listed := if r.deadline = 0 then queued else queued.joinDeadlines g
  (listed.lendAll v.chain).review v.pool

/-- Acceptance: a refusal, a cancel before acceptance, or a QUEUED job (R30, R31, R34, R35). -/
def State.accept (s : State) (g : Slot) : State :=
  let r := readRequest s.mem g
  match s.validateRequest (stationOf g) r with
  | .error d => s.refuse g r.cls d
  | .ok v => if r.cancel ≠ 0 then s.cancelBeforeAccept g r.cls (clampFlagsOf r) else s.enqueue g r v

/-! ### Examination of a slot (R26 to R29, R36 to R38) -/

/-- Release (R29): the result chain released, the records cleared, the shadow EMPTY, nothing written to the slot. -/
def State.release (s : State) (g : Slot) : State := (s.releaseResults g).setSlot g (clearShadow (s.slot g))

/-- A handover fault (R28): the shadow's code written back, the count raised and its mirror written, both notices set. -/
def State.handoverFault (s : State) (g : Slot) : State :=
  (((s.putWord (slotAddress g) (ownerCode (s.slot g).state)).updateCounters (stationOf g) .tallies fun c =>
    { c with handoverFaults := saturate max16 c.handoverFaults 1 }).setNotice .handover).setStationNotice (stationOf g)

/-- A cancel seen at a serving job (R37, R38). -/
def State.cancelServing (s : State) (g : Slot) : State :=
  match (s.job g).port, (s.job g).cls with
  | _, some .print => s.updateJob g fun j => { j with cancelLatch := true }
  | some p, some .scan => (s.endScan p g .cancelled .byHost).reviewFreed p
  | some p, some .hold => (s.holdCancelled p g).reviewFreed p
  | _, _ => s

/-- Acceptance where the engine is RUNNING; in DRAINING the slot is left POSTED (R26). -/
def State.acceptIfRunning (s : State) (g : Slot) : State := if s.ctl.engine = .running then s.accept g else s

/-- The examination of one slot: mirror against shadow (R26). -/
def State.examine (s : State) (g : Slot) : State :=
  match (s.slot g).state, readOwner s.mem g with
  | .empty, some .empty => s
  | .empty, some .posted => s.acceptIfRunning g
  | .posted, some .posted => s.acceptIfRunning g
  | .queued, some .queued => if readCancel s.mem g ≠ 0 then s.finishQueued g .cancelled .byHost else s
  | .serving, some .serving => if readCancel s.mem g ≠ 0 then s.cancelServing g else s
  | .finished, some .finished => s
  | .finished, some .empty => s.release g
  | .finished, some .posted => (s.release g).acceptIfRunning g
  | _, _ => s.handoverFault g

/-! ### Station states (R44 to R46) -/

/-- The close of a station acts on one slot by its shadow; the review that a service end brings follows the close (R45,
R67). -/
def State.closeSlot (s : State) (g : Slot) : State :=
  match (s.slot g).state with
  | .queued => s.finishQueued g .cancelled .stationClosed
  | .serving =>
    match (s.job g).port, (s.job g).cls with
    | _, some .print => s.updateJob g fun j => { j with closeLatch := true }
    | some p, some .scan => s.endScan p g .cancelled .stationClosed
    | some p, some .hold => s.holdClosed p g
    | _, _ => s
  | .empty | .posted | .finished => s

/-- The port whose service the close of a station ends at a slot: that of a serving scan or hold (R45). -/
def State.closedPort (s : State) (g : Slot) : Option Port :=
  match (s.slot g).state, (s.job g).cls with
  | .serving, some .scan => (s.job g).port
  | .serving, some .hold => (s.job g).port
  | _, _ => none

/-- The four slots of a station in index order. -/
def slotsOf (st : Station) : List Slot := fourIndices.map (slotOf st)

/-- A station closes: its slots first, then the touch router, then one review for each service end, in the order of the slots
(R45, R46, R65, R67; log entry 21). Where two of the ports are of one pool it is reviewed twice, also where the first review has
granted both. -/
def State.closeStation (s : State) (st : Station) : State :=
  ((slotsOf st).filterMap s.closedPort).foldl (fun s p => s.review (s.portConfig p).pool)
    (((slotsOf st).foldl State.closeSlot s).closeTouch st)

/-- A station reopens from SUSPENDED: each pool whose queue holds one of its jobs is reviewed (R44). -/
def State.reopenStation (s : State) (st : Station) : State :=
  allPools.foldl (fun s q => if (s.queue q).any fun g => stationOf g == st then s.review q else s) s

/-- The change of station state that a sample brings (R44, R45). -/
def State.changeStation (s : State) (st : Station) (before after : StationState) : State :=
  match before, after with
  | .opened, .closed => s.closeStation st
  | .suspended, .closed => s.closeStation st
  | .suspended, .opened => s.reopenStation st
  | .opened, .suspended => s
  | .closed, _ => s
  | .opened, .opened => s
  | .suspended, .suspended => s

/-! ### Visits and whole sweeps (R24, R40 to R43) -/

/-- The engine sweeps in RUNNING and DRAINING (R43). -/
def sweeping (e : Engine) : Bool := e == .running || e == .draining

/-- The lowest station with a pending visit request (R42). -/
def Control.nudgedStation (c : Control) : Option Station := allStations.find? fun st => c.nudgeVisits[st.val]

/-- The visit that the sweeper makes next: of the lowest requested station, else of the whole sweep's next station; none
between station 31 and the end of the sweep (R42). -/
def Control.visitDue (c : Control) : Option Station :=
  if !sweeping c.engine then none
  else
    match c.sweep with
    | none => c.nudgedStation
    | some w =>
      if h : w.next < 32 then
        match c.nudgedStation with
        | some st => some st
        | none => some ⟨w.next, h⟩
      else none

/-- A visit begins: its station's pending request is cleared, and the whole sweep it belongs to moves on, if no request
brought it (R42); the sample is replaced (R25). -/
def beginVisit (m : Memory) (st : Station) (c : Control) : Control :=
  { c with
    sweep := match c.nudgedStation, c.sweep with
      | none, some w => some { w with next := w.next + 1 }
      | _, w => w
    nudgeVisits := c.nudgeVisits.set st.val false
    samples := c.samples.set st.val (readSample m st) }

/-- A visit: sample, station state change, examination of slots 0 to 3 (R24). -/
def State.makeVisit (s : State) (st : Station) : State :=
  let sampled := s.setControl (beginVisit s.mem st)
  let changed := sampled.changeStation st (s.sample st).state (sampled.sample st).state
  (slotsOf st).foldl State.examine changed

/-- A whole sweep is due to begin: none is in progress, no station request is pending, and a timer expiry is held or a
whole sweep requested (R41, R42). DESIGN CHOICE, unsafe: a station request that is written while those pending at the sweep's
moment are served holds it back as well (log entry 34). -/
def Control.sweepDue (c : Control) : Bool :=
  sweeping c.engine && c.sweep.isNone && c.nudgedStation.isNone && (c.sweepHeld || c.nudgeSweep)

/-- A whole sweep begins: nudged if requested, which clears a held expiry with the request; else timed, which restarts the
sweep timer (R41, R42). -/
def beginSweep (c : Control) : Control :=
  if c.nudgeSweep then { c with sweep := some { nudged := true, next := 0 }, nudgeSweep := false, sweepHeld := false }
  else { c with
    sweep := some { nudged := false, next := 0 }
    sweepHeld := false
    sweepTimer := startTimer c.clock c.work.sweepInterval }

/-- A whole sweep that is due begins. -/
def startSweepIfDue (c : Control) : Control := if c.sweepDue then beginSweep c else c

/-- The sweep timer expires (R41): the expiry is held, dropped in a nudged sweep, and begins a sweep that is due. -/
def expireSweepTimer (c : Control) : Control :=
  match c.sweep with
  | some w => { c with sweepTimer := none, sweepHeld := c.sweepHeld || !w.nudged }
  | none => startSweepIfDue { c with sweepTimer := none, sweepHeld := true }

/-- The end of a whole sweep: after a nudged one the sweep timer restarts and a held expiry is dropped (R41). -/
def endSweep (w : Sweep) (c : Control) : Control :=
  if w.nudged then { c with
    sweep := none, sweepHeld := false, sweepTimer := startTimer c.clock c.work.sweepInterval }
  else { c with sweep := none }

/-- The closing steps of a whole sweep: zone samples, refill splice, reviews (R40). -/
def State.closeSweep (s : State) (w : Sweep) : State :=
  s.sampleAllZones.spliceRefill.reviewAll.setControl (endSweep w)

/-- The sweep timer's expiry as an event (R41, R51). -/
def State.sweepTimerEvent (s : State) : State :=
  if timerReached s.ctl.clock s.ctl.sweepTimer && sweeping s.ctl.engine then s.setControl expireSweepTimer else s

/-! ### Meanings -/

/-- SWEEP_TIMER_EXPIRY (R41), at the tick that reaches the timer. -/
def execSweepTimerExpiry (s : State) : Host.Outcome State Fault Refusal := .next (closeEvent s s.sweepTimerEvent)

/-- WHOLE_SWEEP_START (R41, R42), where a whole sweep is due. -/
def execWholeSweepStart (s : State) : Host.Outcome State Fault Refusal := .next (s.setControl startSweepIfDue)

/-- VISIT (R24), where the visit to that station is the one due. -/
def execVisit (st : Station) (s : State) : Host.Outcome State Fault Refusal :=
  if s.ctl.visitDue = some st then .next (closeEvent s (s.makeVisit st)) else .next s

/-- WHOLE_SWEEP_END (R40), after the visit to station 31. -/
def execWholeSweepEnd (s : State) : Host.Outcome State Fault Refusal :=
  match s.ctl.sweep with
  | some w =>
    if sweeping s.ctl.engine && decide (32 ≤ w.next) then .next (closeEvent s (s.closeSweep w)) else .next s
  | none => .next s

end Sys2Proof.Machine
end

