-- ==== Sys2Proof/Machine/LineEvents.lean ====
section
/-! DEFINITION. What arrives on a line and what is sent on it: the frame receiver (R101 to R103), the dispatch of good
frames (R105), answers (R108, R109), STATE at each port state (R115 to R119), and the meanings of their rows. -/

namespace Sys2Proof.Machine

/-! ### Answers (R108, R109) -/

/-- The owner of a completed frame is told, if it is the port's current service (R108). -/
def State.tellService (s : State) (p : Port) (f : Offered) : State :=
  match (s.port p).state, (s.port p).job with
  | .serving, some g =>
    if f.owner = .service (s.port p).grantNumber then
      match f.frame with
      | .feed _ => s.feedAnswered p g
      | .openScan _ _ => s.modifyScan p fun x => { x with phase := .taking }
      | .closeScan => s.finishScan p g .doneShort .truncated none
      | .ask => s
    else s
  | _, _ => s

/-- The outstanding frame awaits its answer and an ACK answers it (R108). -/
def ackAnswers (t : Transmitter) : Option Offered :=
  match awaitedFrame t with
  | some f => if f.frame = .ask then none else some f
  | none => none

/-- The pool is reviewed where the event has ended the port's service and made it FREE (R65). -/
def State.reviewEnded (s : State) (before : State) (p : Port) : State :=
  if before.isServing p then s.reviewFreed p else s

/-- A good ACK (R108). -/
def State.ackTaken (s : State) (p : Port) : State :=
  match ackAnswers (s.port p).transmitter with
  | some f => ((s.transmit p completeFrame).tellService p f).reviewEnded s p
  | none => s

/-- A send of the outstanding frame ends without success: it is sent again, or the transmission has failed with the
condition (R109). The waiting frame moves up only where the port is left outside FAULTED. -/
def State.sendFailed (s : State) (p : Port) (c : Condition) : State :=
  match (s.port p).transmitter.outstanding with
  | some o =>
    if o.sends < 3 then
      (s.updateLineCounters p fun x => { x with resend := saturate max32 x.resend 1 }).transmit p (resendFrame o)
    else
      let failed := (s.transmit p abandonOutstanding).faultAt p c
      if (failed.port p).state = .faulted then failed else failed.transmit p moveUp
  | none => s

/-- A good NAK (R108, R109). -/
def State.nakTaken (s : State) (p : Port) : State :=
  match awaitedFrame (s.port p).transmitter with
  | some _ => s.sendFailed p .lineRefused
  | none => s

/-! ### STATE (R115 to R119) -/

/-- A STATE with the condition overtakes the first send of the ASK that the probe of a FAULTED port has offered: READY alone
(R119, R122). -/
def State.readyOvertakes (s : State) (p : Port) (c : Condition) : Bool :=
  c == .ready && (s.port p).state == .faulted && firstAskDue (s.port p).transmitter

/-- A good STATE completes an ASK that awaits its answer (R108); a READY at a FAULTED port also completes one whose first send
is not over (R122). Any other ASK is left outstanding: one of a PROBING or FREE port that the STATE arrives before, and one
that is being sent again (R110, R116, R117; log entry 30). -/
def State.stateAnswers (s : State) (p : Port) (c : Condition) : State :=
  match awaitedFrame (s.port p).transmitter with
  | some f => if f.frame = .ask then s.transmit p completeFrame else s
  | none => if s.readyOvertakes p c then s.transmit p completeUnsent else s

/-- READY and BUSY are conditions of a working peripheral (R115). -/
def working (c : Condition) : Bool := c == .ready || c == .busy

/-- A good STATE acts by the port state (R116 to R119). -/
def State.stateActs (s : State) (p : Port) (c : Condition) : State :=
  match (s.port p).state with
  | .offline => s
  | .probing => if c = .ready then s.enterFree p else s.enterFaulted p (some c)
  | .free => if working c then s else s.enterFaulted p (some c)
  | .serving =>
    match (s.port p).job with
    | some g =>
      if working c then
        if (s.portConfig p).cls = .printer then (s.printCondition p g c).reviewEnded s p else s
      else s.faultEnd p g (some c)
    | none => s
  | .faulted => if c = .ready then s.enterFree p else s

/-- A good STATE: it answers an ASK, sets the last condition and the capability, whose mirrors are written where one of them
changes, and acts by the port state (R105, R108, R113, R115). -/
def State.stateTaken (s : State) (p : Port) (c : Condition) (capability : Byte) : State :=
  (((s.stateAnswers p c).notePort p fun x => { x with
    condition := c, capability := capabilityOf (s.portConfig p).cls capability }).stateActs p c)

/-! ### Dispatch (R105) -/

/-- The job that a port of a class is serving. -/
def State.servedJob (s : State) (p : Port) (cls : PortClass) : Option Slot :=
  if (s.port p).state = .serving ∧ (s.portConfig p).cls = cls then (s.port p).job else none

/-- A good CONTACT frame at a FREE or SERVING panel; in DRAINING it is discarded (R105, R162). -/
def State.contactTaken (s : State) (p : Port) (reports : List ContactReport) : State :=
  if (s.portConfig p).cls = .panel ∧ ((s.port p).state = .free ∨ (s.port p).state = .serving) ∧
      s.ctl.engine = .running then
    reports.foldl (State.takeReport p) s
  else s

/-- A good frame is handed on by its kind and the port state (R105). -/
def State.dispatch (s : State) (p : Port) (f : PeripheralFrame) : State :=
  match f with
  | .ack => s.ackTaken p
  | .nak => s.nakTaken p
  | .state code capability =>
    match goodCondition (s.portConfig p).cls code with
    | some c => s.stateTaken p c capability
    | none => s
  | .sheet =>
    match s.servedJob p .printer with
    | some g => (s.sheetTaken p g).reviewEnded s p
    | none => s
  | .image data =>
    match s.servedJob p .scanner with
    | some g => s.imageTaken p g data
    | none => s
  | .imageEnd total =>
    match s.servedJob p .scanner with
    | some g => (s.imageEndTaken p g total).reviewEnded s p
    | none => s
  | .contact reports => s.contactTaken p reports

/-! ### The frame receiver (R101 to R103) -/

def State.countNoise (s : State) (p : Port) : State :=
  s.updateLineCounters p fun x => { x with noise := saturate max32 x.noise 1 }

def State.countFraming (s : State) (p : Port) : State :=
  s.updateLineCounters p fun x => { x with framing := saturate max32 x.framing 1 }

def State.countCheck (s : State) (p : Port) : State :=
  s.updateLineCounters p fun x => { x with check := saturate max32 x.check 1 }

def State.setReceiver (s : State) (p : Port) (r : Receiver) : State := s.modifyPort p fun x => { x with receiver := r }

/-- The port's scan service is taking IMAGE and IMAGE-END frames (R103, R151). -/
def State.takingImages (s : State) (p : Port) : Bool :=
  (s.servedJob p .scanner).isSome && takesFrames (s.port p).scan

/-- A frame that failed its check is counted; a failed IMAGE or IMAGE-END that the scan service takes is answered NAK
(R103). -/
def State.rejectCheck (s : State) (p : Port) (kind : Byte) : State :=
  let counted := s.countCheck p
  if (kind = 0x22 ∨ kind = 0x23) ∧ s.takingImages p = true then counted.reply p .nak else counted

/-- The frame that passes the judgement of R103, none where the frame is malformed. -/
def State.judged (s : State) (p : Port) (kind : Byte) (payload : List Byte) : Option PeripheralFrame :=
  match parseFrame kind payload with
  | some f => if goodFrame (s.portConfig p).cls f then some f else none
  | none => none

/-- A complete frame is judged, and a good one dispatched in the same event (R103). The receiver enters HUNTING (R102). -/
def State.frameComplete (s : State) (p : Port) (kind : Byte) (payload : List Byte) (check : Byte) : State :=
  let hunting := s.setReceiver p .hunting
  if !checkHolds kind payload check then hunting.rejectCheck p kind
  else
    match s.judged p kind payload with
    | some f => hunting.dispatch p f
    | none => hunting.countFraming p

/-- A GOOD character with mark bit 0: taken in IN_FRAME, discarded in HUNTING (R101, R102). -/
def State.frameCharacter (s : State) (p : Port) (b : Byte) : State :=
  match (s.port p).receiver with
  | .hunting | .lineLow => s
  | .awaitLength kind =>
    if 120 < b.toNat then (s.setReceiver p .hunting).countFraming p
    else if b.toNat = 0 then s.setReceiver p (.awaitCheck kind [])
    else s.setReceiver p (.awaitPayload kind b.toNat [])
  | .awaitPayload kind length got =>
    if got.length + 1 < length then s.setReceiver p (.awaitPayload kind length (got ++ [b]))
    else s.setReceiver p (.awaitCheck kind (got ++ [b]))
  | .awaitCheck kind payload => s.frameComplete p kind payload b

/-- The frame receiver takes a character (R101, R102). -/
def State.receive (s : State) (p : Port) (c : Character) : State :=
  match c.quality with
  | .noisy => (s.setReceiver p .hunting).countNoise p
  | .framing => (s.setReceiver p .hunting).countFraming p
  | .good =>
    if c.mark then
      match (s.port p).receiver with
      | .hunting | .lineLow => s.setReceiver p (.awaitLength c.data)
      | _ => (s.countFraming p).setReceiver p (.awaitLength c.data)
    else s.frameCharacter p c.data

/-- The receiver of a port is stopped while the port is OFFLINE (R98, R105). -/
def State.listening (s : State) (p : Port) : Bool := (s.port p).state != .offline

/-- The receiver finds the character's start edge: after a low stop bit a high sample must have come first, so that a line
held low yields nothing more (R98). -/
def State.edgeFound (s : State) (p : Port) (c : LineCharacter) : Bool := (s.port p).receiver != .lineLow || c.afterHigh

/-- The wait for a high sample is over (R98). -/
def State.endWait (s : State) (p : Port) : State :=
  if (s.port p).receiver = .lineLow then s.setReceiver p .hunting else s

/-- A qualified character is taken, and after a low stop bit the receiver waits for a high sample (R98, R99). -/
def State.takeCharacter (s : State) (p : Port) (ch : Character) : State :=
  if ch.quality = .framing then (s.receive p ch).setReceiver p .lineLow else s.receive p ch

/-- A character on a line: the receiver samples it from its start edge while the port is not OFFLINE, and takes it if its
start bit qualifies; after a false start it looks for the next edge (R98, R99). -/
def State.characterEvent (s : State) (p : Port) (c : LineCharacter) : State :=
  if s.listening p && s.edgeFound p c then
    match qualify c with
    | some ch => (s.endWait p).takeCharacter p ch
    | none => s.endWait p
  else s

/-- A whole frame at a listening port, as its last character completes it with a check that holds: a good frame is
dispatched, any other is malformed (R103; log entry 8). -/
def State.frameEvent (s : State) (p : Port) (f : PeripheralFrame) : State :=
  if s.listening p then
    let hunting := s.setReceiver p .hunting
    if goodFrame (s.portConfig p).cls f then hunting.dispatch p f else hunting.countFraming p
  else s

/-- A complete frame that the receiver rejects (R103); a frame that it would not reject is not one (log entry 2). -/
def State.rejectEvent (s : State) (p : Port) (kind : Byte) (payload : List Byte) (check : Byte) : State :=
  if s.listening p then
    let hunting := s.setReceiver p .hunting
    if !checkHolds kind payload check then hunting.rejectCheck p kind
    else
      match s.judged p kind payload with
      | some _ => s
      | none => hunting.countFraming p
  else s

/-- The port after the check character of the frame being sent (R107); a character that was cut off before that frame was
begun has been sent too. -/
def portSent (clock : Stamp) (timeout : Nat) (x : PortRecord) : PortRecord :=
  match x.transmitter.sending with
  | .idle => x
  | _ => { x with transmitter := frameDone clock timeout x.transmitter, cut := { x.cut with character := none } }

/-- The check character of the frame being sent has been sent (R107). -/
def State.sentEvent (s : State) (p : Port) : State :=
  s.modifyPort p (portSent s.ctl.clock (s.portConfig p).responseTimeout)

/-! ### Meanings -/

/-- CHARACTER_RECEIVED (R98 to R103). -/
def execCharacterReceived (p : Port) (c : LineCharacter) (s : State) : Host.Outcome State Fault Refusal :=
  .next (closeEvent s (s.characterEvent p c))

/-- FRAME_REJECTED (R103). -/
def execFrameRejected (p : Port) (kind : Byte) (payload : List Byte) (check : Byte) (s : State) :
    Host.Outcome State Fault Refusal :=
  .next (closeEvent s (s.rejectEvent p kind payload check))

/-- STATE_FRAME (R115 to R119). -/
def execStateFrame (p : Port) (condition capability : Byte) (s : State) : Host.Outcome State Fault Refusal :=
  .next (closeEvent s (s.frameEvent p (.state condition capability)))

/-- SHEET_FRAME (R130). -/
def execSheetFrame (p : Port) (s : State) : Host.Outcome State Fault Refusal :=
  .next (closeEvent s (s.frameEvent p .sheet))

/-- IMAGE_FRAME (R152, R153, R157). -/
def execImageFrame (p : Port) (data : List Byte) (s : State) : Host.Outcome State Fault Refusal :=
  .next (closeEvent s (s.frameEvent p (.image data)))

/-- IMAGE_END_FRAME (R156). -/
def execImageEndFrame (p : Port) (total : Word) (s : State) : Host.Outcome State Fault Refusal :=
  .next (closeEvent s (s.frameEvent p (.imageEnd total)))

/-- CONTACT_FRAME (R162). -/
def execContactFrame (p : Port) (reports : List ContactReport) (s : State) : Host.Outcome State Fault Refusal :=
  .next (closeEvent s (s.frameEvent p (.contact reports)))

/-- ACK_FRAME (R108). -/
def execAckFrame (p : Port) (s : State) : Host.Outcome State Fault Refusal :=
  .next (closeEvent s (s.frameEvent p .ack))

/-- NAK_FRAME (R109). -/
def execNakFrame (p : Port) (s : State) : Host.Outcome State Fault Refusal :=
  .next (closeEvent s (s.frameEvent p .nak))

/-- FRAME_SENT (R107). -/
def execFrameSent (p : Port) (s : State) : Host.Outcome State Fault Refusal := .next (s.sentEvent p)

end Sys2Proof.Machine
end

