-- ==== Sys2Proof/Machine/Timers.lean ====
section
/-! DEFINITION. The clock unit and the expiries: the hall tick, the deadline comparison, the decay step, and the timers of
the ports (R48, R51, R55, R56, R58, R59, R109, R119, R131, R155, R177), and the meanings of their rows. -/

namespace Sys2Proof.Machine

/-! ### Deadlines (R55, R56) -/

/-- The head of the deadline list, where the comparison finds its expiry stamp reached (R55). -/
def State.expiredHead (s : State) : Option Slot :=
  match s.deadlines with
  | g :: _ =>
    match (s.job g).expiry with
    | some e => if sweeping s.ctl.engine && reached s.ctl.clock e then some g else none
    | none => none
  | [] => none

/-- A job expires: it leaves queue and list, the pool's expiries rise, the slot finishes EXPIRED NOT_GRANTED (R56). -/
def State.expireJob (s : State) (g : Slot) : State :=
  ((((s.leaveQueue g).leaveDeadlines g).updateStats (s.job g).pool fun x =>
    { x with expiries := saturate max32 x.expiries 1 }).finish g .expired .notGranted none)

/-- The expiry of the head of the deadline list, as an event (R55, R56). -/
def State.deadlineEvent (s : State) : State :=
  match s.expiredHead with
  | some g => s.expireJob g
  | none => s

/-! ### Decay (R58, R59) -/

/-- A station's usage score is halved, rounding down, and its mirror written where that changes it (R59, R76). -/
def State.halveUsage (s : State) (st : Station) : State :=
  if (s.counters st).usage = 0 then s else s.updateCounters st .scores fun c => { c with usage := c.usage / 2 }

/-- A decay step: every usage score halved, rounding down, and every pool reviewed (R59). -/
def State.decayStep (s : State) : State := (allStations.foldl State.halveUsage s).reviewAll

/-- The decay timer's expiry (R58). -/
def State.decayEvent (s : State) : State :=
  if timerReached s.ctl.clock s.ctl.decayTimer && sweeping s.ctl.engine then
    (s.setControl fun c => { c with decayTimer := startTimer c.clock (c.work.decayPeriod * 1000) }).decayStep
  else s

/-! ### The timers of a port -/

/-- The response timer's expiry (R109). -/
def State.responseEvent (s : State) (p : Port) : State :=
  if timerReached s.ctl.clock (s.port p).transmitter.responseTimer then
    (s.transmit p fun t => { t with responseTimer := none }).sendFailed p .lineSilent
  else s

/-- The probe timer's expiry at a FAULTED port (R119): it restarts, and ASK is offered if no frame is outstanding. -/
def State.probeEvent (s : State) (p : Port) : State :=
  if timerReached s.ctl.clock (s.port p).probeTimer ∧ (s.port p).state = .faulted then
    let restarted := s.modifyPort p fun x =>
      { x with probeTimer := startTimer s.ctl.clock ((s.portConfig p).probeInterval * 1000) }
    if (s.port p).transmitter.outstanding.isNone then restarted.offerAsk p else restarted
  else s

/-- The sheet timer's expiry at a serving print: a fault end by SHEET_LATE (R131). -/
def State.sheetEvent (s : State) (p : Port) : State :=
  if timerReached s.ctl.clock (s.port p).print.sheetTimer then
    match s.servedJob p .printer with
    | some g => s.faultEnd p g none
    | none => s
  else s

/-- The starve timer's expiry at a STARVED scan (R155). -/
def State.starveEvent (s : State) (p : Port) : State :=
  if timerReached s.ctl.clock (s.port p).scan.starveTimer ∧ (s.port p).scan.phase = .starved then
    match s.servedJob p .scanner with
    | some g => (s.starveOut p g).reviewFreed p
    | none => s
  else s

/-- The hold timer's expiry while HOLDING (R177). -/
def State.holdEvent (s : State) (p : Port) : State :=
  if timerReached s.ctl.clock (s.port p).hold.timer ∧ (s.port p).hold.phase = .holding then
    match s.servedJob p .panel with
    | some g => (s.holdExpired p g).reviewFreed p
    | none => s
  else s

/-! ### The hall tick (R48) -/

/-- Some expiry is due at the clock value: the head of the deadline list or a running timer is reached (R51, R55). -/
def State.expiryDue (s : State) : Bool :=
  s.expiredHead.isSome || timerReached s.ctl.clock s.ctl.sweepTimer || timerReached s.ctl.clock s.ctl.decayTimer ||
    allPorts.any fun p =>
      timerReached s.ctl.clock (s.port p).transmitter.responseTimer || timerReached s.ctl.clock (s.port p).probeTimer ||
      timerReached s.ctl.clock (s.port p).print.sheetTimer || timerReached s.ctl.clock (s.port p).scan.starveTimer ||
      timerReached s.ctl.clock (s.port p).hold.timer

/-- An event of its own inside a tick: its effect and what closes it. -/
def State.ownEvent (f : State → State) (s : State) : State := closeEvent s (f s)

/-- The expiries of one port's timers. -/
def State.portExpiries (s : State) (p : Port) : State :=
  [fun s => s.responseEvent p, fun s => s.probeEvent p, fun s => s.sheetEvent p, fun s => s.starveEvent p,
    fun s => s.holdEvent p].foldl (fun s f => State.ownEvent f s) s

/-- The deadline comparison, repeated until the list is empty or its head is not reached (R55). -/
def State.deadlineExpiries : Nat → State → State
  | 0, s => s
  | n + 1, s => if s.expiredHead.isSome then State.deadlineExpiries n (s.ownEvent State.deadlineEvent) else s

/-- The expiries of the present clock value that the queue has not supplied as steps of their own (log entry 1). -/
def State.takeExpiries (s : State) : State :=
  let d := State.deadlineExpiries s.deadlines.length s
  let t := (d.ownEvent State.sweepTimerEvent).ownEvent State.decayEvent
  allPorts.foldl State.portExpiries t

/-- The clock rises by 1, modulo 2^32 (R48). -/
def State.raiseClock (s : State) : State := s.setControl fun c => { c with clock := c.clock + 1 }

/-- A hall tick: expiries still due at the old value are taken, then the clock rises (R48; log entry 1). -/
def State.tick (s : State) : State := if s.expiryDue then s.takeExpiries.raiseClock else s.raiseClock

/-! ### Meanings -/

/-- HALL_TICK (R48). -/
def execHallTick (s : State) : Host.Outcome State Fault Refusal := .next s.tick

/-- DEADLINE_EXPIRY (R55, R56), where the head of the list is reached. -/
def execDeadlineExpiry (s : State) : Host.Outcome State Fault Refusal := .next (closeEvent s s.deadlineEvent)

/-- DECAY_TIMER_EXPIRY (R58, R59), at the tick that reaches the timer. -/
def execDecayTimerExpiry (s : State) : Host.Outcome State Fault Refusal := .next (closeEvent s s.decayEvent)

/-- RESPONSE_TIMER_EXPIRY (R109), at the tick that reaches the timer. -/
def execResponseTimerExpiry (p : Port) (s : State) : Host.Outcome State Fault Refusal :=
  .next (closeEvent s (s.responseEvent p))

/-- PROBE_TIMER_EXPIRY (R119), at the tick that reaches the timer. -/
def execProbeTimerExpiry (p : Port) (s : State) : Host.Outcome State Fault Refusal :=
  .next (closeEvent s (s.probeEvent p))

/-- SHEET_TIMER_EXPIRY (R131), at the tick that reaches the timer. -/
def execSheetTimerExpiry (p : Port) (s : State) : Host.Outcome State Fault Refusal :=
  .next (closeEvent s (s.sheetEvent p))

/-- STARVE_TIMER_EXPIRY (R155), at the tick that reaches the timer. -/
def execStarveTimerExpiry (p : Port) (s : State) : Host.Outcome State Fault Refusal :=
  .next (closeEvent s (s.starveEvent p))

/-- HOLD_TIMER_EXPIRY (R177), at the tick that reaches the timer. -/
def execHoldTimerExpiry (p : Port) (s : State) : Host.Outcome State Fault Refusal :=
  .next (closeEvent s (s.holdEvent p))

end Sys2Proof.Machine
end

