-- ==== Sys2Proof/WellFormed.lean ====
section
/-! DEFINITION. When a command is one that its row describes. A command that is not well formed still has a
meaning where the manual gives it one; the per-row statements are about the well-formed ones. -/

namespace Sys2Proof

/-- All four byte lanes are enabled (R1, R9). -/
def allLanes : BitVec 4 := 0xF

/-- A register write that R1, R2 and R4 have the part ignore: not all byte lanes, an offset with no register or of
a read-only one, an unknown CONTROL code, or a NUDGE word that names nothing. -/
def ignoredRegisterWrite (offset : Nat) (lanes : BitVec 4) (value : Word) : Bool :=
  lanes != allLanes ||
  match offset with
  | 0x00 => decide (¬ (1 ≤ (value.extractLsb' 0 8).toNat ∧ (value.extractLsb' 0 8).toNat ≤ 4))
  | 0x08 => decide (¬ (value.toNat < 32 ∨ value.toNat = 63))
  | 0x0C => false
  | 0x10 => false
  | 0x14 => false
  | _ => true

/-- At least two of the three samples of a start bit are low (R98). -/
def startQualified (b : BitSamples) : Bool :=
  !(b.first && b.second || b.first && b.third || b.second && b.third)

/-- The operands are those of the command's row. -/
def Instr.wellFormed : Instr → Bool
  | .registerWriteIgnored offset lanes value =>
      offset % 4 == 0 && decide (offset < Config.registerWindowBytes) && ignoredRegisterWrite offset lanes value
  | .characterReceived _ c => startQualified c.start
  | .frameRejected _ _ payload _ => decide (payload.length ≤ Config.blockData)
  | .stateFrame _ condition _ => decide (1 ≤ condition.toNat ∧ condition.toNat ≤ 7)
  | .imageFrame _ data => decide (1 ≤ data.length ∧ data.length ≤ Config.blockData)
  | .contactFrame _ reports => decide (1 ≤ reports.length ∧ reports.length ≤ 10)
  | .hostExchangeMemoryWrite offset _ _ => offset % 4 == 0 && decide (offset < Config.exchangeBytes)
  | .powerOnReset | .wipeCompletion | .start | .stop | .wipe | .reset | .nudgeVisit _ | .nudgeWholeSweep
  | .noticeWrite _ | .maskWrite _ | .stationNoticeWrite _ | .messagesEnabledChange _
  | .configurationValidation | .startCompletion | .hallTick | .deadlineExpiry | .sweepTimerExpiry
  | .wholeSweepStart | .visit _ | .wholeSweepEnd | .decayTimerExpiry | .sheetFrame _ | .imageEndFrame _ _
  | .ackFrame _ | .nakFrame _ | .frameSent _ | .responseTimerExpiry _ | .probeTimerExpiry _
  | .sheetTimerExpiry _ | .starveTimerExpiry _ | .holdTimerExpiry _ => true

end Sys2Proof
end

