-- ==== Sys2Proof/Machine/HostAccess.lean ====
section
/-! DEFINITION. The host's side: the register window and exchange memory, reads and writes (R1, R4 to R9, R11, R202), and
the meanings of the rows that the host's accesses are. -/

namespace Sys2Proof.Machine

/-! ### Reads (R1, R11, R202): no row, no side effect -/

def engineCode : Engine → Nat
  | .wiping => 0
  | .stopped => 1
  | .starting => 2
  | .running => 3
  | .draining => 4

def commandCode : Command → Nat
  | .none => 0
  | .start => 1
  | .stop => 2
  | .wipe => 3
  | .reset => 4

def commandOutcomeCode : CommandOutcome → Nat
  | .none => 0
  | .accepted => 1
  | .refused => 2

def refusalCode : RefusalReason → Nat
  | .none => 0
  | .wrongState => 1
  | .busy => 2

def configResultCode : ConfigResult → Nat
  | .none => 0
  | .noPorts => 1
  | .portClassBad => 2
  | .poolMixed => 3

/-- STATUS as it reads (R3, R202). -/
def statusWord (c : Control) : Word :=
  place (engineCode c.engine) 0 3 ||| place (commandCode c.lastCommand) 4 3 |||
    place (commandOutcomeCode c.lastOutcome) 8 2 ||| place (refusalCode c.refusalReason) 10 2 |||
    place (configResultCode c.configResult) 16 3 ||| place c.errorSubject 24 4

/-- What a read of the register window returns (R1, R202): zero where no register is, and for CONTROL and NUDGE. -/
def State.registerRead (s : State) (offset : Nat) : Word :=
  match offset with
  | 0x04 => statusWord s.ctl
  | 0x0C => s.noticeWord.setWidth 32
  | 0x10 => s.ctl.mask.setWidth 32
  | 0x14 => s.stationNotice
  | 0x18 => s.ctl.clock
  | _ => 0

/-- What a host read of exchange memory returns: zero while the engine is WIPING (R9, R11). -/
def State.hostRead (s : State) (offset : Nat) : Word := if s.ctl.engine = .wiping then 0 else s.word offset

/-! ### Register writes (R1, R4 to R7) -/

/-- A NUDGE write that names a station (R4). -/
def State.nudgeVisit (s : State) (st : Station) : State :=
  if sweeping s.ctl.engine then s.setControl fun c => { c with nudgeVisits := c.nudgeVisits.set st.val true } else s

/-- A NUDGE write of 63 (R4). -/
def State.nudgeSweep (s : State) : State :=
  if sweeping s.ctl.engine then s.setControl fun c => { c with nudgeSweep := true } else s

/-- A NUDGE write (R4, R202). -/
def State.nudge (s : State) (w : Word) : State :=
  if h : w.toNat < 32 then s.nudgeVisit ⟨w.toNat, h⟩ else if w.toNat = 63 then s.nudgeSweep else s

/-- A NOTICE write clears each sticky bit written as one (R5). -/
def State.writeNotice (s : State) (w : Word) : State := { s with notice := s.notice &&& ~~~(w.extractLsb' 0 8) }

/-- A MASK write replaces the eight enables (R7). -/
def State.writeMask (s : State) (w : Word) : State := s.setControl fun c => { c with mask := w.extractLsb' 0 8 }

/-- A STATION_NOTICE write clears each bit written as one (R6). -/
def State.writeStationNotice (s : State) (w : Word) : State := { s with stationNotice := s.stationNotice &&& ~~~w }

/-- The command of a CONTROL write, none for an unknown code (R2, R202). -/
def commandOfCode : Nat → Option Command
  | 1 => some .start
  | 2 => some .stop
  | 3 => some .wipe
  | 4 => some .reset
  | _ => none

/-- A CONTROL write (R2). -/
def State.writeControl (s : State) (w : Word) : State :=
  match commandOfCode (field w 0 8) with
  | some k => s.control k
  | none => s

/-- A write to the register window: ignored unless all four byte lanes are enabled, and at an offset with no writable
register (R1). -/
def State.registerWrite (s : State) (offset : Nat) (lanes : BitVec 4) (w : Word) : State :=
  if lanes ≠ allLanes then s
  else
    match offset with
    | 0x00 => s.writeControl w
    | 0x08 => s.nudge w
    | 0x0C => s.writeNotice w
    | 0x10 => s.writeMask w
    | 0x14 => s.writeStationNotice w
    | _ => s

/-! ### Exchange memory (R9, R11) -/

/-- A host write of one word: discarded unless all four byte lanes are enabled, ignored while the engine is WIPING (R9,
R11). -/
def State.hostWrite (s : State) (offset : Nat) (lanes : BitVec 4) (w : Word) : State :=
  if lanes = allLanes ∧ s.ctl.engine ≠ .wiping then s.putWord offset w else s

/-! ### Meanings -/

/-- NUDGE_VISIT (R4). -/
def execNudgeVisit (st : Station) (s : State) : Host.Outcome State Fault Refusal := .next (s.nudgeVisit st)

/-- NUDGE_WHOLE_SWEEP (R4). -/
def execNudgeWholeSweep (s : State) : Host.Outcome State Fault Refusal := .next s.nudgeSweep

/-- NOTICE_WRITE (R5). -/
def execNoticeWrite (w : Word) (s : State) : Host.Outcome State Fault Refusal :=
  .next (settleInterrupt s (s.writeNotice w))

/-- MASK_WRITE (R7). -/
def execMaskWrite (w : Word) (s : State) : Host.Outcome State Fault Refusal :=
  .next (settleInterrupt s (s.writeMask w))

/-- STATION_NOTICE_WRITE (R6). -/
def execStationNoticeWrite (w : Word) (s : State) : Host.Outcome State Fault Refusal :=
  .next (settleInterrupt s (s.writeStationNotice w))

/-- REGISTER_WRITE_IGNORED (R1, R2, R4): the write reaches the register window, which ignores what its row describes. -/
def execRegisterWriteIgnored (offset : Nat) (lanes : BitVec 4) (w : Word) (s : State) :
    Host.Outcome State Fault Refusal :=
  if offset % 4 ≠ 0 then .fault (.misaligned offset)
  else if Config.registerWindowBytes ≤ offset then .fault (.outsideRegisterWindow offset)
  else .next (closeEvent s (s.registerWrite offset lanes w))

/-- MESSAGES_ENABLED_CHANGE (R7): the input changes; nothing is sent for a request already asserted. -/
def execMessagesEnabledChange (enabled : Bool) (s : State) : Host.Outcome State Fault Refusal :=
  .next (s.setControl fun c => { c with messagesEnabled := enabled })

/-- HOST_EXCHANGE_MEMORY_WRITE (R9, R11). -/
def execHostExchangeMemoryWrite (offset : Nat) (lanes : BitVec 4) (w : Word) (s : State) :
    Host.Outcome State Fault Refusal :=
  if offset % 4 ≠ 0 then .fault (.misaligned offset)
  else if Config.exchangeBytes ≤ offset then .fault (.outsideExchangeMemory offset)
  else .next (s.hostWrite offset lanes w)

end Sys2Proof.Machine
end

