-- ==== Sys2Proof/Machine/Dispatch.lean ====
section
/-! DEFINITION. One arm for each command: its meaning. -/

namespace Sys2Proof.Machine

def exec (i : Instr) (s : State) : Host.Outcome State Fault Refusal :=
  match i with
  | .powerOnReset => Sys2Proof.Machine.execPowerOnReset s
  | .wipeCompletion => Sys2Proof.Machine.execWipeCompletion s
  | .start => Sys2Proof.Machine.execStart s
  | .stop => Sys2Proof.Machine.execStop s
  | .wipe => Sys2Proof.Machine.execWipe s
  | .reset => Sys2Proof.Machine.execReset s
  | .nudgeVisit station => Sys2Proof.Machine.execNudgeVisit station s
  | .nudgeWholeSweep => Sys2Proof.Machine.execNudgeWholeSweep s
  | .noticeWrite value => Sys2Proof.Machine.execNoticeWrite value s
  | .maskWrite value => Sys2Proof.Machine.execMaskWrite value s
  | .stationNoticeWrite value => Sys2Proof.Machine.execStationNoticeWrite value s
  | .registerWriteIgnored offset lanes value => Sys2Proof.Machine.execRegisterWriteIgnored offset lanes value s
  | .messagesEnabledChange enabled => Sys2Proof.Machine.execMessagesEnabledChange enabled s
  | .configurationValidation => Sys2Proof.Machine.execConfigurationValidation s
  | .startCompletion => Sys2Proof.Machine.execStartCompletion s
  | .hallTick => Sys2Proof.Machine.execHallTick s
  | .deadlineExpiry => Sys2Proof.Machine.execDeadlineExpiry s
  | .sweepTimerExpiry => Sys2Proof.Machine.execSweepTimerExpiry s
  | .wholeSweepStart => Sys2Proof.Machine.execWholeSweepStart s
  | .visit station => Sys2Proof.Machine.execVisit station s
  | .wholeSweepEnd => Sys2Proof.Machine.execWholeSweepEnd s
  | .decayTimerExpiry => Sys2Proof.Machine.execDecayTimerExpiry s
  | .characterReceived port character => Sys2Proof.Machine.execCharacterReceived port character s
  | .frameRejected port kind payload check => Sys2Proof.Machine.execFrameRejected port kind payload check s
  | .stateFrame port condition capability => Sys2Proof.Machine.execStateFrame port condition capability s
  | .sheetFrame port => Sys2Proof.Machine.execSheetFrame port s
  | .imageFrame port data => Sys2Proof.Machine.execImageFrame port data s
  | .imageEndFrame port total => Sys2Proof.Machine.execImageEndFrame port total s
  | .contactFrame port reports => Sys2Proof.Machine.execContactFrame port reports s
  | .ackFrame port => Sys2Proof.Machine.execAckFrame port s
  | .nakFrame port => Sys2Proof.Machine.execNakFrame port s
  | .frameSent port => Sys2Proof.Machine.execFrameSent port s
  | .responseTimerExpiry port => Sys2Proof.Machine.execResponseTimerExpiry port s
  | .probeTimerExpiry port => Sys2Proof.Machine.execProbeTimerExpiry port s
  | .sheetTimerExpiry port => Sys2Proof.Machine.execSheetTimerExpiry port s
  | .starveTimerExpiry port => Sys2Proof.Machine.execStarveTimerExpiry port s
  | .holdTimerExpiry port => Sys2Proof.Machine.execHoldTimerExpiry port s
  | .hostExchangeMemoryWrite offset lanes value => Sys2Proof.Machine.execHostExchangeMemoryWrite offset lanes value s

end Sys2Proof.Machine
end

