-- ==== Sys2Proof/Safety.lean ====
section
/-! DEFINITION. What the statements say of states and of steps: the invariants of the part (R12, R13, R52, R61, R74, R76, R81,
R92, R106, R112, R142), the engine transitions (R12), and the message that a step sends (R7). -/

namespace Sys2Proof.Machine

/-! ### Counts stay in their ranges -/

/-- A station's four counters lie in 0..65,535 (R47, R76, R163). -/
structure StationCounters.inRange (c : StationCounters) : Prop where
  handoverFaults : c.handoverFaults ≤ 65535
  jobsFinished : c.jobsFinished ≤ 65535
  usage : c.usage ≤ 65535
  overflow : c.overflow ≤ 65535

/-- A panel's four discard counters lie in 0..65,535 (R163). -/
structure Discards.inRange (d : Discards) : Prop where
  unrouted : d.unrouted ≤ 65535
  closed : d.closed ≤ 65535
  stray : d.stray ≤ 65535
  malformed : d.malformed ≤ 65535

/-- A port's four line counters lie in 0..4,294,967,295 (R112). -/
structure LineCounters.inRange (c : LineCounters) : Prop where
  noise : c.noise ≤ 4294967295
  framing : c.framing ≤ 4294967295
  check : c.check ≤ 4294967295
  resend : c.resend ≤ 4294967295

/-- A pool's statistics lie in 0..4,294,967,295 (R78, R79). -/
structure PoolStats.inRange (x : PoolStats) : Prop where
  granted : x.granted ≤ 4294967295
  regrants : x.regrants ≤ 4294967295
  waitTotal : x.waitTotal ≤ 4294967295
  waitMax : x.waitMax ≤ 4294967295
  preemptions : x.preemptions ≤ 4294967295
  faultRequeues : x.faultRequeues ≤ 4294967295
  expiries : x.expiries ≤ 4294967295

/-- A job's interruption count, fault re-queue count, contacts delivered and urgency lie in their ranges (R33, R64, R92,
R175). -/
structure JobRecord.inRange (j : JobRecord) : Prop where
  interruptions : j.interruptions ≤ 255
  faults : j.faults ≤ 2
  contactsDelivered : j.contactsDelivered ≤ 65535
  urgency : j.urgency ≤ 3

/-- The reply list holds at most 4 frames, and the outstanding frame's send count is 1..3 (R106). -/
structure Transmitter.inRange (t : Transmitter) : Prop where
  replies : t.replies.length ≤ 4
  sends : ∀ o, t.outstanding = some o → 1 ≤ o.sends ∧ o.sends ≤ 3

/-- A port's hold level is 0..255 and its capability 0..10, and its counts and transmitter are in range (R81, R113). -/
structure PortRecord.inRange (x : PortRecord) : Prop where
  holdLevel : x.holdLevel ≤ 255
  capability : x.capability ≤ 10
  counters : x.counters.inRange
  discards : x.discards.inRange
  transmitter : x.transmitter.inRange

/-- The counters of the stations, the statistics of the pools, the counts of the jobs' scheduling records, the hold levels,
capabilities, line and discard counters and send counts of the ports lie in the ranges that the manual gives them, and every
sampled group ceiling is 0..255. The counts of a service's progress are in State.measured. -/
structure State.inRange (s : State) : Prop where
  counters : ∀ st, (s.counters st).inRange
  stats : ∀ q, (s.poolStats q).inRange
  job : ∀ g, (s.job g).inRange
  port : ∀ p, (s.port p).inRange
  ceiling : ∀ st, (s.sample st).groupCeiling ≤ 255

/-- The invariant of the part's data: exchange memory has its canonical form and the counts of State.inRange are in range. -/
def State.wellFormed (s : State) : Prop := Memory.wf s.mem = true ∧ s.inRange

/-! ### The part at rest (R12) -/

/-- A port of a part that does not sweep: OFFLINE, its transmitter empty, its probe timer stopped (R12, R20, R111). -/
def PortRecord.atRest (x : PortRecord) : Prop :=
  x.state = .offline ∧ x.transmitter = {} ∧ x.probeTimer = none

/-- In WIPING, STOPPED and STARTING no sweep is made, no nudge is pending, the sweep and decay timers are stopped and
every port is at rest (R4, R12, R43). -/
def State.atRest (s : State) : Prop :=
  sweeping s.ctl.engine = false →
    s.ctl.sweep = none ∧ s.ctl.sweepTimer = none ∧ s.ctl.sweepHeld = false ∧ s.ctl.decayTimer = none ∧
    s.ctl.nudgeVisits = Vector.replicate 32 false ∧ s.ctl.nudgeSweep = false ∧ ∀ p, (s.port p).atRest

/-! ### Slots, queues, services and blocks agree (R12, R52, R61, R74, R142) -/

/-- A slot is in the queue of its job's pool, once, and in no other, exactly when its shadow is QUEUED (R61). -/
def State.queuesHold (s : State) : Prop :=
  ∀ q, (s.queue q).Nodup ∧ ∀ g, g ∈ s.queue q ↔ (s.slot g).state = .queued ∧ (s.job g).pool = q

/-- The deadline list holds, once each, exactly the QUEUED jobs that have a deadline and were never granted (R52). -/
def State.deadlinesHold (s : State) : Prop :=
  s.deadlines.Nodup ∧
    ∀ g, g ∈ s.deadlines ↔ (s.slot g).state = .queued ∧ (s.job g).firstGrant = none ∧ (s.job g).expiry ≠ none

/-- A port has a current job exactly when it is SERVING, and a slot is the current job of exactly one port exactly when its
shadow is SERVING; the job has been granted, to that port (R74). -/
def State.servicesPair (s : State) : Prop :=
  (∀ p, (s.port p).state = .serving ↔ (s.port p).job ≠ none) ∧
  (∀ p g, (s.port p).job = some g →
    (s.slot g).state = .serving ∧ (s.job g).port = some p ∧ (s.job g).firstGrant ≠ none) ∧
  ∀ g, (s.slot g).state = .serving → ∃ p, (s.port p).job = some g

/-- The spare chain holds, once each, exactly the blocks marked SPARE (R142); the result chain records hold, once each over
all slots, exactly the blocks marked RESULT (R139, R143). -/
def State.blocksHold (s : State) : Prop :=
  s.spare.Nodup ∧ (∀ b, b ∈ s.spare ↔ s.mark b = .spare) ∧ (∀ g, (s.job g).resultChain.Nodup) ∧
  (∀ g h b, b ∈ (s.job g).resultChain → b ∈ (s.job h).resultChain → g = h) ∧
  ∀ b, s.mark b = .result ↔ ∃ g, b ∈ (s.job g).resultChain

/-- Outside RUNNING and DRAINING every queue and the deadline list are empty and no shadow is QUEUED or SERVING; in
DRAINING no shadow is QUEUED (R12, R19, R20). -/
def State.lawHolds (s : State) : Prop :=
  (sweeping s.ctl.engine = false →
    (∀ q, s.queue q = []) ∧ s.deadlines = [] ∧ ∀ g, (s.slot g).state ≠ .queued ∧ (s.slot g).state ≠ .serving) ∧
  (s.ctl.engine = .draining → (∀ q, s.queue q = []) ∧ s.deadlines = [] ∧ ∀ g, (s.slot g).state ≠ .queued)

/-- A slot that is EMPTY or POSTED has no records (R22, R29), nor has one that the rebuild has yet to take (R16). -/
def State.recordsClear (s : State) : Prop :=
  (∀ g, (s.slot g).state = .empty ∨ (s.slot g).state = .posted → s.job g = {}) ∧
  ∀ next g, s.ctl.engine = .starting → s.ctl.startPhase = .rebuilding next → next ≤ g.val →
    (s.slot g).state = .empty ∧ s.job g = {}

/-- The invariant of the part's records: slots, queues, deadline list, services and blocks agree. -/
def State.structured (s : State) : Prop :=
  s.queuesHold ∧ s.deadlinesHold ∧ s.servicesPair ∧ s.blocksHold ∧ s.lawHolds ∧ s.recordsClear

/-! ### The order of queues and deadline list (R52, R53, R62) -/

/-- How long a job has waited (R49, R62). -/
def State.waits (s : State) (g : Slot) : Nat := (s.ctl.clock - (s.job g).acceptStamp).toNat

/-- A job precedes another in its queue: by a longer wait, or by the lower slot number at an equal wait (R62). -/
def State.stands (s : State) (g h : Slot) : Prop := s.waits h < s.waits g ∨ (s.waits h = s.waits g ∧ g < h)

/-- The time to a job's expiry stamp, as a signed 32-bit difference (R52). -/
def State.expiresIn (s : State) (g : Slot) : Int :=
  match (s.job g).expiry with
  | some e => (e - s.ctl.clock).toInt
  | none => 0

/-- A job precedes another on the deadline list: by the earlier expiry stamp, or by the lower slot number at an equal stamp
(R52). -/
def State.expiresFirst (s : State) (g h : Slot) : Prop :=
  s.expiresIn g < s.expiresIn h ∨ (s.expiresIn g = s.expiresIn h ∧ g < h)

/-- Every queue stands in the order of the waits, the deadline list in that of the expiry stamps, which lie 0..6,553,500 ms
ahead (R52, R62). -/
structure State.ordered (s : State) : Prop where
  queues : ∀ q, (s.queue q).Pairwise s.stands
  deadlines : s.deadlines.Pairwise s.expiresFirst
  ahead : ∀ g ∈ s.deadlines, 0 ≤ s.expiresIn g ∧ s.expiresIn g ≤ 6553500

/-- A slot has joined a list before the first entry that it precedes. -/
def joined (precedes : Slot → Prop) (g : Slot) (l after : List Slot) : Prop :=
  ∃ front back, l = front ++ back ∧ after = front ++ g :: back ∧ (∀ h ∈ front, ¬ precedes h) ∧
    ∀ h, back.head? = some h → precedes h

/-- A job has joined a pool's queue at the place that its accept stamp gives it (R62, R90, R91). -/
def State.joinedQueue (s t : State) (q : Pool) (g : Slot) : Prop := joined (t.stands g) g (s.queue q) (t.queue q)

/-- A job has joined the deadline list at the place that its expiry stamp gives it (R53). -/
def State.joinedDeadlines (s t : State) (g : Slot) : Prop := joined (t.expiresFirst g) g s.deadlines t.deadlines

/-! ### Loans (R139, R141) -/

/-- A job is QUEUED or SERVING. -/
def State.inWork (s : State) (g : Slot) : Prop := (s.slot g).state = .queued ∨ (s.slot g).state = .serving

/-- The loans that a slot's job has of a block: those of a print in QUEUED or SERVING, one for each entry of its chain record
that names the block (R141). -/
def SlotShadow.loans (x : SlotShadow) (b : Nat) : Nat :=
  if (x.state = .queued ∨ x.state = .serving) ∧ x.job.cls = some .print then (x.job.chain.map ChainEntry.block).count b else 0

/-- A block is LOANED exactly where print jobs in QUEUED or SERVING have loans of it, and its count is their sum (R139,
R141). -/
def State.loansHold (s : State) : Prop :=
  ∀ b, let loans := (allSlots.map fun g => (s.slot g).loans b).sum
    (∀ n, s.mark b = .loaned n → n = loans ∧ 1 ≤ n) ∧ ((∀ n, s.mark b ≠ .loaned n) → loans = 0)

/-! ### Services at work (R14, R33, R123 to R127, R150, R152, R175) -/

/-- In a configuration that has passed the validation the ports of a pool are of one class (R14, R15). A job that is QUEUED is
of the class that its pool serves, one that is SERVING of the class of its port, which is a port of its pool (R31, R60). -/
structure State.classesFit (s : State) : Prop where
  valid : sweeping s.ctl.engine = true ∨ (∃ n, s.ctl.startPhase = .rebuilding n) →
    (∀ p, (s.portConfig p).cls ≠ .bad) ∧
      ∀ p r, (s.portConfig p).cls ≠ .none → (s.portConfig r).cls ≠ .none → (s.portConfig p).pool = (s.portConfig r).pool →
        (s.portConfig p).cls = (s.portConfig r).cls
  queued : ∀ g, (s.slot g).state = .queued → ∃ cls, (s.job g).cls = some cls ∧ s.poolClass (s.job g).pool = servingClass cls
  serving : ∀ p g, (s.port p).job = some g → ∃ cls, (s.job g).cls = some cls ∧ (s.portConfig p).cls = servingClass cls ∧
    (s.portConfig p).pool = (s.job g).pool

/-- A port's service engines are IDLE exactly when the port is not SERVING a job of their class; an IDLE one has its flags
clear, its timer stopped and no block (R125, R150, R175). -/
structure State.servicesIdle (s : State) : Prop where
  print : ∀ p, ((s.port p).print.phase = .idle ↔ ¬ ((s.port p).state = .serving ∧ (s.portConfig p).cls = .printer)) ∧
    ((s.port p).print.phase = .idle → (s.port p).print = {})
  scan : ∀ p, ((s.port p).scan.phase = .idle ↔ ¬ ((s.port p).state = .serving ∧ (s.portConfig p).cls = .scanner)) ∧
    ((s.port p).scan.phase = .idle → (s.port p).scan = {})
  hold : ∀ p, ((s.port p).hold.phase = .idle ↔ ¬ ((s.port p).state = .serving ∧ (s.portConfig p).cls = .panel)) ∧
    ((s.port p).hold.phase = .idle → (s.port p).hold = {})

/-- A place in a print: a copy 1..copies and a sheet 1..sheets per copy, with no more sheets done than stand before it (R64,
R123, R125). -/
def JobRecord.reaches (j : JobRecord) (copy sheet : Nat) : Prop :=
  1 ≤ copy ∧ copy ≤ j.copies ∧ 1 ≤ sheet ∧ sheet ≤ sheetsPerCopy j.chain ∧
    j.sheetsDone ≤ (copy - 1) * sheetsPerCopy j.chain + (sheet - 1)

/-- The prints in work: a chain record of 1..896 entries whose last is marked, 1..9 copies, a resume point in their range, and
at the port a read position whose entry is of its sheet (R33, R123, R125, R126). -/
structure State.printsHold (s : State) : Prop where
  chain : ∀ g, s.inWork g → (s.job g).cls = some .print →
    (s.job g).chain.length ≤ 896 ∧ (s.job g).chain.getLast?.map ChainEntry.sheetEnd = some true ∧
      1 ≤ (s.job g).copies ∧ (s.job g).copies ≤ 9
  queued : ∀ g, (s.slot g).state = .queued → (s.job g).cls = some .print →
    (s.job g).reaches (s.job g).resumeCopy (s.job g).resumeSheet
  serving : ∀ p g, (s.port p).job = some g → (s.job g).cls = some .print →
    let x := (s.port p).print
    (s.job g).reaches x.copy x.sheet ∧ x.entry < (s.job g).chain.length ∧
      sheetsPerCopy ((s.job g).chain.take x.entry) + 1 = x.sheet

/-- The scans in work: one that is QUEUED has no result chain; one that is SERVING fills the last block of its result chain,
whose blocks before that one are full, to no more than its max bytes, and its starve timer runs while it is STARVED. A job of
another class has no result chain (R144, R150, R152, R153). -/
structure State.scansHold (s : State) : Prop where
  queued : ∀ g, (s.slot g).state = .queued → (s.job g).resultChain = []
  others : ∀ g, (s.slot g).state = .serving → (s.job g).cls ≠ some .scan → (s.job g).resultChain = []
  serving : ∀ p g, (s.port p).job = some g → (s.job g).cls = some .scan →
    let x := (s.port p).scan
    x.current = (s.job g).resultChain.getLast? ∧ x.fill ≤ 120 ∧ (x.current = none → x.fill = 0) ∧
      x.stored + (if x.current = none then 0 else 120 - x.fill) = 120 * (s.job g).resultChain.length ∧
      x.stored ≤ (s.job g).maxBytes ∧ (x.phase = .starved ↔ x.starveTimer ≠ none)

/-- The holds in work: a remaining time of 1..3,600,000 ms while QUEUED, and a hold timer that runs, with no more than that to
go, while SERVING (R175 to R179). -/
structure State.holdsHold (s : State) : Prop where
  queued : ∀ g, (s.slot g).state = .queued → (s.job g).cls = some .hold → 1 ≤ (s.job g).holdRemaining
  serving : ∀ p g, (s.port p).job = some g → (s.job g).cls = some .hold →
    ∃ e, (s.port p).hold.timer = some e ∧ (e - s.ctl.clock).toNat ≤ 3600000

/-- The frames of an owner that a transmitter holds in its outstanding and its waiting place. -/
def Transmitter.framesOf (t : Transmitter) (owner : FrameOwner) : List AnswerFrame :=
  ((t.outstanding.map Outstanding.offered).toList ++ t.waiting.toList).filterMap fun f =>
    if f.owner = owner then some f.frame else none

/-- The frames of the services: none of a grant to come; of the current service one FEED while it is FEEDING, one OPEN-SCAN
while it is OPENING, one CLOSE-SCAN while it is CLOSING, and none in its other phases (R106, R125, R150, R175). -/
structure State.framesFit (s : State) : Prop where
  grants : ∀ p n, (s.port p).grantNumber < n → (s.port p).transmitter.framesOf (.service n) = []
  serving : ∀ p, (s.port p).state = .serving →
    let x := s.port p
    let frames := x.transmitter.framesOf (.service x.grantNumber)
    (x.print.phase = .feeding → ∃ data, frames = [.feed data]) ∧
      (x.scan.phase = .opening → ∃ mode resolution, frames = [.openScan mode resolution]) ∧
      (x.scan.phase = .closing → frames = [.closeScan]) ∧
      (x.print.phase ≠ .feeding → x.scan.phase ≠ .opening → x.scan.phase ≠ .closing → frames = [])

/-- The counts of the work's progress lie in their ranges: sheets done 0..8,064, remaining hold time 0..3,600,000 ms, the fill
of a result block 0..120, bytes stored 0..107,520, queue length 0..128 (R79, R150, R175, R183). -/
structure State.measured (s : State) : Prop where
  sheetsDone : ∀ g, (s.job g).sheetsDone ≤ 8064
  holdRemaining : ∀ g, (s.job g).holdRemaining ≤ 3600000
  fill : ∀ p, (s.port p).scan.fill ≤ 120
  stored : ∀ p, (s.port p).scan.stored ≤ 107520
  queue : ∀ q, (s.queue q).length ≤ 128

/-- The invariant of the services: their jobs, their phases and their progress agree. -/
structure State.servicesHold (s : State) : Prop where
  classes : s.classesFit
  idle : s.servicesIdle
  prints : s.printsHold
  scans : s.scansHold
  holds : s.holdsHold
  frames : s.framesFit
  measured : s.measured

/-! ### Engine transitions (R12) -/

/-- The rows of the table of R12, and staying where it is. -/
def transition (before after : Engine) : Prop :=
  before = after ∨ (before = .wiping ∧ after = .stopped) ∨ (before = .stopped ∧ after = .wiping) ∨
    (before = .stopped ∧ after = .starting) ∨ (before = .starting ∧ after = .running) ∨
    (before = .starting ∧ after = .stopped) ∨ (before = .running ∧ after = .draining) ∨
    (before = .running ∧ after = .stopped) ∨ (before = .draining ∧ after = .stopped)

/-! ### The interrupt message (R7) -/

/-- One message where the request rises from one state to the next while messages are enabled (R7). -/
def messageDue (before after : State) : Nat :=
  if before.request = false ∧ after.request = true ∧ after.ctl.messagesEnabled = true then 1 else 0

/-! ### Bytes of exchange memory (R195 to R200) -/

/-- An address among the `n` bytes from `a`. -/
def within (a n b : Nat) : Prop := a ≤ b ∧ b < a + n

/-- The owner field and the result words of a slot, less its accept stamp (R199). -/
def finishBytes (g : Slot) (a : Nat) : Prop :=
  within (slotAddress g) 4 a ∨ within (slotAddress g + 0x18) 4 a ∨ within (slotAddress g + 0x20) 20 a

/-- The counter mirrors of a station (R197). -/
def stationMirrors (st : Station) (a : Nat) : Prop := within (stationAddress st + 0x08) 8 a

/-- The queue length and the statistics of a pool (R80, R197). -/
def poolMirrors (q : Pool) (a : Nat) : Prop := within (poolAddress q + 3) 29 a

/-- The state, condition and capability mirrors of a port (R113, R197). -/
def portMirror (p : Port) (a : Nat) : Prop := within (portAddress p + 0x08) 4 a

/-- The line counter mirrors of a port (R112, R197). -/
def lineMirrors (p : Port) (a : Nat) : Prop := within (portAddress p + 0x0C) 16 a

/-- The mailbox records of a station, less the ack words that the host owns (R198). -/
def mailboxBytes (st : Station) (a : Nat) : Prop :=
  ∃ r : Fin 4, within (mailboxAddress st r) 4 a ∨ within (mailboxAddress st r + 0x08) 8 a

/-- Every byte of exchange memory outside a set of addresses reads as before. -/
def State.memoryKept (s t : State) (written : Nat → Prop) : Prop :=
  ∀ a, ¬ written a → readByte t.mem a = readByte s.mem a

/-- Every port outside a list is as before. -/
def State.portsKept (s t : State) (changed : List Port) : Prop := ∀ p, p ∉ changed → t.port p = s.port p

/-- Every slot outside a list is as before. -/
def State.slotsKept (s t : State) (changed : List Slot) : Prop := ∀ g, g ∉ changed → t.slot g = s.slot g

/-- Every station's counters outside a list are as before. -/
def State.stationsKept (s t : State) (changed : List Station) : Prop :=
  ∀ st, st ∉ changed → t.counters st = s.counters st

/-! ### Ends of jobs and services -/

/-- A slot is finished with an outcome and a detail: shadow and owner field FINISHED, both codes in the result word and in the
part's copy, the station's notice bit set (R10, R182, R199). -/
def State.hasResult (t : State) (g : Slot) (o : JobOutcome) (d : Detail) : Prop :=
  (t.slot g).state = .finished ∧ (t.slot g).codes = { outcome := o, detail := d } ∧ t.word (slotAddress g) = 4 ∧
    field (t.word (slotAddress g + 0x18)) 0 8 = outcomeCode o ∧
    field (t.word (slotAddress g + 0x18)) 8 8 = detailCode d ∧
    t.stationNotice &&& stationMask (stationOf g) = stationMask (stationOf g)

/-- A port at the end of its service: FREE, no job, hold level 0, no yield pending, its services IDLE; the rest as it was,
condition, capability, receiver and counters among it (R74, R81, R112, R118). -/
def PortRecord.ended (x : PortRecord) : PortRecord :=
  { x with state := .free, job := none, holdLevel := 0, yieldPending := false, print := {}, scan := {}, hold := {} }

/-- A port at its entry to FAULTED with a condition: its service ended, no frames, the probe timer running; the rest as it was,
receiver, capability and counters among it (R112, R120). -/
def PortRecord.down (x : PortRecord) (c : Condition) (probe : Timer) : PortRecord :=
  { x.ended with state := .faulted, condition := c, transmitter := {}, probeTimer := probe }

/-- What a port has of the frame that a command brings before the frame acts: the receiver HUNTING again, and of a STATE the
capability (R102, R115). A command that brings no frame leaves the port as it is. -/
def PortRecord.heard (x : PortRecord) (cls : PortClass) : Instr → PortRecord
  | .stateFrame _ _ capability => { x with receiver := .hunting, capability := capabilityOf cls capability }
  | .nakFrame _ => { x with receiver := .hunting }
  | _ => x

/-! ### Mirrors -/

/-- A port's mirrors show its state, condition and capability (R113, R197). -/
def State.portShown (t : State) (p : Port) : Prop :=
  field (t.word (portAddress p + 0x08)) 0 8 = portStateCode (t.port p).state ∧
    field (t.word (portAddress p + 0x08)) 8 8 = conditionCode (t.port p).condition ∧
    field (t.word (portAddress p + 0x08)) 16 8 = (t.port p).capability

/-- A station's mirrors show its handover fault and jobs-finished counts (R47, R197). -/
def State.talliesShown (t : State) (st : Station) : Prop :=
  field (t.word (stationAddress st + 0x08)) 0 16 = (t.counters st).handoverFaults ∧
    field (t.word (stationAddress st + 0x08)) 16 16 = (t.counters st).jobsFinished

/-- A station's mirrors show its usage score and its overflow count (R76, R163, R197). -/
def State.scoresShown (t : State) (st : Station) : Prop :=
  field (t.word (stationAddress st + 0x0C)) 0 16 = (t.counters st).usage ∧
    field (t.word (stationAddress st + 0x0C)) 16 16 = (t.counters st).overflow

/-- The queue-length field of a pool's entry shows the length of its queue (R80, R197). -/
def State.queueShown (t : State) (q : Pool) : Prop :=
  field (t.word (poolAddress q)) 24 8 = (t.queue q).length % 256

/-- The mirror of every statistic of a pool that has changed shows its value (R80, R197). -/
def State.statsShown (s t : State) (q : Pool) : Prop :=
  let shown (offset : Nat) (stat : PoolStats → Nat) : Prop := stat (t.poolStats q) ≠ stat (s.poolStats q) →
    t.word (poolAddress q + offset) = BitVec.ofNat 32 (stat (t.poolStats q))
  shown 0x04 PoolStats.granted ∧ shown 0x08 PoolStats.regrants ∧ shown 0x0C PoolStats.waitTotal ∧
    shown 0x10 PoolStats.waitMax ∧ shown 0x14 PoolStats.preemptions ∧ shown 0x18 PoolStats.faultRequeues ∧
    shown 0x1C PoolStats.expiries

/-- The mirror of every discard count of a panel that has changed shows its value (R163, R195). -/
def State.discardsShown (s t : State) (p : Port) : Prop :=
  let shown (offset low : Nat) (count : Discards → Nat) : Prop := count (t.port p).discards ≠ count (s.port p).discards →
    field (t.word (0x40 + p.val * 8 + offset)) low 16 = count (t.port p).discards
  shown 0 0 Discards.unrouted ∧ shown 0 16 Discards.closed ∧ shown 4 0 Discards.stray ∧ shown 4 16 Discards.malformed

/-! ### Contacts and mailboxes -/

/-- The transmitter of a scanner port whose serving scan a cancel, a close or a STOP ends: in OPENING the OPEN-SCAN is
withdrawn and CLOSE-SCAN offered, in TAKING and STARVED CLOSE-SCAN is offered, in CLOSING the one outstanding stays
(R158). -/
def PortRecord.scanEnded (x : PortRecord) : Transmitter :=
  let close : Offered := { frame := .closeScan, owner := .service x.grantNumber }
  match x.scan.phase with
  | .opening => offer close (withdrawOpenScan x.grantNumber x.transmitter)
  | .taking | .starved => offer close x.transmitter
  | .closing | .idle => x.transmitter

/-- The capture of an entry in ZONE, in HOLD, and in either. -/
def Contact.zoned : Contact → Option Capture
  | .zone c => some c
  | _ => Option.none

def Contact.held : Contact → Option Capture
  | .hold c => some c
  | _ => Option.none

def Contact.captured : Contact → Option Capture
  | .zone c => some c
  | .hold c => some c
  | _ => Option.none

/-- The invariant of the touch router: no two records of a station hold one contact key; the record of a ZONE or HOLD entry
holds that entry's key and is not lifted; every seq is even between writes; a captured contact's position lies in 0..4,095 and
its pressure in 0..255, and its zone is 0..15, or 255 in HOLD; a HOLD entry's panel serves a job of its station; only a
panel has entries; and outside RUNNING every entry is NONE (R17, R19, R162, R166, R170, R172). -/
structure State.touchHolds (s : State) : Prop where
  keys : ∀ st r k, (s.mailbox st r).key ≠ none → (s.mailbox st r).key = (s.mailbox st k).key → r = k
  captured : ∀ p i c, (s.contact p i).captured = some c →
    (s.mailbox c.station c.record).key = some (p, i) ∧ (s.mailbox c.station c.record).lifted = false ∧
      c.x ≤ 4095 ∧ c.y ≤ 4095 ∧ c.pressure ≤ 255
  zoned : ∀ p i c, s.contact p i = .zone c → c.zone < 16
  held : ∀ p i c, s.contact p i = .hold c → c.zone = 255 ∧ ∃ g, (s.port p).job = some g ∧ stationOf g = c.station
  even : ∀ st r, (s.mailbox st r).seq.toNat % 2 = 0
  panels : ∀ p i, s.contact p i ≠ .none → (s.portConfig p).cls = .panel
  resting : s.ctl.engine ≠ .running → ∀ p i, s.contact p i = .none

/-- Every contact of some panels that `which` selects has been lifted: its record has taken a synthetic UP, and where no other
lifted contact has the same record, by one write at the contact's last position with pressure 0 (R170, R174). -/
def State.liftsWritten (s t : State) (panels : List Port) (which : Contact → Option Capture) : Prop :=
  ∀ p ∈ panels, ∀ i c, which (s.contact p i) = some c →
    let b := s.mailbox c.station c.record
    let m := t.mailbox c.station c.record
    m.lifted = true ∧ m.events.up = true ∧ m.synthetic = true ∧
      ((∀ r ∈ panels, ∀ k d, which (s.contact r k) = some d → d.station = c.station → d.record = c.record →
          r = p ∧ k = i) →
        m.seq = b.seq + 2 ∧ m.key = some (p, i) ∧
          t.word (mailboxAddress c.station c.record) = (b.seq + 2).setWidth 32 ∧
          t.word (mailboxAddress c.station c.record + 0x0C) = place c.x 0 12 ||| place c.y 12 12 ||| place 0 24 8)

/-- The port at a GO test that a splice or a return of result blocks makes with a number of spare blocks (R154). -/
def PortRecord.goTested (x : PortRecord) (spare : Nat) : PortRecord :=
  let room := (if x.scan.current = none then 0 else 120 - x.scan.fill) + 120 * spare
  if x.scan.phase = .starved ∧ x.scan.wanted ≤ room ∧ x.transmitter.replies.length < 4 then
    { x with
      transmitter := placeReply .go x.transmitter
      scan := { x.scan with phase := .taking, starveTimer := none } }
  else x

/-- The words of exchange memory after blocks have joined the spare tail: the spare mirrors, and the links behind the old
tail (R142). -/
def State.spareJoined (s t : State) (blocks : List Nat) : Prop :=
  t.spare = s.spare ++ blocks ∧ (∀ b, t.mark b = if b ∈ blocks then .spare else s.mark b) ∧
    (∀ tail, s.spare.getLast? = some tail → readLink t.mem tail = blocks.headD 0) ∧
    blocks.map (readLink t.mem) = blocks.tail ++ [0] ∧
    field (t.word 0x10) 0 16 = t.spare.headD 0 ∧ field (t.word 0x10) 16 16 = t.spare.getLastD 0 ∧
    field (t.word 0x14) 0 16 = t.spare.length

end Sys2Proof.Machine
end

