-- ==== Sys2Proof/Certificates/Slice0/Obligations.lean ====
section
/-! DEFINITION. The statements about the part. Each is proved of the model by the provers; a rule of the manual is cited
where it is stated, and a clause that rests on a choice of the model names its log entry. -/

open Sys2Proof Sys2Proof.Machine

/-! ### The queue and the whole part -/

/-- A step runs the command at the front of the queue on the queue's rest, and idles on an empty queue. The queue of commands,
filled from outside, and the idling are the model's form of a block whose steps are commands (log entries 3 and 28). -/
def Obligations.StepRunsTheFrontCommand : Prop :=
  (∀ (c : Instr) (rest : List Instr) (s : State), s.pending = c :: rest →
    step s = exec c { s with pending := rest }) ∧
  ∀ s : State, s.pending = [] → step s = .next s

/-- No command changes the commands that wait behind it. CLOCK rises by 1 modulo 2^32 at a hall tick, is 0 at power-on, and no
other command changes it. Every command sends one message where the interrupt request rises over it with messages enabled, and
none otherwise (R7, R8, R48; `messagesSent` is the model's record of the messages, log entry 15). -/
def Obligations.CommandsKeepQueueClockAndMessages : Prop :=
  ∀ (c : Instr) (s t : State), exec c s = .next t →
    t.pending = s.pending ∧
    t.ctl.clock = (if c = .hallTick then s.ctl.clock + 1 else if c = .powerOnReset then 0 else s.ctl.clock) ∧
    t.ctl.messagesSent = s.ctl.messagesSent +
      (if s.request = false ∧ t.request = true ∧ t.ctl.messagesEnabled = true then 1 else 0)

/-- Every step keeps exchange memory in its canonical form, and in the ranges that the manual gives them the counters of the
stations, the statistics of the pools, the counts of the jobs' scheduling records, the hold levels and capabilities of the
ports, their line, discard and send counts, and the length of their reply lists (R47, R64, R76, R78, R79, R81, R92, R106,
R112, R113, R163). The counts of a service's progress and the queue lengths are StepKeepsTheServices'. -/
def Obligations.StepKeepsWellFormed : Prop :=
  ∀ s t : State, s.wellFormed → step s = .next t → t.wellFormed

/-- Every step keeps the law of R12 and R43: outside RUNNING and DRAINING no sweep is made, no nudge is pending, the timers
are stopped, and every port is OFFLINE with an empty transmitter. Every step keeps the agreement of the records: a slot is in
its pool's queue exactly when its shadow is QUEUED (R61), the deadline list holds exactly the QUEUED jobs with a deadline that
were never granted (R52), ports and SERVING jobs are paired off (R74), the spare chain and the result chains hold each block
at most once and exactly the blocks marked SPARE and RESULT (R142), queues and deadline list are empty outside RUNNING, with
no shadow QUEUED, and none SERVING outside RUNNING and DRAINING (R12), and EMPTY and POSTED slots have no records (R22). Every
step of a part whose records agree keeps the loans: a block is LOANED exactly where prints in QUEUED or SERVING have loans of
it, one for each entry of their chain records that names it, and its count is the sum of these (R139, R141). How a step keeps
the order of queues and deadline list is StepKeepsTheOrder's, and the services' phases StepKeepsTheServices'. -/
def Obligations.StepKeepsAtRest : Prop :=
  (∀ s t : State, s.atRest → step s = .next t → t.atRest) ∧
  (∀ s t : State, s.structured → step s = .next t → t.structured) ∧
  ∀ s t : State, s.structured → s.loansHold → step s = .next t → t.loansHold

/-- The machine right after reset meets the invariants. -/
def Obligations.ResetMeetsTheInvariants : Prop :=
  State.reset.wellFormed ∧ State.reset.atRest ∧ State.reset.structured ∧ State.reset.loansHold ∧ State.reset.ordered ∧
    State.reset.servicesHold ∧ State.reset.touchHolds

/-- The engine moves by the rows of R12's table only, each row by its own event, and an entry to STOPPED or RUNNING sets
NOTICE.ENGINE. DRAINING ends by RESET, or in the event in which the last SERVING port leaves SERVING, and in that event it
does end (R12, R20). -/
def Obligations.EngineMovesByTheTable : Prop :=
  ∀ (c : Instr) (s t : State), c.wellFormed = true → c ≠ .powerOnReset → exec c s = .next t →
    transition s.ctl.engine t.ctl.engine ∧
    (t.ctl.engine ≠ s.ctl.engine → t.ctl.engine = .stopped ∨ t.ctl.engine = .running →
      t.notice &&& 0x02 = 0x02) ∧
    (s.ctl.engine = .wiping → t.ctl.engine ≠ .wiping → c = .wipeCompletion) ∧
    (s.ctl.engine = .stopped → t.ctl.engine ≠ .stopped →
      (c = .start ∧ t.ctl.engine = .starting) ∨ (c = .wipe ∧ t.ctl.engine = .wiping)) ∧
    (s.ctl.engine = .starting → t.ctl.engine ≠ .starting →
      (c = .startCompletion ∧ t.ctl.engine = .running) ∨
        ((c = .configurationValidation ∨ c = .reset) ∧ t.ctl.engine = .stopped)) ∧
    (s.ctl.engine = .running → t.ctl.engine ≠ .running → c = .stop ∨ (c = .reset ∧ t.ctl.engine = .stopped)) ∧
    (s.ctl.engine = .draining → t.ctl.engine ≠ .draining →
      t.ctl.engine = .stopped ∧ (c = .reset ∨ (s.anyServing = true ∧ t.anyServing = false))) ∧
    (s.ctl.engine = .draining → s.anyServing = true → t.anyServing = false → t.ctl.engine = .stopped)

/-- Every step of a part whose records agree keeps every queue in the order of the accept stamps, by waits as R49 measures
them and by slot number at an equal stamp, and the deadline list in the order of the expiry stamps, by slot number at an equal
one, with every stamp 0..6,553,500 ms ahead (R52, R62). The premise on the waits is R62's: the comparison is exact while every
job has waited less than 2^32 ms. -/
def Obligations.StepKeepsTheOrder : Prop :=
  ∀ s t : State, s.structured → s.ordered → (∀ g, s.inWork g → s.waits g + 1 < 2 ^ 32) → step s = .next t → t.ordered

/-- Every step of a part whose records agree keeps its services at work. The pools are of one class, and a job is of the class
of its pool and its port. A service is IDLE exactly when its port is not SERVING a job of its class (R125, R150, R175). A
print stands at a copy 1..copies and a sheet 1..sheets per copy, at an entry of that sheet, with no more sheets done than come
before it. A scan fills the last block of its result chain, the blocks before it being full, to no more than its max bytes. A
hold has 1..3,600,000 ms left in its queue, and a timer with no more to go at its port. The frames of the current service are
one FEED in FEEDING, one OPEN-SCAN in OPENING, one CLOSE-SCAN in CLOSING, and none in its other phases. Sheets done stay in
0..8,064, the remaining hold time in 0..3,600,000 ms, the fill in 0..120, the bytes stored in 0..107,520, a queue's length in
0..128. Every step keeps the touch router's law: no two records of a station hold one contact key, the record of a ZONE or
HOLD entry holds that entry's key and is not lifted, every seq is even, positions, pressures and zones are in range, a HOLD
entry's panel serves a job of its station, only a panel has entries, and outside RUNNING every entry is NONE (R14, R15, R31,
R33, R60, R64, R79, R106, R123, R126, R127, R152, R153, R162, R166, R170, R172, R183). -/
def Obligations.StepKeepsTheServices : Prop :=
  (∀ s t : State, s.wellFormed → s.structured → s.servicesHold → step s = .next t → t.servicesHold) ∧
  ∀ s t : State, s.wellFormed → s.structured → s.servicesHold → s.touchHolds → step s = .next t → t.touchHolds

/-- A sticky bit of NOTICE is cleared only by a NOTICE write, an accepted RESET or the power-on, a bit of STATION_NOTICE
only by a STATION_NOTICE write, an accepted RESET or the power-on; MASK changes by a MASK write, the input messages enabled
by its own command, the working copy by START, and each otherwise only by the commands that reset it (R5, R6, R7, R14,
R18, R21). That POWER_ON_RESET keeps the input messages enabled is log entry 15's choice, and that a WIPE and the entry to
STOPPED keep the working copy is log entry 26's. -/
def Obligations.RegistersChangeByTheirOwnCommands : Prop :=
  (∀ (c : Instr) (s t : State), c.wellFormed = true → exec c s = .next t → c ≠ .powerOnReset → c ≠ .reset →
     ((∀ w, c ≠ .noticeWrite w) → s.notice &&& t.notice = s.notice) ∧
     ((∀ w, c ≠ .stationNoticeWrite w) → s.stationNotice &&& t.stationNotice = s.stationNotice)) ∧
  (∀ (c : Instr) (s t : State), c.wellFormed = true → exec c s = .next t →
     (t.ctl.mask ≠ s.ctl.mask → c = .powerOnReset ∨ ∃ w, c = .maskWrite w) ∧
     (t.ctl.messagesEnabled ≠ s.ctl.messagesEnabled → ∃ b, c = .messagesEnabledChange b) ∧
     (t.ctl.work ≠ s.ctl.work →
       c = .powerOnReset ∨ (c = .reset ∧ s.ctl.engine ≠ .wiping) ∨ (c = .start ∧ s.ctl.engine = .stopped)))

/-- In WIPING, STOPPED and STARTING nothing writes exchange memory but the wipe, the power-on, the steps of START and, out
of WIPING, the host (R11, R12). -/
def Obligations.PartAtRestWritesNothing : Prop :=
  ∀ (c : Instr) (s t : State), s.atRest → s.ctl.engine ≠ .running → s.ctl.engine ≠ .draining →
    c ≠ .powerOnReset → c ≠ .wipeCompletion → c ≠ .configurationValidation → c ≠ .startCompletion →
    (∀ offset lanes value, c = .hostExchangeMemoryWrite offset lanes value → s.ctl.engine = .wiping) →
    exec c s = .next t → t.mem = s.mem

/-! ### Power-on, wipe, commands -/

/-- The power-on reset begins a wipe: the engine is WIPING, every register reads 0, every internal record is at its reset
value, and exchange memory holds a free value (log entries 5 and 15). An accepted WIPE clears the records that describe
exchange memory, and its completion leaves every byte 0, the engine STOPPED and NOTICE.ENGINE set; the rest is kept (R3,
R13). That a WIPE keeps the working copy and the samples is log entry 26's, and that a WIPE_COMPLETION outside WIPING changes
nothing is log entry 2's. -/
def Obligations.WipeFollowsThePowerOn : Prop :=
  (∀ s : State, ∃ t, exec .powerOnReset s = .next t ∧
     t = { State.reset with
       ctl := { messagesEnabled := s.ctl.messagesEnabled, messagesSent := s.ctl.messagesSent }
       mem := memoryOf (Config.powerOnBytes (s.free.drawn + 1))
       free := { s.free with drawn := s.free.drawn + 1 }
       pending := s.pending } ∧
     t.ctl.engine = .wiping ∧ ∀ offset, t.registerRead offset = 0) ∧
  ((∀ s : State, s.ctl.engine = .stopped → exec .wipe s = .next { s with
     ctl := { s.ctl with engine := .wiping, lastCommand := .wipe, lastOutcome := .accepted, refusalReason := .none }
     slots := Vector.replicate 128 {}
     marks := Vector.replicate 896 .outside
     spare := []
     mailboxes := Vector.replicate 32 (Vector.replicate 4 {}) }) ∧
   (∀ s : State, s.ctl.engine = .wiping → ∃ t, exec .wipeCompletion s = .next t ∧
     t = { s with
       ctl := { s.ctl with engine := .stopped, messagesSent := t.ctl.messagesSent }
       mem := t.mem
       notice := s.notice ||| 0x02 } ∧
     ∀ a, readByte t.mem a = 0) ∧
   ∀ s : State, s.ctl.engine ≠ .wiping → exec .wipeCompletion s = .next s)

/-- A refused command changes the three command fields of STATUS and nothing else, with the reason that R2's table gives
for the engine state. START accepted: STARTING, the configuration result NONE, and the working copy taken from exchange
memory as it stands (R2, R3, R14). -/
def Obligations.CommandsAreJudgedByState : Prop :=
  (∀ s : State,
     let refused (k : Command) (r : RefusalReason) : Host.Outcome State Fault Refusal :=
       .next { s with ctl := { s.ctl with lastCommand := k, lastOutcome := .refused, refusalReason := r } }
     (s.ctl.engine = .running ∨ s.ctl.engine = .draining →
       exec .start s = refused .start .wrongState ∧ exec .wipe s = refused .wipe .wrongState) ∧
     (s.ctl.engine = .starting ∨ s.ctl.engine = .wiping →
       exec .start s = refused .start .busy ∧ exec .stop s = refused .stop .busy ∧
         exec .wipe s = refused .wipe .busy) ∧
     (s.ctl.engine = .stopped → exec .stop s = refused .stop .wrongState) ∧
     (s.ctl.engine = .wiping → exec .reset s = refused .reset .busy)) ∧
  (∀ s : State, s.ctl.engine = .stopped → exec .start s = .next { s with
     ctl := { s.ctl with
       engine := .starting
       startPhase := .copied
       lastCommand := .start
       lastOutcome := .accepted
       refusalReason := .none
       configResult := .none
       errorSubject := 0
       work := readWorkingCopy s.mem } })

/-- The clamps of the working copy, field by field, and of a station's sample (R14, R25; a sweep interval of 1..19 is log
entry 23's and only its range is said here). -/
def Obligations.ConfigurationFieldsAreClamped : Prop :=
  (∀ (m : Memory) (p : Port) (q : Pool),
     let w := readWorkingCopy m
     let interval := field (readWord m 0x00) 0 16
     let lowWater := field (readWord m 0x04) 0 16
     let port := w.ports[p.val]
     let p0 := readWord m (0x0100 + p.val * 32)
     let p4 := readWord m (0x0104 + p.val * 32)
     let pool := w.pools[q.val]
     let q0 := readWord m (0x0280 + q.val * 32)
     (20 ≤ w.sweepInterval ∧ w.sweepInterval ≤ 250) ∧ (20 ≤ interval → interval ≤ 250 → w.sweepInterval = interval) ∧
     (interval = 0 → w.sweepInterval = 20) ∧ (250 < interval → w.sweepInterval = 250) ∧
     (w.decayPeriod = field (readWord m 0x00) 16 8 ∧ w.decayPeriod ≤ 255) ∧
     (lowWater ≤ 896 → w.lowWater = lowWater) ∧ (896 < lowWater → w.lowWater = 896) ∧
     (field p0 8 8 ≤ 7 → port.pool.val = field p0 8 8) ∧ (7 < field p0 8 8 → port.pool.val = 7) ∧
     (field p0 16 8 ≤ 3 → port.rate = field p0 16 8) ∧ (3 < field p0 16 8 → port.rate = 3) ∧
     (field p0 24 8 ≠ 0 → port.probeInterval = field p0 24 8) ∧ (field p0 24 8 = 0 → port.probeInterval = 2) ∧
     (field p4 0 16 ≠ 0 → port.responseTimeout = field p4 0 16) ∧ (field p4 0 16 = 0 → port.responseTimeout = 100) ∧
     (field p4 16 8 ≠ 0 → port.sheetTimeout = field p4 16 8 ∧ port.starveLimit = field p4 16 8) ∧
     (field p4 16 8 = 0 → port.sheetTimeout = 30 ∧ port.starveLimit = 5) ∧
     (port.cls = .bad ↔ 3 < field p0 0 8) ∧ (port.cls = .none ↔ field p0 0 8 = 0) ∧
     (port.cls = .printer ↔ field p0 0 8 = 1) ∧ (port.cls = .scanner ↔ field p0 0 8 = 2) ∧
     (port.cls = .panel ↔ field p0 0 8 = 3) ∧
     pool.agingStep = field q0 0 16 ∧ (field q0 16 7 ≤ 63 → pool.agingCap = field q0 16 7) ∧
     (63 < field q0 16 7 → pool.agingCap = 63) ∧ (pool.preempt = true ↔ field q0 23 1 = 1)) ∧
  (∀ (m : Memory) (st : Station),
     let x := readSample m st
     let w0 := readWord m (0x0380 + st.val * 32)
     let w4 := readWord m (0x0384 + st.val * 32)
     (x.state = .opened ↔ field w0 0 8 = 1) ∧ (x.state = .suspended ↔ field w0 0 8 = 2) ∧
     (field w0 8 8 ≤ 200 → x.basePriority = field w0 8 8) ∧ (200 < field w0 8 8 → x.basePriority = 200) ∧
     (field w0 16 8 = 0 → x.shareWeight = 1) ∧ (15 < field w0 16 8 → x.shareWeight = 15) ∧
     (1 ≤ field w0 16 8 → field w0 16 8 ≤ 15 → x.shareWeight = field w0 16 8) ∧
     x.groupCeiling = field w0 24 8 ∧ x.groupCeiling ≤ 255 ∧
     x.mayPrint = w4.getLsbD 0 ∧ x.mayScan = w4.getLsbD 1 ∧ x.mayHold = w4.getLsbD 2 ∧ x.notify = w4.getLsbD 4)

/-- An accepted RESET clears every internal record, shows ENGINE alone in NOTICE, keeps MASK and CLOCK, and touches no byte of
exchange memory. It gives up the frames of every port: where a frame is being sent, one character of what the line carries
completes, which one being a free value (log entry 9), and elsewhere nothing more follows. That the part keeps its copy of
each slot's last outcome and detail is log entry 7's (R21, R111). -/
def Obligations.ResetClearsTheRecords : Prop :=
  ∀ s : State, s.ctl.engine ≠ .wiping → ∃ t, exec .reset s = .next t ∧
    t = { State.reset with
      ctl := {
        engine := .stopped
        lastCommand := .reset
        lastOutcome := .accepted
        mask := s.ctl.mask
        messagesEnabled := s.ctl.messagesEnabled
        messagesSent := t.ctl.messagesSent
        clock := s.ctl.clock }
      mem := s.mem
      notice := 0x02
      slots := t.slots
      ports := t.ports
      free := s.free
      pending := s.pending } ∧
    (∀ g, t.slot g = { codes := (s.slot g).codes }) ∧
    ∀ p, t.port p = { cut := (t.port p).cut } ∧
      (wireCharacters (s.port p).transmitter = [] → (t.port p).cut = (s.port p).cut) ∧
      (wireCharacters (s.port p).transmitter ≠ [] →
        ∃ c ∈ (s.port p).output, (t.port p).cut.character = some c ∧ (t.port p).output = [c]) ∧
      (t.port p).atRest ∧ (t.port p).receiver = .hunting ∧ (t.port p).condition = .none

/-- A STOP in DRAINING changes the three command fields of STATUS and nothing else. A STOP in RUNNING makes every contact NONE
and leaves the engine DRAINING while a port still serves and STOPPED otherwise. In a part whose records agree, it finishes
every queued job CANCELLED ENGINE_STOP, lifts every captured contact by a synthetic UP to its station's record, empties the
queues and the deadline list, finishes the scans and holds that are served DONE_SHORT ENGINE_STOP with their ports no longer
serving, the frames of a scan by its phase, and leaves every serving print as it is; the length of each queue that it empties
and the state of each port whose service it ends show in their mirrors (R2, R19, R79, R80, R113, R158, R174, R178). -/
def Obligations.StopEndsTheWork : Prop :=
  (∀ s : State, s.ctl.engine = .draining → exec .stop s = .next { s with
    ctl := { s.ctl with lastCommand := .stop, lastOutcome := .accepted, refusalReason := .none } }) ∧
  (∀ s : State, s.ctl.engine = .running → ∃ t, exec .stop s = .next t ∧
    t.ctl.lastCommand = .stop ∧ t.ctl.lastOutcome = .accepted ∧ t.ctl.refusalReason = .none ∧
    t.ctl.work = s.ctl.work ∧ t.ctl.samples = s.ctl.samples ∧ t.ctl.clock = s.ctl.clock ∧ t.ctl.mask = s.ctl.mask ∧
    (∀ g, (s.slot g).state = .queued → (t.slot g).state = .finished) ∧
    (∀ p i, t.contact p i = .none) ∧
    (∀ p, (s.portConfig p).cls = .scanner ∨ (s.portConfig p).cls = .panel → (s.port p).job ≠ none →
      (t.port p).state ≠ .serving) ∧
    (t.ctl.engine = .draining ∧ t.anyServing = true ∨
      t.ctl.engine = .stopped ∧ t.notice &&& 0x02 = 0x02 ∧ ∀ p, (t.port p).atRest)) ∧
  ∀ s : State, s.wellFormed → s.structured → s.ctl.engine = .running → ∃ t, exec .stop s = .next t ∧
    (∀ g, (s.slot g).state = .queued → t.hasResult g .cancelled .engineStop) ∧
    s.liftsWritten t allPorts Contact.captured ∧
    (∀ q, t.queue q = [] ∧ (s.queue q ≠ [] → t.queueShown q)) ∧ t.deadlines = [] ∧
    (∀ p g, (s.port p).job = some g → (s.portConfig p).cls = .scanner ∨ (s.portConfig p).cls = .panel →
      t.hasResult g .doneShort .engineStop ∧ (t.port p).job = none ∧ (t.job g).resultChain = (s.job g).resultChain ∧
        t.portShown p ∧
        (t.ctl.engine = .draining → t.port p = { (s.port p).ended with
          transmitter := if (s.portConfig p).cls = .scanner then (s.port p).scanEnded else (s.port p).transmitter
          contacts := (t.port p).contacts })) ∧
    (∀ p g, (s.port p).job = some g → (s.portConfig p).cls = .printer →
      t.slot g = s.slot g ∧ (t.port p).print = (s.port p).print ∧ (t.port p).state = .serving ∧
        (t.port p).transmitter = (s.port p).transmitter ∧ t.ctl.engine = .draining) ∧
    ∀ g, (s.slot g).state ≠ .queued → (s.slot g).state ≠ .serving → t.slot g = s.slot g

/-! ### The host's accesses -/

/-- What reads of the register window return: the six fields of STATUS, NOTICE with STATIONS following STATION_NOTICE, MASK,
STATION_NOTICE and CLOCK; zero at CONTROL, at NUDGE and where no register is (R1, R3, R5 to R8, R202). -/
def Obligations.RegisterReads : Prop :=
  ∀ s : State,
    field (s.registerRead 0x04) 0 3 = engineCode s.ctl.engine ∧
    field (s.registerRead 0x04) 4 3 = commandCode s.ctl.lastCommand ∧
    field (s.registerRead 0x04) 8 2 = commandOutcomeCode s.ctl.lastOutcome ∧
    field (s.registerRead 0x04) 10 2 = refusalCode s.ctl.refusalReason ∧
    field (s.registerRead 0x04) 16 3 = configResultCode s.ctl.configResult ∧
    (s.ctl.errorSubject ≤ 11 → field (s.registerRead 0x04) 24 4 = s.ctl.errorSubject) ∧
    (s.notice.getLsbD 0 = false → ((s.registerRead 0x0C).getLsbD 0 = true ↔ s.stationNotice ≠ 0)) ∧
    (∀ i, 1 ≤ i → i ≤ 7 → (s.registerRead 0x0C).getLsbD i = s.notice.getLsbD i) ∧
    field (s.registerRead 0x10) 0 8 = s.ctl.mask.toNat ∧
    s.registerRead 0x14 = s.stationNotice ∧ s.registerRead 0x18 = s.ctl.clock ∧
    ∀ offset, offset = 0x00 ∨ offset = 0x08 ∨ 0x18 < offset → s.registerRead offset = 0

/-- A NUDGE write sets its request in RUNNING and DRAINING and is ignored in the other states. A NOTICE write and a
STATION_NOTICE write clear each bit written as one, leave the others, and send no message; a MASK write replaces the eight
enables and sends the message of the rise it makes; the change of messages enabled sends none (R4 to R7). -/
def Obligations.HostWritesActOnTheRegisters : Prop :=
  (∀ (s : State) (st : Station),
     (s.ctl.engine = .running ∨ s.ctl.engine = .draining →
       exec (.nudgeVisit st) s = .next { s with
         ctl := { s.ctl with nudgeVisits := s.ctl.nudgeVisits.set st.val true } } ∧
       exec .nudgeWholeSweep s = .next { s with ctl := { s.ctl with nudgeSweep := true } }) ∧
     (s.ctl.engine = .wiping ∨ s.ctl.engine = .stopped ∨ s.ctl.engine = .starting →
       exec (.nudgeVisit st) s = .next s ∧ exec .nudgeWholeSweep s = .next s)) ∧
  (∀ (s : State) (w : Word) (b : Bool),
     exec (.noticeWrite w) s = .next { s with notice := s.notice &&& ~~~(w.extractLsb' 0 8) } ∧
     exec (.stationNoticeWrite w) s = .next { s with stationNotice := s.stationNotice &&& ~~~w } ∧
     exec (.maskWrite w) s = .next { s with
       ctl := { s.ctl with
         mask := w.extractLsb' 0 8
         messagesSent := s.ctl.messagesSent +
           (if s.noticeWord &&& s.ctl.mask = 0 ∧ s.noticeWord &&& w.extractLsb' 0 8 ≠ 0 ∧
             s.ctl.messagesEnabled = true then 1 else 0) } } ∧
     exec (.messagesEnabledChange b) s = .next { s with ctl := { s.ctl with messagesEnabled := b } })

/-- A register write with fewer than four lanes, at an offset of no writable register, of an unknown CONTROL code or of a
NUDGE word that names nothing is ignored (R1, R2, R4); a misaligned one and one past the window are no accesses of the
manual, and stop (log entry 22). -/
def Obligations.IgnoredRegisterWritesChangeNothing : Prop :=
  ∀ (offset : Nat) (lanes : BitVec 4) (value : Word) (s : State),
    (offset % 4 = 0 → offset < 64 →
      lanes ≠ 0xF ∨ (offset = 0x00 ∧ (field value 0 8 = 0 ∨ 4 < field value 0 8)) ∨
        (offset = 0x08 ∧ 32 ≤ value.toNat ∧ value.toNat ≠ 63) ∨
        (offset ≠ 0x00 ∧ offset ≠ 0x08 ∧ offset ≠ 0x0C ∧ offset ≠ 0x10 ∧ offset ≠ 0x14) →
      exec (.registerWriteIgnored offset lanes value) s = .next s) ∧
    (offset % 4 ≠ 0 → exec (.registerWriteIgnored offset lanes value) s = .fault (.misaligned offset)) ∧
    (offset % 4 = 0 → 64 ≤ offset →
      exec (.registerWriteIgnored offset lanes value) s = .fault (.outsideRegisterWindow offset))

/-- Host accesses to exchange memory: a write of all four lanes is taken whole and changes no other byte, one of fewer lanes
is discarded, a read returns the whole word; in WIPING writes are ignored and reads return zero (R9, R11). An access that
is misaligned or past the 128 KiB stops (log entry 22). -/
def Obligations.HostMemoryAccess : Prop :=
  ∀ (offset : Nat) (lanes : BitVec 4) (value : Word) (s : State), s.wellFormed →
    (offset % 4 = 0 → offset < 131072 →
      (s.ctl.engine ≠ .wiping → lanes = 0xF → ∃ m, exec (.hostExchangeMemoryWrite offset lanes value) s =
        .next { s with mem := m } ∧ readWord m offset = value ∧
        ∀ a, ¬ within offset 4 a → readByte m a = readByte s.mem a) ∧
      (s.ctl.engine = .wiping ∨ lanes ≠ 0xF →
        exec (.hostExchangeMemoryWrite offset lanes value) s = .next s) ∧
      (s.ctl.engine = .wiping → s.hostRead offset = 0) ∧
      (s.ctl.engine ≠ .wiping → s.hostRead offset = readWord s.mem offset)) ∧
    (offset % 4 ≠ 0 → exec (.hostExchangeMemoryWrite offset lanes value) s = .fault (.misaligned offset)) ∧
    (offset % 4 = 0 → 131072 ≤ offset →
      exec (.hostExchangeMemoryWrite offset lanes value) s = .fault (.outsideExchangeMemory offset))

/-! ### START -/

/-- The three checks of START in their order, the first that fails deciding: its code and subject in STATUS, STOPPED, ENGINE
set, and no slot, mark, counter, mailbox or byte of exchange memory changed. Where all pass, START goes on to the rebuild,
which has taken a free number of slots when the next command comes (R15; log entry 4). -/
def Obligations.ValidationJudgesTheConfiguration : Prop :=
  ∀ s : State, s.ctl.engine = .starting → s.ctl.startPhase = .copied →
    let cls (p : Port) : PortClass := (s.portConfig p).cls
    let mixed (q : Pool) : Prop := ∃ p r, cls p ≠ .none ∧ cls r ≠ .none ∧ (s.portConfig p).pool = q ∧
      (s.portConfig r).pool = q ∧ cls p ≠ cls r
    let fails (code : ConfigResult) (subject : Nat) : Prop := ∃ t, exec .configurationValidation s = .next t ∧
      t = { s with
        ctl := { s.ctl with
          engine := .stopped
          startPhase := .idle
          configResult := code
          errorSubject := subject
          messagesSent := t.ctl.messagesSent }
        notice := s.notice ||| 0x02 }
    (∀ p, cls p = .bad → (∀ r, r < p → cls r ≠ .bad) → fails .portClassBad p.val) ∧
    ((∀ p, cls p = .none) → fails .noPorts 0) ∧
    (∀ q, (∀ p, cls p ≠ .bad) → mixed q → (∀ r, r < q → ¬ mixed r) → fails .poolMixed q.val) ∧
    ((∀ p, cls p ≠ .bad) → (∃ p, cls p ≠ .none) → (∀ q, ¬ mixed q) →
      ∃ n t, n ≤ 128 ∧ exec .configurationValidation s = .next t ∧
        t = { s.rebuildClear.rebuildSlots (allSlots.take n) with
          ctl := { s.ctl with startPhase := .rebuilding n, messagesSent := t.ctl.messagesSent }
          free := { drawn := s.free.drawn + 1 } })

/-- The rebuild, whole or in the two parts in which the model takes it (log entry 4): the shadows from the mirrors of the 128
slots, with FINISHED for QUEUED and SERVING and EMPTY for a code that is none of the five; every per-job record clear but the
result chains; the spare chain, the queues and the deadline list empty; the scores, statistics and line counters 0 (R16), and
the discard counters (R163, R196); the jobs-finished count that of the slots found QUEUED or SERVING; no mark but OUTSIDE and
RESULT. That the result word written to a slot found QUEUED or SERVING has the accept stamp's validity flag set and no other
is the model's choice, deduced from R184 (log entry 24). A slot with an undefined code raises the handover count with both
notices. A FINISHED slot of class SCAN with a valid scan store has its chain of OUTSIDE blocks marked RESULT and recorded; the
walk ends at index 0, and at an index above 896 or a block that is marked it stops and counts a handover fault; any other
FINISHED slot keeps no chain (R12, R16, R163, R184, R196). -/
def Obligations.RebuildReadsTheMirrors : Prop :=
  (∀ s : State, s.wellFormed →
    (∀ g, ((s.rebuild).slot g).state =
      (match readOwner s.mem g with
        | some .empty => .empty
        | some .posted => .posted
        | some .queued => .finished
        | some .serving => .finished
        | some .finished => .finished
        | none => .empty)) ∧
    (∀ g, readOwner s.mem g = some .queued ∨ readOwner s.mem g = some .serving →
      (s.rebuild).hasResult g .cancelled .reset ∧
        field ((s.rebuild).word (slotAddress g + 0x18)) 16 5 = field (s.word (slotAddress g + 0x18)) 16 5 ∧
        field ((s.rebuild).word (slotAddress g + 0x18)) 24 8 = 1) ∧
    (∀ g, readOwner s.mem g = none → (s.rebuild).word (slotAddress g) = 0) ∧
    (s.rebuild).spare = [] ∧ (s.rebuild).word 0x10 = 0 ∧ (s.rebuild).word 0x14 = 0 ∧ (s.rebuild).deadlines = [] ∧
    (∀ q, (s.rebuild).queue q = [] ∧ (s.rebuild).poolStats q = {}) ∧
    (∀ g, (s.rebuild).job g = { resultChain := ((s.rebuild).job g).resultChain } ∧
      (readOwner s.mem g ≠ some .finished ∨ holdsResultChain s.mem g = false → (s.rebuild).job g = {})) ∧
    (∀ st, ((s.rebuild).counters st).usage = 0 ∧ ((s.rebuild).counters st).overflow = 0 ∧
      ((s.rebuild).counters st).jobsFinished = (fourIndices.filter fun i =>
        readOwner s.mem (slotOf st i) = some .queued ∨ readOwner s.mem (slotOf st i) = some .serving).length ∧
      field ((s.rebuild).word (stationAddress st + 0x08)) 0 16 = ((s.rebuild).counters st).handoverFaults ∧
      field ((s.rebuild).word (stationAddress st + 0x08)) 16 16 = ((s.rebuild).counters st).jobsFinished ∧
      (s.rebuild).word (stationAddress st + 0x0C) = 0) ∧
    (∀ p, ((s.rebuild).port p).counters = {} ∧ ((s.rebuild).port p).discards = {} ∧
      ((s.rebuild).port p).state = (s.port p).state) ∧
    (∀ b, (s.rebuild).mark b = .outside ∨ (s.rebuild).mark b = .result) ∧
    (s.rebuild).ctl = s.ctl ∧ (s.rebuild).mailboxes = s.mailboxes ∧
    s.rebuild = s.rebuildClear.rebuildSlots allSlots ∧
    ∀ n, (s.rebuildClear.rebuildSlots (allSlots.take n)).rebuildSlots (allSlots.drop n) = s.rebuild) ∧
  ∀ (s : State) (g : Slot), s.wellFormed →
    let t := s.rebuildSlot g
    let st := stationOf g
    let c := s.counters st
    let faultCounted : Prop := t.counters st = { c with handoverFaults := min 65535 (c.handoverFaults + 1) } ∧
      t.notice = s.notice ||| 0x80 ∧ t.stationNotice = s.stationNotice ||| stationMask st
    (readOwner s.mem g = none → faultCounted ∧ (t.slot g).state = .empty ∧ t.marks = s.marks) ∧
    (readOwner s.mem g = some .finished → holdsResultChain s.mem g = false → t = s.setShadow g .finished) ∧
    ∀ blocks last, readOwner s.mem g = some .finished → holdsResultChain s.mem g = true → blocks.Nodup →
      (∀ b ∈ blocks, 1 ≤ b ∧ b ≤ 896 ∧ s.mark b = .outside) →
      readFirstResult s.mem g :: blocks.map (readLink s.mem) = blocks ++ [last] →
      last = 0 ∨ 896 < last ∨ s.mark last ≠ .outside ∨ last ∈ blocks →
      (t.slot g).state = .finished ∧ t.job g = { s.job g with resultChain := (s.job g).resultChain ++ blocks } ∧
      (∀ b, t.mark b = if b ∈ blocks then .result else s.mark b) ∧ s.slotsKept t [g] ∧
      (last = 0 → t = { s with slots := t.slots, marks := t.marks }) ∧ (last ≠ 0 → faultCounted)

/-- START completes: the rebuild takes the slots that it had left, and then the engine is RUNNING, every station and zone
sampled, every mailbox record free with its seq raised to the next even value and advanced by 2, every contact NONE, every
port of a class PROBING with an ASK being sent and every port of class NONE at rest, its line high, both timers started and
the first whole sweep begun as a timed one (R16, R17, R41, R58, R97, R114; log entry 4 for the slots left). -/
def Obligations.StartCompletes : Prop :=
  ∀ (s : State) (next : Nat), s.wellFormed → s.ctl.engine = .starting → s.ctl.startPhase = .rebuilding next → s.atRest →
    let u := s.rebuildSlots (allSlots.drop next)
    ∃ t, exec .startCompletion s = .next t ∧
      t.ctl = { s.ctl with
        engine := .running
        startPhase := .idle
        samples := Vector.ofFn (readSample u.mem)
        sweep := some { nudged := false, next := 0 }
        sweepTimer := some (s.ctl.clock + BitVec.ofNat 32 s.ctl.work.sweepInterval)
        sweepHeld := false
        decayTimer := if s.ctl.work.decayPeriod = 0 then none
          else some (s.ctl.clock + BitVec.ofNat 32 (s.ctl.work.decayPeriod * 1000))
        messagesSent := t.ctl.messagesSent } ∧
      t.notice = u.notice ||| 0x02 ∧ t.stationNotice = u.stationNotice ∧
      (∀ p, (t.port p).condition = .none ∧ (t.port p).capability = 0 ∧ ∀ i, t.contact p i = .none) ∧
      (∀ p, (s.portConfig p).cls ≠ .none →
        (t.port p).state = .probing ∧ (t.port p).receiver = .hunting ∧ (t.port p).probeTimer = none ∧
          (t.port p).transmitter = {
            sending := .outstanding
            outstanding := some { offered := { frame := .ask, owner := .probe }, sends := 1, phase := .beingSent } }) ∧
      (∀ p, (s.portConfig p).cls = .none → (t.port p).atRest ∧ (t.port p).output = [] ∧
        ∀ time, (t.port p).level time = true) ∧
      (∀ p (z : Fin 16), (s.portConfig p).cls = .panel → (t.port p).zones[z.val] = readZone u.mem p z.val) ∧
      (∀ st (r : Fin 4),
        let seq := (u.word (mailboxAddress st r)).extractLsb' 0 16
        let even := if seq.toNat % 2 = 1 then seq + 1 else seq
        t.mailbox st r = { seq := even + 2 } ∧ t.word (mailboxAddress st r) = (even + 2).setWidth 32 ∧
          t.word (mailboxAddress st r + 0x08) = 0 ∧ t.word (mailboxAddress st r + 0x0C) = 0) ∧
      u.memoryKept t (fun a => (∃ st, mailboxBytes st a) ∨ ∃ p, portMirror p a) ∧
      t.slots = u.slots ∧ t.queues = s.queues ∧ t.deadlines = s.deadlines ∧ t.stats = s.stats ∧
      t.stations = u.stations ∧ t.marks = u.marks ∧ t.spare = s.spare ∧ t.free = s.free ∧ t.pending = s.pending

/-! ### Sweeps and visits -/

/-- The sweep timer's expiry: with no whole sweep and no request pending a timed whole sweep begins and restarts the timer;
during a timed whole sweep, and while station requests wait, the expiry is held; during a nudged one it is dropped. A
whole sweep that is due begins at station 0: nudged where one is requested, which clears the request and a held expiry
both; timed where an expiry is held, which restarts the timer; it waits for the sweep in progress and for the station
requests, also for one that is written while it waits (the model's choice, log entry 34) (R41, R42, R51). -/
def Obligations.WholeSweepsBegin : Prop :=
  (∀ s : State,
     let idle := ∀ st : Station, s.ctl.nudgeVisits[st.val] = false
     (∀ e, s.ctl.engine = .running ∨ s.ctl.engine = .draining → s.ctl.sweepTimer = some e →
       reached s.ctl.clock e = true →
       (s.ctl.sweep = none → idle → s.ctl.nudgeSweep = false → exec .sweepTimerExpiry s = .next { s with
         ctl := { s.ctl with
           sweep := some { nudged := false, next := 0 }
           sweepTimer := some (s.ctl.clock + BitVec.ofNat 32 s.ctl.work.sweepInterval)
           sweepHeld := false } }) ∧
       (∀ w, s.ctl.sweep = some w → w.nudged = false → exec .sweepTimerExpiry s = .next { s with
         ctl := { s.ctl with sweepTimer := none, sweepHeld := true } }) ∧
       (∀ w, s.ctl.sweep = some w → w.nudged = true → exec .sweepTimerExpiry s = .next { s with
         ctl := { s.ctl with sweepTimer := none } }) ∧
       (s.ctl.sweep = none → ¬ idle → exec .sweepTimerExpiry s = .next { s with
         ctl := { s.ctl with sweepTimer := none, sweepHeld := true } })) ∧
     (s.ctl.sweepTimer = none → exec .sweepTimerExpiry s = .next s) ∧
     ∀ e, s.ctl.sweepTimer = some e → reached s.ctl.clock e = false → exec .sweepTimerExpiry s = .next s) ∧
  (∀ s : State, s.ctl.engine = .running ∨ s.ctl.engine = .draining →
     let idle := ∀ st : Station, s.ctl.nudgeVisits[st.val] = false
     (s.ctl.sweep = none → idle → s.ctl.nudgeSweep = true → exec .wholeSweepStart s = .next { s with
       ctl := { s.ctl with sweep := some { nudged := true, next := 0 }, nudgeSweep := false, sweepHeld := false } }) ∧
     (s.ctl.sweep = none → idle → s.ctl.nudgeSweep = false → s.ctl.sweepHeld = true →
       exec .wholeSweepStart s = .next { s with
         ctl := { s.ctl with
           sweep := some { nudged := false, next := 0 }
           sweepHeld := false
           sweepTimer := some (s.ctl.clock + BitVec.ofNat 32 s.ctl.work.sweepInterval) } }) ∧
     (s.ctl.sweep ≠ none ∨ ¬ idle ∨ (s.ctl.nudgeSweep = false ∧ s.ctl.sweepHeld = false) →
       exec .wholeSweepStart s = .next s))

/-- The visit that is made next is to the lowest station with a pending request, else to the whole sweep's next station;
none between the visit to station 31 and the closing steps. A visit to another station changes nothing (log entry 2). The
visit replaces the station's sample with the clamped fields of its entry, clears the station's request, and moves a whole
sweep on where no request brought it; nothing else of the control registers changes in RUNNING. Then it makes the change of
station state that the sample brings: a close from OPEN or SUSPENDED to CLOSED, a reopening from SUSPENDED to OPEN, and
nothing at any other pair. Then it examines the station's four slots in index order (R24, R25, R40, R42, R44, R45). -/
def Obligations.VisitsSampleTheStationDue : Prop :=
  (∀ (s : State) (st : Station), s.ctl.engine = .running ∨ s.ctl.engine = .draining →
     let requested (st : Station) := s.ctl.nudgeVisits[st.val] = true
     (s.ctl.visitDue = some st ↔
       (∀ w, s.ctl.sweep = some w → w.next < 32) ∧
         ((requested st ∧ ∀ r, r < st → ¬ requested r) ∨
           ((∀ r, ¬ requested r) ∧ ∃ w, s.ctl.sweep = some w ∧ w.next = st.val))) ∧
     (s.ctl.visitDue ≠ some st → exec (.visit st) s = .next s)) ∧
  (∀ (s : State) (st : Station), s.ctl.visitDue = some st →
     ∃ t, exec (.visit st) s = .next t ∧ t.ctl.samples = s.ctl.samples.set st.val (readSample s.mem st) ∧
       (s.ctl.engine = .running → t.ctl = { s.ctl with
         samples := t.ctl.samples
         nudgeVisits := s.ctl.nudgeVisits.set st.val false
         sweep := if s.ctl.nudgeVisits[st.val] = true then s.ctl.sweep
           else s.ctl.sweep.map fun w => { w with next := w.next + 1 }
         messagesSent := t.ctl.messagesSent })) ∧
  ∀ (s : State) (st : Station), s.ctl.visitDue = some st →
    let before := (s.sample st).state
    let after := (readSample s.mem st).state
    let sampled : State := { s with ctl := { s.ctl with
      samples := s.ctl.samples.set st.val (readSample s.mem st)
      nudgeVisits := s.ctl.nudgeVisits.set st.val false
      sweep := if s.ctl.nudgeVisits[st.val] = true then s.ctl.sweep
        else s.ctl.sweep.map fun w => { w with next := w.next + 1 } } }
    let visited (u : State) : Prop := exec (.visit st) s = .next (closeEvent s
      ((((u.examine (slotOf st 0)).examine (slotOf st 1)).examine (slotOf st 2)).examine (slotOf st 3)))
    (before ≠ .closed → after = .closed → visited (sampled.closeStation st)) ∧
    (before = .suspended → after = .opened → visited (sampled.reopenStation st)) ∧
    (before = .closed ∨ before = after ∨ (before = .opened ∧ after = .suspended) → visited sampled)

/-- A visit that finds no change of station state that acts, every slot's mirror equal to its shadow, no slot POSTED and no
cancel byte at a QUEUED or SERVING slot changes the control registers alone. The close of a station acts on its slots first: a
QUEUED job leaves queue and list and is CANCELLED STATION_CLOSED, a serving print takes the close latch, a serving scan or
hold is CANCELLED STATION_CLOSED and its port FREE, the frames of a scan by its phase, and the other slots stay. Its captured
contacts become ORPHAN without a write, its mailboxes free, and no notice is set where nothing was queued or serving; the
lengths of the queues that change, the states of the ports and, where a queued job is finished, the finish count show in their
mirrors. Then each service end brings one review of its port's pool, so that no review finds its jobs still queued, and a pool
of which two services have ended is reviewed twice (that the touch router comes before those reviews is log entry 21's). A
reopening reviews, in pool order, each pool whose queue holds one of the station's jobs (R24, R26, R44 to R47, R65, R67, R80,
R113, R158, R178). -/
def Obligations.QuietVisitTouchesNoSlot : Prop :=
  (∀ (s : State) (st : Station), s.ctl.visitDue = some st →
    (s.sample st).state = .closed ∨ (s.sample st).state = (readSample s.mem st).state ∨
      ((s.sample st).state = .opened ∧ (readSample s.mem st).state = .suspended) →
    (∀ i : Fin 4, readOwner s.mem (slotOf st i) = some (s.slot (slotOf st i)).state ∧
      (s.slot (slotOf st i)).state ≠ .posted ∧
      ((s.slot (slotOf st i)).state = .queued ∨ (s.slot (slotOf st i)).state = .serving →
        readCancel s.mem (slotOf st i) = 0)) →
    ∃ t, exec (.visit st) s = .next t ∧ t = { s with ctl := t.ctl } ∧
      t.ctl.samples = s.ctl.samples.set st.val (readSample s.mem st) ∧ t.ctl.engine = s.ctl.engine ∧
      t.ctl.sweepTimer = s.ctl.sweepTimer ∧ t.ctl.messagesSent = s.ctl.messagesSent) ∧
  (∀ (s : State) (st : Station), s.wellFormed → s.structured →
    let ended (g : Slot) : Option Port :=
      if (s.slot g).state = .serving ∧ ((s.job g).cls = some .scan ∨ (s.job g).cls = some .hold) then (s.job g).port else none
    ∃ u : State, s.closeStation st = (([slotOf st 0, slotOf st 1, slotOf st 2, slotOf st 3].filterMap ended).foldl
        (fun v p => v.review (s.portConfig p).pool) u) ∧
      (∀ g, stationOf g = st →
        ((s.slot g).state = .queued → u.hasResult g .cancelled .stationClosed) ∧
        ((s.slot g).state = .serving → (s.job g).cls = some .print →
          u.slot g = { s.slot g with job := { s.job g with closeLatch := true } }) ∧
        (∀ p, (s.slot g).state = .serving → (s.job g).cls = some .scan ∨ (s.job g).cls = some .hold →
          (s.job g).port = some p → u.hasResult g .cancelled .stationClosed ∧
            u.port p = { (s.port p).ended with
              transmitter := if (s.job g).cls = some .scan then (s.port p).scanEnded else (s.port p).transmitter
              contacts := (u.port p).contacts } ∧
            u.portShown p ∧ (u.job g).resultChain = (s.job g).resultChain) ∧
        ((s.slot g).state ≠ .queued → (s.slot g).state ≠ .serving → u.slot g = s.slot g)) ∧
      (∀ g, stationOf g ≠ st → u.slot g = s.slot g) ∧
      (∀ q, u.queue q = (s.queue q).filter fun g => stationOf g ≠ st) ∧
      (∀ q, u.queue q ≠ s.queue q → u.queueShown q) ∧
      ((∃ g, stationOf g = st ∧ (s.slot g).state = .queued) → u.talliesShown st) ∧
      u.deadlines = (s.deadlines.filter fun g => stationOf g ≠ st) ∧
      (∀ p i c, s.contact p i = .zone c → u.contact p i = if c.station = st then .orphan else .zone c) ∧
      (∀ p i c, s.contact p i = .hold c → c.station = st → u.contact p i = .orphan) ∧
      (∀ p i, s.contact p i = .none ∨ s.contact p i = .orphan ∨ s.contact p i = .dropped →
        u.contact p i = s.contact p i) ∧
      (∀ r : Fin 4, u.mailbox st r = { seq := (s.mailbox st r).seq + 2 } ∧
        u.word (mailboxAddress st r) = ((s.mailbox st r).seq + 2).setWidth 32 ∧
        u.word (mailboxAddress st r + 0x08) = 0 ∧ u.word (mailboxAddress st r + 0x0C) = 0) ∧
      (∀ st' (r : Fin 4), st' ≠ st → u.mailbox st' r = s.mailbox st' r) ∧
      u.ctl = s.ctl ∧ u.notice = s.notice ∧ u.spare = s.spare ∧ u.stats = s.stats ∧
      ((∀ g, stationOf g = st → (s.slot g).state ≠ .queued ∧ (s.slot g).state ≠ .serving) →
        u.stationNotice = s.stationNotice)) ∧
  ∀ (s : State) (st : Station), s.reopenStation st = allPools.foldl
    (fun u q => if ∃ g ∈ u.queue q, stationOf g = st then u.review q else u) s

/-- An examination that finds a pair of shadow and mirror with no row of its own is a handover fault: the shadow's code is
written back, the station's count rises, both notices are set, and nothing else changes; the count's mirror is written, also
where the count is saturated. A release clears the slot's records but for the copy of its last codes
(log entry 7), makes its shadow EMPTY and every block of its result chain record OUTSIDE; it writes nothing to exchange memory
and sets no notice; in DRAINING the pair FINISHED and POSTED is released only. In RUNNING that pair is released and, in the
same examination, accepted as the pair EMPTY and POSTED of the released state (R26 to R29, R47, R145). -/
def Obligations.ExaminationsByPair : Prop :=
  (∀ (s : State) (g : Slot), s.wellFormed →
     let state := (s.slot g).state
     let mirror := readOwner s.mem g
     mirror ≠ some state → ¬ (state = .empty ∧ mirror = some .posted) →
     ¬ (state = .finished ∧ (mirror = some .empty ∨ mirror = some .posted)) →
     let t := s.examine g
     let st := stationOf g
     let c := s.counters st
     t = { s with
       mem := t.mem
       notice := s.notice ||| 0x80
       stationNotice := s.stationNotice ||| stationMask st
       stations := s.stations.set st.val { c with handoverFaults := min 65535 (c.handoverFaults + 1) } } ∧
     t.word (slotAddress g) = ownerCode state ∧
     t.talliesShown st ∧
     s.memoryKept t fun a => within (slotAddress g) 4 a ∨ within (stationAddress st + 0x08) 4 a) ∧
  (∀ (s : State) (g : Slot), (s.slot g).state = .finished →
     readOwner s.mem g = some .empty ∨ (readOwner s.mem g = some .posted ∧ s.ctl.engine = .draining) →
     let t := s.examine g
     t = { s with slots := s.slots.set g.val { codes := (s.slot g).codes }, marks := t.marks } ∧
     ∀ b, t.mark b = if b ∈ (s.job g).resultChain then .outside else s.mark b) ∧
  ∀ (s : State) (g : Slot), (s.slot g).state = .finished → readOwner s.mem g = some .posted → s.ctl.engine = .running →
    ∃ u : State, u = { s with slots := s.slots.set g.val { codes := (s.slot g).codes }, marks := u.marks } ∧
      (∀ b, u.mark b = if b ∈ (s.job g).resultChain then .outside else s.mark b) ∧ s.examine g = u.examine g

/-- The checks of acceptance in their order: the first that fails refuses the slot with its detail, every clamp and validity
flag clear, the jobs-finished count rising with its mirror, and no queue, list, loan, port or statistic changed; a print whose
chain walk fails is refused with the walk's detail. The walk of a chain whose every block passes, to a link of 0, gives the
record of its blocks in order, the last of them and each with its end-of-sheet flag set marked as sheet ends; the walk fails
after blocks that pass at a link above 896 of an OUTSIDE or LOANED block and at an 897th block with CHAIN_LOOP, and at a SPARE
or RESULT block whose link is not above 896 with CHAIN_CONFLICT (R31, R32, R123, R124, R182, R184). -/
def Obligations.FailedCheckRefusesTheRequest : Prop :=
  (∀ (s : State) (g : Slot), s.wellFormed → s.ctl.engine = .running → (s.slot g).state = .empty ∨ (s.slot g).state = .posted →
    readOwner s.mem g = some .posted →
    let r := readRequest s.mem g
    let x := s.sample (stationOf g)
    let t := s.examine g
    let refused (d : Detail) : Prop :=
      t.hasResult g .refused d ∧ field (t.word (slotAddress g + 0x18)) 16 16 = 0 ∧
        t.word (slotAddress g + 0x20) = 0 ∧ t.word (slotAddress g + 0x24) = 0 ∧
        (t.counters (stationOf g)).jobsFinished = min 65535 ((s.counters (stationOf g)).jobsFinished + 1) ∧
        t = { s with
          mem := t.mem
          slots := s.slots.set g.val { s.slot g with state := .finished, codes := { outcome := .refused, detail := d } }
          stations := t.stations
          stationNotice := s.stationNotice ||| stationMask (stationOf g) } ∧
        t.talliesShown (stationOf g) ∧ s.stationsKept t [stationOf g] ∧
        s.memoryKept t fun a => finishBytes g a ∨ stationMirrors (stationOf g) a
    (x.state = .closed → refused .stationClosed) ∧
    (x.state ≠ .closed → x.basePriority = 0 → refused .noPriority) ∧
    (x.state ≠ .closed → x.basePriority ≠ 0 → r.cls = none → refused .badClass) ∧
    ∀ cls, x.state ≠ .closed → x.basePriority ≠ 0 → r.cls = some cls →
      ((∀ h : r.pool < 8, s.poolClass ⟨r.pool, h⟩ ≠ servingClass cls) → refused .badPool) ∧
      ∀ h : r.pool < 8, s.poolClass ⟨r.pool, h⟩ = servingClass cls →
        (permits x cls = false → refused .notPermitted) ∧
        (permits x cls = true →
          (cls = .print → r.firstBlock = 0 ∨ 896 < r.firstBlock → refused .badChain) ∧
          (cls = .print → 1 ≤ r.firstBlock → r.firstBlock ≤ 896 →
            (s.mark r.firstBlock = .spare ∨ s.mark r.firstBlock = .result → readLink s.mem r.firstBlock ≤ 896 →
              refused .chainConflict) ∧
            (s.mark r.firstBlock ≠ .spare → s.mark r.firstBlock ≠ .result → 896 < readLink s.mem r.firstBlock →
              refused .chainLoop) ∧
            ∀ d, chainWalk s 896 r.firstBlock = .error d → refused d) ∧
          (cls = .scan → r.mode = 0 ∨ 3 < r.mode → refused .badParam))) ∧
  ∀ s : State,
    let passes (b : Nat) : Prop := 1 ≤ b ∧ b ≤ 896 ∧ s.mark b ≠ .spare ∧ s.mark b ≠ .result
    (∀ first rest, (first :: rest).length ≤ 896 → (∀ b ∈ first :: rest, passes b) →
      (first :: rest).map (readLink s.mem) = rest ++ [0] →
      ∃ chain, chainWalk s 896 first = .ok chain ∧ chain.map ChainEntry.block = first :: rest ∧
        ∀ i e, chain[i]? = some e →
          (e.sheetEnd = true ↔ i = rest.length ∨ (s.word (blockAddress e.block + 4)).getLsbD 0 = true)) ∧
    ∀ before first b, (∀ x ∈ before, passes x) → before.map (readLink s.mem) = (before ++ [b]).tail →
      (before ++ [b]).head? = some first → 1 ≤ b → b ≤ 896 →
      (before.length < 896 → readLink s.mem b ≤ 896 → s.mark b = .spare ∨ s.mark b = .result →
        chainWalk s 896 first = .error .chainConflict) ∧
      (before.length < 896 → s.mark b ≠ .spare → s.mark b ≠ .result → 896 < readLink s.mem b →
        chainWalk s 896 first = .error .chainLoop) ∧
      (before.length = 896 → chainWalk s 896 first = .error .chainLoop)

/-- A request that passes validation becomes QUEUED with a fresh record and clamped values, its stamp, the flag of each clamp
that changes a value and the owner code written, in its queue before the first entry that it precedes and, with a deadline, on
the deadline list before the first entry that it precedes there, one loan for each entry of its chain, which is the walk's
record, the queue length in its mirror; then its pool is reviewed. The result word is written whole, with the outcome and the
detail of the part's own copy, those of the slot's last finish (R10; deduced, log entry 7). With the cancel byte set it is
finished CANCELLED BEFORE_ACCEPT, and no queue, list or mark is touched (R10, R30, R32 to R35, R52, R53, R62, R80, R123). -/
def Obligations.PassedRequestIsQueued : Prop :=
  ∀ (s : State) (g : Slot) (v : Validated), s.wellFormed → s.ctl.engine = .running →
    (s.slot g).state = .empty ∨ (s.slot g).state = .posted → readOwner s.mem g = some .posted →
    let r := readRequest s.mem g
    s.validateRequest (stationOf g) r = .ok v →
    (v.cls = .print → chainWalk s 896 r.firstBlock = .ok v.chain) ∧ (v.cls ≠ .print → v.chain = []) ∧
    (r.cancel = 0 → ∃ u, s.examine g = u.review v.pool ∧ (u.slot g).state = .queued ∧
      u.word (slotAddress g) = 2 ∧ u.word (slotAddress g + 0x1C) = s.ctl.clock ∧
      field (u.word (slotAddress g + 0x18)) 0 8 = outcomeCode (s.slot g).codes.outcome ∧
      field (u.word (slotAddress g + 0x18)) 8 8 = detailCode (s.slot g).codes.detail ∧
      (u.slot g).codes = (s.slot g).codes ∧ u.queueShown v.pool ∧
      field (u.word (slotAddress g + 0x18)) 16 5 = clampBits (u.job g).clamps ∧
      field (u.word (slotAddress g + 0x18)) 24 8 = 1 ∧
      (let j := u.job g;
        r.cls = some v.cls ∧ j.cls = some v.cls ∧ j.pool = v.pool ∧ r.pool = v.pool.val ∧
        j.acceptStamp = s.ctl.clock ∧ j.urgency = min 3 r.urgency ∧ j.chain = v.chain ∧
        j.expiry = (if r.deadline = 0 then none else some (s.ctl.clock + BitVec.ofNat 32 (r.deadline * 100))) ∧
        (v.cls = .print → j.copies = max 1 (min 9 r.copies) ∧ j.resumeCopy = 1 ∧ j.resumeSheet = 1) ∧
        (v.cls = .scan → j.mode = r.mode ∧ j.resolution = min 3 r.resolution ∧
          j.maxBytes = if r.maxBytes = 0 then 107520 else r.maxBytes) ∧
        (v.cls = .hold → j.holdRemaining = max 1 (min 3600 r.duration) * 1000) ∧
        (j.clamps.urgency = true ↔ 3 < r.urgency) ∧
        (j.clamps.copies = true ↔ v.cls = .print ∧ (r.copies = 0 ∨ 9 < r.copies)) ∧
        (j.clamps.resolution = true ↔ v.cls = .scan ∧ 3 < r.resolution) ∧
        (j.clamps.maxBytes = true ↔ v.cls = .scan ∧ r.maxBytes = 0) ∧
        (j.clamps.duration = true ↔ v.cls = .hold ∧ (r.duration = 0 ∨ 3600 < r.duration)) ∧
        j.agedOut = false ∧ j.firstGrant = none ∧ j.interruptions = 0 ∧ j.faults = 0 ∧ j.sheetsDone = 0 ∧
        j.resultChain = [] ∧ j.contactsDelivered = 0 ∧ j.cancelLatch = false ∧ j.closeLatch = false) ∧
      s.joinedQueue u v.pool g ∧ (∀ q, q ≠ v.pool → u.queue q = s.queue q) ∧
      (r.deadline = 0 → u.deadlines = s.deadlines) ∧ (r.deadline ≠ 0 → s.joinedDeadlines u g) ∧
      (∀ b, let loans := (v.chain.map ChainEntry.block).count b
        (s.mark b = .outside → u.mark b = if loans = 0 then .outside else .loaned loans) ∧
        ∀ n, s.mark b = .loaned n → u.mark b = .loaned (n + loans)) ∧
      s.slotsKept u [g] ∧ u.ctl = s.ctl ∧ u.ports = s.ports ∧ u.stats = s.stats ∧ u.stations = s.stations ∧
      u.spare = s.spare ∧ u.mailboxes = s.mailboxes ∧ u.notice = s.notice ∧ u.stationNotice = s.stationNotice) ∧
    (r.cancel ≠ 0 → (s.examine g).hasResult g .cancelled .beforeAccept ∧
      (s.examine g).word (slotAddress g + 0x1C) = s.ctl.clock ∧
      field ((s.examine g).word (slotAddress g + 0x18)) 24 8 = 1 ∧
      field ((s.examine g).word (slotAddress g + 0x18)) 16 5 = clampBits (clampFlagsOf r) ∧
      (s.examine g).queues = s.queues ∧ (s.examine g).deadlines = s.deadlines ∧ (s.examine g).marks = s.marks ∧
      (s.examine g).talliesShown (stationOf g) ∧ (s.examine g).ports = s.ports)

/-- A cancel byte at a QUEUED slot takes its job off queue and list and finishes it CANCELLED BY_HOST without a review or a
charge; at a serving print it sets the cancel latch and nothing else; at a FINISHED slot it does nothing. At a serving scan or
hold it ends the service at once CANCELLED BY_HOST: the frames of a scan by its phase, its blocks staying attached; a hold
with the time its timer had left, its HOLD entries lifted to ORPHAN, each by a synthetic UP to its record; the port is FREE
and its pool is reviewed. At a QUEUED slot the queue length and the finish count, at a scan or hold the port's state show in
their mirrors (R36 to R38, R80, R113, R158, R182, R174, R178). -/
def Obligations.CancelByteActs : Prop :=
  ∀ (s : State) (g : Slot), s.wellFormed → readCancel s.mem g ≠ 0 →
    ((s.slot g).state = .queued → readOwner s.mem g = some .queued →
      let t := s.examine g
      t.hasResult g .cancelled .byHost ∧ t.deadlines = s.deadlines.erase g ∧
      (∀ q, t.queue q = if q = (s.job g).pool then (s.queue q).erase g else s.queue q) ∧
      (∀ st, (t.counters st).usage = (s.counters st).usage) ∧ t.queueShown (s.job g).pool ∧ t.talliesShown (stationOf g) ∧
      s.slotsKept t [g] ∧ t.ctl = s.ctl ∧ t.ports = s.ports ∧ t.stats = s.stats ∧ t.spare = s.spare ∧
      t.mailboxes = s.mailboxes ∧ t.notice = s.notice) ∧
    ((s.slot g).state = .serving → readOwner s.mem g = some .serving → (s.job g).cls = some .print →
      s.examine g = { s with
        slots := s.slots.set g.val { s.slot g with job := { s.job g with cancelLatch := true } } }) ∧
    ((s.slot g).state = .finished → readOwner s.mem g = some .finished → s.examine g = s) ∧
    ∀ p, (s.slot g).state = .serving → readOwner s.mem g = some .serving → (s.job g).port = some p →
      let x := s.port p
      ((s.job g).cls = some .scan → ∃ u, s.examine g = u.review (s.portConfig p).pool ∧
        u.hasResult g .cancelled .byHost ∧ u.port p = { x.ended with transmitter := x.scanEnded } ∧ u.portShown p ∧
        u.job g = s.job g ∧
        u.word (slotAddress g + 0x28) = (if (s.job g).firstGrant = none then 0 else BitVec.ofNat 32 x.scan.stored) ∧
        s.portsKept u [p] ∧ s.slotsKept u [g] ∧ s.stationsKept u [stationOf g] ∧ u.marks = s.marks ∧ u.spare = s.spare ∧
        u.queues = s.queues ∧ u.deadlines = s.deadlines ∧ u.stats = s.stats ∧ u.ctl = s.ctl ∧ u.notice = s.notice) ∧
      ∀ e, (s.job g).cls = some .hold → x.hold.timer = some e → ∃ u, s.examine g = u.review (s.portConfig p).pool ∧
        u.hasResult g .cancelled .byHost ∧ u.port p = { x.ended with contacts := (u.port p).contacts } ∧ u.portShown p ∧
        u.job g = { s.job g with holdRemaining := (e - s.ctl.clock).toNat } ∧
        (∀ i, u.contact p i = match s.contact p i with | .hold _ => .orphan | c => c) ∧ s.liftsWritten u [p] Contact.held ∧
        s.portsKept u [p] ∧ s.slotsKept u [g] ∧ s.stationsKept u [stationOf g] ∧ u.marks = s.marks ∧ u.spare = s.spare ∧
        u.queues = s.queues ∧ u.deadlines = s.deadlines ∧ u.stats = s.stats ∧ u.ctl = s.ctl ∧ u.notice = s.notice

/-- WHOLE_SWEEP_END after the visit to station 31 completes: the zone samples of the panels are replaced, then the refill word
is spliced where it is not 0, then every pool is reviewed, pools 0 to 7 in order, and the sweep ends; after a nudged one the
sweep timer restarts and a held expiry is dropped (R40, R41, R164). Before that visit has been made, and with no whole sweep in
progress, the command changes nothing (log entry 2). -/
def Obligations.WholeSweepEnds : Prop :=
  (∀ (s : State) (w : Sweep), s.ctl.engine = .running ∨ s.ctl.engine = .draining → s.ctl.sweep = some w →
    let sampled := s.sampleAllZones
    let u := if s.word 0x08 = 0 then sampled else sampled.spliceRefill
    (32 ≤ w.next → exec .wholeSweepEnd s = .next (settleInterrupt s
        ((((((((u.review 0).review 1).review 2).review 3).review 4).review 5).review 6).review 7 |>.setControl fun c =>
          { c with
            sweep := none
            sweepHeld := if w.nudged = true then false else c.sweepHeld
            sweepTimer := if w.nudged = true then some (s.ctl.clock + BitVec.ofNat 32 s.ctl.work.sweepInterval)
              else c.sweepTimer }))) ∧
    sampled = { s with ports := sampled.ports } ∧
    (∀ p, sampled.port p = { s.port p with zones := (sampled.port p).zones }) ∧
    (∀ p, (s.portConfig p).cls = .panel → ∀ z : Fin 16, (sampled.port p).zones[z.val] = readZone s.mem p z.val) ∧
    (∀ p, (s.portConfig p).cls ≠ .panel → (sampled.port p).zones = (s.port p).zones) ∧
    u.ctl = s.ctl ∧ (s.wellFormed → u.word 0x08 = 0) ∧
    (w.next < 32 → exec .wholeSweepEnd s = .next s)) ∧
  ∀ s : State, s.ctl.sweep = none → exec .wholeSweepEnd s = .next s

/-- A refill chain is walked from the refill word's index over blocks that are OUTSIDE. It is rejected at an index above 896
(BAD_INDEX), at an 897th block (LOOP) and at a block that is not OUTSIDE (DUPLICATE), with the count of the blocks passed and
the failing index; the spare chain, the marks and every port stay. A chain that ends is appended whole to the spare tail: its
blocks marked SPARE, the old tail linked to its first block, the mirrors written, no other byte of exchange memory changed, and
the GO test made for every port. Either way the status word is written, the refill word becomes 0 and REFILL is set. The
blocks that a re-queued scan gives back join the spare tail in the same way, with the GO test and no notice, and an empty record
gives back nothing (R142, R144, R146 to R148, R154). -/
def Obligations.RefillWordIsSpliced : Prop :=
  (∀ s : State, s.wellFormed →
    (∀ code subject, s.word 0x08 ≠ 0 →
      (896 < (s.word 0x08).toNat ∧ code = 2 ∧ subject = (s.word 0x08).toNat) ∨
        ((s.word 0x08).toNat ≤ 896 ∧ s.mark (s.word 0x08).toNat ≠ .outside ∧ code = 4 ∧
          subject = (s.word 0x08).toNat) →
      let t := s.spliceRefill
      t = { s with mem := t.mem, notice := s.notice ||| 0x10 } ∧ t.word 0x08 = 0 ∧
      t.word 0x0C = place code 0 4 ||| place subject 16 16 ∧ s.memoryKept t fun a => within 0x08 8 a) ∧
    (∀ (before : List Nat) (b code : Nat), s.word 0x08 ≠ 0 →
      (∀ x ∈ before, 1 ≤ x ∧ x ≤ 896 ∧ s.mark x = .outside) → before.map (readLink s.mem) = (before ++ [b]).tail →
      (before ++ [b]).head? = some (s.word 0x08).toNat → before.length ≤ 896 → b ≠ 0 →
      (896 < b ∧ code = 2) ∨ (b ≤ 896 ∧ before.length = 896 ∧ code = 3) ∨
        (b ≤ 896 ∧ before.length < 896 ∧ s.mark b ≠ .outside ∧ code = 4) →
      let t := s.spliceRefill
      t = { s with mem := t.mem, notice := s.notice ||| 0x10 } ∧ t.word 0x08 = 0 ∧
      t.word 0x0C = place code 0 4 ||| place before.length 4 12 ||| place b 16 16 ∧
      s.memoryKept t fun a => within 0x08 8 a) ∧
    ∀ first rest, (s.word 0x08).toNat = first →
      (first :: rest).Nodup → (∀ b ∈ first :: rest, 1 ≤ b ∧ b ≤ 896 ∧ s.mark b = .outside) →
      (first :: rest).map (readLink s.mem) = rest ++ [0] →
      let t := s.spliceRefill
      t.spare = s.spare ++ first :: rest ∧ (∀ b ∈ first :: rest, t.mark b = .spare) ∧
      (∀ b, b ∉ first :: rest → t.mark b = s.mark b) ∧
      t.word 0x08 = 0 ∧ t.word 0x0C = place 1 0 4 ||| place (rest.length + 1) 4 12 ∧
      t.notice = s.notice ||| 0x10 ∧
      field (t.word 0x14) 0 16 = (s.spare.length + rest.length + 1) % 65536 ∧
      (s.spare = [] → field (t.word 0x10) 0 16 = first) ∧
      t.ctl = s.ctl ∧ t.slots = s.slots ∧ t.queues = s.queues ∧ t.deadlines = s.deadlines ∧ t.stations = s.stations ∧
      t.stats = s.stats ∧ t.mailboxes = s.mailboxes ∧ t.stationNotice = s.stationNotice ∧
      (s.structured → s.spareJoined t (first :: rest) ∧
        (s.memoryKept t fun a => within 0x08 16 a ∨
          ∃ tail, s.spare.getLast? = some tail ∧ within (blockAddress tail) 2 a) ∧
        ∀ p, t.port p = (s.port p).goTested t.spare.length)) ∧
  ∀ (s : State) (g : Slot), s.wellFormed → s.structured →
    let blocks := (s.job g).resultChain
    let t := s.returnResults g
    (blocks = [] → t = s) ∧
    (blocks ≠ [] → s.spareJoined t blocks ∧ t.job g = { s.job g with resultChain := [] } ∧ s.slotsKept t [g] ∧
      (∀ p, t.port p = (s.port p).goTested t.spare.length) ∧
      t = { s with slots := t.slots, marks := t.marks, spare := t.spare, mem := t.mem, ports := t.ports } ∧
      s.memoryKept t fun a => within 0x10 8 a ∨
        ∃ b, (s.spare.getLast? = some b ∨ b ∈ blocks) ∧ within (blockAddress b) 2 a)

/-! ### Queues, rank, grants, ends -/

/-- A job joins its pool queue before the first entry that it precedes, by a longer wait or by the lower slot number at an
equal wait, and the queue-length mirror alone is written; a leaving entry leaves the others in their order, and the mirror is
written in the same way (R61 to R63, R79, R80). -/
def Obligations.QueueKeepsItsOrder : Prop :=
  ∀ (s : State) (g : Slot), s.wellFormed →
    let q := (s.job g).pool
    let waited (h : Slot) : Nat := (s.ctl.clock - (s.job h).acceptStamp).toNat
    let precedes (h : Slot) : Prop := waited h < waited g ∨ (waited h = waited g ∧ g < h)
    let t := s.joinQueue g
    (∃ before after, s.queue q = before ++ after ∧ t.queue q = before ++ g :: after ∧
      (∀ h ∈ before, ¬ precedes h) ∧ ∀ h, after.head? = some h → precedes h) ∧
    t = { s with queues := t.queues, mem := t.mem } ∧ (∀ r, r ≠ q → t.queue r = s.queue r) ∧
    t.queueShown q ∧ (s.leaveQueue g).queueShown q ∧ (s.memoryKept (s.leaveQueue g) fun a => a = poolAddress q + 3) ∧
    (s.memoryKept t fun a => a = poolAddress q + 3) ∧
    (s.leaveQueue g).queue q = (s.queue q).erase g ∧
    s.leaveQueue g = { s with queues := (s.leaveQueue g).queues, mem := (s.leaveQueue g).mem } ∧
    ∀ r, r ≠ q → (s.leaveQueue g).queue r = s.queue r

/-- The usage penalty min(63, floor(U / (w × 16))) with its bounds, and the rank B + 4 × u + bonus − penalty clamped into
1..255; the penalty is the station's, and two jobs of one station in one pool differ in rank only through urgency and bonus
(R70, R71). -/
def Obligations.RankIsTheClampedSum : Prop :=
  (∀ usage weight : Nat, 1 ≤ weight → weight ≤ 15 →
    16 ≤ weight * 16 ∧ weight * 16 ≤ 240 ∧
    usagePenalty usage weight = min 63 (usage / (weight * 16)) ∧
    (usage < weight * 16 → usagePenalty usage weight = 0) ∧
    (usagePenalty usage weight = 63 ↔ 1008 * weight ≤ usage)) ∧
  (∀ (s : State) (g : Slot),
    let st := stationOf g
    let base := max 1 (s.sample st).basePriority
    let penalty := usagePenalty (s.counters st).usage (s.sample st).shareWeight
    let sum : Int := base + 4 * (s.job g).urgency + s.bonusOf g - penalty
    1 ≤ s.rankOf g ∧ s.rankOf g ≤ 255 ∧ (sum < 1 → s.rankOf g = 1) ∧ (255 < sum → s.rankOf g = 255) ∧
    (1 ≤ sum → sum ≤ 255 → (s.rankOf g : Int) = sum) ∧
    (base ≤ 200 → (s.job g).urgency ≤ 3 → s.bonusOf g ≤ 63 → -62 ≤ sum ∧ sum ≤ 275)) ∧
  ∀ (s : State) (g h : Slot), stationOf g = stationOf h → (s.job g).pool = (s.job h).pool →
    (s.job g).urgency = (s.job h).urgency → s.bonusOf g = s.bonusOf h → s.rankOf g = s.rankOf h

/-- The aging bonus: 0 with aging off; the cap where the aged-out latch is set; else min(cap, floor(W / (A × 100))). The
computation sets the latch where it finds the bonus at the cap with aging on, and changes nothing else (R69). -/
def Obligations.AgingBonusIsCapped : Prop :=
  ∀ (s : State) (g : Slot),
    let step := (s.pool (s.job g).pool).agingStep
    let cap := (s.pool (s.job g).pool).agingCap
    let waited := (s.ctl.clock - (s.job g).acceptStamp).toNat
    (step = 0 → s.bonusOf g = 0 ∧ s.latchAged g = s) ∧
    (step ≠ 0 → (s.job g).agedOut = true → s.bonusOf g = cap) ∧
    (step ≠ 0 → (s.job g).agedOut = false → s.bonusOf g = min cap (waited / (step * 100))) ∧
    (step ≠ 0 → s.bonusOf g = cap → s.latchAged g = { s with
      slots := s.slots.set g.val { s.slot g with job := { s.job g with agedOut := true } } }) ∧
    (s.bonusOf g ≠ cap → s.latchAged g = s)

/-- The grant step's choices: the eligible job of the highest rank, nearest the head among equals; the lowest-numbered
member port that is FREE. The preemption step acts only with preempt enable set and for a candidate, the SERVING member port
of the lowest hold level among those of jobs of other stations, whose level is below the best job's rank; and where there is
one, it does act: a panel's hold is ended, a printer is asked to yield. Where the level is not below the rank, and where there
is no candidate, it does nothing. The outrank test of a port holds exactly where an eligible job in its pool's queue, of another
station than the serving job's, ranks above the hold level (R67, R72, R83 to R86, R88). -/
def Obligations.SchedulerChoosesByRankAndLevel : Prop :=
  (∀ (s : State) (q : Pool) (ranks : List (Slot × Nat)) (excluded : List Slot),
     let waits (g : Slot) : Prop := g ∈ s.queue q ∧ (s.sample (stationOf g)).state = .opened ∧ g ∉ excluded
     let open_ (p : Port) : Prop := (s.portConfig p).cls ≠ .none ∧ (s.portConfig p).pool = q ∧ (s.port p).state = .free
     (∀ g, s.bestWaiting q ranks excluded = some g → waits g ∧ ∀ h, waits h →
       rankIn ranks h ≤ rankIn ranks g ∧
       (rankIn ranks h = rankIn ranks g → (s.queue q).idxOf g ≤ (s.queue q).idxOf h)) ∧
     (s.bestWaiting q ranks excluded = none ↔ ∀ g, ¬ waits g) ∧
     (∀ p, s.freePort q = some p ↔ open_ p ∧ ∀ r, r < p → ¬ open_ r)) ∧
  (∀ (s : State) (q : Pool) (ranks : List (Slot × Nat)) (g : Slot) (p : Port),
     let candidate (r : Port) (h : Slot) : Prop := (s.portConfig r).cls ≠ .none ∧ (s.portConfig r).pool = q ∧
       (s.port r).state = .serving ∧ (s.port r).job = some h ∧ stationOf h ≠ stationOf g
     let chosen : Prop := (s.pool q).preempt = true ∧ (s.port p).holdLevel < rankIn ranks g ∧
       (∃ h, candidate p h) ∧ ∀ r h, candidate r h → (s.port r).holdLevel ≤ 255 → (s.port p).holdLevel ≤ 255 →
         (s.port p).holdLevel < (s.port r).holdLevel ∨ ((s.port p).holdLevel = (s.port r).holdLevel ∧ p ≤ r)
     (∀ h, s.preemption q ranks g = .endHold p h →
       chosen ∧ s.poolClass q = .panel ∧ (s.port p).job = some h) ∧
     (s.preemption q ranks g = .askYield p → chosen ∧ s.poolClass q = .printer) ∧
     ((s.pool q).preempt = false → s.preemption q ranks g = .nothing) ∧
     (∀ h, s.wellFormed → chosen → (s.port p).job = some h →
       (s.poolClass q = .panel → s.preemption q ranks g = .endHold p h) ∧
       (s.poolClass q = .printer → s.preemption q ranks g = .askYield p) ∧
       (s.poolClass q ≠ .panel → s.poolClass q ≠ .printer → s.preemption q ranks g = .nothing)) ∧
     ((∀ r h, candidate r h → rankIn ranks g ≤ (s.port r).holdLevel) → s.preemption q ranks g = .nothing)) ∧
  ∀ (s : State) (p : Port) (g : Slot), s.outranked p g = true ↔ ∃ h ∈ s.queue (s.portConfig p).pool,
    (s.sample (stationOf h)).state = .opened ∧ stationOf h ≠ stationOf g ∧ (s.port p).holdLevel < s.rankOf h

/-- A grant: slot and owner field SERVING, off queue and list, the grant stamp, port and first-grant stamp in the record, the
statistics of a first grant or a regrant, and the port SERVING the job at hold level max(rank, group ceiling); the mirrors of
the statistics that change, of the queue length and of the port written; then the service starts (R73, R74, R78 to R80, R113).
-/
def Obligations.GrantPairsJobAndPort : Prop :=
  ∀ (s : State) (g : Slot) (rank : Nat) (p : Port), s.wellFormed → ∃ u, s.grant g rank p = u.startService p g ∧
    (u.slot g).state = .serving ∧ u.word (slotAddress g) = 3 ∧
    u.job g = { s.job g with
      serviceGrant := some s.ctl.clock
      port := some p
      firstGrant := some ((s.job g).firstGrant.getD s.ctl.clock) } ∧
    u.deadlines = s.deadlines.erase g ∧
    (∀ q, u.queue q = if q = (s.job g).pool then (s.queue q).erase g else s.queue q) ∧
    u.port p = { s.port p with
      state := .serving
      job := some g
      holdLevel := max rank (s.sample (stationOf g)).groupCeiling
      yieldPending := false
      grantNumber := (s.port p).grantNumber + 1 } ∧
    (let x := s.poolStats (s.job g).pool;
      let wait := (s.ctl.clock - (s.job g).acceptStamp).toNat
      u.poolStats (s.job g).pool =
        if (s.job g).firstGrant = none then { x with
          granted := min 4294967295 (x.granted + 1)
          waitTotal := min 4294967295 (x.waitTotal + wait)
          waitMax := max x.waitMax wait }
        else { x with regrants := min 4294967295 (x.regrants + 1) }) ∧
    s.statsShown u (s.job g).pool ∧ u.queueShown (s.job g).pool ∧ u.portShown p ∧
    (∀ q, q ≠ (s.job g).pool → u.poolStats q = s.poolStats q) ∧
    s.portsKept u [p] ∧ s.slotsKept u [g] ∧ u.ctl = s.ctl ∧ u.stations = s.stations ∧ u.marks = s.marks ∧
    u.spare = s.spare ∧ u.mailboxes = s.mailboxes ∧ u.notice = s.notice ∧ u.stationNotice = s.stationNotice ∧
    s.memoryKept u fun a => within (slotAddress g) 4 a ∨ poolMirrors (s.job g).pool a ∨ portMirror p a

/-- A service starts by the port's class: a scanner offers OPEN-SCAN at the smaller of the job's resolution and the port's
capability, flagging a lowering; a panel starts the hold timer with the remaining time and lifts its ZONE entries, each by a
synthetic UP to its record; a printer begins the sheet of the resume point at the entry after the one that ends the sheet
before it, at the first entry for sheet 1, and offers a FEED of its first block, or is STALLED where the printer is BUSY.
Blocks of length 0 are passed over without a FEED, and a sheet of such blocks alone ends at once without a count: the next
sheet begins in the same event, and after the last one the job is finished DONE and the port is FREE again (R126, R127, R132,
R151, R174, R176). -/
def Obligations.ServiceStartsByClass : Prop :=
  ∀ (s : State) (p : Port) (g : Slot),
    let x := s.port p
    let t := s.startService p g
    let offered (f : AnswerFrame) : Transmitter := offer { frame := f, owner := .service x.grantNumber } x.transmitter
    ((s.portConfig p).cls = .scanner →
      t.port p = { x with
        scan := { phase := .opening, resolution := min (s.job g).resolution x.capability }
        transmitter := offered (.openScan (BitVec.ofNat 8 (s.job g).mode)
          (BitVec.ofNat 8 (min (s.job g).resolution x.capability))) } ∧
      (x.capability < (s.job g).resolution → (t.job g).clamps.resolution = true) ∧
      ((s.job g).resolution ≤ x.capability → t.job g = s.job g) ∧
      s.portsKept t [p] ∧ s.slotsKept t [g] ∧ (t.slot g).state = (s.slot g).state ∧ t.mem = s.mem ∧ t.marks = s.marks) ∧
    ((s.portConfig p).cls = .panel →
      (t.port p).hold = { phase := .holding, timer := some (s.ctl.clock + BitVec.ofNat 32 (s.job g).holdRemaining) } ∧
      (∀ i, t.contact p i = match s.contact p i with | .zone _ => .orphan | c => c) ∧
      (s.wellFormed → s.liftsWritten t [p] Contact.zoned) ∧
      s.portsKept t [p] ∧ t.slots = s.slots ∧ t.queues = s.queues ∧ t.marks = s.marks) ∧
    (∀ front skip e rest, (s.portConfig p).cls = .printer → (s.job g).chain = front ++ skip ++ e :: rest →
      (front = [] ∧ (s.job g).resumeSheet = 1) ∨ (front.getLast?.map ChainEntry.sheetEnd = some true ∧
        (front.filter ChainEntry.sheetEnd).length + 1 = (s.job g).resumeSheet) →
      (∀ f ∈ skip, f.sheetEnd = false ∧ readLength s.mem f.block = 0) → readLength s.mem e.block ≠ 0 →
      let timer : Timer := some (s.ctl.clock + BitVec.ofNat 32 ((s.portConfig p).sheetTimeout * 1000))
      let place := front.length + skip.length
      (x.condition ≠ .busy → t = s.setPort p { x with
        print := {
          phase := .feeding, copy := (s.job g).resumeCopy, sheet := (s.job g).resumeSheet, entry := place, fed := true
          sheetTimer := timer }
        transmitter := offered (.feed (readData s.mem e.block (readLength s.mem e.block))) }) ∧
      (x.condition = .busy → t = s.setPort p { x with
        print := {
          phase := .stalled, copy := (s.job g).resumeCopy, sheet := (s.job g).resumeSheet, entry := place, busy := true
          sheetTimer := timer } })) ∧
    ∀ e rest, (s.portConfig p).cls = .printer → (s.job g).resumeSheet = 1 → (s.job g).chain = e :: rest →
      readLength s.mem e.block = 0 → x.condition ≠ .busy →
      let timer : Timer := some (s.ctl.clock + BitVec.ofNat 32 ((s.portConfig p).sheetTimeout * 1000))
      (∀ f, rest.head? = some f → readLength s.mem f.block ≠ 0 →
        (e.sheetEnd = false ∨ (x.yieldPending = false ∧ (s.job g).cancelLatch = false ∧ (s.job g).closeLatch = false ∧
          s.ctl.engine = .running ∧ 1 < sheetsPerCopy (s.job g).chain)) →
        t = s.setPort p { x with
          print := {
            phase := .feeding, copy := (s.job g).resumeCopy, sheet := if e.sheetEnd = true then 2 else 1, entry := 1
            fed := true, sheetTimer := timer }
          transmitter := offered (.feed (readData s.mem f.block (readLength s.mem f.block))) }) ∧
      (s.wellFormed → e.sheetEnd = true → rest = [] → (s.job g).copies ≤ (s.job g).resumeCopy → s.ctl.engine = .running →
        (s.job g).cancelLatch = false → (s.job g).closeLatch = false → (s.job g).cls = some .print →
        t.hasResult g .done .none ∧ t.job g = s.job g ∧ t.port p = x.ended ∧ t.portShown p ∧
          s.portsKept t [p] ∧ s.slotsKept t [g] ∧ t.queues = s.queues ∧ t.ctl = s.ctl)

/-- Reviews grant in RUNNING only: in DRAINING a review changes nothing but aged-out latches, in the other states nothing at
all. In RUNNING, in a part whose records agree and whose pool has members of one class, a review ends with no FREE member port
or with no eligible job in its queue (R20, R65, R66). -/
def Obligations.ReviewsGrantInRunningOnly : Prop :=
  (∀ (s : State) (q : Pool),
    (s.ctl.engine = .draining →
      s.review q = { s with slots := (s.review q).slots } ∧
      ∀ g, ((s.review q).slot g).state = (s.slot g).state ∧
        (s.review q).job g = { s.job g with agedOut := ((s.review q).job g).agedOut }) ∧
    (s.ctl.engine = .wiping ∨ s.ctl.engine = .stopped ∨ s.ctl.engine = .starting → s.review q = s)) ∧
  ∀ (s : State) (q : Pool), s.structured → s.ctl.engine = .running →
    let member (p : Port) : Prop := (s.portConfig p).cls ≠ .none ∧ (s.portConfig p).pool = q
    (∀ p r, member p → member r → (s.portConfig p).cls = (s.portConfig r).cls) →
    (∀ p, member p → ((s.review q).port p).state ≠ .free) ∨
      ∀ g ∈ (s.review q).queue q, (s.sample (stationOf g)).state ≠ .opened

/-- A preempted hold goes back to its queue, at the place of its accept stamp and not to the deadline list, with the time its
timer had left, at least 1 ms: slot and owner field QUEUED, interruption count and preemptions raised, the station charged,
each with its mirror, the panel's HOLD entries ORPHAN, each lifted by a synthetic UP to its record, the port FREE (R62, R77,
R79, R80, R85, R90, R174, R179). -/
def Obligations.PreemptedHoldIsRequeued : Prop :=
  ∀ (s : State) (p : Port) (g : Slot) (e grant : Stamp), s.wellFormed → (s.port p).hold.timer = some e →
    (s.job g).serviceGrant = some grant →
    let t := s.holdPreempted p g
    (t.slot g).state = .queued ∧ t.word (slotAddress g) = 2 ∧
    (t.job g).holdRemaining = max 1 (e - s.ctl.clock).toNat ∧
    (t.job g).interruptions = min 255 ((s.job g).interruptions + 1) ∧ (t.job g).faults = (s.job g).faults ∧
    (t.job g).firstGrant = (s.job g).firstGrant ∧ (t.job g).contactsDelivered = (s.job g).contactsDelivered ∧
    (t.poolStats (s.job g).pool).preemptions = min 4294967295 ((s.poolStats (s.job g).pool).preemptions + 1) ∧
    (t.counters (stationOf g)).usage =
      min 65535 ((s.counters (stationOf g)).usage + (s.ctl.clock - grant).toNat / 100) ∧
    (t.counters (stationOf g)).jobsFinished = (s.counters (stationOf g)).jobsFinished ∧
    s.joinedQueue t (s.job g).pool g ∧
    s.statsShown t (s.job g).pool ∧ t.queueShown (s.job g).pool ∧ t.scoresShown (stationOf g) ∧
    t.port p = { (s.port p).ended with contacts := (t.port p).contacts } ∧ t.portShown p ∧
    (∀ i, t.contact p i = match s.contact p i with | .hold _ => .orphan | c => c) ∧ s.liftsWritten t [p] Contact.held ∧
    s.portsKept t [p] ∧ s.slotsKept t [g] ∧ t.deadlines = s.deadlines ∧ t.marks = s.marks ∧ t.spare = s.spare ∧
    t.ctl = s.ctl ∧ t.notice = s.notice

/-- The finish of an accepted job: every result of the job and of its class in the slot with the flags of how far it came,
owner field and shadow FINISHED, the jobs-finished count with its mirror and the station's bit, the charge of a service that
it ends with the score's mirror, both also where the value stands, the loans of a print given back; no
other byte and no other record changes (R141, R182 to R186, R77). -/
def Obligations.FinishWritesTheResults : Prop :=
  ∀ (s : State) (g : Slot) (o : JobOutcome) (d : Detail) (reported : Option Word), s.wellFormed →
    let j := s.job g
    let granted := j.firstGrant.isSome
    let t := s.finish g o d reported
    let a := slotAddress g
    let c := s.counters (stationOf g)
    t.hasResult g o d ∧ t.job g = j ∧ field (t.word (a + 0x18)) 16 5 = clampBits j.clamps ∧
    field (t.word (a + 0x18)) 24 7 = 1 + (if granted then 6 + (match j.cls with
      | some .print => 8
      | some .scan => 16 + if reported.isSome then 32 else 0
      | some .hold => 64
      | none => 0) else 0) ∧
    t.word (a + 0x20) = j.firstGrant.getD 0 ∧
    field (t.word (a + 0x24)) 0 8 = (if granted then (match j.port with | some p => p.val | none => 0) else 0) ∧
    field (t.word (a + 0x24)) 8 8 = j.interruptions ∧ field (t.word (a + 0x24)) 16 8 = j.faults ∧
    (j.cls = some .print → t.word (a + 0x28) = if granted then BitVec.ofNat 32 j.sheetsDone else 0) ∧
    (j.cls = some .hold → t.word (a + 0x28) = if granted then BitVec.ofNat 32 j.contactsDelivered else 0) ∧
    (j.cls = some .scan → t.word (a + 0x28) = (if granted then BitVec.ofNat 32 (s.storedBytes g) else 0) ∧
      t.word (a + 0x2C) = (if granted then place (j.resultChain.headD 0) 0 16 ||| place j.resultChain.length 16 16
        else 0) ∧
      t.word (a + 0x30) = if granted then reported.getD 0 else 0) ∧
    t.counters (stationOf g) = { c with
      jobsFinished := min 65535 (c.jobsFinished + 1)
      usage := if (s.slot g).state = .serving then min 65535 (c.usage + s.busyTime g / 100) else c.usage } ∧
    t.talliesShown (stationOf g) ∧ ((s.slot g).state = .serving → t.scoresShown (stationOf g)) ∧
    (j.cls ≠ some .print → t.marks = s.marks) ∧
    (j.cls = some .print → ∀ b n, s.mark b = .loaned n → 1 ≤ n → (j.chain.map ChainEntry.block).count b ≤ n →
      t.mark b = if n = (j.chain.map ChainEntry.block).count b then .outside
        else .loaned (n - (j.chain.map ChainEntry.block).count b)) ∧
    s.slotsKept t [g] ∧ s.stationsKept t [stationOf g] ∧
    (s.memoryKept t fun b => finishBytes g b ∨ stationMirrors (stationOf g) b) ∧
    t.stationNotice = s.stationNotice ||| stationMask (stationOf g) ∧ t.ctl = s.ctl ∧ t.notice = s.notice ∧
    t.queues = s.queues ∧ t.deadlines = s.deadlines ∧ t.stats = s.stats ∧ t.ports = s.ports ∧ t.spare = s.spare ∧
    t.mailboxes = s.mailboxes ∧ t.free = s.free ∧ t.pending = s.pending

/-! ### The clock and the timers -/

/-- A hall tick raises the clock by 1 modulo 2^32, and where no deadline and no timer is reached it changes nothing else
(the expiries of the new value are commands of their own, log entry 1). A target is reached exactly where the clock has run
to it or past it, also across the wrap, and the interval of two stamps is the time between them (R48 to R51). -/
def Obligations.HallTickRaisesTheClock : Prop :=
  (∀ s : State,
     (∃ t, exec .hallTick s = .next t ∧ t.ctl.clock = s.ctl.clock + 1) ∧
     ((∀ g e, s.deadlines.head? = some g → (s.job g).expiry = some e → reached s.ctl.clock e = false) →
       timerReached s.ctl.clock s.ctl.sweepTimer = false → timerReached s.ctl.clock s.ctl.decayTimer = false →
       (∀ p, timerReached s.ctl.clock (s.port p).transmitter.responseTimer = false ∧
         timerReached s.ctl.clock (s.port p).probeTimer = false ∧
         timerReached s.ctl.clock (s.port p).print.sheetTimer = false ∧
         timerReached s.ctl.clock (s.port p).scan.starveTimer = false ∧
         timerReached s.ctl.clock (s.port p).hold.timer = false) →
       exec .hallTick s = .next { s with ctl := { s.ctl with clock := s.ctl.clock + 1 } })) ∧
  (∀ (start : Stamp) (period elapsed : Nat), period < 2 ^ 31 → elapsed < 2 ^ 31 →
     (reached (start + BitVec.ofNat 32 elapsed) (start + BitVec.ofNat 32 period) = true ↔ period ≤ elapsed) ∧
     interval (start + BitVec.ofNat 32 elapsed) start = elapsed)

/-- The expiry of the head of the deadline list: the job leaves list and queue and is finished EXPIRED NOT_GRANTED, its pool's
expiries rise with their mirror, nothing is charged, no pool is reviewed, and no port changes. A head that is not reached does
not expire, nor does an empty list (R55, R56, R79, R80, R182). -/
def Obligations.DeadlineExpiryFinishesTheJob : Prop :=
  ∀ (s : State), s.wellFormed →
    (∀ g rest e, s.ctl.engine = .running ∨ s.ctl.engine = .draining → s.deadlines = g :: rest →
      (s.job g).expiry = some e →
      (reached s.ctl.clock e = true → (s.slot g).state = .queued → ∃ t, exec .deadlineExpiry s = .next t ∧
        t.hasResult g .expired .notGranted ∧ t.deadlines = rest ∧
        (∀ q, t.queue q = if q = (s.job g).pool then (s.queue q).erase g else s.queue q) ∧
        (let x := s.poolStats (s.job g).pool;
          t.poolStats (s.job g).pool = { x with expiries := min 4294967295 (x.expiries + 1) }) ∧
        (∀ q, q ≠ (s.job g).pool → t.poolStats q = s.poolStats q) ∧
        (let c := s.counters (stationOf g);
          t.counters (stationOf g) = { c with jobsFinished := min 65535 (c.jobsFinished + 1), usage := c.usage }) ∧
        s.statsShown t (s.job g).pool ∧ t.queueShown (s.job g).pool ∧ t.talliesShown (stationOf g) ∧
        s.stationsKept t [stationOf g] ∧ s.slotsKept t [g] ∧ t.ports = s.ports ∧ t.spare = s.spare ∧
        t.mailboxes = s.mailboxes ∧ t.notice = s.notice ∧
        t.ctl = { s.ctl with messagesSent := t.ctl.messagesSent } ∧
        s.memoryKept t fun a => finishBytes g a ∨ stationMirrors (stationOf g) a ∨ poolMirrors (s.job g).pool a) ∧
      (reached s.ctl.clock e = false → exec .deadlineExpiry s = .next s)) ∧
    (s.deadlines = [] → exec .deadlineExpiry s = .next s)

/-- The decay timer's expiry: every usage score is halved, rounding down, and the mirror of each that changes is written; the
timer starts again from this clock value with the same period, and then every pool is reviewed. A timer that is stopped or not
reached does not expire (R58, R59, R76). -/
def Obligations.DecayHalvesTheScores : Prop :=
  ∀ s : State, s.wellFormed →
    (∀ e, s.ctl.engine = .running ∨ s.ctl.engine = .draining → s.ctl.decayTimer = some e →
      reached s.ctl.clock e = true → ∃ u, exec .decayTimerExpiry s = .next (settleInterrupt s u.reviewAll) ∧
        (∀ st, u.counters st = { s.counters st with usage := (s.counters st).usage / 2 }) ∧
        (∀ st, 1 ≤ (s.counters st).usage →
          field (u.word (stationAddress st + 0x0C)) 0 16 = (s.counters st).usage / 2) ∧
        (s.memoryKept u fun a => ∃ st, 1 ≤ (s.counters st).usage ∧ within (stationAddress st + 0x0C) 4 a) ∧
        u = { s with
          ctl := { s.ctl with
            decayTimer := some (s.ctl.clock + BitVec.ofNat 32 (s.ctl.work.decayPeriod * 1000)) }
          stations := u.stations
          mem := u.mem }) ∧
    (s.ctl.decayTimer = none → exec .decayTimerExpiry s = .next s) ∧
    ∀ e, s.ctl.decayTimer = some e → reached s.ctl.clock e = false → exec .decayTimerExpiry s = .next s

/-- The check character of the frame on the line has been sent, and with it a character that was cut off before that frame: an
answer-expecting frame awaits its answer with the response timer started; the oldest reply, if any, is sent next and leaves the
list then (log entry 9), else an outstanding frame that awaits a send, else nothing. An idle transmitter has sent nothing. The
probe timer's expiry at a FAULTED port restarts it with the same period, and ASK is offered where no frame is outstanding; at a
port that is not FAULTED, or with the timer not reached, nothing happens (R106, R107, R119; log entry 2 for a FRAME_SENT and an
expiry that are none). A port that gives up its frames keeps one character of what its line carries, where a frame was being
sent, and has that alone left to send (R111; which one is a free value, log entry 9); at the entry to STOPPED every port does,
and goes OFFLINE. A line carries its characters in order, eleven bit-times each: a low start bit, the data bits least
significant first, the mark bit, which only a frame's header has set, and a high stop bit; it rests high (R97). -/
def Obligations.TransmitterSendsAndProbes : Prop :=
  (∀ (s : State) (p : Port),
     let x := s.port p
     let timer : Timer := some (s.ctl.clock + BitVec.ofNat 32 ((s.portConfig p).probeInterval * 1000))
     (timerReached s.ctl.clock x.probeTimer = true → x.state = .faulted →
       (x.transmitter.outstanding = none → exec (.probeTimerExpiry p) s = .next (s.setPort p { x with
         probeTimer := timer
         transmitter := offer { frame := .ask, owner := .probe } x.transmitter })) ∧
       (x.transmitter.outstanding = none → x.transmitter.sending = .idle → x.transmitter.replies = [] →
         exec (.probeTimerExpiry p) s = .next (s.setPort p { x with
           probeTimer := timer
           transmitter := { x.transmitter with
             sending := .outstanding
             outstanding := some { offered := { frame := .ask, owner := .probe }, sends := 1, phase := .beingSent } } })) ∧
       (x.transmitter.outstanding ≠ none →
         exec (.probeTimerExpiry p) s = .next (s.setPort p { x with probeTimer := timer }))) ∧
     (timerReached s.ctl.clock x.probeTimer = false ∨ x.state ≠ .faulted → exec (.probeTimerExpiry p) s = .next s)) ∧
  (∀ (s : State) (p : Port),
     let x := s.port p
     let next (replies : List ReplyKind) : Sending := match replies with | k :: _ => .reply k | [] => .idle
     let noAnswerDue : Prop := (∃ k, x.transmitter.sending = .reply k) ∨ ∃ f, x.transmitter.sending = .withdrawn f
     let sent : CutFrame := { x.cut with character := none }
     (x.transmitter.sending = .idle → exec (.frameSent p) s = .next s) ∧
     (∀ o, x.transmitter.sending = .outstanding → x.transmitter.outstanding = some o →
       exec (.frameSent p) s = .next (s.setPort p { x with
         cut := sent
         transmitter := { x.transmitter with
           sending := next x.transmitter.replies
           replies := x.transmitter.replies.tail
           outstanding := some { o with phase := .awaitingAnswer }
           responseTimer := some (s.ctl.clock + BitVec.ofNat 32 (s.portConfig p).responseTimeout) } })) ∧
     (∀ o, noAnswerDue → x.transmitter.replies = [] → x.transmitter.outstanding = some o →
       o.phase = .awaitingSend → exec (.frameSent p) s = .next (s.setPort p { x with
         cut := sent
         transmitter := { x.transmitter with
           sending := .outstanding
           outstanding := some { o with phase := .beingSent } } })) ∧
     (noAnswerDue → x.transmitter.replies = [] →
       (∀ o, x.transmitter.outstanding = some o → o.phase ≠ .awaitingSend) →
       exec (.frameSent p) s = .next (s.setPort p { x with
         cut := sent
         transmitter := { x.transmitter with sending := .idle } })) ∧
     (∀ r rest, noAnswerDue → x.transmitter.replies = r :: rest →
       exec (.frameSent p) s = .next (s.setPort p { x with
         cut := sent
         transmitter := { x.transmitter with sending := .reply r, replies := rest } }))) ∧
  (∀ (p : Port) (x : PortRecord),
     let y := giveUpFrames p x
     y = { x with transmitter := {}, cut := y.cut } ∧ (wireCharacters x.transmitter = [] → y.cut = x.cut) ∧
     (wireCharacters x.transmitter ≠ [] → ∃ c ∈ x.output, y.cut.character = some c ∧ y.output = [c]) ∧
     x.output = x.cut.character.toList ++ wireCharacters x.transmitter) ∧
  (∀ (s : State) (p : Port), s.enterStopped.port p =
     { giveUpFrames p (s.port p) with state := .offline, probeTimer := none }) ∧
  (∀ (kind : Byte) (payload : List Byte),
     (frameCharacters kind payload).map Prod.fst =
       kind :: BitVec.ofNat 8 payload.length :: payload ++ [checkOf kind payload] ∧
     (frameCharacters kind payload).map Prod.snd = true :: List.replicate (payload.length + 2) false) ∧
  ∀ x : PortRecord,
    (∀ i c, x.output[i]? = some c →
      x.level (11 * i) = false ∧ (∀ k, k < 8 → x.level (11 * i + 1 + k) = c.1.getLsbD k) ∧
      x.level (11 * i + 9) = c.2 ∧ x.level (11 * i + 10) = true) ∧
    ∀ time, 11 * x.output.length ≤ time → x.level time = true

/-- A NAK, or the response timer's expiry, ends a send without success. Before the third send the frame goes back to awaiting
a send with its count raised and the port's resend count raised, whose mirror is written where it changes; at the third the
frame is abandoned, and a PROBING or FREE port becomes FAULTED with LINE_REFUSED or LINE_SILENT, its captured contacts lifted
to ORPHAN, each by a synthetic UP to its record, a FAULTED one takes it as its last condition, whose mirror is written where
it changes. After a NAK the receiver is HUNTING; at the expiry it stays as it is (R102, R109, R112, R113, R116, R117, R119,
R120, R174). -/
def Obligations.UnansweredSendsFailAtTheThird : Prop :=
  ∀ (s : State) (p : Port) (o : Outstanding) (c : Instr) (condition : Condition), s.wellFormed →
    let x := s.port p
    x.transmitter.outstanding = some o → o.phase = .awaitingAnswer → x.state ≠ .offline →
    (c = .nakFrame p ∧ condition = .lineRefused) ∨
      (c = .responseTimerExpiry p ∧ condition = .lineSilent ∧
        timerReached s.ctl.clock x.transmitter.responseTimer = true) →
    (o.sends < 3 → ∃ t, exec c s = .next t ∧
      t.port p = { x.heard (s.portConfig p).cls c with
        counters := { x.counters with resend := min 4294967295 (x.counters.resend + 1) }
        transmitter := chooseNext { x.transmitter with
          outstanding := some { o with sends := o.sends + 1, phase := .awaitingSend }
          responseTimer := none } } ∧
      (x.counters.resend < 4294967295 → t.word (portAddress p + 0x18) = BitVec.ofNat 32 (x.counters.resend + 1)) ∧
      (x.counters.resend = 4294967295 → t.mem = s.mem) ∧
      s.portsKept t [p] ∧ (s.memoryKept t fun a => within (portAddress p + 0x18) 4 a) ∧
      t = { s with ports := t.ports, mem := t.mem }) ∧
    (3 ≤ o.sends → x.state = .probing ∨ x.state = .free → ∃ t, exec c s = .next t ∧
      t.port p = { (x.heard (s.portConfig p).cls c).down condition
          (some (s.ctl.clock + BitVec.ofNat 32 ((s.portConfig p).probeInterval * 1000))) with
        contacts := (t.port p).contacts
        cut := (t.port p).cut } ∧
      t.notice = s.notice ||| 0x20 ∧ t.portShown p ∧
      (∀ i, t.contact p i = match s.contact p i with | .zone _ => .orphan | .hold _ => .orphan | k => k) ∧
      s.liftsWritten t [p] Contact.captured ∧
      s.portsKept t [p] ∧ t.slots = s.slots ∧ t.queues = s.queues ∧ t.deadlines = s.deadlines ∧
      t.stats = s.stats ∧ t.marks = s.marks ∧ t.spare = s.spare ∧
      t.ctl = { s.ctl with messagesSent := t.ctl.messagesSent }) ∧
    (3 ≤ o.sends → x.state = .faulted → ∃ t, exec c s = .next t ∧
      t.port p = { x.heard (s.portConfig p).cls c with
        condition := condition
        transmitter := { x.transmitter with outstanding := none, responseTimer := none } } ∧
      t.notice = s.notice ∧ s.portsKept t [p] ∧ (x.condition = condition → t.mem = s.mem) ∧
      (x.condition ≠ condition → field (t.word (portAddress p + 0x08)) 8 8 = conditionCode condition) ∧
      s.memoryKept t fun a => portMirror p a)

/-- The starve timer's expiry at a STARVED scan: CLOSE-SCAN is offered, the job is finished DONE_SHORT STARVED. An IMAGE-END
at a scan that takes it: ACK is placed, the job is finished DONE where the count is the bytes stored and DONE_SHORT
COUNT_MISMATCH otherwise, with the count reported. Either way the port is FREE with its service IDLE, and its pool is
reviewed. A timer that is not reached does not expire; elsewhere the IMAGE-END is discarded. A STATE of a fault condition, and
a third send without answer, end a scan by fault: its blocks join the spare tail in their order, its record is emptied, the GO
test is made, and the job is QUEUED again at the place of its accept stamp with its fault count raised; at the third fault it
is finished FAILED PORT_FAULTS with its blocks attached. The port is FAULTED, and PORT_DOWN is set. The mirrors of the
statistic, the queue length, the score and the port are written (R62, R77, R80, R91, R92, R105, R113, R118, R120, R144, R155,
R156, R159, R160). -/
def Obligations.ScanEndsByItsCause : Prop :=
  (∀ (s : State) (p : Port), s.wellFormed →
     let x := s.port p
     (∀ g, timerReached s.ctl.clock x.scan.starveTimer = true → x.scan.phase = .starved → x.state = .serving →
       (s.portConfig p).cls = .scanner → x.job = some g → (s.job g).cls = some .scan →
       ∃ u, exec (.starveTimerExpiry p) s = .next (closeEvent s (u.review (s.portConfig p).pool)) ∧
         u.hasResult g .doneShort .starved ∧
         u.port p = { x.ended with
           transmitter := offer { frame := .closeScan, owner := .service x.grantNumber } x.transmitter } ∧ u.portShown p ∧
         (u.job g).resultChain = (s.job g).resultChain ∧ u.marks = s.marks ∧ u.spare = s.spare ∧
         s.portsKept u [p] ∧ s.slotsKept u [g] ∧ s.stationsKept u [stationOf g] ∧ u.queues = s.queues ∧
         u.deadlines = s.deadlines ∧ u.stats = s.stats ∧ u.ctl = s.ctl ∧ u.notice = s.notice ∧
         s.memoryKept u fun a => finishBytes g a ∨ stationMirrors (stationOf g) a ∨ portMirror p a) ∧
     (timerReached s.ctl.clock x.scan.starveTimer = false → exec (.starveTimerExpiry p) s = .next s)) ∧
  (∀ (s : State) (p : Port) (total : Word), s.wellFormed → (s.port p).state ≠ .offline →
     let x := s.port p
     let run := exec (.imageEndFrame p total) s
     let taking : Prop := x.scan.phase = .taking ∨ x.scan.phase = .starved
     (x.state ≠ .serving ∨ (s.portConfig p).cls ≠ .scanner ∨ ¬ taking →
       run = .next (s.setPort p { x with receiver := .hunting })) ∧
     ∀ g o d, x.state = .serving → (s.portConfig p).cls = .scanner → x.job = some g → taking →
       (s.job g).cls = some .scan → (s.job g).firstGrant ≠ none → (s.job g).port = some p → (s.slot g).state = .serving →
       (total.toNat = x.scan.stored ∧ o = .done ∧ d = .none) ∨
         (total.toNat ≠ x.scan.stored ∧ o = .doneShort ∧ d = .countMismatch) →
       ∃ u, run = .next (closeEvent s (u.review (s.portConfig p).pool)) ∧ u.hasResult g o d ∧
         u.word (slotAddress g + 0x28) = BitVec.ofNat 32 x.scan.stored ∧ u.word (slotAddress g + 0x30) = total ∧
         field (u.word (slotAddress g + 0x2C)) 0 16 = (s.job g).resultChain.headD 0 % 65536 ∧
         field (u.word (slotAddress g + 0x2C)) 16 16 = (s.job g).resultChain.length % 65536 ∧
         u.port p = { x.ended with receiver := .hunting, transmitter := placeReply .ack x.transmitter } ∧ u.portShown p ∧
         s.portsKept u [p] ∧ s.slotsKept u [g] ∧ u.marks = s.marks ∧ u.spare = s.spare ∧ u.queues = s.queues ∧
         u.deadlines = s.deadlines ∧ u.stats = s.stats ∧ u.ctl = s.ctl ∧ u.notice = s.notice) ∧
  ∀ (s : State) (p : Port) (g : Slot) (c : Instr) (condition : Condition) (code capability : Byte), s.wellFormed → s.structured →
    let x := s.port p
    s.ctl.engine = .running → (s.portConfig p).cls = .scanner → x.job = some g → (s.job g).cls = some .scan →
    (c = .stateFrame p code capability ∧
        ((code = 4 ∧ condition = .jam) ∨ (code = 5 ∧ condition = .coverOpen) ∨ (code = 6 ∧ condition = .lampFail))) ∨
      (∃ o, x.transmitter.outstanding = some o ∧ 3 ≤ o.sends ∧ o.phase = .awaitingAnswer ∧
        ((c = .nakFrame p ∧ condition = .lineRefused) ∨ (c = .responseTimerExpiry p ∧ condition = .lineSilent ∧
          timerReached s.ctl.clock x.transmitter.responseTimer = true))) →
    let probe : Timer := some (s.ctl.clock + BitVec.ofNat 32 ((s.portConfig p).probeInterval * 1000))
    let downed (t : State) : Prop := t.portShown p ∧
      t.port p = { (x.heard (s.portConfig p).cls c).down condition probe with
        contacts := x.contacts.map fun k => match k with | .zone _ => .orphan | .hold _ => .orphan | k => k
        cut := (t.port p).cut }
    ((s.job g).faults < 2 → ∃ u, exec c s = .next (settleInterrupt s (u.review (s.job g).pool)) ∧
      (u.slot g).state = .queued ∧ u.word (slotAddress g) = 2 ∧
      u.job g = { s.job g with faults := (s.job g).faults + 1, resultChain := [] } ∧
      u.spare = s.spare ++ (s.job g).resultChain ∧
      (∀ b, u.mark b = if b ∈ (s.job g).resultChain then .spare else s.mark b) ∧
      s.joinedQueue u (s.job g).pool g ∧
      (u.poolStats (s.job g).pool).faultRequeues = min 4294967295 ((s.poolStats (s.job g).pool).faultRequeues + 1) ∧
      s.statsShown u (s.job g).pool ∧ u.queueShown (s.job g).pool ∧ u.scoresShown (stationOf g) ∧
      downed u ∧ u.notice = s.notice ||| 0x20 ∧
      (∀ r, r ≠ p → u.port r =
        if (s.job g).resultChain = [] then s.port r else (s.port r).goTested u.spare.length) ∧
      s.slotsKept u [g] ∧ s.stationsKept u [stationOf g] ∧ u.deadlines = s.deadlines ∧ u.ctl = s.ctl) ∧
    (2 ≤ (s.job g).faults → ∃ t, exec c s = .next t ∧ t.hasResult g .failed .portFaults ∧ t.job g = s.job g ∧
      downed t ∧ t.notice = s.notice ||| 0x20 ∧ t.queues = s.queues ∧ t.stats = s.stats ∧
      s.portsKept t [p] ∧ s.slotsKept t [g] ∧ t.spare = s.spare ∧ t.marks = s.marks)

/-- The hold timer's expiry while HOLDING: the remaining time is 0, the panel's HOLD entries become ORPHAN, each lifted by a
synthetic UP to its record, the job is finished DONE, the port is FREE, and its pool is reviewed. A timer that is not reached
does not expire. A STATE PANEL_FAULT, and a third send without answer, end a hold by fault: its ZONE and HOLD entries become
ORPHAN in the same way, and the job is QUEUED again, at the place of its accept stamp, with the time its timer had left, at
least 1 ms, and its fault count raised; at the third fault it is finished FAILED PORT_FAULTS. The port is FAULTED, and
PORT_DOWN is set. The mirrors of the statistic, the queue length, the score and the port are written (R62, R77, R80, R91, R92,
R113, R118, R120, R174, R177, R179). -/
def Obligations.HoldEndsInFull : Prop :=
  (∀ (s : State) (p : Port), s.wellFormed →
    let x := s.port p
    (∀ g, timerReached s.ctl.clock x.hold.timer = true → x.hold.phase = .holding → x.state = .serving →
      (s.portConfig p).cls = .panel → x.job = some g → (s.job g).cls = some .hold →
      ∃ u, exec (.holdTimerExpiry p) s = .next (closeEvent s (u.review (s.portConfig p).pool)) ∧
        u.hasResult g .done .none ∧ u.port p = { x.ended with contacts := (u.port p).contacts } ∧ u.portShown p ∧
        u.talliesShown (stationOf g) ∧ u.scoresShown (stationOf g) ∧ (u.job g).holdRemaining = 0 ∧
        (∀ i, u.contact p i = match s.contact p i with | .hold _ => .orphan | c => c) ∧ s.liftsWritten u [p] Contact.held ∧
        s.portsKept u [p] ∧ s.slotsKept u [g] ∧ s.stationsKept u [stationOf g] ∧ u.queues = s.queues ∧
        u.deadlines = s.deadlines ∧ u.stats = s.stats ∧ u.marks = s.marks ∧ u.spare = s.spare ∧ u.ctl = s.ctl ∧
        u.notice = s.notice) ∧
    (timerReached s.ctl.clock x.hold.timer = false → exec (.holdTimerExpiry p) s = .next s)) ∧
  ∀ (s : State) (p : Port) (g : Slot) (e : Stamp) (c : Instr) (condition : Condition) (code capability : Byte), s.wellFormed →
    let x := s.port p
    s.ctl.engine = .running → x.state = .serving → (s.portConfig p).cls = .panel → x.job = some g →
    (s.job g).cls = some .hold → (s.job g).resultChain = [] → x.hold.timer = some e →
    (c = .stateFrame p code capability ∧ code = 7 ∧ condition = .panelFault) ∨
      (∃ o, x.transmitter.outstanding = some o ∧ 3 ≤ o.sends ∧ o.phase = .awaitingAnswer ∧
        ((c = .nakFrame p ∧ condition = .lineRefused) ∨ (c = .responseTimerExpiry p ∧ condition = .lineSilent ∧
          timerReached s.ctl.clock x.transmitter.responseTimer = true))) →
    let probe : Timer := some (s.ctl.clock + BitVec.ofNat 32 ((s.portConfig p).probeInterval * 1000))
    let left := max 1 (e - s.ctl.clock).toNat
    let lifted (t : State) : Prop := s.liftsWritten t [p] Contact.captured ∧
      ∀ i, t.contact p i = match s.contact p i with | .zone _ => .orphan | .hold _ => .orphan | k => k
    let downed (t : State) : Prop := t.portShown p ∧
      t.port p = { (x.heard (s.portConfig p).cls c).down condition probe with
        contacts := (t.port p).contacts, cut := (t.port p).cut }
    ((s.job g).faults < 2 → ∃ u, exec c s = .next (settleInterrupt s (u.review (s.job g).pool)) ∧
      (u.slot g).state = .queued ∧ u.word (slotAddress g) = 2 ∧
      u.job g = { s.job g with faults := (s.job g).faults + 1, holdRemaining := left } ∧ lifted u ∧
      s.joinedQueue u (s.job g).pool g ∧
      (u.poolStats (s.job g).pool).faultRequeues = min 4294967295 ((s.poolStats (s.job g).pool).faultRequeues + 1) ∧
      s.statsShown u (s.job g).pool ∧ u.queueShown (s.job g).pool ∧ u.scoresShown (stationOf g) ∧
      downed u ∧ u.notice = s.notice ||| 0x20 ∧ s.portsKept u [p] ∧ s.slotsKept u [g] ∧
      s.stationsKept u [stationOf g] ∧ u.marks = s.marks ∧ u.spare = s.spare ∧ u.deadlines = s.deadlines ∧
      u.ctl = s.ctl) ∧
    (2 ≤ (s.job g).faults → ∃ t, exec c s = .next t ∧ t.hasResult g .failed .portFaults ∧ lifted t ∧
      t.job g = { s.job g with holdRemaining := left } ∧
      downed t ∧ t.notice = s.notice ||| 0x20 ∧ t.queues = s.queues ∧ t.stats = s.stats ∧
      s.portsKept t [p] ∧ s.slotsKept t [g] ∧ t.spare = s.spare ∧ t.marks = s.marks)

/-- The sheet timer's expiry, a STATE of a fault condition and a third send without answer end a print by fault: below two
faults and without a latch the job is QUEUED again, at the place of its accept stamp, with the start of the sheet in progress
as resume point, its fault count raised; under a latch it is finished CANCELLED, by the host before the station's close, and
in DRAINING CANCELLED ENGINE_STOP, where the engine enters STOPPED if no other port serves; at the third fault it is finished
FAILED PORT_FAULTS. Either way the port is FAULTED, with its last condition kept by SHEET_LATE and set by the others, and
PORT_DOWN is set. The mirrors of the statistic, the queue length, the score and the port are written (R20, R62, R77, R80, R91
to R93, R113, R118, R120, R131, R133). -/
def Obligations.FaultEndsAPrint : Prop :=
  ∀ (s : State) (p : Port) (g : Slot) (grant : Stamp) (c : Instr) (condition : Condition) (code capability : Byte), s.wellFormed →
    let x := s.port p
    s.ctl.engine = .running ∨ s.ctl.engine = .draining → x.state = .serving → (s.portConfig p).cls = .printer →
    x.job = some g → (s.job g).cls = some .print → (s.job g).serviceGrant = some grant → (s.job g).resultChain = [] →
    (c = .sheetTimerExpiry p ∧ timerReached s.ctl.clock x.print.sheetTimer = true ∧ condition = x.condition) ∨
      (c = .stateFrame p code capability ∧
        ((code = 3 ∧ condition = .paperOut) ∨ (code = 4 ∧ condition = .jam) ∨ (code = 5 ∧ condition = .coverOpen))) ∨
      (∃ o, x.transmitter.outstanding = some o ∧ 3 ≤ o.sends ∧ o.phase = .awaitingAnswer ∧
        ((c = .nakFrame p ∧ condition = .lineRefused) ∨ (c = .responseTimerExpiry p ∧ condition = .lineSilent ∧
          timerReached s.ctl.clock x.transmitter.responseTimer = true))) →
    let probe : Timer := some (s.ctl.clock + BitVec.ofNat 32 ((s.portConfig p).probeInterval * 1000))
    let j := s.job g
    let downed (t : State) : Prop := t.portShown p ∧
      t.port p = { (x.heard (s.portConfig p).cls c).down condition probe with
        contacts := x.contacts.map fun k => match k with | .zone _ => .orphan | .hold _ => .orphan | k => k
        cut := (t.port p).cut }
    (s.ctl.engine = .running → j.faults < 2 → j.cancelLatch = false → j.closeLatch = false →
      ∃ u, exec c s = .next (settleInterrupt s (u.review j.pool)) ∧
        (u.slot g).state = .queued ∧ u.word (slotAddress g) = 2 ∧
        u.job g = { j with faults := j.faults + 1, resumeCopy := x.print.copy, resumeSheet := x.print.sheet } ∧
        s.joinedQueue u j.pool g ∧
        (u.poolStats j.pool).faultRequeues = min 4294967295 ((s.poolStats j.pool).faultRequeues + 1) ∧
        (u.counters (stationOf g)).usage =
          min 65535 ((s.counters (stationOf g)).usage + (s.ctl.clock - grant).toNat / 100) ∧
        s.statsShown u j.pool ∧ u.queueShown j.pool ∧ u.scoresShown (stationOf g) ∧ downed u ∧
        u.notice = s.notice ||| 0x20 ∧ s.portsKept u [p] ∧ s.slotsKept u [g] ∧
        s.stationsKept u [stationOf g] ∧ u.marks = s.marks ∧ u.spare = s.spare ∧ u.deadlines = s.deadlines ∧
        u.ctl = s.ctl) ∧
    (s.ctl.engine = .running → 2 ≤ j.faults → ∃ t, exec c s = .next t ∧ t.hasResult g .failed .portFaults ∧
      downed t ∧ t.notice = s.notice ||| 0x20 ∧ t.queues = s.queues ∧ t.stats = s.stats ∧
      s.portsKept t [p] ∧ s.slotsKept t [g] ∧ t.spare = s.spare ∧ (t.job g).faults = j.faults) ∧
    (∀ d, s.ctl.engine = .running → j.faults < 2 →
      (j.cancelLatch = true ∧ d = .byHost) ∨ (j.cancelLatch = false ∧ j.closeLatch = true ∧ d = .stationClosed) →
      ∃ t, exec c s = .next t ∧ t.hasResult g .cancelled d ∧ downed t ∧
        t.notice = s.notice ||| 0x20 ∧ t.queues = s.queues ∧ t.stats = s.stats ∧ s.portsKept t [p] ∧ s.slotsKept t [g] ∧
        t.spare = s.spare) ∧
    ∀ o d, s.ctl.engine = .draining →
      (2 ≤ j.faults ∧ o = .failed ∧ d = .portFaults) ∨ (j.faults < 2 ∧ o = .cancelled ∧
        ((j.cancelLatch = true ∧ d = .byHost) ∨ (j.cancelLatch = false ∧ j.closeLatch = true ∧ d = .stationClosed) ∨
          (j.cancelLatch = false ∧ j.closeLatch = false ∧ d = .engineStop))) →
      ∃ t, exec c s = .next t ∧ t.hasResult g o d ∧ t.queues = s.queues ∧ s.slotsKept t [g] ∧ t.portShown p ∧
        ((∀ r, r ≠ p → (s.port r).state ≠ .serving) →
          t.ctl.engine = .stopped ∧ t.notice = s.notice ||| 0x22 ∧ (∀ r, (t.port r).state = .offline) ∧
            t.port p = { (x.heard (s.portConfig p).cls c).down condition none with
              state := .offline, contacts := (t.port p).contacts, cut := (t.port p).cut }) ∧
        ((∃ r, r ≠ p ∧ (s.port r).state = .serving) →
          t.ctl.engine = .draining ∧ downed t ∧ t.notice = s.notice ||| 0x20 ∧ s.portsKept t [p])

/-! ### Lines -/

/-- The check character makes the sum of a frame's data bytes a multiple of 256: the part sends it by the formula, and the
receiver accepts exactly it (R100). -/
def Obligations.CheckCharacterCompletesTheSum : Prop :=
  ∀ (kind : Byte) (payload : List Byte) (check : Byte),
    let sum := kind.toNat + payload.length + (payload.map BitVec.toNat).sum
    (checkOf kind payload).toNat = (256 - sum % 256) % 256 ∧
    (checkHolds kind payload check = true ↔ (sum + check.toNat) % 256 = 0) ∧
    (checkHolds kind payload check = true ↔ check = checkOf kind payload) ∧
    (frameCharacters kind payload).getLast? = some (checkOf kind payload, false) ∧
    (payload = [] → (checkOf kind payload).toNat = (256 - kind.toNat % 256) % 256)

/-- The quality of a received character: FRAMING with a framing error, whether or not it is noisy; else NOISY where some
bit's samples disagree; else GOOD. It carries the data byte and the mark bit of the majorities, and one that is not GOOD is
never taken as a header (R99). -/
def Obligations.CharacterQualityIsJudgedFirst : Prop :=
  ∀ (c : LineCharacter) (ch : Character), qualify c = some ch →
    let high (b : BitSamples) : Prop := 2 ≤ b.first.toNat + b.second.toNat + b.third.toNat
    let mixed (b : BitSamples) : Prop := ¬ (b.first = b.second ∧ b.second = b.third)
    let noisy : Prop := mixed c.start ∨ (∃ i : Fin 8, mixed c.data[i.val]) ∨ mixed c.mark ∨ mixed c.stop
    (ch.quality = .framing ↔ ¬ high c.stop) ∧ (ch.quality = .noisy ↔ noisy ∧ high c.stop) ∧
    (ch.quality = .good ↔ ¬ noisy ∧ high c.stop) ∧ (ch.mark = true ↔ high c.mark) ∧
    (∀ i : Fin 8, ch.data.getLsbD i.val = true ↔ high c.data[i.val]) ∧
    ∀ (s : State) (p : Port), ch.quality ≠ .good → ((s.receive p ch).port p).receiver = .hunting

/-- What a frame receiver does with a character outside a frame's last one: nothing at an OFFLINE port, and nothing while the
line has stayed low since a low stop bit; a false start leaves it looking for the next edge. A spoiled character is counted and
the receiver hunts, after a low stop bit only once the line has been high; a header begins a frame, aborting one in progress
with a framing count; length and payload are collected. The mirror of the one counter that rises is written, and no other. A
character as the line carries it, sampled alike thrice in each bit, is GOOD with its byte and mark (R97, R98, R101, R102,
R112; how the samples of a character come as one command is log entry 17's). -/
def Obligations.ReceiverTakesCharacters : Prop :=
  (∀ (s : State) (p : Port) (c : LineCharacter), s.wellFormed →
    let x := s.port p
    let edge : Prop := x.receiver ≠ .lineLow ∨ c.afterHigh = true
    let outside : Prop := x.receiver = .hunting ∨ x.receiver = .lineLow
    let counted (r : Receiver) (n : LineCounters) (offset count : Nat) : Prop :=
      ∃ t, exec (.characterReceived p c) s = .next t ∧
        t = { (s.setPort p { x with receiver := r, counters := n }) with mem := t.mem } ∧
        (count < 4294967295 → t.word (portAddress p + offset) = BitVec.ofNat 32 (count + 1)) ∧
        (count = 4294967295 → t.mem = s.mem) ∧ s.memoryKept t fun a => within (portAddress p + offset) 4 a
    let taken (r : Receiver) : Prop := exec (.characterReceived p c) s = .next (s.setPort p { x with receiver := r })
    let noisy (r : Receiver) : Prop :=
      counted r { x.counters with noise := min 4294967295 (x.counters.noise + 1) } 0x0C x.counters.noise
    let framing (r : Receiver) : Prop :=
      counted r { x.counters with framing := min 4294967295 (x.counters.framing + 1) } 0x10 x.counters.framing
    (x.state = .offline ∨ ¬ edge → exec (.characterReceived p c) s = .next s) ∧
    (x.state ≠ .offline → edge → qualify c = none →
      (x.receiver = .lineLow → taken .hunting) ∧ (x.receiver ≠ .lineLow → exec (.characterReceived p c) s = .next s)) ∧
    ∀ ch, x.state ≠ .offline → edge → qualify c = some ch →
      (ch.quality = .noisy → noisy .hunting) ∧ (ch.quality = .framing → framing .lineLow) ∧
      (ch.quality = .good → ch.mark = true → outside → taken (.awaitLength ch.data)) ∧
      (ch.quality = .good → ch.mark = true → ¬ outside → framing (.awaitLength ch.data)) ∧
      (ch.quality = .good → ch.mark = false → x.receiver = .hunting → exec (.characterReceived p c) s = .next s) ∧
      (ch.quality = .good → ch.mark = false → x.receiver = .lineLow → taken .hunting) ∧
      (∀ kind, ch.quality = .good → ch.mark = false → x.receiver = .awaitLength kind →
        (120 < ch.data.toNat → framing .hunting) ∧ (ch.data = 0 → taken (.awaitCheck kind [])) ∧
        (1 ≤ ch.data.toNat → ch.data.toNat ≤ 120 → taken (.awaitPayload kind ch.data.toNat []))) ∧
      ∀ kind length got, ch.quality = .good → ch.mark = false → x.receiver = .awaitPayload kind length got →
        (got.length + 1 < length → taken (.awaitPayload kind length (got ++ [ch.data]))) ∧
        (length ≤ got.length + 1 → taken (.awaitCheck kind (got ++ [ch.data])))) ∧
  ∀ (b : Byte) (mark high : Bool),
    let sampled (i : Nat) : BitSamples :=
      let v := (lineBits (b, mark))[i]?.getD restLevel
      { first := v, second := v, third := v }
    qualify {
      afterHigh := high, start := sampled 0, data := Vector.ofFn fun i => sampled (i.val + 1), mark := sampled 9
      stop := sampled 10 } = some { data := b, mark := mark, quality := .good }

/-- The last character of a frame acts as the row of that frame: a frame whose check holds and whose kind and length suit
is its own row's command, any other is FRAME_REJECTED (log entry 8). A rejected frame's failed check is counted, and a
failed IMAGE or IMAGE-END that the scan service takes is answered NAK; a kind, length or content that suits no frame of the
port is counted as framing, without answer; the mirror of the one counter that rises is written, and no other (R102, R103,
R104, R112). -/
def Obligations.FramesAreJudgedWhenComplete : Prop :=
  (∀ (s : State) (p : Port) (c : LineCharacter) (ch : Character) (kind : Byte) (payload : List Byte),
     (s.port p).state ≠ .offline → qualify c = some ch → ch.quality = .good → ch.mark = false →
     (s.port p).receiver = .awaitCheck kind payload →
     (checkHolds kind payload ch.data = false ∨ parseFrame kind payload = none →
       exec (.characterReceived p c) s = exec (.frameRejected p kind payload ch.data) s) ∧
     (checkHolds kind payload ch.data = true → ∀ f, parseFrame kind payload = some f →
       exec (.characterReceived p c) s = exec (match f with
         | .ack => .ackFrame p
         | .nak => .nakFrame p
         | .state condition capability => .stateFrame p condition capability
         | .sheet => .sheetFrame p
         | .image data => .imageFrame p data
         | .imageEnd total => .imageEndFrame p total
         | .contact reports => .contactFrame p reports) s)) ∧
  (∀ (s : State) (p : Port) (kind : Byte) (payload : List Byte) (check : Byte), s.wellFormed →
     let x := s.port p
     let counted (n : LineCounters) (offset count : Nat) (transmitter : Transmitter) : Prop :=
       ∃ t, exec (.frameRejected p kind payload check) s = .next t ∧
         t = { (s.setPort p { x with receiver := .hunting, counters := n, transmitter := transmitter }) with mem := t.mem } ∧
         (count < 4294967295 → t.word (portAddress p + offset) = BitVec.ofNat 32 (count + 1)) ∧
         (count = 4294967295 → t.mem = s.mem) ∧ s.memoryKept t fun a => within (portAddress p + offset) 4 a
     let failed := counted { x.counters with check := min 4294967295 (x.counters.check + 1) } 0x14 x.counters.check
     let malformed := counted { x.counters with framing := min 4294967295 (x.counters.framing + 1) } 0x10 x.counters.framing
     let taking : Prop := x.state = .serving ∧ (s.portConfig p).cls = .scanner ∧ x.job ≠ none ∧
       (x.scan.phase = .taking ∨ x.scan.phase = .starved)
     (x.state = .offline → exec (.frameRejected p kind payload check) s = .next s) ∧
     (x.state ≠ .offline →
       (checkHolds kind payload check = false → (kind = 0x22 ∨ kind = 0x23) → taking →
         failed (placeReply .nak x.transmitter)) ∧
       (checkHolds kind payload check = false → ¬ ((kind = 0x22 ∨ kind = 0x23) ∧ taking) → failed x.transmitter) ∧
       (checkHolds kind payload check = true → parseFrame kind payload = none → malformed x.transmitter) ∧
       (∀ f, checkHolds kind payload check = true → parseFrame kind payload = some f →
         goodFrame (s.portConfig p).cls f = false → malformed x.transmitter)))

/-- The frames of a peripheral by kind code and payload: ACK, NAK and SHEET are empty, STATE has its condition and capability,
IMAGE 1..120 data bytes, IMAGE-END a little-endian count, CONTACT 1..10 reports of seven bytes; a CONTACT of no byte, of more
than 70 or of a length that is no multiple of 7, and a frame of another kind, is none. The conditions that each class reports,
by STATE code, and the capability that a good STATE sets (R104, R115, R201). -/
def Obligations.PeripheralFramesAreParsed : Prop :=
  ((∀ payload, parseFrame 0x10 payload = (if payload = [] then some .ack else none) ∧
     parseFrame 0x11 payload = (if payload = [] then some .nak else none) ∧
     parseFrame 0x21 payload = (if payload = [] then some .sheet else none) ∧
     (∀ c k, parseFrame 0x20 [c, k] = some (.state c k)) ∧ (payload.length ≠ 2 → parseFrame 0x20 payload = none) ∧
     (1 ≤ payload.length → payload.length ≤ 120 → parseFrame 0x22 payload = some (.image payload)) ∧
     (payload = [] ∨ 120 < payload.length → parseFrame 0x22 payload = none) ∧
     (∀ b0 b1 b2 b3 : Byte, parseFrame 0x23 [b0, b1, b2, b3] =
       some (.imageEnd (BitVec.ofNat 32 (b0.toNat + 256 * b1.toNat + 65536 * b2.toNat + 16777216 * b3.toNat)))) ∧
     (payload.length ≠ 4 → parseFrame 0x23 payload = none)) ∧
   (∀ reports : List ContactReport, 1 ≤ reports.length → reports.length ≤ 10 →
     parseFrame 0x24 (reports.flatMap fun r =>
       [r.id, r.phase, r.x.extractLsb' 0 8, r.x.extractLsb' 8 8, r.y.extractLsb' 0 8, r.y.extractLsb' 8 8, r.pressure]) =
       some (.contact reports)) ∧
   ∀ (kind : Byte) (payload : List Byte),
     (kind = 0x24 → payload.length = 0 ∨ 70 < payload.length ∨ payload.length % 7 ≠ 0) →
     kind ∉ [0x10, 0x11, 0x20, 0x21, 0x22, 0x23] → parseFrame kind payload = none) ∧
  (∀ code : Byte,
     goodCondition .printer code = (match code.toNat with
       | 1 => some .ready | 2 => some .busy | 3 => some .paperOut | 4 => some .jam | 5 => some .coverOpen
       | _ => none) ∧
     goodCondition .scanner code = (match code.toNat with
       | 1 => some .ready | 2 => some .busy | 4 => some .jam | 5 => some .coverOpen | 6 => some .lampFail
       | _ => none) ∧
     goodCondition .panel code = (match code.toNat with
       | 1 => some .ready | 2 => some .busy | 7 => some .panelFault
       | _ => none) ∧
     capabilityOf .printer code = 0 ∧ (code.toNat ≤ 3 → capabilityOf .scanner code = code.toNat) ∧
     (3 < code.toNat → capabilityOf .scanner code = 3) ∧ (code = 0 → capabilityOf .panel code = 1) ∧
     (1 ≤ code.toNat → code.toNat ≤ 10 → capabilityOf .panel code = code.toNat) ∧
     (10 < code.toNat → capabilityOf .panel code = 10))

/-- A STATE at each state of its port: READY makes a PROBING or FAULTED port FREE, with PORT_UP and a review; another
condition makes a PROBING port, and a fault condition a FREE port, FAULTED with PORT_DOWN, its captured contacts lifted to
ORPHAN, each by a synthetic UP to its record; a FREE port takes READY and BUSY, a FAULTED port any but READY, a SERVING
scanner or panel READY and BUSY as its last condition alone, whose mirror is written where condition or capability changes. At
a serving print BUSY sets the BUSY flag and READY clears it, and READY offers the FEED of an entry that was stalled, whose
block is read now. An OFFLINE port receives nothing; a condition that the class does not report is malformed. An ASK that
awaits its answer is completed. A READY at a FAULTED port also completes the probe's ASK before its first send is over: one
that awaits that send is not sent, one that is being sent goes out whole and is not awaited (that it goes out whole is the
model's choice, log entry 30). Any other ASK is left outstanding (R103, R105, R108, R110, R113, R115 to R122, R129, R174). -/
def Obligations.StateActsByPortState : Prop :=
  ∀ (s : State) (p : Port) (code capability : Byte), s.wellFormed →
    let x := s.port p
    let cls := (s.portConfig p).cls
    let completed (c : Condition) : Transmitter :=
      let t := x.transmitter
      match t.outstanding with
      | some o =>
        if o.offered.frame ≠ .ask then t
        else if o.phase = .awaitingAnswer then completeFrame t
        else if x.state = .faulted ∧ c = .ready ∧ o.sends = 1 then
          completeFrame (if o.phase = .beingSent then { t with sending := .withdrawn .ask } else t)
        else t
      | none => t
    let run := exec (.stateFrame p code capability) s
    let mirrored (t : State) (c : Condition) : Prop :=
      (x.condition = c → x.capability = capabilityOf cls capability → t.mem = s.mem) ∧
      (x.condition ≠ c ∨ x.capability ≠ capabilityOf cls capability →
        field (t.word (portAddress p + 0x08)) 8 8 = conditionCode c ∧
          field (t.word (portAddress p + 0x08)) 16 8 = capabilityOf cls capability) ∧
      s.memoryKept t fun a => portMirror p a
    (x.state = .offline → run = .next s) ∧
    (x.state ≠ .offline → goodCondition cls code = none → ∃ t, run = .next t ∧
      t = { (s.setPort p { x with
        receiver := .hunting
        counters := { x.counters with framing := min 4294967295 (x.counters.framing + 1) } }) with mem := t.mem } ∧
      s.memoryKept t fun a => within (portAddress p + 0x10) 4 a) ∧
    ∀ c, goodCondition cls code = some c →
      (x.state = .probing ∨ x.state = .faulted → c = .ready →
        ∃ u, run = .next (closeEvent s (u.review (s.portConfig p).pool)) ∧
          u = { (s.setPort p { x with
            receiver := .hunting, state := .free, condition := .ready, capability := capabilityOf cls capability
            probeTimer := none, transmitter := completed c }) with
            mem := u.mem
            notice := s.notice ||| 0x40 } ∧
          u.word (portAddress p + 0x08) = place 2 0 8 ||| place 1 8 8 ||| place (capabilityOf cls capability) 16 8 ∧
          s.memoryKept u fun a => portMirror p a) ∧
      (x.state = .probing ∧ c ≠ .ready ∨ x.state = .free ∧ c ≠ .ready ∧ c ≠ .busy → ∃ t, run = .next t ∧
        t.port p = { (x.heard cls (.stateFrame p code capability)).down c
            (some (s.ctl.clock + BitVec.ofNat 32 ((s.portConfig p).probeInterval * 1000))) with
          contacts := (t.port p).contacts
          cut := (t.port p).cut } ∧
        t.portShown p ∧ t.notice = s.notice ||| 0x20 ∧
        (∀ i, t.contact p i = match s.contact p i with | .zone _ => .orphan | .hold _ => .orphan | k => k) ∧
        s.liftsWritten t [p] Contact.captured ∧
        s.portsKept t [p] ∧ t.slots = s.slots ∧ t.queues = s.queues ∧ t.stats = s.stats ∧ t.marks = s.marks) ∧
      (x.state = .free ∧ (c = .ready ∨ c = .busy) ∨ x.state = .faulted ∧ c ≠ .ready ∨
          x.state = .serving ∧ x.job ≠ none ∧ (c = .ready ∨ c = .busy) ∧ cls ≠ .printer →
        ∃ t, run = .next t ∧
          t = { (s.setPort p { x with
            receiver := .hunting, condition := c, capability := capabilityOf cls capability
            transmitter := completed c }) with mem := t.mem } ∧ mirrored t c) ∧
      ∀ g, x.state = .serving → x.job = some g → cls = .printer →
        let printing (v : PrintService) (transmitter : Transmitter) : Prop := ∃ t, run = .next t ∧
          t = { (s.setPort p { x with
            receiver := .hunting, condition := c, capability := capabilityOf cls capability, print := v
            transmitter := transmitter }) with mem := t.mem } ∧ mirrored t c
        (c = .busy → printing { x.print with busy := true } (completed c)) ∧
        (c = .ready → x.print.phase ≠ .stalled → printing { x.print with busy := false } (completed c)) ∧
        ∀ e, c = .ready → x.print.phase = .stalled → (s.job g).chain[x.print.entry]? = some e →
          readLength s.mem e.block ≠ 0 →
          printing { x.print with busy := false, early := false, phase := .feeding, fed := true }
            (offer { frame := .feed (readData s.mem e.block (readLength s.mem e.block)), owner := .service x.grantNumber }
              (completed c))

/-- A SHEET at a serving print: in FEEDING it is held in the early-SHEET flag; in SHEET_WAIT it ends the sheet, which is
counted, and the boundary's checks end the job by a cancel, a close, the drain or its last sheet, in that order, or begin the
next sheet, of this copy or of the next one: its FEED is offered at its first block that is not of length 0, or the service is
STALLED there under the BUSY flag. A next sheet whose blocks all have length 0 ends at once and uncounted: the sheet after it
begins in the same event, and the last one ends the job DONE. With a yield pending and a sheet to come the outrank test is
put: where it holds the job is QUEUED again, its resume point the next sheet, its interruption count and the pool's
preemptions raised, its station charged, each with its mirror, and the port FREE; where it fails the next sheet begins with
the flag still set. In any other phase, and at a port that serves no print, the SHEET is discarded (R77, R80, R87 to R90,
R105, R113, R127, R130, R132). -/
def Obligations.SheetConfirmsThePrint : Prop :=
  ∀ (s : State) (p : Port), s.wellFormed → (s.port p).state ≠ .offline →
    let x := s.port p
    let run := exec (.sheetFrame p) s
    let hunting := s.setPort p { x with receiver := .hunting }
    (x.state ≠ .serving ∨ (s.portConfig p).cls ≠ .printer → run = .next hunting) ∧
    ∀ g, x.state = .serving → (s.portConfig p).cls = .printer → x.job = some g →
      (x.print.phase = .feeding → x.print.early = false → run = .next (s.setPort p { x with
        receiver := .hunting, print := { x.print with early := true } })) ∧
      (x.print.phase = .feeding ∧ x.print.early = true ∨ x.print.phase = .stalled → run = .next hunting) ∧
      (∀ o d, x.print.phase = .sheetWait → (s.job g).cls = some .print →
        ((s.job g).cancelLatch = true ∧ o = .cancelled ∧ d = .byHost) ∨
          ((s.job g).cancelLatch = false ∧ (s.job g).closeLatch = true ∧ o = .cancelled ∧ d = .stationClosed) ∨
          ((s.job g).cancelLatch = false ∧ (s.job g).closeLatch = false ∧ s.ctl.engine = .draining ∧
            o = .doneShort ∧ d = .engineStop) ∨
          ((s.job g).cancelLatch = false ∧ (s.job g).closeLatch = false ∧ s.ctl.engine = .running ∧
            sheetsPerCopy (s.job g).chain ≤ x.print.sheet ∧ (s.job g).copies ≤ x.print.copy ∧
            o = .done ∧ d = .none) →
        ∃ u, run = .next (closeEvent s (u.review (s.portConfig p).pool)) ∧ u.hasResult g o d ∧
          (u.job g).sheetsDone = (s.job g).sheetsDone + 1 ∧ u.port p = { x.ended with receiver := .hunting } ∧ u.portShown p ∧
          u.talliesShown (stationOf g) ∧ u.scoresShown (stationOf g) ∧
          s.portsKept u [p] ∧ s.slotsKept u [g] ∧ s.stationsKept u [stationOf g] ∧ u.queues = s.queues ∧
          u.deadlines = s.deadlines ∧ u.stats = s.stats ∧ u.spare = s.spare ∧ u.ctl = s.ctl ∧ u.notice = s.notice) ∧
      (let j := s.job g
       let timer : Timer := some (s.ctl.clock + BitVec.ofNat 32 ((s.portConfig p).sheetTimeout * 1000))
       let follows (place next : Nat × Nat) : Prop :=
         (place.2 < sheetsPerCopy j.chain ∧ next = (place.1, place.2 + 1)) ∨
           (sheetsPerCopy j.chain ≤ place.2 ∧ place.1 < j.copies ∧ next = (place.1 + 1, 1))
       let stands (place : Nat × Nat) (skip : List ChainEntry) (e : ChainEntry) : Prop :=
         (∃ rest, j.chain.drop (sheetStart j.chain place.2) = skip ++ e :: rest) ∧
           ∀ f ∈ skip, f.sheetEnd = false ∧ readLength s.mem f.block = 0
       let begun (next : Nat × Nat) (skip : List ChainEntry) (e : ChainEntry) : PortRecord := { x with
         receiver := .hunting
         print := { x.print with
           phase := if x.print.busy = true then .stalled else .feeding
           copy := next.1, sheet := next.2, early := false, fed := !x.print.busy
           entry := sheetStart j.chain next.2 + skip.length, sheetTimer := timer }
         transmitter := if x.print.busy = true then x.transmitter else
           offer { frame := .feed (readData s.mem e.block (readLength s.mem e.block)), owner := .service x.grantNumber }
             x.transmitter }
       let counted : JobRecord := { j with sheetsDone := j.sheetsDone + 1 }
       x.print.phase = .sheetWait → j.cancelLatch = false → j.closeLatch = false → s.ctl.engine = .running →
         (∀ next skip e, x.yieldPending = false → stands next skip e → readLength s.mem e.block ≠ 0 →
           follows (x.print.copy, x.print.sheet) next ∨
             (∃ mid front m, follows (x.print.copy, x.print.sheet) mid ∧ stands mid front m ∧ m.sheetEnd = true ∧
               readLength s.mem m.block = 0 ∧ follows mid next) →
           run = .next { (s.setPort p (begun next skip e)) with
             slots := s.slots.set g.val { s.slot g with job := counted } }) ∧
         (∀ last skip e, x.yieldPending = false → j.cls = some .print → follows (x.print.copy, x.print.sheet) last →
           stands last skip e → e.sheetEnd = true → readLength s.mem e.block = 0 →
           sheetsPerCopy j.chain ≤ last.2 → j.copies ≤ last.1 →
           ∃ u, run = .next (closeEvent s (u.review (s.portConfig p).pool)) ∧ u.hasResult g .done .none ∧
             u.job g = counted ∧ u.port p = { x.ended with receiver := .hunting } ∧ u.portShown p ∧ s.portsKept u [p] ∧
             s.slotsKept u [g] ∧ u.queues = s.queues ∧ u.ctl = s.ctl ∧ u.notice = s.notice) ∧
         ∀ next, x.yieldPending = true → follows (x.print.copy, x.print.sheet) next →
           (∀ grant, (∃ h ∈ s.queue (s.portConfig p).pool, (s.sample (stationOf h)).state = .opened ∧
               stationOf h ≠ stationOf g ∧ x.holdLevel < s.rankOf h) → j.serviceGrant = some grant →
             ∃ u, run = .next (closeEvent s (u.review (s.portConfig p).pool)) ∧
               (u.slot g).state = .queued ∧ u.word (slotAddress g) = 2 ∧
               u.job g = { counted with
                 resumeCopy := next.1, resumeSheet := next.2, interruptions := min 255 (j.interruptions + 1) } ∧
               s.joinedQueue u j.pool g ∧
               (u.poolStats j.pool).preemptions = min 4294967295 ((s.poolStats j.pool).preemptions + 1) ∧
               (u.counters (stationOf g)).usage =
                 min 65535 ((s.counters (stationOf g)).usage + (s.ctl.clock - grant).toNat / 100) ∧
               s.statsShown u j.pool ∧ u.queueShown j.pool ∧ u.scoresShown (stationOf g) ∧
               u.port p = { x.ended with receiver := .hunting } ∧ u.portShown p ∧
               s.portsKept u [p] ∧ s.stationsKept u [stationOf g] ∧ u.deadlines = s.deadlines ∧ u.marks = s.marks ∧
               u.spare = s.spare ∧ u.ctl = s.ctl ∧ u.notice = s.notice ∧
               ∀ h, h ≠ g → (u.slot h).state = (s.slot h).state ∧
                 u.job h = { s.job h with agedOut := (u.job h).agedOut }) ∧
           ∀ skip e, (∀ h ∈ s.queue (s.portConfig p).pool, (s.sample (stationOf h)).state = .opened →
               stationOf h ≠ stationOf g → s.rankOf h ≤ x.holdLevel) →
             stands next skip e → readLength s.mem e.block ≠ 0 →
             ∃ t, run = .next t ∧ t = { (s.setPort p (begun next skip e)) with slots := t.slots } ∧
               (t.job g).sheetsDone = j.sheetsDone + 1 ∧
               ∀ h, (t.slot h).state = (s.slot h).state ∧ (t.job h).resultChain = (s.job h).resultChain)

/-- An IMAGE at a scan that takes it: with room for the bytes due in the current block they are written from its fill on, its
length, the fill and the bytes stored rise, ACK is placed, and at the job's maximum the service truncates. Where the current
block is full, or there is none, or it has room for some bytes alone, the head of the spare chain is taken for the rest: it is
marked RESULT and joins the result chain, its header is written with link 0 and its new length, the block before it is linked
to it, the spare mirrors are written, and SPARE_LOW and SPARE_EMPTY are set by the count before and after. Without room,
nothing is stored, PAUSE is placed and the service is STARVED. At a scan that takes no frames, and at a port that serves no
scan, the IMAGE is discarded. The length write writes the part's own link, which is 0 at the last block of the chain (R10,
R200; deduced, log entry 31). That the other bytes of their words keep what memory holds is the model's choice, log entry 33
(R10, R105, R142, R143, R152, R153, R157, R200). -/
def Obligations.ImageIsStoredOrPaused : Prop :=
  ∀ (s : State) (p : Port) (data : List Byte), s.wellFormed → (s.port p).state ≠ .offline → 1 ≤ data.length → data.length ≤ 120 →
    let x := s.port p
    let run := exec (.imageFrame p data) s
    let taking : Prop := x.scan.phase = .taking ∨ x.scan.phase = .starved
    (x.state ≠ .serving ∨ (s.portConfig p).cls ≠ .scanner ∨ ¬ taking →
      run = .next (s.setPort p { x with receiver := .hunting })) ∧
    ∀ g, x.state = .serving → (s.portConfig p).cls = .scanner → x.job = some g → taking →
      let due := min data.length ((s.job g).maxBytes - x.scan.stored)
      let room := (if x.scan.current = none then 0 else 120 - x.scan.fill) + 120 * s.spare.length
      let answered (t : State) : Prop := (t.port p).scan.stored = x.scan.stored + due ∧ (t.port p).scan.starveTimer = none ∧
        (x.scan.stored + due ≠ (s.job g).maxBytes → (t.port p).scan.phase = .taking ∧
          (t.port p).transmitter = placeReply .ack x.transmitter) ∧
        (x.scan.stored + due = (s.job g).maxBytes → (t.port p).scan.phase = .closing ∧
          (t.port p).transmitter = offer { frame := .closeScan, owner := .service x.grantNumber }
            (placeReply .ack x.transmitter))
      (room < due → run = .next (s.setPort p { x with
        receiver := .hunting
        transmitter := placeReply .pause x.transmitter
        scan := { x.scan with
          phase := .starved
          wanted := due
          starveTimer := if x.scan.phase = .starved then x.scan.starveTimer
            else some (s.ctl.clock + BitVec.ofNat 32 ((s.portConfig p).starveLimit * 1000)) } })) ∧
      (∀ b, x.scan.current = some b → 1 ≤ b → b ≤ 896 → x.scan.fill + due ≤ 120 → 1 ≤ due →
        ∃ t, run = .next t ∧
          (∀ i (h : i < data.length), i < due → readByte t.mem (blockAddress b + 8 + x.scan.fill + i) = data[i]) ∧
          readLength t.mem b = x.scan.fill + due ∧ readLink t.mem b = 0 ∧
          (s.memoryKept t fun a => within (blockAddress b) 4 a ∨ within (blockAddress b + 8 + x.scan.fill) due a) ∧
          (t.port p).scan.fill = x.scan.fill + due ∧ (t.port p).scan.current = some b ∧ answered t ∧
          s.portsKept t [p] ∧ t = { s with ports := t.ports, mem := t.mem }) ∧
      ∀ b rest, s.structured → s.spare = b :: rest → 1 ≤ due →
        (∀ c, x.scan.current = some c → 1 ≤ c ∧ c ≤ 896 ∧ c ∉ s.spare ∧ x.scan.fill ≤ 120 ∧ 120 < x.scan.fill + due) →
        let here := if x.scan.current = none then 0 else 120 - x.scan.fill
        ∃ t, run = .next t ∧ t.spare = rest ∧ t.job g = { s.job g with resultChain := (s.job g).resultChain ++ [b] } ∧
          (∀ a, t.mark a = if a = b then .result else s.mark a) ∧
          (∀ i (h : i < data.length), here ≤ i → i < due → readByte t.mem (blockAddress b + 8 + (i - here)) = data[i]) ∧
          readLength t.mem b = due - here ∧ readLink t.mem b = 0 ∧ t.word (blockAddress b + 4) = 0 ∧
          (∀ c, x.scan.current = some c → readLink t.mem c = b ∧ (1 ≤ here → readLength t.mem c = 120) ∧
            ∀ i (h : i < data.length), i < here →
              readByte t.mem (blockAddress c + 8 + x.scan.fill + i) = data[i]) ∧
          field (t.word 0x10) 0 16 = rest.headD 0 ∧ field (t.word 0x10) 16 16 = rest.getLastD 0 ∧
          field (t.word 0x14) 0 16 = rest.length ∧
          (let low := s.ctl.work.lowWater;
            t.notice = s.notice ||| (if low ≠ 0 ∧ low < s.spare.length ∧ rest.length ≤ low then 0x04 else 0) |||
              (if rest = [] then 0x08 else 0)) ∧
          (t.port p).scan.fill = due - here ∧ (t.port p).scan.current = some b ∧ answered t ∧
          (s.memoryKept t fun a => within 0x10 8 a ∨ within (blockAddress b) (8 + (due - here)) a ∨
            ∃ c, x.scan.current = some c ∧
              (within (blockAddress c) 4 a ∨ within (blockAddress c + 8 + x.scan.fill) here a)) ∧
          s.portsKept t [p] ∧ s.slotsKept t [g] ∧ t.queues = s.queues ∧ t.stations = s.stations ∧
          t.ctl = { s.ctl with messagesSent := t.ctl.messagesSent }

/-- An ACK: without an answer-expecting frame that awaits its answer, and while an ASK does, it is discarded. Otherwise the
frame is completed: the response timer stops, and the waiting frame, if any, becomes outstanding with send count 1, which is
sent at once where the transmitter sends nothing and no reply is due; a reply that is due is sent first, and leaves the reply
list then (log entry 9). The current service is told: OPEN-SCAN begins the taking of frames, and CLOSE-SCAN ends the job
DONE_SHORT TRUNCATED. A FEED of an unmarked entry brings the next entry, blocks of length 0 being passed over: its FEED is
offered, or the service is STALLED under the BUSY flag, and the early-SHEET flag is cleared; where the marked entry is reached
with length 0, the wait for the SHEET begins. A FEED of a marked entry begins that wait. With the early-SHEET flag set, the
boundary is taken in place of the wait, as a SHEET in the wait would take it. A frame of an ended service is told to nobody
(R106 to R108, R113, R127, R128, R151, R157). -/
def Obligations.AckCompletesTheFrame : Prop :=
  (∀ t : Transmitter,
     let empty := { t with outstanding := none, responseTimer := none }
     (t.waiting = none → completeFrame t = empty) ∧
     ∀ f, t.waiting = some f →
       let moved (phase : SendPhase) := { empty with
         waiting := none, outstanding := some { offered := f, sends := 1, phase } }
       (t.sending = .idle → t.replies = [] → completeFrame t = { moved .beingSent with sending := .outstanding }) ∧
       (∀ k rest, t.sending = .idle → t.replies = k :: rest →
         completeFrame t = { moved .awaitingSend with sending := .reply k, replies := rest }) ∧
       (t.sending ≠ .idle → completeFrame t = moved .awaitingSend)) ∧
  ∀ (s : State) (p : Port), s.wellFormed → (s.port p).state ≠ .offline →
    let x := s.port p
    let run := exec (.ackFrame p) s
    ((∀ o, x.transmitter.outstanding = some o → o.phase ≠ .awaitingAnswer ∨ o.offered.frame = .ask) →
      run = .next (s.setPort p { x with receiver := .hunting })) ∧
    ∀ o, x.transmitter.outstanding = some o → o.phase = .awaitingAnswer → o.offered.frame ≠ .ask →
      let done := { x with receiver := .hunting, transmitter := completeFrame x.transmitter }
      (x.state ≠ .serving ∨ o.offered.owner ≠ .service x.grantNumber → run = .next (s.setPort p done)) ∧
      ∀ g, x.state = .serving → x.job = some g → o.offered.owner = .service x.grantNumber →
        (∀ mode resolution, o.offered.frame = .openScan mode resolution →
          run = .next (s.setPort p { done with scan := { x.scan with phase := .taking } })) ∧
        (∀ data fed, o.offered.frame = .feed data → (s.job g).chain[x.print.entry]? = some fed →
          let chain := (s.job g).chain
          let passed (skip : List ChainEntry) : Prop := ∀ f ∈ skip, f.sheetEnd = false ∧ readLength s.mem f.block = 0
          let waiting : State := s.setPort p { done with print := { x.print with phase := .sheetWait } }
          (fed.sheetEnd = true → x.print.early = false → run = .next waiting) ∧
          (∀ skip e rest, fed.sheetEnd = false → chain.drop (x.print.entry + 1) = skip ++ e :: rest → passed skip →
            let entry := x.print.entry + 1 + skip.length
            (readLength s.mem e.block ≠ 0 →
              (x.print.busy = false → run = .next (s.setPort p { done with
                print := { x.print with phase := .feeding, entry, early := false, fed := true }
                transmitter := offer
                  { frame := .feed (readData s.mem e.block (readLength s.mem e.block)), owner := .service x.grantNumber }
                  (completeFrame x.transmitter) })) ∧
              (x.print.busy = true → run = .next (s.setPort p { done with
                print := { x.print with phase := .stalled, entry, early := false } }))) ∧
            (readLength s.mem e.block = 0 → e.sheetEnd = true → x.print.fed = true → x.print.early = false →
              run = .next (s.setPort p { done with print := { x.print with phase := .sheetWait, entry } }))) ∧
          (fed.sheetEnd = true ∨ (fed.sheetEnd = false ∧ x.print.fed = true ∧ 1 ≤ (s.job g).copies ∧ ∃ skip e rest,
              chain.drop (x.print.entry + 1) = skip ++ e :: rest ∧ passed skip ∧ e.sheetEnd = true ∧
                readLength s.mem e.block = 0) →
            x.print.early = true → (s.portConfig p).cls = .printer →
            (∀ copy sheet, nextSheet (s.job g) x.print.copy x.print.sheet = some (copy, sheet) → ∃ skip e rest,
              chain.drop (sheetStart chain sheet) = skip ++ e :: rest ∧ passed skip ∧
                (readLength s.mem e.block ≠ 0 ∨
                  (e.sheetEnd = true ∧ sheetsPerCopy chain ≤ sheet ∧ (s.job g).copies ≤ copy))) →
            run = exec (.sheetFrame p) waiting)) ∧
        (o.offered.frame = .closeScan → (s.job g).cls = some .scan →
          ∃ u, run = .next (closeEvent s (u.review (s.portConfig p).pool)) ∧ u.hasResult g .doneShort .truncated ∧
            u.port p = { x.ended with receiver := .hunting, transmitter := completeFrame x.transmitter } ∧ u.portShown p ∧
            s.portsKept u [p] ∧
            s.slotsKept u [g] ∧ u.marks = s.marks ∧ u.queues = s.queues ∧ u.ctl = s.ctl)

/-! ### Touch -/

/-- A CONTACT frame: at a port that is no panel or neither FREE nor SERVING, and outside RUNNING, it is discarded; each
malformed report raises the panel's malformed count and does nothing else. A frame's reports are taken in their order, as so
many frames of one report each would be, but for the messages. The mirror of a count that rises shows it. A written report
puts its contact's key, its entry's zone and its clamped position into the words of the record. A report that is not malformed
acts by its contact's entry and the phase, also where a known contact's id is no longer below the contact count: an UP with no
contact is stray; a new contact outside every zone is unrouted, in a zone of a CLOSED station counted closed; in a zone of
another station it is captured with the record that is chosen, or DROPPED with the station's overflow count raised; under a
hold it goes to the holder and is counted delivered, or is DROPPED in the same way; an UP of a captured contact ends it and a
MOVE of one is written and replaces its last position; a MOVE with no contact is a lost DOWN, captured as one with a synthetic
write; a repeated DOWN acts as the old contact's synthetic UP, and a DOWN of a contact that has no destination as that
contact's end without a write, and then as a new contact's DOWN; a MOVE of a contact that has no destination is discarded, and
its UP ends it (R105, R162, R163, R165 to R172, R174). -/
def Obligations.ContactReportsAreRouted : Prop :=
  (∀ (s : State) (p : Port) (reports : List ContactReport), s.wellFormed → (s.port p).state ≠ .offline → 1 ≤ reports.length →
     reports.length ≤ 10 →
     let x := s.port p
     let run := exec (.contactFrame p reports) s
     ((s.portConfig p).cls ≠ .panel ∨ (x.state ≠ .free ∧ x.state ≠ .serving) ∨ s.ctl.engine ≠ .running →
       run = .next (s.setPort p { x with receiver := .hunting })) ∧
     ((s.portConfig p).cls = .panel → x.state = .free ∨ x.state = .serving → s.ctl.engine = .running →
       (∀ r ∈ reports, r.phase.toNat ∉ [1, 2, 3] ∨ 10 ≤ r.id.toNat ∨
         ∃ h : r.id.toNat < 10, x.capability ≤ r.id.toNat ∧ s.contact p ⟨r.id.toNat, h⟩ = .none) →
       ∃ t, run = .next t ∧
         t = { (s.setPort p { x with
           receiver := .hunting
           discards := { x.discards with malformed := min 65535 (x.discards.malformed + reports.length) } }) with
           mem := t.mem } ∧
         s.discardsShown t p ∧ s.memoryKept t fun a => within (0x40 + p.val * 8) 8 a)) ∧
  (∀ (s : State) (p : Port) (r : ContactReport) (rest : List ContactReport), 1 ≤ rest.length → rest.length ≤ 9 →
     ∃ t u v, exec (.contactFrame p [r]) s = .next t ∧ exec (.contactFrame p rest) t = .next u ∧
       exec (.contactFrame p (r :: rest)) s = .next v ∧
       v = { u with ctl := { u.ctl with messagesSent := v.ctl.messagesSent } }) ∧
  (∀ (s : State) (p : Port) (r : ContactReport) (i : Fin 10), s.wellFormed → (s.portConfig p).cls = .panel →
     (s.port p).state = .free ∨ (s.port p).state = .serving → s.ctl.engine = .running → r.id.toNat = i.val →
     i.val < (s.port p).capability ∨ s.contact p i ≠ .none →
     let port := s.port p
     let x := min 4095 r.x.toNat
     let y := min 4095 r.y.toNat
     let contains (z : Fin 16) : Prop := port.zones[z.val].enabled = true ∧ port.zones[z.val].station ≤ 31 ∧
       port.zones[z.val].x0 ≤ x ∧ x ≤ port.zones[z.val].x1 ∧ port.zones[z.val].y0 ≤ y ∧ y ≤ port.zones[z.val].y1
     let first (z : Fin 16) (st : Station) : Prop :=
       contains z ∧ port.zones[z.val].station = st.val ∧ ∀ w, w < z → ¬ contains w
     let discarded (d : Discards) : Prop := ∃ t, exec (.contactFrame p [r]) s = .next t ∧
       t = { (s.setPort p { port with receiver := .hunting, discards := d }) with mem := t.mem } ∧
       s.discardsShown t p ∧ s.memoryKept t fun a => within (0x40 + p.val * 8) 8 a
     let recorded (t : State) (st : Station) (k : Fin 4) (zone : Nat) : Prop :=
       let key := t.word (mailboxAddress st k + 0x08)
       let position := t.word (mailboxAddress st k + 0x0C)
       (t.mailbox st k).key = some (p, i) ∧ (t.mailbox st k).seq = (s.mailbox st k).seq + 2 ∧
       t.word (mailboxAddress st k) = ((s.mailbox st k).seq + 2).setWidth 32 ∧
       field key 0 4 = i.val ∧ field key 4 4 = p.val ∧ field key 16 8 = zone % 256 ∧
       field position 0 12 = x ∧ field position 12 12 = y ∧ field position 24 8 = r.pressure.toNat
     let downed (t : State) (st : Station) (k : Fin 4) (new : Bool) (zone : Nat) : Prop := recorded t st k zone ∧
       (t.mailbox st k).lifted = false ∧ (t.mailbox st k).events.down = true ∧
       (r.phase = 2 → (t.mailbox st k).synthetic = true) ∧
       (r.phase = 1 → new = true → (t.mailbox st k).synthetic = false) ∧
       t.stations = s.stations ∧ s.memoryKept t fun a => mailboxBytes st a
     (r.phase = 3 → s.contact p i = .none →
       discarded { port.discards with stray := min 65535 (port.discards.stray + 1) }) ∧
     (port.state = .free → r.phase = 1 ∨ r.phase = 2 → s.contact p i = .none →
       ((∀ z, ¬ contains z) → discarded { port.discards with unrouted := min 65535 (port.discards.unrouted + 1) }) ∧
       ∀ z st, first z st →
         ((s.sample st).state = .closed →
           discarded { port.discards with closed := min 65535 (port.discards.closed + 1) }) ∧
         ((s.sample st).state ≠ .closed → ∃ t, exec (.contactFrame p [r]) s = .next t ∧
           (∀ k new, s.chooseRecord st (p, i) = some (k, new) →
             t.contact p i = .zone { station := st, zone := z.val, record := k, x, y, pressure := r.pressure.toNat } ∧
             downed t st k new z.val) ∧
           (s.chooseRecord st (p, i) = none → t.contact p i = .dropped ∧ t.mailboxes = s.mailboxes ∧
             (t.counters st).overflow = min 65535 ((s.counters st).overflow + 1) ∧ t.scoresShown st) ∧
           s.portsKept t [p] ∧ t.slots = s.slots ∧ t.queues = s.queues ∧ t.notice = s.notice)) ∧
     (∀ g k new, port.state = .serving → port.job = some g → r.phase = 1 ∨ r.phase = 2 → s.contact p i = .none →
       s.chooseRecord (stationOf g) (p, i) = some (k, new) → ∃ t, exec (.contactFrame p [r]) s = .next t ∧
         t.contact p i = .hold {
           station := stationOf g, zone := 255, record := k, x, y, pressure := r.pressure.toNat } ∧
         downed t (stationOf g) k new 255 ∧
         t.job g = { s.job g with contactsDelivered := min 65535 ((s.job g).contactsDelivered + 1) } ∧
         s.slotsKept t [g] ∧ s.portsKept t [p]) ∧
     (∀ g, port.state = .serving → port.job = some g → r.phase = 1 ∨ r.phase = 2 → s.contact p i = .none →
       s.chooseRecord (stationOf g) (p, i) = none → ∃ t, exec (.contactFrame p [r]) s = .next t ∧
         t.contact p i = .dropped ∧ t.mailboxes = s.mailboxes ∧ t.slots = s.slots ∧ t.notice = s.notice ∧
         (t.counters (stationOf g)).overflow = min 65535 ((s.counters (stationOf g)).overflow + 1) ∧
         t.scoresShown (stationOf g) ∧
         s.stationsKept t [stationOf g] ∧ s.portsKept t [p]) ∧
     (∀ c, r.phase = 3 → s.contact p i = .zone c ∨ s.contact p i = .hold c → ∃ t, exec (.contactFrame p [r]) s = .next t ∧
       t.contact p i = .none ∧ recorded t c.station c.record c.zone ∧ (t.mailbox c.station c.record).lifted = true ∧
       (t.mailbox c.station c.record).events.up = true ∧ t.slots = s.slots ∧ s.portsKept t [p] ∧
       s.memoryKept t fun a => mailboxBytes c.station a) ∧
     (∀ c, r.phase = 2 → s.contact p i = .zone c ∨ s.contact p i = .hold c → ∃ t, exec (.contactFrame p [r]) s = .next t ∧
       t.contact p i = (match s.contact p i with
         | .hold _ => .hold { c with x, y, pressure := r.pressure.toNat }
         | _ => .zone { c with x, y, pressure := r.pressure.toNat }) ∧
       recorded t c.station c.record c.zone ∧ (t.mailbox c.station c.record).events.moved = true ∧
       (t.mailbox c.station c.record).lifted = (s.mailbox c.station c.record).lifted ∧
       t.slots = s.slots ∧ s.portsKept t [p] ∧ t.stationNotice = s.stationNotice ∧
       s.memoryKept t fun a => mailboxBytes c.station a) ∧
     (∀ before : State, r.phase = 1 →
       (∃ c, (s.contact p i = .zone c ∨ s.contact p i = .hold c) ∧ before = s.mailboxWrite c.station c.record false
         { key := (p, i), zone := c.zone, phase := .up, synthetic := true, x := c.x, y := c.y, pressure := 0 }) ∨
       ((s.contact p i = .orphan ∨ s.contact p i = .dropped) ∧ before = s) →
       let ended := before.setPort p { port with contacts := port.contacts.set i.val .none, capability := 10 }
       ∃ t u, exec (.contactFrame p [r]) s = .next t ∧ exec (.contactFrame p [r]) ended = .next u ∧
         t = { (u.setPort p { u.port p with capability := port.capability }) with
           ctl := { u.ctl with messagesSent := t.ctl.messagesSent } }) ∧
     (r.phase = 2 → s.contact p i = .orphan ∨ s.contact p i = .dropped →
       exec (.contactFrame p [r]) s = .next (s.setPort p { port with receiver := .hunting })) ∧
     (r.phase = 3 → s.contact p i = .orphan ∨ s.contact p i = .dropped →
       exec (.contactFrame p [r]) s = .next (s.setPort p { port with
         receiver := .hunting, contacts := port.contacts.set i.val .none })))

/-- A mailbox write: the seq advances by 2, the record's three words hold the new seq, the key with events, flag and zone,
and the position; the events are replaced where the record is newly taken or acknowledged and joined otherwise, to the events
that the part keeps of the record (log entry 11); the ack word and every byte outside those three words are kept, those of the
station's other records among them. The record for a new contact is the one that holds its key, not newly taken; else the
lowest-numbered free one, newly taken; none where no record is free (R170 to R172). -/
def Obligations.MailboxWritesKeepTheAck : Prop :=
  (∀ (s : State) (st : Station) (r : Fin 4) (newlyTaken : Bool) (m : MailReport), s.wellFormed →
     let b := s.mailbox st r
     let replaced : Prop := newlyTaken = true ∨ (s.word (mailboxAddress st r + 0x04)).extractLsb' 0 16 = b.seq
     let t := s.mailboxWrite st r newlyTaken m
     let after := t.mailbox st r
     after.seq = b.seq + 2 ∧ after.key = some m.key ∧
     (m.phase = .up → after.lifted = true) ∧ (m.phase = .down → after.lifted = false) ∧
     (m.phase = .move → after.lifted = b.lifted) ∧
     (after.events.down = true ↔ m.phase = .down ∨ (¬ replaced ∧ b.events.down = true)) ∧
     (after.events.moved = true ↔ m.phase = .move ∨ (¬ replaced ∧ b.events.moved = true)) ∧
     (after.events.up = true ↔ m.phase = .up ∨ (¬ replaced ∧ b.events.up = true)) ∧
     (after.synthetic = true ↔ m.synthetic = true ∨ (¬ replaced ∧ b.synthetic = true)) ∧
     t.word (mailboxAddress st r) = (b.seq + 2).setWidth 32 ∧
     t.word (mailboxAddress st r + 0x04) = s.word (mailboxAddress st r + 0x04) ∧
     (m.x ≤ 4095 → m.y ≤ 4095 → m.pressure ≤ 255 →
       field (t.word (mailboxAddress st r + 0x0C)) 0 12 = m.x ∧ field (t.word (mailboxAddress st r + 0x0C)) 12 12 = m.y ∧
       field (t.word (mailboxAddress st r + 0x0C)) 24 8 = m.pressure) ∧
     field (t.word (mailboxAddress st r + 0x08)) 0 4 = m.key.2.val ∧
     field (t.word (mailboxAddress st r + 0x08)) 4 4 = m.key.1.val ∧
     field (t.word (mailboxAddress st r + 0x08)) 16 8 = m.zone % 256 ∧
     (t.word (mailboxAddress st r + 0x08)).getLsbD 8 = true ∧
     (t.word (mailboxAddress st r + 0x08)).getLsbD 9 = after.events.down ∧
     (t.word (mailboxAddress st r + 0x08)).getLsbD 10 = after.events.moved ∧
     (t.word (mailboxAddress st r + 0x08)).getLsbD 11 = after.events.up ∧
     (t.word (mailboxAddress st r + 0x08)).getLsbD 12 = after.synthetic ∧
     field (t.word (mailboxAddress st r + 0x08)) 13 3 = 0 ∧ field (t.word (mailboxAddress st r + 0x08)) 24 8 = 0 ∧
     (∀ st' r', (st', r') ≠ (st, r) → t.mailbox st' r' = s.mailbox st' r') ∧
     (s.memoryKept t fun a => within (mailboxAddress st r) 4 a ∨ within (mailboxAddress st r + 0x08) 8 a) ∧
     t = { s with mem := t.mem, mailboxes := t.mailboxes, stationNotice := t.stationNotice }) ∧
  (∀ (s : State) (st : Station) (key : Port × Fin 10),
     let holds (r : Fin 4) : Prop := (s.mailbox st r).key = some key
     let free (r : Fin 4) : Prop := (s.mailbox st r).key = none ∨ ((s.mailbox st r).lifted = true ∧
       (s.word (mailboxAddress st r + 0x04)).extractLsb' 0 16 = (s.mailbox st r).seq)
     (∀ r, holds r → ∃ k, holds k ∧ s.chooseRecord st key = some (k, false)) ∧
     (∀ r, (∀ k, ¬ holds k) → free r → (∀ k, k < r → ¬ free k) → s.chooseRecord st key = some (r, true)) ∧
     ((∀ k, ¬ holds k) → (∀ k, ¬ free k) → s.chooseRecord st key = none))

/-- A mailbox write gains DOWN or UP where its report's phase is that and the write replaces the events or they did not hold
it, synthetic or not; a gain sets the station's STATION_NOTICE bit in the same event where the notify flag is set; MOVED, a
write that gains nothing and a clearing write set none (R173). -/
def Obligations.MailboxGainsSetTheNotice : Prop :=
  ∀ (s : State) (st : Station) (r : Fin 4) (newlyTaken : Bool) (m : MailReport),
    let b := s.mailbox st r
    let replaced : Prop := newlyTaken = true ∨ (s.word (mailboxAddress st r + 0x04)).extractLsb' 0 16 = b.seq
    let gained : Prop := (m.phase = .down ∧ (replaced ∨ b.events.down = false)) ∨
      (m.phase = .up ∧ (replaced ∨ b.events.up = false))
    (gained → (s.sample st).notify = true →
      (s.mailboxWrite st r newlyTaken m).stationNotice = s.stationNotice ||| stationMask st) ∧
    (¬ gained ∨ (s.sample st).notify = false →
      (s.mailboxWrite st r newlyTaken m).stationNotice = s.stationNotice) ∧
    (m.phase = .move → ¬ gained) ∧ (s.clearMailbox st r).stationNotice = s.stationNotice
end

