-- ==== Sys2Proof/Laws/Memory.lean ====
section
/-! SUPPORT. Exchange memory: every write keeps the canonical form, a read after a write gives the byte written, and a
write leaves every other byte alone. -/

namespace Sys2Proof.Machine

/-! ### The canonical form -/

theorem risingFrom_mono {low low' : Nat} (h : low' ≤ low) {m : Memory} (hm : risingFrom low m = true) :
    risingFrom low' m = true := by
  cases m with
  | nil => rfl
  | cons c rest =>
    obtain ⟨k, v⟩ := c
    simp only [risingFrom, Bool.and_eq_true, decide_eq_true_eq] at hm ⊢
    exact ⟨⟨⟨by omega, hm.1.1.2⟩, hm.1.2⟩, hm.2⟩

theorem risingFrom_insertByte {m : Memory} {low a : Nat} {b : Byte} (hm : risingFrom low m = true) (hl : low ≤ a)
    (ha : a < Config.exchangeBytes) : risingFrom low (insertByte m a b) = true := by
  induction m generalizing low with
  | nil =>
    unfold insertByte
    split
    · rfl
    · simp_all [risingFrom]
  | cons c rest ih =>
    obtain ⟨k, v⟩ := c
    have hm' := hm
    simp only [risingFrom, Bool.and_eq_true, decide_eq_true_eq] at hm
    unfold insertByte
    split
    · split
      · exact hm'
      · simp only [risingFrom, Bool.and_eq_true, decide_eq_true_eq]
        exact ⟨⟨⟨hl, ‹_›⟩, ha⟩, ⟨⟨by omega, hm.1.1.2⟩, hm.1.2⟩, hm.2⟩
    · split
      · split
        · exact risingFrom_mono (by omega) hm.2
        · simp only [risingFrom, Bool.and_eq_true, decide_eq_true_eq]
          exact ⟨⟨⟨hl, ‹_›⟩, ha⟩, by simp_all⟩
      · simp only [risingFrom, Bool.and_eq_true, decide_eq_true_eq]
        exact ⟨hm.1, ih hm.2 (by omega)⟩

theorem Memory.wf_writeByte {m : Memory} (h : Memory.wf m = true) (a : Nat) (b : Byte) :
    Memory.wf (writeByte m a b) = true := by
  unfold writeByte
  split
  · exact risingFrom_insertByte h (Nat.zero_le a) ‹_›
  · exact h

theorem Memory.wf_writeWord {m : Memory} (h : Memory.wf m = true) (a : Nat) (w : Word) :
    Memory.wf (writeWord m a w) = true :=
  Memory.wf_writeByte (Memory.wf_writeByte (Memory.wf_writeByte (Memory.wf_writeByte h _ _) _ _) _ _) _ _

theorem Memory.wf_rewriteWord {m : Memory} (h : Memory.wf m = true) (a : Nat) (old new : Word) :
    Memory.wf (rewriteWord m a old new) = true := by
  unfold rewriteWord
  split
  · exact h
  · exact Memory.wf_writeWord h _ _

theorem Memory.wf_writeWords {m : Memory} (h : Memory.wf m = true) (a : Nat) (words : List (Nat × Word)) :
    Memory.wf (writeWords m a words) = true := by
  unfold writeWords
  induction words generalizing m with
  | nil => exact h
  | cons w rest ih => exact ih (Memory.wf_writeWord h _ _)

theorem Memory.wf_rewriteWords {m : Memory} (h : Memory.wf m = true) (a : Nat) (old new : List (Nat × Word)) :
    Memory.wf (rewriteWords m a old new) = true := by
  unfold rewriteWords
  induction old.zip new generalizing m with
  | nil => exact h
  | cons w rest ih => exact ih (Memory.wf_rewriteWord h _ _ _)

theorem Memory.wf_nil : Memory.wf [] = true := rfl

theorem Memory.wf_memoryOf (bytes : List (Nat × Byte)) : Memory.wf (memoryOf bytes) = true := by
  have step : ∀ (l : List (Nat × Byte)) (m : Memory), Memory.wf m = true →
      Memory.wf (l.foldl (fun m c => writeByte m c.1 c.2) m) = true := by
    intro l
    induction l with
    | nil => exact fun _ h => h
    | cons c rest ih => exact fun m h => ih _ (Memory.wf_writeByte h _ _)
  exact step bytes [] rfl

/-! ### Bytes -/

theorem readByte_of_lt {m : Memory} {low a : Nat} (hm : risingFrom low m = true) (ha : a < low) : readByte m a = 0 := by
  induction m generalizing low with
  | nil => rfl
  | cons c rest ih =>
    obtain ⟨k, v⟩ := c
    simp only [risingFrom, Bool.and_eq_true, decide_eq_true_eq] at hm
    unfold readByte
    rw [if_neg (by omega)]
    exact ih hm.2 (by omega)

theorem readByte_of_ge {m : Memory} {low a : Nat} (hm : risingFrom low m = true) (ha : Config.exchangeBytes ≤ a) :
    readByte m a = 0 := by
  induction m generalizing low with
  | nil => rfl
  | cons c rest ih =>
    obtain ⟨k, v⟩ := c
    simp only [risingFrom, Bool.and_eq_true, decide_eq_true_eq] at hm
    unfold readByte
    rw [if_neg (by omega)]
    exact ih hm.2

theorem readByte_insertByte {m : Memory} {low : Nat} (hm : risingFrom low m = true) (a : Nat) (b : Byte) (x : Nat) :
    readByte (insertByte m a b) x = if x = a then b else readByte m x := by
  induction m generalizing low with
  | nil =>
    unfold insertByte
    split
    · simp [readByte, ‹b = 0›]
    · simp only [readByte]
      by_cases hx : x = a
      · rw [if_pos hx, if_pos hx.symm]
      · rw [if_neg hx, if_neg fun e => hx e.symm]
  | cons c rest ih =>
    obtain ⟨k, v⟩ := c
    simp only [risingFrom, Bool.and_eq_true, decide_eq_true_eq] at hm
    unfold insertByte
    split
    · split
      · by_cases hx : x = a
        · subst hx
          rw [if_pos rfl, ‹b = 0›]
          unfold readByte
          rw [if_neg (by omega)]
          exact readByte_of_lt hm.2 (by omega)
        · rw [if_neg hx]
      · by_cases hx : x = a
        · subst hx; simp [readByte]
        · rw [if_neg hx]; conv_lhs => unfold readByte
          rw [if_neg (fun e => hx e.symm)]
    · split
      · subst a
        split
        · by_cases hx : x = k
          · subst hx
            rw [if_pos rfl, ‹b = 0›]
            exact readByte_of_lt hm.2 (by omega)
          · rw [if_neg hx]; conv_rhs => unfold readByte
            rw [if_neg (fun e => hx e.symm)]
        · by_cases hx : x = k
          · subst hx; simp [readByte]
          · rw [if_neg hx]
            unfold readByte
            rw [if_neg (fun e => hx e.symm), if_neg (fun e => hx e.symm)]
      · unfold readByte
        by_cases hk : k = x
        · rw [if_pos hk, if_neg (by omega), if_pos hk]
        · rw [if_neg hk, if_neg hk]
          exact ih hm.2

/-- A read after a write gives the byte written, and every other byte reads as before. -/
theorem readByte_writeByte {m : Memory} (h : Memory.wf m = true) {a : Nat} (ha : a < Config.exchangeBytes) (b : Byte)
    (x : Nat) : readByte (writeByte m a b) x = if x = a then b else readByte m x := by
  unfold writeByte
  rw [if_pos ha]
  exact readByte_insertByte h a b x

theorem readByte_writeByte_ne {m : Memory} (h : Memory.wf m = true) {a x : Nat} (hx : x ≠ a) (b : Byte) :
    readByte (writeByte m a b) x = readByte m x := by
  unfold writeByte
  split
  · rw [readByte_insertByte h, if_neg hx]
  · rfl

/-! ### Words -/

/-- A byte outside the word written reads as before. -/
theorem readByte_writeWord_ne {m : Memory} (h : Memory.wf m = true) {a x : Nat} (hx : x < a ∨ a + 4 ≤ x) (w : Word) :
    readByte (writeWord m a w) x = readByte m x := by
  have h1 := Memory.wf_writeByte h a (w.extractLsb' 0 8)
  have h2 := Memory.wf_writeByte h1 (a + 1) (w.extractLsb' 8 8)
  have h3 := Memory.wf_writeByte h2 (a + 2) (w.extractLsb' 16 8)
  unfold writeWord
  rw [readByte_writeByte_ne h3 (by omega), readByte_writeByte_ne h2 (by omega), readByte_writeByte_ne h1 (by omega),
    readByte_writeByte_ne h (by omega)]

theorem word_of_bytes (w : Word) :
    w.extractLsb' 24 8 ++ w.extractLsb' 16 8 ++ w.extractLsb' 8 8 ++ w.extractLsb' 0 8 = w := by
  apply BitVec.eq_of_getLsbD_eq
  intro i hi
  simp only [BitVec.getLsbD_append, BitVec.getLsbD_extractLsb']
  by_cases h8 : i < 8
  · simp [h8]
  · by_cases h16 : i - 8 < 8
    · simp [h8, h16]; congr 1; omega
    · by_cases h24 : i - 8 - 8 < 8
      · simp [h8, h16, h24]; congr 1; omega
      · have : i - 8 - 8 - 8 < 8 := by omega
        simp [h8, h16, h24, this]; congr 1; omega

/-- A word read after it is written. -/
theorem readWord_writeWord {m : Memory} (h : Memory.wf m = true) {a : Nat} (ha : a + 3 < Config.exchangeBytes) (w : Word) :
    readWord (writeWord m a w) a = w := by
  have h1 := Memory.wf_writeByte h a (w.extractLsb' 0 8)
  have h2 := Memory.wf_writeByte h1 (a + 1) (w.extractLsb' 8 8)
  have h3 := Memory.wf_writeByte h2 (a + 2) (w.extractLsb' 16 8)
  unfold readWord writeWord
  rw [readByte_writeByte h3 ha, if_pos rfl]
  rw [readByte_writeByte_ne h3 (by omega), readByte_writeByte h2 (by omega), if_pos rfl]
  rw [readByte_writeByte_ne h3 (by omega), readByte_writeByte_ne h2 (by omega), readByte_writeByte h1 (by omega), if_pos rfl]
  rw [readByte_writeByte_ne h3 (by omega), readByte_writeByte_ne h2 (by omega), readByte_writeByte_ne h1 (by omega),
    readByte_writeByte h (by omega), if_pos rfl]
  exact word_of_bytes w

/-- A word that a write does not overlap reads as before. -/
theorem readWord_writeWord_ne {m : Memory} (h : Memory.wf m = true) {a x : Nat} (hx : x + 4 ≤ a ∨ a + 4 ≤ x) (w : Word) :
    readWord (writeWord m a w) x = readWord m x := by
  unfold readWord
  rw [readByte_writeWord_ne h (by omega), readByte_writeWord_ne h (by omega), readByte_writeWord_ne h (by omega),
    readByte_writeWord_ne h (by omega)]

/-- A word after it is rewritten: the new value where that differs from the old one, else what it was. -/
theorem readWord_rewriteWord {m : Memory} (h : Memory.wf m = true) {a : Nat} (ha : a + 3 < Config.exchangeBytes)
    (old new : Word) : readWord (rewriteWord m a old new) a = if old = new then readWord m a else new := by
  unfold rewriteWord
  split
  · rfl
  · exact readWord_writeWord h ha new

/-- A word that a rewriting does not overlap reads as before. -/
theorem readWord_rewriteWord_ne {m : Memory} (h : Memory.wf m = true) {a x : Nat} (hx : x + 4 ≤ a ∨ a + 4 ≤ x)
    (old new : Word) : readWord (rewriteWord m a old new) x = readWord m x := by
  unfold rewriteWord
  split
  · rfl
  · exact readWord_writeWord_ne h hx new

/-- Memories in canonical form that read alike are equal. -/
theorem Memory.ext_readByte {m n : Memory} {low : Nat} (hm : risingFrom low m = true) (hn : risingFrom low n = true)
    (h : ∀ a, readByte m a = readByte n a) : m = n := by
  induction m generalizing n low with
  | nil =>
    cases n with
    | nil => rfl
    | cons c rest =>
      obtain ⟨k, v⟩ := c
      simp only [risingFrom, Bool.and_eq_true, decide_eq_true_eq] at hn
      have := h k
      simp [readByte] at this
      exact absurd this.symm hn.1.1.2
  | cons c rest ih =>
    obtain ⟨k, v⟩ := c
    have hm' := hm
    simp only [risingFrom, Bool.and_eq_true, decide_eq_true_eq] at hm
    cases n with
    | nil =>
      have := h k
      simp [readByte] at this
      exact absurd this hm.1.1.2
    | cons d rest' =>
      obtain ⟨k', v'⟩ := d
      have hn' := hn
      simp only [risingFrom, Bool.and_eq_true, decide_eq_true_eq] at hn
      have hk : k = k' := by
        rcases Nat.lt_trichotomy k k' with hlt | heq | hgt
        · have hz : readByte ((k', v') :: rest') k = 0 := by
            unfold readByte; rw [if_neg (by omega)]; exact readByte_of_lt hn.2 (by omega)
          have := h k
          rw [hz] at this
          simp [readByte] at this
          exact absurd this hm.1.1.2
        · exact heq
        · have hz : readByte ((k, v) :: rest) k' = 0 := by
            unfold readByte; rw [if_neg (by omega)]; exact readByte_of_lt hm.2 (by omega)
          have := h k'
          rw [hz] at this
          simp [readByte] at this
          exact absurd this.symm hn.1.1.2
      subst hk
      have hv : v = v' := by simpa [readByte] using h k
      subst hv
      have : rest = rest' := by
        apply ih hm.2 hn.2
        intro a
        by_cases ha : k = a
        · subst ha
          rw [readByte_of_lt hm.2 (by omega), readByte_of_lt hn.2 (by omega)]
        · have := h a
          unfold readByte at this
          rwa [if_neg ha, if_neg ha] at this
      rw [this]

end Sys2Proof.Machine
end

