-- ==== Sys2Proof/Laws/State.lean ====
section
/-! SUPPORT. One lemma for each field that a named operation leaves alone, and the reads after the writes of
Machine/Ops.lean. -/

namespace Sys2Proof.Machine

variable (s : State)

/-! ### putWord -/

@[simp] theorem State.putWord_ctl (a : Nat) (w : Word) : (s.putWord a w).ctl = s.ctl := rfl
@[simp] theorem State.putWord_notice (a : Nat) (w : Word) : (s.putWord a w).notice = s.notice := rfl
@[simp] theorem State.putWord_stationNotice (a : Nat) (w : Word) : (s.putWord a w).stationNotice = s.stationNotice := rfl
@[simp] theorem State.putWord_slots (a : Nat) (w : Word) : (s.putWord a w).slots = s.slots := rfl
@[simp] theorem State.putWord_queues (a : Nat) (w : Word) : (s.putWord a w).queues = s.queues := rfl
@[simp] theorem State.putWord_deadlines (a : Nat) (w : Word) : (s.putWord a w).deadlines = s.deadlines := rfl
@[simp] theorem State.putWord_stats (a : Nat) (w : Word) : (s.putWord a w).stats = s.stats := rfl
@[simp] theorem State.putWord_stations (a : Nat) (w : Word) : (s.putWord a w).stations = s.stations := rfl
@[simp] theorem State.putWord_ports (a : Nat) (w : Word) : (s.putWord a w).ports = s.ports := rfl
@[simp] theorem State.putWord_marks (a : Nat) (w : Word) : (s.putWord a w).marks = s.marks := rfl
@[simp] theorem State.putWord_spare (a : Nat) (w : Word) : (s.putWord a w).spare = s.spare := rfl
@[simp] theorem State.putWord_mailboxes (a : Nat) (w : Word) : (s.putWord a w).mailboxes = s.mailboxes := rfl
@[simp] theorem State.putWord_free (a : Nat) (w : Word) : (s.putWord a w).free = s.free := rfl
@[simp] theorem State.putWord_pending (a : Nat) (w : Word) : (s.putWord a w).pending = s.pending := rfl

/-! ### remirror -/

@[simp] theorem State.remirror_ctl (a : Nat) (old new : Word) : (s.remirror a old new).ctl = s.ctl := rfl
@[simp] theorem State.remirror_notice (a : Nat) (old new : Word) : (s.remirror a old new).notice = s.notice := rfl
@[simp] theorem State.remirror_stationNotice (a : Nat) (old new : Word) : (s.remirror a old new).stationNotice = s.stationNotice := rfl
@[simp] theorem State.remirror_slots (a : Nat) (old new : Word) : (s.remirror a old new).slots = s.slots := rfl
@[simp] theorem State.remirror_queues (a : Nat) (old new : Word) : (s.remirror a old new).queues = s.queues := rfl
@[simp] theorem State.remirror_deadlines (a : Nat) (old new : Word) : (s.remirror a old new).deadlines = s.deadlines := rfl
@[simp] theorem State.remirror_stats (a : Nat) (old new : Word) : (s.remirror a old new).stats = s.stats := rfl
@[simp] theorem State.remirror_stations (a : Nat) (old new : Word) : (s.remirror a old new).stations = s.stations := rfl
@[simp] theorem State.remirror_ports (a : Nat) (old new : Word) : (s.remirror a old new).ports = s.ports := rfl
@[simp] theorem State.remirror_marks (a : Nat) (old new : Word) : (s.remirror a old new).marks = s.marks := rfl
@[simp] theorem State.remirror_spare (a : Nat) (old new : Word) : (s.remirror a old new).spare = s.spare := rfl
@[simp] theorem State.remirror_mailboxes (a : Nat) (old new : Word) : (s.remirror a old new).mailboxes = s.mailboxes := rfl
@[simp] theorem State.remirror_free (a : Nat) (old new : Word) : (s.remirror a old new).free = s.free := rfl
@[simp] theorem State.remirror_pending (a : Nat) (old new : Word) : (s.remirror a old new).pending = s.pending := rfl

/-! ### remirrorAll -/

@[simp] theorem State.remirrorAll_ctl (a : Nat) (old new : List (Nat × Word)) : (s.remirrorAll a old new).ctl = s.ctl := rfl
@[simp] theorem State.remirrorAll_notice (a : Nat) (old new : List (Nat × Word)) : (s.remirrorAll a old new).notice = s.notice := rfl
@[simp] theorem State.remirrorAll_stationNotice (a : Nat) (old new : List (Nat × Word)) : (s.remirrorAll a old new).stationNotice = s.stationNotice := rfl
@[simp] theorem State.remirrorAll_slots (a : Nat) (old new : List (Nat × Word)) : (s.remirrorAll a old new).slots = s.slots := rfl
@[simp] theorem State.remirrorAll_queues (a : Nat) (old new : List (Nat × Word)) : (s.remirrorAll a old new).queues = s.queues := rfl
@[simp] theorem State.remirrorAll_deadlines (a : Nat) (old new : List (Nat × Word)) : (s.remirrorAll a old new).deadlines = s.deadlines := rfl
@[simp] theorem State.remirrorAll_stats (a : Nat) (old new : List (Nat × Word)) : (s.remirrorAll a old new).stats = s.stats := rfl
@[simp] theorem State.remirrorAll_stations (a : Nat) (old new : List (Nat × Word)) : (s.remirrorAll a old new).stations = s.stations := rfl
@[simp] theorem State.remirrorAll_ports (a : Nat) (old new : List (Nat × Word)) : (s.remirrorAll a old new).ports = s.ports := rfl
@[simp] theorem State.remirrorAll_marks (a : Nat) (old new : List (Nat × Word)) : (s.remirrorAll a old new).marks = s.marks := rfl
@[simp] theorem State.remirrorAll_spare (a : Nat) (old new : List (Nat × Word)) : (s.remirrorAll a old new).spare = s.spare := rfl
@[simp] theorem State.remirrorAll_mailboxes (a : Nat) (old new : List (Nat × Word)) : (s.remirrorAll a old new).mailboxes = s.mailboxes := rfl
@[simp] theorem State.remirrorAll_free (a : Nat) (old new : List (Nat × Word)) : (s.remirrorAll a old new).free = s.free := rfl
@[simp] theorem State.remirrorAll_pending (a : Nat) (old new : List (Nat × Word)) : (s.remirrorAll a old new).pending = s.pending := rfl

/-! ### putWords -/

@[simp] theorem State.putWords_ctl (a : Nat) (words : List (Nat × Word)) : (s.putWords a words).ctl = s.ctl := rfl
@[simp] theorem State.putWords_notice (a : Nat) (words : List (Nat × Word)) : (s.putWords a words).notice = s.notice := rfl
@[simp] theorem State.putWords_stationNotice (a : Nat) (words : List (Nat × Word)) : (s.putWords a words).stationNotice = s.stationNotice := rfl
@[simp] theorem State.putWords_slots (a : Nat) (words : List (Nat × Word)) : (s.putWords a words).slots = s.slots := rfl
@[simp] theorem State.putWords_queues (a : Nat) (words : List (Nat × Word)) : (s.putWords a words).queues = s.queues := rfl
@[simp] theorem State.putWords_deadlines (a : Nat) (words : List (Nat × Word)) : (s.putWords a words).deadlines = s.deadlines := rfl
@[simp] theorem State.putWords_stats (a : Nat) (words : List (Nat × Word)) : (s.putWords a words).stats = s.stats := rfl
@[simp] theorem State.putWords_stations (a : Nat) (words : List (Nat × Word)) : (s.putWords a words).stations = s.stations := rfl
@[simp] theorem State.putWords_ports (a : Nat) (words : List (Nat × Word)) : (s.putWords a words).ports = s.ports := rfl
@[simp] theorem State.putWords_marks (a : Nat) (words : List (Nat × Word)) : (s.putWords a words).marks = s.marks := rfl
@[simp] theorem State.putWords_spare (a : Nat) (words : List (Nat × Word)) : (s.putWords a words).spare = s.spare := rfl
@[simp] theorem State.putWords_mailboxes (a : Nat) (words : List (Nat × Word)) : (s.putWords a words).mailboxes = s.mailboxes := rfl
@[simp] theorem State.putWords_free (a : Nat) (words : List (Nat × Word)) : (s.putWords a words).free = s.free := rfl
@[simp] theorem State.putWords_pending (a : Nat) (words : List (Nat × Word)) : (s.putWords a words).pending = s.pending := rfl

/-! ### putByte -/

@[simp] theorem State.putByte_ctl (a : Nat) (b : Byte) : (s.putByte a b).ctl = s.ctl := rfl
@[simp] theorem State.putByte_notice (a : Nat) (b : Byte) : (s.putByte a b).notice = s.notice := rfl
@[simp] theorem State.putByte_stationNotice (a : Nat) (b : Byte) : (s.putByte a b).stationNotice = s.stationNotice := rfl
@[simp] theorem State.putByte_slots (a : Nat) (b : Byte) : (s.putByte a b).slots = s.slots := rfl
@[simp] theorem State.putByte_queues (a : Nat) (b : Byte) : (s.putByte a b).queues = s.queues := rfl
@[simp] theorem State.putByte_deadlines (a : Nat) (b : Byte) : (s.putByte a b).deadlines = s.deadlines := rfl
@[simp] theorem State.putByte_stats (a : Nat) (b : Byte) : (s.putByte a b).stats = s.stats := rfl
@[simp] theorem State.putByte_stations (a : Nat) (b : Byte) : (s.putByte a b).stations = s.stations := rfl
@[simp] theorem State.putByte_ports (a : Nat) (b : Byte) : (s.putByte a b).ports = s.ports := rfl
@[simp] theorem State.putByte_marks (a : Nat) (b : Byte) : (s.putByte a b).marks = s.marks := rfl
@[simp] theorem State.putByte_spare (a : Nat) (b : Byte) : (s.putByte a b).spare = s.spare := rfl
@[simp] theorem State.putByte_mailboxes (a : Nat) (b : Byte) : (s.putByte a b).mailboxes = s.mailboxes := rfl
@[simp] theorem State.putByte_free (a : Nat) (b : Byte) : (s.putByte a b).free = s.free := rfl
@[simp] theorem State.putByte_pending (a : Nat) (b : Byte) : (s.putByte a b).pending = s.pending := rfl

/-! ### setControl -/

@[simp] theorem State.setControl_mem (f : Control → Control) : (s.setControl f).mem = s.mem := rfl
@[simp] theorem State.setControl_notice (f : Control → Control) : (s.setControl f).notice = s.notice := rfl
@[simp] theorem State.setControl_stationNotice (f : Control → Control) : (s.setControl f).stationNotice = s.stationNotice := rfl
@[simp] theorem State.setControl_slots (f : Control → Control) : (s.setControl f).slots = s.slots := rfl
@[simp] theorem State.setControl_queues (f : Control → Control) : (s.setControl f).queues = s.queues := rfl
@[simp] theorem State.setControl_deadlines (f : Control → Control) : (s.setControl f).deadlines = s.deadlines := rfl
@[simp] theorem State.setControl_stats (f : Control → Control) : (s.setControl f).stats = s.stats := rfl
@[simp] theorem State.setControl_stations (f : Control → Control) : (s.setControl f).stations = s.stations := rfl
@[simp] theorem State.setControl_ports (f : Control → Control) : (s.setControl f).ports = s.ports := rfl
@[simp] theorem State.setControl_marks (f : Control → Control) : (s.setControl f).marks = s.marks := rfl
@[simp] theorem State.setControl_spare (f : Control → Control) : (s.setControl f).spare = s.spare := rfl
@[simp] theorem State.setControl_mailboxes (f : Control → Control) : (s.setControl f).mailboxes = s.mailboxes := rfl
@[simp] theorem State.setControl_free (f : Control → Control) : (s.setControl f).free = s.free := rfl
@[simp] theorem State.setControl_pending (f : Control → Control) : (s.setControl f).pending = s.pending := rfl

/-! ### setNotice -/

@[simp] theorem State.setNotice_ctl (b : NoticeBit) : (s.setNotice b).ctl = s.ctl := rfl
@[simp] theorem State.setNotice_mem (b : NoticeBit) : (s.setNotice b).mem = s.mem := rfl
@[simp] theorem State.setNotice_stationNotice (b : NoticeBit) : (s.setNotice b).stationNotice = s.stationNotice := rfl
@[simp] theorem State.setNotice_slots (b : NoticeBit) : (s.setNotice b).slots = s.slots := rfl
@[simp] theorem State.setNotice_queues (b : NoticeBit) : (s.setNotice b).queues = s.queues := rfl
@[simp] theorem State.setNotice_deadlines (b : NoticeBit) : (s.setNotice b).deadlines = s.deadlines := rfl
@[simp] theorem State.setNotice_stats (b : NoticeBit) : (s.setNotice b).stats = s.stats := rfl
@[simp] theorem State.setNotice_stations (b : NoticeBit) : (s.setNotice b).stations = s.stations := rfl
@[simp] theorem State.setNotice_ports (b : NoticeBit) : (s.setNotice b).ports = s.ports := rfl
@[simp] theorem State.setNotice_marks (b : NoticeBit) : (s.setNotice b).marks = s.marks := rfl
@[simp] theorem State.setNotice_spare (b : NoticeBit) : (s.setNotice b).spare = s.spare := rfl
@[simp] theorem State.setNotice_mailboxes (b : NoticeBit) : (s.setNotice b).mailboxes = s.mailboxes := rfl
@[simp] theorem State.setNotice_free (b : NoticeBit) : (s.setNotice b).free = s.free := rfl
@[simp] theorem State.setNotice_pending (b : NoticeBit) : (s.setNotice b).pending = s.pending := rfl

/-! ### setStationNotice -/

@[simp] theorem State.setStationNotice_ctl (st : Station) : (s.setStationNotice st).ctl = s.ctl := rfl
@[simp] theorem State.setStationNotice_mem (st : Station) : (s.setStationNotice st).mem = s.mem := rfl
@[simp] theorem State.setStationNotice_notice (st : Station) : (s.setStationNotice st).notice = s.notice := rfl
@[simp] theorem State.setStationNotice_slots (st : Station) : (s.setStationNotice st).slots = s.slots := rfl
@[simp] theorem State.setStationNotice_queues (st : Station) : (s.setStationNotice st).queues = s.queues := rfl
@[simp] theorem State.setStationNotice_deadlines (st : Station) : (s.setStationNotice st).deadlines = s.deadlines := rfl
@[simp] theorem State.setStationNotice_stats (st : Station) : (s.setStationNotice st).stats = s.stats := rfl
@[simp] theorem State.setStationNotice_stations (st : Station) : (s.setStationNotice st).stations = s.stations := rfl
@[simp] theorem State.setStationNotice_ports (st : Station) : (s.setStationNotice st).ports = s.ports := rfl
@[simp] theorem State.setStationNotice_marks (st : Station) : (s.setStationNotice st).marks = s.marks := rfl
@[simp] theorem State.setStationNotice_spare (st : Station) : (s.setStationNotice st).spare = s.spare := rfl
@[simp] theorem State.setStationNotice_mailboxes (st : Station) : (s.setStationNotice st).mailboxes = s.mailboxes := rfl
@[simp] theorem State.setStationNotice_free (st : Station) : (s.setStationNotice st).free = s.free := rfl
@[simp] theorem State.setStationNotice_pending (st : Station) : (s.setStationNotice st).pending = s.pending := rfl

/-! ### setCounters -/

@[simp] theorem State.setCounters_ctl (st : Station) (c : StationCounters) : (s.setCounters st c).ctl = s.ctl := rfl
@[simp] theorem State.setCounters_mem (st : Station) (c : StationCounters) : (s.setCounters st c).mem = s.mem := rfl
@[simp] theorem State.setCounters_notice (st : Station) (c : StationCounters) : (s.setCounters st c).notice = s.notice := rfl
@[simp] theorem State.setCounters_stationNotice (st : Station) (c : StationCounters) : (s.setCounters st c).stationNotice = s.stationNotice := rfl
@[simp] theorem State.setCounters_slots (st : Station) (c : StationCounters) : (s.setCounters st c).slots = s.slots := rfl
@[simp] theorem State.setCounters_queues (st : Station) (c : StationCounters) : (s.setCounters st c).queues = s.queues := rfl
@[simp] theorem State.setCounters_deadlines (st : Station) (c : StationCounters) : (s.setCounters st c).deadlines = s.deadlines := rfl
@[simp] theorem State.setCounters_stats (st : Station) (c : StationCounters) : (s.setCounters st c).stats = s.stats := rfl
@[simp] theorem State.setCounters_ports (st : Station) (c : StationCounters) : (s.setCounters st c).ports = s.ports := rfl
@[simp] theorem State.setCounters_marks (st : Station) (c : StationCounters) : (s.setCounters st c).marks = s.marks := rfl
@[simp] theorem State.setCounters_spare (st : Station) (c : StationCounters) : (s.setCounters st c).spare = s.spare := rfl
@[simp] theorem State.setCounters_mailboxes (st : Station) (c : StationCounters) : (s.setCounters st c).mailboxes = s.mailboxes := rfl
@[simp] theorem State.setCounters_free (st : Station) (c : StationCounters) : (s.setCounters st c).free = s.free := rfl
@[simp] theorem State.setCounters_pending (st : Station) (c : StationCounters) : (s.setCounters st c).pending = s.pending := rfl

/-! ### updateCounters -/

@[simp] theorem State.updateCounters_ctl (st : Station) (k : CounterPair) (f : StationCounters → StationCounters) : (s.updateCounters st k f).ctl = s.ctl := rfl
@[simp] theorem State.updateCounters_notice (st : Station) (k : CounterPair) (f : StationCounters → StationCounters) : (s.updateCounters st k f).notice = s.notice := rfl
@[simp] theorem State.updateCounters_stationNotice (st : Station) (k : CounterPair) (f : StationCounters → StationCounters) : (s.updateCounters st k f).stationNotice = s.stationNotice := rfl
@[simp] theorem State.updateCounters_slots (st : Station) (k : CounterPair) (f : StationCounters → StationCounters) : (s.updateCounters st k f).slots = s.slots := rfl
@[simp] theorem State.updateCounters_queues (st : Station) (k : CounterPair) (f : StationCounters → StationCounters) : (s.updateCounters st k f).queues = s.queues := rfl
@[simp] theorem State.updateCounters_deadlines (st : Station) (k : CounterPair) (f : StationCounters → StationCounters) : (s.updateCounters st k f).deadlines = s.deadlines := rfl
@[simp] theorem State.updateCounters_stats (st : Station) (k : CounterPair) (f : StationCounters → StationCounters) : (s.updateCounters st k f).stats = s.stats := rfl
@[simp] theorem State.updateCounters_ports (st : Station) (k : CounterPair) (f : StationCounters → StationCounters) : (s.updateCounters st k f).ports = s.ports := rfl
@[simp] theorem State.updateCounters_marks (st : Station) (k : CounterPair) (f : StationCounters → StationCounters) : (s.updateCounters st k f).marks = s.marks := rfl
@[simp] theorem State.updateCounters_spare (st : Station) (k : CounterPair) (f : StationCounters → StationCounters) : (s.updateCounters st k f).spare = s.spare := rfl
@[simp] theorem State.updateCounters_mailboxes (st : Station) (k : CounterPair) (f : StationCounters → StationCounters) : (s.updateCounters st k f).mailboxes = s.mailboxes := rfl
@[simp] theorem State.updateCounters_free (st : Station) (k : CounterPair) (f : StationCounters → StationCounters) : (s.updateCounters st k f).free = s.free := rfl
@[simp] theorem State.updateCounters_pending (st : Station) (k : CounterPair) (f : StationCounters → StationCounters) : (s.updateCounters st k f).pending = s.pending := rfl

/-! ### clearCounters -/

@[simp] theorem State.clearCounters_ctl (st : Station) : (s.clearCounters st).ctl = s.ctl := rfl
@[simp] theorem State.clearCounters_notice (st : Station) : (s.clearCounters st).notice = s.notice := rfl
@[simp] theorem State.clearCounters_stationNotice (st : Station) : (s.clearCounters st).stationNotice = s.stationNotice := rfl
@[simp] theorem State.clearCounters_slots (st : Station) : (s.clearCounters st).slots = s.slots := rfl
@[simp] theorem State.clearCounters_queues (st : Station) : (s.clearCounters st).queues = s.queues := rfl
@[simp] theorem State.clearCounters_deadlines (st : Station) : (s.clearCounters st).deadlines = s.deadlines := rfl
@[simp] theorem State.clearCounters_stats (st : Station) : (s.clearCounters st).stats = s.stats := rfl
@[simp] theorem State.clearCounters_ports (st : Station) : (s.clearCounters st).ports = s.ports := rfl
@[simp] theorem State.clearCounters_marks (st : Station) : (s.clearCounters st).marks = s.marks := rfl
@[simp] theorem State.clearCounters_spare (st : Station) : (s.clearCounters st).spare = s.spare := rfl
@[simp] theorem State.clearCounters_mailboxes (st : Station) : (s.clearCounters st).mailboxes = s.mailboxes := rfl
@[simp] theorem State.clearCounters_free (st : Station) : (s.clearCounters st).free = s.free := rfl
@[simp] theorem State.clearCounters_pending (st : Station) : (s.clearCounters st).pending = s.pending := rfl

/-! ### setSlot -/

@[simp] theorem State.setSlot_ctl (g : Slot) (x : SlotShadow) : (s.setSlot g x).ctl = s.ctl := rfl
@[simp] theorem State.setSlot_mem (g : Slot) (x : SlotShadow) : (s.setSlot g x).mem = s.mem := rfl
@[simp] theorem State.setSlot_notice (g : Slot) (x : SlotShadow) : (s.setSlot g x).notice = s.notice := rfl
@[simp] theorem State.setSlot_stationNotice (g : Slot) (x : SlotShadow) : (s.setSlot g x).stationNotice = s.stationNotice := rfl
@[simp] theorem State.setSlot_queues (g : Slot) (x : SlotShadow) : (s.setSlot g x).queues = s.queues := rfl
@[simp] theorem State.setSlot_deadlines (g : Slot) (x : SlotShadow) : (s.setSlot g x).deadlines = s.deadlines := rfl
@[simp] theorem State.setSlot_stats (g : Slot) (x : SlotShadow) : (s.setSlot g x).stats = s.stats := rfl
@[simp] theorem State.setSlot_stations (g : Slot) (x : SlotShadow) : (s.setSlot g x).stations = s.stations := rfl
@[simp] theorem State.setSlot_ports (g : Slot) (x : SlotShadow) : (s.setSlot g x).ports = s.ports := rfl
@[simp] theorem State.setSlot_marks (g : Slot) (x : SlotShadow) : (s.setSlot g x).marks = s.marks := rfl
@[simp] theorem State.setSlot_spare (g : Slot) (x : SlotShadow) : (s.setSlot g x).spare = s.spare := rfl
@[simp] theorem State.setSlot_mailboxes (g : Slot) (x : SlotShadow) : (s.setSlot g x).mailboxes = s.mailboxes := rfl
@[simp] theorem State.setSlot_free (g : Slot) (x : SlotShadow) : (s.setSlot g x).free = s.free := rfl
@[simp] theorem State.setSlot_pending (g : Slot) (x : SlotShadow) : (s.setSlot g x).pending = s.pending := rfl

/-! ### updateJob -/

@[simp] theorem State.updateJob_ctl (g : Slot) (f : JobRecord → JobRecord) : (s.updateJob g f).ctl = s.ctl := rfl
@[simp] theorem State.updateJob_mem (g : Slot) (f : JobRecord → JobRecord) : (s.updateJob g f).mem = s.mem := rfl
@[simp] theorem State.updateJob_notice (g : Slot) (f : JobRecord → JobRecord) : (s.updateJob g f).notice = s.notice := rfl
@[simp] theorem State.updateJob_stationNotice (g : Slot) (f : JobRecord → JobRecord) : (s.updateJob g f).stationNotice = s.stationNotice := rfl
@[simp] theorem State.updateJob_queues (g : Slot) (f : JobRecord → JobRecord) : (s.updateJob g f).queues = s.queues := rfl
@[simp] theorem State.updateJob_deadlines (g : Slot) (f : JobRecord → JobRecord) : (s.updateJob g f).deadlines = s.deadlines := rfl
@[simp] theorem State.updateJob_stats (g : Slot) (f : JobRecord → JobRecord) : (s.updateJob g f).stats = s.stats := rfl
@[simp] theorem State.updateJob_stations (g : Slot) (f : JobRecord → JobRecord) : (s.updateJob g f).stations = s.stations := rfl
@[simp] theorem State.updateJob_ports (g : Slot) (f : JobRecord → JobRecord) : (s.updateJob g f).ports = s.ports := rfl
@[simp] theorem State.updateJob_marks (g : Slot) (f : JobRecord → JobRecord) : (s.updateJob g f).marks = s.marks := rfl
@[simp] theorem State.updateJob_spare (g : Slot) (f : JobRecord → JobRecord) : (s.updateJob g f).spare = s.spare := rfl
@[simp] theorem State.updateJob_mailboxes (g : Slot) (f : JobRecord → JobRecord) : (s.updateJob g f).mailboxes = s.mailboxes := rfl
@[simp] theorem State.updateJob_free (g : Slot) (f : JobRecord → JobRecord) : (s.updateJob g f).free = s.free := rfl
@[simp] theorem State.updateJob_pending (g : Slot) (f : JobRecord → JobRecord) : (s.updateJob g f).pending = s.pending := rfl

/-! ### setShadow -/

@[simp] theorem State.setShadow_ctl (g : Slot) (x : SlotState) : (s.setShadow g x).ctl = s.ctl := rfl
@[simp] theorem State.setShadow_mem (g : Slot) (x : SlotState) : (s.setShadow g x).mem = s.mem := rfl
@[simp] theorem State.setShadow_notice (g : Slot) (x : SlotState) : (s.setShadow g x).notice = s.notice := rfl
@[simp] theorem State.setShadow_stationNotice (g : Slot) (x : SlotState) : (s.setShadow g x).stationNotice = s.stationNotice := rfl
@[simp] theorem State.setShadow_queues (g : Slot) (x : SlotState) : (s.setShadow g x).queues = s.queues := rfl
@[simp] theorem State.setShadow_deadlines (g : Slot) (x : SlotState) : (s.setShadow g x).deadlines = s.deadlines := rfl
@[simp] theorem State.setShadow_stats (g : Slot) (x : SlotState) : (s.setShadow g x).stats = s.stats := rfl
@[simp] theorem State.setShadow_stations (g : Slot) (x : SlotState) : (s.setShadow g x).stations = s.stations := rfl
@[simp] theorem State.setShadow_ports (g : Slot) (x : SlotState) : (s.setShadow g x).ports = s.ports := rfl
@[simp] theorem State.setShadow_marks (g : Slot) (x : SlotState) : (s.setShadow g x).marks = s.marks := rfl
@[simp] theorem State.setShadow_spare (g : Slot) (x : SlotState) : (s.setShadow g x).spare = s.spare := rfl
@[simp] theorem State.setShadow_mailboxes (g : Slot) (x : SlotState) : (s.setShadow g x).mailboxes = s.mailboxes := rfl
@[simp] theorem State.setShadow_free (g : Slot) (x : SlotState) : (s.setShadow g x).free = s.free := rfl
@[simp] theorem State.setShadow_pending (g : Slot) (x : SlotState) : (s.setShadow g x).pending = s.pending := rfl

/-! ### setCodes -/

@[simp] theorem State.setCodes_ctl (g : Slot) (o : JobOutcome) (d : Detail) : (s.setCodes g o d).ctl = s.ctl := rfl
@[simp] theorem State.setCodes_mem (g : Slot) (o : JobOutcome) (d : Detail) : (s.setCodes g o d).mem = s.mem := rfl
@[simp] theorem State.setCodes_notice (g : Slot) (o : JobOutcome) (d : Detail) : (s.setCodes g o d).notice = s.notice := rfl
@[simp] theorem State.setCodes_stationNotice (g : Slot) (o : JobOutcome) (d : Detail) : (s.setCodes g o d).stationNotice = s.stationNotice := rfl
@[simp] theorem State.setCodes_queues (g : Slot) (o : JobOutcome) (d : Detail) : (s.setCodes g o d).queues = s.queues := rfl
@[simp] theorem State.setCodes_deadlines (g : Slot) (o : JobOutcome) (d : Detail) : (s.setCodes g o d).deadlines = s.deadlines := rfl
@[simp] theorem State.setCodes_stats (g : Slot) (o : JobOutcome) (d : Detail) : (s.setCodes g o d).stats = s.stats := rfl
@[simp] theorem State.setCodes_stations (g : Slot) (o : JobOutcome) (d : Detail) : (s.setCodes g o d).stations = s.stations := rfl
@[simp] theorem State.setCodes_ports (g : Slot) (o : JobOutcome) (d : Detail) : (s.setCodes g o d).ports = s.ports := rfl
@[simp] theorem State.setCodes_marks (g : Slot) (o : JobOutcome) (d : Detail) : (s.setCodes g o d).marks = s.marks := rfl
@[simp] theorem State.setCodes_spare (g : Slot) (o : JobOutcome) (d : Detail) : (s.setCodes g o d).spare = s.spare := rfl
@[simp] theorem State.setCodes_mailboxes (g : Slot) (o : JobOutcome) (d : Detail) : (s.setCodes g o d).mailboxes = s.mailboxes := rfl
@[simp] theorem State.setCodes_free (g : Slot) (o : JobOutcome) (d : Detail) : (s.setCodes g o d).free = s.free := rfl
@[simp] theorem State.setCodes_pending (g : Slot) (o : JobOutcome) (d : Detail) : (s.setCodes g o d).pending = s.pending := rfl

/-! ### handSlot -/

@[simp] theorem State.handSlot_ctl (g : Slot) (x : SlotState) : (s.handSlot g x).ctl = s.ctl := rfl
@[simp] theorem State.handSlot_notice (g : Slot) (x : SlotState) : (s.handSlot g x).notice = s.notice := rfl
@[simp] theorem State.handSlot_stationNotice (g : Slot) (x : SlotState) : (s.handSlot g x).stationNotice = s.stationNotice := rfl
@[simp] theorem State.handSlot_queues (g : Slot) (x : SlotState) : (s.handSlot g x).queues = s.queues := rfl
@[simp] theorem State.handSlot_deadlines (g : Slot) (x : SlotState) : (s.handSlot g x).deadlines = s.deadlines := rfl
@[simp] theorem State.handSlot_stats (g : Slot) (x : SlotState) : (s.handSlot g x).stats = s.stats := rfl
@[simp] theorem State.handSlot_stations (g : Slot) (x : SlotState) : (s.handSlot g x).stations = s.stations := rfl
@[simp] theorem State.handSlot_ports (g : Slot) (x : SlotState) : (s.handSlot g x).ports = s.ports := rfl
@[simp] theorem State.handSlot_marks (g : Slot) (x : SlotState) : (s.handSlot g x).marks = s.marks := rfl
@[simp] theorem State.handSlot_spare (g : Slot) (x : SlotState) : (s.handSlot g x).spare = s.spare := rfl
@[simp] theorem State.handSlot_mailboxes (g : Slot) (x : SlotState) : (s.handSlot g x).mailboxes = s.mailboxes := rfl
@[simp] theorem State.handSlot_free (g : Slot) (x : SlotState) : (s.handSlot g x).free = s.free := rfl
@[simp] theorem State.handSlot_pending (g : Slot) (x : SlotState) : (s.handSlot g x).pending = s.pending := rfl

/-! ### setQueue -/

@[simp] theorem State.setQueue_ctl (q : Pool) (l : List Slot) : (s.setQueue q l).ctl = s.ctl := rfl
@[simp] theorem State.setQueue_notice (q : Pool) (l : List Slot) : (s.setQueue q l).notice = s.notice := rfl
@[simp] theorem State.setQueue_stationNotice (q : Pool) (l : List Slot) : (s.setQueue q l).stationNotice = s.stationNotice := rfl
@[simp] theorem State.setQueue_slots (q : Pool) (l : List Slot) : (s.setQueue q l).slots = s.slots := rfl
@[simp] theorem State.setQueue_deadlines (q : Pool) (l : List Slot) : (s.setQueue q l).deadlines = s.deadlines := rfl
@[simp] theorem State.setQueue_stats (q : Pool) (l : List Slot) : (s.setQueue q l).stats = s.stats := rfl
@[simp] theorem State.setQueue_stations (q : Pool) (l : List Slot) : (s.setQueue q l).stations = s.stations := rfl
@[simp] theorem State.setQueue_ports (q : Pool) (l : List Slot) : (s.setQueue q l).ports = s.ports := rfl
@[simp] theorem State.setQueue_marks (q : Pool) (l : List Slot) : (s.setQueue q l).marks = s.marks := rfl
@[simp] theorem State.setQueue_spare (q : Pool) (l : List Slot) : (s.setQueue q l).spare = s.spare := rfl
@[simp] theorem State.setQueue_mailboxes (q : Pool) (l : List Slot) : (s.setQueue q l).mailboxes = s.mailboxes := rfl
@[simp] theorem State.setQueue_free (q : Pool) (l : List Slot) : (s.setQueue q l).free = s.free := rfl
@[simp] theorem State.setQueue_pending (q : Pool) (l : List Slot) : (s.setQueue q l).pending = s.pending := rfl

/-! ### setDeadlines -/

@[simp] theorem State.setDeadlines_ctl (l : List Slot) : (s.setDeadlines l).ctl = s.ctl := rfl
@[simp] theorem State.setDeadlines_mem (l : List Slot) : (s.setDeadlines l).mem = s.mem := rfl
@[simp] theorem State.setDeadlines_notice (l : List Slot) : (s.setDeadlines l).notice = s.notice := rfl
@[simp] theorem State.setDeadlines_stationNotice (l : List Slot) : (s.setDeadlines l).stationNotice = s.stationNotice := rfl
@[simp] theorem State.setDeadlines_slots (l : List Slot) : (s.setDeadlines l).slots = s.slots := rfl
@[simp] theorem State.setDeadlines_queues (l : List Slot) : (s.setDeadlines l).queues = s.queues := rfl
@[simp] theorem State.setDeadlines_stats (l : List Slot) : (s.setDeadlines l).stats = s.stats := rfl
@[simp] theorem State.setDeadlines_stations (l : List Slot) : (s.setDeadlines l).stations = s.stations := rfl
@[simp] theorem State.setDeadlines_ports (l : List Slot) : (s.setDeadlines l).ports = s.ports := rfl
@[simp] theorem State.setDeadlines_marks (l : List Slot) : (s.setDeadlines l).marks = s.marks := rfl
@[simp] theorem State.setDeadlines_spare (l : List Slot) : (s.setDeadlines l).spare = s.spare := rfl
@[simp] theorem State.setDeadlines_mailboxes (l : List Slot) : (s.setDeadlines l).mailboxes = s.mailboxes := rfl
@[simp] theorem State.setDeadlines_free (l : List Slot) : (s.setDeadlines l).free = s.free := rfl
@[simp] theorem State.setDeadlines_pending (l : List Slot) : (s.setDeadlines l).pending = s.pending := rfl

/-! ### setStats -/

@[simp] theorem State.setStats_ctl (q : Pool) (x : PoolStats) : (s.setStats q x).ctl = s.ctl := rfl
@[simp] theorem State.setStats_mem (q : Pool) (x : PoolStats) : (s.setStats q x).mem = s.mem := rfl
@[simp] theorem State.setStats_notice (q : Pool) (x : PoolStats) : (s.setStats q x).notice = s.notice := rfl
@[simp] theorem State.setStats_stationNotice (q : Pool) (x : PoolStats) : (s.setStats q x).stationNotice = s.stationNotice := rfl
@[simp] theorem State.setStats_slots (q : Pool) (x : PoolStats) : (s.setStats q x).slots = s.slots := rfl
@[simp] theorem State.setStats_queues (q : Pool) (x : PoolStats) : (s.setStats q x).queues = s.queues := rfl
@[simp] theorem State.setStats_deadlines (q : Pool) (x : PoolStats) : (s.setStats q x).deadlines = s.deadlines := rfl
@[simp] theorem State.setStats_stations (q : Pool) (x : PoolStats) : (s.setStats q x).stations = s.stations := rfl
@[simp] theorem State.setStats_ports (q : Pool) (x : PoolStats) : (s.setStats q x).ports = s.ports := rfl
@[simp] theorem State.setStats_marks (q : Pool) (x : PoolStats) : (s.setStats q x).marks = s.marks := rfl
@[simp] theorem State.setStats_spare (q : Pool) (x : PoolStats) : (s.setStats q x).spare = s.spare := rfl
@[simp] theorem State.setStats_mailboxes (q : Pool) (x : PoolStats) : (s.setStats q x).mailboxes = s.mailboxes := rfl
@[simp] theorem State.setStats_free (q : Pool) (x : PoolStats) : (s.setStats q x).free = s.free := rfl
@[simp] theorem State.setStats_pending (q : Pool) (x : PoolStats) : (s.setStats q x).pending = s.pending := rfl

/-! ### updateStats -/

@[simp] theorem State.updateStats_ctl (q : Pool) (f : PoolStats → PoolStats) : (s.updateStats q f).ctl = s.ctl := rfl
@[simp] theorem State.updateStats_notice (q : Pool) (f : PoolStats → PoolStats) : (s.updateStats q f).notice = s.notice := rfl
@[simp] theorem State.updateStats_stationNotice (q : Pool) (f : PoolStats → PoolStats) : (s.updateStats q f).stationNotice = s.stationNotice := rfl
@[simp] theorem State.updateStats_slots (q : Pool) (f : PoolStats → PoolStats) : (s.updateStats q f).slots = s.slots := rfl
@[simp] theorem State.updateStats_queues (q : Pool) (f : PoolStats → PoolStats) : (s.updateStats q f).queues = s.queues := rfl
@[simp] theorem State.updateStats_deadlines (q : Pool) (f : PoolStats → PoolStats) : (s.updateStats q f).deadlines = s.deadlines := rfl
@[simp] theorem State.updateStats_stations (q : Pool) (f : PoolStats → PoolStats) : (s.updateStats q f).stations = s.stations := rfl
@[simp] theorem State.updateStats_ports (q : Pool) (f : PoolStats → PoolStats) : (s.updateStats q f).ports = s.ports := rfl
@[simp] theorem State.updateStats_marks (q : Pool) (f : PoolStats → PoolStats) : (s.updateStats q f).marks = s.marks := rfl
@[simp] theorem State.updateStats_spare (q : Pool) (f : PoolStats → PoolStats) : (s.updateStats q f).spare = s.spare := rfl
@[simp] theorem State.updateStats_mailboxes (q : Pool) (f : PoolStats → PoolStats) : (s.updateStats q f).mailboxes = s.mailboxes := rfl
@[simp] theorem State.updateStats_free (q : Pool) (f : PoolStats → PoolStats) : (s.updateStats q f).free = s.free := rfl
@[simp] theorem State.updateStats_pending (q : Pool) (f : PoolStats → PoolStats) : (s.updateStats q f).pending = s.pending := rfl

/-! ### clearStats -/

@[simp] theorem State.clearStats_ctl (q : Pool) : (s.clearStats q).ctl = s.ctl := rfl
@[simp] theorem State.clearStats_notice (q : Pool) : (s.clearStats q).notice = s.notice := rfl
@[simp] theorem State.clearStats_stationNotice (q : Pool) : (s.clearStats q).stationNotice = s.stationNotice := rfl
@[simp] theorem State.clearStats_slots (q : Pool) : (s.clearStats q).slots = s.slots := rfl
@[simp] theorem State.clearStats_queues (q : Pool) : (s.clearStats q).queues = s.queues := rfl
@[simp] theorem State.clearStats_deadlines (q : Pool) : (s.clearStats q).deadlines = s.deadlines := rfl
@[simp] theorem State.clearStats_stations (q : Pool) : (s.clearStats q).stations = s.stations := rfl
@[simp] theorem State.clearStats_ports (q : Pool) : (s.clearStats q).ports = s.ports := rfl
@[simp] theorem State.clearStats_marks (q : Pool) : (s.clearStats q).marks = s.marks := rfl
@[simp] theorem State.clearStats_spare (q : Pool) : (s.clearStats q).spare = s.spare := rfl
@[simp] theorem State.clearStats_mailboxes (q : Pool) : (s.clearStats q).mailboxes = s.mailboxes := rfl
@[simp] theorem State.clearStats_free (q : Pool) : (s.clearStats q).free = s.free := rfl
@[simp] theorem State.clearStats_pending (q : Pool) : (s.clearStats q).pending = s.pending := rfl

/-! ### setPort -/

@[simp] theorem State.setPort_ctl (p : Port) (x : PortRecord) : (s.setPort p x).ctl = s.ctl := rfl
@[simp] theorem State.setPort_mem (p : Port) (x : PortRecord) : (s.setPort p x).mem = s.mem := rfl
@[simp] theorem State.setPort_notice (p : Port) (x : PortRecord) : (s.setPort p x).notice = s.notice := rfl
@[simp] theorem State.setPort_stationNotice (p : Port) (x : PortRecord) : (s.setPort p x).stationNotice = s.stationNotice := rfl
@[simp] theorem State.setPort_slots (p : Port) (x : PortRecord) : (s.setPort p x).slots = s.slots := rfl
@[simp] theorem State.setPort_queues (p : Port) (x : PortRecord) : (s.setPort p x).queues = s.queues := rfl
@[simp] theorem State.setPort_deadlines (p : Port) (x : PortRecord) : (s.setPort p x).deadlines = s.deadlines := rfl
@[simp] theorem State.setPort_stats (p : Port) (x : PortRecord) : (s.setPort p x).stats = s.stats := rfl
@[simp] theorem State.setPort_stations (p : Port) (x : PortRecord) : (s.setPort p x).stations = s.stations := rfl
@[simp] theorem State.setPort_marks (p : Port) (x : PortRecord) : (s.setPort p x).marks = s.marks := rfl
@[simp] theorem State.setPort_spare (p : Port) (x : PortRecord) : (s.setPort p x).spare = s.spare := rfl
@[simp] theorem State.setPort_mailboxes (p : Port) (x : PortRecord) : (s.setPort p x).mailboxes = s.mailboxes := rfl
@[simp] theorem State.setPort_free (p : Port) (x : PortRecord) : (s.setPort p x).free = s.free := rfl
@[simp] theorem State.setPort_pending (p : Port) (x : PortRecord) : (s.setPort p x).pending = s.pending := rfl

/-! ### modifyPort -/

@[simp] theorem State.modifyPort_ctl (p : Port) (f : PortRecord → PortRecord) : (s.modifyPort p f).ctl = s.ctl := rfl
@[simp] theorem State.modifyPort_mem (p : Port) (f : PortRecord → PortRecord) : (s.modifyPort p f).mem = s.mem := rfl
@[simp] theorem State.modifyPort_notice (p : Port) (f : PortRecord → PortRecord) : (s.modifyPort p f).notice = s.notice := rfl
@[simp] theorem State.modifyPort_stationNotice (p : Port) (f : PortRecord → PortRecord) : (s.modifyPort p f).stationNotice = s.stationNotice := rfl
@[simp] theorem State.modifyPort_slots (p : Port) (f : PortRecord → PortRecord) : (s.modifyPort p f).slots = s.slots := rfl
@[simp] theorem State.modifyPort_queues (p : Port) (f : PortRecord → PortRecord) : (s.modifyPort p f).queues = s.queues := rfl
@[simp] theorem State.modifyPort_deadlines (p : Port) (f : PortRecord → PortRecord) : (s.modifyPort p f).deadlines = s.deadlines := rfl
@[simp] theorem State.modifyPort_stats (p : Port) (f : PortRecord → PortRecord) : (s.modifyPort p f).stats = s.stats := rfl
@[simp] theorem State.modifyPort_stations (p : Port) (f : PortRecord → PortRecord) : (s.modifyPort p f).stations = s.stations := rfl
@[simp] theorem State.modifyPort_marks (p : Port) (f : PortRecord → PortRecord) : (s.modifyPort p f).marks = s.marks := rfl
@[simp] theorem State.modifyPort_spare (p : Port) (f : PortRecord → PortRecord) : (s.modifyPort p f).spare = s.spare := rfl
@[simp] theorem State.modifyPort_mailboxes (p : Port) (f : PortRecord → PortRecord) : (s.modifyPort p f).mailboxes = s.mailboxes := rfl
@[simp] theorem State.modifyPort_free (p : Port) (f : PortRecord → PortRecord) : (s.modifyPort p f).free = s.free := rfl
@[simp] theorem State.modifyPort_pending (p : Port) (f : PortRecord → PortRecord) : (s.modifyPort p f).pending = s.pending := rfl

/-! ### mirrorPort -/

@[simp] theorem State.mirrorPort_ctl (p : Port) : (s.mirrorPort p).ctl = s.ctl := rfl
@[simp] theorem State.mirrorPort_notice (p : Port) : (s.mirrorPort p).notice = s.notice := rfl
@[simp] theorem State.mirrorPort_stationNotice (p : Port) : (s.mirrorPort p).stationNotice = s.stationNotice := rfl
@[simp] theorem State.mirrorPort_slots (p : Port) : (s.mirrorPort p).slots = s.slots := rfl
@[simp] theorem State.mirrorPort_queues (p : Port) : (s.mirrorPort p).queues = s.queues := rfl
@[simp] theorem State.mirrorPort_deadlines (p : Port) : (s.mirrorPort p).deadlines = s.deadlines := rfl
@[simp] theorem State.mirrorPort_stats (p : Port) : (s.mirrorPort p).stats = s.stats := rfl
@[simp] theorem State.mirrorPort_stations (p : Port) : (s.mirrorPort p).stations = s.stations := rfl
@[simp] theorem State.mirrorPort_ports (p : Port) : (s.mirrorPort p).ports = s.ports := rfl
@[simp] theorem State.mirrorPort_marks (p : Port) : (s.mirrorPort p).marks = s.marks := rfl
@[simp] theorem State.mirrorPort_spare (p : Port) : (s.mirrorPort p).spare = s.spare := rfl
@[simp] theorem State.mirrorPort_mailboxes (p : Port) : (s.mirrorPort p).mailboxes = s.mailboxes := rfl
@[simp] theorem State.mirrorPort_free (p : Port) : (s.mirrorPort p).free = s.free := rfl
@[simp] theorem State.mirrorPort_pending (p : Port) : (s.mirrorPort p).pending = s.pending := rfl

/-! ### updatePort -/

@[simp] theorem State.updatePort_ctl (p : Port) (f : PortRecord → PortRecord) : (s.updatePort p f).ctl = s.ctl := rfl
@[simp] theorem State.updatePort_notice (p : Port) (f : PortRecord → PortRecord) : (s.updatePort p f).notice = s.notice := rfl
@[simp] theorem State.updatePort_stationNotice (p : Port) (f : PortRecord → PortRecord) : (s.updatePort p f).stationNotice = s.stationNotice := rfl
@[simp] theorem State.updatePort_slots (p : Port) (f : PortRecord → PortRecord) : (s.updatePort p f).slots = s.slots := rfl
@[simp] theorem State.updatePort_queues (p : Port) (f : PortRecord → PortRecord) : (s.updatePort p f).queues = s.queues := rfl
@[simp] theorem State.updatePort_deadlines (p : Port) (f : PortRecord → PortRecord) : (s.updatePort p f).deadlines = s.deadlines := rfl
@[simp] theorem State.updatePort_stats (p : Port) (f : PortRecord → PortRecord) : (s.updatePort p f).stats = s.stats := rfl
@[simp] theorem State.updatePort_stations (p : Port) (f : PortRecord → PortRecord) : (s.updatePort p f).stations = s.stations := rfl
@[simp] theorem State.updatePort_marks (p : Port) (f : PortRecord → PortRecord) : (s.updatePort p f).marks = s.marks := rfl
@[simp] theorem State.updatePort_spare (p : Port) (f : PortRecord → PortRecord) : (s.updatePort p f).spare = s.spare := rfl
@[simp] theorem State.updatePort_mailboxes (p : Port) (f : PortRecord → PortRecord) : (s.updatePort p f).mailboxes = s.mailboxes := rfl
@[simp] theorem State.updatePort_free (p : Port) (f : PortRecord → PortRecord) : (s.updatePort p f).free = s.free := rfl
@[simp] theorem State.updatePort_pending (p : Port) (f : PortRecord → PortRecord) : (s.updatePort p f).pending = s.pending := rfl

/-! ### notePort -/

@[simp] theorem State.notePort_ctl (p : Port) (f : PortRecord → PortRecord) : (s.notePort p f).ctl = s.ctl := rfl
@[simp] theorem State.notePort_notice (p : Port) (f : PortRecord → PortRecord) : (s.notePort p f).notice = s.notice := rfl
@[simp] theorem State.notePort_stationNotice (p : Port) (f : PortRecord → PortRecord) : (s.notePort p f).stationNotice = s.stationNotice := rfl
@[simp] theorem State.notePort_slots (p : Port) (f : PortRecord → PortRecord) : (s.notePort p f).slots = s.slots := rfl
@[simp] theorem State.notePort_queues (p : Port) (f : PortRecord → PortRecord) : (s.notePort p f).queues = s.queues := rfl
@[simp] theorem State.notePort_deadlines (p : Port) (f : PortRecord → PortRecord) : (s.notePort p f).deadlines = s.deadlines := rfl
@[simp] theorem State.notePort_stats (p : Port) (f : PortRecord → PortRecord) : (s.notePort p f).stats = s.stats := rfl
@[simp] theorem State.notePort_stations (p : Port) (f : PortRecord → PortRecord) : (s.notePort p f).stations = s.stations := rfl
@[simp] theorem State.notePort_marks (p : Port) (f : PortRecord → PortRecord) : (s.notePort p f).marks = s.marks := rfl
@[simp] theorem State.notePort_spare (p : Port) (f : PortRecord → PortRecord) : (s.notePort p f).spare = s.spare := rfl
@[simp] theorem State.notePort_mailboxes (p : Port) (f : PortRecord → PortRecord) : (s.notePort p f).mailboxes = s.mailboxes := rfl
@[simp] theorem State.notePort_free (p : Port) (f : PortRecord → PortRecord) : (s.notePort p f).free = s.free := rfl
@[simp] theorem State.notePort_pending (p : Port) (f : PortRecord → PortRecord) : (s.notePort p f).pending = s.pending := rfl

/-! ### updateLineCounters -/

@[simp] theorem State.updateLineCounters_ctl (p : Port) (f : LineCounters → LineCounters) : (s.updateLineCounters p f).ctl = s.ctl := rfl
@[simp] theorem State.updateLineCounters_notice (p : Port) (f : LineCounters → LineCounters) : (s.updateLineCounters p f).notice = s.notice := rfl
@[simp] theorem State.updateLineCounters_stationNotice (p : Port) (f : LineCounters → LineCounters) : (s.updateLineCounters p f).stationNotice = s.stationNotice := rfl
@[simp] theorem State.updateLineCounters_slots (p : Port) (f : LineCounters → LineCounters) : (s.updateLineCounters p f).slots = s.slots := rfl
@[simp] theorem State.updateLineCounters_queues (p : Port) (f : LineCounters → LineCounters) : (s.updateLineCounters p f).queues = s.queues := rfl
@[simp] theorem State.updateLineCounters_deadlines (p : Port) (f : LineCounters → LineCounters) : (s.updateLineCounters p f).deadlines = s.deadlines := rfl
@[simp] theorem State.updateLineCounters_stats (p : Port) (f : LineCounters → LineCounters) : (s.updateLineCounters p f).stats = s.stats := rfl
@[simp] theorem State.updateLineCounters_stations (p : Port) (f : LineCounters → LineCounters) : (s.updateLineCounters p f).stations = s.stations := rfl
@[simp] theorem State.updateLineCounters_marks (p : Port) (f : LineCounters → LineCounters) : (s.updateLineCounters p f).marks = s.marks := rfl
@[simp] theorem State.updateLineCounters_spare (p : Port) (f : LineCounters → LineCounters) : (s.updateLineCounters p f).spare = s.spare := rfl
@[simp] theorem State.updateLineCounters_mailboxes (p : Port) (f : LineCounters → LineCounters) : (s.updateLineCounters p f).mailboxes = s.mailboxes := rfl
@[simp] theorem State.updateLineCounters_free (p : Port) (f : LineCounters → LineCounters) : (s.updateLineCounters p f).free = s.free := rfl
@[simp] theorem State.updateLineCounters_pending (p : Port) (f : LineCounters → LineCounters) : (s.updateLineCounters p f).pending = s.pending := rfl

/-! ### updateDiscards -/

@[simp] theorem State.updateDiscards_ctl (p : Port) (f : Discards → Discards) : (s.updateDiscards p f).ctl = s.ctl := rfl
@[simp] theorem State.updateDiscards_notice (p : Port) (f : Discards → Discards) : (s.updateDiscards p f).notice = s.notice := rfl
@[simp] theorem State.updateDiscards_stationNotice (p : Port) (f : Discards → Discards) : (s.updateDiscards p f).stationNotice = s.stationNotice := rfl
@[simp] theorem State.updateDiscards_slots (p : Port) (f : Discards → Discards) : (s.updateDiscards p f).slots = s.slots := rfl
@[simp] theorem State.updateDiscards_queues (p : Port) (f : Discards → Discards) : (s.updateDiscards p f).queues = s.queues := rfl
@[simp] theorem State.updateDiscards_deadlines (p : Port) (f : Discards → Discards) : (s.updateDiscards p f).deadlines = s.deadlines := rfl
@[simp] theorem State.updateDiscards_stats (p : Port) (f : Discards → Discards) : (s.updateDiscards p f).stats = s.stats := rfl
@[simp] theorem State.updateDiscards_stations (p : Port) (f : Discards → Discards) : (s.updateDiscards p f).stations = s.stations := rfl
@[simp] theorem State.updateDiscards_marks (p : Port) (f : Discards → Discards) : (s.updateDiscards p f).marks = s.marks := rfl
@[simp] theorem State.updateDiscards_spare (p : Port) (f : Discards → Discards) : (s.updateDiscards p f).spare = s.spare := rfl
@[simp] theorem State.updateDiscards_mailboxes (p : Port) (f : Discards → Discards) : (s.updateDiscards p f).mailboxes = s.mailboxes := rfl
@[simp] theorem State.updateDiscards_free (p : Port) (f : Discards → Discards) : (s.updateDiscards p f).free = s.free := rfl
@[simp] theorem State.updateDiscards_pending (p : Port) (f : Discards → Discards) : (s.updateDiscards p f).pending = s.pending := rfl

/-! ### clearLineCounters -/

@[simp] theorem State.clearLineCounters_ctl (p : Port) : (s.clearLineCounters p).ctl = s.ctl := rfl
@[simp] theorem State.clearLineCounters_notice (p : Port) : (s.clearLineCounters p).notice = s.notice := rfl
@[simp] theorem State.clearLineCounters_stationNotice (p : Port) : (s.clearLineCounters p).stationNotice = s.stationNotice := rfl
@[simp] theorem State.clearLineCounters_slots (p : Port) : (s.clearLineCounters p).slots = s.slots := rfl
@[simp] theorem State.clearLineCounters_queues (p : Port) : (s.clearLineCounters p).queues = s.queues := rfl
@[simp] theorem State.clearLineCounters_deadlines (p : Port) : (s.clearLineCounters p).deadlines = s.deadlines := rfl
@[simp] theorem State.clearLineCounters_stats (p : Port) : (s.clearLineCounters p).stats = s.stats := rfl
@[simp] theorem State.clearLineCounters_stations (p : Port) : (s.clearLineCounters p).stations = s.stations := rfl
@[simp] theorem State.clearLineCounters_marks (p : Port) : (s.clearLineCounters p).marks = s.marks := rfl
@[simp] theorem State.clearLineCounters_spare (p : Port) : (s.clearLineCounters p).spare = s.spare := rfl
@[simp] theorem State.clearLineCounters_mailboxes (p : Port) : (s.clearLineCounters p).mailboxes = s.mailboxes := rfl
@[simp] theorem State.clearLineCounters_free (p : Port) : (s.clearLineCounters p).free = s.free := rfl
@[simp] theorem State.clearLineCounters_pending (p : Port) : (s.clearLineCounters p).pending = s.pending := rfl

/-! ### clearDiscards -/

@[simp] theorem State.clearDiscards_ctl (p : Port) : (s.clearDiscards p).ctl = s.ctl := rfl
@[simp] theorem State.clearDiscards_notice (p : Port) : (s.clearDiscards p).notice = s.notice := rfl
@[simp] theorem State.clearDiscards_stationNotice (p : Port) : (s.clearDiscards p).stationNotice = s.stationNotice := rfl
@[simp] theorem State.clearDiscards_slots (p : Port) : (s.clearDiscards p).slots = s.slots := rfl
@[simp] theorem State.clearDiscards_queues (p : Port) : (s.clearDiscards p).queues = s.queues := rfl
@[simp] theorem State.clearDiscards_deadlines (p : Port) : (s.clearDiscards p).deadlines = s.deadlines := rfl
@[simp] theorem State.clearDiscards_stats (p : Port) : (s.clearDiscards p).stats = s.stats := rfl
@[simp] theorem State.clearDiscards_stations (p : Port) : (s.clearDiscards p).stations = s.stations := rfl
@[simp] theorem State.clearDiscards_marks (p : Port) : (s.clearDiscards p).marks = s.marks := rfl
@[simp] theorem State.clearDiscards_spare (p : Port) : (s.clearDiscards p).spare = s.spare := rfl
@[simp] theorem State.clearDiscards_mailboxes (p : Port) : (s.clearDiscards p).mailboxes = s.mailboxes := rfl
@[simp] theorem State.clearDiscards_free (p : Port) : (s.clearDiscards p).free = s.free := rfl
@[simp] theorem State.clearDiscards_pending (p : Port) : (s.clearDiscards p).pending = s.pending := rfl

/-! ### setMark -/

@[simp] theorem State.setMark_ctl (b : Nat) (m : BlockMark) : (s.setMark b m).ctl = s.ctl := by unfold State.setMark; split <;> rfl
@[simp] theorem State.setMark_mem (b : Nat) (m : BlockMark) : (s.setMark b m).mem = s.mem := by unfold State.setMark; split <;> rfl
@[simp] theorem State.setMark_notice (b : Nat) (m : BlockMark) : (s.setMark b m).notice = s.notice := by unfold State.setMark; split <;> rfl
@[simp] theorem State.setMark_stationNotice (b : Nat) (m : BlockMark) : (s.setMark b m).stationNotice = s.stationNotice := by unfold State.setMark; split <;> rfl
@[simp] theorem State.setMark_slots (b : Nat) (m : BlockMark) : (s.setMark b m).slots = s.slots := by unfold State.setMark; split <;> rfl
@[simp] theorem State.setMark_queues (b : Nat) (m : BlockMark) : (s.setMark b m).queues = s.queues := by unfold State.setMark; split <;> rfl
@[simp] theorem State.setMark_deadlines (b : Nat) (m : BlockMark) : (s.setMark b m).deadlines = s.deadlines := by unfold State.setMark; split <;> rfl
@[simp] theorem State.setMark_stats (b : Nat) (m : BlockMark) : (s.setMark b m).stats = s.stats := by unfold State.setMark; split <;> rfl
@[simp] theorem State.setMark_stations (b : Nat) (m : BlockMark) : (s.setMark b m).stations = s.stations := by unfold State.setMark; split <;> rfl
@[simp] theorem State.setMark_ports (b : Nat) (m : BlockMark) : (s.setMark b m).ports = s.ports := by unfold State.setMark; split <;> rfl
@[simp] theorem State.setMark_spare (b : Nat) (m : BlockMark) : (s.setMark b m).spare = s.spare := by unfold State.setMark; split <;> rfl
@[simp] theorem State.setMark_mailboxes (b : Nat) (m : BlockMark) : (s.setMark b m).mailboxes = s.mailboxes := by unfold State.setMark; split <;> rfl
@[simp] theorem State.setMark_free (b : Nat) (m : BlockMark) : (s.setMark b m).free = s.free := by unfold State.setMark; split <;> rfl
@[simp] theorem State.setMark_pending (b : Nat) (m : BlockMark) : (s.setMark b m).pending = s.pending := by unfold State.setMark; split <;> rfl

/-! ### setSpare -/

@[simp] theorem State.setSpare_ctl (l : List Nat) : (s.setSpare l).ctl = s.ctl := rfl
@[simp] theorem State.setSpare_mem (l : List Nat) : (s.setSpare l).mem = s.mem := rfl
@[simp] theorem State.setSpare_notice (l : List Nat) : (s.setSpare l).notice = s.notice := rfl
@[simp] theorem State.setSpare_stationNotice (l : List Nat) : (s.setSpare l).stationNotice = s.stationNotice := rfl
@[simp] theorem State.setSpare_slots (l : List Nat) : (s.setSpare l).slots = s.slots := rfl
@[simp] theorem State.setSpare_queues (l : List Nat) : (s.setSpare l).queues = s.queues := rfl
@[simp] theorem State.setSpare_deadlines (l : List Nat) : (s.setSpare l).deadlines = s.deadlines := rfl
@[simp] theorem State.setSpare_stats (l : List Nat) : (s.setSpare l).stats = s.stats := rfl
@[simp] theorem State.setSpare_stations (l : List Nat) : (s.setSpare l).stations = s.stations := rfl
@[simp] theorem State.setSpare_ports (l : List Nat) : (s.setSpare l).ports = s.ports := rfl
@[simp] theorem State.setSpare_marks (l : List Nat) : (s.setSpare l).marks = s.marks := rfl
@[simp] theorem State.setSpare_mailboxes (l : List Nat) : (s.setSpare l).mailboxes = s.mailboxes := rfl
@[simp] theorem State.setSpare_free (l : List Nat) : (s.setSpare l).free = s.free := rfl
@[simp] theorem State.setSpare_pending (l : List Nat) : (s.setSpare l).pending = s.pending := rfl

/-! ### setMailbox -/

@[simp] theorem State.setMailbox_ctl (st : Station) (r : Fin 4) (m : Mailbox) : (s.setMailbox st r m).ctl = s.ctl := rfl
@[simp] theorem State.setMailbox_mem (st : Station) (r : Fin 4) (m : Mailbox) : (s.setMailbox st r m).mem = s.mem := rfl
@[simp] theorem State.setMailbox_notice (st : Station) (r : Fin 4) (m : Mailbox) : (s.setMailbox st r m).notice = s.notice := rfl
@[simp] theorem State.setMailbox_stationNotice (st : Station) (r : Fin 4) (m : Mailbox) : (s.setMailbox st r m).stationNotice = s.stationNotice := rfl
@[simp] theorem State.setMailbox_slots (st : Station) (r : Fin 4) (m : Mailbox) : (s.setMailbox st r m).slots = s.slots := rfl
@[simp] theorem State.setMailbox_queues (st : Station) (r : Fin 4) (m : Mailbox) : (s.setMailbox st r m).queues = s.queues := rfl
@[simp] theorem State.setMailbox_deadlines (st : Station) (r : Fin 4) (m : Mailbox) : (s.setMailbox st r m).deadlines = s.deadlines := rfl
@[simp] theorem State.setMailbox_stats (st : Station) (r : Fin 4) (m : Mailbox) : (s.setMailbox st r m).stats = s.stats := rfl
@[simp] theorem State.setMailbox_stations (st : Station) (r : Fin 4) (m : Mailbox) : (s.setMailbox st r m).stations = s.stations := rfl
@[simp] theorem State.setMailbox_ports (st : Station) (r : Fin 4) (m : Mailbox) : (s.setMailbox st r m).ports = s.ports := rfl
@[simp] theorem State.setMailbox_marks (st : Station) (r : Fin 4) (m : Mailbox) : (s.setMailbox st r m).marks = s.marks := rfl
@[simp] theorem State.setMailbox_spare (st : Station) (r : Fin 4) (m : Mailbox) : (s.setMailbox st r m).spare = s.spare := rfl
@[simp] theorem State.setMailbox_free (st : Station) (r : Fin 4) (m : Mailbox) : (s.setMailbox st r m).free = s.free := rfl
@[simp] theorem State.setMailbox_pending (st : Station) (r : Fin 4) (m : Mailbox) : (s.setMailbox st r m).pending = s.pending := rfl

/-! ### drawFree -/

@[simp] theorem State.drawFree_ctl : (s.drawFree).ctl = s.ctl := rfl
@[simp] theorem State.drawFree_mem : (s.drawFree).mem = s.mem := rfl
@[simp] theorem State.drawFree_notice : (s.drawFree).notice = s.notice := rfl
@[simp] theorem State.drawFree_stationNotice : (s.drawFree).stationNotice = s.stationNotice := rfl
@[simp] theorem State.drawFree_slots : (s.drawFree).slots = s.slots := rfl
@[simp] theorem State.drawFree_queues : (s.drawFree).queues = s.queues := rfl
@[simp] theorem State.drawFree_deadlines : (s.drawFree).deadlines = s.deadlines := rfl
@[simp] theorem State.drawFree_stats : (s.drawFree).stats = s.stats := rfl
@[simp] theorem State.drawFree_stations : (s.drawFree).stations = s.stations := rfl
@[simp] theorem State.drawFree_ports : (s.drawFree).ports = s.ports := rfl
@[simp] theorem State.drawFree_marks : (s.drawFree).marks = s.marks := rfl
@[simp] theorem State.drawFree_spare : (s.drawFree).spare = s.spare := rfl
@[simp] theorem State.drawFree_mailboxes : (s.drawFree).mailboxes = s.mailboxes := rfl
@[simp] theorem State.drawFree_pending : (s.drawFree).pending = s.pending := rfl

/-! ### What the writes leave -/

@[simp] theorem State.putWord_mem (a : Nat) (w : Word) : (s.putWord a w).mem = writeWord s.mem a w := rfl
@[simp] theorem State.remirror_mem (a : Nat) (old new : Word) : (s.remirror a old new).mem = rewriteWord s.mem a old new := rfl
@[simp] theorem State.remirrorAll_mem (a : Nat) (old new : List (Nat × Word)) :
    (s.remirrorAll a old new).mem = rewriteWords s.mem a old new := rfl
@[simp] theorem State.putWords_mem (a : Nat) (words : List (Nat × Word)) :
    (s.putWords a words).mem = writeWords s.mem a words := rfl
@[simp] theorem State.putByte_mem (a : Nat) (b : Byte) : (s.putByte a b).mem = writeByte s.mem a b := rfl
@[simp] theorem State.setControl_ctl (f : Control → Control) : (s.setControl f).ctl = f s.ctl := rfl
@[simp] theorem State.setNotice_notice (b : NoticeBit) : (s.setNotice b).notice = s.notice ||| noticeMask b := rfl
@[simp] theorem State.setStationNotice_stationNotice (st : Station) :
    (s.setStationNotice st).stationNotice = s.stationNotice ||| stationMask st := rfl
@[simp] theorem State.setDeadlines_deadlines (l : List Slot) : (s.setDeadlines l).deadlines = l := rfl
@[simp] theorem State.setSpare_spare (l : List Nat) : (s.setSpare l).spare = l := rfl

/-! ### Reads after writes -/

@[simp] theorem State.counters_setCounters (st : Station) (c : StationCounters) : (s.setCounters st c).counters st = c := by
  simp [State.counters, State.setCounters]

theorem State.counters_setCounters_ne {st x : Station} (h : x ≠ st) (c : StationCounters) :
    (s.setCounters st c).counters x = s.counters x := by
  have : st.val ≠ x.val := fun e => h (Fin.ext e.symm)
  simp [State.counters, State.setCounters, this]

@[simp] theorem State.counters_updateCounters (st : Station) (k : CounterPair) (f : StationCounters → StationCounters) :
    (s.updateCounters st k f).counters st = f (s.counters st) := s.counters_setCounters st _

theorem State.counters_updateCounters_ne {st x : Station} (h : x ≠ st) (k : CounterPair) (f : StationCounters → StationCounters) :
    (s.updateCounters st k f).counters x = s.counters x :=
  s.counters_setCounters_ne h _

@[simp] theorem State.counters_clearCounters (st : Station) : (s.clearCounters st).counters st = {} :=
  s.counters_setCounters st _

theorem State.counters_clearCounters_ne {st x : Station} (h : x ≠ st) : (s.clearCounters st).counters x = s.counters x :=
  s.counters_setCounters_ne h _

@[simp] theorem State.slot_setSlot (g : Slot) (x : SlotShadow) : (s.setSlot g x).slot g = x := by
  simp [State.slot, State.setSlot]

theorem State.slot_setSlot_ne {g h : Slot} (e : h ≠ g) (x : SlotShadow) : (s.setSlot g x).slot h = s.slot h := by
  have : g.val ≠ h.val := fun k => e (Fin.ext k.symm)
  simp [State.slot, State.setSlot, this]

@[simp] theorem State.job_updateJob (g : Slot) (f : JobRecord → JobRecord) : (s.updateJob g f).job g = f (s.job g) := by
  simp [State.job, State.updateJob]

theorem State.job_updateJob_ne {g h : Slot} (e : h ≠ g) (f : JobRecord → JobRecord) :
    (s.updateJob g f).job h = s.job h := by
  simp [State.job, State.updateJob, s.slot_setSlot_ne e]

@[simp] theorem State.queue_setQueue (q : Pool) (l : List Slot) : (s.setQueue q l).queue q = l := by
  simp [State.queue, State.setQueue]

theorem State.queue_setQueue_ne {q x : Pool} (h : x ≠ q) (l : List Slot) : (s.setQueue q l).queue x = s.queue x := by
  have : q.val ≠ x.val := fun e => h (Fin.ext e.symm)
  simp [State.queue, State.setQueue, this]

@[simp] theorem State.poolStats_setStats (q : Pool) (x : PoolStats) : (s.setStats q x).poolStats q = x := by
  simp [State.poolStats, State.setStats]

theorem State.poolStats_setStats_ne {q r : Pool} (h : r ≠ q) (x : PoolStats) :
    (s.setStats q x).poolStats r = s.poolStats r := by
  have : q.val ≠ r.val := fun e => h (Fin.ext e.symm)
  simp [State.poolStats, State.setStats, this]

@[simp] theorem State.poolStats_updateStats (q : Pool) (f : PoolStats → PoolStats) :
    (s.updateStats q f).poolStats q = f (s.poolStats q) := s.poolStats_setStats q _

theorem State.poolStats_updateStats_ne {q x : Pool} (h : x ≠ q) (f : PoolStats → PoolStats) :
    (s.updateStats q f).poolStats x = s.poolStats x := s.poolStats_setStats_ne h _

@[simp] theorem State.poolStats_clearStats (q : Pool) : (s.clearStats q).poolStats q = {} := s.poolStats_setStats q _

theorem State.poolStats_clearStats_ne {q x : Pool} (h : x ≠ q) : (s.clearStats q).poolStats x = s.poolStats x :=
  s.poolStats_setStats_ne h _

@[simp] theorem State.port_setPort (p : Port) (x : PortRecord) : (s.setPort p x).port p = x := by
  simp [State.port, State.setPort]

theorem State.port_setPort_ne {p r : Port} (h : r ≠ p) (x : PortRecord) : (s.setPort p x).port r = s.port r := by
  have : p.val ≠ r.val := fun e => h (Fin.ext e.symm)
  simp [State.port, State.setPort, this]

@[simp] theorem State.setPort_self (p : Port) : s.setPort p (s.port p) = s := by
  unfold State.setPort State.port; rw [Vector.set_getElem_self]

@[simp] theorem State.setPort_setPort (p : Port) (x y : PortRecord) : (s.setPort p x).setPort p y = s.setPort p y := by
  simp [State.setPort]

@[simp] theorem State.port_modifyPort (p : Port) (f : PortRecord → PortRecord) : (s.modifyPort p f).port p = f (s.port p) := by
  simp [State.modifyPort]

theorem State.port_modifyPort_ne {p r : Port} (h : r ≠ p) (f : PortRecord → PortRecord) :
    (s.modifyPort p f).port r = s.port r := s.port_setPort_ne h _

@[simp] theorem State.port_updatePort (p : Port) (f : PortRecord → PortRecord) : (s.updatePort p f).port p = f (s.port p) := by
  simp [State.updatePort, State.mirrorPort, State.port, State.modifyPort, State.setPort, State.putWord]

theorem State.port_updatePort_ne {p r : Port} (h : r ≠ p) (f : PortRecord → PortRecord) :
    (s.updatePort p f).port r = s.port r := s.port_setPort_ne h _

@[simp] theorem State.port_notePort (p : Port) (f : PortRecord → PortRecord) : (s.notePort p f).port p = f (s.port p) :=
  s.port_setPort p _

theorem State.port_notePort_ne {p r : Port} (h : r ≠ p) (f : PortRecord → PortRecord) :
    (s.notePort p f).port r = s.port r := s.port_setPort_ne h _

@[simp] theorem State.port_updateLineCounters (p : Port) (f : LineCounters → LineCounters) :
    (s.updateLineCounters p f).port p = { s.port p with counters := f (s.port p).counters } := s.port_setPort p _

theorem State.port_updateLineCounters_ne {p r : Port} (h : r ≠ p) (f : LineCounters → LineCounters) :
    (s.updateLineCounters p f).port r = s.port r := s.port_setPort_ne h _

@[simp] theorem State.port_clearLineCounters (p : Port) :
    (s.clearLineCounters p).port p = { s.port p with counters := {} } := s.port_setPort p _

theorem State.port_clearLineCounters_ne {p r : Port} (h : r ≠ p) : (s.clearLineCounters p).port r = s.port r :=
  s.port_setPort_ne h _

@[simp] theorem State.port_updateDiscards (p : Port) (f : Discards → Discards) :
    (s.updateDiscards p f).port p = { s.port p with discards := f (s.port p).discards } := s.port_setPort p _

theorem State.port_updateDiscards_ne {p r : Port} (h : r ≠ p) (f : Discards → Discards) :
    (s.updateDiscards p f).port r = s.port r := s.port_setPort_ne h _

@[simp] theorem State.port_clearDiscards (p : Port) :
    (s.clearDiscards p).port p = { s.port p with discards := {} } := s.port_setPort p _

theorem State.port_clearDiscards_ne {p r : Port} (h : r ≠ p) : (s.clearDiscards p).port r = s.port r :=
  s.port_setPort_ne h _

@[simp] theorem State.mailbox_setMailbox (st : Station) (r : Fin 4) (m : Mailbox) : (s.setMailbox st r m).mailbox st r = m := by
  simp [State.mailbox, State.setMailbox]

theorem State.mark_setMark {b : Nat} (h : 1 ≤ b ∧ b ≤ 896) (m : BlockMark) : (s.setMark b m).mark b = m := by
  simp [State.mark, State.setMark, h]

theorem State.mark_setMark_ne {b c : Nat} (h : c ≠ b) (m : BlockMark) : (s.setMark b m).mark c = s.mark c := by
  by_cases hb : 1 ≤ b ∧ b ≤ 896
  · by_cases hc : 1 ≤ c ∧ c ≤ 896
    · have : b - 1 ≠ c - 1 := by omega
      simp [State.mark, State.setMark, hb, hc, this]
    · simp [State.mark, hc]
  · simp [State.setMark, hb]

end Sys2Proof.Machine
end

