-- ==== Sys2Proof/Laws/Kept.lean ====
section
/-! SUPPORT. What every operation of the queues, the services, the router and the result writer keeps: the control
registers, the command queue, the notices already set, and the invariant of the part's data. -/

namespace Sys2Proof.Machine

/-- What an operation below the engine keeps. -/
structure Kept (s t : State) : Prop where
  ctl : t.ctl = s.ctl
  pending : t.pending = s.pending
  notice : s.notice ||| t.notice = t.notice
  stationNotice : s.stationNotice ||| t.stationNotice = t.stationNotice
  data : s.wellFormed → t.wellFormed

theorem Kept.refl (s : State) : Kept s s := ⟨rfl, rfl, BitVec.or_self, BitVec.or_self, id⟩

theorem Kept.trans {s t u : State} (h : Kept s t) (k : Kept t u) : Kept s u where
  ctl := k.ctl.trans h.ctl
  pending := k.pending.trans h.pending
  notice := by rw [← k.notice, ← BitVec.or_assoc, h.notice]
  stationNotice := by rw [← k.stationNotice, ← BitVec.or_assoc, h.stationNotice]
  data := k.data ∘ h.data

theorem Kept.ite {c : Prop} [Decidable c] {s a b : State} (h : Kept s a) (k : Kept s b) : Kept s (if c then a else b) := by
  split <;> assumption

theorem Kept.foldl {α : Type} {f : State → α → State} (h : ∀ s a, Kept s (f s a)) (l : List α) (s : State) :
    Kept s (l.foldl f s) := by
  induction l generalizing s with
  | nil => exact Kept.refl s
  | cons a rest ih => exact (h s a).trans (ih _)

/-! ### Ranges by part -/

theorem StationCounters.inRange_zero : StationCounters.inRange {} :=
  { handoverFaults := Nat.zero_le _, jobsFinished := Nat.zero_le _, usage := Nat.zero_le _, overflow := Nat.zero_le _ }

theorem Discards.inRange_zero : Discards.inRange {} :=
  { unrouted := Nat.zero_le _, closed := Nat.zero_le _, stray := Nat.zero_le _, malformed := Nat.zero_le _ }

theorem LineCounters.inRange_zero : LineCounters.inRange {} :=
  { noise := Nat.zero_le _, framing := Nat.zero_le _, check := Nat.zero_le _, resend := Nat.zero_le _ }

theorem PoolStats.inRange_zero : PoolStats.inRange {} := by constructor <;> exact Nat.zero_le _

theorem JobRecord.inRange_clear : JobRecord.inRange {} := by constructor <;> exact Nat.zero_le _

theorem saturate_le (limit count n : Nat) : saturate limit count n ≤ limit := Nat.min_le_left _ _

section
variable {s t : State}

theorem State.wellFormed.memory (h : s.wellFormed) : Memory.wf s.mem = true := h.1
theorem State.wellFormed.counters (h : s.wellFormed) (st : Station) : (s.counters st).inRange := h.2.counters st
theorem State.wellFormed.stats (h : s.wellFormed) (q : Pool) : (s.poolStats q).inRange := h.2.stats q
theorem State.wellFormed.job (h : s.wellFormed) (g : Slot) : (s.job g).inRange := h.2.job g
theorem State.wellFormed.port (h : s.wellFormed) (p : Port) : (s.port p).inRange := h.2.port p
theorem State.wellFormed.ceiling (h : s.wellFormed) (st : Station) : (s.sample st).groupCeiling ≤ 255 := h.2.ceiling st

/-- A change that leaves the counted records alone keeps their ranges. -/
theorem State.wellFormed.congr (h : s.wellFormed) (hm : Memory.wf t.mem = true) (hc : t.stations = s.stations)
    (hq : t.stats = s.stats) (hs : t.slots = s.slots) (hp : t.ports = s.ports) (hx : t.ctl.samples = s.ctl.samples) :
    t.wellFormed := by
  refine ⟨hm, fun st => ?_, fun q => ?_, fun g => ?_, fun p => ?_, fun st => ?_⟩
  · have := h.counters st; unfold State.counters at this ⊢; rwa [hc]
  · have := h.stats q; unfold State.poolStats at this ⊢; rwa [hq]
  · have := h.job g; unfold State.job State.slot at this ⊢; rwa [hs]
  · have := h.port p; unfold State.port at this ⊢; rwa [hp]
  · have := h.ceiling st; unfold State.sample at this ⊢; rwa [hx]

theorem Kept.of_eq (hc : t.ctl = s.ctl) (hp : t.pending = s.pending) (hn : t.notice = s.notice)
    (hst : t.stationNotice = s.stationNotice) (hd : s.wellFormed → t.wellFormed) : Kept s t :=
  ⟨hc, hp, by rw [hn, BitVec.or_self], by rw [hst, BitVec.or_self], hd⟩

end

/-! ### The named operations -/

variable (s : State)

theorem State.putWord_kept (a : Nat) (w : Word) : Kept s (s.putWord a w) :=
  .of_eq rfl rfl rfl rfl fun h => h.congr (Memory.wf_writeWord h.memory _ _) rfl rfl rfl rfl rfl

theorem State.remirror_kept (a : Nat) (old new : Word) : Kept s (s.remirror a old new) :=
  .of_eq rfl rfl rfl rfl fun h => h.congr (Memory.wf_rewriteWord h.memory _ _ _) rfl rfl rfl rfl rfl

theorem State.remirrorAll_kept (a : Nat) (old new : List (Nat × Word)) : Kept s (s.remirrorAll a old new) :=
  .of_eq rfl rfl rfl rfl fun h => h.congr (Memory.wf_rewriteWords h.memory _ _ _) rfl rfl rfl rfl rfl

theorem State.putWords_kept (a : Nat) (words : List (Nat × Word)) : Kept s (s.putWords a words) :=
  .of_eq rfl rfl rfl rfl fun h => h.congr (Memory.wf_writeWords h.memory _ _) rfl rfl rfl rfl rfl

theorem State.putByte_kept (a : Nat) (b : Byte) : Kept s (s.putByte a b) :=
  .of_eq rfl rfl rfl rfl fun h => h.congr (Memory.wf_writeByte h.memory _ _) rfl rfl rfl rfl rfl

theorem State.setNotice_kept (b : NoticeBit) : Kept s (s.setNotice b) where
  ctl := rfl
  pending := rfl
  notice := by rw [State.setNotice_notice, ← BitVec.or_assoc, BitVec.or_self]
  stationNotice := BitVec.or_self
  data := fun h => h.congr h.memory rfl rfl rfl rfl rfl

theorem State.setStationNotice_kept (st : Station) : Kept s (s.setStationNotice st) where
  ctl := rfl
  pending := rfl
  notice := BitVec.or_self
  stationNotice := by rw [State.setStationNotice_stationNotice, ← BitVec.or_assoc, BitVec.or_self]
  data := fun h => h.congr h.memory rfl rfl rfl rfl rfl

theorem State.setCounters_kept (st : Station) (c : StationCounters) (h : s.wellFormed → c.inRange) :
    Kept s (s.setCounters st c) :=
  .of_eq rfl rfl rfl rfl fun w => ⟨w.memory, fun x => by
      by_cases e : x = st
      · subst e; rw [s.counters_setCounters]; exact h w
      · rw [s.counters_setCounters_ne e]; exact w.counters x,
    w.stats, w.job, w.port, w.ceiling⟩

theorem State.updateCounters_kept (st : Station) (k : CounterPair) (f : StationCounters → StationCounters)
    (h : ∀ c : StationCounters, c.inRange → (f c).inRange) : Kept s (s.updateCounters st k f) :=
  (s.setCounters_kept st _ fun w => h _ (w.counters st)).trans (State.putWord_kept _ _ _)

theorem State.clearCounters_kept (st : Station) : Kept s (s.clearCounters st) :=
  ((s.setCounters_kept st {} fun _ => StationCounters.inRange_zero).trans (State.putWord_kept _ _ _)).trans
    (State.putWord_kept _ _ _)

theorem State.setSlot_kept (g : Slot) (x : SlotShadow) (h : s.wellFormed → x.job.inRange) : Kept s (s.setSlot g x) :=
  .of_eq rfl rfl rfl rfl fun w => ⟨w.memory, w.counters, w.stats, fun k => by
      by_cases e : k = g
      · subst e; unfold State.job; rw [s.slot_setSlot]; exact h w
      · unfold State.job; rw [s.slot_setSlot_ne e]; exact w.job k,
    w.port, w.ceiling⟩

theorem State.updateJob_kept (g : Slot) (f : JobRecord → JobRecord)
    (h : s.wellFormed → (f (s.job g)).inRange) : Kept s (s.updateJob g f) :=
  s.setSlot_kept g _ h

theorem State.setShadow_kept (g : Slot) (x : SlotState) : Kept s (s.setShadow g x) :=
  s.setSlot_kept g _ fun w => { w.job g with }

theorem State.setCodes_kept (g : Slot) (o : JobOutcome) (d : Detail) : Kept s (s.setCodes g o d) :=
  s.setSlot_kept g _ fun w => { w.job g with }

theorem State.handSlot_kept (g : Slot) (x : SlotState) : Kept s (s.handSlot g x) :=
  (s.setShadow_kept g x).trans (State.putWord_kept _ _ _)

theorem State.setQueue_kept (q : Pool) (l : List Slot) : Kept s (s.setQueue q l) :=
  .of_eq rfl rfl rfl rfl fun h => h.congr (Memory.wf_writeWord h.memory _ _) rfl rfl rfl rfl rfl

theorem State.setDeadlines_kept (l : List Slot) : Kept s (s.setDeadlines l) :=
  .of_eq rfl rfl rfl rfl fun h => h.congr h.memory rfl rfl rfl rfl rfl

theorem State.setStats_kept (q : Pool) (x : PoolStats) (h : s.wellFormed → x.inRange) : Kept s (s.setStats q x) :=
  .of_eq rfl rfl rfl rfl fun w => ⟨w.memory, w.counters, fun k => by
      by_cases e : k = q
      · subst e; simpa [State.poolStats, State.setStats] using h w
      · have n : q.val ≠ k.val := fun z => e (Fin.ext z.symm)
        have := w.stats k
        simpa [State.poolStats, State.setStats, n] using this,
    w.job, w.port, w.ceiling⟩

theorem State.updateStats_kept (q : Pool) (f : PoolStats → PoolStats) (h : ∀ x : PoolStats, x.inRange → (f x).inRange) :
    Kept s (s.updateStats q f) :=
  (s.setStats_kept q _ fun w => h _ (w.stats q)).trans (State.remirrorAll_kept _ _ _ _)

theorem State.clearStats_kept (q : Pool) : Kept s (s.clearStats q) :=
  (s.setStats_kept q {} fun _ => PoolStats.inRange_zero).trans (State.putWords_kept _ _ _)

theorem State.setPort_kept (p : Port) (x : PortRecord) (h : s.wellFormed → x.inRange) : Kept s (s.setPort p x) :=
  .of_eq rfl rfl rfl rfl fun w => ⟨w.memory, w.counters, w.stats, w.job, fun r => by
      by_cases e : r = p
      · subst e; rw [s.port_setPort]; exact h w
      · rw [s.port_setPort_ne e]; exact w.port r,
    w.ceiling⟩

theorem State.modifyPort_kept (p : Port) (f : PortRecord → PortRecord) (h : s.wellFormed → (f (s.port p)).inRange) :
    Kept s (s.modifyPort p f) :=
  s.setPort_kept p _ h

theorem State.mirrorPort_kept (p : Port) : Kept s (s.mirrorPort p) := State.putWord_kept _ _ _

theorem State.updatePort_kept (p : Port) (f : PortRecord → PortRecord) (h : s.wellFormed → (f (s.port p)).inRange) :
    Kept s (s.updatePort p f) :=
  (s.modifyPort_kept p f h).trans (State.mirrorPort_kept _ p)

theorem State.notePort_kept (p : Port) (f : PortRecord → PortRecord) (h : s.wellFormed → (f (s.port p)).inRange) :
    Kept s (s.notePort p f) :=
  (s.modifyPort_kept p f h).trans (State.remirror_kept _ _ _ _)

theorem State.updateLineCounters_kept (p : Port) (f : LineCounters → LineCounters)
    (h : ∀ c : LineCounters, c.inRange → (f c).inRange) : Kept s (s.updateLineCounters p f) :=
  (s.modifyPort_kept p _ fun w => { w.port p with counters := h _ (w.port p).counters }).trans
    (State.remirrorAll_kept _ _ _ _)

theorem State.clearLineCounters_kept (p : Port) : Kept s (s.clearLineCounters p) :=
  (s.modifyPort_kept p _ fun w => { w.port p with counters := LineCounters.inRange_zero }).trans
    (State.putWords_kept _ _ _)

theorem State.updateDiscards_kept (p : Port) (f : Discards → Discards)
    (h : ∀ c : Discards, c.inRange → (f c).inRange) : Kept s (s.updateDiscards p f) :=
  (s.modifyPort_kept p _ fun w => { w.port p with discards := h _ (w.port p).discards }).trans
    (State.remirrorAll_kept _ _ _ _)

theorem State.clearDiscards_kept (p : Port) : Kept s (s.clearDiscards p) :=
  (s.modifyPort_kept p _ fun w => { w.port p with discards := Discards.inRange_zero }).trans
    (State.putWords_kept _ _ _)

theorem State.setMark_kept (b : Nat) (m : BlockMark) : Kept s (s.setMark b m) := by
  unfold State.setMark
  split
  · exact .of_eq rfl rfl rfl rfl fun h => h.congr h.memory rfl rfl rfl rfl rfl
  · exact Kept.refl s

theorem State.setSpare_kept (l : List Nat) : Kept s (s.setSpare l) :=
  .of_eq rfl rfl rfl rfl fun h => h.congr h.memory rfl rfl rfl rfl rfl

theorem State.setMailbox_kept (st : Station) (r : Fin 4) (m : Mailbox) : Kept s (s.setMailbox st r m) :=
  .of_eq rfl rfl rfl rfl fun h => h.congr h.memory rfl rfl rfl rfl rfl

theorem State.drawFree_kept : Kept s s.drawFree :=
  .of_eq rfl rfl rfl rfl fun h => h.congr h.memory rfl rfl rfl rfl rfl

end Sys2Proof.Machine
end

