-- ==== Sys2Proof/Laws/KeptUnits.lean ====
section
/-! SUPPORT. The operations of the lines, the block map, the touch router, the result writer and the queues keep what
Kept says. -/

namespace Sys2Proof.Machine

variable (s : State)

/-! ### The transmitter -/

section
variable {t : Transmitter}

theorem chooseNext_inRange (h : t.inRange) : (chooseNext t).inRange := by
  obtain ⟨hr, ho⟩ := h
  unfold chooseNext
  split
  · split
    · next k rest hk =>
      rw [hk] at hr
      exact ⟨Nat.le_of_succ_le hr, ho⟩
    · split
      · next o e =>
        split
        · exact ⟨hr, fun x hx => by cases hx; exact ho o e⟩
        · exact ⟨hr, ho⟩
      · exact ⟨hr, ho⟩
  · exact ⟨hr, ho⟩

theorem placeReply_inRange (k : ReplyKind) (h : t.inRange) : (placeReply k t).inRange := by
  unfold placeReply
  split
  · exact chooseNext_inRange ⟨by simpa using ‹t.replies.length < 4›, h.2⟩
  · exact h

theorem offer_inRange (f : Offered) (h : t.inRange) : (offer f t).inRange := by
  unfold offer
  split
  · exact chooseNext_inRange ⟨h.1, fun o ho => by cases ho; exact ⟨Nat.le_refl 1, by simp⟩⟩
  · exact { h with }

theorem moveUp_inRange (h : t.inRange) : (moveUp t).inRange := by
  unfold moveUp
  split
  · exact chooseNext_inRange ⟨h.1, fun o ho => by cases ho; exact ⟨Nat.le_refl 1, by simp⟩⟩
  · exact h

theorem completeFrame_inRange (h : t.inRange) : (completeFrame t).inRange :=
  moveUp_inRange ⟨h.1, fun _ ho => by cases ho⟩

theorem completeUnsent_inRange (h : t.inRange) : (completeUnsent t).inRange := by
  unfold completeUnsent
  split
  · split <;> exact completeFrame_inRange { h with }
  · exact h

theorem frameDone_inRange (clock : Stamp) (timeout : Nat) (h : t.inRange) : (frameDone clock timeout t).inRange := by
  unfold frameDone
  split
  · exact h
  · exact chooseNext_inRange { h with }
  · exact chooseNext_inRange { h with }
  · split
    · next o e => exact chooseNext_inRange ⟨h.1, fun x hx => by cases hx; exact h.2 o e⟩
    · exact chooseNext_inRange { h with }

theorem resendFrame_inRange {o : Outstanding} (h : t.inRange) (ho : o.sends < 3) : (resendFrame o t).inRange :=
  chooseNext_inRange ⟨h.1, fun x hx => by cases hx; exact ⟨Nat.le_add_left 1 _, ho⟩⟩

theorem abandonOutstanding_inRange (h : t.inRange) : (abandonOutstanding t).inRange := ⟨h.1, fun _ ho => by cases ho⟩

theorem giveUpFrames_inRange (p : Port) {x : PortRecord} (h : x.inRange) : (giveUpFrames p x).inRange :=
  { h with transmitter := { replies := Nat.zero_le _, sends := fun _ ho => by cases ho } }

theorem withdrawOpenScan_inRange (grant : Nat) (h : t.inRange) : (withdrawOpenScan grant t).inRange := by
  have emptied : ∀ u : Transmitter, u.replies = t.replies → u.outstanding = none → (moveUp u).inRange := fun u hr ho =>
    moveUp_inRange ⟨hr ▸ h.replies, fun x hx => by rw [ho] at hx; cases hx⟩
  unfold withdrawOpenScan
  split
  case h_2 => exact h
  case h_1 o _ =>
    by_cases own : isOpenScanOf grant o.offered = true
    · rw [if_pos own]
      cases o.phase <;> exact emptied _ rfl rfl
    · rw [if_neg own]
      split
      case h_2 => exact h
      case h_1 f _ =>
        by_cases late : isOpenScanOf grant f = true
        · exact if_pos late ▸ { h with }
        · exact if_neg late ▸ h

end

theorem State.transmit_kept (p : Port) (f : Transmitter → Transmitter)
    (h : s.wellFormed → (f (s.port p).transmitter).inRange) : Kept s (s.transmit p f) :=
  s.modifyPort_kept p _ fun w => { w.port p with transmitter := h w }

theorem State.wellFormed.transmitter {s : State} (h : s.wellFormed) (p : Port) : (s.port p).transmitter.inRange :=
  (h.port p).transmitter

theorem State.offerFrame_kept (p : Port) (f : AnswerFrame) : Kept s (s.offerFrame p f) :=
  s.transmit_kept p _ fun w => offer_inRange _ (w.transmitter p)

theorem State.offerAsk_kept (p : Port) : Kept s (s.offerAsk p) :=
  s.transmit_kept p _ fun w => offer_inRange _ (w.transmitter p)

theorem State.reply_kept (p : Port) (k : ReplyKind) : Kept s (s.reply p k) :=
  s.transmit_kept p _ fun w => placeReply_inRange _ (w.transmitter p)

/-! ### The block map -/

theorem State.lend_kept (b : Nat) : Kept s (s.lend b) := by
  unfold State.lend
  split
  · exact State.setMark_kept _ _ _
  · exact State.setMark_kept _ _ _
  · exact Kept.refl s
  · exact Kept.refl s

theorem State.unlend_kept (b : Nat) : Kept s (s.unlend b) := by
  unfold State.unlend
  split
  · exact State.setMark_kept _ _ _
  · exact Kept.refl s
  · exact Kept.refl s
  · exact Kept.refl s

theorem State.lendAll_kept (chain : List ChainEntry) : Kept s (s.lendAll chain) := 
  Kept.foldl (fun (s : State) (e : ChainEntry) => s.lend_kept e.block) _ _

theorem State.unlendAll_kept (chain : List ChainEntry) : Kept s (s.unlendAll chain) :=
  Kept.foldl (fun (s : State) (e : ChainEntry) => s.unlend_kept e.block) _ _

theorem State.mirrorSpare_kept : Kept s s.mirrorSpare := (State.putWord_kept _ _ _).trans (State.putWord_kept _ _ _)

theorem State.writeLink_kept (b link : Nat) : Kept s (s.writeLink b link) := State.putWord_kept _ _ _

theorem State.writeLength_kept (b n : Nat) : Kept s (s.writeLength b n) := State.putWord_kept _ _ _

theorem State.linkChain_kept (l : List Nat) : Kept s (s.linkChain l) := by
  induction l generalizing s with
  | nil => exact Kept.refl s
  | cons b rest ih =>
    cases rest with
    | nil => exact s.writeLink_kept _ _
    | cons next rest => exact (s.writeLink_kept _ _).trans (ih _)

theorem State.markAll_kept (blocks : List Nat) (m : BlockMark) : Kept s (s.markAll blocks m) :=
  Kept.foldl (fun s b => s.setMark_kept b m) _ _

theorem State.joinSpare_kept (blocks : List Nat) : Kept s (s.joinSpare blocks) := by
  unfold State.joinSpare
  split
  · exact Kept.refl s
  · refine Kept.trans ?_ (State.mirrorSpare_kept _)
    refine Kept.trans ?_ (State.setSpare_kept _ _)
    refine Kept.trans ?_ (State.linkChain_kept _ _)
    refine Kept.trans ?_ (State.markAll_kept _ _ _)
    split
    · exact s.writeLink_kept _ _
    · exact Kept.refl s

theorem State.judgeSpare_kept (before : Nat) : Kept s (s.judgeSpare before) := by
  unfold State.judgeSpare
  extract_lets low u
  have hu : Kept s u := Kept.ite (s.setNotice_kept _) (Kept.refl s)
  exact Kept.ite (hu.trans (u.setNotice_kept _)) hu

theorem State.take_kept (p : Port) (g : Slot) : Kept s (s.take p g) := by
  unfold State.take
  split
  · exact Kept.refl s
  · extract_lets marked headed linked served
    have hm : Kept s marked := ((s.setSpare_kept _).trans (State.setMark_kept _ _ _)).trans
      (State.updateJob_kept _ g _ fun w => { w.job g with })
    have hh : Kept s headed := (hm.trans (State.putWord_kept _ _ _)).trans (State.putWord_kept _ _ _)
    have hl : Kept s linked := by
      refine hh.trans ?_
      unfold linked
      split
      · exact State.writeLink_kept _ _ _
      · exact Kept.refl _
    have hs : Kept s served := hl.trans (State.modifyPort_kept _ p _ fun w => { w.port p with })
    exact (hs.trans (State.mirrorSpare_kept _)).trans (State.judgeSpare_kept _ _)

theorem State.goTestAt_kept (p : Port) : Kept s (s.goTestAt p) := by
  unfold State.goTestAt
  exact Kept.ite ((s.reply_kept p .go).trans (State.modifyPort_kept _ p _ fun w => { w.port p with })) (Kept.refl s)

theorem State.goTest_kept : Kept s s.goTest := Kept.foldl State.goTestAt_kept _ _

theorem State.returnResults_kept (g : Slot) : Kept s (s.returnResults g) := by
  unfold State.returnResults
  split
  · exact Kept.refl s
  · exact ((s.joinSpare_kept _).trans (State.updateJob_kept _ g _ fun w => { w.job g with })).trans (State.goTest_kept _)

theorem State.releaseResults_kept (g : Slot) : Kept s (s.releaseResults g) :=
  (s.markAll_kept _ _).trans (State.updateJob_kept _ g _ fun w => { w.job g with })

theorem State.closeSplice_kept (status : Word) : Kept s (s.closeSplice status) :=
  ((s.putWord_kept _ _).trans (State.putWord_kept _ _ _)).trans (State.setNotice_kept _ _)

theorem State.spliceRefill_kept : Kept s s.spliceRefill := by
  unfold State.spliceRefill
  extract_lets w walk
  refine Kept.ite (Kept.refl s) ?_
  split
  · exact s.closeSplice_kept _
  · exact ((s.joinSpare_kept _).trans (State.closeSplice_kept _ _)).trans (State.goTest_kept _)

/-! ### The touch router -/

theorem State.writeMailWords_kept (st : Station) (r : Fin 4) (seq : Half) (events position : Word) :
    Kept s (s.writeMailWords st r seq events position) :=
  (((s.putWord_kept _ _).trans (State.putWord_kept _ _ _)).trans (State.putWord_kept _ _ _)).trans
    (State.putWord_kept _ _ _)

theorem State.mailboxWrite_kept (st : Station) (r : Fin 4) (newlyTaken : Bool) (m : MailReport) :
    Kept s (s.mailboxWrite st r newlyTaken m) := by
  unfold State.mailboxWrite
  extract_lets b replace after written
  have hw : Kept s written := (s.writeMailWords_kept _ _ _ _ _).trans (State.setMailbox_kept _ _ _ _)
  exact Kept.ite (hw.trans (written.setStationNotice_kept _)) hw

theorem State.clearMailbox_kept (st : Station) (r : Fin 4) : Kept s (s.clearMailbox st r) :=
  (s.writeMailWords_kept _ _ _ _ _).trans (State.setMailbox_kept _ _ _ _)

theorem State.openMailbox_kept (st : Station) (r : Fin 4) : Kept s (s.openMailbox st r) :=
  (s.setMailbox_kept _ _ _).trans (State.clearMailbox_kept _ _ _)

theorem State.setContact_kept (p : Port) (i : Fin 10) (c : Contact) : Kept s (s.setContact p i c) :=
  s.modifyPort_kept p _ fun w => { w.port p with }

theorem State.syntheticUp_kept (p : Port) (i : Fin 10) (c : Capture) : Kept s (s.syntheticUp p i c) :=
  s.mailboxWrite_kept _ _ _ _

theorem State.liftEntry_kept (zones holds : Bool) (p : Port) (after : Contact) (i : Fin 10) :
    Kept s (State.liftEntry zones holds p after s i) := by
  unfold State.liftEntry
  split
  · exact Kept.ite ((s.syntheticUp_kept p i _).trans (State.setContact_kept _ p i after)) (Kept.refl s)
  · exact Kept.ite ((s.syntheticUp_kept p i _).trans (State.setContact_kept _ p i after)) (Kept.refl s)
  · exact Kept.refl s
  · exact Kept.refl s
  · exact Kept.refl s

theorem State.liftEntries_kept (p : Port) (zones holds : Bool) (after : Contact) :
    Kept s (s.liftEntries p zones holds after) :=
  Kept.foldl (fun s i => s.liftEntry_kept zones holds p after i) _ _

theorem State.clearContacts_kept (p : Port) : Kept s (s.clearContacts p) := s.modifyPort_kept p _ fun w => { w.port p with }

theorem State.stopTouch_kept : Kept s s.stopTouch :=
  Kept.foldl (fun s p => (s.liftEntries_kept p true true .none).trans (State.clearContacts_kept _ p)) _ _

theorem State.closeTouch_kept (st : Station) : Kept s (s.closeTouch st) :=
  (Kept.foldl (fun (s : State) (p : Port) => s.modifyPort_kept p
    (fun x => { x with contacts := x.contacts.map (orphanOf st) }) fun w => { w.port p with }) allPorts s).trans
    (Kept.foldl (fun s r => s.clearMailbox_kept st r) _ _)

theorem State.sampleZones_kept (p : Port) : Kept s (s.sampleZones p) := by
  unfold State.sampleZones
  exact Kept.ite (s.modifyPort_kept p _ fun w => { w.port p with }) (Kept.refl s)

theorem State.sampleAllZones_kept : Kept s s.sampleAllZones := Kept.foldl State.sampleZones_kept _ _

theorem State.countUnrouted_kept (p : Port) : Kept s (s.countUnrouted p) :=
  s.updateDiscards_kept p _ fun _ h => { h with unrouted := saturate_le _ _ _ }

theorem State.countClosed_kept (p : Port) : Kept s (s.countClosed p) :=
  s.updateDiscards_kept p _ fun _ h => { h with closed := saturate_le _ _ _ }

theorem State.countStray_kept (p : Port) : Kept s (s.countStray p) :=
  s.updateDiscards_kept p _ fun _ h => { h with stray := saturate_le _ _ _ }

theorem State.countMalformed_kept (p : Port) : Kept s (s.countMalformed p) :=
  s.updateDiscards_kept p _ fun _ h => { h with malformed := saturate_le _ _ _ }

theorem State.deliver_kept (p : Port) (i : Fin 10) (st : Station) (zone : Nat) (holder : Option Slot) (synthetic : Bool)
    (x y pressure : Nat) : Kept s (s.deliver p i st zone holder synthetic x y pressure) := by
  unfold State.deliver
  split
  · extract_lets written c
    have hw : Kept s written := s.mailboxWrite_kept _ _ _ _
    split
    · exact (hw.trans (State.setContact_kept _ p i _)).trans (State.updateJob_kept _ _ _ fun w =>
        { w.job _ with contactsDelivered := saturate_le _ _ _ })
    · exact hw.trans (State.setContact_kept _ p i _)
  · exact (s.setContact_kept p i _).trans (State.updateCounters_kept _ _ _ _ fun _ h =>
      { h with overflow := saturate_le _ _ _ })

theorem State.newContact_kept (p : Port) (i : Fin 10) (synthetic : Bool) (x y pressure : Nat) :
    Kept s (s.newContact p i synthetic x y pressure) := by
  unfold State.newContact
  split
  · exact s.deliver_kept _ _ _ _ _ _ _ _ _
  · split
    · exact Kept.ite (s.countClosed_kept p) (s.deliver_kept _ _ _ _ _ _ _ _ _)
    · exact s.countUnrouted_kept p

theorem State.capturedReport_kept (p : Port) (i : Fin 10) (c : Capture) (rebuild : Capture → Contact) (phase : TouchPhase)
    (x y pressure : Nat) : Kept s (s.capturedReport p i c rebuild phase x y pressure) := by
  cases phase
  · exact ((s.syntheticUp_kept p i c).trans (State.setContact_kept _ p i _)).trans (State.newContact_kept _ _ _ _ _ _ _)
  · exact (s.mailboxWrite_kept _ _ _ _).trans (State.setContact_kept _ p i _)
  · exact (s.mailboxWrite_kept _ _ _ _).trans (State.setContact_kept _ p i _)

theorem State.touch_kept (p : Port) (i : Fin 10) (phase : TouchPhase) (x y pressure : Nat) :
    Kept s (s.touch p i phase x y pressure) := by
  unfold State.touch
  split
  · cases phase
    · exact s.newContact_kept _ _ _ _ _ _
    · exact s.newContact_kept _ _ _ _ _ _
    · exact s.countStray_kept p
  · exact s.capturedReport_kept _ _ _ _ _ _ _ _
  · exact s.capturedReport_kept _ _ _ _ _ _ _ _
  all_goals
    cases phase
    · exact (s.setContact_kept p i _).trans (State.newContact_kept _ _ _ _ _ _ _)
    · exact Kept.refl s
    · exact s.setContact_kept p i _

theorem State.takeReport_kept (p : Port) (r : ContactReport) : Kept s (State.takeReport p s r) := by
  unfold State.takeReport
  split
  · exact s.countMalformed_kept p
  · split
    · exact Kept.ite (s.countMalformed_kept p) (s.touch_kept _ _ _ _ _ _)
    · exact s.countMalformed_kept p

/-! ### The result writer -/

theorem State.charge_kept (st : Station) (busy : Nat) : Kept s (s.charge st busy) :=
  s.updateCounters_kept st _ _ fun _ h => { h with usage := saturate_le _ _ _ }

theorem State.chargeService_kept (g : Slot) : Kept s (s.chargeService g) := s.charge_kept _ _

theorem State.closeFinish_kept (g : Slot) (o : JobOutcome) (d : Detail) : Kept s (s.closeFinish g o d) := by
  unfold State.closeFinish
  refine (((s.setCodes_kept g o d).trans (State.handSlot_kept _ g _)).trans (State.updateCounters_kept _ _ _ _ ?_)).trans (State.setStationNotice_kept _ _)
  exact fun _ h => { h with jobsFinished := saturate_le _ _ _ }

theorem State.writeResults_kept (g : Slot) (word firstGrant portWord : Word) (cls : Option JobClass) (r : ClassResults) :
    Kept s (s.writeResults g word firstGrant portWord cls r) := by
  unfold State.writeResults
  extract_lets a common
  have hc : Kept s common := ((s.putWord_kept _ _).trans (State.putWord_kept _ _ _)).trans (State.putWord_kept _ _ _)
  split
  · exact hc
  · exact hc.trans (State.putWord_kept _ _ _)
  · exact hc.trans (State.putWord_kept _ _ _)
  · exact ((hc.trans (State.putWord_kept _ _ _)).trans (State.putWord_kept _ _ _)).trans (State.putWord_kept _ _ _)

theorem State.writeJobResults_kept (g : Slot) (o : JobOutcome) (d : Detail) (reported : Option Word) :
    Kept s (s.writeJobResults g o d reported) := s.writeResults_kept _ _ _ _ _ _

theorem State.finish_kept (g : Slot) (o : JobOutcome) (d : Detail) (reported : Option Word) :
    Kept s (s.finish g o d reported) := by
  unfold State.finish
  extract_lets closed charged
  have hc : Kept s closed := (s.writeJobResults_kept _ _ _ _).trans (State.closeFinish_kept _ _ _ _)
  have hg : Kept s charged := Kept.ite (hc.trans (State.chargeService_kept _ _)) hc
  split
  · exact hg.trans (State.unlendAll_kept _ _)
  · exact hg

theorem State.refuse_kept (g : Slot) (cls : Option JobClass) (d : Detail) : Kept s (s.refuse g cls d) :=
  (s.writeResults_kept _ _ _ _ _ _).trans (State.closeFinish_kept _ _ _ _)

theorem State.cancelBeforeAccept_kept (g : Slot) (cls : Option JobClass) (clamps : ClampFlags) :
    Kept s (s.cancelBeforeAccept g cls clamps) :=
  ((s.writeResults_kept _ _ _ _ _ _).trans (State.putWord_kept _ _ _)).trans (State.closeFinish_kept _ _ _ _)

/-! ### The queues -/

theorem State.joinDeadlines_kept (g : Slot) : Kept s (s.joinDeadlines g) := s.setDeadlines_kept _

theorem State.leaveDeadlines_kept (g : Slot) : Kept s (s.leaveDeadlines g) := s.setDeadlines_kept _

theorem State.joinQueue_kept (g : Slot) : Kept s (s.joinQueue g) := s.setQueue_kept _ _

theorem State.leaveQueue_kept (g : Slot) : Kept s (s.leaveQueue g) := s.setQueue_kept _ _

theorem State.finishQueued_kept (g : Slot) (o : JobOutcome) (d : Detail) : Kept s (s.finishQueued g o d) :=
  ((s.leaveQueue_kept g).trans (State.leaveDeadlines_kept _ g)).trans (State.finish_kept _ g o d none)

theorem State.latchAged_kept (g : Slot) : Kept s (s.latchAged g) := by
  unfold State.latchAged
  extract_lets c
  exact Kept.ite (s.updateJob_kept g _ fun w => { w.job g with }) (Kept.refl s)

theorem State.latchAll_kept (jobs : List Slot) : Kept s (s.latchAll jobs) := Kept.foldl State.latchAged_kept _ _

theorem State.requeue_kept (g : Slot) : Kept s (s.requeue g) :=
  ((s.handSlot_kept g _).trans (State.joinQueue_kept _ g)).trans (State.chargeService_kept _ g)

theorem State.requeuePreempted_kept (g : Slot) : Kept s (s.requeuePreempted g) :=
  ((s.requeue_kept g).trans (State.updateJob_kept _ g _ fun w =>
    { w.job g with interruptions := saturate_le _ _ _ })).trans (State.updateStats_kept _ _ _ fun _ h =>
    { h with preemptions := saturate_le _ _ _ })

/-- A slot's job is left alone by a change of another kind. -/
theorem State.job_of_slots {s t : State} (h : t.slots = s.slots) (g : Slot) : t.job g = s.job g := by
  unfold State.job State.slot; rw [h]

theorem State.job_handSlot (g k : Slot) (x : SlotState) : (s.handSlot g x).job k = s.job k := by
  have : (s.handSlot g x).job k = (s.setShadow g x).job k := rfl
  rw [this]
  unfold State.setShadow
  by_cases e : k = g
  · subst e; simp [State.job]
  · simp [State.job, s.slot_setSlot_ne e]

theorem State.job_requeue (g k : Slot) : (s.requeue g).job k = s.job k := by
  have : (s.requeue g).job k = (s.handSlot g .queued).job k := rfl
  rw [this, State.job_handSlot]

theorem State.requeueFaulted_kept (g : Slot) (h : (s.job g).faults < 2) : Kept s (s.requeueFaulted g) :=
  ((s.requeue_kept g).trans (State.updateJob_kept _ g _ fun w =>
    { w.job g with faults := by rw [State.job_requeue]; exact h })).trans (State.updateStats_kept _ _ _ fun _ h =>
    { h with faultRequeues := saturate_le _ _ _ })

theorem clearService_inRange {x : PortRecord} (h : x.inRange) : (clearService x).inRange := { h with holdLevel := Nat.zero_le _ }

theorem State.releasePort_kept (p : Port) : Kept s (s.releasePort p) :=
  s.updatePort_kept p _ fun w => { w.port p with holdLevel := Nat.zero_le _ }

end Sys2Proof.Machine
end

