-- ==== Sys2Proof/Laws/KeptServices.lean ====
section
/-! SUPPORT. The print, scan and hold services, the review, the visit and the line events keep what Kept says. -/

namespace Sys2Proof.Machine

variable (s : State)

/-! ### Print -/

theorem State.modifyPrint_kept (p : Port) (f : PrintService → PrintService) : Kept s (s.modifyPrint p f) :=
  s.modifyPort_kept p _ fun w => { w.port p with }

theorem State.countSheet_kept (p : Port) (g : Slot) (counted : Bool) : Kept s (s.countSheet p g counted) := by
  unfold State.countSheet
  refine Kept.trans ?_ (State.modifyPrint_kept _ _ _)
  exact Kept.ite (s.updateJob_kept g _ fun w => { w.job g with }) (Kept.refl s)

theorem State.beginSheet_kept (p : Port) (g : Slot) (copy sheet : Nat) : Kept s (s.beginSheet p g copy sheet) :=
  s.modifyPrint_kept _ _

theorem State.closeSheet_kept (p : Port) (g : Slot) (next : Option (Nat × Nat)) : Kept s (s.closeSheet p g next).1 := by
  unfold State.closeSheet
  extract_lets latched
  have hl : Kept s latched := Kept.ite (s.latchAll_kept _) (Kept.refl s)
  split
  · exact (hl.trans (State.finish_kept _ _ _ _ _)).trans (State.releasePort_kept _ _)
  · exact ((hl.trans (State.updateJob_kept _ g _ fun w => { w.job g with })).trans (State.requeuePreempted_kept _ _)).trans
      (State.releasePort_kept _ _)
  · exact hl.trans (State.beginSheet_kept _ _ _ _ _)
  · exact hl

theorem State.sheetBoundary_kept (p : Port) (g : Slot) (counted : Bool) : Kept s (s.sheetBoundary p g counted).1 :=
  (s.countSheet_kept p g counted).trans (State.closeSheet_kept _ _ _ _)

theorem State.nextEntry_kept (p : Port) : Kept s (s.nextEntry p) := s.modifyPrint_kept _ _

theorem State.feedDue_kept (p : Port) (b n : Nat) : Kept s (s.feedDue p b n) := by
  unfold State.feedDue
  exact Kept.ite (s.modifyPrint_kept _ _) ((s.modifyPrint_kept _ _).trans (State.offerFrame_kept _ _ _))

theorem State.reachEntries_kept (p : Port) (g : Slot) (n : Nat) (s : State) : Kept s (State.reachEntries p g n s) := by
  induction n generalizing s with
  | zero => exact Kept.refl s
  | succ n ih =>
    unfold State.reachEntries
    split
    · exact Kept.refl s
    · extract_lets length
      refine Kept.ite (s.feedDue_kept _ _ _) (Kept.ite ((s.nextEntry_kept p).trans (ih _))
        (Kept.ite (s.modifyPrint_kept _ _) ?_))
      have hb := s.sheetBoundary_kept p g (s.port p).print.fed
      split
      · next s' h => rw [h] at hb; exact hb.trans (ih _)
      · next s' h => rw [h] at hb; exact hb

theorem State.runPrint_kept (p : Port) (g : Slot) : Kept s (s.runPrint p g) := State.reachEntries_kept p g _ s

theorem State.confirmSheet_kept (p : Port) (g : Slot) : Kept s (s.confirmSheet p g) := by
  have hb := s.sheetBoundary_kept p g true
  unfold State.confirmSheet
  split
  · next s' h => rw [h] at hb; exact hb.trans (State.runPrint_kept _ _ _)
  · next s' h => rw [h] at hb; exact hb

theorem State.startPrint_kept (p : Port) (g : Slot) : Kept s (s.startPrint p g) :=
  ((s.modifyPrint_kept _ _).trans (State.beginSheet_kept _ _ _ _ _)).trans (State.runPrint_kept _ _ _)

theorem State.feedAnswered_kept (p : Port) (g : Slot) : Kept s (s.feedAnswered p g) := by
  unfold State.feedAnswered
  split
  · exact Kept.refl s
  · exact Kept.ite ((s.nextEntry_kept p).trans (State.runPrint_kept _ _ _))
      (Kept.ite (s.confirmSheet_kept p g) (s.modifyPrint_kept _ _))

theorem State.printCondition_kept (p : Port) (g : Slot) (c : Condition) : Kept s (s.printCondition p g c) := by
  unfold State.printCondition
  extract_lets cleared
  have hc : Kept s cleared := s.modifyPrint_kept _ _
  exact Kept.ite (s.modifyPrint_kept _ _) (Kept.ite (hc.trans (State.runPrint_kept _ _ _)) hc)

theorem State.sheetTaken_kept (p : Port) (g : Slot) : Kept s (s.sheetTaken p g) := by
  unfold State.sheetTaken
  split
  · exact s.confirmSheet_kept p g
  · exact Kept.ite (Kept.refl s) (s.modifyPrint_kept _ _)
  · exact Kept.refl s
  · exact Kept.refl s

theorem State.keepSheet_kept (p : Port) (g : Slot) : Kept s (s.keepSheet p g) := s.updateJob_kept g _ fun w => { w.job g with }

/-! ### Scan -/

theorem State.modifyScan_kept (p : Port) (f : ScanService → ScanService) : Kept s (s.modifyScan p f) :=
  s.modifyPort_kept p _ fun w => { w.port p with }

theorem State.startScan_kept (p : Port) (g : Slot) : Kept s (s.startScan p g) := by
  unfold State.startScan
  extract_lets j maximum inUse flagged
  have hf : Kept s flagged := Kept.ite (s.updateJob_kept g _ fun w => { w.job g with }) (Kept.refl s)
  exact (hf.trans (State.modifyScan_kept _ _ _)).trans (State.offerFrame_kept _ _ _)

theorem State.roomForByte_kept (p : Port) (g : Slot) : Kept s (s.roomForByte p g) := by
  unfold State.roomForByte
  split
  · exact Kept.ite (Kept.refl s) (s.take_kept p g)
  · exact s.take_kept p g

theorem State.storeByte_kept (p : Port) (g : Slot) (b : Byte) : Kept s (State.storeByte p g s b) := by
  unfold State.storeByte
  extract_lets u x
  have hu : Kept s u := s.roomForByte_kept p g
  split
  · exact hu
  · exact ((hu.trans (State.putByte_kept _ _ _)).trans (State.writeLength_kept _ _ _)).trans (State.modifyScan_kept _ _ _)

theorem State.truncate_kept (p : Port) : Kept s (s.truncate p) :=
  (s.offerFrame_kept p _).trans (State.modifyScan_kept _ _ _)

theorem State.storeImage_kept (p : Port) (g : Slot) (data : List Byte) : Kept s (s.storeImage p g data) := by
  unfold State.storeImage
  extract_lets stored answered
  have hs : Kept s stored := Kept.foldl (fun s b => s.storeByte_kept p g b) _ _
  have ha : Kept s answered := (hs.trans (State.modifyScan_kept _ _ _)).trans (State.reply_kept _ _ _)
  exact Kept.ite (ha.trans (State.truncate_kept _ _)) ha

theorem State.starve_kept (p : Port) (due : Nat) : Kept s (s.starve p due) :=
  (s.reply_kept p _).trans (State.modifyScan_kept _ _ _)

theorem State.imageTaken_kept (p : Port) (g : Slot) (data : List Byte) : Kept s (s.imageTaken p g data) := by
  unfold State.imageTaken
  extract_lets due
  exact Kept.ite (Kept.ite (s.storeImage_kept _ _ _) (s.starve_kept _ _)) (Kept.refl s)

theorem State.finishScan_kept (p : Port) (g : Slot) (o : JobOutcome) (d : Detail) (reported : Option Word) :
    Kept s (s.finishScan p g o d reported) :=
  (s.finish_kept _ _ _ _).trans (State.releasePort_kept _ _)

theorem State.imageEndTaken_kept (p : Port) (g : Slot) (total : Word) : Kept s (s.imageEndTaken p g total) := by
  unfold State.imageEndTaken
  exact Kept.ite (Kept.ite ((s.reply_kept p _).trans (State.finishScan_kept _ _ _ _ _ _))
    ((s.reply_kept p _).trans (State.finishScan_kept _ _ _ _ _ _))) (Kept.refl s)

theorem State.closeScanFrames_kept (p : Port) : Kept s (s.closeScanFrames p) := by
  unfold State.closeScanFrames
  split
  · exact (s.transmit_kept p _ fun w => withdrawOpenScan_inRange _ (w.transmitter p)).trans (State.offerFrame_kept _ _ _)
  · exact s.offerFrame_kept p _
  · exact s.offerFrame_kept p _
  · exact Kept.refl s
  · exact Kept.refl s

theorem State.endScan_kept (p : Port) (g : Slot) (o : JobOutcome) (d : Detail) : Kept s (s.endScan p g o d) :=
  (s.closeScanFrames_kept p).trans (State.finishScan_kept _ _ _ _ _ _)

theorem State.starveOut_kept (p : Port) (g : Slot) : Kept s (s.starveOut p g) :=
  (s.offerFrame_kept p _).trans (State.finishScan_kept _ _ _ _ _ _)

/-! ### Hold -/

theorem State.startHold_kept (p : Port) (g : Slot) : Kept s (s.startHold p g) :=
  (s.modifyPort_kept p _ fun w => { w.port p with }).trans (State.liftEntries_kept _ _ _ _ _)

theorem State.keepHold_kept (g : Slot) (ms : Nat) : Kept s (s.keepHold g ms) := s.updateJob_kept g _ fun w => { w.job g with }

theorem State.keepLeft_kept (p : Port) (g : Slot) : Kept s (s.keepLeft p g) := s.keepHold_kept g _

theorem State.holdExpired_kept (p : Port) (g : Slot) : Kept s (s.holdExpired p g) :=
  (((s.keepHold_kept g _).trans (State.liftEntries_kept _ _ _ _ _)).trans (State.finish_kept _ _ _ _ _)).trans
    (State.releasePort_kept _ _)

theorem State.holdCancelled_kept (p : Port) (g : Slot) : Kept s (s.holdCancelled p g) :=
  (((s.keepHold_kept g _).trans (State.liftEntries_kept _ _ _ _ _)).trans (State.finish_kept _ _ _ _ _)).trans
    (State.releasePort_kept _ _)

theorem State.holdClosed_kept (p : Port) (g : Slot) : Kept s (s.holdClosed p g) :=
  (((s.keepHold_kept g _).trans (State.modifyPort_kept _ p _ fun w => { w.port p with })).trans (State.finish_kept _ _ _ _ _)).trans
    (State.releasePort_kept _ _)

theorem State.holdStopped_kept (p : Port) (g : Slot) : Kept s (s.holdStopped p g) :=
  ((s.keepHold_kept g _).trans (State.finish_kept _ _ _ _ _)).trans (State.releasePort_kept _ _)

theorem State.holdPreempted_kept (p : Port) (g : Slot) : Kept s (s.holdPreempted p g) :=
  (((s.keepLeft_kept p g).trans (State.liftEntries_kept _ _ _ _ _)).trans (State.requeuePreempted_kept _ _)).trans
    (State.releasePort_kept _ _)

/-! ### The review -/

theorem rankOf_le (g : Slot) : s.rankOf g ≤ 255 := by
  unfold State.rankOf rankValue
  extract_lets st
  omega

theorem grantStats_inRange (first : Bool) {wait : Nat} (hw : wait ≤ 4294967295) {x : PoolStats} (h : x.inRange) :
    (grantStats first wait x).inRange := by
  unfold grantStats
  split
  · exact { h with granted := saturate_le _ _ _, waitTotal := saturate_le _ _ _, waitMax := Nat.max_le.mpr ⟨h.waitMax, hw⟩ }
  · exact { h with regrants := saturate_le _ _ _ }

theorem interval_le (a b : Stamp) : interval a b ≤ 4294967295 := Nat.le_of_lt_succ (a - b).isLt

theorem State.startService_kept (p : Port) (g : Slot) : Kept s (s.startService p g) := by
  unfold State.startService
  split
  · exact s.startPrint_kept p g
  · exact s.startScan_kept p g
  · exact s.startHold_kept p g
  · exact Kept.refl s
  · exact Kept.refl s

theorem State.grant_kept (g : Slot) {rank : Nat} (hr : rank ≤ 255) (p : Port) : Kept s (s.grant g rank p) := by
  unfold State.grant
  extract_lets j left counted
  have hl : Kept s left := ((s.handSlot_kept g _).trans (State.leaveQueue_kept _ _)).trans (State.leaveDeadlines_kept _ _)
  have hc : Kept s counted := (hl.trans (State.updateJob_kept _ g _ fun w => { w.job g with })).trans
    (State.updateStats_kept _ _ _ fun _ h => grantStats_inRange _ (interval_le _ _) h)
  refine Kept.trans ?_ (State.startService_kept _ _ _)
  refine hc.trans (State.updatePort_kept _ p _ fun w => { w.port p with holdLevel := ?_ })
  have := w.ceiling (stationOf g)
  unfold State.sample at this
  rw [hc.ctl] at this
  exact Nat.max_le.mpr ⟨hr, this⟩

theorem State.askYield_kept (p : Port) : Kept s (s.askYield p) := s.modifyPort_kept p _ fun w => { w.port p with }

theorem rankIn_le {ranks : List (Slot × Nat)} (h : ∀ r ∈ ranks, r.2 ≤ 255) (g : Slot) : rankIn ranks g ≤ 255 := by
  unfold rankIn
  split
  · next r hr => exact h r (List.mem_of_find?_eq_some hr)
  · exact Nat.zero_le _

theorem State.reviewRounds_kept (q : Pool) {ranks : List (Slot × Nat)} (h : ∀ r ∈ ranks, r.2 ≤ 255) (n : Nat)
    (excluded : List Slot) (s : State) : Kept s (State.reviewRounds q ranks n excluded s) := by
  induction n generalizing excluded s with
  | zero => exact Kept.refl s
  | succ n ih =>
    unfold State.reviewRounds
    split
    · exact Kept.refl s
    · split
      · exact (s.grant_kept _ (rankIn_le h _) _).trans (ih _ _)
      · split
        · exact Kept.refl s
        · exact s.askYield_kept _
        · exact ((s.holdPreempted_kept _ _).trans (State.latchAged_kept _ _)).trans (ih _ _)

theorem State.review_kept (q : Pool) : Kept s (s.review q) := by
  unfold State.review
  split
  · refine (s.latchAll_kept _).trans (State.reviewRounds_kept q (fun r hr => ?_) _ _ _)
    obtain ⟨g, -, rfl⟩ := List.mem_map.mp hr
    exact rankOf_le s g
  · exact s.latchAll_kept _
  · exact Kept.refl s
  · exact Kept.refl s
  · exact Kept.refl s

theorem State.reviewAll_kept : Kept s s.reviewAll := Kept.foldl State.review_kept _ _

theorem State.reviewFreed_kept (p : Port) : Kept s (s.reviewFreed p) := by
  unfold State.reviewFreed
  exact Kept.ite (s.review_kept _) (Kept.refl s)

/-! ### Faults -/

theorem faultPort_inRange (clock : Stamp) (period : Nat) (p : Port) (c : Option Condition) {x : PortRecord}
    (h : x.inRange) : (faultPort clock period p c x).inRange :=
  { giveUpFrames_inRange p (clearService_inRange h) with }

theorem State.enterFaulted_kept (p : Port) (c : Option Condition) : Kept s (s.enterFaulted p c) := by
  unfold State.enterFaulted
  refine Kept.trans (Kept.trans (s.liftEntries_kept p true true .orphan) ?_) (State.setNotice_kept _ _)
  exact State.updatePort_kept _ p _ fun w => faultPort_inRange _ _ p _ (w.port p)

theorem State.enterFree_kept (p : Port) : Kept s (s.enterFree p) :=
  ((s.updatePort_kept p _ fun w => { w.port p with }).trans (State.setNotice_kept _ _)).trans (State.review_kept _ _)

theorem State.keepProgress_kept (p : Port) (g : Slot) : Kept s (s.keepProgress p g) := by
  unfold State.keepProgress
  split
  · exact s.keepSheet_kept p g
  · exact s.keepLeft_kept p g
  · exact Kept.refl s
  · exact Kept.refl s
  · exact Kept.refl s

theorem State.faults_keepProgress (p : Port) (g : Slot) : ((s.keepProgress p g).job g).faults = (s.job g).faults := by
  unfold State.keepProgress
  split
  · simp [State.keepSheet]
  · simp [State.keepLeft, State.keepHold]
  · rfl
  · rfl
  · rfl

theorem State.faults_of_faultFinish {g : Slot} (h : s.faultFinish g = none) : (s.job g).faults < 2 := by
  unfold State.faultFinish at h
  by_contra hn
  simp [show 2 ≤ (s.job g).faults by omega] at h

theorem State.requeueByFault_kept (p : Port) (g : Slot) (h : (s.job g).faults < 2) : Kept s (s.requeueByFault p g) :=
  ((s.requeueFaulted_kept g h).trans (State.modifyScan_kept _ _ _)).trans (State.returnResults_kept _ _)

theorem State.faultEnd_kept (p : Port) (g : Slot) (c : Option Condition) : Kept s (s.faultEnd p g c) := by
  unfold State.faultEnd
  extract_lets kept
  have hk : Kept s kept := s.keepProgress_kept p g
  split
  · exact (hk.trans (State.finish_kept _ _ _ _ _)).trans (State.enterFaulted_kept _ _ _)
  · next h =>
    have hf : (kept.job g).faults < 2 := by
      have := s.faults_of_faultFinish h
      rwa [← s.faults_keepProgress p g] at this
    exact ((hk.trans (State.requeueByFault_kept _ p g hf)).trans (State.enterFaulted_kept _ _ _)).trans
      (State.review_kept _ _)

theorem State.faultAt_kept (p : Port) (c : Condition) : Kept s (s.faultAt p c) := by
  unfold State.faultAt
  split
  · exact s.enterFaulted_kept p _
  · exact s.enterFaulted_kept p _
  · split
    · exact s.faultEnd_kept p _ _
    · exact Kept.refl s
  · exact s.notePort_kept p _ fun w => { w.port p with }
  · exact Kept.refl s

/-! ### The examination of a slot -/

theorem State.writeAcceptance_kept (g : Slot) (clamps : ClampFlags) : Kept s (s.writeAcceptance g clamps) :=
  ((s.putWord_kept _ _).trans (State.putWord_kept _ _ _)).trans (State.handSlot_kept _ _ _)

theorem freshJob_inRange (clock : Stamp) (r : Request) (v : Validated) : (freshJob clock r v).inRange :=
  { JobRecord.inRange_clear with urgency := Nat.min_le_left _ _ }

theorem State.enqueue_kept (g : Slot) (r : Request) (v : Validated) : Kept s (s.enqueue g r v) := by
  unfold State.enqueue
  extract_lets j x written queued listed
  have hw : Kept s written := (s.setSlot_kept g _ fun _ => freshJob_inRange _ r v).trans (State.writeAcceptance_kept _ g _)
  have hq : Kept s queued := hw.trans (State.joinQueue_kept _ g)
  have hl : Kept s listed := Kept.ite hq (hq.trans (State.joinDeadlines_kept _ g))
  exact (hl.trans (State.lendAll_kept _ _)).trans (State.review_kept _ _)

theorem State.accept_kept (g : Slot) : Kept s (s.accept g) := by
  unfold State.accept
  extract_lets r
  split
  · exact s.refuse_kept _ _ _
  · exact Kept.ite (s.cancelBeforeAccept_kept _ _ _) (s.enqueue_kept _ _ _)

theorem State.release_kept (g : Slot) : Kept s (s.release g) :=
  (s.releaseResults_kept g).trans (State.setSlot_kept _ g _ fun _ =>
    ⟨Nat.zero_le _, Nat.zero_le _, Nat.zero_le _, Nat.zero_le _⟩)

theorem State.handoverFault_kept (g : Slot) : Kept s (s.handoverFault g) := by
  unfold State.handoverFault
  refine Kept.trans (Kept.trans (Kept.trans (s.putWord_kept _ _) (State.updateCounters_kept _ _ _ _ ?_))
    (State.setNotice_kept _ _)) (State.setStationNotice_kept _ _)
  exact fun _ h => { h with handoverFaults := saturate_le _ _ _ }

theorem State.cancelServing_kept (g : Slot) : Kept s (s.cancelServing g) := by
  unfold State.cancelServing
  split
  · exact s.updateJob_kept g _ fun w => { w.job g with }
  · exact (s.endScan_kept _ _ _ _).trans (State.reviewFreed_kept _ _)
  · exact (s.holdCancelled_kept _ _).trans (State.reviewFreed_kept _ _)
  · exact Kept.refl s

theorem State.acceptIfRunning_kept (g : Slot) : Kept s (s.acceptIfRunning g) := by
  unfold State.acceptIfRunning
  exact Kept.ite (s.accept_kept g) (Kept.refl s)

theorem State.examine_kept (g : Slot) : Kept s (s.examine g) := by
  unfold State.examine
  split
  · exact Kept.refl s
  · exact s.acceptIfRunning_kept g
  · exact s.acceptIfRunning_kept g
  · exact Kept.ite (s.finishQueued_kept _ _ _) (Kept.refl s)
  · exact Kept.ite (s.cancelServing_kept g) (Kept.refl s)
  · exact Kept.refl s
  · exact s.release_kept g
  · exact (s.release_kept g).trans (State.acceptIfRunning_kept _ g)
  · exact s.handoverFault_kept g

theorem State.closeSlot_kept (g : Slot) : Kept s (s.closeSlot g) := by
  unfold State.closeSlot
  split
  · exact s.finishQueued_kept _ _ _
  · split
    · exact s.updateJob_kept g _ fun w => { w.job g with }
    · exact s.endScan_kept _ _ _ _
    · exact s.holdClosed_kept _ _
    · exact Kept.refl s
  · exact Kept.refl s
  · exact Kept.refl s
  · exact Kept.refl s

theorem State.closeStation_kept (st : Station) : Kept s (s.closeStation st) :=
  ((Kept.foldl State.closeSlot_kept _ _).trans (State.closeTouch_kept _ _)).trans (Kept.foldl (fun s _ => s.review_kept _) _ _)

theorem State.reopenStation_kept (st : Station) : Kept s (s.reopenStation st) :=
  Kept.foldl (fun s q => Kept.ite (s.review_kept q) (Kept.refl s)) _ _

theorem State.changeStation_kept (st : Station) (before after : StationState) :
    Kept s (s.changeStation st before after) := by
  unfold State.changeStation
  split
  · exact s.closeStation_kept st
  · exact s.closeStation_kept st
  · exact s.reopenStation_kept st
  all_goals exact Kept.refl s

/-! ### Line events -/

theorem State.tellService_kept (p : Port) (f : Offered) : Kept s (s.tellService p f) := by
  unfold State.tellService
  split
  · split
    · split
      · exact s.feedAnswered_kept p _
      · exact s.modifyScan_kept p _
      · exact s.finishScan_kept _ _ _ _ _
      · exact Kept.refl s
    · exact Kept.refl s
  · exact Kept.refl s

theorem State.reviewEnded_kept (before : State) (p : Port) : Kept s (s.reviewEnded before p) := by
  unfold State.reviewEnded
  exact Kept.ite (s.reviewFreed_kept p) (Kept.refl s)

theorem State.ackTaken_kept (p : Port) : Kept s (s.ackTaken p) := by
  unfold State.ackTaken
  split
  · exact ((s.transmit_kept p _ fun w => completeFrame_inRange (w.transmitter p)).trans
      (State.tellService_kept _ _ _)).trans (State.reviewEnded_kept _ _ _)
  · exact Kept.refl s

theorem State.countResend_kept (p : Port) :
    Kept s (s.updateLineCounters p fun x => { x with resend := saturate max32 x.resend 1 }) :=
  s.updateLineCounters_kept p _ fun _ h => { h with resend := saturate_le _ _ _ }

theorem State.sendFailed_kept (p : Port) (c : Condition) : Kept s (s.sendFailed p c) := by
  unfold State.sendFailed
  split
  · next o ho =>
    split
    · next hlt =>
      exact (s.countResend_kept p).trans (State.transmit_kept _ p _ fun w => resendFrame_inRange (w.transmitter p) hlt)
    · extract_lets failed
      have hf : Kept s failed := (s.transmit_kept p _ fun w => abandonOutstanding_inRange (w.transmitter p)).trans
        (State.faultAt_kept _ p c)
      exact Kept.ite hf (hf.trans (State.transmit_kept _ p _ fun w => moveUp_inRange (w.transmitter p)))
  · exact Kept.refl s

theorem State.nakTaken_kept (p : Port) : Kept s (s.nakTaken p) := by
  unfold State.nakTaken
  split
  · exact s.sendFailed_kept p _
  · exact Kept.refl s

theorem State.stateAnswers_kept (p : Port) (c : Condition) : Kept s (s.stateAnswers p c) := by
  unfold State.stateAnswers
  split
  · exact Kept.ite (s.transmit_kept p _ fun w => completeFrame_inRange (w.transmitter p)) (Kept.refl s)
  · exact Kept.ite (s.transmit_kept p _ fun w => completeUnsent_inRange (w.transmitter p)) (Kept.refl s)

theorem State.stateActs_kept (p : Port) (c : Condition) : Kept s (s.stateActs p c) := by
  unfold State.stateActs
  split
  · exact Kept.refl s
  · exact Kept.ite (s.enterFree_kept p) (s.enterFaulted_kept p _)
  · exact Kept.ite (Kept.refl s) (s.enterFaulted_kept p _)
  · split
    · refine Kept.ite (Kept.ite ?_ (Kept.refl s)) (s.faultEnd_kept p _ _)
      exact (s.printCondition_kept p _ c).trans (State.reviewEnded_kept _ _ _)
    · exact Kept.refl s
  · exact Kept.ite (s.enterFree_kept p) (Kept.refl s)

theorem capabilityOf_le (cls : PortClass) (b : Byte) : capabilityOf cls b ≤ 10 := by
  unfold capabilityOf
  split <;> omega

theorem State.stateTaken_kept (p : Port) (c : Condition) (capability : Byte) : Kept s (s.stateTaken p c capability) := by
  unfold State.stateTaken
  refine Kept.trans (Kept.trans (s.stateAnswers_kept p c) ?_) (State.stateActs_kept _ p c)
  exact State.notePort_kept _ p _ fun w => { w.port p with capability := capabilityOf_le _ _ }

theorem State.contactTaken_kept (p : Port) (reports : List ContactReport) : Kept s (s.contactTaken p reports) := by
  unfold State.contactTaken
  exact Kept.ite (Kept.foldl (fun s r => s.takeReport_kept p r) _ _) (Kept.refl s)

theorem State.dispatch_kept (p : Port) (f : PeripheralFrame) : Kept s (s.dispatch p f) := by
  unfold State.dispatch
  split
  · exact s.ackTaken_kept p
  · exact s.nakTaken_kept p
  · split
    · exact s.stateTaken_kept p _ _
    · exact Kept.refl s
  · split
    · exact (s.sheetTaken_kept p _).trans (State.reviewEnded_kept _ _ _)
    · exact Kept.refl s
  · split
    · exact s.imageTaken_kept p _ _
    · exact Kept.refl s
  · split
    · exact (s.imageEndTaken_kept p _ _).trans (State.reviewEnded_kept _ _ _)
    · exact Kept.refl s
  · exact s.contactTaken_kept p _

theorem State.countNoise_kept (p : Port) : Kept s (s.countNoise p) :=
  s.updateLineCounters_kept p _ fun _ h => { h with noise := saturate_le _ _ _ }

theorem State.countFraming_kept (p : Port) : Kept s (s.countFraming p) :=
  s.updateLineCounters_kept p _ fun _ h => { h with framing := saturate_le _ _ _ }

theorem State.countCheck_kept (p : Port) : Kept s (s.countCheck p) :=
  s.updateLineCounters_kept p _ fun _ h => { h with check := saturate_le _ _ _ }

theorem State.setReceiver_kept (p : Port) (r : Receiver) : Kept s (s.setReceiver p r) :=
  s.modifyPort_kept p _ fun w => { w.port p with }

theorem State.rejectCheck_kept (p : Port) (kind : Byte) : Kept s (s.rejectCheck p kind) := by
  unfold State.rejectCheck
  extract_lets counted
  have hc : Kept s counted := s.countCheck_kept p
  exact Kept.ite (hc.trans (State.reply_kept _ p _)) hc

theorem State.frameComplete_kept (p : Port) (kind : Byte) (payload : List Byte) (check : Byte) :
    Kept s (s.frameComplete p kind payload check) := by
  unfold State.frameComplete
  extract_lets hunting
  have hh : Kept s hunting := s.setReceiver_kept p _
  refine Kept.ite (hh.trans (State.rejectCheck_kept _ p kind)) ?_
  split
  · exact hh.trans (State.dispatch_kept _ p _)
  · exact hh.trans (State.countFraming_kept _ p)

theorem State.frameCharacter_kept (p : Port) (b : Byte) : Kept s (s.frameCharacter p b) := by
  unfold State.frameCharacter
  split
  · exact Kept.refl s
  · exact Kept.refl s
  · exact Kept.ite ((s.setReceiver_kept p _).trans (State.countFraming_kept _ p))
      (Kept.ite (s.setReceiver_kept p _) (s.setReceiver_kept p _))
  · exact Kept.ite (s.setReceiver_kept p _) (s.setReceiver_kept p _)
  · exact s.frameComplete_kept p _ _ _

theorem State.receive_kept (p : Port) (c : Character) : Kept s (s.receive p c) := by
  unfold State.receive
  split
  · exact (s.setReceiver_kept p _).trans (State.countNoise_kept _ p)
  · exact (s.setReceiver_kept p _).trans (State.countFraming_kept _ p)
  · refine Kept.ite ?_ (s.frameCharacter_kept p _)
    split
    · exact s.setReceiver_kept p _
    · exact s.setReceiver_kept p _
    · exact (s.countFraming_kept p).trans (State.setReceiver_kept _ p _)

theorem State.endWait_kept (p : Port) : Kept s (s.endWait p) := Kept.ite (s.setReceiver_kept p _) (Kept.refl s)

theorem State.takeCharacter_kept (p : Port) (ch : Character) : Kept s (s.takeCharacter p ch) :=
  Kept.ite ((s.receive_kept p ch).trans (State.setReceiver_kept _ p _)) (s.receive_kept p ch)

theorem State.characterEvent_kept (p : Port) (c : LineCharacter) : Kept s (s.characterEvent p c) := by
  unfold State.characterEvent
  refine Kept.ite ?_ (Kept.refl s)
  split
  · exact (s.endWait_kept p).trans (State.takeCharacter_kept _ p _)
  · exact s.endWait_kept p

theorem State.frameEvent_kept (p : Port) (f : PeripheralFrame) : Kept s (s.frameEvent p f) := by
  unfold State.frameEvent
  extract_lets hunting
  have hh : Kept s hunting := s.setReceiver_kept p _
  exact Kept.ite (Kept.ite (hh.trans (State.dispatch_kept _ p f)) (hh.trans (State.countFraming_kept _ p))) (Kept.refl s)

theorem State.rejectEvent_kept (p : Port) (kind : Byte) (payload : List Byte) (check : Byte) :
    Kept s (s.rejectEvent p kind payload check) := by
  unfold State.rejectEvent
  extract_lets hunting
  have hh : Kept s hunting := s.setReceiver_kept p _
  refine Kept.ite (Kept.ite (hh.trans (State.rejectCheck_kept _ p kind)) ?_) (Kept.refl s)
  split
  · exact Kept.refl s
  · exact hh.trans (State.countFraming_kept _ p)

theorem State.sentEvent_kept (p : Port) : Kept s (s.sentEvent p) :=
  s.modifyPort_kept p _ fun w => by
    have k := w.port p
    unfold portSent
    split
    · exact k
    · exact { k with transmitter := frameDone_inRange _ _ k.transmitter }

/-! ### Expiries -/

theorem State.expireJob_kept (g : Slot) : Kept s (s.expireJob g) := by
  unfold State.expireJob
  refine Kept.trans (Kept.trans ((s.leaveQueue_kept g).trans (State.leaveDeadlines_kept _ g))
    (State.updateStats_kept _ _ _ ?_)) (State.finish_kept _ g _ _ _)
  exact fun _ h => { h with expiries := saturate_le _ _ _ }

theorem State.deadlineEvent_kept : Kept s s.deadlineEvent := by
  unfold State.deadlineEvent
  split
  · exact s.expireJob_kept _
  · exact Kept.refl s

theorem State.halveUsage_kept (st : Station) : Kept s (s.halveUsage st) :=
  Kept.ite (Kept.refl s) (s.updateCounters_kept st _ _ fun _ h =>
    { h with usage := Nat.le_trans (Nat.div_le_self _ _) h.usage })

theorem State.decayStep_kept : Kept s s.decayStep :=
  (Kept.foldl State.halveUsage_kept _ _).trans (State.reviewAll_kept _)

theorem State.responseEvent_kept (p : Port) : Kept s (s.responseEvent p) := by
  unfold State.responseEvent
  exact Kept.ite ((s.transmit_kept p _ fun w => { w.transmitter p with }).trans (State.sendFailed_kept _ p _)) (Kept.refl s)

theorem State.probeEvent_kept (p : Port) : Kept s (s.probeEvent p) := by
  unfold State.probeEvent
  extract_lets restarted
  have hr : Kept s restarted := s.modifyPort_kept p _ fun w => { w.port p with }
  exact Kept.ite (Kept.ite (hr.trans (State.offerAsk_kept _ p)) hr) (Kept.refl s)

theorem State.sheetEvent_kept (p : Port) : Kept s (s.sheetEvent p) := by
  unfold State.sheetEvent
  refine Kept.ite ?_ (Kept.refl s)
  split
  · exact s.faultEnd_kept p _ _
  · exact Kept.refl s

theorem State.starveEvent_kept (p : Port) : Kept s (s.starveEvent p) := by
  unfold State.starveEvent
  refine Kept.ite ?_ (Kept.refl s)
  split
  · exact (s.starveOut_kept p _).trans (State.reviewFreed_kept _ p)
  · exact Kept.refl s

theorem State.holdEvent_kept (p : Port) : Kept s (s.holdEvent p) := by
  unfold State.holdEvent
  refine Kept.ite ?_ (Kept.refl s)
  split
  · exact (s.holdExpired_kept p _).trans (State.reviewFreed_kept _ p)
  · exact Kept.refl s

/-! ### The operations of START and STOP that stay below the engine -/

theorem State.stopQueued_kept (g : Slot) : Kept s (s.stopQueued g) := by
  unfold State.stopQueued
  exact Kept.ite (s.finishQueued_kept _ _ _) (Kept.refl s)

theorem State.stopService_kept (p : Port) : Kept s (s.stopService p) := by
  unfold State.stopService
  split
  · exact s.endScan_kept _ _ _ _
  · exact s.holdStopped_kept _ _
  · exact Kept.refl s

theorem State.rebuildFault_kept (g : Slot) : Kept s (s.rebuildFault g) := by
  unfold State.rebuildFault
  refine Kept.trans (Kept.trans (s.updateCounters_kept _ _ _ ?_) (State.setNotice_kept _ _)) (State.setStationNotice_kept _ _)
  exact fun _ h => { h with handoverFaults := saturate_le _ _ _ }

theorem State.rebuildWalk_kept (g : Slot) (n b : Nat) (s : State) : Kept s (State.rebuildWalk g n b s) := by
  induction n generalizing b s with
  | zero =>
    unfold State.rebuildWalk
    exact Kept.ite (Kept.refl s) (Kept.ite (Kept.refl s) (s.rebuildFault_kept g))
  | succ n ih =>
    unfold State.rebuildWalk
    refine Kept.ite (Kept.refl s) (Kept.ite ?_ (s.rebuildFault_kept g))
    exact ((s.setMark_kept b _).trans (State.updateJob_kept _ g _ fun w => { w.job g with })).trans (ih _ _)

theorem State.rebuildSlot_kept (g : Slot) : Kept s (s.rebuildSlot g) := by
  unfold State.rebuildSlot
  split
  · exact (s.putWord_kept _ _).trans (State.closeFinish_kept _ g _ _)
  · exact (s.putWord_kept _ _).trans (State.closeFinish_kept _ g _ _)
  · exact (s.handSlot_kept g _).trans (State.rebuildFault_kept _ g)
  · extract_lets kept
    have hk : Kept s kept := s.setShadow_kept g _
    exact Kept.ite (hk.trans (State.rebuildWalk_kept g _ _ _)) hk
  · exact s.setShadow_kept g _
  · exact s.setShadow_kept g _

end Sys2Proof.Machine
end

