-- ==== Sys2Proof/Laws/Events.lean ====
section
/-! SUPPORT. What closes an event: the interrupt message, the end of draining and the entry to STOPPED. -/

namespace Sys2Proof.Machine

/-! ### The interrupt -/

/-- Settling an event adds the message that is due, and nothing else. -/
theorem settleInterrupt_eq (s t : State) : settleInterrupt s t =
    { t with ctl := { t.ctl with messagesSent := t.ctl.messagesSent + messageDue s t } } := by
  unfold settleInterrupt messageDue
  cases s.request <;> cases t.request <;> cases t.ctl.messagesEnabled <;> rfl

theorem request_congr {s t : State} (hn : t.notice = s.notice) (hs : t.stationNotice = s.stationNotice)
    (hm : t.ctl.mask = s.ctl.mask) : t.request = s.request := by
  unfold State.request State.noticeWord; rw [hn, hs, hm]

theorem messageDue_self (s t : State) (h : t.request = s.request) : messageDue s t = 0 := by
  unfold messageDue; rw [h]; cases s.request <;> simp

/-- An event that leaves the request as it was sends nothing. -/
theorem settleInterrupt_of_eq (s t : State) (h : t.request = s.request) : settleInterrupt s t = t := by
  rw [settleInterrupt_eq, messageDue_self s t h]; rfl

/-! ### Entry to STOPPED -/

/-- The ports of the part all OFFLINE. -/
theorem State.port_foldl_update (f : Port → PortRecord → PortRecord) (l : List Port) (hl : l.Nodup) (s : State) (p : Port) :
    (l.foldl (fun s p => s.updatePort p (f p)) s).port p = if p ∈ l then f p (s.port p) else s.port p := by
  induction l generalizing s with
  | nil => simp
  | cons r rest ih =>
    obtain ⟨hr, hrest⟩ := List.nodup_cons.mp hl
    rw [List.foldl_cons, ih hrest]
    by_cases e : p = r
    · subst e; simp [hr]
    · simp [e, s.port_updatePort_ne e]

theorem mem_allPorts (p : Port) : p ∈ allPorts := List.mem_finRange p

theorem State.enterStopped_port (s : State) (p : Port) : s.enterStopped.port p = offlinePort p (s.port p) := by
  have h := s.port_foldl_update offlinePort allPorts (List.nodup_finRange 12) p
  rw [if_pos (mem_allPorts p)] at h
  exact h

theorem offlinePort_inRange (p : Port) {x : PortRecord} (h : x.inRange) : (offlinePort p x).inRange :=
  { giveUpFrames_inRange p h with }

/-- The ports going OFFLINE change nothing that Kept speaks of. -/
theorem State.allOffline_kept (s : State) : Kept s (allPorts.foldl (fun s p => s.updatePort p (offlinePort p)) s) :=
  Kept.foldl (fun s p => s.updatePort_kept p _ fun w => offlinePort_inRange p (w.port p)) _ _

/-- The control registers after an entry to STOPPED (R20). -/
def stoppedControl (c : Control) : Control := { c with
  engine := .stopped
  sweep := none
  sweepTimer := none
  sweepHeld := false
  decayTimer := none
  nudgeVisits := Vector.replicate 32 false
  nudgeSweep := false }

theorem State.enterStopped_ctl (s : State) : s.enterStopped.ctl = stoppedControl s.ctl := by
  have h := s.allOffline_kept.ctl
  unfold State.enterStopped stoppedControl
  simp only [State.setNotice_ctl, State.setControl_ctl, h]

theorem State.enterStopped_notice (s : State) : s.enterStopped.notice = s.notice ||| noticeMask .engine := by
  have h : ∀ (l : List Port) (u : State), (l.foldl (fun s p => s.updatePort p (offlinePort p)) u).notice = u.notice := by
    intro l
    induction l with
    | nil => exact fun _ => rfl
    | cons r rest ih => exact fun u => ih _
  have := h allPorts s
  unfold State.enterStopped
  rw [State.setNotice_notice, State.setControl_notice, this]

theorem State.enterStopped_pending (s : State) : s.enterStopped.pending = s.pending := by
  unfold State.enterStopped
  rw [State.setNotice_pending, State.setControl_pending]
  exact s.allOffline_kept.pending

theorem State.enterStopped_stationNotice (s : State) : s.enterStopped.stationNotice = s.stationNotice := by
  have h : ∀ (l : List Port) (u : State),
      (l.foldl (fun s p => s.updatePort p (offlinePort p)) u).stationNotice = u.stationNotice := by
    intro l
    induction l with
    | nil => exact fun _ => rfl
    | cons r rest ih => exact fun u => ih _
  unfold State.enterStopped
  rw [State.setNotice_stationNotice, State.setControl_stationNotice]
  exact h allPorts s

/-- A change of control registers that keeps the samples keeps the invariant. -/
theorem State.setControl_wellFormed {s : State} (h : s.wellFormed) (f : Control → Control)
    (hf : (f s.ctl).samples = s.ctl.samples) : (s.setControl f).wellFormed :=
  h.congr h.memory rfl rfl rfl rfl hf

theorem State.enterStopped_wellFormed {s : State} (h : s.wellFormed) : s.enterStopped.wellFormed := by
  unfold State.enterStopped
  exact (State.setNotice_kept _ .engine).data (State.setControl_wellFormed (s.allOffline_kept.data h) _ rfl)

/-! ### What closes an event -/

/-- The end of draining stops the engine or leaves the event as it is. -/
theorem drainEnd_cases (s t : State) :
    (drainEnd s t = t) ∨ (t.ctl.engine = .draining ∧ s.anyServing = true ∧ t.anyServing = false ∧ drainEnd s t = t.enterStopped) := by
  unfold drainEnd
  split
  · next h => exact .inr ⟨h.1, h.2.1, h.2.2, rfl⟩
  · exact .inl rfl

theorem drainEnd_of_not_draining (s t : State) (h : t.ctl.engine ≠ .draining) : drainEnd s t = t := by
  unfold drainEnd
  rw [if_neg (fun k => h k.1)]

theorem closeEvent_pending (s t : State) : (closeEvent s t).pending = t.pending := by
  unfold closeEvent
  rw [settleInterrupt_eq]
  rcases drainEnd_cases s t with h | ⟨-, -, -, h⟩ <;> rw [h]
  exact t.enterStopped_pending

/-- The count of messages sent is no part of the invariant. -/
theorem State.messages_wellFormed {s : State} (h : s.wellFormed) (n : Nat) :
    ({ s with ctl := { s.ctl with messagesSent := n } } : State).wellFormed :=
  State.setControl_wellFormed h (fun c => { c with messagesSent := n }) rfl

theorem closeEvent_wellFormed {s t : State} (h : t.wellFormed) : (closeEvent s t).wellFormed := by
  unfold closeEvent
  rw [settleInterrupt_eq]
  rcases drainEnd_cases s t with k | ⟨-, -, -, k⟩ <;> rw [k]
  · exact State.messages_wellFormed h _
  · exact State.messages_wellFormed (State.enterStopped_wellFormed h) _

/-- Outside DRAINING an event is closed by the message alone. -/
theorem closeEvent_of_not_draining (s t : State) (h : t.ctl.engine ≠ .draining) : closeEvent s t =
    { t with ctl := { t.ctl with messagesSent := t.ctl.messagesSent + messageDue s t } } := by
  unfold closeEvent
  rw [drainEnd_of_not_draining s t h, settleInterrupt_eq]

/-- An event without effect leaves the state as it is. -/
theorem closeEvent_self (s : State) : closeEvent s s = s := by
  unfold closeEvent drainEnd
  rw [if_neg (fun k => by simp [k.2.1] at k)]
  exact settleInterrupt_of_eq s s rfl

/-! ### Events that leave the notices as they were -/

/-- States that agree in every field are equal. -/
theorem State.ext_of {s t : State} (h1 : t.ctl = s.ctl) (h2 : t.mem = s.mem) (h3 : t.notice = s.notice)
    (h4 : t.stationNotice = s.stationNotice) (h5 : t.slots = s.slots) (h6 : t.queues = s.queues)
    (h7 : t.deadlines = s.deadlines) (h8 : t.stats = s.stats) (h9 : t.stations = s.stations) (h10 : t.ports = s.ports)
    (h11 : t.marks = s.marks) (h12 : t.spare = s.spare) (h13 : t.mailboxes = s.mailboxes) (h14 : t.free = s.free)
    (h15 : t.pending = s.pending) : t = s := by
  cases s; cases t; simp only at *; simp_all

theorem settleInterrupt_same (s t : State) (hn : t.notice = s.notice) (hs : t.stationNotice = s.stationNotice)
    (hm : t.ctl.mask = s.ctl.mask) : settleInterrupt s t = t :=
  settleInterrupt_of_eq s t (request_congr hn hs hm)

/-- An event that leaves some port SERVING as before, the notices and MASK as before, is closed as it is. -/
theorem closeEvent_same (s t : State) (h : t.anyServing = s.anyServing) (hn : t.notice = s.notice)
    (hs : t.stationNotice = s.stationNotice) (hm : t.ctl.mask = s.ctl.mask) : closeEvent s t = t := by
  unfold closeEvent drainEnd
  rw [if_neg (fun k => by rw [h] at k; simp [k.2.1] at k)]
  exact settleInterrupt_same s t hn hs hm

theorem State.anyServing_congr {s t : State} (h : ∀ p, (t.port p).state = .serving ↔ (s.port p).state = .serving) :
    t.anyServing = s.anyServing := by
  unfold State.anyServing State.isServing
  rw [Bool.eq_iff_iff]
  simp [List.any_eq_true, h]

theorem State.anyServing_of_ports {s t : State} (h : t.ports = s.ports) : t.anyServing = s.anyServing := by
  apply State.anyServing_congr; intro p; unfold State.port; rw [h]

/-- A change of control registers that keeps MASK closes as it is. -/
theorem closeEvent_setControl (s : State) (f : Control → Control) (h : (f s.ctl).mask = s.ctl.mask) :
    closeEvent s (s.setControl f) = s.setControl f :=
  closeEvent_same s (s.setControl f) (State.anyServing_of_ports rfl) rfl rfl h

end Sys2Proof.Machine
end

