-- ==== Sys2Proof/Laws/Fields.lean ====
section
/-! SUPPORT. The fields of a word: what a field reads of numbers placed in a word side by side, and of a merge (R193,
R194). -/

namespace Sys2Proof.Machine

theorem place_getLsbD (v low n i : Nat) : (place v low n).getLsbD i =
    (decide (i < 32) && decide (low ≤ i) && decide (i < low + n) && v.testBit (i - low)) := by
  unfold place
  rw [BitVec.getLsbD_shiftLeft, BitVec.getLsbD_setWidth, BitVec.getLsbD_ofNat]
  by_cases h1 : i < 32
  · by_cases h2 : low ≤ i
    · have hl : ¬ i < low := by omega
      have h32 : i - low < 32 := by omega
      by_cases h3 : i < low + n
      · have hn : i - low < n := by omega
        simp [h1, h2, h3, hl, h32, hn]
      · have hn : ¬ i - low < n := by omega
        simp [h1, h2, h3, hl, hn]
    · simp [h2, show i < low by omega]
  · simp [h1]

/-- A field reads the number that was placed in it. -/
theorem extract_place_same (v : Nat) {low n : Nat} (h : low + n ≤ 32) :
    (place v low n).extractLsb' low n = BitVec.ofNat n v := by
  ext i hi
  rw [BitVec.getElem_extractLsb', place_getLsbD]
  rw [← BitVec.getLsbD_eq_getElem hi, BitVec.getLsbD_ofNat]
  simp [hi, show low + i < 32 by omega]

/-- A field reads 0 of a number placed apart from it. -/
theorem extract_place_apart (v : Nat) {low n low' n' : Nat} (h : low + n ≤ low' ∨ low' + n' ≤ low) :
    (place v low n).extractLsb' low' n' = 0 := by
  ext i hi
  rw [BitVec.getElem_extractLsb', place_getLsbD]
  simp
  omega

theorem field_or (a b : Word) (low n : Nat) :
    field (a ||| b) low n = (a.extractLsb' low n ||| b.extractLsb' low n).toNat := by
  unfold field; rw [BitVec.extractLsb'_or]

theorem field_place_same (v : Nat) {low n : Nat} (h : low + n ≤ 32) : field (place v low n) low n = v % 2 ^ n := by
  unfold field; rw [extract_place_same v h, BitVec.toNat_ofNat]

theorem field_place_apart (v : Nat) {low n low' n' : Nat} (h : low + n ≤ low' ∨ low' + n' ≤ low) :
    field (place v low n) low' n' = 0 := by
  unfold field; rw [extract_place_apart v h]; rfl

/-- A field of a union of words in which only the left one has bits there. -/
theorem field_or_left {a b : Word} {low n : Nat} (h : field b low n = 0) : field (a ||| b) low n = field a low n := by
  have h' : b.extractLsb' low n = 0#n := BitVec.eq_of_toNat_eq (by rw [BitVec.toNat_ofNat, Nat.zero_mod]; exact h)
  rw [field_or, h', BitVec.or_zero]; rfl

/-- A field of a union of words in which only the right one has bits there. -/
theorem field_or_right {a b : Word} {low n : Nat} (h : field a low n = 0) : field (a ||| b) low n = field b low n := by
  rw [BitVec.or_comm]; exact field_or_left h

/-- A merge replaces its field. -/
theorem field_merge_same (w : Word) (v : Nat) {low n : Nat} (h : low + n ≤ 32) : field (merge w v low n) low n = v % 2 ^ n := by
  unfold merge
  have hz : field (w &&& ~~~(place (2 ^ n - 1) low n)) low n = 0 := by
    unfold field
    rw [BitVec.extractLsb'_and]
    have : (~~~(place (2 ^ n - 1) low n)).extractLsb' low n = 0#n := by
      ext i hi
      rw [BitVec.getElem_extractLsb', BitVec.getLsbD_not, place_getLsbD]
      simp [show low + i < 32 by omega, hi, Nat.testBit_two_pow_sub_one]
    rw [this, BitVec.and_zero, BitVec.toNat_ofNat, Nat.zero_mod]
  rw [field_or_right hz, field_place_same v h]

/-- A merge keeps every bit outside its field. -/
theorem merge_getLsbD_apart (w : Word) (v low n i : Nat) (h : i < low ∨ low + n ≤ i) :
    (merge w v low n).getLsbD i = w.getLsbD i := by
  unfold merge
  rw [BitVec.getLsbD_or, BitVec.getLsbD_and, BitVec.getLsbD_not, place_getLsbD, place_getLsbD]
  by_cases hi : i < 32
  · rcases h with h | h
    · simp [hi, show ¬ low ≤ i by omega]
    · simp [hi, show ¬ i < low + n by omega]
  · simp [hi, BitVec.getLsbD_of_ge w i (by omega)]

/-- A merge keeps every field apart from its own. -/
theorem extract_merge_apart (w : Word) (v : Nat) {low n low' n' : Nat} (h : low + n ≤ low' ∨ low' + n' ≤ low) :
    (merge w v low n).extractLsb' low' n' = w.extractLsb' low' n' := by
  ext i hi
  rw [BitVec.getElem_extractLsb', BitVec.getElem_extractLsb', merge_getLsbD_apart]
  omega

end Sys2Proof.Machine
end

