-- ==== Sys2Proof/Laws/Lines.lean ====
section
/-! SUPPORT. What a line carries: the bits of a character, the characters of a port's output, and the character that a
given-up frame leaves; the GO test of one port; what the receiver does before it takes a character. -/

namespace Sys2Proof.Machine

/-! ### The bits of a line (R97) -/

@[simp] theorem lineBits_length (c : Byte × Bool) : (lineBits c).length = 11 := by simp [lineBits]

/-- A port that sends nothing and has no cut-off character rests. -/
theorem PortRecord.level_at_rest {x : PortRecord} (h : x.output = []) (time : Nat) : x.level time = restLevel := by
  simp [PortRecord.level, h]

/-- After the bit-times of its output a line rests. -/
theorem PortRecord.level_after (x : PortRecord) {time : Nat} (h : 11 * x.output.length ≤ time) :
    x.level time = restLevel := by
  have k : (x.output.flatMap lineBits).length = 11 * x.output.length := by
    induction x.output with
    | nil => rfl
    | cons c rest ih => simp only [List.flatMap_cons, List.length_append, lineBits_length, ih, List.length_cons]; omega
  simp [PortRecord.level, List.getElem?_eq_none (by omega : (x.output.flatMap lineBits).length ≤ time)]

/-! ### Frames given up (R111) -/

theorem cutFrame_idle (p : Port) {x : PortRecord} (h : wireCharacters x.transmitter = []) : cutFrame p x = x.cut := by
  simp [cutFrame, h]

/-- Of a frame that is being sent one character of the port's output stays. -/
theorem cutFrame_sending (p : Port) {x : PortRecord} (h : wireCharacters x.transmitter ≠ []) :
    (cutFrame p x).count = x.cut.count + 1 ∧ ∃ c ∈ x.output, (cutFrame p x).character = some c := by
  obtain ⟨c, rest, e⟩ := List.exists_cons_of_ne_nil h
  have n : 0 < x.output.length := by simp [PortRecord.output, e]
  have k := Nat.mod_lt (Config.cutPlace p (x.cut.count + 1)) n
  simp only [cutFrame, e, List.getElem?_eq_getElem k, Option.some.injEq, exists_eq_right', true_and]
  exact List.getElem_mem k

@[simp] theorem giveUpFrames_transmitter (p : Port) (x : PortRecord) : (giveUpFrames p x).transmitter = {} := rfl
@[simp] theorem giveUpFrames_cut (p : Port) (x : PortRecord) : (giveUpFrames p x).cut = cutFrame p x := rfl

/-- Nothing is sent after the character in progress. -/
theorem giveUpFrames_output (p : Port) (x : PortRecord) :
    (giveUpFrames p x).output = (cutFrame p x).character.toList := by
  simp [PortRecord.output, wireCharacters]

/-! ### GO (R154) -/

/-- The GO test changes its own port alone, as `PortRecord.goTested` says. -/
theorem State.goTestAt_eq (s : State) (p : Port) : s.goTestAt p = s.setPort p ((s.port p).goTested s.spare.length) := by
  have room : scanRoom (s.port p).scan s.spare.length =
      (if (s.port p).scan.current = none then 0 else 120 - (s.port p).scan.fill) + 120 * s.spare.length := by
    unfold scanRoom
    cases (s.port p).scan.current <;> simp [Config.blockData]
  unfold State.goTestAt PortRecord.goTested
  dsimp only
  rw [room]
  generalize (if (s.port p).scan.current = none then 0 else 120 - (s.port p).scan.fill) + 120 * s.spare.length = n
  split
  · rw [State.reply, State.transmit, State.modifyPort, State.modifyPort, State.setPort_setPort, State.port_setPort]
  · rw [State.setPort_self]

/-! ### The ends of a scan by cause (R158) -/

theorem State.closeScanFrames_eq (s : State) (p : Port) :
    s.closeScanFrames p = s.setPort p { s.port p with transmitter := (s.port p).scanEnded } := by
  have kept : s.setPort p { s.port p with transmitter := (s.port p).transmitter } = s := s.setPort_self p
  unfold State.closeScanFrames PortRecord.scanEnded
  cases (s.port p).scan.phase <;> simp [State.offerFrame, State.transmit, State.modifyPort, kept]

/-! ### The wait for a high sample (R98) -/

/-- The wait is over: a receiver that waited is HUNTING, another stays. -/
theorem State.endWait_eq (s : State) (p : Port) :
    s.endWait p = if (s.port p).receiver = .lineLow then s.setReceiver p .hunting else s := rfl

/-- A line that stays low after a low stop bit gives the receiver nothing. -/
theorem State.characterEvent_line_low {s : State} {p : Port} {c : LineCharacter} (h : (s.port p).receiver = .lineLow)
    (k : c.afterHigh = false) : s.characterEvent p c = s := by
  simp [State.characterEvent, State.edgeFound, h, k]

end Sys2Proof.Machine
end

