-- ==== Sys2Proof/Laws/PerInstr.lean ====
section
/-! SUPPORT. For each command, when it is one that its row describes. -/

namespace Sys2Proof.Laws

/-- What a command's row says of its operands, in numbers. -/
def WellFormedWhen.Described : Instr → Prop
  | .registerWriteIgnored offset lanes value =>
      offset % 4 = 0 ∧ offset < 64 ∧
        (lanes ≠ 0xF ∨ (offset = 0x00 ∧ ((value.extractLsb' 0 8).toNat = 0 ∨ 4 < (value.extractLsb' 0 8).toNat)) ∨
          (offset = 0x08 ∧ 32 ≤ value.toNat ∧ value.toNat ≠ 63) ∨
          (offset ≠ 0x00 ∧ offset ≠ 0x08 ∧ offset ≠ 0x0C ∧ offset ≠ 0x10 ∧ offset ≠ 0x14))
  | .characterReceived _ c =>
      (c.start.first = false ∧ c.start.second = false) ∨ (c.start.first = false ∧ c.start.third = false) ∨
        (c.start.second = false ∧ c.start.third = false)
  | .frameRejected _ _ payload _ => payload.length ≤ 120
  | .stateFrame _ condition _ => 1 ≤ condition.toNat ∧ condition.toNat ≤ 7
  | .imageFrame _ data => 1 ≤ data.length ∧ data.length ≤ 120
  | .contactFrame _ reports => 1 ≤ reports.length ∧ reports.length ≤ 10
  | .hostExchangeMemoryWrite offset _ _ => offset % 4 = 0 ∧ offset < 131072
  | .powerOnReset | .wipeCompletion | .start | .stop | .wipe | .reset | .nudgeVisit _ | .nudgeWholeSweep
  | .noticeWrite _ | .maskWrite _ | .stationNoticeWrite _ | .messagesEnabledChange _
  | .configurationValidation | .startCompletion | .hallTick | .deadlineExpiry | .sweepTimerExpiry
  | .wholeSweepStart | .visit _ | .wholeSweepEnd | .decayTimerExpiry | .sheetFrame _ | .imageEndFrame _ _
  | .ackFrame _ | .nakFrame _ | .frameSent _ | .responseTimerExpiry _ | .probeTimerExpiry _
  | .sheetTimerExpiry _ | .starveTimerExpiry _ | .holdTimerExpiry _ => True

/-- The check of WellFormed is what the command's row says. -/
def WellFormedWhen.Statement (i : Instr) : Prop := i.wellFormed = true ↔ WellFormedWhen.Described i

theorem WellFormedWhen.powerOnReset : WellFormedWhen.Statement .powerOnReset :=
  ⟨fun _ => trivial, fun _ => rfl⟩

theorem WellFormedWhen.wipeCompletion : WellFormedWhen.Statement .wipeCompletion :=
  ⟨fun _ => trivial, fun _ => rfl⟩

theorem WellFormedWhen.start : WellFormedWhen.Statement .start :=
  ⟨fun _ => trivial, fun _ => rfl⟩

theorem WellFormedWhen.stop : WellFormedWhen.Statement .stop :=
  ⟨fun _ => trivial, fun _ => rfl⟩

theorem WellFormedWhen.wipe : WellFormedWhen.Statement .wipe :=
  ⟨fun _ => trivial, fun _ => rfl⟩

theorem WellFormedWhen.reset : WellFormedWhen.Statement .reset :=
  ⟨fun _ => trivial, fun _ => rfl⟩

theorem WellFormedWhen.nudgeVisit (station : Station) : WellFormedWhen.Statement (.nudgeVisit station) :=
  ⟨fun _ => trivial, fun _ => rfl⟩

theorem WellFormedWhen.nudgeWholeSweep : WellFormedWhen.Statement .nudgeWholeSweep :=
  ⟨fun _ => trivial, fun _ => rfl⟩

theorem WellFormedWhen.noticeWrite (value : Word) : WellFormedWhen.Statement (.noticeWrite value) :=
  ⟨fun _ => trivial, fun _ => rfl⟩

theorem WellFormedWhen.maskWrite (value : Word) : WellFormedWhen.Statement (.maskWrite value) :=
  ⟨fun _ => trivial, fun _ => rfl⟩

theorem WellFormedWhen.stationNoticeWrite (value : Word) : WellFormedWhen.Statement (.stationNoticeWrite value) :=
  ⟨fun _ => trivial, fun _ => rfl⟩

theorem WellFormedWhen.registerWriteIgnored (offset : Nat) (lanes : BitVec 4) (value : Word) :
    WellFormedWhen.Statement (.registerWriteIgnored offset lanes value) := by
  unfold WellFormedWhen.Statement WellFormedWhen.Described Instr.wellFormed ignoredRegisterWrite allLanes
    Config.registerWindowBytes
  rw [Bool.and_eq_true, Bool.and_eq_true, beq_iff_eq, decide_eq_true_iff, Bool.or_eq_true, bne_iff_ne, and_assoc]
  refine and_congr_right fun _ => and_congr_right fun _ => or_congr_right ?_
  split
  · rw [decide_eq_true_iff]; omega
  · rw [decide_eq_true_iff]; omega
  · simp
  · simp
  · simp
  · simp_all

theorem WellFormedWhen.messagesEnabledChange (enabled : Bool) : WellFormedWhen.Statement (.messagesEnabledChange enabled) :=
  ⟨fun _ => trivial, fun _ => rfl⟩

theorem WellFormedWhen.configurationValidation : WellFormedWhen.Statement .configurationValidation :=
  ⟨fun _ => trivial, fun _ => rfl⟩

theorem WellFormedWhen.startCompletion : WellFormedWhen.Statement .startCompletion :=
  ⟨fun _ => trivial, fun _ => rfl⟩

theorem WellFormedWhen.hallTick : WellFormedWhen.Statement .hallTick :=
  ⟨fun _ => trivial, fun _ => rfl⟩

theorem WellFormedWhen.deadlineExpiry : WellFormedWhen.Statement .deadlineExpiry :=
  ⟨fun _ => trivial, fun _ => rfl⟩

theorem WellFormedWhen.sweepTimerExpiry : WellFormedWhen.Statement .sweepTimerExpiry :=
  ⟨fun _ => trivial, fun _ => rfl⟩

theorem WellFormedWhen.wholeSweepStart : WellFormedWhen.Statement .wholeSweepStart :=
  ⟨fun _ => trivial, fun _ => rfl⟩

theorem WellFormedWhen.visit (station : Station) : WellFormedWhen.Statement (.visit station) :=
  ⟨fun _ => trivial, fun _ => rfl⟩

theorem WellFormedWhen.wholeSweepEnd : WellFormedWhen.Statement .wholeSweepEnd :=
  ⟨fun _ => trivial, fun _ => rfl⟩

theorem WellFormedWhen.decayTimerExpiry : WellFormedWhen.Statement .decayTimerExpiry :=
  ⟨fun _ => trivial, fun _ => rfl⟩

theorem WellFormedWhen.characterReceived (port : Port) (character : LineCharacter) : WellFormedWhen.Statement (.characterReceived port character) := by
  obtain ⟨_, ⟨a, b, c⟩, _, _, _⟩ := character
  unfold WellFormedWhen.Statement WellFormedWhen.Described Instr.wellFormed startQualified
  cases a <;> cases b <;> cases c <;> simp

theorem WellFormedWhen.frameRejected (port : Port) (kind : Byte) (payload : List Byte) (check : Byte) : WellFormedWhen.Statement (.frameRejected port kind payload check) :=
  decide_eq_true_iff

theorem WellFormedWhen.stateFrame (port : Port) (condition : Byte) (capability : Byte) : WellFormedWhen.Statement (.stateFrame port condition capability) :=
  decide_eq_true_iff

theorem WellFormedWhen.sheetFrame (port : Port) : WellFormedWhen.Statement (.sheetFrame port) :=
  ⟨fun _ => trivial, fun _ => rfl⟩

theorem WellFormedWhen.imageFrame (port : Port) (data : List Byte) : WellFormedWhen.Statement (.imageFrame port data) :=
  decide_eq_true_iff

theorem WellFormedWhen.imageEndFrame (port : Port) (total : Word) : WellFormedWhen.Statement (.imageEndFrame port total) :=
  ⟨fun _ => trivial, fun _ => rfl⟩

theorem WellFormedWhen.contactFrame (port : Port) (reports : List ContactReport) : WellFormedWhen.Statement (.contactFrame port reports) :=
  decide_eq_true_iff

theorem WellFormedWhen.ackFrame (port : Port) : WellFormedWhen.Statement (.ackFrame port) :=
  ⟨fun _ => trivial, fun _ => rfl⟩

theorem WellFormedWhen.nakFrame (port : Port) : WellFormedWhen.Statement (.nakFrame port) :=
  ⟨fun _ => trivial, fun _ => rfl⟩

theorem WellFormedWhen.frameSent (port : Port) : WellFormedWhen.Statement (.frameSent port) :=
  ⟨fun _ => trivial, fun _ => rfl⟩

theorem WellFormedWhen.responseTimerExpiry (port : Port) : WellFormedWhen.Statement (.responseTimerExpiry port) :=
  ⟨fun _ => trivial, fun _ => rfl⟩

theorem WellFormedWhen.probeTimerExpiry (port : Port) : WellFormedWhen.Statement (.probeTimerExpiry port) :=
  ⟨fun _ => trivial, fun _ => rfl⟩

theorem WellFormedWhen.sheetTimerExpiry (port : Port) : WellFormedWhen.Statement (.sheetTimerExpiry port) :=
  ⟨fun _ => trivial, fun _ => rfl⟩

theorem WellFormedWhen.starveTimerExpiry (port : Port) : WellFormedWhen.Statement (.starveTimerExpiry port) :=
  ⟨fun _ => trivial, fun _ => rfl⟩

theorem WellFormedWhen.holdTimerExpiry (port : Port) : WellFormedWhen.Statement (.holdTimerExpiry port) :=
  ⟨fun _ => trivial, fun _ => rfl⟩

theorem WellFormedWhen.hostExchangeMemoryWrite (offset : Nat) (lanes : BitVec 4) (value : Word) : WellFormedWhen.Statement (.hostExchangeMemoryWrite offset lanes value) := by
  unfold WellFormedWhen.Statement WellFormedWhen.Described Instr.wellFormed
  rw [Bool.and_eq_true, beq_iff_eq, decide_eq_true_iff]
  rfl

end Sys2Proof.Laws
end

