-- ==== Sys2Proof/Laws/Queues.lean ====
section
/-! SUPPORT. Pool queues and the deadline list as sets: what a join adds and a departure takes away. -/

namespace Sys2Proof.Machine

variable (s : State)

/-- An insertion keeps every entry and adds one. -/
theorem insertBefore_perm {α : Type} (precedes : α → α → Bool) (x : α) (l : List α) :
    (insertBefore precedes x l).Perm (x :: l) := by
  induction l with
  | nil => exact .refl _
  | cons y rest ih =>
    unfold insertBefore
    split
    · exact .refl _
    · exact (ih.cons y).trans (.swap x y rest)

@[simp] theorem mem_insertBefore {α : Type} {precedes : α → α → Bool} {x y : α} {l : List α} :
    y ∈ insertBefore precedes x l ↔ y = x ∨ y ∈ l := by
  rw [(insertBefore_perm precedes x l).mem_iff, List.mem_cons]

@[simp] theorem nodup_insertBefore {α : Type} {precedes : α → α → Bool} {x : α} {l : List α} :
    (insertBefore precedes x l).Nodup ↔ x ∉ l ∧ l.Nodup := by
  rw [(insertBefore_perm precedes x l).nodup_iff, List.nodup_cons]

/-! ### The queue of a pool -/

/-- A join puts the slot on the queue of its job's pool, and changes no other queue. -/
theorem State.mem_queue_joinQueue {g h : Slot} {q : Pool} :
    h ∈ (s.joinQueue g).queue q ↔ h ∈ s.queue q ∨ (h = g ∧ q = (s.job g).pool) := by
  unfold State.joinQueue
  by_cases e : q = (s.job g).pool
  · subst e; simp [or_comm]
  · simp [s.queue_setQueue_ne e, e]

/-- A departure takes the slot off the queue of its job's pool, where no slot stands twice. -/
theorem State.mem_queue_leaveQueue {g h : Slot} {q : Pool} (n : (s.queue q).Nodup) :
    h ∈ (s.leaveQueue g).queue q ↔ h ∈ s.queue q ∧ ¬ (h = g ∧ q = (s.job g).pool) := by
  unfold State.leaveQueue
  by_cases e : q = (s.job g).pool
  · subst e; simp [n.mem_erase_iff, and_comm]
  · simp [s.queue_setQueue_ne e, e]

/-! ### The deadline list -/

theorem State.mem_deadlines_joinDeadlines {g h : Slot} :
    h ∈ (s.joinDeadlines g).deadlines ↔ h = g ∨ h ∈ s.deadlines := mem_insertBefore

theorem State.mem_deadlines_leaveDeadlines {g h : Slot} (n : s.deadlines.Nodup) :
    h ∈ (s.leaveDeadlines g).deadlines ↔ h ≠ g ∧ h ∈ s.deadlines := n.mem_erase_iff

end Sys2Proof.Machine
end

