-- ==== Sys2Proof/Laws/Rest.lean ====
section
/-! SUPPORT. The part at rest takes no event of a line, a timer or the sweeper (R12, R43), and a register write that its
row describes is ignored (R1, R2, R4). -/

set_option linter.unusedSectionVars false

namespace Sys2Proof.Machine

/-! ### The part at rest: no event of the lines, the timers or the sweeper has an effect -/

section
variable {s : State} (h : s.atRest) (hs : sweeping s.ctl.engine = false)
include h hs

theorem State.port_atRest (p : Port) : (s.port p).atRest := (h hs).2.2.2.2.2.2 p

theorem State.servedJob_atRest (p : Port) (c : PortClass) : s.servedJob p c = none := by
  unfold State.servedJob
  rw [if_neg]
  intro k; have := (State.port_atRest h hs p).1; rw [this] at k; cases k.1

theorem State.frameEvent_atRest (p : Port) (f : PeripheralFrame) : s.frameEvent p f = s := by
  unfold State.frameEvent State.listening; rw [(State.port_atRest h hs p).1]; rfl

theorem State.rejectEvent_atRest (p : Port) (k : Byte) (l : List Byte) (x : Byte) : s.rejectEvent p k l x = s := by
  unfold State.rejectEvent State.listening; rw [(State.port_atRest h hs p).1]; rfl

theorem State.characterEvent_atRest (p : Port) (c : LineCharacter) : s.characterEvent p c = s := by
  unfold State.characterEvent State.listening
  rw [(State.port_atRest h hs p).1, if_neg (by simp)]

theorem State.sentEvent_atRest (p : Port) : s.sentEvent p = s := by
  have : portSent s.ctl.clock (s.portConfig p).responseTimeout (s.port p) = s.port p := by
    unfold portSent; rw [(State.port_atRest h hs p).2.1]
  unfold State.sentEvent State.modifyPort
  rw [this]; exact s.setPort_self p

theorem State.responseEvent_atRest (p : Port) : s.responseEvent p = s := by
  unfold State.responseEvent; rw [(State.port_atRest h hs p).2.1]; rfl

theorem State.probeEvent_atRest (p : Port) : s.probeEvent p = s := by
  unfold State.probeEvent; rw [(State.port_atRest h hs p).1]; simp

theorem State.sheetEvent_atRest (p : Port) : s.sheetEvent p = s := by
  unfold State.sheetEvent; rw [State.servedJob_atRest h hs]; simp

theorem State.starveEvent_atRest (p : Port) : s.starveEvent p = s := by
  unfold State.starveEvent; rw [State.servedJob_atRest h hs]; simp

theorem State.holdEvent_atRest (p : Port) : s.holdEvent p = s := by
  unfold State.holdEvent; rw [State.servedJob_atRest h hs]; simp

theorem State.deadlineEvent_atRest : s.deadlineEvent = s := by
  unfold State.deadlineEvent State.expiredHead
  split
  · next g e =>
    split at e
    · split at e
      · simp [hs] at e
      · cases e
    · cases e
  · rfl

theorem State.sweepTimerEvent_atRest : s.sweepTimerEvent = s := by
  unfold State.sweepTimerEvent; rw [hs, Bool.and_false]; rfl

theorem State.decayEvent_atRest : s.decayEvent = s := by
  unfold State.decayEvent; rw [hs, Bool.and_false]; rfl

theorem State.visitDue_atRest : s.ctl.visitDue = none := by unfold Control.visitDue; rw [hs]; rfl

theorem State.startSweep_atRest : s.setControl startSweepIfDue = s := by
  unfold State.setControl startSweepIfDue Control.sweepDue; rw [hs]; rfl

theorem State.ownEvent_atRest {f : State → State} (e : f s = s) : State.ownEvent f s = s := by
  unfold State.ownEvent; rw [e]; exact closeEvent_self s

theorem State.portExpiries_atRest (p : Port) : s.portExpiries p = s := by
  unfold State.portExpiries
  simp only [List.foldl_cons, List.foldl_nil]
  rw [State.ownEvent_atRest h hs (f := fun s => s.responseEvent p) (State.responseEvent_atRest h hs p),
    State.ownEvent_atRest h hs (f := fun s => s.probeEvent p) (State.probeEvent_atRest h hs p),
    State.ownEvent_atRest h hs (f := fun s => s.sheetEvent p) (State.sheetEvent_atRest h hs p),
    State.ownEvent_atRest h hs (f := fun s => s.starveEvent p) (State.starveEvent_atRest h hs p),
    State.ownEvent_atRest h hs (f := fun s => s.holdEvent p) (State.holdEvent_atRest h hs p)]

theorem State.deadlineExpiries_atRest (n : Nat) : State.deadlineExpiries n s = s := by
  induction n with
  | zero => rfl
  | succ n ih =>
    unfold State.deadlineExpiries
    rw [State.ownEvent_atRest h hs (State.deadlineEvent_atRest h hs), ih, ite_self]

theorem State.takeExpiries_atRest : s.takeExpiries = s := by
  unfold State.takeExpiries
  dsimp only
  rw [State.deadlineExpiries_atRest h hs, State.ownEvent_atRest h hs (State.sweepTimerEvent_atRest h hs), State.ownEvent_atRest h hs (State.decayEvent_atRest h hs)]
  have : ∀ l : List Port, l.foldl State.portExpiries s = s := by
    intro l
    induction l with
    | nil => rfl
    | cons p rest ih => rw [List.foldl_cons, State.portExpiries_atRest h hs p, ih]
  exact this _

theorem State.tick_atRest : s.tick = s.raiseClock := by
  unfold State.tick; rw [State.takeExpiries_atRest h hs, ite_self]
end

theorem not_sweeping {e : Engine} (h1 : e ≠ .running) (h2 : e ≠ .draining) : sweeping e = false := by
  cases e <;> first | rfl | exact absurd rfl h1 | exact absurd rfl h2

/-- A register write of the row that names what is ignored changes nothing. -/
theorem State.registerWrite_of_wellFormed {o : Nat} {l : BitVec 4} {v : Word} (hc : (Instr.registerWriteIgnored o l v).wellFormed = true) (s : State) :
    s.registerWrite o l v = s := by
  simp only [Instr.wellFormed, Bool.and_eq_true, ignoredRegisterWrite, Bool.or_eq_true] at hc
  unfold State.registerWrite
  split
  · rfl
  next hl =>
  have hl' : l = allLanes := Decidable.not_not.mp hl
  replace hc := hc.2.resolve_left (by simp [hl'])
  split
  · simp only [decide_eq_true_eq] at hc
    have : commandOfCode (field v 0 8) = none := by
      unfold commandOfCode field
      split <;> first | omega | rfl
    unfold State.writeControl; rw [this]
  · simp only [decide_eq_true_eq] at hc
    unfold State.nudge
    rw [dif_neg (by omega), if_neg (by omega)]
  all_goals first | rfl | (cases hc)

end Sys2Proof.Machine
end

