-- ==== Sys2Proof/Laws/Services.lean ====
section
/-! SUPPORT. One lemma for each field that an operation of the queues, the services, the router or the result writer
leaves alone. -/

namespace Sys2Proof.Machine

variable (s : State)

/-! ### lend -/

@[simp] theorem State.lend_ctl (b : Nat) : (s.lend b).ctl = s.ctl := by unfold State.lend; split <;> simp
@[simp] theorem State.lend_mem (b : Nat) : (s.lend b).mem = s.mem := by unfold State.lend; split <;> simp
@[simp] theorem State.lend_notice (b : Nat) : (s.lend b).notice = s.notice := by unfold State.lend; split <;> simp
@[simp] theorem State.lend_stationNotice (b : Nat) : (s.lend b).stationNotice = s.stationNotice := by unfold State.lend; split <;> simp
@[simp] theorem State.lend_slots (b : Nat) : (s.lend b).slots = s.slots := by unfold State.lend; split <;> simp
@[simp] theorem State.lend_queues (b : Nat) : (s.lend b).queues = s.queues := by unfold State.lend; split <;> simp
@[simp] theorem State.lend_deadlines (b : Nat) : (s.lend b).deadlines = s.deadlines := by unfold State.lend; split <;> simp
@[simp] theorem State.lend_stats (b : Nat) : (s.lend b).stats = s.stats := by unfold State.lend; split <;> simp
@[simp] theorem State.lend_stations (b : Nat) : (s.lend b).stations = s.stations := by unfold State.lend; split <;> simp
@[simp] theorem State.lend_ports (b : Nat) : (s.lend b).ports = s.ports := by unfold State.lend; split <;> simp
@[simp] theorem State.lend_spare (b : Nat) : (s.lend b).spare = s.spare := by unfold State.lend; split <;> simp
@[simp] theorem State.lend_mailboxes (b : Nat) : (s.lend b).mailboxes = s.mailboxes := by unfold State.lend; split <;> simp
@[simp] theorem State.lend_free (b : Nat) : (s.lend b).free = s.free := by unfold State.lend; split <;> simp
@[simp] theorem State.lend_pending (b : Nat) : (s.lend b).pending = s.pending := by unfold State.lend; split <;> simp

/-! ### unlend -/

@[simp] theorem State.unlend_ctl (b : Nat) : (s.unlend b).ctl = s.ctl := by unfold State.unlend; split <;> simp
@[simp] theorem State.unlend_mem (b : Nat) : (s.unlend b).mem = s.mem := by unfold State.unlend; split <;> simp
@[simp] theorem State.unlend_notice (b : Nat) : (s.unlend b).notice = s.notice := by unfold State.unlend; split <;> simp
@[simp] theorem State.unlend_stationNotice (b : Nat) : (s.unlend b).stationNotice = s.stationNotice := by unfold State.unlend; split <;> simp
@[simp] theorem State.unlend_slots (b : Nat) : (s.unlend b).slots = s.slots := by unfold State.unlend; split <;> simp
@[simp] theorem State.unlend_queues (b : Nat) : (s.unlend b).queues = s.queues := by unfold State.unlend; split <;> simp
@[simp] theorem State.unlend_deadlines (b : Nat) : (s.unlend b).deadlines = s.deadlines := by unfold State.unlend; split <;> simp
@[simp] theorem State.unlend_stats (b : Nat) : (s.unlend b).stats = s.stats := by unfold State.unlend; split <;> simp
@[simp] theorem State.unlend_stations (b : Nat) : (s.unlend b).stations = s.stations := by unfold State.unlend; split <;> simp
@[simp] theorem State.unlend_ports (b : Nat) : (s.unlend b).ports = s.ports := by unfold State.unlend; split <;> simp
@[simp] theorem State.unlend_spare (b : Nat) : (s.unlend b).spare = s.spare := by unfold State.unlend; split <;> simp
@[simp] theorem State.unlend_mailboxes (b : Nat) : (s.unlend b).mailboxes = s.mailboxes := by unfold State.unlend; split <;> simp
@[simp] theorem State.unlend_free (b : Nat) : (s.unlend b).free = s.free := by unfold State.unlend; split <;> simp
@[simp] theorem State.unlend_pending (b : Nat) : (s.unlend b).pending = s.pending := by unfold State.unlend; split <;> simp

/-! ### lendAll -/

@[simp] theorem State.lendAll_ctl (l : List ChainEntry) : (s.lendAll l).ctl = s.ctl := by
  unfold State.lendAll
  induction l generalizing s with
  | nil => rfl
  | cons x rest ih => rw [List.foldl_cons, ih]; simp
@[simp] theorem State.lendAll_mem (l : List ChainEntry) : (s.lendAll l).mem = s.mem := by
  unfold State.lendAll
  induction l generalizing s with
  | nil => rfl
  | cons x rest ih => rw [List.foldl_cons, ih]; simp
@[simp] theorem State.lendAll_notice (l : List ChainEntry) : (s.lendAll l).notice = s.notice := by
  unfold State.lendAll
  induction l generalizing s with
  | nil => rfl
  | cons x rest ih => rw [List.foldl_cons, ih]; simp
@[simp] theorem State.lendAll_stationNotice (l : List ChainEntry) : (s.lendAll l).stationNotice = s.stationNotice := by
  unfold State.lendAll
  induction l generalizing s with
  | nil => rfl
  | cons x rest ih => rw [List.foldl_cons, ih]; simp
@[simp] theorem State.lendAll_slots (l : List ChainEntry) : (s.lendAll l).slots = s.slots := by
  unfold State.lendAll
  induction l generalizing s with
  | nil => rfl
  | cons x rest ih => rw [List.foldl_cons, ih]; simp
@[simp] theorem State.lendAll_queues (l : List ChainEntry) : (s.lendAll l).queues = s.queues := by
  unfold State.lendAll
  induction l generalizing s with
  | nil => rfl
  | cons x rest ih => rw [List.foldl_cons, ih]; simp
@[simp] theorem State.lendAll_deadlines (l : List ChainEntry) : (s.lendAll l).deadlines = s.deadlines := by
  unfold State.lendAll
  induction l generalizing s with
  | nil => rfl
  | cons x rest ih => rw [List.foldl_cons, ih]; simp
@[simp] theorem State.lendAll_stats (l : List ChainEntry) : (s.lendAll l).stats = s.stats := by
  unfold State.lendAll
  induction l generalizing s with
  | nil => rfl
  | cons x rest ih => rw [List.foldl_cons, ih]; simp
@[simp] theorem State.lendAll_stations (l : List ChainEntry) : (s.lendAll l).stations = s.stations := by
  unfold State.lendAll
  induction l generalizing s with
  | nil => rfl
  | cons x rest ih => rw [List.foldl_cons, ih]; simp
@[simp] theorem State.lendAll_ports (l : List ChainEntry) : (s.lendAll l).ports = s.ports := by
  unfold State.lendAll
  induction l generalizing s with
  | nil => rfl
  | cons x rest ih => rw [List.foldl_cons, ih]; simp
@[simp] theorem State.lendAll_spare (l : List ChainEntry) : (s.lendAll l).spare = s.spare := by
  unfold State.lendAll
  induction l generalizing s with
  | nil => rfl
  | cons x rest ih => rw [List.foldl_cons, ih]; simp
@[simp] theorem State.lendAll_mailboxes (l : List ChainEntry) : (s.lendAll l).mailboxes = s.mailboxes := by
  unfold State.lendAll
  induction l generalizing s with
  | nil => rfl
  | cons x rest ih => rw [List.foldl_cons, ih]; simp
@[simp] theorem State.lendAll_free (l : List ChainEntry) : (s.lendAll l).free = s.free := by
  unfold State.lendAll
  induction l generalizing s with
  | nil => rfl
  | cons x rest ih => rw [List.foldl_cons, ih]; simp
@[simp] theorem State.lendAll_pending (l : List ChainEntry) : (s.lendAll l).pending = s.pending := by
  unfold State.lendAll
  induction l generalizing s with
  | nil => rfl
  | cons x rest ih => rw [List.foldl_cons, ih]; simp

/-! ### unlendAll -/

@[simp] theorem State.unlendAll_ctl (l : List ChainEntry) : (s.unlendAll l).ctl = s.ctl := by
  unfold State.unlendAll
  induction l generalizing s with
  | nil => rfl
  | cons x rest ih => rw [List.foldl_cons, ih]; simp
@[simp] theorem State.unlendAll_mem (l : List ChainEntry) : (s.unlendAll l).mem = s.mem := by
  unfold State.unlendAll
  induction l generalizing s with
  | nil => rfl
  | cons x rest ih => rw [List.foldl_cons, ih]; simp
@[simp] theorem State.unlendAll_notice (l : List ChainEntry) : (s.unlendAll l).notice = s.notice := by
  unfold State.unlendAll
  induction l generalizing s with
  | nil => rfl
  | cons x rest ih => rw [List.foldl_cons, ih]; simp
@[simp] theorem State.unlendAll_stationNotice (l : List ChainEntry) : (s.unlendAll l).stationNotice = s.stationNotice := by
  unfold State.unlendAll
  induction l generalizing s with
  | nil => rfl
  | cons x rest ih => rw [List.foldl_cons, ih]; simp
@[simp] theorem State.unlendAll_slots (l : List ChainEntry) : (s.unlendAll l).slots = s.slots := by
  unfold State.unlendAll
  induction l generalizing s with
  | nil => rfl
  | cons x rest ih => rw [List.foldl_cons, ih]; simp
@[simp] theorem State.unlendAll_queues (l : List ChainEntry) : (s.unlendAll l).queues = s.queues := by
  unfold State.unlendAll
  induction l generalizing s with
  | nil => rfl
  | cons x rest ih => rw [List.foldl_cons, ih]; simp
@[simp] theorem State.unlendAll_deadlines (l : List ChainEntry) : (s.unlendAll l).deadlines = s.deadlines := by
  unfold State.unlendAll
  induction l generalizing s with
  | nil => rfl
  | cons x rest ih => rw [List.foldl_cons, ih]; simp
@[simp] theorem State.unlendAll_stats (l : List ChainEntry) : (s.unlendAll l).stats = s.stats := by
  unfold State.unlendAll
  induction l generalizing s with
  | nil => rfl
  | cons x rest ih => rw [List.foldl_cons, ih]; simp
@[simp] theorem State.unlendAll_stations (l : List ChainEntry) : (s.unlendAll l).stations = s.stations := by
  unfold State.unlendAll
  induction l generalizing s with
  | nil => rfl
  | cons x rest ih => rw [List.foldl_cons, ih]; simp
@[simp] theorem State.unlendAll_ports (l : List ChainEntry) : (s.unlendAll l).ports = s.ports := by
  unfold State.unlendAll
  induction l generalizing s with
  | nil => rfl
  | cons x rest ih => rw [List.foldl_cons, ih]; simp
@[simp] theorem State.unlendAll_spare (l : List ChainEntry) : (s.unlendAll l).spare = s.spare := by
  unfold State.unlendAll
  induction l generalizing s with
  | nil => rfl
  | cons x rest ih => rw [List.foldl_cons, ih]; simp
@[simp] theorem State.unlendAll_mailboxes (l : List ChainEntry) : (s.unlendAll l).mailboxes = s.mailboxes := by
  unfold State.unlendAll
  induction l generalizing s with
  | nil => rfl
  | cons x rest ih => rw [List.foldl_cons, ih]; simp
@[simp] theorem State.unlendAll_free (l : List ChainEntry) : (s.unlendAll l).free = s.free := by
  unfold State.unlendAll
  induction l generalizing s with
  | nil => rfl
  | cons x rest ih => rw [List.foldl_cons, ih]; simp
@[simp] theorem State.unlendAll_pending (l : List ChainEntry) : (s.unlendAll l).pending = s.pending := by
  unfold State.unlendAll
  induction l generalizing s with
  | nil => rfl
  | cons x rest ih => rw [List.foldl_cons, ih]; simp

/-! ### markAll -/

@[simp] theorem State.markAll_ctl (l : List Nat) (m : BlockMark) : (s.markAll l m).ctl = s.ctl := by
  unfold State.markAll
  induction l generalizing s with
  | nil => rfl
  | cons x rest ih => rw [List.foldl_cons, ih]; simp
@[simp] theorem State.markAll_mem (l : List Nat) (m : BlockMark) : (s.markAll l m).mem = s.mem := by
  unfold State.markAll
  induction l generalizing s with
  | nil => rfl
  | cons x rest ih => rw [List.foldl_cons, ih]; simp
@[simp] theorem State.markAll_notice (l : List Nat) (m : BlockMark) : (s.markAll l m).notice = s.notice := by
  unfold State.markAll
  induction l generalizing s with
  | nil => rfl
  | cons x rest ih => rw [List.foldl_cons, ih]; simp
@[simp] theorem State.markAll_stationNotice (l : List Nat) (m : BlockMark) : (s.markAll l m).stationNotice = s.stationNotice := by
  unfold State.markAll
  induction l generalizing s with
  | nil => rfl
  | cons x rest ih => rw [List.foldl_cons, ih]; simp
@[simp] theorem State.markAll_slots (l : List Nat) (m : BlockMark) : (s.markAll l m).slots = s.slots := by
  unfold State.markAll
  induction l generalizing s with
  | nil => rfl
  | cons x rest ih => rw [List.foldl_cons, ih]; simp
@[simp] theorem State.markAll_queues (l : List Nat) (m : BlockMark) : (s.markAll l m).queues = s.queues := by
  unfold State.markAll
  induction l generalizing s with
  | nil => rfl
  | cons x rest ih => rw [List.foldl_cons, ih]; simp
@[simp] theorem State.markAll_deadlines (l : List Nat) (m : BlockMark) : (s.markAll l m).deadlines = s.deadlines := by
  unfold State.markAll
  induction l generalizing s with
  | nil => rfl
  | cons x rest ih => rw [List.foldl_cons, ih]; simp
@[simp] theorem State.markAll_stats (l : List Nat) (m : BlockMark) : (s.markAll l m).stats = s.stats := by
  unfold State.markAll
  induction l generalizing s with
  | nil => rfl
  | cons x rest ih => rw [List.foldl_cons, ih]; simp
@[simp] theorem State.markAll_stations (l : List Nat) (m : BlockMark) : (s.markAll l m).stations = s.stations := by
  unfold State.markAll
  induction l generalizing s with
  | nil => rfl
  | cons x rest ih => rw [List.foldl_cons, ih]; simp
@[simp] theorem State.markAll_ports (l : List Nat) (m : BlockMark) : (s.markAll l m).ports = s.ports := by
  unfold State.markAll
  induction l generalizing s with
  | nil => rfl
  | cons x rest ih => rw [List.foldl_cons, ih]; simp
@[simp] theorem State.markAll_spare (l : List Nat) (m : BlockMark) : (s.markAll l m).spare = s.spare := by
  unfold State.markAll
  induction l generalizing s with
  | nil => rfl
  | cons x rest ih => rw [List.foldl_cons, ih]; simp
@[simp] theorem State.markAll_mailboxes (l : List Nat) (m : BlockMark) : (s.markAll l m).mailboxes = s.mailboxes := by
  unfold State.markAll
  induction l generalizing s with
  | nil => rfl
  | cons x rest ih => rw [List.foldl_cons, ih]; simp
@[simp] theorem State.markAll_free (l : List Nat) (m : BlockMark) : (s.markAll l m).free = s.free := by
  unfold State.markAll
  induction l generalizing s with
  | nil => rfl
  | cons x rest ih => rw [List.foldl_cons, ih]; simp
@[simp] theorem State.markAll_pending (l : List Nat) (m : BlockMark) : (s.markAll l m).pending = s.pending := by
  unfold State.markAll
  induction l generalizing s with
  | nil => rfl
  | cons x rest ih => rw [List.foldl_cons, ih]; simp

/-! ### mirrorSpare -/

@[simp] theorem State.mirrorSpare_ctl : (s.mirrorSpare).ctl = s.ctl := rfl
@[simp] theorem State.mirrorSpare_notice : (s.mirrorSpare).notice = s.notice := rfl
@[simp] theorem State.mirrorSpare_stationNotice : (s.mirrorSpare).stationNotice = s.stationNotice := rfl
@[simp] theorem State.mirrorSpare_slots : (s.mirrorSpare).slots = s.slots := rfl
@[simp] theorem State.mirrorSpare_queues : (s.mirrorSpare).queues = s.queues := rfl
@[simp] theorem State.mirrorSpare_deadlines : (s.mirrorSpare).deadlines = s.deadlines := rfl
@[simp] theorem State.mirrorSpare_stats : (s.mirrorSpare).stats = s.stats := rfl
@[simp] theorem State.mirrorSpare_stations : (s.mirrorSpare).stations = s.stations := rfl
@[simp] theorem State.mirrorSpare_ports : (s.mirrorSpare).ports = s.ports := rfl
@[simp] theorem State.mirrorSpare_marks : (s.mirrorSpare).marks = s.marks := rfl
@[simp] theorem State.mirrorSpare_spare : (s.mirrorSpare).spare = s.spare := rfl
@[simp] theorem State.mirrorSpare_mailboxes : (s.mirrorSpare).mailboxes = s.mailboxes := rfl
@[simp] theorem State.mirrorSpare_free : (s.mirrorSpare).free = s.free := rfl
@[simp] theorem State.mirrorSpare_pending : (s.mirrorSpare).pending = s.pending := rfl

/-! ### writeLink -/

@[simp] theorem State.writeLink_ctl (b link : Nat) : (s.writeLink b link).ctl = s.ctl := rfl
@[simp] theorem State.writeLink_notice (b link : Nat) : (s.writeLink b link).notice = s.notice := rfl
@[simp] theorem State.writeLink_stationNotice (b link : Nat) : (s.writeLink b link).stationNotice = s.stationNotice := rfl
@[simp] theorem State.writeLink_slots (b link : Nat) : (s.writeLink b link).slots = s.slots := rfl
@[simp] theorem State.writeLink_queues (b link : Nat) : (s.writeLink b link).queues = s.queues := rfl
@[simp] theorem State.writeLink_deadlines (b link : Nat) : (s.writeLink b link).deadlines = s.deadlines := rfl
@[simp] theorem State.writeLink_stats (b link : Nat) : (s.writeLink b link).stats = s.stats := rfl
@[simp] theorem State.writeLink_stations (b link : Nat) : (s.writeLink b link).stations = s.stations := rfl
@[simp] theorem State.writeLink_ports (b link : Nat) : (s.writeLink b link).ports = s.ports := rfl
@[simp] theorem State.writeLink_marks (b link : Nat) : (s.writeLink b link).marks = s.marks := rfl
@[simp] theorem State.writeLink_spare (b link : Nat) : (s.writeLink b link).spare = s.spare := rfl
@[simp] theorem State.writeLink_mailboxes (b link : Nat) : (s.writeLink b link).mailboxes = s.mailboxes := rfl
@[simp] theorem State.writeLink_free (b link : Nat) : (s.writeLink b link).free = s.free := rfl
@[simp] theorem State.writeLink_pending (b link : Nat) : (s.writeLink b link).pending = s.pending := rfl

/-! ### writeLength -/

@[simp] theorem State.writeLength_ctl (b n : Nat) : (s.writeLength b n).ctl = s.ctl := rfl
@[simp] theorem State.writeLength_notice (b n : Nat) : (s.writeLength b n).notice = s.notice := rfl
@[simp] theorem State.writeLength_stationNotice (b n : Nat) : (s.writeLength b n).stationNotice = s.stationNotice := rfl
@[simp] theorem State.writeLength_slots (b n : Nat) : (s.writeLength b n).slots = s.slots := rfl
@[simp] theorem State.writeLength_queues (b n : Nat) : (s.writeLength b n).queues = s.queues := rfl
@[simp] theorem State.writeLength_deadlines (b n : Nat) : (s.writeLength b n).deadlines = s.deadlines := rfl
@[simp] theorem State.writeLength_stats (b n : Nat) : (s.writeLength b n).stats = s.stats := rfl
@[simp] theorem State.writeLength_stations (b n : Nat) : (s.writeLength b n).stations = s.stations := rfl
@[simp] theorem State.writeLength_ports (b n : Nat) : (s.writeLength b n).ports = s.ports := rfl
@[simp] theorem State.writeLength_marks (b n : Nat) : (s.writeLength b n).marks = s.marks := rfl
@[simp] theorem State.writeLength_spare (b n : Nat) : (s.writeLength b n).spare = s.spare := rfl
@[simp] theorem State.writeLength_mailboxes (b n : Nat) : (s.writeLength b n).mailboxes = s.mailboxes := rfl
@[simp] theorem State.writeLength_free (b n : Nat) : (s.writeLength b n).free = s.free := rfl
@[simp] theorem State.writeLength_pending (b n : Nat) : (s.writeLength b n).pending = s.pending := rfl

/-! ### linkChain -/

@[simp] theorem State.linkChain_ctl (l : List Nat) : (s.linkChain l).ctl = s.ctl := by
  induction l generalizing s with
  | nil => rfl
  | cons b rest ih => cases rest with
    | nil => simp [State.linkChain]
    | cons c more => unfold State.linkChain; rw [ih]; simp
@[simp] theorem State.linkChain_notice (l : List Nat) : (s.linkChain l).notice = s.notice := by
  induction l generalizing s with
  | nil => rfl
  | cons b rest ih => cases rest with
    | nil => simp [State.linkChain]
    | cons c more => unfold State.linkChain; rw [ih]; simp
@[simp] theorem State.linkChain_stationNotice (l : List Nat) : (s.linkChain l).stationNotice = s.stationNotice := by
  induction l generalizing s with
  | nil => rfl
  | cons b rest ih => cases rest with
    | nil => simp [State.linkChain]
    | cons c more => unfold State.linkChain; rw [ih]; simp
@[simp] theorem State.linkChain_slots (l : List Nat) : (s.linkChain l).slots = s.slots := by
  induction l generalizing s with
  | nil => rfl
  | cons b rest ih => cases rest with
    | nil => simp [State.linkChain]
    | cons c more => unfold State.linkChain; rw [ih]; simp
@[simp] theorem State.linkChain_queues (l : List Nat) : (s.linkChain l).queues = s.queues := by
  induction l generalizing s with
  | nil => rfl
  | cons b rest ih => cases rest with
    | nil => simp [State.linkChain]
    | cons c more => unfold State.linkChain; rw [ih]; simp
@[simp] theorem State.linkChain_deadlines (l : List Nat) : (s.linkChain l).deadlines = s.deadlines := by
  induction l generalizing s with
  | nil => rfl
  | cons b rest ih => cases rest with
    | nil => simp [State.linkChain]
    | cons c more => unfold State.linkChain; rw [ih]; simp
@[simp] theorem State.linkChain_stats (l : List Nat) : (s.linkChain l).stats = s.stats := by
  induction l generalizing s with
  | nil => rfl
  | cons b rest ih => cases rest with
    | nil => simp [State.linkChain]
    | cons c more => unfold State.linkChain; rw [ih]; simp
@[simp] theorem State.linkChain_stations (l : List Nat) : (s.linkChain l).stations = s.stations := by
  induction l generalizing s with
  | nil => rfl
  | cons b rest ih => cases rest with
    | nil => simp [State.linkChain]
    | cons c more => unfold State.linkChain; rw [ih]; simp
@[simp] theorem State.linkChain_ports (l : List Nat) : (s.linkChain l).ports = s.ports := by
  induction l generalizing s with
  | nil => rfl
  | cons b rest ih => cases rest with
    | nil => simp [State.linkChain]
    | cons c more => unfold State.linkChain; rw [ih]; simp
@[simp] theorem State.linkChain_marks (l : List Nat) : (s.linkChain l).marks = s.marks := by
  induction l generalizing s with
  | nil => rfl
  | cons b rest ih => cases rest with
    | nil => simp [State.linkChain]
    | cons c more => unfold State.linkChain; rw [ih]; simp
@[simp] theorem State.linkChain_spare (l : List Nat) : (s.linkChain l).spare = s.spare := by
  induction l generalizing s with
  | nil => rfl
  | cons b rest ih => cases rest with
    | nil => simp [State.linkChain]
    | cons c more => unfold State.linkChain; rw [ih]; simp
@[simp] theorem State.linkChain_mailboxes (l : List Nat) : (s.linkChain l).mailboxes = s.mailboxes := by
  induction l generalizing s with
  | nil => rfl
  | cons b rest ih => cases rest with
    | nil => simp [State.linkChain]
    | cons c more => unfold State.linkChain; rw [ih]; simp
@[simp] theorem State.linkChain_free (l : List Nat) : (s.linkChain l).free = s.free := by
  induction l generalizing s with
  | nil => rfl
  | cons b rest ih => cases rest with
    | nil => simp [State.linkChain]
    | cons c more => unfold State.linkChain; rw [ih]; simp
@[simp] theorem State.linkChain_pending (l : List Nat) : (s.linkChain l).pending = s.pending := by
  induction l generalizing s with
  | nil => rfl
  | cons b rest ih => cases rest with
    | nil => simp [State.linkChain]
    | cons c more => unfold State.linkChain; rw [ih]; simp

/-! ### joinSpare -/

@[simp] theorem State.joinSpare_ctl (l : List Nat) : (s.joinSpare l).ctl = s.ctl := by
  unfold State.joinSpare; split
  · rfl
  · dsimp only; split <;> simp
@[simp] theorem State.joinSpare_notice (l : List Nat) : (s.joinSpare l).notice = s.notice := by
  unfold State.joinSpare; split
  · rfl
  · dsimp only; split <;> simp
@[simp] theorem State.joinSpare_stationNotice (l : List Nat) : (s.joinSpare l).stationNotice = s.stationNotice := by
  unfold State.joinSpare; split
  · rfl
  · dsimp only; split <;> simp
@[simp] theorem State.joinSpare_slots (l : List Nat) : (s.joinSpare l).slots = s.slots := by
  unfold State.joinSpare; split
  · rfl
  · dsimp only; split <;> simp
@[simp] theorem State.joinSpare_queues (l : List Nat) : (s.joinSpare l).queues = s.queues := by
  unfold State.joinSpare; split
  · rfl
  · dsimp only; split <;> simp
@[simp] theorem State.joinSpare_deadlines (l : List Nat) : (s.joinSpare l).deadlines = s.deadlines := by
  unfold State.joinSpare; split
  · rfl
  · dsimp only; split <;> simp
@[simp] theorem State.joinSpare_stats (l : List Nat) : (s.joinSpare l).stats = s.stats := by
  unfold State.joinSpare; split
  · rfl
  · dsimp only; split <;> simp
@[simp] theorem State.joinSpare_stations (l : List Nat) : (s.joinSpare l).stations = s.stations := by
  unfold State.joinSpare; split
  · rfl
  · dsimp only; split <;> simp
@[simp] theorem State.joinSpare_ports (l : List Nat) : (s.joinSpare l).ports = s.ports := by
  unfold State.joinSpare; split
  · rfl
  · dsimp only; split <;> simp
@[simp] theorem State.joinSpare_mailboxes (l : List Nat) : (s.joinSpare l).mailboxes = s.mailboxes := by
  unfold State.joinSpare; split
  · rfl
  · dsimp only; split <;> simp
@[simp] theorem State.joinSpare_free (l : List Nat) : (s.joinSpare l).free = s.free := by
  unfold State.joinSpare; split
  · rfl
  · dsimp only; split <;> simp
@[simp] theorem State.joinSpare_pending (l : List Nat) : (s.joinSpare l).pending = s.pending := by
  unfold State.joinSpare; split
  · rfl
  · dsimp only; split <;> simp

/-! ### transmit -/

@[simp] theorem State.transmit_ctl (p : Port) (f : Transmitter → Transmitter) : (s.transmit p f).ctl = s.ctl := rfl
@[simp] theorem State.transmit_mem (p : Port) (f : Transmitter → Transmitter) : (s.transmit p f).mem = s.mem := rfl
@[simp] theorem State.transmit_notice (p : Port) (f : Transmitter → Transmitter) : (s.transmit p f).notice = s.notice := rfl
@[simp] theorem State.transmit_stationNotice (p : Port) (f : Transmitter → Transmitter) : (s.transmit p f).stationNotice = s.stationNotice := rfl
@[simp] theorem State.transmit_slots (p : Port) (f : Transmitter → Transmitter) : (s.transmit p f).slots = s.slots := rfl
@[simp] theorem State.transmit_queues (p : Port) (f : Transmitter → Transmitter) : (s.transmit p f).queues = s.queues := rfl
@[simp] theorem State.transmit_deadlines (p : Port) (f : Transmitter → Transmitter) : (s.transmit p f).deadlines = s.deadlines := rfl
@[simp] theorem State.transmit_stats (p : Port) (f : Transmitter → Transmitter) : (s.transmit p f).stats = s.stats := rfl
@[simp] theorem State.transmit_stations (p : Port) (f : Transmitter → Transmitter) : (s.transmit p f).stations = s.stations := rfl
@[simp] theorem State.transmit_marks (p : Port) (f : Transmitter → Transmitter) : (s.transmit p f).marks = s.marks := rfl
@[simp] theorem State.transmit_spare (p : Port) (f : Transmitter → Transmitter) : (s.transmit p f).spare = s.spare := rfl
@[simp] theorem State.transmit_mailboxes (p : Port) (f : Transmitter → Transmitter) : (s.transmit p f).mailboxes = s.mailboxes := rfl
@[simp] theorem State.transmit_free (p : Port) (f : Transmitter → Transmitter) : (s.transmit p f).free = s.free := rfl
@[simp] theorem State.transmit_pending (p : Port) (f : Transmitter → Transmitter) : (s.transmit p f).pending = s.pending := rfl

/-! ### offerFrame -/

@[simp] theorem State.offerFrame_ctl (p : Port) (f : AnswerFrame) : (s.offerFrame p f).ctl = s.ctl := rfl
@[simp] theorem State.offerFrame_mem (p : Port) (f : AnswerFrame) : (s.offerFrame p f).mem = s.mem := rfl
@[simp] theorem State.offerFrame_notice (p : Port) (f : AnswerFrame) : (s.offerFrame p f).notice = s.notice := rfl
@[simp] theorem State.offerFrame_stationNotice (p : Port) (f : AnswerFrame) : (s.offerFrame p f).stationNotice = s.stationNotice := rfl
@[simp] theorem State.offerFrame_slots (p : Port) (f : AnswerFrame) : (s.offerFrame p f).slots = s.slots := rfl
@[simp] theorem State.offerFrame_queues (p : Port) (f : AnswerFrame) : (s.offerFrame p f).queues = s.queues := rfl
@[simp] theorem State.offerFrame_deadlines (p : Port) (f : AnswerFrame) : (s.offerFrame p f).deadlines = s.deadlines := rfl
@[simp] theorem State.offerFrame_stats (p : Port) (f : AnswerFrame) : (s.offerFrame p f).stats = s.stats := rfl
@[simp] theorem State.offerFrame_stations (p : Port) (f : AnswerFrame) : (s.offerFrame p f).stations = s.stations := rfl
@[simp] theorem State.offerFrame_marks (p : Port) (f : AnswerFrame) : (s.offerFrame p f).marks = s.marks := rfl
@[simp] theorem State.offerFrame_spare (p : Port) (f : AnswerFrame) : (s.offerFrame p f).spare = s.spare := rfl
@[simp] theorem State.offerFrame_mailboxes (p : Port) (f : AnswerFrame) : (s.offerFrame p f).mailboxes = s.mailboxes := rfl
@[simp] theorem State.offerFrame_free (p : Port) (f : AnswerFrame) : (s.offerFrame p f).free = s.free := rfl
@[simp] theorem State.offerFrame_pending (p : Port) (f : AnswerFrame) : (s.offerFrame p f).pending = s.pending := rfl

/-! ### offerAsk -/

@[simp] theorem State.offerAsk_ctl (p : Port) : (s.offerAsk p).ctl = s.ctl := rfl
@[simp] theorem State.offerAsk_mem (p : Port) : (s.offerAsk p).mem = s.mem := rfl
@[simp] theorem State.offerAsk_notice (p : Port) : (s.offerAsk p).notice = s.notice := rfl
@[simp] theorem State.offerAsk_stationNotice (p : Port) : (s.offerAsk p).stationNotice = s.stationNotice := rfl
@[simp] theorem State.offerAsk_slots (p : Port) : (s.offerAsk p).slots = s.slots := rfl
@[simp] theorem State.offerAsk_queues (p : Port) : (s.offerAsk p).queues = s.queues := rfl
@[simp] theorem State.offerAsk_deadlines (p : Port) : (s.offerAsk p).deadlines = s.deadlines := rfl
@[simp] theorem State.offerAsk_stats (p : Port) : (s.offerAsk p).stats = s.stats := rfl
@[simp] theorem State.offerAsk_stations (p : Port) : (s.offerAsk p).stations = s.stations := rfl
@[simp] theorem State.offerAsk_marks (p : Port) : (s.offerAsk p).marks = s.marks := rfl
@[simp] theorem State.offerAsk_spare (p : Port) : (s.offerAsk p).spare = s.spare := rfl
@[simp] theorem State.offerAsk_mailboxes (p : Port) : (s.offerAsk p).mailboxes = s.mailboxes := rfl
@[simp] theorem State.offerAsk_free (p : Port) : (s.offerAsk p).free = s.free := rfl
@[simp] theorem State.offerAsk_pending (p : Port) : (s.offerAsk p).pending = s.pending := rfl

/-! ### reply -/

@[simp] theorem State.reply_ctl (p : Port) (k : ReplyKind) : (s.reply p k).ctl = s.ctl := rfl
@[simp] theorem State.reply_mem (p : Port) (k : ReplyKind) : (s.reply p k).mem = s.mem := rfl
@[simp] theorem State.reply_notice (p : Port) (k : ReplyKind) : (s.reply p k).notice = s.notice := rfl
@[simp] theorem State.reply_stationNotice (p : Port) (k : ReplyKind) : (s.reply p k).stationNotice = s.stationNotice := rfl
@[simp] theorem State.reply_slots (p : Port) (k : ReplyKind) : (s.reply p k).slots = s.slots := rfl
@[simp] theorem State.reply_queues (p : Port) (k : ReplyKind) : (s.reply p k).queues = s.queues := rfl
@[simp] theorem State.reply_deadlines (p : Port) (k : ReplyKind) : (s.reply p k).deadlines = s.deadlines := rfl
@[simp] theorem State.reply_stats (p : Port) (k : ReplyKind) : (s.reply p k).stats = s.stats := rfl
@[simp] theorem State.reply_stations (p : Port) (k : ReplyKind) : (s.reply p k).stations = s.stations := rfl
@[simp] theorem State.reply_marks (p : Port) (k : ReplyKind) : (s.reply p k).marks = s.marks := rfl
@[simp] theorem State.reply_spare (p : Port) (k : ReplyKind) : (s.reply p k).spare = s.spare := rfl
@[simp] theorem State.reply_mailboxes (p : Port) (k : ReplyKind) : (s.reply p k).mailboxes = s.mailboxes := rfl
@[simp] theorem State.reply_free (p : Port) (k : ReplyKind) : (s.reply p k).free = s.free := rfl
@[simp] theorem State.reply_pending (p : Port) (k : ReplyKind) : (s.reply p k).pending = s.pending := rfl

/-! ### goTestAt -/

@[simp] theorem State.goTestAt_ctl (p : Port) : (s.goTestAt p).ctl = s.ctl := by
  unfold State.goTestAt; dsimp only; split <;> simp
@[simp] theorem State.goTestAt_mem (p : Port) : (s.goTestAt p).mem = s.mem := by
  unfold State.goTestAt; dsimp only; split <;> simp
@[simp] theorem State.goTestAt_notice (p : Port) : (s.goTestAt p).notice = s.notice := by
  unfold State.goTestAt; dsimp only; split <;> simp
@[simp] theorem State.goTestAt_stationNotice (p : Port) : (s.goTestAt p).stationNotice = s.stationNotice := by
  unfold State.goTestAt; dsimp only; split <;> simp
@[simp] theorem State.goTestAt_slots (p : Port) : (s.goTestAt p).slots = s.slots := by
  unfold State.goTestAt; dsimp only; split <;> simp
@[simp] theorem State.goTestAt_queues (p : Port) : (s.goTestAt p).queues = s.queues := by
  unfold State.goTestAt; dsimp only; split <;> simp
@[simp] theorem State.goTestAt_deadlines (p : Port) : (s.goTestAt p).deadlines = s.deadlines := by
  unfold State.goTestAt; dsimp only; split <;> simp
@[simp] theorem State.goTestAt_stats (p : Port) : (s.goTestAt p).stats = s.stats := by
  unfold State.goTestAt; dsimp only; split <;> simp
@[simp] theorem State.goTestAt_stations (p : Port) : (s.goTestAt p).stations = s.stations := by
  unfold State.goTestAt; dsimp only; split <;> simp
@[simp] theorem State.goTestAt_marks (p : Port) : (s.goTestAt p).marks = s.marks := by
  unfold State.goTestAt; dsimp only; split <;> simp
@[simp] theorem State.goTestAt_spare (p : Port) : (s.goTestAt p).spare = s.spare := by
  unfold State.goTestAt; dsimp only; split <;> simp
@[simp] theorem State.goTestAt_mailboxes (p : Port) : (s.goTestAt p).mailboxes = s.mailboxes := by
  unfold State.goTestAt; dsimp only; split <;> simp
@[simp] theorem State.goTestAt_free (p : Port) : (s.goTestAt p).free = s.free := by
  unfold State.goTestAt; dsimp only; split <;> simp
@[simp] theorem State.goTestAt_pending (p : Port) : (s.goTestAt p).pending = s.pending := by
  unfold State.goTestAt; dsimp only; split <;> simp

/-! ### goTest -/

@[simp] theorem State.goTest_ctl : s.goTest.ctl = s.ctl := by
  unfold State.goTest
  induction allPorts generalizing s with
  | nil => rfl
  | cons x rest ih => rw [List.foldl_cons, ih]; simp
@[simp] theorem State.goTest_mem : s.goTest.mem = s.mem := by
  unfold State.goTest
  induction allPorts generalizing s with
  | nil => rfl
  | cons x rest ih => rw [List.foldl_cons, ih]; simp
@[simp] theorem State.goTest_notice : s.goTest.notice = s.notice := by
  unfold State.goTest
  induction allPorts generalizing s with
  | nil => rfl
  | cons x rest ih => rw [List.foldl_cons, ih]; simp
@[simp] theorem State.goTest_stationNotice : s.goTest.stationNotice = s.stationNotice := by
  unfold State.goTest
  induction allPorts generalizing s with
  | nil => rfl
  | cons x rest ih => rw [List.foldl_cons, ih]; simp
@[simp] theorem State.goTest_slots : s.goTest.slots = s.slots := by
  unfold State.goTest
  induction allPorts generalizing s with
  | nil => rfl
  | cons x rest ih => rw [List.foldl_cons, ih]; simp
@[simp] theorem State.goTest_queues : s.goTest.queues = s.queues := by
  unfold State.goTest
  induction allPorts generalizing s with
  | nil => rfl
  | cons x rest ih => rw [List.foldl_cons, ih]; simp
@[simp] theorem State.goTest_deadlines : s.goTest.deadlines = s.deadlines := by
  unfold State.goTest
  induction allPorts generalizing s with
  | nil => rfl
  | cons x rest ih => rw [List.foldl_cons, ih]; simp
@[simp] theorem State.goTest_stats : s.goTest.stats = s.stats := by
  unfold State.goTest
  induction allPorts generalizing s with
  | nil => rfl
  | cons x rest ih => rw [List.foldl_cons, ih]; simp
@[simp] theorem State.goTest_stations : s.goTest.stations = s.stations := by
  unfold State.goTest
  induction allPorts generalizing s with
  | nil => rfl
  | cons x rest ih => rw [List.foldl_cons, ih]; simp
@[simp] theorem State.goTest_marks : s.goTest.marks = s.marks := by
  unfold State.goTest
  induction allPorts generalizing s with
  | nil => rfl
  | cons x rest ih => rw [List.foldl_cons, ih]; simp
@[simp] theorem State.goTest_spare : s.goTest.spare = s.spare := by
  unfold State.goTest
  induction allPorts generalizing s with
  | nil => rfl
  | cons x rest ih => rw [List.foldl_cons, ih]; simp
@[simp] theorem State.goTest_mailboxes : s.goTest.mailboxes = s.mailboxes := by
  unfold State.goTest
  induction allPorts generalizing s with
  | nil => rfl
  | cons x rest ih => rw [List.foldl_cons, ih]; simp
@[simp] theorem State.goTest_free : s.goTest.free = s.free := by
  unfold State.goTest
  induction allPorts generalizing s with
  | nil => rfl
  | cons x rest ih => rw [List.foldl_cons, ih]; simp
@[simp] theorem State.goTest_pending : s.goTest.pending = s.pending := by
  unfold State.goTest
  induction allPorts generalizing s with
  | nil => rfl
  | cons x rest ih => rw [List.foldl_cons, ih]; simp

/-! ### writeMailWords -/

@[simp] theorem State.writeMailWords_ctl (st : Station) (r : Fin 4) (seq : Half) (events position : Word) : (s.writeMailWords st r seq events position).ctl = s.ctl := by unfold State.writeMailWords; simp
@[simp] theorem State.writeMailWords_notice (st : Station) (r : Fin 4) (seq : Half) (events position : Word) : (s.writeMailWords st r seq events position).notice = s.notice := by unfold State.writeMailWords; simp
@[simp] theorem State.writeMailWords_stationNotice (st : Station) (r : Fin 4) (seq : Half) (events position : Word) : (s.writeMailWords st r seq events position).stationNotice = s.stationNotice := by unfold State.writeMailWords; simp
@[simp] theorem State.writeMailWords_slots (st : Station) (r : Fin 4) (seq : Half) (events position : Word) : (s.writeMailWords st r seq events position).slots = s.slots := by unfold State.writeMailWords; simp
@[simp] theorem State.writeMailWords_queues (st : Station) (r : Fin 4) (seq : Half) (events position : Word) : (s.writeMailWords st r seq events position).queues = s.queues := by unfold State.writeMailWords; simp
@[simp] theorem State.writeMailWords_deadlines (st : Station) (r : Fin 4) (seq : Half) (events position : Word) : (s.writeMailWords st r seq events position).deadlines = s.deadlines := by unfold State.writeMailWords; simp
@[simp] theorem State.writeMailWords_stats (st : Station) (r : Fin 4) (seq : Half) (events position : Word) : (s.writeMailWords st r seq events position).stats = s.stats := by unfold State.writeMailWords; simp
@[simp] theorem State.writeMailWords_stations (st : Station) (r : Fin 4) (seq : Half) (events position : Word) : (s.writeMailWords st r seq events position).stations = s.stations := by unfold State.writeMailWords; simp
@[simp] theorem State.writeMailWords_ports (st : Station) (r : Fin 4) (seq : Half) (events position : Word) : (s.writeMailWords st r seq events position).ports = s.ports := by unfold State.writeMailWords; simp
@[simp] theorem State.writeMailWords_marks (st : Station) (r : Fin 4) (seq : Half) (events position : Word) : (s.writeMailWords st r seq events position).marks = s.marks := by unfold State.writeMailWords; simp
@[simp] theorem State.writeMailWords_spare (st : Station) (r : Fin 4) (seq : Half) (events position : Word) : (s.writeMailWords st r seq events position).spare = s.spare := by unfold State.writeMailWords; simp
@[simp] theorem State.writeMailWords_mailboxes (st : Station) (r : Fin 4) (seq : Half) (events position : Word) : (s.writeMailWords st r seq events position).mailboxes = s.mailboxes := by unfold State.writeMailWords; simp
@[simp] theorem State.writeMailWords_free (st : Station) (r : Fin 4) (seq : Half) (events position : Word) : (s.writeMailWords st r seq events position).free = s.free := by unfold State.writeMailWords; simp
@[simp] theorem State.writeMailWords_pending (st : Station) (r : Fin 4) (seq : Half) (events position : Word) : (s.writeMailWords st r seq events position).pending = s.pending := by unfold State.writeMailWords; simp

/-! ### mailboxWrite -/

@[simp] theorem State.mailboxWrite_ctl (st : Station) (r : Fin 4) (newlyTaken : Bool) (m : MailReport) : (s.mailboxWrite st r newlyTaken m).ctl = s.ctl := by
  unfold State.mailboxWrite; dsimp only; split <;> simp
@[simp] theorem State.mailboxWrite_notice (st : Station) (r : Fin 4) (newlyTaken : Bool) (m : MailReport) : (s.mailboxWrite st r newlyTaken m).notice = s.notice := by
  unfold State.mailboxWrite; dsimp only; split <;> simp
@[simp] theorem State.mailboxWrite_slots (st : Station) (r : Fin 4) (newlyTaken : Bool) (m : MailReport) : (s.mailboxWrite st r newlyTaken m).slots = s.slots := by
  unfold State.mailboxWrite; dsimp only; split <;> simp
@[simp] theorem State.mailboxWrite_queues (st : Station) (r : Fin 4) (newlyTaken : Bool) (m : MailReport) : (s.mailboxWrite st r newlyTaken m).queues = s.queues := by
  unfold State.mailboxWrite; dsimp only; split <;> simp
@[simp] theorem State.mailboxWrite_deadlines (st : Station) (r : Fin 4) (newlyTaken : Bool) (m : MailReport) : (s.mailboxWrite st r newlyTaken m).deadlines = s.deadlines := by
  unfold State.mailboxWrite; dsimp only; split <;> simp
@[simp] theorem State.mailboxWrite_stats (st : Station) (r : Fin 4) (newlyTaken : Bool) (m : MailReport) : (s.mailboxWrite st r newlyTaken m).stats = s.stats := by
  unfold State.mailboxWrite; dsimp only; split <;> simp
@[simp] theorem State.mailboxWrite_stations (st : Station) (r : Fin 4) (newlyTaken : Bool) (m : MailReport) : (s.mailboxWrite st r newlyTaken m).stations = s.stations := by
  unfold State.mailboxWrite; dsimp only; split <;> simp
@[simp] theorem State.mailboxWrite_ports (st : Station) (r : Fin 4) (newlyTaken : Bool) (m : MailReport) : (s.mailboxWrite st r newlyTaken m).ports = s.ports := by
  unfold State.mailboxWrite; dsimp only; split <;> simp
@[simp] theorem State.mailboxWrite_marks (st : Station) (r : Fin 4) (newlyTaken : Bool) (m : MailReport) : (s.mailboxWrite st r newlyTaken m).marks = s.marks := by
  unfold State.mailboxWrite; dsimp only; split <;> simp
@[simp] theorem State.mailboxWrite_spare (st : Station) (r : Fin 4) (newlyTaken : Bool) (m : MailReport) : (s.mailboxWrite st r newlyTaken m).spare = s.spare := by
  unfold State.mailboxWrite; dsimp only; split <;> simp
@[simp] theorem State.mailboxWrite_free (st : Station) (r : Fin 4) (newlyTaken : Bool) (m : MailReport) : (s.mailboxWrite st r newlyTaken m).free = s.free := by
  unfold State.mailboxWrite; dsimp only; split <;> simp
@[simp] theorem State.mailboxWrite_pending (st : Station) (r : Fin 4) (newlyTaken : Bool) (m : MailReport) : (s.mailboxWrite st r newlyTaken m).pending = s.pending := by
  unfold State.mailboxWrite; dsimp only; split <;> simp

/-! ### clearMailbox -/

@[simp] theorem State.clearMailbox_ctl (st : Station) (r : Fin 4) : (s.clearMailbox st r).ctl = s.ctl := by unfold State.clearMailbox; simp
@[simp] theorem State.clearMailbox_notice (st : Station) (r : Fin 4) : (s.clearMailbox st r).notice = s.notice := by unfold State.clearMailbox; simp
@[simp] theorem State.clearMailbox_stationNotice (st : Station) (r : Fin 4) : (s.clearMailbox st r).stationNotice = s.stationNotice := by unfold State.clearMailbox; simp
@[simp] theorem State.clearMailbox_slots (st : Station) (r : Fin 4) : (s.clearMailbox st r).slots = s.slots := by unfold State.clearMailbox; simp
@[simp] theorem State.clearMailbox_queues (st : Station) (r : Fin 4) : (s.clearMailbox st r).queues = s.queues := by unfold State.clearMailbox; simp
@[simp] theorem State.clearMailbox_deadlines (st : Station) (r : Fin 4) : (s.clearMailbox st r).deadlines = s.deadlines := by unfold State.clearMailbox; simp
@[simp] theorem State.clearMailbox_stats (st : Station) (r : Fin 4) : (s.clearMailbox st r).stats = s.stats := by unfold State.clearMailbox; simp
@[simp] theorem State.clearMailbox_stations (st : Station) (r : Fin 4) : (s.clearMailbox st r).stations = s.stations := by unfold State.clearMailbox; simp
@[simp] theorem State.clearMailbox_ports (st : Station) (r : Fin 4) : (s.clearMailbox st r).ports = s.ports := by unfold State.clearMailbox; simp
@[simp] theorem State.clearMailbox_marks (st : Station) (r : Fin 4) : (s.clearMailbox st r).marks = s.marks := by unfold State.clearMailbox; simp
@[simp] theorem State.clearMailbox_spare (st : Station) (r : Fin 4) : (s.clearMailbox st r).spare = s.spare := by unfold State.clearMailbox; simp
@[simp] theorem State.clearMailbox_free (st : Station) (r : Fin 4) : (s.clearMailbox st r).free = s.free := by unfold State.clearMailbox; simp
@[simp] theorem State.clearMailbox_pending (st : Station) (r : Fin 4) : (s.clearMailbox st r).pending = s.pending := by unfold State.clearMailbox; simp

/-! ### setContact -/

@[simp] theorem State.setContact_ctl (p : Port) (i : Fin 10) (c : Contact) : (s.setContact p i c).ctl = s.ctl := by unfold State.setContact; simp
@[simp] theorem State.setContact_mem (p : Port) (i : Fin 10) (c : Contact) : (s.setContact p i c).mem = s.mem := by unfold State.setContact; simp
@[simp] theorem State.setContact_notice (p : Port) (i : Fin 10) (c : Contact) : (s.setContact p i c).notice = s.notice := by unfold State.setContact; simp
@[simp] theorem State.setContact_stationNotice (p : Port) (i : Fin 10) (c : Contact) : (s.setContact p i c).stationNotice = s.stationNotice := by unfold State.setContact; simp
@[simp] theorem State.setContact_slots (p : Port) (i : Fin 10) (c : Contact) : (s.setContact p i c).slots = s.slots := by unfold State.setContact; simp
@[simp] theorem State.setContact_queues (p : Port) (i : Fin 10) (c : Contact) : (s.setContact p i c).queues = s.queues := by unfold State.setContact; simp
@[simp] theorem State.setContact_deadlines (p : Port) (i : Fin 10) (c : Contact) : (s.setContact p i c).deadlines = s.deadlines := by unfold State.setContact; simp
@[simp] theorem State.setContact_stats (p : Port) (i : Fin 10) (c : Contact) : (s.setContact p i c).stats = s.stats := by unfold State.setContact; simp
@[simp] theorem State.setContact_stations (p : Port) (i : Fin 10) (c : Contact) : (s.setContact p i c).stations = s.stations := by unfold State.setContact; simp
@[simp] theorem State.setContact_marks (p : Port) (i : Fin 10) (c : Contact) : (s.setContact p i c).marks = s.marks := by unfold State.setContact; simp
@[simp] theorem State.setContact_spare (p : Port) (i : Fin 10) (c : Contact) : (s.setContact p i c).spare = s.spare := by unfold State.setContact; simp
@[simp] theorem State.setContact_mailboxes (p : Port) (i : Fin 10) (c : Contact) : (s.setContact p i c).mailboxes = s.mailboxes := by unfold State.setContact; simp
@[simp] theorem State.setContact_free (p : Port) (i : Fin 10) (c : Contact) : (s.setContact p i c).free = s.free := by unfold State.setContact; simp
@[simp] theorem State.setContact_pending (p : Port) (i : Fin 10) (c : Contact) : (s.setContact p i c).pending = s.pending := by unfold State.setContact; simp

/-! ### syntheticUp -/

@[simp] theorem State.syntheticUp_ctl (p : Port) (i : Fin 10) (c : Capture) : (s.syntheticUp p i c).ctl = s.ctl := by unfold State.syntheticUp; simp
@[simp] theorem State.syntheticUp_notice (p : Port) (i : Fin 10) (c : Capture) : (s.syntheticUp p i c).notice = s.notice := by unfold State.syntheticUp; simp
@[simp] theorem State.syntheticUp_slots (p : Port) (i : Fin 10) (c : Capture) : (s.syntheticUp p i c).slots = s.slots := by unfold State.syntheticUp; simp
@[simp] theorem State.syntheticUp_queues (p : Port) (i : Fin 10) (c : Capture) : (s.syntheticUp p i c).queues = s.queues := by unfold State.syntheticUp; simp
@[simp] theorem State.syntheticUp_deadlines (p : Port) (i : Fin 10) (c : Capture) : (s.syntheticUp p i c).deadlines = s.deadlines := by unfold State.syntheticUp; simp
@[simp] theorem State.syntheticUp_stats (p : Port) (i : Fin 10) (c : Capture) : (s.syntheticUp p i c).stats = s.stats := by unfold State.syntheticUp; simp
@[simp] theorem State.syntheticUp_stations (p : Port) (i : Fin 10) (c : Capture) : (s.syntheticUp p i c).stations = s.stations := by unfold State.syntheticUp; simp
@[simp] theorem State.syntheticUp_ports (p : Port) (i : Fin 10) (c : Capture) : (s.syntheticUp p i c).ports = s.ports := by unfold State.syntheticUp; simp
@[simp] theorem State.syntheticUp_marks (p : Port) (i : Fin 10) (c : Capture) : (s.syntheticUp p i c).marks = s.marks := by unfold State.syntheticUp; simp
@[simp] theorem State.syntheticUp_spare (p : Port) (i : Fin 10) (c : Capture) : (s.syntheticUp p i c).spare = s.spare := by unfold State.syntheticUp; simp
@[simp] theorem State.syntheticUp_free (p : Port) (i : Fin 10) (c : Capture) : (s.syntheticUp p i c).free = s.free := by unfold State.syntheticUp; simp
@[simp] theorem State.syntheticUp_pending (p : Port) (i : Fin 10) (c : Capture) : (s.syntheticUp p i c).pending = s.pending := by unfold State.syntheticUp; simp

/-! ### liftEntry -/

@[simp] theorem State.liftEntry_ctl (zones holds : Bool) (p : Port) (after : Contact) (i : Fin 10) : (State.liftEntry zones holds p after s i).ctl = s.ctl := by
  unfold State.liftEntry; split <;> first | rfl | (split <;> simp)
@[simp] theorem State.liftEntry_notice (zones holds : Bool) (p : Port) (after : Contact) (i : Fin 10) : (State.liftEntry zones holds p after s i).notice = s.notice := by
  unfold State.liftEntry; split <;> first | rfl | (split <;> simp)
@[simp] theorem State.liftEntry_slots (zones holds : Bool) (p : Port) (after : Contact) (i : Fin 10) : (State.liftEntry zones holds p after s i).slots = s.slots := by
  unfold State.liftEntry; split <;> first | rfl | (split <;> simp)
@[simp] theorem State.liftEntry_queues (zones holds : Bool) (p : Port) (after : Contact) (i : Fin 10) : (State.liftEntry zones holds p after s i).queues = s.queues := by
  unfold State.liftEntry; split <;> first | rfl | (split <;> simp)
@[simp] theorem State.liftEntry_deadlines (zones holds : Bool) (p : Port) (after : Contact) (i : Fin 10) : (State.liftEntry zones holds p after s i).deadlines = s.deadlines := by
  unfold State.liftEntry; split <;> first | rfl | (split <;> simp)
@[simp] theorem State.liftEntry_stats (zones holds : Bool) (p : Port) (after : Contact) (i : Fin 10) : (State.liftEntry zones holds p after s i).stats = s.stats := by
  unfold State.liftEntry; split <;> first | rfl | (split <;> simp)
@[simp] theorem State.liftEntry_stations (zones holds : Bool) (p : Port) (after : Contact) (i : Fin 10) : (State.liftEntry zones holds p after s i).stations = s.stations := by
  unfold State.liftEntry; split <;> first | rfl | (split <;> simp)
@[simp] theorem State.liftEntry_marks (zones holds : Bool) (p : Port) (after : Contact) (i : Fin 10) : (State.liftEntry zones holds p after s i).marks = s.marks := by
  unfold State.liftEntry; split <;> first | rfl | (split <;> simp)
@[simp] theorem State.liftEntry_spare (zones holds : Bool) (p : Port) (after : Contact) (i : Fin 10) : (State.liftEntry zones holds p after s i).spare = s.spare := by
  unfold State.liftEntry; split <;> first | rfl | (split <;> simp)
@[simp] theorem State.liftEntry_free (zones holds : Bool) (p : Port) (after : Contact) (i : Fin 10) : (State.liftEntry zones holds p after s i).free = s.free := by
  unfold State.liftEntry; split <;> first | rfl | (split <;> simp)
@[simp] theorem State.liftEntry_pending (zones holds : Bool) (p : Port) (after : Contact) (i : Fin 10) : (State.liftEntry zones holds p after s i).pending = s.pending := by
  unfold State.liftEntry; split <;> first | rfl | (split <;> simp)

/-! ### liftEntries -/

@[simp] theorem State.liftEntries_ctl (p : Port) (zones holds : Bool) (after : Contact) :
    (s.liftEntries p zones holds after).ctl = s.ctl := by
  unfold State.liftEntries
  induction tenIndices generalizing s with
  | nil => rfl
  | cons x rest ih => rw [List.foldl_cons, ih]; simp
@[simp] theorem State.liftEntries_notice (p : Port) (zones holds : Bool) (after : Contact) :
    (s.liftEntries p zones holds after).notice = s.notice := by
  unfold State.liftEntries
  induction tenIndices generalizing s with
  | nil => rfl
  | cons x rest ih => rw [List.foldl_cons, ih]; simp
@[simp] theorem State.liftEntries_slots (p : Port) (zones holds : Bool) (after : Contact) :
    (s.liftEntries p zones holds after).slots = s.slots := by
  unfold State.liftEntries
  induction tenIndices generalizing s with
  | nil => rfl
  | cons x rest ih => rw [List.foldl_cons, ih]; simp
@[simp] theorem State.liftEntries_queues (p : Port) (zones holds : Bool) (after : Contact) :
    (s.liftEntries p zones holds after).queues = s.queues := by
  unfold State.liftEntries
  induction tenIndices generalizing s with
  | nil => rfl
  | cons x rest ih => rw [List.foldl_cons, ih]; simp
@[simp] theorem State.liftEntries_deadlines (p : Port) (zones holds : Bool) (after : Contact) :
    (s.liftEntries p zones holds after).deadlines = s.deadlines := by
  unfold State.liftEntries
  induction tenIndices generalizing s with
  | nil => rfl
  | cons x rest ih => rw [List.foldl_cons, ih]; simp
@[simp] theorem State.liftEntries_stats (p : Port) (zones holds : Bool) (after : Contact) :
    (s.liftEntries p zones holds after).stats = s.stats := by
  unfold State.liftEntries
  induction tenIndices generalizing s with
  | nil => rfl
  | cons x rest ih => rw [List.foldl_cons, ih]; simp
@[simp] theorem State.liftEntries_stations (p : Port) (zones holds : Bool) (after : Contact) :
    (s.liftEntries p zones holds after).stations = s.stations := by
  unfold State.liftEntries
  induction tenIndices generalizing s with
  | nil => rfl
  | cons x rest ih => rw [List.foldl_cons, ih]; simp
@[simp] theorem State.liftEntries_marks (p : Port) (zones holds : Bool) (after : Contact) :
    (s.liftEntries p zones holds after).marks = s.marks := by
  unfold State.liftEntries
  induction tenIndices generalizing s with
  | nil => rfl
  | cons x rest ih => rw [List.foldl_cons, ih]; simp
@[simp] theorem State.liftEntries_spare (p : Port) (zones holds : Bool) (after : Contact) :
    (s.liftEntries p zones holds after).spare = s.spare := by
  unfold State.liftEntries
  induction tenIndices generalizing s with
  | nil => rfl
  | cons x rest ih => rw [List.foldl_cons, ih]; simp
@[simp] theorem State.liftEntries_free (p : Port) (zones holds : Bool) (after : Contact) :
    (s.liftEntries p zones holds after).free = s.free := by
  unfold State.liftEntries
  induction tenIndices generalizing s with
  | nil => rfl
  | cons x rest ih => rw [List.foldl_cons, ih]; simp
@[simp] theorem State.liftEntries_pending (p : Port) (zones holds : Bool) (after : Contact) :
    (s.liftEntries p zones holds after).pending = s.pending := by
  unfold State.liftEntries
  induction tenIndices generalizing s with
  | nil => rfl
  | cons x rest ih => rw [List.foldl_cons, ih]; simp

/-! ### clearContacts -/

@[simp] theorem State.clearContacts_ctl (p : Port) : (s.clearContacts p).ctl = s.ctl := rfl
@[simp] theorem State.clearContacts_mem (p : Port) : (s.clearContacts p).mem = s.mem := rfl
@[simp] theorem State.clearContacts_notice (p : Port) : (s.clearContacts p).notice = s.notice := rfl
@[simp] theorem State.clearContacts_stationNotice (p : Port) : (s.clearContacts p).stationNotice = s.stationNotice := rfl
@[simp] theorem State.clearContacts_slots (p : Port) : (s.clearContacts p).slots = s.slots := rfl
@[simp] theorem State.clearContacts_queues (p : Port) : (s.clearContacts p).queues = s.queues := rfl
@[simp] theorem State.clearContacts_deadlines (p : Port) : (s.clearContacts p).deadlines = s.deadlines := rfl
@[simp] theorem State.clearContacts_stats (p : Port) : (s.clearContacts p).stats = s.stats := rfl
@[simp] theorem State.clearContacts_stations (p : Port) : (s.clearContacts p).stations = s.stations := rfl
@[simp] theorem State.clearContacts_marks (p : Port) : (s.clearContacts p).marks = s.marks := rfl
@[simp] theorem State.clearContacts_spare (p : Port) : (s.clearContacts p).spare = s.spare := rfl
@[simp] theorem State.clearContacts_mailboxes (p : Port) : (s.clearContacts p).mailboxes = s.mailboxes := rfl
@[simp] theorem State.clearContacts_free (p : Port) : (s.clearContacts p).free = s.free := rfl
@[simp] theorem State.clearContacts_pending (p : Port) : (s.clearContacts p).pending = s.pending := rfl

/-! ### charge -/

@[simp] theorem State.charge_ctl (st : Station) (busy : Nat) : (s.charge st busy).ctl = s.ctl := by unfold State.charge; simp
@[simp] theorem State.charge_notice (st : Station) (busy : Nat) : (s.charge st busy).notice = s.notice := by unfold State.charge; simp
@[simp] theorem State.charge_stationNotice (st : Station) (busy : Nat) : (s.charge st busy).stationNotice = s.stationNotice := by unfold State.charge; simp
@[simp] theorem State.charge_slots (st : Station) (busy : Nat) : (s.charge st busy).slots = s.slots := by unfold State.charge; simp
@[simp] theorem State.charge_queues (st : Station) (busy : Nat) : (s.charge st busy).queues = s.queues := by unfold State.charge; simp
@[simp] theorem State.charge_deadlines (st : Station) (busy : Nat) : (s.charge st busy).deadlines = s.deadlines := by unfold State.charge; simp
@[simp] theorem State.charge_stats (st : Station) (busy : Nat) : (s.charge st busy).stats = s.stats := by unfold State.charge; simp
@[simp] theorem State.charge_ports (st : Station) (busy : Nat) : (s.charge st busy).ports = s.ports := by unfold State.charge; simp
@[simp] theorem State.charge_marks (st : Station) (busy : Nat) : (s.charge st busy).marks = s.marks := by unfold State.charge; simp
@[simp] theorem State.charge_spare (st : Station) (busy : Nat) : (s.charge st busy).spare = s.spare := by unfold State.charge; simp
@[simp] theorem State.charge_mailboxes (st : Station) (busy : Nat) : (s.charge st busy).mailboxes = s.mailboxes := by unfold State.charge; simp
@[simp] theorem State.charge_free (st : Station) (busy : Nat) : (s.charge st busy).free = s.free := by unfold State.charge; simp
@[simp] theorem State.charge_pending (st : Station) (busy : Nat) : (s.charge st busy).pending = s.pending := by unfold State.charge; simp

/-! ### chargeService -/

@[simp] theorem State.chargeService_ctl (g : Slot) : (s.chargeService g).ctl = s.ctl := by unfold State.chargeService; simp
@[simp] theorem State.chargeService_notice (g : Slot) : (s.chargeService g).notice = s.notice := by unfold State.chargeService; simp
@[simp] theorem State.chargeService_stationNotice (g : Slot) : (s.chargeService g).stationNotice = s.stationNotice := by unfold State.chargeService; simp
@[simp] theorem State.chargeService_slots (g : Slot) : (s.chargeService g).slots = s.slots := by unfold State.chargeService; simp
@[simp] theorem State.chargeService_queues (g : Slot) : (s.chargeService g).queues = s.queues := by unfold State.chargeService; simp
@[simp] theorem State.chargeService_deadlines (g : Slot) : (s.chargeService g).deadlines = s.deadlines := by unfold State.chargeService; simp
@[simp] theorem State.chargeService_stats (g : Slot) : (s.chargeService g).stats = s.stats := by unfold State.chargeService; simp
@[simp] theorem State.chargeService_ports (g : Slot) : (s.chargeService g).ports = s.ports := by unfold State.chargeService; simp
@[simp] theorem State.chargeService_marks (g : Slot) : (s.chargeService g).marks = s.marks := by unfold State.chargeService; simp
@[simp] theorem State.chargeService_spare (g : Slot) : (s.chargeService g).spare = s.spare := by unfold State.chargeService; simp
@[simp] theorem State.chargeService_mailboxes (g : Slot) : (s.chargeService g).mailboxes = s.mailboxes := by unfold State.chargeService; simp
@[simp] theorem State.chargeService_free (g : Slot) : (s.chargeService g).free = s.free := by unfold State.chargeService; simp
@[simp] theorem State.chargeService_pending (g : Slot) : (s.chargeService g).pending = s.pending := by unfold State.chargeService; simp

/-! ### closeFinish -/

@[simp] theorem State.closeFinish_ctl (g : Slot) (o : JobOutcome) (d : Detail) : (s.closeFinish g o d).ctl = s.ctl := by unfold State.closeFinish; simp
@[simp] theorem State.closeFinish_notice (g : Slot) (o : JobOutcome) (d : Detail) : (s.closeFinish g o d).notice = s.notice := by unfold State.closeFinish; simp
@[simp] theorem State.closeFinish_queues (g : Slot) (o : JobOutcome) (d : Detail) : (s.closeFinish g o d).queues = s.queues := by unfold State.closeFinish; simp
@[simp] theorem State.closeFinish_deadlines (g : Slot) (o : JobOutcome) (d : Detail) : (s.closeFinish g o d).deadlines = s.deadlines := by unfold State.closeFinish; simp
@[simp] theorem State.closeFinish_stats (g : Slot) (o : JobOutcome) (d : Detail) : (s.closeFinish g o d).stats = s.stats := by unfold State.closeFinish; simp
@[simp] theorem State.closeFinish_ports (g : Slot) (o : JobOutcome) (d : Detail) : (s.closeFinish g o d).ports = s.ports := by unfold State.closeFinish; simp
@[simp] theorem State.closeFinish_marks (g : Slot) (o : JobOutcome) (d : Detail) : (s.closeFinish g o d).marks = s.marks := by unfold State.closeFinish; simp
@[simp] theorem State.closeFinish_spare (g : Slot) (o : JobOutcome) (d : Detail) : (s.closeFinish g o d).spare = s.spare := by unfold State.closeFinish; simp
@[simp] theorem State.closeFinish_mailboxes (g : Slot) (o : JobOutcome) (d : Detail) : (s.closeFinish g o d).mailboxes = s.mailboxes := by unfold State.closeFinish; simp
@[simp] theorem State.closeFinish_free (g : Slot) (o : JobOutcome) (d : Detail) : (s.closeFinish g o d).free = s.free := by unfold State.closeFinish; simp
@[simp] theorem State.closeFinish_pending (g : Slot) (o : JobOutcome) (d : Detail) : (s.closeFinish g o d).pending = s.pending := by unfold State.closeFinish; simp

/-! ### writeResults -/

@[simp] theorem State.writeResults_ctl (g : Slot) (word firstGrant portWord : Word) (cls : Option JobClass) (r : ClassResults) : (s.writeResults g word firstGrant portWord cls r).ctl = s.ctl := by
  unfold State.writeResults; dsimp only; split <;> rfl
@[simp] theorem State.writeResults_notice (g : Slot) (word firstGrant portWord : Word) (cls : Option JobClass) (r : ClassResults) : (s.writeResults g word firstGrant portWord cls r).notice = s.notice := by
  unfold State.writeResults; dsimp only; split <;> rfl
@[simp] theorem State.writeResults_stationNotice (g : Slot) (word firstGrant portWord : Word) (cls : Option JobClass) (r : ClassResults) : (s.writeResults g word firstGrant portWord cls r).stationNotice = s.stationNotice := by
  unfold State.writeResults; dsimp only; split <;> rfl
@[simp] theorem State.writeResults_slots (g : Slot) (word firstGrant portWord : Word) (cls : Option JobClass) (r : ClassResults) : (s.writeResults g word firstGrant portWord cls r).slots = s.slots := by
  unfold State.writeResults; dsimp only; split <;> rfl
@[simp] theorem State.writeResults_queues (g : Slot) (word firstGrant portWord : Word) (cls : Option JobClass) (r : ClassResults) : (s.writeResults g word firstGrant portWord cls r).queues = s.queues := by
  unfold State.writeResults; dsimp only; split <;> rfl
@[simp] theorem State.writeResults_deadlines (g : Slot) (word firstGrant portWord : Word) (cls : Option JobClass) (r : ClassResults) : (s.writeResults g word firstGrant portWord cls r).deadlines = s.deadlines := by
  unfold State.writeResults; dsimp only; split <;> rfl
@[simp] theorem State.writeResults_stats (g : Slot) (word firstGrant portWord : Word) (cls : Option JobClass) (r : ClassResults) : (s.writeResults g word firstGrant portWord cls r).stats = s.stats := by
  unfold State.writeResults; dsimp only; split <;> rfl
@[simp] theorem State.writeResults_stations (g : Slot) (word firstGrant portWord : Word) (cls : Option JobClass) (r : ClassResults) : (s.writeResults g word firstGrant portWord cls r).stations = s.stations := by
  unfold State.writeResults; dsimp only; split <;> rfl
@[simp] theorem State.writeResults_ports (g : Slot) (word firstGrant portWord : Word) (cls : Option JobClass) (r : ClassResults) : (s.writeResults g word firstGrant portWord cls r).ports = s.ports := by
  unfold State.writeResults; dsimp only; split <;> rfl
@[simp] theorem State.writeResults_marks (g : Slot) (word firstGrant portWord : Word) (cls : Option JobClass) (r : ClassResults) : (s.writeResults g word firstGrant portWord cls r).marks = s.marks := by
  unfold State.writeResults; dsimp only; split <;> rfl
@[simp] theorem State.writeResults_spare (g : Slot) (word firstGrant portWord : Word) (cls : Option JobClass) (r : ClassResults) : (s.writeResults g word firstGrant portWord cls r).spare = s.spare := by
  unfold State.writeResults; dsimp only; split <;> rfl
@[simp] theorem State.writeResults_mailboxes (g : Slot) (word firstGrant portWord : Word) (cls : Option JobClass) (r : ClassResults) : (s.writeResults g word firstGrant portWord cls r).mailboxes = s.mailboxes := by
  unfold State.writeResults; dsimp only; split <;> rfl
@[simp] theorem State.writeResults_free (g : Slot) (word firstGrant portWord : Word) (cls : Option JobClass) (r : ClassResults) : (s.writeResults g word firstGrant portWord cls r).free = s.free := by
  unfold State.writeResults; dsimp only; split <;> rfl
@[simp] theorem State.writeResults_pending (g : Slot) (word firstGrant portWord : Word) (cls : Option JobClass) (r : ClassResults) : (s.writeResults g word firstGrant portWord cls r).pending = s.pending := by
  unfold State.writeResults; dsimp only; split <;> rfl

/-! ### writeJobResults -/

@[simp] theorem State.writeJobResults_ctl (g : Slot) (o : JobOutcome) (d : Detail) (reported : Option Word) : (s.writeJobResults g o d reported).ctl = s.ctl := by unfold State.writeJobResults; simp
@[simp] theorem State.writeJobResults_notice (g : Slot) (o : JobOutcome) (d : Detail) (reported : Option Word) : (s.writeJobResults g o d reported).notice = s.notice := by unfold State.writeJobResults; simp
@[simp] theorem State.writeJobResults_stationNotice (g : Slot) (o : JobOutcome) (d : Detail) (reported : Option Word) : (s.writeJobResults g o d reported).stationNotice = s.stationNotice := by unfold State.writeJobResults; simp
@[simp] theorem State.writeJobResults_slots (g : Slot) (o : JobOutcome) (d : Detail) (reported : Option Word) : (s.writeJobResults g o d reported).slots = s.slots := by unfold State.writeJobResults; simp
@[simp] theorem State.writeJobResults_queues (g : Slot) (o : JobOutcome) (d : Detail) (reported : Option Word) : (s.writeJobResults g o d reported).queues = s.queues := by unfold State.writeJobResults; simp
@[simp] theorem State.writeJobResults_deadlines (g : Slot) (o : JobOutcome) (d : Detail) (reported : Option Word) : (s.writeJobResults g o d reported).deadlines = s.deadlines := by unfold State.writeJobResults; simp
@[simp] theorem State.writeJobResults_stats (g : Slot) (o : JobOutcome) (d : Detail) (reported : Option Word) : (s.writeJobResults g o d reported).stats = s.stats := by unfold State.writeJobResults; simp
@[simp] theorem State.writeJobResults_stations (g : Slot) (o : JobOutcome) (d : Detail) (reported : Option Word) : (s.writeJobResults g o d reported).stations = s.stations := by unfold State.writeJobResults; simp
@[simp] theorem State.writeJobResults_ports (g : Slot) (o : JobOutcome) (d : Detail) (reported : Option Word) : (s.writeJobResults g o d reported).ports = s.ports := by unfold State.writeJobResults; simp
@[simp] theorem State.writeJobResults_marks (g : Slot) (o : JobOutcome) (d : Detail) (reported : Option Word) : (s.writeJobResults g o d reported).marks = s.marks := by unfold State.writeJobResults; simp
@[simp] theorem State.writeJobResults_spare (g : Slot) (o : JobOutcome) (d : Detail) (reported : Option Word) : (s.writeJobResults g o d reported).spare = s.spare := by unfold State.writeJobResults; simp
@[simp] theorem State.writeJobResults_mailboxes (g : Slot) (o : JobOutcome) (d : Detail) (reported : Option Word) : (s.writeJobResults g o d reported).mailboxes = s.mailboxes := by unfold State.writeJobResults; simp
@[simp] theorem State.writeJobResults_free (g : Slot) (o : JobOutcome) (d : Detail) (reported : Option Word) : (s.writeJobResults g o d reported).free = s.free := by unfold State.writeJobResults; simp
@[simp] theorem State.writeJobResults_pending (g : Slot) (o : JobOutcome) (d : Detail) (reported : Option Word) : (s.writeJobResults g o d reported).pending = s.pending := by unfold State.writeJobResults; simp

/-! ### finish -/

@[simp] theorem State.finish_ctl (g : Slot) (o : JobOutcome) (d : Detail) (reported : Option Word) : (s.finish g o d reported).ctl = s.ctl := by
  unfold State.finish; dsimp only; split <;> (split <;> simp)
@[simp] theorem State.finish_notice (g : Slot) (o : JobOutcome) (d : Detail) (reported : Option Word) : (s.finish g o d reported).notice = s.notice := by
  unfold State.finish; dsimp only; split <;> (split <;> simp)
@[simp] theorem State.finish_queues (g : Slot) (o : JobOutcome) (d : Detail) (reported : Option Word) : (s.finish g o d reported).queues = s.queues := by
  unfold State.finish; dsimp only; split <;> (split <;> simp)
@[simp] theorem State.finish_deadlines (g : Slot) (o : JobOutcome) (d : Detail) (reported : Option Word) : (s.finish g o d reported).deadlines = s.deadlines := by
  unfold State.finish; dsimp only; split <;> (split <;> simp)
@[simp] theorem State.finish_stats (g : Slot) (o : JobOutcome) (d : Detail) (reported : Option Word) : (s.finish g o d reported).stats = s.stats := by
  unfold State.finish; dsimp only; split <;> (split <;> simp)
@[simp] theorem State.finish_ports (g : Slot) (o : JobOutcome) (d : Detail) (reported : Option Word) : (s.finish g o d reported).ports = s.ports := by
  unfold State.finish; dsimp only; split <;> (split <;> simp)
@[simp] theorem State.finish_spare (g : Slot) (o : JobOutcome) (d : Detail) (reported : Option Word) : (s.finish g o d reported).spare = s.spare := by
  unfold State.finish; dsimp only; split <;> (split <;> simp)
@[simp] theorem State.finish_mailboxes (g : Slot) (o : JobOutcome) (d : Detail) (reported : Option Word) : (s.finish g o d reported).mailboxes = s.mailboxes := by
  unfold State.finish; dsimp only; split <;> (split <;> simp)
@[simp] theorem State.finish_free (g : Slot) (o : JobOutcome) (d : Detail) (reported : Option Word) : (s.finish g o d reported).free = s.free := by
  unfold State.finish; dsimp only; split <;> (split <;> simp)
@[simp] theorem State.finish_pending (g : Slot) (o : JobOutcome) (d : Detail) (reported : Option Word) : (s.finish g o d reported).pending = s.pending := by
  unfold State.finish; dsimp only; split <;> (split <;> simp)

/-! ### refuse -/

@[simp] theorem State.refuse_ctl (g : Slot) (cls : Option JobClass) (d : Detail) : (s.refuse g cls d).ctl = s.ctl := by unfold State.refuse; simp
@[simp] theorem State.refuse_notice (g : Slot) (cls : Option JobClass) (d : Detail) : (s.refuse g cls d).notice = s.notice := by unfold State.refuse; simp
@[simp] theorem State.refuse_queues (g : Slot) (cls : Option JobClass) (d : Detail) : (s.refuse g cls d).queues = s.queues := by unfold State.refuse; simp
@[simp] theorem State.refuse_deadlines (g : Slot) (cls : Option JobClass) (d : Detail) : (s.refuse g cls d).deadlines = s.deadlines := by unfold State.refuse; simp
@[simp] theorem State.refuse_stats (g : Slot) (cls : Option JobClass) (d : Detail) : (s.refuse g cls d).stats = s.stats := by unfold State.refuse; simp
@[simp] theorem State.refuse_ports (g : Slot) (cls : Option JobClass) (d : Detail) : (s.refuse g cls d).ports = s.ports := by unfold State.refuse; simp
@[simp] theorem State.refuse_marks (g : Slot) (cls : Option JobClass) (d : Detail) : (s.refuse g cls d).marks = s.marks := by unfold State.refuse; simp
@[simp] theorem State.refuse_spare (g : Slot) (cls : Option JobClass) (d : Detail) : (s.refuse g cls d).spare = s.spare := by unfold State.refuse; simp
@[simp] theorem State.refuse_mailboxes (g : Slot) (cls : Option JobClass) (d : Detail) : (s.refuse g cls d).mailboxes = s.mailboxes := by unfold State.refuse; simp
@[simp] theorem State.refuse_free (g : Slot) (cls : Option JobClass) (d : Detail) : (s.refuse g cls d).free = s.free := by unfold State.refuse; simp
@[simp] theorem State.refuse_pending (g : Slot) (cls : Option JobClass) (d : Detail) : (s.refuse g cls d).pending = s.pending := by unfold State.refuse; simp

/-! ### cancelBeforeAccept -/

@[simp] theorem State.cancelBeforeAccept_ctl (g : Slot) (cls : Option JobClass) (clamps : ClampFlags) : (s.cancelBeforeAccept g cls clamps).ctl = s.ctl := by unfold State.cancelBeforeAccept; simp
@[simp] theorem State.cancelBeforeAccept_notice (g : Slot) (cls : Option JobClass) (clamps : ClampFlags) : (s.cancelBeforeAccept g cls clamps).notice = s.notice := by unfold State.cancelBeforeAccept; simp
@[simp] theorem State.cancelBeforeAccept_queues (g : Slot) (cls : Option JobClass) (clamps : ClampFlags) : (s.cancelBeforeAccept g cls clamps).queues = s.queues := by unfold State.cancelBeforeAccept; simp
@[simp] theorem State.cancelBeforeAccept_deadlines (g : Slot) (cls : Option JobClass) (clamps : ClampFlags) : (s.cancelBeforeAccept g cls clamps).deadlines = s.deadlines := by unfold State.cancelBeforeAccept; simp
@[simp] theorem State.cancelBeforeAccept_stats (g : Slot) (cls : Option JobClass) (clamps : ClampFlags) : (s.cancelBeforeAccept g cls clamps).stats = s.stats := by unfold State.cancelBeforeAccept; simp
@[simp] theorem State.cancelBeforeAccept_ports (g : Slot) (cls : Option JobClass) (clamps : ClampFlags) : (s.cancelBeforeAccept g cls clamps).ports = s.ports := by unfold State.cancelBeforeAccept; simp
@[simp] theorem State.cancelBeforeAccept_marks (g : Slot) (cls : Option JobClass) (clamps : ClampFlags) : (s.cancelBeforeAccept g cls clamps).marks = s.marks := by unfold State.cancelBeforeAccept; simp
@[simp] theorem State.cancelBeforeAccept_spare (g : Slot) (cls : Option JobClass) (clamps : ClampFlags) : (s.cancelBeforeAccept g cls clamps).spare = s.spare := by unfold State.cancelBeforeAccept; simp
@[simp] theorem State.cancelBeforeAccept_mailboxes (g : Slot) (cls : Option JobClass) (clamps : ClampFlags) : (s.cancelBeforeAccept g cls clamps).mailboxes = s.mailboxes := by unfold State.cancelBeforeAccept; simp
@[simp] theorem State.cancelBeforeAccept_free (g : Slot) (cls : Option JobClass) (clamps : ClampFlags) : (s.cancelBeforeAccept g cls clamps).free = s.free := by unfold State.cancelBeforeAccept; simp
@[simp] theorem State.cancelBeforeAccept_pending (g : Slot) (cls : Option JobClass) (clamps : ClampFlags) : (s.cancelBeforeAccept g cls clamps).pending = s.pending := by unfold State.cancelBeforeAccept; simp

/-! ### joinDeadlines -/

@[simp] theorem State.joinDeadlines_ctl (g : Slot) : (s.joinDeadlines g).ctl = s.ctl := rfl
@[simp] theorem State.joinDeadlines_mem (g : Slot) : (s.joinDeadlines g).mem = s.mem := rfl
@[simp] theorem State.joinDeadlines_notice (g : Slot) : (s.joinDeadlines g).notice = s.notice := rfl
@[simp] theorem State.joinDeadlines_stationNotice (g : Slot) : (s.joinDeadlines g).stationNotice = s.stationNotice := rfl
@[simp] theorem State.joinDeadlines_slots (g : Slot) : (s.joinDeadlines g).slots = s.slots := rfl
@[simp] theorem State.joinDeadlines_queues (g : Slot) : (s.joinDeadlines g).queues = s.queues := rfl
@[simp] theorem State.joinDeadlines_stats (g : Slot) : (s.joinDeadlines g).stats = s.stats := rfl
@[simp] theorem State.joinDeadlines_stations (g : Slot) : (s.joinDeadlines g).stations = s.stations := rfl
@[simp] theorem State.joinDeadlines_ports (g : Slot) : (s.joinDeadlines g).ports = s.ports := rfl
@[simp] theorem State.joinDeadlines_marks (g : Slot) : (s.joinDeadlines g).marks = s.marks := rfl
@[simp] theorem State.joinDeadlines_spare (g : Slot) : (s.joinDeadlines g).spare = s.spare := rfl
@[simp] theorem State.joinDeadlines_mailboxes (g : Slot) : (s.joinDeadlines g).mailboxes = s.mailboxes := rfl
@[simp] theorem State.joinDeadlines_free (g : Slot) : (s.joinDeadlines g).free = s.free := rfl
@[simp] theorem State.joinDeadlines_pending (g : Slot) : (s.joinDeadlines g).pending = s.pending := rfl

/-! ### leaveDeadlines -/

@[simp] theorem State.leaveDeadlines_ctl (g : Slot) : (s.leaveDeadlines g).ctl = s.ctl := rfl
@[simp] theorem State.leaveDeadlines_mem (g : Slot) : (s.leaveDeadlines g).mem = s.mem := rfl
@[simp] theorem State.leaveDeadlines_notice (g : Slot) : (s.leaveDeadlines g).notice = s.notice := rfl
@[simp] theorem State.leaveDeadlines_stationNotice (g : Slot) : (s.leaveDeadlines g).stationNotice = s.stationNotice := rfl
@[simp] theorem State.leaveDeadlines_slots (g : Slot) : (s.leaveDeadlines g).slots = s.slots := rfl
@[simp] theorem State.leaveDeadlines_queues (g : Slot) : (s.leaveDeadlines g).queues = s.queues := rfl
@[simp] theorem State.leaveDeadlines_stats (g : Slot) : (s.leaveDeadlines g).stats = s.stats := rfl
@[simp] theorem State.leaveDeadlines_stations (g : Slot) : (s.leaveDeadlines g).stations = s.stations := rfl
@[simp] theorem State.leaveDeadlines_ports (g : Slot) : (s.leaveDeadlines g).ports = s.ports := rfl
@[simp] theorem State.leaveDeadlines_marks (g : Slot) : (s.leaveDeadlines g).marks = s.marks := rfl
@[simp] theorem State.leaveDeadlines_spare (g : Slot) : (s.leaveDeadlines g).spare = s.spare := rfl
@[simp] theorem State.leaveDeadlines_mailboxes (g : Slot) : (s.leaveDeadlines g).mailboxes = s.mailboxes := rfl
@[simp] theorem State.leaveDeadlines_free (g : Slot) : (s.leaveDeadlines g).free = s.free := rfl
@[simp] theorem State.leaveDeadlines_pending (g : Slot) : (s.leaveDeadlines g).pending = s.pending := rfl

/-! ### joinQueue -/

@[simp] theorem State.joinQueue_ctl (g : Slot) : (s.joinQueue g).ctl = s.ctl := by unfold State.joinQueue; simp
@[simp] theorem State.joinQueue_notice (g : Slot) : (s.joinQueue g).notice = s.notice := by unfold State.joinQueue; simp
@[simp] theorem State.joinQueue_stationNotice (g : Slot) : (s.joinQueue g).stationNotice = s.stationNotice := by unfold State.joinQueue; simp
@[simp] theorem State.joinQueue_slots (g : Slot) : (s.joinQueue g).slots = s.slots := by unfold State.joinQueue; simp
@[simp] theorem State.joinQueue_deadlines (g : Slot) : (s.joinQueue g).deadlines = s.deadlines := by unfold State.joinQueue; simp
@[simp] theorem State.joinQueue_stats (g : Slot) : (s.joinQueue g).stats = s.stats := by unfold State.joinQueue; simp
@[simp] theorem State.joinQueue_stations (g : Slot) : (s.joinQueue g).stations = s.stations := by unfold State.joinQueue; simp
@[simp] theorem State.joinQueue_ports (g : Slot) : (s.joinQueue g).ports = s.ports := by unfold State.joinQueue; simp
@[simp] theorem State.joinQueue_marks (g : Slot) : (s.joinQueue g).marks = s.marks := by unfold State.joinQueue; simp
@[simp] theorem State.joinQueue_spare (g : Slot) : (s.joinQueue g).spare = s.spare := by unfold State.joinQueue; simp
@[simp] theorem State.joinQueue_mailboxes (g : Slot) : (s.joinQueue g).mailboxes = s.mailboxes := by unfold State.joinQueue; simp
@[simp] theorem State.joinQueue_free (g : Slot) : (s.joinQueue g).free = s.free := by unfold State.joinQueue; simp
@[simp] theorem State.joinQueue_pending (g : Slot) : (s.joinQueue g).pending = s.pending := by unfold State.joinQueue; simp

/-! ### leaveQueue -/

@[simp] theorem State.leaveQueue_ctl (g : Slot) : (s.leaveQueue g).ctl = s.ctl := by unfold State.leaveQueue; simp
@[simp] theorem State.leaveQueue_notice (g : Slot) : (s.leaveQueue g).notice = s.notice := by unfold State.leaveQueue; simp
@[simp] theorem State.leaveQueue_stationNotice (g : Slot) : (s.leaveQueue g).stationNotice = s.stationNotice := by unfold State.leaveQueue; simp
@[simp] theorem State.leaveQueue_slots (g : Slot) : (s.leaveQueue g).slots = s.slots := by unfold State.leaveQueue; simp
@[simp] theorem State.leaveQueue_deadlines (g : Slot) : (s.leaveQueue g).deadlines = s.deadlines := by unfold State.leaveQueue; simp
@[simp] theorem State.leaveQueue_stats (g : Slot) : (s.leaveQueue g).stats = s.stats := by unfold State.leaveQueue; simp
@[simp] theorem State.leaveQueue_stations (g : Slot) : (s.leaveQueue g).stations = s.stations := by unfold State.leaveQueue; simp
@[simp] theorem State.leaveQueue_ports (g : Slot) : (s.leaveQueue g).ports = s.ports := by unfold State.leaveQueue; simp
@[simp] theorem State.leaveQueue_marks (g : Slot) : (s.leaveQueue g).marks = s.marks := by unfold State.leaveQueue; simp
@[simp] theorem State.leaveQueue_spare (g : Slot) : (s.leaveQueue g).spare = s.spare := by unfold State.leaveQueue; simp
@[simp] theorem State.leaveQueue_mailboxes (g : Slot) : (s.leaveQueue g).mailboxes = s.mailboxes := by unfold State.leaveQueue; simp
@[simp] theorem State.leaveQueue_free (g : Slot) : (s.leaveQueue g).free = s.free := by unfold State.leaveQueue; simp
@[simp] theorem State.leaveQueue_pending (g : Slot) : (s.leaveQueue g).pending = s.pending := by unfold State.leaveQueue; simp

/-! ### requeue -/

@[simp] theorem State.requeue_ctl (g : Slot) : (s.requeue g).ctl = s.ctl := by unfold State.requeue; simp
@[simp] theorem State.requeue_notice (g : Slot) : (s.requeue g).notice = s.notice := by unfold State.requeue; simp
@[simp] theorem State.requeue_stationNotice (g : Slot) : (s.requeue g).stationNotice = s.stationNotice := by unfold State.requeue; simp
@[simp] theorem State.requeue_deadlines (g : Slot) : (s.requeue g).deadlines = s.deadlines := by unfold State.requeue; simp
@[simp] theorem State.requeue_stats (g : Slot) : (s.requeue g).stats = s.stats := by unfold State.requeue; simp
@[simp] theorem State.requeue_ports (g : Slot) : (s.requeue g).ports = s.ports := by unfold State.requeue; simp
@[simp] theorem State.requeue_marks (g : Slot) : (s.requeue g).marks = s.marks := by unfold State.requeue; simp
@[simp] theorem State.requeue_spare (g : Slot) : (s.requeue g).spare = s.spare := by unfold State.requeue; simp
@[simp] theorem State.requeue_mailboxes (g : Slot) : (s.requeue g).mailboxes = s.mailboxes := by unfold State.requeue; simp
@[simp] theorem State.requeue_free (g : Slot) : (s.requeue g).free = s.free := by unfold State.requeue; simp
@[simp] theorem State.requeue_pending (g : Slot) : (s.requeue g).pending = s.pending := by unfold State.requeue; simp

/-! ### requeuePreempted -/

@[simp] theorem State.requeuePreempted_ctl (g : Slot) : (s.requeuePreempted g).ctl = s.ctl := by unfold State.requeuePreempted; simp
@[simp] theorem State.requeuePreempted_notice (g : Slot) : (s.requeuePreempted g).notice = s.notice := by unfold State.requeuePreempted; simp
@[simp] theorem State.requeuePreempted_stationNotice (g : Slot) : (s.requeuePreempted g).stationNotice = s.stationNotice := by unfold State.requeuePreempted; simp
@[simp] theorem State.requeuePreempted_deadlines (g : Slot) : (s.requeuePreempted g).deadlines = s.deadlines := by unfold State.requeuePreempted; simp
@[simp] theorem State.requeuePreempted_ports (g : Slot) : (s.requeuePreempted g).ports = s.ports := by unfold State.requeuePreempted; simp
@[simp] theorem State.requeuePreempted_marks (g : Slot) : (s.requeuePreempted g).marks = s.marks := by unfold State.requeuePreempted; simp
@[simp] theorem State.requeuePreempted_spare (g : Slot) : (s.requeuePreempted g).spare = s.spare := by unfold State.requeuePreempted; simp
@[simp] theorem State.requeuePreempted_mailboxes (g : Slot) : (s.requeuePreempted g).mailboxes = s.mailboxes := by unfold State.requeuePreempted; simp
@[simp] theorem State.requeuePreempted_free (g : Slot) : (s.requeuePreempted g).free = s.free := by unfold State.requeuePreempted; simp
@[simp] theorem State.requeuePreempted_pending (g : Slot) : (s.requeuePreempted g).pending = s.pending := by unfold State.requeuePreempted; simp

/-! ### requeueFaulted -/

@[simp] theorem State.requeueFaulted_ctl (g : Slot) : (s.requeueFaulted g).ctl = s.ctl := by unfold State.requeueFaulted; simp
@[simp] theorem State.requeueFaulted_notice (g : Slot) : (s.requeueFaulted g).notice = s.notice := by unfold State.requeueFaulted; simp
@[simp] theorem State.requeueFaulted_stationNotice (g : Slot) : (s.requeueFaulted g).stationNotice = s.stationNotice := by unfold State.requeueFaulted; simp
@[simp] theorem State.requeueFaulted_deadlines (g : Slot) : (s.requeueFaulted g).deadlines = s.deadlines := by unfold State.requeueFaulted; simp
@[simp] theorem State.requeueFaulted_ports (g : Slot) : (s.requeueFaulted g).ports = s.ports := by unfold State.requeueFaulted; simp
@[simp] theorem State.requeueFaulted_marks (g : Slot) : (s.requeueFaulted g).marks = s.marks := by unfold State.requeueFaulted; simp
@[simp] theorem State.requeueFaulted_spare (g : Slot) : (s.requeueFaulted g).spare = s.spare := by unfold State.requeueFaulted; simp
@[simp] theorem State.requeueFaulted_mailboxes (g : Slot) : (s.requeueFaulted g).mailboxes = s.mailboxes := by unfold State.requeueFaulted; simp
@[simp] theorem State.requeueFaulted_free (g : Slot) : (s.requeueFaulted g).free = s.free := by unfold State.requeueFaulted; simp
@[simp] theorem State.requeueFaulted_pending (g : Slot) : (s.requeueFaulted g).pending = s.pending := by unfold State.requeueFaulted; simp

/-! ### releasePort -/

@[simp] theorem State.releasePort_ctl (p : Port) : (s.releasePort p).ctl = s.ctl := by unfold State.releasePort; simp
@[simp] theorem State.releasePort_notice (p : Port) : (s.releasePort p).notice = s.notice := by unfold State.releasePort; simp
@[simp] theorem State.releasePort_stationNotice (p : Port) : (s.releasePort p).stationNotice = s.stationNotice := by unfold State.releasePort; simp
@[simp] theorem State.releasePort_slots (p : Port) : (s.releasePort p).slots = s.slots := by unfold State.releasePort; simp
@[simp] theorem State.releasePort_queues (p : Port) : (s.releasePort p).queues = s.queues := by unfold State.releasePort; simp
@[simp] theorem State.releasePort_deadlines (p : Port) : (s.releasePort p).deadlines = s.deadlines := by unfold State.releasePort; simp
@[simp] theorem State.releasePort_stats (p : Port) : (s.releasePort p).stats = s.stats := by unfold State.releasePort; simp
@[simp] theorem State.releasePort_stations (p : Port) : (s.releasePort p).stations = s.stations := by unfold State.releasePort; simp
@[simp] theorem State.releasePort_marks (p : Port) : (s.releasePort p).marks = s.marks := by unfold State.releasePort; simp
@[simp] theorem State.releasePort_spare (p : Port) : (s.releasePort p).spare = s.spare := by unfold State.releasePort; simp
@[simp] theorem State.releasePort_mailboxes (p : Port) : (s.releasePort p).mailboxes = s.mailboxes := by unfold State.releasePort; simp
@[simp] theorem State.releasePort_free (p : Port) : (s.releasePort p).free = s.free := by unfold State.releasePort; simp
@[simp] theorem State.releasePort_pending (p : Port) : (s.releasePort p).pending = s.pending := by unfold State.releasePort; simp

/-! ### modifyPrint -/

@[simp] theorem State.modifyPrint_ctl (p : Port) (f : PrintService → PrintService) : (s.modifyPrint p f).ctl = s.ctl := rfl
@[simp] theorem State.modifyPrint_mem (p : Port) (f : PrintService → PrintService) : (s.modifyPrint p f).mem = s.mem := rfl
@[simp] theorem State.modifyPrint_notice (p : Port) (f : PrintService → PrintService) : (s.modifyPrint p f).notice = s.notice := rfl
@[simp] theorem State.modifyPrint_stationNotice (p : Port) (f : PrintService → PrintService) : (s.modifyPrint p f).stationNotice = s.stationNotice := rfl
@[simp] theorem State.modifyPrint_slots (p : Port) (f : PrintService → PrintService) : (s.modifyPrint p f).slots = s.slots := rfl
@[simp] theorem State.modifyPrint_queues (p : Port) (f : PrintService → PrintService) : (s.modifyPrint p f).queues = s.queues := rfl
@[simp] theorem State.modifyPrint_deadlines (p : Port) (f : PrintService → PrintService) : (s.modifyPrint p f).deadlines = s.deadlines := rfl
@[simp] theorem State.modifyPrint_stats (p : Port) (f : PrintService → PrintService) : (s.modifyPrint p f).stats = s.stats := rfl
@[simp] theorem State.modifyPrint_stations (p : Port) (f : PrintService → PrintService) : (s.modifyPrint p f).stations = s.stations := rfl
@[simp] theorem State.modifyPrint_marks (p : Port) (f : PrintService → PrintService) : (s.modifyPrint p f).marks = s.marks := rfl
@[simp] theorem State.modifyPrint_spare (p : Port) (f : PrintService → PrintService) : (s.modifyPrint p f).spare = s.spare := rfl
@[simp] theorem State.modifyPrint_mailboxes (p : Port) (f : PrintService → PrintService) : (s.modifyPrint p f).mailboxes = s.mailboxes := rfl
@[simp] theorem State.modifyPrint_free (p : Port) (f : PrintService → PrintService) : (s.modifyPrint p f).free = s.free := rfl
@[simp] theorem State.modifyPrint_pending (p : Port) (f : PrintService → PrintService) : (s.modifyPrint p f).pending = s.pending := rfl

/-! ### modifyScan -/

@[simp] theorem State.modifyScan_ctl (p : Port) (f : ScanService → ScanService) : (s.modifyScan p f).ctl = s.ctl := rfl
@[simp] theorem State.modifyScan_mem (p : Port) (f : ScanService → ScanService) : (s.modifyScan p f).mem = s.mem := rfl
@[simp] theorem State.modifyScan_notice (p : Port) (f : ScanService → ScanService) : (s.modifyScan p f).notice = s.notice := rfl
@[simp] theorem State.modifyScan_stationNotice (p : Port) (f : ScanService → ScanService) : (s.modifyScan p f).stationNotice = s.stationNotice := rfl
@[simp] theorem State.modifyScan_slots (p : Port) (f : ScanService → ScanService) : (s.modifyScan p f).slots = s.slots := rfl
@[simp] theorem State.modifyScan_queues (p : Port) (f : ScanService → ScanService) : (s.modifyScan p f).queues = s.queues := rfl
@[simp] theorem State.modifyScan_deadlines (p : Port) (f : ScanService → ScanService) : (s.modifyScan p f).deadlines = s.deadlines := rfl
@[simp] theorem State.modifyScan_stats (p : Port) (f : ScanService → ScanService) : (s.modifyScan p f).stats = s.stats := rfl
@[simp] theorem State.modifyScan_stations (p : Port) (f : ScanService → ScanService) : (s.modifyScan p f).stations = s.stations := rfl
@[simp] theorem State.modifyScan_marks (p : Port) (f : ScanService → ScanService) : (s.modifyScan p f).marks = s.marks := rfl
@[simp] theorem State.modifyScan_spare (p : Port) (f : ScanService → ScanService) : (s.modifyScan p f).spare = s.spare := rfl
@[simp] theorem State.modifyScan_mailboxes (p : Port) (f : ScanService → ScanService) : (s.modifyScan p f).mailboxes = s.mailboxes := rfl
@[simp] theorem State.modifyScan_free (p : Port) (f : ScanService → ScanService) : (s.modifyScan p f).free = s.free := rfl
@[simp] theorem State.modifyScan_pending (p : Port) (f : ScanService → ScanService) : (s.modifyScan p f).pending = s.pending := rfl

/-! ### keepHold -/

@[simp] theorem State.keepHold_ctl (g : Slot) (ms : Nat) : (s.keepHold g ms).ctl = s.ctl := rfl
@[simp] theorem State.keepHold_mem (g : Slot) (ms : Nat) : (s.keepHold g ms).mem = s.mem := rfl
@[simp] theorem State.keepHold_notice (g : Slot) (ms : Nat) : (s.keepHold g ms).notice = s.notice := rfl
@[simp] theorem State.keepHold_stationNotice (g : Slot) (ms : Nat) : (s.keepHold g ms).stationNotice = s.stationNotice := rfl
@[simp] theorem State.keepHold_queues (g : Slot) (ms : Nat) : (s.keepHold g ms).queues = s.queues := rfl
@[simp] theorem State.keepHold_deadlines (g : Slot) (ms : Nat) : (s.keepHold g ms).deadlines = s.deadlines := rfl
@[simp] theorem State.keepHold_stats (g : Slot) (ms : Nat) : (s.keepHold g ms).stats = s.stats := rfl
@[simp] theorem State.keepHold_stations (g : Slot) (ms : Nat) : (s.keepHold g ms).stations = s.stations := rfl
@[simp] theorem State.keepHold_ports (g : Slot) (ms : Nat) : (s.keepHold g ms).ports = s.ports := rfl
@[simp] theorem State.keepHold_marks (g : Slot) (ms : Nat) : (s.keepHold g ms).marks = s.marks := rfl
@[simp] theorem State.keepHold_spare (g : Slot) (ms : Nat) : (s.keepHold g ms).spare = s.spare := rfl
@[simp] theorem State.keepHold_mailboxes (g : Slot) (ms : Nat) : (s.keepHold g ms).mailboxes = s.mailboxes := rfl
@[simp] theorem State.keepHold_free (g : Slot) (ms : Nat) : (s.keepHold g ms).free = s.free := rfl
@[simp] theorem State.keepHold_pending (g : Slot) (ms : Nat) : (s.keepHold g ms).pending = s.pending := rfl

/-! ### latchAged -/

@[simp] theorem State.latchAged_ctl (g : Slot) : (s.latchAged g).ctl = s.ctl := by
  unfold State.latchAged; dsimp only; split <;> simp
@[simp] theorem State.latchAged_mem (g : Slot) : (s.latchAged g).mem = s.mem := by
  unfold State.latchAged; dsimp only; split <;> simp
@[simp] theorem State.latchAged_notice (g : Slot) : (s.latchAged g).notice = s.notice := by
  unfold State.latchAged; dsimp only; split <;> simp
@[simp] theorem State.latchAged_stationNotice (g : Slot) : (s.latchAged g).stationNotice = s.stationNotice := by
  unfold State.latchAged; dsimp only; split <;> simp
@[simp] theorem State.latchAged_queues (g : Slot) : (s.latchAged g).queues = s.queues := by
  unfold State.latchAged; dsimp only; split <;> simp
@[simp] theorem State.latchAged_deadlines (g : Slot) : (s.latchAged g).deadlines = s.deadlines := by
  unfold State.latchAged; dsimp only; split <;> simp
@[simp] theorem State.latchAged_stats (g : Slot) : (s.latchAged g).stats = s.stats := by
  unfold State.latchAged; dsimp only; split <;> simp
@[simp] theorem State.latchAged_stations (g : Slot) : (s.latchAged g).stations = s.stations := by
  unfold State.latchAged; dsimp only; split <;> simp
@[simp] theorem State.latchAged_ports (g : Slot) : (s.latchAged g).ports = s.ports := by
  unfold State.latchAged; dsimp only; split <;> simp
@[simp] theorem State.latchAged_marks (g : Slot) : (s.latchAged g).marks = s.marks := by
  unfold State.latchAged; dsimp only; split <;> simp
@[simp] theorem State.latchAged_spare (g : Slot) : (s.latchAged g).spare = s.spare := by
  unfold State.latchAged; dsimp only; split <;> simp
@[simp] theorem State.latchAged_mailboxes (g : Slot) : (s.latchAged g).mailboxes = s.mailboxes := by
  unfold State.latchAged; dsimp only; split <;> simp
@[simp] theorem State.latchAged_free (g : Slot) : (s.latchAged g).free = s.free := by
  unfold State.latchAged; dsimp only; split <;> simp
@[simp] theorem State.latchAged_pending (g : Slot) : (s.latchAged g).pending = s.pending := by
  unfold State.latchAged; dsimp only; split <;> simp

/-! ### latchAll -/

@[simp] theorem State.latchAll_ctl (l : List Slot) : (s.latchAll l).ctl = s.ctl := by
  unfold State.latchAll
  induction l generalizing s with
  | nil => rfl
  | cons x rest ih => rw [List.foldl_cons, ih]; simp
@[simp] theorem State.latchAll_mem (l : List Slot) : (s.latchAll l).mem = s.mem := by
  unfold State.latchAll
  induction l generalizing s with
  | nil => rfl
  | cons x rest ih => rw [List.foldl_cons, ih]; simp
@[simp] theorem State.latchAll_notice (l : List Slot) : (s.latchAll l).notice = s.notice := by
  unfold State.latchAll
  induction l generalizing s with
  | nil => rfl
  | cons x rest ih => rw [List.foldl_cons, ih]; simp
@[simp] theorem State.latchAll_stationNotice (l : List Slot) : (s.latchAll l).stationNotice = s.stationNotice := by
  unfold State.latchAll
  induction l generalizing s with
  | nil => rfl
  | cons x rest ih => rw [List.foldl_cons, ih]; simp
@[simp] theorem State.latchAll_queues (l : List Slot) : (s.latchAll l).queues = s.queues := by
  unfold State.latchAll
  induction l generalizing s with
  | nil => rfl
  | cons x rest ih => rw [List.foldl_cons, ih]; simp
@[simp] theorem State.latchAll_deadlines (l : List Slot) : (s.latchAll l).deadlines = s.deadlines := by
  unfold State.latchAll
  induction l generalizing s with
  | nil => rfl
  | cons x rest ih => rw [List.foldl_cons, ih]; simp
@[simp] theorem State.latchAll_stats (l : List Slot) : (s.latchAll l).stats = s.stats := by
  unfold State.latchAll
  induction l generalizing s with
  | nil => rfl
  | cons x rest ih => rw [List.foldl_cons, ih]; simp
@[simp] theorem State.latchAll_stations (l : List Slot) : (s.latchAll l).stations = s.stations := by
  unfold State.latchAll
  induction l generalizing s with
  | nil => rfl
  | cons x rest ih => rw [List.foldl_cons, ih]; simp
@[simp] theorem State.latchAll_ports (l : List Slot) : (s.latchAll l).ports = s.ports := by
  unfold State.latchAll
  induction l generalizing s with
  | nil => rfl
  | cons x rest ih => rw [List.foldl_cons, ih]; simp
@[simp] theorem State.latchAll_marks (l : List Slot) : (s.latchAll l).marks = s.marks := by
  unfold State.latchAll
  induction l generalizing s with
  | nil => rfl
  | cons x rest ih => rw [List.foldl_cons, ih]; simp
@[simp] theorem State.latchAll_spare (l : List Slot) : (s.latchAll l).spare = s.spare := by
  unfold State.latchAll
  induction l generalizing s with
  | nil => rfl
  | cons x rest ih => rw [List.foldl_cons, ih]; simp
@[simp] theorem State.latchAll_mailboxes (l : List Slot) : (s.latchAll l).mailboxes = s.mailboxes := by
  unfold State.latchAll
  induction l generalizing s with
  | nil => rfl
  | cons x rest ih => rw [List.foldl_cons, ih]; simp
@[simp] theorem State.latchAll_free (l : List Slot) : (s.latchAll l).free = s.free := by
  unfold State.latchAll
  induction l generalizing s with
  | nil => rfl
  | cons x rest ih => rw [List.foldl_cons, ih]; simp
@[simp] theorem State.latchAll_pending (l : List Slot) : (s.latchAll l).pending = s.pending := by
  unfold State.latchAll
  induction l generalizing s with
  | nil => rfl
  | cons x rest ih => rw [List.foldl_cons, ih]; simp

/-! ### enterFaulted -/

@[simp] theorem State.enterFaulted_ctl (p : Port) (c : Option Condition) : (s.enterFaulted p c).ctl = s.ctl := by unfold State.enterFaulted; simp
@[simp] theorem State.enterFaulted_slots (p : Port) (c : Option Condition) : (s.enterFaulted p c).slots = s.slots := by unfold State.enterFaulted; simp
@[simp] theorem State.enterFaulted_queues (p : Port) (c : Option Condition) : (s.enterFaulted p c).queues = s.queues := by unfold State.enterFaulted; simp
@[simp] theorem State.enterFaulted_deadlines (p : Port) (c : Option Condition) : (s.enterFaulted p c).deadlines = s.deadlines := by unfold State.enterFaulted; simp
@[simp] theorem State.enterFaulted_stats (p : Port) (c : Option Condition) : (s.enterFaulted p c).stats = s.stats := by unfold State.enterFaulted; simp
@[simp] theorem State.enterFaulted_stations (p : Port) (c : Option Condition) : (s.enterFaulted p c).stations = s.stations := by unfold State.enterFaulted; simp
@[simp] theorem State.enterFaulted_marks (p : Port) (c : Option Condition) : (s.enterFaulted p c).marks = s.marks := by unfold State.enterFaulted; simp
@[simp] theorem State.enterFaulted_spare (p : Port) (c : Option Condition) : (s.enterFaulted p c).spare = s.spare := by unfold State.enterFaulted; simp
@[simp] theorem State.enterFaulted_free (p : Port) (c : Option Condition) : (s.enterFaulted p c).free = s.free := by unfold State.enterFaulted; simp
@[simp] theorem State.enterFaulted_pending (p : Port) (c : Option Condition) : (s.enterFaulted p c).pending = s.pending := by unfold State.enterFaulted; simp

end Sys2Proof.Machine
end

