-- ==== Sys2Proof/Laws/Settled.lean ====
section
/-! SUPPORT. What every event keeps of the clock, the host's enables and the notices, and the one message that it sends
(R5 to R7, R48). -/

namespace Sys2Proof.Machine

/-- What an event keeps of the registers before the message it may send: the queue, the clock, MASK, the input messages
enabled, the count of messages, the notices already set, and the invariant of the data. -/
structure Moves (s t : State) : Prop where
  pending : t.pending = s.pending
  clock : t.ctl.clock = s.ctl.clock
  mask : t.ctl.mask = s.ctl.mask
  enabled : t.ctl.messagesEnabled = s.ctl.messagesEnabled
  sent : t.ctl.messagesSent = s.ctl.messagesSent
  notice : s.notice ||| t.notice = t.notice
  stationNotice : s.stationNotice ||| t.stationNotice = t.stationNotice
  data : s.wellFormed → t.wellFormed

theorem Kept.moves {s t : State} (h : Kept s t) : Moves s t :=
  ⟨h.pending, by rw [h.ctl], by rw [h.ctl], by rw [h.ctl], by rw [h.ctl], h.notice, h.stationNotice, h.data⟩

theorem Moves.refl (s : State) : Moves s s := (Kept.refl s).moves

theorem Moves.trans {s t u : State} (h : Moves s t) (k : Moves t u) : Moves s u where
  pending := k.pending.trans h.pending
  clock := k.clock.trans h.clock
  mask := k.mask.trans h.mask
  enabled := k.enabled.trans h.enabled
  sent := k.sent.trans h.sent
  notice := by rw [← k.notice, ← BitVec.or_assoc, h.notice]
  stationNotice := by rw [← k.stationNotice, ← BitVec.or_assoc, h.stationNotice]
  data := k.data ∘ h.data

theorem State.setControl_moves (s : State) (f : Control → Control) (h1 : (f s.ctl).clock = s.ctl.clock)
    (h2 : (f s.ctl).mask = s.ctl.mask) (h3 : (f s.ctl).messagesEnabled = s.ctl.messagesEnabled)
    (h4 : (f s.ctl).messagesSent = s.ctl.messagesSent)
    (h5 : ∀ st : Station, (f s.ctl).samples[st.val].groupCeiling ≤ 255 ∨ (f s.ctl).samples[st.val] = s.ctl.samples[st.val]) :
    Moves s (s.setControl f) where
  pending := rfl
  clock := h1
  mask := h2
  enabled := h3
  sent := h4
  notice := BitVec.or_self
  stationNotice := BitVec.or_self
  data := fun w => ⟨w.1, { w.2 with
    ceiling := fun st => by
      rcases h5 st with h | h
      · exact h
      · have := w.ceiling st
        unfold State.sample at this ⊢
        rw [State.setControl_ctl, h]; exact this }⟩

theorem State.enterStopped_moves (s : State) : Moves s s.enterStopped where
  pending := s.enterStopped_pending
  clock := by rw [s.enterStopped_ctl]; rfl
  mask := by rw [s.enterStopped_ctl]; rfl
  enabled := by rw [s.enterStopped_ctl]; rfl
  sent := by rw [s.enterStopped_ctl]; rfl
  notice := by rw [s.enterStopped_notice, ← BitVec.or_assoc, BitVec.or_self]
  stationNotice := by rw [s.enterStopped_stationNotice, BitVec.or_self]
  data := State.enterStopped_wellFormed

theorem drainEnd_moves (s t : State) : Moves t (drainEnd s t) := by
  rcases drainEnd_cases s t with h | ⟨-, -, -, h⟩ <;> rw [h]
  · exact Moves.refl t
  · exact t.enterStopped_moves

/-- The request stays where the notices stay set and MASK is the same. -/
theorem request_mono {s t : State} (hn : s.notice ||| t.notice = t.notice)
    (hs : s.stationNotice ||| t.stationNotice = t.stationNotice) (hm : t.ctl.mask = s.ctl.mask) (h : s.request = true) :
    t.request = true := by
  unfold State.request State.noticeWord at *
  rw [decide_eq_true_eq] at *
  intro k
  apply h
  have hz : t.stationNotice = 0 → s.stationNotice = 0 := by
    intro e; rw [e] at hs; exact (BitVec.or_eq_zero_iff.mp hs).1
  rw [hm, ← hn] at k
  by_cases e : s.stationNotice = 0
  · rw [if_pos e]
    generalize (if t.stationNotice = 0 then (0 : BitVec 8) else 1) = x at k
    rw [BitVec.or_assoc, BitVec.and_comm, BitVec.and_or_distrib_left] at k
    have := (BitVec.or_eq_zero_iff.mp k).1
    show (s.notice ||| 0#8) &&& _ = 0#8
    rw [BitVec.or_zero, BitVec.and_comm]; exact this
  · rw [if_neg e]
    have e' : t.stationNotice ≠ 0 := fun z => e (hz z)
    rw [if_neg e', BitVec.or_assoc, BitVec.or_comm t.notice, ← BitVec.or_assoc, BitVec.and_comm, BitVec.and_or_distrib_left] at k
    rw [BitVec.and_comm]; exact (BitVec.or_eq_zero_iff.mp k).1

/-- A whole event: what the part keeps, with the one message where the request rises. -/
structure Settled (s t : State) : Prop where
  pending : t.pending = s.pending
  clock : t.ctl.clock = s.ctl.clock
  mask : t.ctl.mask = s.ctl.mask
  enabled : t.ctl.messagesEnabled = s.ctl.messagesEnabled
  sent : t.ctl.messagesSent = s.ctl.messagesSent + messageDue s t
  notice : s.notice ||| t.notice = t.notice
  stationNotice : s.stationNotice ||| t.stationNotice = t.stationNotice
  data : s.wellFormed → t.wellFormed

theorem request_settle (s t : State) : (settleInterrupt s t).request = t.request := by
  rw [settleInterrupt_eq]; rfl

theorem settle_settled {s u : State} (h : Moves s u) : Settled s (settleInterrupt s u) where
  pending := by rw [settleInterrupt_eq]; exact h.pending
  clock := by rw [settleInterrupt_eq]; exact h.clock
  mask := by rw [settleInterrupt_eq]; exact h.mask
  enabled := by rw [settleInterrupt_eq]; exact h.enabled
  sent := by rw [settleInterrupt_eq]; simp only; rw [h.sent]; rfl
  notice := by rw [settleInterrupt_eq]; exact h.notice
  stationNotice := by rw [settleInterrupt_eq]; exact h.stationNotice
  data := fun w => by rw [settleInterrupt_eq]; exact State.messages_wellFormed (h.data w) _

theorem close_settled {s u : State} (h : Moves s u) : Settled s (closeEvent s u) :=
  settle_settled (h.trans (drainEnd_moves s u))

theorem Moves.settled {s u : State} (h : Moves s u) (hr : u.request = s.request) : Settled s u :=
  ⟨h.pending, h.clock, h.mask, h.enabled, by rw [h.sent, messageDue_self s u hr]; rfl, h.notice, h.stationNotice, h.data⟩

theorem Settled.refl (s : State) : Settled s s := (Moves.refl s).settled rfl

theorem Settled.trans {s t u : State} (h : Settled s t) (k : Settled t u) : Settled s u where
  pending := k.pending.trans h.pending
  clock := k.clock.trans h.clock
  mask := k.mask.trans h.mask
  enabled := k.enabled.trans h.enabled
  sent := by
    rw [k.sent, h.sent, Nat.add_assoc]; congr 1
    unfold messageDue
    have h1 := request_mono h.notice h.stationNotice h.mask
    have h2 := request_mono k.notice k.stationNotice k.mask
    rw [k.enabled]
    cases hs : s.request <;> cases ht : t.request <;> cases hu : u.request <;> cases t.ctl.messagesEnabled <;> simp_all
  notice := by rw [← k.notice, ← BitVec.or_assoc, h.notice]
  stationNotice := by rw [← k.stationNotice, ← BitVec.or_assoc, h.stationNotice]
  data := k.data ∘ h.data

theorem Settled.foldl {α : Type} {f : State → α → State} (h : ∀ s a, Settled s (f s a)) (l : List α) (s : State) :
    Settled s (l.foldl f s) := by
  induction l generalizing s with
  | nil => exact .refl s
  | cons a rest ih => exact (h s a).trans (ih _)

/-! ### Events that are not Kept -/

variable (s : State)

theorem readSample_ceiling (m : Memory) (st : Station) : (readSample m st).groupCeiling ≤ 255 := by
  unfold readSample field
  exact Nat.le_of_lt_succ (BitVec.isLt _)

theorem State.makeVisit_moves (st : Station) : Moves s (s.makeVisit st) := by
  unfold State.makeVisit
  refine Moves.trans ?_ (Kept.foldl State.examine_kept _ _).moves
  refine Moves.trans ?_ (State.changeStation_kept _ _ _ _).moves
  refine s.setControl_moves _ rfl rfl rfl rfl fun x => ?_
  unfold beginVisit
  dsimp only
  by_cases e : st.val = x.val
  · left; simp only [e, Vector.getElem_set_self]; exact readSample_ceiling _ _
  · right; simp [e]

theorem State.setControl_same_samples (f : Control → Control) (h : ∀ c, (f c).clock = c.clock ∧ (f c).mask = c.mask ∧
    (f c).messagesEnabled = c.messagesEnabled ∧ (f c).messagesSent = c.messagesSent ∧ (f c).samples = c.samples) :
    Moves s (s.setControl f) :=
  have ⟨clock, mask, enabled, sent, samples⟩ := h s.ctl
  s.setControl_moves f clock mask enabled sent fun _ => .inr (by rw [samples])

theorem State.closeSweep_moves (w : Sweep) : Moves s (s.closeSweep w) := by
  unfold State.closeSweep
  refine (((s.sampleAllZones_kept).trans (State.spliceRefill_kept _)).trans (State.reviewAll_kept _)).moves.trans ?_
  refine State.setControl_same_samples _ _ fun c => ?_
  unfold endSweep; split <;> exact ⟨rfl, rfl, rfl, rfl, rfl⟩

theorem startSweep_same (c : Control) : (startSweepIfDue c).clock = c.clock ∧ (startSweepIfDue c).mask = c.mask ∧
    (startSweepIfDue c).messagesEnabled = c.messagesEnabled ∧ (startSweepIfDue c).messagesSent = c.messagesSent ∧
    (startSweepIfDue c).samples = c.samples := by
  unfold startSweepIfDue beginSweep
  split <;> [split; skip] <;> exact ⟨rfl, rfl, rfl, rfl, rfl⟩

theorem expireSweep_same (c : Control) : (expireSweepTimer c).clock = c.clock ∧ (expireSweepTimer c).mask = c.mask ∧
    (expireSweepTimer c).messagesEnabled = c.messagesEnabled ∧ (expireSweepTimer c).messagesSent = c.messagesSent ∧
    (expireSweepTimer c).samples = c.samples := by
  unfold expireSweepTimer
  split
  · exact ⟨rfl, rfl, rfl, rfl, rfl⟩
  · exact startSweep_same _

theorem State.sweepTimerEvent_moves : Moves s s.sweepTimerEvent := by
  unfold State.sweepTimerEvent
  split
  · exact s.setControl_same_samples _ expireSweep_same
  · exact Moves.refl s

theorem State.decayEvent_moves : Moves s s.decayEvent := by
  unfold State.decayEvent
  split
  · refine Moves.trans ?_ (State.decayStep_kept _).moves
    exact s.setControl_same_samples _ fun c => ⟨rfl, rfl, rfl, rfl, rfl⟩
  · exact Moves.refl s

theorem State.ownEvent_settled {f : State → State} (h : Moves s (f s)) : Settled s (State.ownEvent f s) := close_settled h

theorem State.portExpiries_settled (p : Port) : Settled s (s.portExpiries p) := by
  unfold State.portExpiries
  simp only [List.foldl_cons, List.foldl_nil]
  exact ((((State.ownEvent_settled _ (State.responseEvent_kept _ p).moves).trans
    (State.ownEvent_settled _ (State.probeEvent_kept _ p).moves)).trans
    (State.ownEvent_settled _ (State.sheetEvent_kept _ p).moves)).trans
    (State.ownEvent_settled _ (State.starveEvent_kept _ p).moves)).trans
    (State.ownEvent_settled _ (State.holdEvent_kept _ p).moves)

theorem State.deadlineExpiries_settled (n : Nat) : Settled s (State.deadlineExpiries n s) := by
  induction n generalizing s with
  | zero => exact .refl s
  | succ n ih =>
    unfold State.deadlineExpiries
    split
    · exact (State.ownEvent_settled _ s.deadlineEvent_kept.moves).trans (ih _)
    · exact .refl s

theorem State.takeExpiries_settled : Settled s s.takeExpiries := by
  unfold State.takeExpiries
  exact (((s.deadlineExpiries_settled _).trans (State.ownEvent_settled _ (State.sweepTimerEvent_moves _))).trans
    (State.ownEvent_settled _ (State.decayEvent_moves _))).trans (Settled.foldl State.portExpiries_settled _ _)

theorem State.completeWipe_moves : Moves s s.completeWipe where
  pending := rfl
  clock := rfl
  mask := rfl
  enabled := rfl
  sent := rfl
  notice := by unfold State.completeWipe; rw [State.setNotice_notice, ← BitVec.or_assoc]; exact congrArg (· ||| _) BitVec.or_self
  stationNotice := BitVec.or_self
  data := fun w => (State.setControl_wellFormed (s := { s with mem := [] }) (w.congr rfl rfl rfl rfl rfl rfl)
    (fun c => { c with engine := .stopped }) rfl).congr rfl rfl rfl rfl rfl rfl

/-- Cleared slots have cleared records. -/
theorem State.job_inRange_clear {s : State} (h : ∀ g : Slot, s.slots[g.val].job = {}) (g : Slot) : (s.job g).inRange := by
  have : s.job g = {} := h g
  exact this ▸ JobRecord.inRange_clear

theorem State.rebuildClear_moves : Moves s s.rebuildClear := by
  unfold State.rebuildClear
  dsimp only
  refine Moves.trans
    (t := { s with marks := Vector.replicate 896 .outside, slots := s.slots.map clearShadow, deadlines := [] }) ?_ (Kept.moves ?_)
  · exact ⟨rfl, rfl, rfl, rfl, rfl, BitVec.or_self, BitVec.or_self, fun w => ⟨w.1,
      { w.2 with job := State.job_inRange_clear fun g => by simp [clearShadow] }⟩⟩
  · refine Kept.trans ?_ (Kept.foldl (fun s p => (State.clearLineCounters_kept s p).trans
      (State.clearDiscards_kept _ p)) _ _)
    refine Kept.trans ?_ (Kept.foldl (fun s q => (State.setQueue_kept s q _).trans (State.clearStats_kept _ q)) _ _)
    refine Kept.trans ?_ (Kept.foldl State.clearCounters_kept _ _)
    exact (State.setSpare_kept _ _).trans (State.mirrorSpare_kept _)

theorem State.rebuildSlots_kept (slots : List Slot) : Kept s (s.rebuildSlots slots) := Kept.foldl State.rebuildSlot_kept _ _

/-- The rebuild may be taken in two parts. -/
theorem State.rebuild_split (n : Nat) :
    (s.rebuildClear.rebuildSlots (allSlots.take n)).rebuildSlots (allSlots.drop n) = s.rebuild := by
  unfold State.rebuildSlots State.rebuild
  rw [← List.foldl_append, List.take_append_drop]; rfl

theorem State.validateStart_moves : Moves s s.validateStart := by
  unfold State.validateStart
  split
  · unfold State.failStart
    refine Moves.trans ?_ (State.setNotice_kept _ _).moves
    exact s.setControl_same_samples _ fun c => ⟨rfl, rfl, rfl, rfl, rfl⟩
  · refine Moves.trans ?_ (State.drawFree_kept _).moves
    refine Moves.trans (s.rebuildClear_moves.trans (State.rebuildSlots_kept _ (allSlots.take s.rebuildReach)).moves) ?_
    exact State.setControl_same_samples _ _ fun c => ⟨rfl, rfl, rfl, rfl, rfl⟩

theorem State.openPort_kept (p : Port) : Kept s (s.openPort p) := by
  unfold State.openPort
  have h : Kept s (s.updatePort p (probingPort (s.portConfig p).cls)) := by
    refine s.updatePort_kept p _ fun w => ?_
    have k := w.port p
    unfold probingPort; split <;> exact { k with capability := Nat.zero_le _ }
  exact Kept.ite h (h.trans (State.offerAsk_kept _ _))

theorem State.openStation_kept (st : Station) : Kept s (s.openStation st) :=
  Kept.foldl (fun s r => State.openMailbox_kept s st r) _ _

theorem State.completeStart_moves : Moves s s.completeStart := by
  unfold State.completeStart
  dsimp only
  refine Moves.trans ?_ (State.setNotice_kept _ _).moves
  refine Moves.trans ?_ (Kept.foldl (fun s p => (State.clearContacts_kept s p).trans (State.openPort_kept _ p)) _ _).moves
  refine Moves.trans ?_ (Kept.foldl State.openStation_kept _ _).moves
  refine Moves.trans ?_ (State.sampleAllZones_kept _).moves
  refine s.setControl_moves _ rfl rfl rfl rfl fun st => .inl ?_
  simp only [Vector.getElem_ofFn]; exact readSample_ceiling _ _

theorem State.drain_moves : Moves s s.drain := by
  unfold State.drain
  dsimp only
  have h : Moves s (allPorts.foldl State.stopService (allSlots.foldl State.stopQueued
      (s.setControl fun c => { recordCommand .stop .accepted .none c with engine := .draining })).stopTouch) := by
    refine Moves.trans ?_ (Kept.foldl State.stopService_kept _ _).moves
    refine Moves.trans ?_ (State.stopTouch_kept _).moves
    refine Moves.trans ?_ (Kept.foldl State.stopQueued_kept _ _).moves
    exact s.setControl_same_samples _ fun c => ⟨rfl, rfl, rfl, rfl, rfl⟩
  split
  · exact h
  · exact h.trans (State.enterStopped_moves _)

theorem State.acceptWipe_moves : Moves s s.acceptWipe := by
  unfold State.acceptWipe
  exact ⟨rfl, rfl, rfl, rfl, rfl, BitVec.or_self, BitVec.or_self, fun w => ⟨w.1,
    { w.2 with job := State.job_inRange_clear fun g => by simp }⟩⟩

theorem State.control_moves {k : Command} (h : k ≠ .reset) : Moves s (s.control k) := by
  unfold State.control
  split
  · exact s.setControl_same_samples _ fun c => ⟨rfl, rfl, rfl, rfl, rfl⟩
  · cases k with
    | none => exact Moves.refl s
    | start => exact s.setControl_same_samples _ fun c => ⟨rfl, rfl, rfl, rfl, rfl⟩
    | stop =>
      show Moves s s.acceptStop
      unfold State.acceptStop
      split
      · exact s.setControl_same_samples _ fun c => ⟨rfl, rfl, rfl, rfl, rfl⟩
      · exact s.drain_moves
    | wipe => exact s.acceptWipe_moves
    | reset => exact absurd rfl h

end Sys2Proof.Machine
end

