-- ==== Sys2Proof/Laws/Writes.lean ====
section
/-! SUPPORT. Which bytes of exchange memory each operation writes (R9, R193 to R200). -/

namespace Sys2Proof.Machine

/-- From one memory to another nothing changes outside a set of addresses. -/
structure Writes (bytes : Nat → Prop) (m n : Memory) : Prop where
  wf : Memory.wf m = true → Memory.wf n = true
  kept : Memory.wf m = true → ∀ a, ¬ bytes a → readByte n a = readByte m a

variable {B C : Nat → Prop} {m n k : Memory}

theorem Writes.refl (B : Nat → Prop) (m : Memory) : Writes B m m := ⟨id, fun _ _ _ => rfl⟩

theorem Writes.of_eq (h : n = m) : Writes B m n := h ▸ Writes.refl B m

theorem Writes.mono (h : Writes B m n) (hs : ∀ a, B a → C a) : Writes C m n :=
  ⟨h.wf, fun w a ha => h.kept w a fun k => ha (hs a k)⟩

theorem Writes.trans (h : Writes B m n) (g : Writes B n k) : Writes B m k :=
  ⟨fun w => g.wf (h.wf w), fun w a ha => (g.kept (h.wf w) a ha).trans (h.kept w a ha)⟩

/-- One change after another writes what either writes. -/
theorem Writes.andThen (h : Writes B m n) (g : Writes C n k) : Writes (fun a => B a ∨ C a) m k :=
  (h.mono fun _ => .inl).trans (g.mono fun _ => .inr)

theorem Writes.foldl {α : Type} {f : State → α → State} (h : ∀ s a, Writes B s.mem (f s a).mem) (l : List α) (s : State) :
    Writes B s.mem (l.foldl f s).mem := by
  induction l generalizing s with
  | nil => exact .refl _ _
  | cons a rest ih => exact (h s a).trans (ih _)

/-- A word none of whose bytes is written reads as before. -/
theorem Writes.word (h : Writes B m n) (w : Memory.wf m = true) {a : Nat} (ha : ∀ b, within a 4 b → ¬ B b) :
    readWord n a = readWord m a := by
  unfold readWord
  rw [h.kept w a (ha a ⟨by omega, by omega⟩), h.kept w (a + 1) (ha _ ⟨by omega, by omega⟩),
    h.kept w (a + 2) (ha _ ⟨by omega, by omega⟩), h.kept w (a + 3) (ha _ ⟨by omega, by omega⟩)]

theorem bytes_of_word (b3 b2 b1 b0 : Byte) :
    (b3 ++ b2 ++ b1 ++ b0).extractLsb' 0 8 = b0 ∧ (b3 ++ b2 ++ b1 ++ b0).extractLsb' 8 8 = b1 ∧
    (b3 ++ b2 ++ b1 ++ b0).extractLsb' 16 8 = b2 ∧ (b3 ++ b2 ++ b1 ++ b0).extractLsb' 24 8 = b3 := by
  refine ⟨?_, ?_, ?_, ?_⟩ <;>
    (ext i hi
     rw [BitVec.getElem_extractLsb', BitVec.getLsbD_append, BitVec.getLsbD_append, BitVec.getLsbD_append])
  · rw [if_pos (by omega), BitVec.getLsbD_eq_getElem (by omega)]; congr 1; omega
  · rw [if_neg (by omega), if_pos (by omega), BitVec.getLsbD_eq_getElem (by omega)]; congr 1; omega
  · rw [if_neg (by omega), if_neg (by omega), if_pos (by omega), BitVec.getLsbD_eq_getElem (by omega)]; congr 1; omega
  · rw [if_neg (by omega), if_neg (by omega), if_neg (by omega), BitVec.getLsbD_eq_getElem (by omega)]; congr 1; omega

/-- The bytes of a word. -/
theorem readByte_eq_extract (m : Memory) (a : Nat) {i : Nat} (hi : i < 4) :
    readByte m (a + i) = (readWord m a).extractLsb' (8 * i) 8 := by
  obtain ⟨h0, h1, h2, h3⟩ := bytes_of_word (readByte m (a + 3)) (readByte m (a + 2)) (readByte m (a + 1)) (readByte m a)
  unfold readWord
  match i, hi with
  | 0, _ => exact h0.symm
  | 1, _ => exact h1.symm
  | 2, _ => exact h2.symm
  | 3, _ => exact h3.symm

/-! ### The named operations -/

section
variable (s : State)

theorem writeWord_writes (m : Memory) (a : Nat) (w : Word) : Writes (within a 4) m (writeWord m a w) :=
  ⟨fun h => Memory.wf_writeWord h a w, fun h _ hx => readByte_writeWord_ne h (by unfold within at hx; omega) w⟩

theorem writeByte_writes (m : Memory) (a : Nat) (b : Byte) : Writes (fun x => x = a) m (writeByte m a b) :=
  ⟨fun h => Memory.wf_writeByte h a b, fun h _ hx => readByte_writeByte_ne h hx b⟩

/-- A merge of a whole byte range writes that range only (R194). -/
theorem writeMerge_writes (m : Memory) {a v low n : Nat} (ha : a + 3 < Config.exchangeBytes) (hl : low % 8 = 0)
    (hn : n % 8 = 0) :
    Writes (within (a + low / 8) (n / 8)) m (writeWord m a (merge (readWord m a) v low n)) := by
  refine ⟨fun h => Memory.wf_writeWord h _ _, fun h x hx => ?_⟩
  by_cases ho : x < a ∨ a + 4 ≤ x
  · exact readByte_writeWord_ne h ho _
  · obtain ⟨i, rfl⟩ : ∃ i, x = a + i := ⟨x - a, by omega⟩
    have hi : i < 4 := by omega
    rw [readByte_eq_extract _ _ hi, readByte_eq_extract _ _ hi, readWord_writeWord h ha, extract_merge_apart]
    unfold within at hx
    omega

theorem State.putWord_writes (a : Nat) (w : Word) : Writes (within a 4) s.mem (s.putWord a w).mem := writeWord_writes _ _ _

theorem rewriteWord_writes (m : Memory) (a : Nat) (old new : Word) : Writes (within a 4) m (rewriteWord m a old new) := by
  unfold rewriteWord
  split
  · exact .refl _ _
  · exact writeWord_writes _ _ _

theorem State.remirror_writes (a : Nat) (old new : Word) : Writes (within a 4) s.mem (s.remirror a old new).mem :=
  rewriteWord_writes _ _ _ _

/-- The words of a list are written at their offsets. -/
theorem writeWords_writes (m : Memory) (a : Nat) (words : List (Nat × Word)) :
    Writes (fun x => ∃ w ∈ words, within (a + w.1) 4 x) m (writeWords m a words) := by
  unfold writeWords
  induction words generalizing m with
  | nil => exact .refl _ _
  | cons w rest ih =>
    exact ((writeWord_writes m _ _).mono fun _ h => ⟨w, List.mem_cons_self, h⟩).trans
      ((ih _).mono fun _ ⟨v, hv, h⟩ => ⟨v, List.mem_cons_of_mem _ hv, h⟩)

/-- The words of a list are rewritten at their offsets. -/
theorem rewriteWords_writes (m : Memory) (a : Nat) (old new : List (Nat × Word)) :
    Writes (fun x => ∃ w ∈ new, within (a + w.1) 4 x) m (rewriteWords m a old new) := by
  unfold rewriteWords
  induction new generalizing m old with
  | nil => rw [List.zip_nil_right]; exact .refl _ _
  | cons w rest ih =>
    cases old with
    | nil => exact .refl _ _
    | cons o more =>
      exact ((rewriteWord_writes m _ _ _).mono fun _ h => ⟨w, List.mem_cons_self, h⟩).trans
        ((ih _ more).mono fun _ ⟨v, hv, h⟩ => ⟨v, List.mem_cons_of_mem _ hv, h⟩)

theorem State.putByte_writes (a : Nat) (b : Byte) : Writes (fun x => x = a) s.mem (s.putByte a b).mem :=
  writeByte_writes _ _ _

/-- Membership of an address in a named range, by arithmetic. -/
theorem within_mono {a n b k x : Nat} (h : within a n x) (h1 : b ≤ a) (h2 : a + n ≤ b + k) : within b k x := by
  unfold within at *; omega

theorem State.updateCounters_writes (st : Station) (k : CounterPair) (f : StationCounters → StationCounters) :
    Writes (stationMirrors st) s.mem (s.updateCounters st k f).mem :=
  (State.putWord_writes (s.setCounters st _) _ _).mono fun _ h =>
    within_mono h (by cases k <;> simp [CounterPair.offset]) (by cases k <;> simp [CounterPair.offset])

theorem State.clearCounters_writes (st : Station) : Writes (stationMirrors st) s.mem (s.clearCounters st).mem :=
  ((State.putWord_writes (s.setCounters st _) _ _).mono fun _ h => within_mono h (by omega) (by omega)).trans
    ((State.putWord_writes _ _ _).mono fun _ h => within_mono h (by omega) (by omega))

theorem State.handSlot_writes (g : Slot) (x : SlotState) : Writes (within (slotAddress g) 4) s.mem (s.handSlot g x).mem :=
  State.putWord_writes _ _ _

theorem State.setQueue_writes (q : Pool) (l : List Slot) :
    Writes (fun a => a = poolAddress q + 3) s.mem (s.setQueue q l).mem :=
  (writeMerge_writes s.mem (a := poolAddress q) (low := 24) (n := 8)
    (by have := q.isLt; unfold poolAddress Config.exchangeBytes; omega) rfl rfl).mono fun a h => by
      unfold within at h; omega

theorem State.setQueue_mirrors (q : Pool) (l : List Slot) : Writes (poolMirrors q) s.mem (s.setQueue q l).mem :=
  (s.setQueue_writes q l).mono fun a h => by unfold poolMirrors within; omega

/-- The words of a pool's statistics lie in its mirrors. -/
theorem statWords_mirrors (x : PoolStats) {q : Pool} {w : Nat × Word} (hw : w ∈ statWords x) {a : Nat}
    (h : within (poolAddress q + w.1) 4 a) : poolMirrors q a := by
  have : 4 ≤ w.1 ∧ w.1 ≤ 28 := by
    simp only [statWords, List.mem_cons, List.not_mem_nil, or_false] at hw
    rcases hw with rfl | rfl | rfl | rfl | rfl | rfl | rfl <;> simp
  exact within_mono h (by omega) (by omega)

theorem State.updateStats_writes (q : Pool) (f : PoolStats → PoolStats) :
    Writes (poolMirrors q) s.mem (s.updateStats q f).mem :=
  (rewriteWords_writes s.mem (poolAddress q) _ _).mono fun _ ⟨_, hw, h⟩ => statWords_mirrors _ hw h

theorem State.clearStats_writes (q : Pool) : Writes (poolMirrors q) s.mem (s.clearStats q).mem :=
  (writeWords_writes s.mem (poolAddress q) _).mono fun _ ⟨_, hw, h⟩ => statWords_mirrors _ hw h

theorem State.updatePort_writes (p : Port) (f : PortRecord → PortRecord) :
    Writes (portMirror p) s.mem (s.updatePort p f).mem := State.putWord_writes (s.modifyPort p f) _ _

theorem State.notePort_writes (p : Port) (f : PortRecord → PortRecord) :
    Writes (portMirror p) s.mem (s.notePort p f).mem := State.remirror_writes (s.modifyPort p f) _ _ _

/-- The words of a port's line counters lie in its mirrors. -/
theorem lineWords_mirrors (c : LineCounters) {p : Port} {w : Nat × Word} (hw : w ∈ lineWords c) {a : Nat}
    (h : within (portAddress p + w.1) 4 a) : lineMirrors p a := by
  have : 12 ≤ w.1 ∧ w.1 ≤ 24 := by
    simp only [lineWords, List.mem_cons, List.not_mem_nil, or_false] at hw
    rcases hw with rfl | rfl | rfl | rfl <;> simp
  exact within_mono h (by omega) (by omega)

theorem State.updateLineCounters_writes (p : Port) (f : LineCounters → LineCounters) :
    Writes (lineMirrors p) s.mem (s.updateLineCounters p f).mem :=
  (rewriteWords_writes s.mem (portAddress p) _ _).mono fun _ ⟨_, hw, h⟩ => lineWords_mirrors _ hw h

theorem State.clearLineCounters_writes (p : Port) : Writes (lineMirrors p) s.mem (s.clearLineCounters p).mem :=
  (writeWords_writes s.mem (portAddress p) _).mono fun _ ⟨_, hw, h⟩ => lineWords_mirrors _ hw h

/-- The words of a panel's discard counters lie in its mirrors. -/
theorem discardWords_mirrors (d : Discards) {p : Port} {w : Nat × Word} (hw : w ∈ discardWords d) {a : Nat}
    (h : within (discardAddress p + w.1) 4 a) : within (0x40 + p.val * 8) 8 a := by
  have : w.1 ≤ 4 := by
    simp only [discardWords, List.mem_cons, List.not_mem_nil, or_false] at hw
    rcases hw with rfl | rfl <;> simp
  unfold discardAddress at h
  exact within_mono h (by omega) (by omega)

theorem State.updateDiscards_writes (p : Port) (f : Discards → Discards) :
    Writes (within (0x40 + p.val * 8) 8) s.mem (s.updateDiscards p f).mem :=
  (rewriteWords_writes s.mem (discardAddress p) _ _).mono fun _ ⟨_, hw, h⟩ => discardWords_mirrors _ hw h

theorem State.clearDiscards_writes (p : Port) : Writes (within (0x40 + p.val * 8) 8) s.mem (s.clearDiscards p).mem :=
  (writeWords_writes s.mem (discardAddress p) _).mono fun _ ⟨_, hw, h⟩ => discardWords_mirrors _ hw h

theorem State.mirrorSpare_writes : Writes (within 0x10 8) s.mem s.mirrorSpare.mem :=
  ((State.putWord_writes _ _ _).mono fun _ h => within_mono h (by omega) (by omega)).trans
    ((State.putWord_writes _ _ _).mono fun _ h => within_mono h (by omega) (by omega))

theorem State.writeMailWords_writes (st : Station) (r : Fin 4) (seq : Half) (events position : Word) :
    Writes (mailboxBytes st) s.mem (s.writeMailWords st r seq events position).mem :=
  ((((State.putWord_writes _ _ _).mono fun _ h => ⟨r, .inl h⟩).trans
    ((State.putWord_writes _ _ _).mono fun _ h => ⟨r, .inr (within_mono h (by omega) (by omega))⟩)).trans
    ((State.putWord_writes _ _ _).mono fun _ h => ⟨r, .inr (within_mono h (by omega) (by omega))⟩)).trans
    ((State.putWord_writes _ _ _).mono fun _ h => ⟨r, .inl h⟩)

theorem State.mailboxWrite_writes (st : Station) (r : Fin 4) (newlyTaken : Bool) (m : MailReport) :
    Writes (mailboxBytes st) s.mem (s.mailboxWrite st r newlyTaken m).mem := by
  unfold State.mailboxWrite
  dsimp only
  split
  · rw [State.setStationNotice_mem, State.setMailbox_mem]; exact s.writeMailWords_writes st r _ _ _
  · rw [State.setMailbox_mem]; exact s.writeMailWords_writes st r _ _ _

theorem State.clearMailbox_writes (st : Station) (r : Fin 4) : Writes (mailboxBytes st) s.mem (s.clearMailbox st r).mem := by
  unfold State.clearMailbox
  rw [State.setMailbox_mem]
  exact s.writeMailWords_writes st r _ _ _

theorem State.openMailbox_writes (st : Station) (r : Fin 4) : Writes (mailboxBytes st) s.mem (s.openMailbox st r).mem :=
  State.clearMailbox_writes (s.setMailbox st r _) st r

theorem State.writeResults_writes (g : Slot) (word firstGrant portWord : Word) (cls : Option JobClass) (r : ClassResults) :
    Writes (finishBytes g) s.mem (s.writeResults g word firstGrant portWord cls r).mem := by
  have h : ∀ (t : State) (d : Nat) (w : Word), d = 0x18 ∨ 0x20 ≤ d ∧ d ≤ 0x30 →
      Writes (finishBytes g) t.mem (t.putWord (slotAddress g + d) w).mem :=
    fun t d w hd => (t.putWord_writes _ w).mono fun a k => by
      unfold finishBytes within at *; omega
  have common := ((h s 0x18 word (by omega)).trans (h _ 0x20 firstGrant (by omega))).trans (h _ 0x24 portWord (by omega))
  unfold State.writeResults
  match cls with
  | none => exact common
  | some .print => exact common.trans (h _ 0x28 _ (by omega))
  | some .hold => exact common.trans (h _ 0x28 _ (by omega))
  | some .scan => exact ((common.trans (h _ 0x28 _ (by omega))).trans (h _ 0x2C _ (by omega))).trans (h _ 0x30 _ (by omega))

theorem State.closeFinish_writes (g : Slot) (o : JobOutcome) (d : Detail) :
    Writes (fun a => within (slotAddress g) 4 a ∨ stationMirrors (stationOf g) a) s.mem (s.closeFinish g o d).mem := by
  unfold State.closeFinish
  rw [State.setStationNotice_mem]
  exact ((s.setCodes g o d).handSlot_writes g .finished).andThen (State.updateCounters_writes _ _ _ _)

end

end Sys2Proof.Machine
end

