-- ==== Sys2Proof/Tests/Slice0.lean ====
section
/-! SUPPORT. Tests of single steps on small states, the ill-formed commands that WellFormed refuses, and for each
statement with hypotheses a state and operands that meet them. Expected values come from the manual: from the rule that
a test names, or from the worked example of the section it names. -/

set_option Elab.async false

namespace Sys2Proof.Tests

open Sys2Proof Sys2Proof.Machine

/-! ### States for the tests -/

/-- What a command leaves, seen through `f`; none where the command stops. -/
def after {α : Type} (c : Instr) (s : State) (f : State → α) : Option α :=
  match exec c s with
  | .next t => some (f t)
  | .fault _ | .refused _ => none

theorem after_eq {α : Type} {c : Instr} {s : State} {f : State → α} {v : α} (h : after c s f = some v) :
    ∃ t, exec c s = .next t ∧ f t = v := by
  unfold after at h
  split at h
  · next t e => exact ⟨t, e, Option.some.inj h⟩
  · cases h
  · cases h

/-- The invariant of the part's data, written out. -/
abbrev Sound (s : State) : Prop := Memory.wf s.mem = true ∧
  (∀ st, (s.counters st).handoverFaults ≤ 65535 ∧ (s.counters st).jobsFinished ≤ 65535 ∧ (s.counters st).usage ≤ 65535 ∧
    (s.counters st).overflow ≤ 65535) ∧
  (∀ q, let x := s.poolStats q; x.granted ≤ max32 ∧ x.regrants ≤ max32 ∧ x.waitTotal ≤ max32 ∧ x.waitMax ≤ max32 ∧
    x.preemptions ≤ max32 ∧ x.faultRequeues ≤ max32 ∧ x.expiries ≤ max32) ∧
  (∀ g, let j := s.job g; j.interruptions ≤ 255 ∧ j.faults ≤ 2 ∧ j.contactsDelivered ≤ 65535 ∧ j.urgency ≤ 3) ∧
  (∀ p, let x := s.port p; x.holdLevel ≤ 255 ∧ x.capability ≤ 10 ∧
    (x.counters.noise ≤ max32 ∧ x.counters.framing ≤ max32 ∧ x.counters.check ≤ max32 ∧ x.counters.resend ≤ max32) ∧
    (x.discards.unrouted ≤ 65535 ∧ x.discards.closed ≤ 65535 ∧ x.discards.stray ≤ 65535 ∧ x.discards.malformed ≤ 65535) ∧
    x.transmitter.replies.length ≤ 4 ∧ ∀ o ∈ x.transmitter.outstanding, 1 ≤ o.sends ∧ o.sends ≤ 3) ∧
  ∀ st, (s.sample st).groupCeiling ≤ 255

def sound (s : State) : Bool := decide (Sound s)

theorem sound_wellFormed {s : State} (h : sound s = true) : s.wellFormed := by
  obtain ⟨memory, counters, stats, jobs, ports, ceiling⟩ : Sound s := of_decide_eq_true h
  refine ⟨memory, fun st => ?_, fun q => ?_, fun g => ?_, fun p => ?_, ceiling⟩
  · obtain ⟨faults, finished, usage, overflow⟩ := counters st
    exact ⟨faults, finished, usage, overflow⟩
  · obtain ⟨granted, regrants, total, most, preemptions, requeues, expiries⟩ := stats q
    exact ⟨granted, regrants, total, most, preemptions, requeues, expiries⟩
  · obtain ⟨interruptions, faults, delivered, urgency⟩ := jobs g
    exact ⟨interruptions, faults, delivered, urgency⟩
  · obtain ⟨level, capability, ⟨noise, framing, check, resend⟩, ⟨unrouted, closed, stray, malformed⟩, replies, sends⟩ := ports p
    exact ⟨level, capability, ⟨noise, framing, check, resend⟩, ⟨unrouted, closed, stray, malformed⟩, ⟨replies, sends⟩⟩

/-- Slots, queues and deadline list agree, written out. -/
abbrev Queued (s : State) : Prop :=
  (∀ q, (s.queue q).Nodup ∧ ∀ g ∈ s.queue q, (s.slot g).state = .queued ∧ (s.job g).pool = q) ∧
  (s.deadlines.Nodup ∧
    ∀ g ∈ s.deadlines, (s.slot g).state = .queued ∧ (s.job g).firstGrant = none ∧ (s.job g).expiry ≠ none) ∧
  ∀ g, (s.slot g).state = .queued → g ∈ s.queue (s.job g).pool ∧
    ((s.job g).firstGrant = none → (s.job g).expiry ≠ none → g ∈ s.deadlines)

/-- Ports and SERVING slots agree, written out. -/
abbrev Served (s : State) : Prop :=
  (∀ p, (s.port p).state = .serving ↔ (s.port p).job ≠ none) ∧
  (∀ p, ∀ g ∈ (s.port p).job, (s.slot g).state = .serving ∧ (s.job g).port = some p ∧ (s.job g).firstGrant ≠ none) ∧
  ∀ g, (s.slot g).state = .serving → ∃ p, (s.port p).job = some g

/-- Blocks, chains and marks agree, written out. -/
abbrev Chained (s : State) : Prop :=
  (s.spare.Nodup ∧ ∀ b ∈ s.spare, s.mark b = .spare) ∧
  (∀ g, (s.job g).resultChain.Nodup ∧ ∀ b ∈ (s.job g).resultChain, s.mark b = .result) ∧
  (∀ g, (s.job g).resultChain ≠ [] → ∀ h, ∀ b ∈ (s.job g).resultChain, b ∈ (s.job h).resultChain → g = h) ∧
  ∀ x ∈ s.marks.toList.zipIdx, (x.1 = .spare → x.2 + 1 ∈ s.spare) ∧
    (x.1 = .result → ∃ g, x.2 + 1 ∈ (s.job g).resultChain)

/-- What a part that is not STARTING has by the law of R12 and by the clearing of records, written out. -/
abbrev Lawful (s : State) : Prop :=
  (sweeping s.ctl.engine = false →
    (∀ q, s.queue q = []) ∧ s.deadlines = [] ∧ ∀ g, (s.slot g).state ≠ .queued ∧ (s.slot g).state ≠ .serving) ∧
  (s.ctl.engine = .draining → (∀ q, s.queue q = []) ∧ s.deadlines = [] ∧ ∀ g, (s.slot g).state ≠ .queued) ∧
  (∀ g, (s.slot g).state = .empty ∨ (s.slot g).state = .posted → s.job g = {}) ∧ s.ctl.engine ≠ .starting

/-- The agreement of the records of a part that is not STARTING, as a check. -/
def agreeing (s : State) : Bool :=
  decide (Queued s) && (decide (Served s) && (decide (Chained s) && decide (Lawful s)))

theorem agreeing_structured {s : State} (h : agreeing s = true) : s.structured := by
  obtain ⟨h1, h⟩ := Bool.and_eq_true_iff.mp h
  obtain ⟨h2, h⟩ := Bool.and_eq_true_iff.mp h
  obtain ⟨h3, h4⟩ := Bool.and_eq_true_iff.mp h
  obtain ⟨q, d, o⟩ : Queued s := of_decide_eq_true h1
  obtain ⟨a, e, f⟩ : Served s := of_decide_eq_true h2
  obtain ⟨⟨n, m⟩, c, u, r⟩ : Chained s := of_decide_eq_true h3
  obtain ⟨x, y, z, v⟩ : Lawful s := of_decide_eq_true h4
  have found {k : BlockMark} (hk : k ≠ .outside) {b : Nat} (hb : s.mark b = k) : (k, b - 1) ∈ s.marks.toList.zipIdx ∧ 1 ≤ b := by
    unfold State.mark at hb
    split at hb
    next w =>
      refine ⟨List.mk_mem_zipIdx_iff_getElem?.mpr ?_, w.1⟩
      rw [Vector.getElem?_toList, Vector.getElem?_eq_getElem (by omega), hb]
    next => exact absurd hb.symm hk
  have queues : s.queuesHold := fun pool => ⟨(q pool).1, fun slot => ⟨(q pool).2 slot, by
    rintro ⟨waits, rfl⟩
    exact (o slot waits).1⟩⟩
  have deadlines : s.deadlinesHold := ⟨d.1, fun slot => ⟨d.2 slot, by
    rintro ⟨waits, ungranted, due⟩
    exact (o slot waits).2 ungranted due⟩⟩
  have spare (block : Nat) (marked : s.mark block = .spare) : block ∈ s.spare := by
    obtain ⟨listed, positive⟩ := found (by decide) marked
    exact Nat.sub_add_cancel positive ▸ (r _ listed).1 rfl
  have result (block : Nat) (marked : s.mark block = .result) : ∃ slot, block ∈ (s.job slot).resultChain := by
    obtain ⟨listed, positive⟩ := found (by decide) marked
    exact Nat.sub_add_cancel positive ▸ (r _ listed).2 rfl
  have blocks : s.blocksHold := ⟨n, fun block => ⟨m block, spare block⟩, fun slot => (c slot).1,
    fun slot other block first second => u slot (List.ne_nil_of_mem first) other block first second,
    fun block => ⟨result block, fun ⟨slot, attached⟩ => (c slot).2 block attached⟩⟩
  have records : s.recordsClear := ⟨z, fun _ _ starting => absurd starting v⟩
  exact ⟨queues, deadlines, ⟨a, e, f⟩, blocks, ⟨x, y⟩, records⟩

/-- Port 0 a printer in pool 0, port 1 a scanner in pool 1, port 2 a panel in pool 2. -/
def work : WorkingCopy :=
  { sweepInterval := 20
    decayPeriod := 1
    lowWater := 3
    ports := (((Vector.replicate 12 {}).set 0 { cls := .printer, probeInterval := 2, sheetTimeout := 30 }).set 1
      { cls := .scanner, pool := 1, responseTimeout := 100, starveLimit := 5 }).set 2 { cls := .panel, pool := 2 }
    pools := Vector.replicate 8 { agingStep := 10, agingCap := 63, preempt := true } }

def openSample : StationSample :=
  { state := .opened, basePriority := 10, mayPrint := true, mayScan := true, mayHold := true, notify := true }

/-- A part in an engine state at clock value 1000, every station open, nothing posted, every port OFFLINE. -/
def partIn (e : Engine) : State :=
  { State.reset with
    ctl := { engine := e, work := work, clock := 1000, samples := Vector.replicate 32 openSample } }

def running : State := partIn .running

/-- A change of the control registers. -/
def having (s : State) (f : Control → Control) : State := { s with ctl := f s.ctl }

/-- Words written to exchange memory. -/
def withWords (s : State) (l : List (Nat × Word)) : State := l.foldl (fun s c => s.putWord c.1 c.2) s

/-- A print of one block of four bytes at station 0, serving at port 0, whose last sheet awaits its SHEET. -/
def printJob : JobRecord :=
  { cls := some .print, pool := 0, acceptStamp := 800, firstGrant := some 900, serviceGrant := some 900, port := some 0
    chain := [⟨1, true⟩], copies := 1, resumeCopy := 1, resumeSheet := 1 }

def printPort : PortRecord :=
  { state := .serving, condition := .ready, job := some 0, holdLevel := 50, grantNumber := 1
    print := { phase := .sheetWait, copy := 1, sheet := 1, fed := true, sheetTimer := some 1000 } }

def printing : State :=
  ((withWords running [(0x4000, 0x00040000), (0x2000, 3)]).setSlot 0 { state := .serving, job := printJob }).setPort 0 printPort

/-- A scan at station 1, serving at port 1, with ten bytes stored in block 7. -/
def scanJob : JobRecord :=
  { cls := some .scan, pool := 1, acceptStamp := 800, firstGrant := some 900, serviceGrant := some 900, port := some 1
    mode := 1, maxBytes := 120, resultChain := [7] }

def scanPort : PortRecord :=
  { state := .serving, condition := .ready, job := some 4, holdLevel := 50, grantNumber := 1, capability := 3
    scan := { phase := .taking, resolution := 1, stored := 10, current := some 7, fill := 10 } }

def scanning : State :=
  (((withWords running [(0x2100, 3)]).setSlot 4 { state := .serving, job := scanJob }).setPort 1 scanPort).setMark 7 .result

/-- A hold at station 2, serving at port 2, with one contact held and one captured by a zone of station 3. -/
def holdJob : JobRecord :=
  { cls := some .hold, pool := 2, acceptStamp := 800, firstGrant := some 900, serviceGrant := some 900, port := some 2
    holdRemaining := 100 }

def heldAt (st : Station) (zone : Nat) : Capture := { station := st, zone, record := 0, x := 5, y := 6, pressure := 7 }

def panelZones : Vector Zone 16 :=
  (Vector.replicate 16 {}).set 3 { x0 := 100, y0 := 100, x1 := 200, y1 := 200, station := 3, enabled := true }

def holdPort : PortRecord :=
  { state := .serving, condition := .ready, job := some 8, holdLevel := 50, grantNumber := 1, capability := 10
    hold := { phase := .holding, timer := some 1000 }, zones := panelZones
    contacts := ((Vector.replicate 10 .none).set 0 (.hold (heldAt 2 255))).set 1 (.zone (heldAt 3 3)) }

def holding : State :=
  ((withWords running [(0x2200, 3)]).setSlot 8 { state := .serving, job := holdJob }).setPort 2 holdPort

/-- The panel of port 2 with no hold. -/
def panelFree : State :=
  running.setPort 2 { state := .free, condition := .ready, capability := 10, zones := panelZones
                      contacts := (Vector.replicate 10 .none).set 1 (.zone (heldAt 3 3)) }

/-- A hold of station 2 in the queue of pool 2, accepted at 900 with a deadline that is reached. -/
def waiting : State :=
  { (withWords running [(0x2200, 2)]).setSlot 8
      { state := .queued
        job := { cls := some .hold, pool := 2, acceptStamp := 900, expiry := some 1000, holdRemaining := 5000 } } with
    queues := (Vector.replicate 8 []).set 2 [8]
    deadlines := [8] }

/-- A part whose sweep visits a station next. -/
def sweepingAt (s : State) (n : Nat) : State := having s fun c => { c with sweep := some { nudged := false, next := n } }

/-- A request of station 2 in slot 8: class and pool, cancel byte, and the word at 0x0C. -/
def posted (s : State) (request parameters : Word) : State :=
  withWords s [(0x2200, 1), (0x2204, request), (0x220C, parameters)]

/-- A transmitter whose frame awaits its answer. -/
def awaiting (f : AnswerFrame) (owner : FrameOwner) (sends : Nat) : Transmitter :=
  { outstanding := some { offered := { frame := f, owner }, sends, phase := .awaitingAnswer }, responseTimer := some 1000 }

def low : BitSamples := ⟨false, false, false⟩
def high : BitSamples := ⟨true, true, true⟩

/-- A character of a data byte and a mark bit, each bit sampled thrice alike. -/
def characterOf (b : Byte) (mark : Bool) : LineCharacter :=
  { afterHigh := true
    start := low
    data := Vector.ofFn fun i => if b.getLsbD i.val then high else low
    mark := if mark then high else low
    stop := high }

/-! ### Ill-formed commands -/

theorem refuses_taken_register_write : (Instr.registerWriteIgnored 0x10 0xF 1).wellFormed = false := by decide
theorem refuses_misaligned_register_write : (Instr.registerWriteIgnored 0x1A 0xF 1).wellFormed = false := by decide
theorem refuses_register_write_past_window : (Instr.registerWriteIgnored 0x40 0xF 1).wellFormed = false := by decide
theorem refuses_false_start : (Instr.characterReceived 0 { characterOf 0 true with start := ⟨true, true, false⟩ }).wellFormed = false := by
  decide +kernel
theorem refuses_long_payload : (Instr.frameRejected 0 0x22 (List.replicate 121 0) 0).wellFormed = false := by decide +kernel
theorem refuses_condition_none : (Instr.stateFrame 0 0 0).wellFormed = false := by decide
theorem refuses_condition_eight : (Instr.stateFrame 0 8 0).wellFormed = false := by decide
theorem refuses_empty_image : (Instr.imageFrame 1 []).wellFormed = false := by decide
theorem refuses_long_image : (Instr.imageFrame 1 (List.replicate 121 0)).wellFormed = false := by decide +kernel
theorem refuses_empty_contact : (Instr.contactFrame 2 []).wellFormed = false := by decide
theorem refuses_long_contact : (Instr.contactFrame 2 (List.replicate 11 ⟨0, 1, 0, 0, 0⟩)).wellFormed = false := by decide
theorem refuses_misaligned_memory_write : (Instr.hostExchangeMemoryWrite 0x2002 0xF 1).wellFormed = false := by decide
theorem refuses_memory_write_past_end : (Instr.hostExchangeMemoryWrite 0x20000 0xF 1).wellFormed = false := by decide

/-! ### Engine control -/

/-- R13: the power-on reset begins the wipe with CLOCK 0. -/
theorem test_power_on : after .powerOnReset running (fun t => (t.ctl.engine, t.ctl.clock)) = some (.wiping, 0) := by
  decide +kernel

/-- R13: the wipe's completion enters STOPPED and sets NOTICE.ENGINE. -/
theorem test_wipe_completion : after .wipeCompletion State.reset (fun t => (t.ctl.engine, t.notice)) = some (.stopped, 2) := by
  decide +kernel

/-- R2: START is accepted in STOPPED, and in RUNNING refused with WRONG_STATE. -/
theorem test_start : after .start (partIn .stopped) (·.ctl.engine) = some .starting := by decide +kernel

theorem test_start_refused : after .start running (fun t => (t.ctl.lastOutcome, t.ctl.refusalReason)) =
    some (.refused, .wrongState) := by decide +kernel

/-- R19: a STOP with a print serving leaves DRAINING; without one it leaves STOPPED at once. -/
theorem test_stop_draining : after .stop printing (·.ctl.engine) = some .draining := by decide +kernel

theorem test_stop_hold : after .stop holding (fun t => (t.ctl.engine, field (t.word 0x2218) 0 16)) =
    some (.stopped, 5 + 256 * 12) := by decide +kernel

/-- R2, R13: WIPE in STOPPED. -/
theorem test_wipe : after .wipe (partIn .stopped) (·.ctl.engine) = some .wiping := by decide +kernel

/-- R21: RESET leaves STOPPED with ENGINE alone in NOTICE, and does not touch exchange memory. -/
theorem test_reset : after .reset printing (fun t => (t.ctl.engine, t.notice, t.word 0x2000)) = some (.stopped, 2, 3) := by
  decide +kernel

/-- R15: with every port of class NONE the result is NO_PORTS. -/
theorem test_validation_no_ports :
    after .configurationValidation (having (partIn .starting) fun c => { c with startPhase := .copied, work := {} })
      (fun t => (t.ctl.engine, t.ctl.configResult)) = some (.stopped, .noPorts) := by decide +kernel

/-- R16: the rebuild finishes a slot that it finds SERVING as CANCELLED RESET. -/
theorem test_rebuild : ((printing.rebuild.slot 0).state, printing.rebuild.word 0x2000,
    field (printing.rebuild.word 0x2018) 0 16) = (.finished, 4, 2 + 256 * 13) := by
  decide +kernel

/-- R17, R114: START completes into RUNNING with its ports PROBING. -/
theorem test_start_completion :
    after .startCompletion (having (partIn .starting) fun c => { c with startPhase := .rebuilding 128 })
      (fun t => (t.ctl.engine, (t.port 0).state, (t.port 3).state)) = some (.running, .probing, .offline) := by
  decide +kernel

/-- R16, R17: the slots that the rebuild has not yet taken are taken before START completes. -/
theorem test_start_completion_rebuilds :
    after .startCompletion (withWords (having (partIn .starting) fun c => { c with startPhase := .rebuilding 127 })
        [(slotAddress 127, 1), (0x2000, 1)])
      (fun t => ((t.slot 127).state, (t.slot 0).state)) = some (.posted, .empty) := by
  decide +kernel

/-! ### The register window and exchange memory -/

/-- R4: NUDGE is served in RUNNING and ignored in STOPPED. -/
theorem test_nudge_visit : after (.nudgeVisit 5) running (·.ctl.nudgeVisits[5]) = some true := by decide +kernel

theorem test_nudge_ignored : after (.nudgeVisit 5) (partIn .stopped) (·.ctl.nudgeVisits[5]) = some false := by decide +kernel

theorem test_nudge_whole_sweep : after .nudgeWholeSweep running (·.ctl.nudgeSweep) = some true := by decide +kernel

/-- R5: ones clear. -/
theorem test_notice_write : after (.noticeWrite 0x02) { running with notice := 0x06 } (·.notice) = some 0x04 := by
  decide +kernel

/-- R7: the write of MASK raises the request, and one message is sent. -/
theorem test_mask_write :
    after (.maskWrite 0x102) { having running (fun c => { c with messagesEnabled := true }) with notice := 0x06 }
      (fun t => (t.ctl.mask, t.ctl.messagesSent)) = some (0x02, 1) := by decide +kernel

/-- R6: ones clear. -/
theorem test_station_notice_write :
    after (.stationNoticeWrite 0x80000000) { running with stationNotice := 0x80000001 } (·.stationNotice) = some 1 := by
  decide +kernel

/-- R1: a write of STATUS is ignored; a misaligned access is none of the manual's (log entry 22). -/
theorem test_register_write_ignored : after (.registerWriteIgnored 0x04 0xF 1) running (·.ctl.lastCommand) = some .none := by
  decide +kernel

theorem test_register_write_misaligned : after (.registerWriteIgnored 0x05 0xF 1) running (·.ctl.lastCommand) = none := by
  decide +kernel

/-- R7: enabling messages sends none for a request already asserted. -/
theorem test_messages_enabled :
    after (.messagesEnabledChange true) { having running (fun c => { c with mask := 2 }) with notice := 0x02 }
      (fun t => (t.ctl.messagesEnabled, t.ctl.messagesSent)) = some (true, 0) := by decide +kernel

/-- R9, R193: a host word lies with its least significant byte at the lowest address; R11: none is taken in WIPING. -/
theorem test_host_write : after (.hostExchangeMemoryWrite 0x1FFFC 0xF 0x11223344) running
    (fun t => (readByte t.mem 0x1FFFC, readByte t.mem 0x1FFFF)) = some (0x44, 0x11) := by decide +kernel

theorem test_host_write_wiping : after (.hostExchangeMemoryWrite 0x2000 0xF 1) State.reset (·.word 0x2000) = some 0 := by
  decide +kernel

/-! ### Clock, deadlines, sweeps -/

/-- R48: the clock wraps. -/
theorem test_tick_wraps : after .hallTick (having (partIn .stopped) fun c => { c with clock := 0xFFFFFFFF }) (·.ctl.clock) =
    some 0 := by decide +kernel

/-- 3.5: at 4,294,967,050 slot 6 is reached and slot 41, at 1,604, is not. -/
theorem test_reach_across_wrap : reached 4294967050 4294967050 = true ∧ reached 4294967050 1604 = false := by decide +kernel

/-- R56: EXPIRED NOT_GRANTED, the queue emptied. -/
theorem test_deadline_expiry : after .deadlineExpiry waiting (fun t => (field (t.word 0x2218) 0 16, t.queue 2)) =
    some (3 + 256 * 14, []) := by decide +kernel

/-- R41: the expiry begins a timed sweep and restarts the timer. -/
theorem test_sweep_timer : after .sweepTimerExpiry (having running fun c => { c with sweepTimer := some 1000 })
    (fun t => (t.ctl.sweep, t.ctl.sweepTimer)) = some (some ⟨false, 0⟩, some 1020) := by decide +kernel

/-- R42: a requested whole sweep is a nudged one. -/
theorem test_sweep_start : after .wholeSweepStart (having running fun c => { c with nudgeSweep := true })
    (fun t => (t.ctl.sweep, t.ctl.nudgeSweep)) = some (some ⟨true, 0⟩, false) := by decide +kernel

/-- R26, R35, R73: a posted hold is accepted at its station's visit, and granted to the FREE panel at once. -/
theorem test_visit_grants :
    after (.visit 2) (sweepingAt (posted (withWords panelFree [(0x03C0, 0x00010A01), (0x03C4, 0x14)]) 0x00020300 5) 2)
      (fun t => ((t.slot 8).state, t.word 0x2200, (t.port 2).state)) = some (.serving, 3, .serving) := by
  decide +kernel

/-- R31: a pool without members is BAD_POOL. -/
theorem test_visit_refuses :
    after (.visit 2) (sweepingAt (posted (withWords running [(0x03C0, 0x00010A01), (0x03C4, 0x14)]) 0x00030300 5) 2)
      (fun t => field (t.word 0x2218) 0 16) = some (1 + 256 * 4) := by decide +kernel

/-- R147, R148: a refill of two blocks is appended to the spare chain, its status OK with count 2. -/
theorem test_refill :
    after .wholeSweepEnd (sweepingAt (withWords running [(8, 1), (0x4000, 2)]) 32)
      (fun t => (t.spare, t.word 0x0C, t.word 8, t.notice)) = some ([1, 2], 0x21, 0, 0x10) := by decide +kernel

/-- R59: a usage score is halved, rounding down. -/
theorem test_decay :
    after .decayTimerExpiry (having (running.setCounters 0 { usage := 3453 }) fun c => { c with decayTimer := some 1000 })
      (fun t => ((t.counters 0).usage, t.ctl.decayTimer)) = some (1726, some 2000) := by decide +kernel

/-! ### Lines -/

/-- R102: a header begins a frame. -/
theorem test_header : after (.characterReceived 0 (characterOf 0x21 true)) printing (fun t => (t.port 0).receiver) =
    some (.awaitLength 0x21) := by decide +kernel

/-- R99, R102: a low stop bit is a framing error. -/
theorem test_framing : after (.characterReceived 0 { characterOf 0x21 true with stop := low }) printing
    (fun t => ((t.port 0).counters.framing, t.word 0x0110)) = some (1, 1) := by decide +kernel

/-- R100: the check of an ACK is 256 − 0x10. -/
theorem test_check_of_ack : checkOf 0x10 [] = 0xF0 := by decide +kernel

/-- R103: a frame whose check fails is counted, and an IMAGE that the scan takes is answered NAK. -/
theorem test_frame_rejected : after (.frameRejected 1 0x22 [1] 0) scanning
    (fun t => ((t.port 1).counters.check, (t.port 1).transmitter.sending)) = some (1, .reply .nak) := by decide +kernel

/-- R116, R121: READY makes a PROBING port FREE and sets PORT_UP. -/
theorem test_state_ready : after (.stateFrame 0 1 0) (running.setPort 0 { state := .probing })
    (fun t => ((t.port 0).state, t.notice, t.word 0x0108)) = some (.free, 0x40, 0x0102) := by decide +kernel

/-- R118, R120: PAPER_OUT ends a print by fault. -/
theorem test_state_paper_out : after (.stateFrame 0 3 0) printing
    (fun t => ((t.port 0).state, t.notice, t.queue 0, (t.job 0).faults)) = some (.faulted, 0x20, [0], 1) := by decide +kernel

/-- R130, R132: the SHEET of the last sheet ends the print DONE with its sheet counted. -/
theorem test_sheet : after (.sheetFrame 0) printing
    (fun t => (field (t.word 0x2018) 0 16, t.word 0x2028, (t.port 0).state)) = some (4, 1, .free) := by decide +kernel

/-- R152: the bytes are stored from the fill on, and the block's length rewritten. -/
theorem test_image : after (.imageFrame 1 [0xAB, 0xCD]) scanning
    (fun t => (readByte t.mem (0x4300 + 8 + 10), readByte t.mem (0x4300 + 8 + 11), readLength t.mem 7)) =
      some (0xAB, 0xCD, 12) := by decide +kernel

/-- R153: without room the frame is answered PAUSE. -/
theorem test_image_paused : after (.imageFrame 1 (List.replicate 111 1))
    (scanning.updateJob 4 fun j => { j with maxBytes := 1000 })
    (fun t => ((t.port 1).scan.phase, (t.port 1).scan.wanted, (t.port 1).transmitter.sending)) =
      some (.starved, 111, .reply .pause) := by decide +kernel

/-- R156: an IMAGE-END whose count is the bytes stored ends the scan DONE. -/
theorem test_image_end : after (.imageEndFrame 1 10) scanning
    (fun t => (field (t.word 0x2118) 0 16, t.word 0x2128, t.word 0x212C, t.word 0x2130)) = some (4, 10, 0x10007, 10) := by
  decide +kernel

theorem test_image_end_mismatch : after (.imageEndFrame 1 11) scanning (fun t => field (t.word 0x2118) 0 16) =
    some (5 + 256 * 17) := by decide +kernel

/-- R165, R168: a DOWN in a zone is captured for the zone's station and set in its notice. -/
theorem test_contact : after (.contactFrame 2 [⟨4, 1, 100, 200, 9⟩]) panelFree
    (fun t => (t.contact 2 4, t.stationNotice)) =
      some (.zone { station := 3, zone := 3, record := 0, x := 100, y := 200, pressure := 9 }, 8) := by decide +kernel

/-- R163: an UP with no contact is stray. -/
theorem test_contact_stray : after (.contactFrame 2 [⟨4, 3, 100, 200, 9⟩]) panelFree (fun t => t.word 0x54) = some 1 := by
  decide +kernel

/-- R108, R151: the ACK of OPEN-SCAN begins the taking of frames. -/
theorem test_ack : after (.ackFrame 1) (scanning.modifyPort 1 fun x => { x with
      scan := { x.scan with phase := .opening }, transmitter := awaiting (.openScan 1 1) (.service 1) 1 })
    (fun t => ((t.port 1).scan.phase, (t.port 1).transmitter.outstanding)) = some (.taking, none) := by decide +kernel

/-- R109: a NAK before the third send sends the frame again. -/
theorem test_nak : after (.nakFrame 0) (running.setPort 0 { state := .probing, transmitter := awaiting .ask .probe 2 })
    (fun t => ((t.port 0).counters.resend, (t.port 0).transmitter.outstanding.map (·.sends))) = some (1, some 3) := by
  decide +kernel

/-- R107: a sent frame awaits its answer for the response timeout. -/
theorem test_frame_sent : after (.frameSent 1) (running.setPort 1 { state := .probing, transmitter := offer ⟨.ask, .probe⟩ {} })
    (fun t => ((t.port 1).transmitter.outstanding.map (·.phase), (t.port 1).transmitter.responseTimer)) =
      some (some .awaitingAnswer, some 1100) := by decide +kernel

/-- R109, R116, R120: the third send without an answer makes a PROBING port FAULTED with LINE_SILENT. -/
theorem test_response_timer : after (.responseTimerExpiry 0)
    (running.setPort 0 { state := .probing, transmitter := awaiting .ask .probe 3 })
    (fun t => ((t.port 0).state, (t.port 0).condition, (t.port 0).probeTimer)) = some (.faulted, .lineSilent, some 3000) := by
  decide +kernel

/-- R119: the probe timer restarts and ASK goes out. -/
theorem test_probe_timer : after (.probeTimerExpiry 0) (running.setPort 0 { state := .faulted, probeTimer := some 1000 })
    (fun t => ((t.port 0).probeTimer, (t.port 0).transmitter.sending)) = some (some 3000, .outstanding) := by decide +kernel

/-! ### Timers of the services -/

/-- R131, R133: SHEET_LATE re-queues the print at the sheet in progress and keeps the last condition. -/
theorem test_sheet_timer : after (.sheetTimerExpiry 0) printing
    (fun t => ((t.port 0).state, (t.port 0).condition, (t.slot 0).state)) = some (.faulted, .ready, .queued) := by
  decide +kernel

/-- R155: a scan that starves ends DONE_SHORT STARVED. -/
theorem test_starve_timer : after (.starveTimerExpiry 1)
    (scanning.modifyPort 1 fun x => { x with scan := { x.scan with phase := .starved, starveTimer := some 1000 } })
    (fun t => (field (t.word 0x2118) 0 16, (t.port 1).state)) = some (5 + 256 * 15, .free) := by decide +kernel

/-- R177: a hold whose timer expires is DONE, and its contact is lifted with a synthetic UP. -/
theorem test_hold_timer : after (.holdTimerExpiry 2) holding
    (fun t => (field (t.word 0x2218) 0 16, t.contact 2 0, (t.mailbox 2 0).synthetic)) = some (4, .orphan, true) := by
  decide +kernel

/-! ### Rank (4.8) -/

/-- 4.8.1: slot 29 and slot 48. -/
theorem test_rank_example : rankValue 120 2 (agingBonus 50 10 false 37450) (usagePenalty 3000 3) = 73 ∧
    rankValue 60 0 (agingBonus 50 10 false 92000) (usagePenalty 40 1) = 68 := by decide +kernel

/-- 4.8.2: the upper limit. -/
theorem test_rank_limit : rankValue 200 3 (agingBonus 1 63 false 7000) (usagePenalty 10 1) = 255 := by decide +kernel


/-! ### A state and operands for the hypotheses of each statement -/

theorem step_after {α : Type} {c : Instr} {s : State} {f : State → α} {v : α} (h : after c s f = some v) :
    ∃ t, step { s with pending := c :: s.pending } = .next t ∧ f t = v := after_eq h

theorem running_wellFormed : running.wellFormed := sound_wellFormed (by decide +kernel)
theorem printing_wellFormed : printing.wellFormed := sound_wellFormed (by decide +kernel)
theorem scanning_wellFormed : scanning.wellFormed := sound_wellFormed (by decide +kernel)
theorem holding_wellFormed : holding.wellFormed := sound_wellFormed (by decide +kernel)
theorem panelFree_wellFormed : panelFree.wellFormed := sound_wellFormed (by decide +kernel)
theorem waiting_wellFormed : waiting.wellFormed := sound_wellFormed (by decide +kernel)
theorem printing_structured : printing.structured := agreeing_structured (by decide +kernel)
theorem scanning_structured : scanning.structured := agreeing_structured (by decide +kernel)
theorem holding_structured : holding.structured := agreeing_structured (by decide +kernel)
theorem waiting_structured : waiting.structured := agreeing_structured (by decide +kernel)

/-- A part in WIPING, STOPPED or STARTING with nothing of R12 going on, written out. -/
abbrev Resting (s : State) : Prop := sweeping s.ctl.engine = false →
  s.ctl.sweep = none ∧ s.ctl.sweepTimer = none ∧ s.ctl.sweepHeld = false ∧ s.ctl.decayTimer = none ∧
    s.ctl.nudgeVisits = Vector.replicate 32 false ∧ s.ctl.nudgeSweep = false ∧
    ∀ p, (s.port p).state = .offline ∧ (s.port p).transmitter = {} ∧ (s.port p).probeTimer = none

def resting (s : State) : Bool := decide (Resting s)

theorem resting_atRest {s : State} (h : resting s = true) : s.atRest := (of_decide_eq_true h : Resting s)

theorem stopped_atRest : (partIn .stopped).atRest := resting_atRest (by decide +kernel)

theorem witness_StepRunsTheFrontCommand :
    ({ running with pending := [.hallTick, .stop] }).pending = .hallTick :: [.stop] ∧ running.pending = [] := ⟨rfl, rfl⟩

theorem witness_CommandsKeepQueueClockAndMessages : ∃ t, exec .deadlineExpiry waiting = .next t ∧ (t.slot 8).state = .finished :=
  after_eq (by decide +kernel)

theorem witness_StepKeepsWellFormed : printing.wellFormed ∧
    ∃ t, step { printing with pending := .sheetFrame 0 :: printing.pending } = .next t ∧ (t.port 0).state = .free :=
  ⟨printing_wellFormed, step_after (by decide +kernel)⟩

theorem witness_StepKeepsAtRest : (partIn .stopped).atRest ∧
    (∃ t, step { partIn .stopped with pending := .start :: (partIn .stopped).pending } = .next t ∧ t.ctl.engine = .starting) ∧
    printing.structured ∧
    ∃ t, step { printing with pending := .sheetFrame 0 :: printing.pending } = .next t ∧ (t.slot 0).state = .finished :=
  ⟨stopped_atRest, step_after (by decide +kernel), printing_structured, step_after (by decide +kernel)⟩

/-- One event for each way that the engine leaves a state. -/
theorem witness_EngineMovesByTheTable :
    (∃ t, exec .wipeCompletion State.reset = .next t ∧ t.ctl.engine = .stopped) ∧
    (∃ t, exec .start (partIn .stopped) = .next t ∧ t.ctl.engine = .starting) ∧
    (∃ t, exec .startCompletion (having (partIn .starting) fun c => { c with startPhase := .rebuilding 128 }) = .next t ∧
      t.ctl.engine = .running) ∧
    (∃ t, exec .stop running = .next t ∧ t.ctl.engine = .stopped) ∧ Instr.stop.wellFormed = true ∧
    ((Instr.sheetFrame 0).wellFormed = true ∧ (having printing fun c => { c with engine := .draining }).anyServing = true ∧
      ∃ t, exec (.sheetFrame 0) (having printing fun c => { c with engine := .draining }) = .next t ∧
        (t.anyServing, t.ctl.engine) = (false, .stopped)) :=
  ⟨after_eq (by decide +kernel), after_eq (by decide +kernel), after_eq (by decide +kernel), after_eq (by decide +kernel),
    by decide, by decide, by decide +kernel, after_eq (by decide +kernel)⟩

/-- A command that moves the clock, one that sets it and one that leaves it, and a command that raises the request. -/
theorem witness_CommandsTickAndSend :
    ((∃ t, exec .hallTick running = .next t ∧ t.ctl.clock = 1001) ∧ (∃ t, exec .powerOnReset running = .next t ∧ t.ctl.clock = 0) ∧
      ∃ t, exec .stop running = .next t ∧ t.ctl.clock = 1000) ∧
    let s := { having running (fun c => { c with messagesEnabled := true }) with notice := 0x06 }
    s.request = false ∧
      ∃ t, exec (.maskWrite 0x02) s = .next t ∧ (t.request, t.ctl.messagesEnabled, t.ctl.messagesSent) = (true, true, 1) :=
  ⟨⟨after_eq (by decide +kernel), after_eq (by decide +kernel), after_eq (by decide +kernel)⟩, by decide +kernel,
    after_eq (by decide +kernel)⟩

/-- The three services at work, block 1 lent to the print, a hold of station 3 with a deadline in the queue of pool 2, and the
panel's two contacts, one held and one in a zone, each with the record of its key. -/
def atWork : State :=
  let s := withWords running [(0x4000, 0x00040000), (0x2000, 3), (0x2100, 3), (0x2200, 3), (0x2300, 2)]
  let s := (s.setSlot 0 { state := .serving, job := printJob }).setPort 0 printPort
  let s := (s.setSlot 4 { state := .serving, job := scanJob }).setPort 1 scanPort
  let s := (s.setSlot 8 { state := .serving, job := holdJob }).setPort 2 holdPort
  let s := s.setSlot 12 {
    state := .queued
    job := { cls := some .hold, pool := 2, acceptStamp := 900, expiry := some 1000, holdRemaining := 5000 } }
  let s := (s.setMailbox 2 0 { seq := 2, key := some (2, 0) }).setMailbox 3 0 { key := some (2, 1) }
  { (s.setMark 7 .result).setMark 1 (.loaned 1) with queues := (Vector.replicate 8 []).set 2 [12], deadlines := [12] }

theorem atWork_loansHold : atWork.loansHold := by
  intro b
  have none (g : Slot) (h : g ≠ 0) : (atWork.slot g).loans b = 0 := by
    have unprinted : ∀ g : Slot, g ≠ 0 → (atWork.job g).cls ≠ some .print := by decide +kernel
    exact if_neg fun k => unprinted g h k.2
  have sum : (allSlots.map fun g => (atWork.slot g).loans b).sum = [1].count b := by
    have split : allSlots = 0 :: allSlots.tail := by decide +kernel
    have rest : (allSlots.tail.map fun g => (atWork.slot g).loans b).sum = 0 := List.sum_eq_zero fun n hn => by
      obtain ⟨g, hg, rfl⟩ := List.mem_map.mp hn
      exact none g fun h => absurd (h ▸ hg) (by decide +kernel)
    rw [split, List.map_cons, List.sum_cons, rest]
    exact (if_pos (by decide +kernel) : (atWork.slot 0).loans b = _)
  show (∀ n, atWork.mark b = .loaned n → n = _ ∧ 1 ≤ n) ∧ _
  rw [sum]
  by_cases one : b = 1
  · subst one
    have lent : atWork.mark 1 = .loaned 1 := by decide +kernel
    exact ⟨fun n h => by rw [lent] at h; cases h; decide, fun h => absurd lent (h 1)⟩
  · refine ⟨fun n h => ?_, fun _ => List.count_eq_zero.mpr fun h => one (List.mem_singleton.mp h)⟩
    have plain : ∀ x ∈ atWork.marks.toList.zipIdx, x.2 ≠ 0 → x.1 = .outside ∨ x.1 = .result := by decide +kernel
    unfold State.mark at h
    split at h
    next w =>
      have found := plain (.loaned n, b - 1) (List.mk_mem_zipIdx_iff_getElem?.mpr (by
        rw [Vector.getElem?_toList, Vector.getElem?_eq_getElem (by omega), h])) (by dsimp only; omega)
      exact absurd found (by simp)
    next => cases h

theorem atWork_ordered : atWork.ordered :=
  have empty : ∀ q : Pool, q ≠ 2 → atWork.queue q = [] := by decide +kernel
  have single : atWork.queue 2 = [12] := by decide +kernel
  { queues := fun q => if h : q = 2 then h ▸ single ▸ List.pairwise_singleton _ _ else empty q h ▸ List.Pairwise.nil
    deadlines := (List.pairwise_singleton _ _ : List.Pairwise _ [(12 : Slot)])
    ahead := by decide +kernel }

theorem atWork_servicesHold : atWork.servicesHold where
  classes := { valid := fun _ => by decide +kernel, queued := by decide +kernel, serving := by decide +kernel }
  idle := { print := by decide +kernel, scan := by decide +kernel, hold := by decide +kernel }
  prints := {
    chain := by unfold State.inWork; decide +kernel
    queued := by unfold JobRecord.reaches; decide +kernel
    serving := by unfold JobRecord.reaches; decide +kernel }
  scans := { queued := by decide +kernel, others := by decide +kernel, serving := by decide +kernel }
  holds :=
    have timed : ∀ p g, (atWork.port p).job = some g → (atWork.job g).cls = some .hold →
      (atWork.port p).hold.timer = some 1000 := by decide +kernel
    { queued := by decide +kernel, serving := fun p g h k => ⟨1000, timed p g h k, by decide +kernel⟩ }
  frames := by
    have silent : ∀ p, (atWork.port p).transmitter = {} := by decide +kernel
    have busy : ∀ p, (atWork.port p).print.phase ≠ .feeding ∧ (atWork.port p).scan.phase ≠ .opening ∧
      (atWork.port p).scan.phase ≠ .closing := by decide +kernel
    exact ⟨fun p n _ => silent p ▸ rfl, fun p _ => ⟨fun h => absurd h (busy p).1, fun h => absurd h (busy p).2.1,
      fun h => absurd h (busy p).2.2, fun _ _ _ => silent p ▸ rfl⟩⟩
  measured := {
    sheetsDone := by decide +kernel, holdRemaining := by decide +kernel, fill := by decide +kernel
    stored := by decide +kernel, queue := by decide +kernel }

theorem atWork_touchHolds : atWork.touchHolds :=
  have captured : ∀ p i, ∀ c ∈ (atWork.contact p i).captured, (atWork.mailbox c.station c.record).key = some (p, i) ∧
      (atWork.mailbox c.station c.record).lifted = false ∧ c.x ≤ 4095 ∧ c.y ≤ 4095 ∧ c.pressure ≤ 255 := by decide +kernel
  have zoned : ∀ p i, ∀ c ∈ (atWork.contact p i).zoned, c.zone < 16 := by decide +kernel
  have held : ∀ p i, ∀ c ∈ (atWork.contact p i).held, c.zone = 255 ∧
      ∃ g, (atWork.port p).job = some g ∧ stationOf g = c.station := by decide +kernel
  { keys := by decide +kernel
    captured := captured
    zoned := fun p i c h => zoned p i c (h ▸ rfl)
    held := fun p i c h => held p i c (h ▸ rfl)
    even := by decide +kernel
    panels := by decide +kernel
    resting := fun h => absurd rfl h }

theorem atWork_wellFormed : atWork.wellFormed := sound_wellFormed (by decide +kernel)
theorem atWork_structured : atWork.structured := agreeing_structured (by decide +kernel)

/-- A tick at work, with a deadline to come and no wait near its end. -/
theorem witness_StepKeepsTheOrder : atWork.structured ∧ atWork.ordered ∧
    (∀ g, (atWork.slot g).state = .queued ∨ (atWork.slot g).state = .serving → atWork.waits g + 1 < 2 ^ 32) ∧
    ∃ t, step { atWork with pending := .hallTick :: atWork.pending } = .next t ∧ t.ctl.clock = 1001 :=
  ⟨atWork_structured, atWork_ordered, by decide +kernel, step_after (by decide +kernel)⟩

/-- The SHEET that ends the print at work, and a MOVE of the held contact. -/
theorem witness_StepKeepsTheServices : atWork.wellFormed ∧ atWork.structured ∧ atWork.servicesHold ∧ atWork.touchHolds ∧
    (∃ t, step { atWork with pending := .sheetFrame 0 :: atWork.pending } = .next t ∧ (t.port 0).state = .free) ∧
    ∃ t, step { atWork with pending := .contactFrame 2 [⟨0, 2, 9, 9, 1⟩] :: atWork.pending } = .next t ∧
      (t.mailbox 2 0).seq = 4 :=
  ⟨atWork_wellFormed, atWork_structured, atWork_servicesHold, atWork_touchHolds, step_after (by decide +kernel),
    step_after (by decide +kernel)⟩

/-- The same SHEET, which gives the loan of block 1 back. -/
theorem witness_StepKeepsTheLoans : atWork.structured ∧ atWork.loansHold ∧ atWork.mark 1 = .loaned 1 ∧
    ∃ t, step { atWork with pending := .sheetFrame 0 :: atWork.pending } = .next t ∧ t.mark 1 = .outside :=
  ⟨atWork_structured, atWork_loansHold, by decide +kernel, step_after (by decide +kernel)⟩

theorem witness_RegistersChangeByTheirOwnCommands :
    (Instr.hallTick.wellFormed = true ∧ ∃ t, exec .hallTick { running with notice := 0x06 } = .next t ∧ t.notice = 0x06) ∧
    (∃ t, exec (.maskWrite 2) running = .next t ∧ t.ctl.mask = 2) ∧
    (∃ t, exec (.messagesEnabledChange true) running = .next t ∧ t.ctl.messagesEnabled = true) ∧
    ∃ t, exec .reset running = .next t ∧ t.ctl.work = {} :=
  ⟨⟨by decide, after_eq (by decide +kernel)⟩, after_eq (by decide +kernel), after_eq (by decide +kernel),
    after_eq (by decide +kernel)⟩

theorem witness_PartAtRestWritesNothing :
    ((partIn .stopped).atRest ∧ ∃ t, exec .start (partIn .stopped) = .next t ∧ t.ctl.engine = .starting) ∧
    State.reset.atRest ∧ State.reset.ctl.engine = .wiping ∧
      ∃ t, exec (.hostExchangeMemoryWrite 0x1FFFC 0xF 1) State.reset = .next t ∧ t.mem = [] :=
  ⟨⟨stopped_atRest, after_eq (by decide +kernel)⟩, resting_atRest (by decide +kernel), rfl, after_eq (by decide +kernel)⟩

theorem witness_WipeFollowsThePowerOn :
    (partIn .stopped).ctl.engine = .stopped ∧ State.reset.ctl.engine = .wiping ∧ running.ctl.engine ≠ .wiping := by
  decide +kernel

theorem witness_CommandsAreJudgedByState : running.ctl.engine = .running ∧ (partIn .draining).ctl.engine = .draining ∧
    (partIn .starting).ctl.engine = .starting ∧ (partIn .wiping).ctl.engine = .wiping ∧
    (partIn .stopped).ctl.engine = .stopped := by decide +kernel

/-- The fields at the lower and at the upper ends of their used ranges, and past them. -/
theorem witness_ConfigurationFieldsAreClamped :
    (let m := (withWords running [(0, 20), (4, 896), (0x0100, 0x01030701), (0x0104, 0x00010001), (0x0280, 0x003F0000),
        (0x0380, 0xFF0FC801)]).mem;
      field (readWord m 0) 0 16 = 20 ∧ field (readWord m 4) 0 16 = 896 ∧ field (readWord m 0x0100) 0 8 = 1 ∧
        field (readWord m 0x0100) 8 8 = 7 ∧ field (readWord m 0x0100) 16 8 = 3 ∧ field (readWord m 0x0100) 24 8 ≠ 0 ∧
        field (readWord m 0x0104) 0 16 ≠ 0 ∧ field (readWord m 0x0104) 16 8 ≠ 0 ∧ field (readWord m 0x0280) 16 7 = 63 ∧
        field (readWord m 0x0380) 0 8 = 1 ∧ field (readWord m 0x0380) 8 8 = 200 ∧ field (readWord m 0x0380) 16 8 = 15) ∧
    (let m := (withWords running [(0, 251), (4, 897), (0x0100, 0x00040804), (0x0280, 0x00400000), (0x0380, 0x0010C902)]).mem;
      field (readWord m 0) 0 16 = 251 ∧ field (readWord m 4) 0 16 = 897 ∧ field (readWord m 0x0100) 0 8 = 4 ∧
        field (readWord m 0x0100) 8 8 = 8 ∧ field (readWord m 0x0100) 16 8 = 4 ∧ field (readWord m 0x0100) 24 8 = 0 ∧
        field (readWord m 0x0104) 0 16 = 0 ∧ field (readWord m 0x0104) 16 8 = 0 ∧ field (readWord m 0x0280) 16 7 = 64 ∧
        field (readWord m 0x0380) 0 8 = 2 ∧ field (readWord m 0x0380) 8 8 = 201 ∧ field (readWord m 0x0380) 16 8 = 16) ∧
    (let m := (withWords running [(0, 250), (0x0380, 0x00010000)]).mem;
      field (readWord m 0) 0 16 = 250 ∧ field (readWord m 0x0380) 16 8 = 1) ∧
    field (readWord running.mem 0) 0 16 = 0 ∧ field (readWord running.mem 0x0380) 16 8 = 0 := by
  decide +kernel

/-- A port that sends nothing and one that sends its ASK. -/
theorem witness_ResetClearsTheRecords : printing.ctl.engine ≠ .wiping ∧ wireCharacters (printing.port 0).transmitter = [] ∧
    wireCharacters ((running.setPort 0 { transmitter := offer ⟨.ask, .probe⟩ {} }).port 0).transmitter ≠ [] := by
  decide +kernel

theorem witness_StopEndsTheWork : (waiting.wellFormed ∧ waiting.structured) ∧ (scanning.wellFormed ∧ scanning.structured) ∧
    (holding.wellFormed ∧ holding.structured) ∧ printing.wellFormed ∧ printing.structured ∧
    (partIn .draining).ctl.engine = .draining ∧ (waiting.ctl.engine = .running ∧ (waiting.slot 8).state = .queued) ∧
    (scanning.ctl.engine = .running ∧ (scanning.portConfig 1).cls = .scanner ∧ (scanning.port 1).job = some 4) ∧
    (holding.ctl.engine = .running ∧ (holding.portConfig 2).cls = .panel ∧ (holding.port 2).job = some 8) ∧
    printing.ctl.engine = .running ∧ (printing.portConfig 0).cls = .printer ∧ (printing.port 0).job = some 0 :=
  ⟨⟨waiting_wellFormed, waiting_structured⟩, ⟨scanning_wellFormed, scanning_structured⟩,
    ⟨holding_wellFormed, holding_structured⟩, printing_wellFormed, printing_structured, by decide +kernel⟩

/-- A HOLD and a ZONE entry of one panel that are captured by records of two stations, so that no record is lifted twice. -/
theorem witness_liftsWritten : Contact.captured (holding.contact 2 0) = some (heldAt 2 255) ∧
    Contact.captured (holding.contact 2 1) = some (heldAt 3 3) ∧ Contact.held (holding.contact 2 0) = some (heldAt 2 255) ∧
    Contact.zoned (holding.contact 2 1) = some (heldAt 3 3) ∧
    ∀ (r : Port) (k : Fin 10), Contact.captured (holding.contact r k) ≠ none → (r = 2 ∧ k = 0) ∨ (r = 2 ∧ k = 1) := by
  decide +kernel

theorem witness_RegisterReads : (having running fun c => { c with errorSubject := 11 }).ctl.errorSubject ≤ 11 ∧
    running.notice.getLsbD 0 = false ∧ (0x18 < 0x1C ∧ (1 ≤ 1 ∧ 7 ≤ 7)) := by decide +kernel

theorem witness_HostWritesActOnTheRegisters : running.ctl.engine = .running ∧ (partIn .draining).ctl.engine = .draining ∧
    State.reset.ctl.engine = .wiping ∧ (partIn .stopped).ctl.engine = .stopped ∧
    (partIn .starting).ctl.engine = .starting := by decide +kernel

/-- The last writable offset with lanes missing, the first CONTROL code and the first NUDGE number past the known ones, the
first offset past the writable ones and the last of the window; and both stops. -/
theorem witness_IgnoredRegisterWritesChangeNothing :
    (0x14 % 4 = 0 ∧ 0x14 < 64 ∧ (0x7 : BitVec 4) ≠ 0xF) ∧ (field (5 : Word) 0 8 = 5 ∧ field (0 : Word) 0 8 = 0) ∧
    (32 ≤ (32 : Word).toNat ∧ (32 : Word).toNat ≠ 63 ∧ (62 : Word).toNat ≠ 63 ∧ (64 : Word).toNat ≠ 63) ∧
    (0x3C % 4 = 0 ∧ 0x3C < 64 ∧ 0x3C ≠ 0x00) ∧ 0x3F % 4 ≠ 0 ∧ (64 % 4 = 0 ∧ 64 ≤ 64) := by decide +kernel

theorem witness_HostMemoryAccess : running.wellFormed ∧ State.reset.wellFormed ∧ running.ctl.engine ≠ .wiping ∧
    State.reset.ctl.engine = .wiping ∧ (0x1FFFC % 4 = 0 ∧ 0x1FFFC < 131072) ∧ 0x1FFFF % 4 ≠ 0 ∧
    (131072 % 4 = 0 ∧ 131072 ≤ 131072) :=
  ⟨running_wellFormed, sound_wellFormed (by decide +kernel), by decide +kernel, rfl, by decide, by decide, by decide⟩

/-! ### START -/

def copiedWith (w : WorkingCopy) : State := having (partIn .starting) fun c => { c with startPhase := .copied, work := w }

def mixedWork : WorkingCopy :=
  { ports := ((Vector.replicate 12 {}).set 0 { cls := .printer, pool := 7 }).set 11 { cls := .panel, pool := 7 } }

/-- One configuration for each answer of the validation, the deciding port and pool the last ones. -/
theorem witness_ValidationJudgesTheConfiguration :
    (let s := copiedWith { work with ports := work.ports.set 11 { cls := .bad } };
      s.ctl.engine = .starting ∧ s.ctl.startPhase = .copied ∧ (s.portConfig 11).cls = .bad ∧
        ∀ r, r < 11 → (s.portConfig r).cls ≠ .bad) ∧
    (let s := copiedWith {};
      s.ctl.engine = .starting ∧ s.ctl.startPhase = .copied ∧ ∀ p, (s.portConfig p).cls = .none) ∧
    (let s := copiedWith mixedWork;
      s.ctl.engine = .starting ∧ s.ctl.startPhase = .copied ∧ (∀ p, (s.portConfig p).cls ≠ .bad) ∧
        ((s.portConfig 0).cls ≠ .none ∧ (s.portConfig 11).cls ≠ .none ∧ (s.portConfig 0).pool = 7 ∧
          (s.portConfig 11).pool = 7 ∧ (s.portConfig 0).cls ≠ (s.portConfig 11).cls) ∧
        ∀ p, (s.portConfig p).cls ≠ .none → (s.portConfig p).pool = 7) ∧
    (let s := copiedWith work;
      s.ctl.engine = .starting ∧ s.ctl.startPhase = .copied ∧ (∀ p, (s.portConfig p).cls ≠ .bad) ∧
        (s.portConfig 0).cls ≠ .none ∧
        ∀ p r, (s.portConfig p).cls ≠ .none → (s.portConfig r).cls ≠ .none → (s.portConfig p).pool = (s.portConfig r).pool →
          (s.portConfig p).cls = (s.portConfig r).cls) := by
  decide +kernel

theorem witness_RebuildReadsTheMirrors :
    let s := withWords running [(0x2000, 2), (slotAddress 127, 3), (0x2080, 5)]
    s.wellFormed ∧ readOwner s.mem 0 = some .queued ∧ readOwner s.mem 127 = some .serving ∧ readOwner s.mem 2 = none :=
  ⟨sound_wellFormed (by decide +kernel), by decide +kernel⟩

/-- A FINISHED scan slot whose first result block is the last block. -/
def finishedScan (links : List (Nat × Word)) : State :=
  withWords running ([(0x2000, 4), (0x2004, 0x200), (0x2018, 0x10000004), (0x202C, 896)] ++ links)

/-- Result chains of two blocks that end, lead past the blocks, return to their first block and meet a marked one; a FINISHED
slot of another class. -/
theorem witness_RebuildWalksResultChains :
    ((finishedScan [(blockAddress 896, 1)]).wellFormed ∧ readOwner (finishedScan [(blockAddress 896, 1)]).mem 0 = some .finished ∧
      holdsResultChain (finishedScan [(blockAddress 896, 1)]).mem 0 = true ∧ [896, 1].Nodup ∧
      (∀ b ∈ [896, 1], 1 ≤ b ∧ b ≤ 896 ∧ (finishedScan [(blockAddress 896, 1)]).mark b = .outside) ∧
      (let m := (finishedScan [(blockAddress 896, 1)]).mem;
        readFirstResult m 0 :: [896, 1].map (readLink m) = [896, 1] ++ [0])) ∧
    (let m := (finishedScan [(blockAddress 896, 1), (blockAddress 1, 897)]).mem;
      readFirstResult m 0 :: [896, 1].map (readLink m) = [896, 1] ++ [897]) ∧
    (let m := (finishedScan [(blockAddress 896, 1), (blockAddress 1, 896)]).mem;
      readFirstResult m 0 :: [896, 1].map (readLink m) = [896, 1] ++ [896]) ∧
    ((finishedScan []).setMark 896 .result).mark 896 ≠ .outside ∧
    holdsResultChain (withWords (finishedScan []) [(0x2004, 0x100)]).mem 0 = false :=
  ⟨⟨sound_wellFormed (by decide +kernel), by decide +kernel⟩, by decide +kernel⟩

theorem witness_StartCompletes :
    let s := having (partIn .starting) fun c => { c with startPhase := .rebuilding 128 }
    s.wellFormed ∧ s.ctl.engine = .starting ∧ s.ctl.startPhase = .rebuilding 128 ∧ s.atRest ∧ (s.portConfig 2).cls = .panel ∧
      (s.portConfig 11).cls = .none :=
  ⟨sound_wellFormed (by decide +kernel), rfl, rfl, resting_atRest (by decide +kernel), by decide +kernel⟩

/-! ### Sweeps -/

def timedOut (c : Control) : Control := { c with sweepTimer := some 1000 }

theorem witness_WholeSweepsBegin :
    (reached running.ctl.clock 1000 = true ∧ (having running timedOut).ctl.sweepTimer = some 1000 ∧
      (having running timedOut).ctl.sweep = none ∧ ∀ st : Station, running.ctl.nudgeVisits[st.val] = false) ∧
    (having running fun c => { timedOut c with sweep := some ⟨false, 32⟩ }).ctl.sweep = some ⟨false, 32⟩ ∧
    (having running fun c => { timedOut c with sweep := some ⟨true, 0⟩ }).ctl.sweep = some ⟨true, 0⟩ ∧
    (¬ ∀ st : Station, (having running fun c => { timedOut c with
      nudgeVisits := c.nudgeVisits.set 31 true }).ctl.nudgeVisits[st.val] = false) ∧
    running.ctl.sweepTimer = none ∧ reached running.ctl.clock 1001 = false ∧
    (having running fun c => { c with nudgeSweep := true }).ctl.nudgeSweep = true ∧
    (having running fun c => { c with sweepHeld := true }).ctl.sweepHeld = true := by
  decide +kernel

/-- A request of the last station before a whole sweep's visit, that visit, the state between the last visit and the
closing steps, and a station that is not due. -/
theorem witness_VisitsSampleTheStationDue :
    (having (sweepingAt running 5) fun c => { c with nudgeVisits := c.nudgeVisits.set 31 true }).ctl.visitDue = some 31 ∧
    (sweepingAt running 31).ctl.visitDue = some 31 ∧ (sweepingAt running 32).ctl.visitDue ≠ some 31 ∧
    running.ctl.visitDue ≠ some 0 ∧ running.ctl.engine = .running ∧
    ((running.sample 31).state = .opened ∧ (readSample running.mem 31).state = .closed) ∧
    (readSample (withWords running [(stationAddress 31, 1)]).mem 31).state = .opened ∧
    (readSample (withWords running [(stationAddress 31, 2)]).mem 31).state = .suspended ∧
    ((having running fun c => { c with samples := c.samples.set 31 { state := .suspended } }).sample 31).state = .suspended := by
  decide +kernel

/-- A station whose entry is OPEN and stays so, with a QUEUED job and no cancel. -/
theorem witness_QuietVisitTouchesNoSlot :
    let s := sweepingAt (withWords waiting [(0x03C0, 0x00010A01)]) 2
    s.ctl.visitDue = some 2 ∧ (s.sample 2).state = (readSample s.mem 2).state ∧
      ∀ i : Fin 4, readOwner s.mem (slotOf 2 i) = some (s.slot (slotOf 2 i)).state ∧
        (s.slot (slotOf 2 i)).state ≠ .posted ∧
        ((s.slot (slotOf 2 i)).state = .queued ∨ (s.slot (slotOf 2 i)).state = .serving →
          readCancel s.mem (slotOf 2 i) = 0) := by
  decide +kernel

/-- Stations that close with a QUEUED job, a serving print, a serving scan and a serving hold, with contacts. -/
theorem witness_StationsClose : (waiting.wellFormed ∧ waiting.structured ∧ stationOf 8 = 2 ∧ (waiting.slot 8).state = .queued) ∧
    (printing.wellFormed ∧ printing.structured ∧ (printing.slot 0).state = .serving ∧ (printing.job 0).cls = some .print) ∧
    (scanning.wellFormed ∧ scanning.structured ∧ (scanning.slot 4).state = .serving ∧ (scanning.job 4).cls = some .scan ∧
      (scanning.job 4).port = some 1) ∧
    (holding.wellFormed ∧ holding.structured ∧ (holding.slot 8).state = .serving ∧ (holding.job 8).cls = some .hold ∧
      (holding.job 8).port = some 2 ∧ holding.contact 2 0 = .hold (heldAt 2 255) ∧
      holding.contact 2 1 = .zone (heldAt 3 3)) :=
  ⟨⟨waiting_wellFormed, waiting_structured, by decide +kernel⟩, ⟨printing_wellFormed, printing_structured, by decide +kernel⟩,
    ⟨scanning_wellFormed, scanning_structured, by decide +kernel⟩, holding_wellFormed, holding_structured, by decide +kernel⟩

theorem witness_ExaminationsByPair :
    (let s := withWords waiting [(0x2200, 0)];
      s.wellFormed ∧ (s.slot 8).state = .queued ∧ readOwner s.mem 8 = some .empty ∧
        (s.counters 2).handoverFaults < 65535) ∧
    (let s := (withWords waiting [(0x2200, 0)]).setCounters 2 { handoverFaults := 65535 };
      s.wellFormed ∧ (s.counters 2).handoverFaults = 65535) ∧
    (let s := (partIn .draining).setSlot 0 { state := .finished, job := { resultChain := [1, 896] } };
      (s.slot 0).state = .finished ∧ readOwner s.mem 0 = some .empty ∧
        readOwner (withWords s [(0x2000, 1)]).mem 0 = some .posted ∧ s.ctl.engine = .draining) ∧
    (let s := (withWords running [(0x2000, 1)]).setSlot 0 { state := .finished, job := { resultChain := [1, 896] } };
      (s.slot 0).state = .finished ∧ readOwner s.mem 0 = some .posted ∧ s.ctl.engine = .running) :=
  ⟨⟨sound_wellFormed (by decide +kernel), by decide +kernel⟩, ⟨sound_wellFormed (by decide +kernel), by decide +kernel⟩,
    by decide +kernel⟩

/-- A posted slot of station 2 with its station's sample and the word of its request. -/
def asked (x : StationSample) (request parameters : Word) : State :=
  having (posted running request parameters) fun c => { c with samples := c.samples.set 2 x }

theorem asked_wellFormed {x : StationSample} {request parameters : Word} (h : sound (asked x request parameters) = true) :
    (asked x request parameters).wellFormed := sound_wellFormed h

/-- One request for each check that fails: of a CLOSED station, without priority, of an unknown class, in a pool number 8,
in a pool of another class, not permitted, of block 0 and 897, of a block that is no OUTSIDE one, with a link to 897, and of
mode 0 and 4. -/
theorem witness_FailedCheckRefusesTheRequest :
    (let s := asked {} 0x00020300 5;
      s.wellFormed ∧ s.ctl.engine = .running ∧ (s.slot 8).state = .empty ∧ readOwner s.mem 8 = some .posted ∧
        (s.sample 2).state = .closed) ∧
    (let s := asked { state := .opened } 0x00020300 5;
      (s.sample 2).state ≠ .closed ∧ (s.sample 2).basePriority = 0) ∧
    (readRequest (asked openSample 0x00020400 5).mem 8).cls = none ∧
    (readRequest (asked openSample 0x00080300 5).mem 8).pool = 8 ∧
    (let s := asked openSample 0x00010300 5;
      (readRequest s.mem 8).cls = some .hold ∧ s.poolClass 1 ≠ servingClass .hold) ∧
    (let s := asked { openSample with mayHold := false } 0x00020300 5;
      s.poolClass 2 = servingClass .hold ∧ permits (s.sample 2) .hold = false) ∧
    (let s := asked openSample 0x00000100 0;
      (readRequest s.mem 8).cls = some .print ∧ s.poolClass 0 = servingClass .print ∧ permits (s.sample 2) .print = true ∧
        (readRequest s.mem 8).firstBlock = 0) ∧
    (readRequest (asked openSample 0x00000100 897).mem 8).firstBlock = 897 ∧
    (let s := (asked openSample 0x00000100 896).setMark 896 .spare;
      (readRequest s.mem 8).firstBlock = 896 ∧ s.mark 896 = .spare ∧ readLink s.mem 896 = 0) ∧
    (let s := withWords (asked openSample 0x00000100 1) [(0x4000, 897)];
      s.mark 1 = .outside ∧ readLink s.mem 1 = 897) ∧
    (let s := asked openSample 0x00010200 4;
      (readRequest s.mem 8).cls = some .scan ∧ s.poolClass 1 = servingClass .scan ∧ permits (s.sample 2) .scan = true ∧
        (readRequest s.mem 8).mode = 4) ∧
    (readRequest (asked openSample 0x00010200 0).mem 8).mode = 0 :=
  ⟨⟨asked_wellFormed (by decide +kernel), by decide +kernel⟩, by decide +kernel⟩

/-- A chain of the last block and the first, whose second block is marked SPARE, links past the blocks, or is reached again
after 896 blocks. -/
theorem witness_ChainWalksEnd :
    (let s := withWords running [(blockAddress 896, 0x00040001), (blockAddress 1, 0x00040000)];
      [896, 1].length ≤ 896 ∧ (∀ b ∈ [896, 1], 1 ≤ b ∧ b ≤ 896 ∧ s.mark b ≠ .spare ∧ s.mark b ≠ .result) ∧
        [896, 1].map (readLink s.mem) = [1] ++ [0] ∧ [896].map (readLink s.mem) = ([896] ++ [1]).tail ∧
        readLink s.mem 1 ≤ 896 ∧ (s.setMark 1 .spare).mark 1 = .spare ∧ (s.setMark 1 .result).mark 1 = .result) ∧
    (let s := withWords running [(blockAddress 896, 1), (blockAddress 1, 897)];
      [896].map (readLink s.mem) = ([896] ++ [1]).tail ∧ 896 < readLink s.mem 1) ∧
    (let s := withWords running [(blockAddress 1, 1)];
      let before := List.replicate 896 1;
      before.map (readLink s.mem) = (before ++ [1]).tail ∧ (before ++ [1]).head? = some 1 ∧ before.length = 896) := by
  decide +kernel

/-- A print of two blocks, a scan and a hold that pass, and a print with its cancel byte set. -/
theorem witness_PassedRequestIsQueued :
    (let s := withWords (asked openSample 0x04000100 1) [(0x2208, 1), (0x4000, 0x00040002), (0x4080, 0x00040000)];
      s.wellFormed ∧ s.ctl.engine = .running ∧ (s.slot 8).state = .empty ∧ readOwner s.mem 8 = some .posted ∧
        (readRequest s.mem 8).cancel = 0 ∧ (readRequest s.mem 8).deadline ≠ 0 ∧ (readRequest s.mem 8).urgency = 4 ∧
        s.validateRequest 2 (readRequest s.mem 8) = .ok ⟨.print, 0, [⟨1, false⟩, ⟨2, true⟩]⟩) ∧
    (let s := asked openSample 0x00010200 1;
      (readRequest s.mem 8).maxBytes = 0 ∧ s.validateRequest 2 (readRequest s.mem 8) = .ok ⟨.scan, 1, []⟩) ∧
    (let s := asked openSample 0x00020300 5;
      (readRequest s.mem 8).deadline = 0 ∧ s.validateRequest 2 (readRequest s.mem 8) = .ok ⟨.hold, 2, []⟩) ∧
    (let s := asked openSample 0x00020301 5;
      (readRequest s.mem 8).cancel ≠ 0 ∧ s.validateRequest 2 (readRequest s.mem 8) = .ok ⟨.hold, 2, []⟩) :=
  ⟨⟨sound_wellFormed (by decide +kernel), by decide +kernel⟩, by decide +kernel⟩

theorem witness_CancelByteActs :
    (let s := withWords waiting [(0x2204, 0x00020301)];
      s.wellFormed ∧ readCancel s.mem 8 ≠ 0 ∧ (s.slot 8).state = .queued ∧ readOwner s.mem 8 = some .queued) ∧
    (let s := withWords printing [(0x2004, 1)];
      s.wellFormed ∧ readCancel s.mem 0 ≠ 0 ∧ (s.slot 0).state = .serving ∧ readOwner s.mem 0 = some .serving ∧
        (s.job 0).cls = some .print) ∧
    (let s := (withWords running [(0x2000, 4), (0x2004, 1)]).setSlot 0 { state := .finished };
      s.wellFormed ∧ readCancel s.mem 0 ≠ 0 ∧ (s.slot 0).state = .finished ∧ readOwner s.mem 0 = some .finished) ∧
    (let s := withWords scanning [(0x2104, 1)];
      s.wellFormed ∧ readCancel s.mem 4 ≠ 0 ∧ (s.slot 4).state = .serving ∧ readOwner s.mem 4 = some .serving ∧
        (s.job 4).port = some 1 ∧ (s.job 4).cls = some .scan) ∧
    (let s := withWords holding [(0x2204, 1)];
      s.wellFormed ∧ readCancel s.mem 8 ≠ 0 ∧ (s.slot 8).state = .serving ∧ readOwner s.mem 8 = some .serving ∧
        (s.job 8).port = some 2 ∧ (s.job 8).cls = some .hold ∧ (s.port 2).hold.timer = some 1000) :=
  ⟨⟨sound_wellFormed (by decide +kernel), by decide +kernel⟩, ⟨sound_wellFormed (by decide +kernel), by decide +kernel⟩,
    ⟨sound_wellFormed (by decide +kernel), by decide +kernel⟩, ⟨sound_wellFormed (by decide +kernel), by decide +kernel⟩,
    sound_wellFormed (by decide +kernel), by decide +kernel⟩

theorem witness_WholeSweepEnds :
    (sweepingAt running 32).wellFormed ∧ running.ctl.engine = .running ∧
      (sweepingAt running 32).ctl.sweep = some ⟨false, 32⟩ ∧ (sweepingAt running 31).ctl.sweep = some ⟨false, 31⟩ ∧
      (running.portConfig 2).cls = .panel ∧ (running.portConfig 1).cls ≠ .panel ∧ running.word 0x08 = 0 ∧
      (withWords running [(8, 1)]).word 0x08 ≠ 0 ∧ running.ctl.sweep = none :=
  ⟨sound_wellFormed (by decide +kernel), by decide +kernel⟩

/-- The first index past the blocks, a chain's own block, and a chain of the last block and the first. -/
theorem witness_RefillWordIsSpliced :
    (let s := withWords running [(8, 897)];
      s.wellFormed ∧ 896 < (s.word 8).toNat) ∧
    (let s := (withWords running [(8, 896)]).setMark 896 (.loaned 1);
      s.wellFormed ∧ (s.word 8).toNat ≤ 896 ∧ s.mark 896 ≠ .outside) ∧
    (let s := withWords running [(8, 896), (blockAddress 896, 1)];
      s.wellFormed ∧ (s.word 8).toNat = 896 ∧ [896, 1].Nodup ∧ (∀ b ∈ [896, 1], 1 ≤ b ∧ b ≤ 896 ∧ s.mark b = .outside) ∧
        [896, 1].map (readLink s.mem) = [1, 0] ∧ [896].map (readLink s.mem) = ([896] ++ [1]).tail ∧
        (s.setMark 1 (.loaned 1)).mark 1 ≠ .outside) ∧
    (let s := withWords running [(8, 896), (blockAddress 896, 897)];
      [896].map (readLink s.mem) = ([896] ++ [897]).tail) ∧
    (let s := withWords running [(8, 1), (blockAddress 1, 1)];
      let before := List.replicate 896 1;
      before.map (readLink s.mem) = (before ++ [1]).tail ∧ (before ++ [1]).head? = some (s.word 8).toNat) :=
  ⟨⟨sound_wellFormed (by decide +kernel), by decide +kernel⟩, ⟨sound_wellFormed (by decide +kernel), by decide +kernel⟩,
    ⟨sound_wellFormed (by decide +kernel), by decide +kernel⟩, by decide +kernel⟩

/-- The spare chain of one block, with a scan that has starved for a byte. -/
def starvedBeside : State :=
  (((withWords scanning [(8, 896)]).setSpare [5]).setMark 5 .spare).modifyPort 1 fun x => { x with
    scan := { x.scan with phase := .starved, wanted := 111, starveTimer := some 2000 } }

theorem witness_SpareChainGrows : starvedBeside.wellFormed ∧ starvedBeside.structured ∧ (starvedBeside.word 8).toNat = 896 ∧
    starvedBeside.mark 896 = .outside ∧ [896].map (readLink starvedBeside.mem) = [] ++ [0] ∧
    starvedBeside.spare.getLast? = some 5 ∧ (starvedBeside.job 4).resultChain = [7] ∧ (starvedBeside.job 0).resultChain = [] :=
  ⟨sound_wellFormed (by decide +kernel), agreeing_structured (by decide +kernel), by decide +kernel⟩

/-! ### Queues, grants, ends -/

theorem witness_QueueKeepsItsOrder : (waiting.joinQueue 9).wellFormed ∧ (waiting.job 9).pool ≠ 2 ∧ waiting.queue 2 = [8] ∧
    waiting.wellFormed :=
  ⟨sound_wellFormed (by decide +kernel), by decide +kernel, by decide +kernel, waiting_wellFormed⟩

/-- The ends of the share weights, two slots of one station, and sums below 1 and above 255. -/
theorem witness_RankIsTheClampedSum : (1 ≤ 1 ∧ 15 ≤ 15) ∧
    (stationOf 8 = stationOf 9 ∧
      (let s := running.setSlot 8 { job := { pool := 2, acceptStamp := 900 } };
      let t := s.setSlot 9 { job := { pool := 2, acceptStamp := 900 } };
      (t.job 8).pool = (t.job 9).pool ∧ (t.job 8).urgency = (t.job 9).urgency ∧ t.bonusOf 8 = t.bonusOf 9)) ∧
    (let s := running.setCounters 0 { usage := 65535 };
      (max 1 (s.sample 0).basePriority : Int) + 4 * (s.job 0).urgency + s.bonusOf 0 -
        usagePenalty (s.counters 0).usage (s.sample 0).shareWeight < 1) ∧
    (let s := (having running fun c => { c with samples := c.samples.set 0 { basePriority := 200 } }).setSlot 0 {
        job := { urgency := 3, agedOut := true } };
      255 < (max 1 (s.sample 0).basePriority : Int) + 4 * (s.job 0).urgency + s.bonusOf 0 -
        usagePenalty (s.counters 0).usage (s.sample 0).shareWeight) := by
  decide +kernel

/-- Aging off; the latch set; the bonus below the cap and at it. -/
theorem witness_AgingBonusIsCapped :
    ((having running fun c => { c with work := {} }).pool 0).agingStep = 0 ∧ (running.pool 0).agingStep ≠ 0 ∧
    ((running.setSlot 0 { job := { agedOut := true } }).job 0).agedOut = true ∧
    (waiting.pool (waiting.job 8).pool).agingCap = 63 ∧ waiting.bonusOf 8 ≠ 63 ∧ (waiting.job 8).agedOut = false ∧
    (running.setSlot 0 { job := { agedOut := true } }).bonusOf 0 = 63 := by
  decide +kernel

/-- A waiting hold with a FREE panel and without one; a panel and a printer to preempt for slots of other stations. -/
theorem witness_SchedulerChoosesByRankAndLevel :
    waiting.bestWaiting 2 [(8, 10)] [] = some 8 ∧ waiting.bestWaiting 2 [(8, 10)] [8] = none ∧
    panelFree.freePort 2 = some 2 ∧ running.freePort 2 = none ∧
    holding.preemption 2 [(12, 51)] 12 = .endHold 2 8 ∧ printing.preemption 0 [(12, 51)] 12 = .askYield 0 ∧
    ((having holding fun c => { c with work := {} }).pool 2).preempt = false ∧
    (holding.poolClass 2 = .panel ∧ printing.poolClass 0 = .printer ∧ scanning.poolClass 1 = .scanner) ∧
    ((holding.portConfig 2).pool = 2 ∧ (holding.port 2).job = some 8 ∧ stationOf 8 ≠ stationOf 12 ∧
      (holding.port 2).holdLevel < rankIn [(12, 51)] 12 ∧ rankIn [(12, 50)] 12 ≤ (holding.port 2).holdLevel) := by
  decide +kernel

theorem witness_GrantPairsJobAndPort : waiting.wellFormed ∧ (waiting.job 8).firstGrant = none ∧
    (printing.job 0).firstGrant ≠ none := ⟨waiting_wellFormed, by decide +kernel⟩

/-- A print with a chain, the blocks 2 and 1 of four bytes and block 3 of none, at a phase of its first sheet. -/
def printOf (chain : List ChainEntry) (copies : Nat) (f : PrintService → PrintService) : State :=
  ((withWords printing [(0x4080, 0x00020000)]).updateJob 0 fun j => { j with chain, copies }).modifyPort 0
    fun x => { x with print := f x.print }

/-- A panel, a scanner below the resolution asked for, a ready printer and a busy one; a print that resumes at its second
sheet, whose first block has length 0. -/
theorem witness_ServiceStartsByClass : holding.wellFormed ∧ (withWords printing [(0x4000, 0)]).wellFormed ∧
    (holding.portConfig 2).cls = .panel ∧
    (let s := (scanning.modifyPort 1 fun x => { x with capability := 1 }).updateJob 4 fun j => { j with resolution := 2 };
      (s.portConfig 1).cls = .scanner ∧ (s.port 1).capability < (s.job 4).resolution) ∧
    ((scanning.portConfig 1).cls = .scanner ∧ (scanning.job 4).resolution ≤ (scanning.port 1).capability) ∧
    ((printing.portConfig 0).cls = .printer ∧ (printing.job 0).resumeSheet = 1 ∧
      (printing.job 0).chain = [] ++ [] ++ ⟨1, true⟩ :: [] ∧ readLength printing.mem 1 ≠ 0 ∧
      (printing.port 0).condition ≠ .busy) ∧
    (let s := (printOf [⟨1, true⟩, ⟨3, false⟩, ⟨2, true⟩] 1 id).updateJob 0 fun j => { j with resumeSheet := 2 };
      (s.job 0).chain = [⟨1, true⟩] ++ [⟨3, false⟩] ++ ⟨2, true⟩ :: [] ∧
        ([⟨1, true⟩] : List ChainEntry).getLast?.map ChainEntry.sheetEnd = some true ∧
        ([⟨1, true⟩].filter ChainEntry.sheetEnd).length + 1 = (s.job 0).resumeSheet ∧ readLength s.mem 3 = 0 ∧
        readLength s.mem 2 ≠ 0) ∧
    ((printing.modifyPort 0 fun x => { x with condition := .busy }).port 0).condition = .busy ∧
    (let s := (withWords printing [(0x4000, 0), (0x4080, 0x00020000)]).updateJob 0 fun j => { j with
        chain := [⟨1, true⟩, ⟨2, true⟩] };
      readLength s.mem 1 = 0 ∧ readLength s.mem 2 ≠ 0 ∧ (s.port 0).yieldPending = false ∧ 1 < sheetsPerCopy (s.job 0).chain) ∧
    (printing.job 0).copies ≤ (printing.job 0).resumeCopy ∧ readLength (withWords printing [(0x4000, 0)]).mem 1 = 0 ∧
    (printing.job 0).cancelLatch = false :=
  ⟨holding_wellFormed, sound_wellFormed (by decide +kernel), by decide +kernel⟩

theorem witness_ReviewsGrantInRunningOnly : waiting.structured ∧ (partIn .draining).ctl.engine = .draining ∧
    State.reset.ctl.engine = .wiping ∧ (partIn .stopped).ctl.engine = .stopped ∧ (partIn .starting).ctl.engine = .starting ∧
    waiting.ctl.engine = .running ∧ ∀ p, (waiting.portConfig p).cls ≠ .none → (waiting.portConfig p).pool = 2 → p = 2 :=
  ⟨waiting_structured, by decide +kernel⟩

/-- A hold with a second left, and one whose time is just over. -/
theorem witness_PreemptedHoldIsRequeued : holding.wellFormed ∧ (holding.port 2).hold.timer = some 1000 ∧
    (holding.job 8).serviceGrant = some 900 ∧ (1000 : Stamp) - holding.ctl.clock = 0 ∧
    ((holding.modifyPort 2 fun x => { x with hold := { x.hold with timer := some 2000 } }).port 2).hold.timer = some 2000 :=
  ⟨holding_wellFormed, by decide +kernel⟩

/-- A print, a scan and a hold at their services, a job that was never granted, and counts at their maximum. -/
theorem witness_FinishWritesTheResults : (printing.wellFormed ∧ (printing.job 0).cls = some .print ∧
      (printing.slot 0).state = .serving ∧ (printing.setMark 1 (.loaned 1)).mark 1 = .loaned 1 ∧
      ((printing.job 0).chain.map ChainEntry.block).count 1 = 1) ∧
    (scanning.wellFormed ∧ (scanning.job 4).cls = some .scan) ∧ (holding.wellFormed ∧ (holding.job 8).cls = some .hold) ∧
    (waiting.wellFormed ∧ (waiting.job 8).firstGrant = none) ∧
    (printing.setCounters 0 { jobsFinished := 65535, usage := 65535 }).wellFormed :=
  ⟨⟨printing_wellFormed, by decide +kernel⟩, ⟨scanning_wellFormed, by decide +kernel⟩,
    ⟨holding_wellFormed, by decide +kernel⟩, ⟨waiting_wellFormed, by decide +kernel⟩, sound_wellFormed (by decide +kernel)⟩

/-! ### The clock and the timers -/

theorem witness_HallTickRaisesTheClock : (∀ g e, running.deadlines.head? = some g → (running.job g).expiry = some e →
      reached running.ctl.clock e = false) ∧
    timerReached running.ctl.clock running.ctl.sweepTimer = false ∧
    timerReached running.ctl.clock running.ctl.decayTimer = false ∧
    (∀ p, timerReached running.ctl.clock (running.port p).transmitter.responseTimer = false ∧
      timerReached running.ctl.clock (running.port p).probeTimer = false ∧
      timerReached running.ctl.clock (running.port p).print.sheetTimer = false ∧
      timerReached running.ctl.clock (running.port p).scan.starveTimer = false ∧
      timerReached running.ctl.clock (running.port p).hold.timer = false) ∧ 2 ^ 31 - 1 < 2 ^ 31 :=
  ⟨(fun _ _ h => nomatch h), by decide +kernel⟩

theorem witness_DeadlineExpiryFinishesTheJob : waiting.wellFormed ∧ waiting.ctl.engine = .running ∧ waiting.deadlines = [8] ∧
    (waiting.job 8).expiry = some 1000 ∧ reached waiting.ctl.clock 1000 = true ∧ (waiting.slot 8).state = .queued ∧
    reached (having waiting fun c => { c with clock := 999 }).ctl.clock 1000 = false ∧ running.deadlines = [] :=
  ⟨waiting_wellFormed, by decide +kernel⟩

theorem witness_DecayHalvesTheScores : running.wellFormed ∧ running.ctl.engine = .running ∧
    (having running fun c => { c with decayTimer := some 1000 }).ctl.decayTimer = some 1000 ∧
    reached running.ctl.clock 1000 = true ∧ running.ctl.decayTimer = none ∧ reached running.ctl.clock 1001 = false ∧
    1 ≤ ((running.setCounters 31 { usage := 1 }).counters 31).usage :=
  ⟨running_wellFormed, by decide +kernel⟩

/-- A FAULTED port whose probe timer is reached, idle and with a frame outstanding; a PROBING one; an idle transmitter, a
sent frame, a sent reply with another reply and with a frame behind it. -/
theorem witness_TransmitterSendsAndProbes :
    (let x := (running.setPort 0 { state := .faulted, probeTimer := some 1000 }).port 0;
      timerReached running.ctl.clock x.probeTimer = true ∧ x.state = .faulted ∧ x.transmitter.outstanding = none ∧
        x.transmitter.sending = .idle ∧ x.transmitter.replies = []) ∧
    (let x := (running.setPort 0 { state := .faulted, probeTimer := some 1000, transmitter := awaiting .ask .probe 1 }).port 0;
      timerReached running.ctl.clock x.probeTimer = true ∧ x.transmitter.outstanding ≠ none) ∧
    (running.port 0).state ≠ .faulted ∧
    ((running.setPort 0 { transmitter := offer ⟨.ask, .probe⟩ {} }).port 0).transmitter.sending = .outstanding ∧
    ((running.setPort 0 { transmitter := offer ⟨.ask, .probe⟩ {} }).port 0).transmitter.outstanding =
      some ⟨⟨.ask, .probe⟩, 1, .beingSent⟩ ∧
    (let x := offer ⟨.ask, .probe⟩ (placeReply .ack {});
      x.sending = .reply .ack ∧ x.replies = [] ∧ x.outstanding = some ⟨⟨.ask, .probe⟩, 1, .awaitingSend⟩) ∧
    (placeReply .nak (placeReply .ack {})).sending = .reply .ack ∧ (placeReply .nak (placeReply .ack {})).replies = [.nak] ∧
    ((placeReply .ack {}).outstanding = none ∧ (placeReply .ack {}).replies = []) ∧
    (let x := (running.setPort 0 { transmitter := placeReply .ack {} }).port 0;
      wireCharacters x.transmitter = [(0x10, true), (0, false), (0xF0, false)] ∧ x.output[2]? = some (0xF0, false)) ∧
    wireCharacters (printing.port 0).transmitter = [] := by
  decide +kernel

/-- R97: the header of an ACK on the line, 0x10 least significant bit first and its mark, and the rest after the frame. -/
theorem test_line_levels :
    let x := (running.setPort 0 { transmitter := placeReply .ack {} }).port 0
    (List.range 11).map x.level = [false, false, false, false, false, true, false, false, false, true, true] ∧
      x.level 33 = true := by
  decide +kernel

def probingAfter (sends : Nat) (st : PortState) : State :=
  running.setPort 0 { state := st, transmitter := awaiting .ask .probe sends }

/-- A frame of a service that has been sent for the third time. -/
def sentThrice (s : State) (p : Port) : State := s.modifyPort p fun x => { x with
  transmitter := awaiting .closeScan (.service x.grantNumber) 3 }

/-- The second send and the third, at a PROBING port, a FREE one and a FAULTED one. -/
theorem witness_UnansweredSendsFailAtTheThird : (probingAfter 2 .probing).wellFormed ∧ (probingAfter 3 .free).wellFormed ∧
    (probingAfter 3 .faulted).wellFormed ∧
    (probingAfter 3 .probing).wellFormed ∧ (sentThrice panelFree 2).wellFormed ∧
    ((probingAfter 2 .probing).modifyPort 0 fun x => { x with counters := { resend := max32 } }).wellFormed ∧
    ((probingAfter 3 .probing).port 0).state = .probing ∧
    ((probingAfter 3 .probing).port 0).transmitter.outstanding = some ⟨⟨.ask, .probe⟩, 3, .awaitingAnswer⟩ ∧
    timerReached 1000 ((probingAfter 3 .probing).port 0).transmitter.responseTimer = true ∧
    (probingAfter 3 .probing).ctl.clock = 1000 ∧
    (((probingAfter 2 .probing).modifyPort 0 fun x => { x with counters := { resend := max32 } }).port 0).counters.resend =
      4294967295 ∧
    (((sentThrice panelFree 2).port 2).state = .free ∧
      Contact.captured ((sentThrice panelFree 2).contact 2 1) = some (heldAt 3 3)) ∧
    ((probingAfter 3 .faulted).port 0).condition ≠ .lineSilent ∧
    (((probingAfter 3 .faulted).modifyPort 0 fun x => { x with condition := .lineSilent }).port 0).condition = .lineSilent :=
  have once {s : State} (h : sound s = true) := sound_wellFormed h
  ⟨once (by decide +kernel), once (by decide +kernel), once (by decide +kernel), once (by decide +kernel),
    once (by decide +kernel), once (by decide +kernel), by decide +kernel⟩

def starved : State := scanning.modifyPort 1 fun x => { x with scan := { x.scan with phase := .starved, starveTimer := some 1000 } }

theorem witness_ScanEndsByItsCause :
    (starved.wellFormed ∧ timerReached starved.ctl.clock (starved.port 1).scan.starveTimer = true ∧
      (starved.port 1).scan.phase = .starved ∧ (starved.port 1).state = .serving ∧ (starved.portConfig 1).cls = .scanner ∧
      (starved.port 1).job = some 4 ∧ (starved.job 4).cls = some .scan) ∧
    timerReached scanning.ctl.clock (scanning.port 1).scan.starveTimer = false ∧
    (scanning.wellFormed ∧ (scanning.port 1).state = .serving ∧ (scanning.port 1).scan.phase = .taking ∧
      (scanning.job 4).firstGrant ≠ none ∧ (scanning.job 4).port = some 1 ∧ (scanning.slot 4).state = .serving ∧
      (10 : Word).toNat = (scanning.port 1).scan.stored ∧ (11 : Word).toNat ≠ (scanning.port 1).scan.stored) ∧
    ((panelFree.port 2).state ≠ .offline ∧ (panelFree.port 2).state ≠ .serving) ∧
    (scanning.structured ∧ scanning.ctl.engine = .running ∧ (scanning.portConfig 1).cls = .scanner ∧
      (scanning.port 1).job = some 4 ∧ (scanning.job 4).cls = some .scan ∧ (scanning.job 4).faults < 2) ∧
    ((sentThrice scanning 1).wellFormed ∧ (sentThrice scanning 1).structured ∧
      ((sentThrice scanning 1).port 1).transmitter.outstanding = some ⟨⟨.closeScan, .service 1⟩, 3, .awaitingAnswer⟩ ∧
      timerReached scanning.ctl.clock ((sentThrice scanning 1).port 1).transmitter.responseTimer = true) ∧
    (let s := scanning.updateJob 4 fun j => { j with faults := 2 };
      s.wellFormed ∧ s.structured ∧ (s.job 4).faults = 2) :=
  ⟨⟨sound_wellFormed (by decide +kernel), by decide +kernel⟩, by decide +kernel,
    ⟨scanning_wellFormed, by decide +kernel⟩, by decide +kernel, ⟨scanning_structured, by decide +kernel⟩,
    ⟨sound_wellFormed (by decide +kernel), agreeing_structured (by decide +kernel), by decide +kernel⟩,
    sound_wellFormed (by decide +kernel), agreeing_structured (by decide +kernel), by decide +kernel⟩

theorem witness_HoldEndsInFull : holding.wellFormed ∧ (sentThrice holding 2).wellFormed ∧
    (holding.updateJob 8 fun j => { j with faults := 2 }).wellFormed ∧
    ((holding.updateJob 8 fun j => { j with faults := 2 }).job 8).faults = 2 ∧
    timerReached holding.ctl.clock (holding.port 2).hold.timer = true ∧
    (holding.port 2).hold.phase = .holding ∧ (holding.port 2).state = .serving ∧ (holding.portConfig 2).cls = .panel ∧
    (holding.port 2).job = some 8 ∧ (holding.job 8).cls = some .hold ∧
    timerReached 999 (holding.port 2).hold.timer = false ∧ (having holding fun c => { c with clock := 999 }).ctl.clock = 999 ∧
    (holding.ctl.engine = .running ∧ (holding.job 8).resultChain = [] ∧ (holding.port 2).hold.timer = some 1000 ∧
      (holding.job 8).faults < 2) ∧
    ((sentThrice holding 2).port 2).transmitter.outstanding = some ⟨⟨.closeScan, .service 1⟩, 3, .awaitingAnswer⟩ ∧
    timerReached holding.ctl.clock ((sentThrice holding 2).port 2).transmitter.responseTimer = true :=
  ⟨holding_wellFormed, sound_wellFormed (by decide +kernel), sound_wellFormed (by decide +kernel), by decide +kernel⟩

/-- A print serving at port 0 of a part that drains. -/
def drainingPrint : State := having printing fun c => { c with engine := .draining }

/-- The print without a fault so far, and the one whose third fault comes; after three sends; under each latch; in a part
that drains, alone and beside another print at port 3. -/
theorem witness_FaultEndsAPrint : printing.wellFormed ∧ printing.ctl.engine = .running ∧
    ((printing.port 0).state = .serving ∧ (printing.portConfig 0).cls = .printer ∧ (printing.port 0).job = some 0 ∧
      (printing.job 0).cls = some .print ∧ (printing.job 0).serviceGrant = some 900 ∧ (printing.job 0).resultChain = [] ∧
      timerReached printing.ctl.clock (printing.port 0).print.sheetTimer = true ∧ (printing.job 0).faults < 2 ∧
      (printing.job 0).cancelLatch = false ∧ (printing.job 0).closeLatch = false) ∧
    (printing.updateJob 0 fun j => { j with faults := 2 }).wellFormed ∧
    ((printing.updateJob 0 fun j => { j with faults := 2 }).job 0).faults = 2 ∧
    ((sentThrice printing 0).wellFormed ∧
      ((sentThrice printing 0).port 0).transmitter.outstanding = some ⟨⟨.closeScan, .service 1⟩, 3, .awaitingAnswer⟩ ∧
      timerReached printing.ctl.clock ((sentThrice printing 0).port 0).transmitter.responseTimer = true) ∧
    (((printing.updateJob 0 fun j => { j with cancelLatch := true, closeLatch := true }).job 0).cancelLatch = true ∧
      ((printing.updateJob 0 fun j => { j with closeLatch := true }).job 0).cancelLatch = false ∧
      ((printing.updateJob 0 fun j => { j with closeLatch := true }).job 0).closeLatch = true) ∧
    (drainingPrint.wellFormed ∧ drainingPrint.ctl.engine = .draining ∧
      ∀ r, r ≠ 0 → (drainingPrint.port r).state ≠ .serving) ∧
    ((drainingPrint.setPort 3 { state := .serving }).wellFormed ∧
      ((drainingPrint.setPort 3 { state := .serving }).port 3).state = .serving) :=
  ⟨printing_wellFormed, by decide +kernel, by decide +kernel, sound_wellFormed (by decide +kernel), by decide +kernel,
    ⟨sound_wellFormed (by decide +kernel), by decide +kernel⟩, by decide +kernel,
    ⟨sound_wellFormed (by decide +kernel), by decide +kernel⟩, sound_wellFormed (by decide +kernel), by decide +kernel⟩

/-! ### Lines -/

/-- A GOOD, a NOISY and a FRAMING character, and a false start. -/
theorem witness_CharacterQualityIsJudgedFirst :
    (qualify (characterOf 0x21 true)).map (·.quality) = some .good ∧
    (qualify { characterOf 0x21 true with mark := ⟨true, false, true⟩ }).map (·.quality) = some .noisy ∧
    (qualify { characterOf 0x21 true with stop := ⟨false, false, true⟩ }).map (·.quality) = some .framing ∧
    qualify { characterOf 0x21 true with start := high } = none := by
  decide +kernel

def receiving (r : Receiver) : State := printing.modifyPort 0 fun x => { x with receiver := r }

/-- The receiver hunting, after a low stop bit, and at each place of a frame; with and without a high sample before the start
bit, and a false start; a count at its maximum; lengths 0, 1, 120 and 121; the last payload character and the one
before. -/
theorem witness_ReceiverTakesCharacters : printing.wellFormed ∧ (receiving (.awaitLength 0x22)).wellFormed ∧
    (receiving (.awaitPayload 0x22 2 [])).wellFormed ∧ (receiving .lineLow).wellFormed ∧ (printing.port 0).state ≠ .offline ∧
    (running.port 0).state = .offline ∧ (printing.port 0).receiver = .hunting ∧
    qualify (characterOf 0 false) = some ⟨0, false, .good⟩ ∧ qualify (characterOf 1 false) = some ⟨1, false, .good⟩ ∧
    qualify (characterOf 120 false) = some ⟨120, false, .good⟩ ∧ qualify (characterOf 121 false) = some ⟨121, false, .good⟩ ∧
    qualify (characterOf 0x21 true) = some ⟨0x21, true, .good⟩ ∧
    ((receiving (.awaitLength 0x22)).port 0).receiver = .awaitLength 0x22 ∧
    ((receiving (.awaitPayload 0x22 2 [])).port 0).receiver = .awaitPayload 0x22 2 [] ∧
    ((receiving (.awaitPayload 0x22 2 [7])).port 0).receiver = .awaitPayload 0x22 2 [7] ∧
    ((receiving .lineLow).port 0).receiver = .lineLow ∧ (characterOf 0 false).afterHigh = true ∧
    { characterOf 0 false with afterHigh := false }.afterHigh = false ∧
    qualify { characterOf 0 false with start := high } = none :=
  ⟨printing_wellFormed, sound_wellFormed (by decide +kernel), sound_wellFormed (by decide +kernel),
    sound_wellFormed (by decide +kernel), by decide +kernel⟩

theorem witness_ReceiverCountsAtTheMaximum :
    let s := printing.modifyPort 0 fun x => { x with counters := { noise := max32, framing := max32 } }
    s.wellFormed ∧ (s.port 0).counters.noise = 4294967295 ∧ (s.port 0).counters.framing = 4294967295 :=
  ⟨sound_wellFormed (by decide +kernel), by decide +kernel⟩

/-- R98: a character with a low stop bit is counted as a framing error; no further start edge exists while the line stays low. -/
theorem test_line_held_low :
    let held := { characterOf 0 false with stop := low }
    (after (.characterReceived 0 held) printing fun t =>
      ((t.port 0).receiver, (t.port 0).counters.framing)) = some (.lineLow, 1) ∧
    after (.characterReceived 0 { held with afterHigh := false }) (receiving .lineLow) (fun t =>
      ((t.port 0).receiver, (t.port 0).counters.framing)) = some (.lineLow, 0) := by
  decide +kernel

/-- A SHEET whose check holds and one whose check fails; a failed IMAGE that the scan takes; an unknown kind; a
STATE of a condition that the port's class does not report. -/
theorem witness_FramesAreJudgedWhenComplete :
    (((receiving (.awaitCheck 0x21 [])).port 0).state ≠ .offline ∧
      ((receiving (.awaitCheck 0x21 [])).port 0).receiver = .awaitCheck 0x21 [] ∧
      qualify (characterOf 0xDF false) = some ⟨0xDF, false, .good⟩ ∧ checkHolds 0x21 [] 0xDF = true ∧
      parseFrame 0x21 [] = some .sheet) ∧
    checkHolds 0x21 [] 0xDE = false ∧
    (scanning.wellFormed ∧ checkHolds 0x22 [1] 0 = false ∧ (scanning.port 1).state = .serving ∧
      (scanning.portConfig 1).cls = .scanner ∧ (scanning.port 1).job ≠ none ∧ (scanning.port 1).scan.phase = .taking) ∧
    (checkHolds 0x30 [] 0xD0 = true ∧ parseFrame 0x30 [] = none) ∧
    goodFrame (scanning.portConfig 1).cls (.state 3 0) = false ∧ (running.port 0).state = .offline :=
  ⟨by decide +kernel, by decide +kernel, ⟨scanning_wellFormed, by decide +kernel⟩, by decide +kernel⟩

/-- Payload lengths at the ends of their ranges. -/
theorem witness_PeripheralFramesAreParsed : (List.replicate 120 (0 : Byte)).length = 120 ∧ ([0] : List Byte).length = 1 ∧
    120 < (List.replicate 121 (0 : Byte)).length ∧ (List.replicate 10 (default : ContactReport)).length = 10 ∧
    (0x24 = 0x24 → ([0] : List Byte).length % 7 ≠ 0) ∧ ([] : List Byte).length = 0 ∧ 70 < (List.replicate 77 (0 : Byte)).length ∧ (0x24 : Byte) ∉ ([0x10, 0x11, 0x20, 0x21, 0x22, 0x23] : List Byte) := by
  decide +kernel

/-- READY at a PROBING port; JAM there and at a FREE one; BUSY at a FREE one, at a FAULTED one and at a serving scanner; an
OFFLINE port; a condition that a panel does not report. -/
theorem witness_StateActsByPortState : (probingAfter 1 .probing).wellFormed ∧
    ((probingAfter 1 .probing).portConfig 0).cls = .printer ∧ ((probingAfter 1 .probing).port 0).state = .probing ∧
    goodCondition .printer 1 = some .ready ∧ goodCondition .printer 2 = some .busy ∧ goodCondition .printer 4 = some .jam ∧
    ((panelFree.port 2).state = .free ∧ goodCondition .panel 7 = some .panelFault ∧ goodCondition .panel 3 = none ∧
      Contact.captured (panelFree.contact 2 1) = some (heldAt 3 3)) ∧
    ((probingAfter 1 .faulted).port 0).state = .faulted ∧
    ((scanning.port 1).state = .serving ∧ (scanning.port 1).job ≠ none ∧ (scanning.portConfig 1).cls ≠ .printer) ∧
    (running.port 0).state = .offline ∧ (printing.port 0).condition = .ready ∧ (printing.port 0).capability = 0 ∧
    (printing.port 0).state = .serving ∧ (printing.port 0).job = some 0 ∧ (printing.portConfig 0).cls = .printer ∧
    (printing.port 0).print.phase ≠ .stalled :=
  ⟨sound_wellFormed (by decide +kernel), by decide +kernel⟩

/-- A FAULTED port whose probe has just offered ASK: being sent on an idle line, behind a reply on one that is not. -/
def askDue (sending : Sending) (phase : SendPhase) (sends : Nat) : State :=
  running.setPort 0 { state := .faulted, transmitter :=
    { sending, outstanding := some ⟨⟨.ask, .probe⟩, sends, phase⟩ } }

/-- READY at an ASK whose first send is in progress, which it takes from the outstanding place; at one whose first send is to
come; and at one that is sent again (R110, R122). -/
theorem witness_ReadyOvertakesTheAsk : (askDue .outstanding .beingSent 1).wellFormed ∧
    (askDue (.reply .ack) .awaitingSend 1).wellFormed ∧ (askDue .outstanding .beingSent 2).wellFormed ∧
    ((askDue .outstanding .beingSent 1).port 0).state = .faulted ∧
    ((askDue .outstanding .beingSent 1).portConfig 0).cls = .printer ∧
    after (.stateFrame 0 1 0) (askDue .outstanding .beingSent 1) (fun t => (t.port 0).transmitter) =
      some { sending := .withdrawn .ask } :=
  ⟨sound_wellFormed (by decide +kernel), sound_wellFormed (by decide +kernel), sound_wellFormed (by decide +kernel),
    by decide +kernel⟩

theorem witness_ReadyActsAtAStalledPrint :
    let s := printing.modifyPort 0 fun x => { x with condition := .busy, print := { x.print with phase := .stalled, busy := true } }
    s.wellFormed ∧ (s.port 0).print.phase = .stalled ∧ (s.job 0).chain[(s.port 0).print.entry]? = some ⟨1, true⟩ ∧
      readLength s.mem 1 ≠ 0 ∧ (s.port 0).condition ≠ .ready :=
  ⟨sound_wellFormed (by decide +kernel), by decide +kernel⟩

/-- A print of two sheets at its first. -/
def twoSheets : State :=
  (withWords printing [(0x4080, 0x00020000)]).updateJob 0 fun j => { j with chain := [⟨1, true⟩, ⟨2, true⟩] }

def printIn (f : PrintService → PrintService) : State := printing.modifyPort 0 fun x => { x with print := f x.print }

/-- A print of two copies at its last sheet, a yield pending, and a print of station 1 in the queue. -/
def yielding (s : State) : State :=
  { ((withWords s [(0x2080, 2)]).updateJob 0 fun j => { j with copies := 2 }).modifyPort 0 fun x => { x with yieldPending := true }
      with
    queues := (Vector.replicate 8 []).set 0 [4] }

/-- The last sheet's end by each of its causes, a SHEET that is early, and one that is too many. -/
theorem witness_SheetConfirmsThePrint : printing.wellFormed ∧ (printing.port 0).print.phase = .sheetWait ∧
    printing.ctl.engine = .running ∧ sheetsPerCopy (printing.job 0).chain ≤ (printing.port 0).print.sheet ∧
    (printing.job 0).copies ≤ (printing.port 0).print.copy ∧
    ((printing.updateJob 0 fun j => { j with cancelLatch := true }).job 0).cancelLatch = true ∧
    ((printing.updateJob 0 fun j => { j with closeLatch := true }).job 0).closeLatch = true ∧
    (having printing fun c => { c with engine := .draining }).ctl.engine = .draining ∧
    ((printIn fun v => { v with phase := .feeding }).port 0).print.phase = .feeding ∧
    ((printIn fun v => { v with phase := .feeding, early := true }).port 0).print.early = true ∧
    ((printIn fun v => { v with phase := .stalled }).port 0).print.phase = .stalled ∧
    (panelFree.port 2).state ≠ .offline ∧ (panelFree.port 2).state ≠ .serving :=
  ⟨printing_wellFormed, by decide +kernel⟩

/-- A sheet that follows, at once, after a block of length 0, under the BUSY flag, in the next copy, and behind an empty sheet;
and an empty sheet that is the last. -/
theorem witness_NextSheetBegins :
    (twoSheets.wellFormed ∧ (twoSheets.port 0).print.sheet < sheetsPerCopy (twoSheets.job 0).chain ∧
      (twoSheets.port 0).yieldPending = false ∧ (twoSheets.port 0).print.busy = false ∧
      (twoSheets.job 0).chain.drop (sheetStart (twoSheets.job 0).chain 2) = [] ++ ⟨2, true⟩ :: [] ∧ readLength twoSheets.mem 2 ≠ 0) ∧
    (let s := printOf [⟨1, true⟩, ⟨3, false⟩, ⟨2, true⟩] 1 fun v => { v with busy := true };
      s.wellFormed ∧ (s.port 0).print.busy = true ∧ (s.port 0).print.phase = .sheetWait ∧
        (s.job 0).chain.drop (sheetStart (s.job 0).chain 2) = [⟨3, false⟩] ++ ⟨2, true⟩ :: [] ∧ readLength s.mem 3 = 0 ∧
        readLength s.mem 2 ≠ 0) ∧
    (let s := printOf [⟨1, true⟩] 2 id;
      s.wellFormed ∧ sheetsPerCopy (s.job 0).chain ≤ (s.port 0).print.sheet ∧ (s.port 0).print.copy < (s.job 0).copies ∧
        (s.job 0).chain.drop (sheetStart (s.job 0).chain 1) = [] ++ ⟨1, true⟩ :: []) ∧
    (let s := printOf [⟨1, true⟩, ⟨3, true⟩, ⟨2, true⟩] 1 id;
      s.wellFormed ∧ (s.port 0).print.sheet + 1 < sheetsPerCopy (s.job 0).chain ∧
        (s.job 0).chain.drop (sheetStart (s.job 0).chain 2) = [] ++ ⟨3, true⟩ :: [⟨2, true⟩] ∧ readLength s.mem 3 = 0 ∧
        (s.job 0).chain.drop (sheetStart (s.job 0).chain 3) = [] ++ ⟨2, true⟩ :: []) ∧
    let s := printOf [⟨1, true⟩, ⟨3, true⟩] 1 id
    s.wellFormed ∧ (s.job 0).cls = some .print ∧
      (s.job 0).chain.drop (sheetStart (s.job 0).chain 2) = [] ++ ⟨3, true⟩ :: [] ∧ readLength s.mem 3 = 0 ∧
      sheetsPerCopy (s.job 0).chain ≤ 2 ∧ (s.job 0).copies ≤ 1 :=
  have sure {s : State} (h : sound s = true) := sound_wellFormed h
  ⟨⟨sure (by decide +kernel), by decide +kernel⟩, ⟨sure (by decide +kernel), by decide +kernel⟩,
    ⟨sure (by decide +kernel), by decide +kernel⟩, ⟨sure (by decide +kernel), by decide +kernel⟩, sure (by decide +kernel),
    by decide +kernel⟩

/-- A yield asked for before the last sheet and after it, of a job that is outranked and of one that is not. -/
theorem witness_YieldIsAsked : (yielding printing).wellFormed ∧
    ((yielding printing).modifyPort 0 fun x => { x with holdLevel := 1 }).wellFormed ∧ (yielding twoSheets).wellFormed ∧
    (((yielding printing).port 0).yieldPending = true ∧
      ((yielding printing).port 0).print.phase = .sheetWait ∧ ((yielding printing).job 0).serviceGrant = some 900 ∧
      sheetsPerCopy ((yielding printing).job 0).chain ≤ 1 ∧ ((yielding printing).port 0).print.copy < 2 ∧
      ((yielding printing).job 0).chain.drop (sheetStart ((yielding printing).job 0).chain 1) = [] ++ ⟨1, true⟩ :: [] ∧
      readLength (yielding printing).mem 1 ≠ 0 ∧ 4 ∈ (yielding printing).queue 0 ∧
      ((yielding printing).sample (stationOf 4)).state = .opened ∧ stationOf 4 ≠ stationOf 0 ∧
      (yielding printing).rankOf 4 ≤ ((yielding printing).port 0).holdLevel) ∧
    (let s := (yielding printing).modifyPort 0 fun x => { x with holdLevel := 1 };
      (s.port 0).holdLevel < s.rankOf 4) ∧
    ((yielding twoSheets).port 0).print.sheet < sheetsPerCopy ((yielding twoSheets).job 0).chain ∧
    ((yielding twoSheets).job 0).chain.drop (sheetStart ((yielding twoSheets).job 0).chain 2) = [] ++ ⟨2, true⟩ :: [] :=
  ⟨sound_wellFormed (by decide +kernel), sound_wellFormed (by decide +kernel), sound_wellFormed (by decide +kernel),
    by decide +kernel⟩

/-- The scan with one spare block, its current block as given with a fill. -/
def scanFrom (current : Option Nat) (fill : Nat) : State :=
  ((scanning.setSpare [896]).setMark 896 .spare).modifyPort 1 fun x => { x with scan := { x.scan with current, fill } }

/-- With room for the bytes below the maximum and at it, without room, and at a panel; a block to take without a current one,
after a full one and after one with room for some bytes. -/
theorem witness_ImageIsStoredOrPaused : scanning.wellFormed ∧
    (scanning.updateJob 4 fun j => { j with maxBytes := 1000 }).wellFormed ∧ (scanning.port 1).state = .serving ∧
    (scanning.portConfig 1).cls = .scanner ∧ (scanning.port 1).job = some 4 ∧ (scanning.port 1).scan.phase = .taking ∧
    (scanning.port 1).scan.current = some 7 ∧
    ((scanning.port 1).scan.fill + min 110 ((scanning.job 4).maxBytes - (scanning.port 1).scan.stored) = 120 ∧
      (scanning.port 1).scan.stored + 110 = (scanning.job 4).maxBytes) ∧
    (let s := scanning.updateJob 4 fun j => { j with maxBytes := 1000 };
      120 - (s.port 1).scan.fill + 120 * s.spare.length < 111 ∧ 111 ≤ (s.job 4).maxBytes - (s.port 1).scan.stored) ∧
    (panelFree.port 2).state ≠ .offline ∧ (panelFree.port 2).state ≠ .serving :=
  ⟨scanning_wellFormed, sound_wellFormed (by decide +kernel), by decide +kernel⟩

theorem witness_ImageTakesASpareBlock : ((scanFrom none 0).wellFormed ∧ (scanFrom none 0).structured) ∧
    ((scanFrom (some 7) 120).wellFormed ∧ (scanFrom (some 7) 120).structured) ∧
    ((scanFrom (some 7) 119).wellFormed ∧ (scanFrom (some 7) 119).structured) ∧
    ((scanFrom none 0).port 1).scan.current = none ∧ (scanFrom none 0).spare = [896] ∧
    ((scanFrom (some 7) 120).port 1).scan.current = some 7 ∧ 7 ∉ (scanFrom (some 7) 120).spare ∧
    ((scanFrom (some 7) 120).port 1).scan.fill = 120 ∧ ((scanFrom (some 7) 119).port 1).scan.fill = 119 ∧ 120 < 119 + 2 :=
  have sure {s : State} (h : sound s = true) (k : agreeing s = true) := And.intro (sound_wellFormed h) (agreeing_structured k)
  ⟨sure (by decide +kernel) (by decide +kernel), sure (by decide +kernel) (by decide +kernel),
    sure (by decide +kernel) (by decide +kernel), by decide +kernel⟩

def scanAwaiting (f : AnswerFrame) : State := scanning.modifyPort 1 fun x => { x with transmitter := awaiting f (.service 1) 1 }

def printAwaiting (f : AnswerFrame) (grant : Nat) : State := printing.modifyPort 0 fun x => { x with
  print := { x.print with phase := .feeding }, transmitter := awaiting f (.service grant) 3 }

/-- OPEN-SCAN, CLOSE-SCAN, a FEED of the current service and one of an ended service, and an ASK. -/
theorem witness_AckCompletesTheFrame :
    ((scanAwaiting (.openScan 1 1)).wellFormed ∧ ((scanAwaiting (.openScan 1 1)).port 1).state = .serving ∧
      ((scanAwaiting (.openScan 1 1)).port 1).transmitter.outstanding =
        some ⟨⟨.openScan 1 1, .service ((scanAwaiting (.openScan 1 1)).port 1).grantNumber⟩, 1, .awaitingAnswer⟩) ∧
    (((scanAwaiting .closeScan).port 1).job = some 4 ∧ ((scanAwaiting .closeScan).job 4).cls = some .scan) ∧
    ((printAwaiting (.feed [0]) 1).wellFormed ∧ ((printAwaiting (.feed [0]) 1).job 0).chain[0]? = some ⟨1, true⟩ ∧
      ((printAwaiting (.feed [0]) 1).port 0).print.entry = 0 ∧
      ((printAwaiting (.feed [0]) 1).port 0).print.early = false) ∧
    FrameOwner.service 0 ≠ .service ((printAwaiting (.feed [0]) 0).port 0).grantNumber ∧
    ((probingAfter 1 .probing).port 0).transmitter.outstanding = some ⟨⟨.ask, .probe⟩, 1, .awaitingAnswer⟩ :=
  ⟨⟨sound_wellFormed (by decide +kernel), by decide +kernel⟩, by decide +kernel,
    ⟨sound_wellFormed (by decide +kernel), by decide +kernel⟩, by decide +kernel⟩

/-- A frame answered while it is the only one, while another waits, and beside a reply. -/
theorem witness_FrameIsCompleted : (awaiting .ask .probe 1).waiting = none ∧
    (let t := offer ⟨.closeScan, .service 1⟩ (awaiting (.openScan 1 1) (.service 1) 1);
      t.waiting = some ⟨.closeScan, .service 1⟩ ∧ t.sending = .idle ∧ t.replies = [] ∧ (placeReply .ack t).sending ≠ .idle ∧
        (placeReply .ack t).waiting = some ⟨.closeScan, .service 1⟩) ∧
    { offer ⟨.closeScan, .service 1⟩ (awaiting .ask .probe 1) with replies := [.ack] }.replies = .ack :: [] := by
  decide +kernel

/-- The FEED of a print at its first entry that awaits its ACK. -/
def fedAt (chain : List ChainEntry) (f : PrintService → PrintService) : State :=
  (printOf chain 1 fun v => f { v with phase := .feeding }).modifyPort 0 fun x => { x with
    transmitter := awaiting (.feed [0]) (.service 1) 1 }

/-- An unmarked entry before a block of length 0 and one of two bytes, with the BUSY flag clear and set; before a marked block
of length 0, with the early-SHEET flag clear and set; a marked entry with the flag set, with a sheet to come and without. -/
theorem witness_AckReachesTheNextEntry :
    (fedAt [⟨1, false⟩, ⟨3, false⟩, ⟨2, true⟩] id).wellFormed ∧
    (fedAt [⟨1, false⟩, ⟨3, false⟩, ⟨2, true⟩] fun v => { v with busy := true }).wellFormed ∧
    (fedAt [⟨1, false⟩, ⟨3, true⟩] id).wellFormed ∧ (fedAt [⟨1, true⟩, ⟨2, true⟩] fun v => { v with early := true }).wellFormed ∧
    (let s := fedAt [⟨1, false⟩, ⟨3, false⟩, ⟨2, true⟩] id;
      (s.port 0).state = .serving ∧ (s.portConfig 0).cls = .printer ∧ (s.port 0).job = some 0 ∧
        (s.job 0).chain[(s.port 0).print.entry]? = some ⟨1, false⟩ ∧
        (s.job 0).chain.drop ((s.port 0).print.entry + 1) = [⟨3, false⟩] ++ ⟨2, true⟩ :: [] ∧ readLength s.mem 3 = 0 ∧
        readLength s.mem 2 ≠ 0 ∧ (s.port 0).print.busy = false) ∧
    ((fedAt [⟨1, false⟩] fun v => { v with busy := true }).port 0).print.busy = true ∧
    (let s := fedAt [⟨1, false⟩, ⟨3, true⟩] id;
      (s.job 0).chain.drop 1 = [] ++ ⟨3, true⟩ :: [] ∧ readLength s.mem 3 = 0 ∧ (s.port 0).print.fed = true ∧
        (s.port 0).print.early = false ∧ 1 ≤ (s.job 0).copies) ∧
    (let s := fedAt [⟨1, true⟩, ⟨2, true⟩] fun v => { v with early := true };
      (s.port 0).print.early = true ∧ (s.job 0).chain[0]? = some ⟨1, true⟩ ∧ nextSheet (s.job 0) 1 1 = some (1, 2) ∧
        (s.job 0).chain.drop (sheetStart (s.job 0).chain 2) = [] ++ ⟨2, true⟩ :: [] ∧ readLength s.mem 2 ≠ 0) ∧
    nextSheet ((fedAt [⟨1, true⟩] id).job 0) 1 1 = none :=
  have sure {s : State} (h : sound s = true) := sound_wellFormed h
  ⟨sure (by decide +kernel), sure (by decide +kernel), sure (by decide +kernel), sure (by decide +kernel), by decide +kernel⟩

/-! ### Touch -/

def panelWith (c : Contact) : State := panelFree.modifyPort 2 fun x => { x with contacts := x.contacts.set 9 c }

/-- Malformed reports of phase 0, of phase 4, of identity 10 and of one past the capability; contact 9, the last: new in the
zone and at its corner, beside it, of a CLOSED station, under a hold, held by a zone, stray and after an end; contact 0, held by a hold. -/
theorem witness_ContactReportsAreRouted : panelFree.wellFormed ∧ holding.wellFormed ∧
    ((panelFree.portConfig 2).cls = .panel ∧ (panelFree.port 2).state = .free ∧
      panelFree.ctl.engine = .running ∧ 9 < (panelFree.port 2).capability ∧ panelFree.contact 2 9 = .none) ∧
    ((0 : Byte).toNat ∉ [1, 2, 3] ∧ (4 : Byte).toNat ∉ [1, 2, 3] ∧ 10 ≤ (10 : Byte).toNat ∧
      ((panelFree.modifyPort 2 fun x => { x with capability := 9 }).port 2).capability ≤ 9) ∧
    ((panelFree.port 2).zones[3].enabled = true ∧ (panelFree.port 2).zones[3].station = 3 ∧
      (panelFree.port 2).zones[3].x1 = 200 ∧ (panelFree.port 2).zones[3].y1 = 200 ∧
      (∀ w : Fin 16, w < 3 → (panelFree.port 2).zones[w.val].enabled = false) ∧ 200 < min 4095 201) ∧
    ((having panelFree fun c => { c with samples := c.samples.set 3 {} }).sample 3).state = .closed ∧
    (panelFree.sample 3).state ≠ .closed ∧ panelFree.chooseRecord 3 (2, 9) = some (0, true) ∧
    ({ panelFree with mailboxes := panelFree.mailboxes.set 3 (Vector.replicate 4 { key := some (5, 0) }) } : State).chooseRecord 3 (2, 9) =
      none ∧
    ((holding.port 2).state = .serving ∧ (holding.port 2).job = some 8 ∧ holding.contact 2 9 = .none ∧
      holding.chooseRecord (stationOf 8) (2, 9) = some (0, true)) ∧
    ((panelWith (.zone (heldAt 3 3))).contact 2 9 = .zone (heldAt 3 3) ∧ (panelWith .orphan).contact 2 9 = .orphan ∧
      (panelWith .dropped).contact 2 9 = .dropped ∧ holding.contact 2 0 = .hold (heldAt 2 255)) ∧
    (printing.portConfig 0).cls ≠ .panel ∧ (printing.port 0).state ≠ .offline ∧
    ([⟨9, 2, 0, 0, 0⟩] : List ContactReport).length = 1 ∧ (List.replicate 9 (⟨9, 2, 0, 0, 0⟩ : ContactReport)).length = 9 :=
  ⟨panelFree_wellFormed, holding_wellFormed, by decide +kernel⟩

/-- A known contact whose id is no longer below the contact count, and a hold's contact for which no record is free. -/
theorem witness_KnownContactsAreRouted :
    (let s := (panelWith .orphan).modifyPort 2 fun x => { x with capability := 0 };
      s.wellFormed ∧ ¬ 9 < (s.port 2).capability ∧ s.contact 2 9 ≠ .none) ∧
    let s := { holding with mailboxes := holding.mailboxes.set 2 (Vector.replicate 4 { key := some (5, 0) }) }
    s.wellFormed ∧ (s.port 2).state = .serving ∧ (s.port 2).job = some 8 ∧ s.contact 2 9 = .none ∧
      s.chooseRecord (stationOf 8) (2, 9) = none :=
  ⟨⟨sound_wellFormed (by decide +kernel), by decide +kernel⟩, sound_wellFormed (by decide +kernel), by decide +kernel⟩

/-- The greatest position and pressure; a record that holds the key, a free one, and none. -/
theorem witness_MailboxWritesKeepTheAck : panelFree.wellFormed ∧ (4095 ≤ 4095 ∧ 255 ≤ 255) ∧
    (panelFree.mailbox 3 3).key = none ∧
    (let s := panelFree.setMailbox 3 1 { key := some (2, 9) };
      (s.mailbox 3 1).key = some (2, 9)) ∧
    (let s := { panelFree with mailboxes := panelFree.mailboxes.set 3 (Vector.replicate 4 { key := some (5, 0) }) };
      ∀ k, (s.mailbox 3 k).key ≠ some (2, 9) ∧ (s.mailbox 3 k).key ≠ none ∧ (s.mailbox 3 k).lifted = false) :=
  ⟨panelFree_wellFormed, by decide +kernel⟩

theorem witness_MailboxGainsSetTheNotice : (panelFree.sample 3).notify = true ∧ (panelFree.mailbox 3 0).events.down = false ∧
    ((panelFree.setMailbox 3 0 { seq := 2, key := some (2, 9), events := { down := true } }).mailbox 3 0).events.down = true ∧
    ((having panelFree fun c => { c with samples := c.samples.set 3 {} }).sample 3).notify = false := by
  decide +kernel
end Sys2Proof.Tests
end

/-! The usage penalty and the rank (R70, R71). -/
section

namespace Sys2Proof.Machine

/-! ### The usage penalty (R70) -/

theorem usagePenalty_le (usage weight : Nat) : usagePenalty usage weight ≤ 63 := Nat.min_le_left _ _

theorem usagePenalty_eq_zero_of_lt {usage weight : Nat} (h : usage < weight * 16) : usagePenalty usage weight = 0 := by
  rw [usagePenalty, Nat.div_eq_of_lt h, Nat.min_zero]

/-- The cap is reached at 63 × w × 16 = 1,008 × w. -/
theorem usagePenalty_eq_cap_iff {usage weight : Nat} (hw : 1 ≤ weight) :
    usagePenalty usage weight = 63 ↔ 1008 * weight ≤ usage := by
  have divisor_pos : 0 < weight * 16 := by omega
  rw [usagePenalty, min_eq_left_iff, Nat.le_div_iff_mul_le divisor_pos]
  omega

/-! ### The rank (R71) -/

/-- The rank as a signed integer: the clamp keeps the sum positive, so going back to a natural number loses nothing. -/
theorem rankValue_cast (base urgency bonus penalty : Nat) :
    (rankValue base urgency bonus penalty : Int) =
      max 1 (min 255 ((base : Int) + 4 * urgency + bonus - penalty)) :=
  Int.toNat_of_nonneg (Int.le_trans (by decide) (Int.le_max_left 1 _))

/-- The sum before the clamp lies between 1 + 0 + 0 − 63 and 200 + 12 + 63. -/
theorem rankSum_bounds {base urgency bonus penalty : Nat} (hpos : 1 ≤ base) (hb : base ≤ 200) (hu : urgency ≤ 3)
    (ha : bonus ≤ 63) (hp : penalty ≤ 63) :
    -62 ≤ (base : Int) + 4 * urgency + bonus - penalty ∧ (base : Int) + 4 * urgency + bonus - penalty ≤ 275 := by
  omega

/-- Every term of the rank besides urgency and bonus is the station's. -/
theorem State.rankOf_congr (s : State) {g h : Slot} (hst : stationOf g = stationOf h)
    (hu : (s.job g).urgency = (s.job h).urgency) (ha : s.bonusOf g = s.bonusOf h) : s.rankOf g = s.rankOf h := by
  unfold State.rankOf
  rw [hst, hu, ha]

/-- Settles O33: the clauses on the rank are the cases of the clamp, each read off `rankValue_cast`. -/
theorem rankIsTheClampedSum : Obligations.RankIsTheClampedSum := by
  refine ⟨fun usage weight hlow hhigh => ?penalty, fun s g => ?rank, fun s g h hst _ hu ha => s.rankOf_congr hst hu ha⟩
  case penalty =>
    exact ⟨by omega, by omega, rfl, usagePenalty_eq_zero_of_lt, usagePenalty_eq_cap_iff hlow⟩
  case rank =>
    intro st base penalty sum
    have clamped : (s.rankOf g : Int) = max 1 (min 255 sum) := rankValue_cast _ _ _ _
    have bounds (hb : base ≤ 200) (hu : (s.job g).urgency ≤ 3) (ha : s.bonusOf g ≤ 63) : -62 ≤ sum ∧ sum ≤ 275 :=
      rankSum_bounds (Nat.le_max_left 1 _) hb hu ha (usagePenalty_le _ _)
    clear_value sum
    refine ⟨?_, rankOf_le s g, ?_, ?_, ?_, bounds⟩ <;> omega

end Sys2Proof.Machine
end

/-! The check of a frame (R100), and the quality and bits of a received character (R97 to R99). -/
section

namespace Sys2Proof.Machine

/-! ### The check of a frame (R100) -/

theorem checkOf_toNat (kind : Byte) (payload : List Byte) :
    (checkOf kind payload).toNat = (256 - frameSum kind payload % 256) % 256 := by
  rw [checkOf, BitVec.toNat_ofNat]
  exact Nat.mod_mod _ _

theorem checkHolds_iff (kind : Byte) (payload : List Byte) (check : Byte) :
    checkHolds kind payload check = true ↔ (frameSum kind payload + check.toNat) % 256 = 0 := beq_iff_eq

/-- A byte has one value below 256 that completes the sum, so the receiver's condition leaves the sender's byte alone. -/
theorem checkHolds_iff_eq_checkOf (kind : Byte) (payload : List Byte) (check : Byte) :
    checkHolds kind payload check = true ↔ check = checkOf kind payload := by
  have byte : check.toNat < 256 := check.isLt
  rw [checkHolds_iff, ← BitVec.toNat_inj, checkOf_toNat]
  omega

theorem frameSum_nil (kind : Byte) : frameSum kind [] = kind.toNat := by simp [frameSum]

theorem frameCharacters_getLast? (kind : Byte) (payload : List Byte) :
    (frameCharacters kind payload).getLast? = some (checkOf kind payload, false) :=
  List.getLast?_concat

/-- Settles O49: the clauses are the formula, the condition, and the one byte that meets it. -/
theorem checkCharacterCompletesTheSum : Obligations.CheckCharacterCompletesTheSum := by
  intro kind payload check
  refine ⟨checkOf_toNat kind payload, checkHolds_iff kind payload check, checkHolds_iff_eq_checkOf kind payload check,
    frameCharacters_getLast? kind payload, ?_⟩
  rintro rfl
  rw [checkOf_toNat, frameSum_nil]

/-! ### The bits of a received character (R97, R98) -/

/-- The majority of three samples counts: it is high where at least two of them are. -/
theorem majority_iff (b : BitSamples) :
    majority b = true ↔ 2 ≤ b.first.toNat + b.second.toNat + b.third.toNat := by
  obtain ⟨x, y, z⟩ := b
  revert x y z
  decide

theorem disagrees_iff (b : BitSamples) : disagrees b = true ↔ ¬ (b.first = b.second ∧ b.second = b.third) := by
  simp [disagrees, imp_iff_not_or]

/-- Bit `i` of the number that bits sent least significant first make is the `i`-th bit's majority, 0 past the last one. -/
theorem testBit_sampled (bits : List BitSamples) (i : Nat) :
    (bits.foldr (fun b rest => (majority b).toNat + 2 * rest) 0).testBit i = bits[i]?.any majority := by
  induction bits generalizing i with
  | nil => simp
  | cons b rest ih =>
    rw [List.foldr_cons, Nat.add_comm, ← Nat.bit_val]
    cases i with
    | zero => simp
    | succ i => simp [Nat.testBit_bit_succ, ih]

theorem getLsbD_sampledByte (bits : Vector BitSamples 8) {i : Nat} (hi : i < 8) :
    (sampledByte bits.toList).getLsbD i = majority bits[i] := by
  rw [sampledByte, BitVec.getLsbD_ofNat, testBit_sampled]
  simp [hi]

/-! ### The quality of a received character (R99) -/

/-- Some bit of the character has samples that disagree. -/
def anyDisagrees (c : LineCharacter) : Bool :=
  disagrees c.start || c.data.toList.any disagrees || disagrees c.mark || disagrees c.stop

theorem anyDisagrees_iff (c : LineCharacter) :
    anyDisagrees c = true ↔ disagrees c.start = true ∨ (∃ i : Fin 8, disagrees c.data[i.val] = true) ∨
      disagrees c.mark = true ∨ disagrees c.stop = true := by
  have someData : c.data.toList.any disagrees = true ↔ ∃ i : Fin 8, disagrees c.data[i.val] = true := by
    rw [Vector.any_toList, Vector.any_eq_true]
    exact ⟨fun ⟨i, hi, h⟩ => ⟨⟨i, hi⟩, h⟩, fun ⟨i, h⟩ => ⟨i, i.isLt, h⟩⟩
  simp only [anyDisagrees, Bool.or_eq_true, someData, or_assoc]

/-- What a character is whose start bit qualified. -/
theorem eq_of_qualify {c : LineCharacter} {ch : Character} (h : qualify c = some ch) :
    ch = { data := sampledByte c.data.toList
           mark := majority c.mark
           quality := if majority c.stop = false then .framing else if anyDisagrees c then .noisy else .good } := by
  unfold qualify at h
  split at h
  · cases h
  · simpa [anyDisagrees] using h.symm

theorem quality_of_qualify {c : LineCharacter} {ch : Character} (h : qualify c = some ch) :
    (ch.quality = .framing ↔ ¬ majority c.stop = true) ∧
    (ch.quality = .noisy ↔ anyDisagrees c = true ∧ majority c.stop = true) ∧
    (ch.quality = .good ↔ ¬ anyDisagrees c = true ∧ majority c.stop = true) := by
  rw [eq_of_qualify h]
  cases majority c.stop with
  | false => simp
  | true => cases anyDisagrees c <;> simp

/-! ### The receiver and a spoiled character (R99, R102) -/

@[simp] theorem State.port_setReceiver (s : State) (p : Port) (r : Receiver) :
    (s.setReceiver p r).port p = { s.port p with receiver := r } := s.port_modifyPort p _

@[simp] theorem State.countNoise_receiver (s : State) (p : Port) :
    ((s.countNoise p).port p).receiver = (s.port p).receiver := by
  rw [State.countNoise, State.port_updateLineCounters]

@[simp] theorem State.countFraming_receiver (s : State) (p : Port) :
    ((s.countFraming p).port p).receiver = (s.port p).receiver := by
  rw [State.countFraming, State.port_updateLineCounters]

theorem State.receive_spoiled_receiver (s : State) (p : Port) {ch : Character} (h : ch.quality ≠ .good) :
    ((s.receive p ch).port p).receiver = .hunting := by
  obtain ⟨data, mark, quality⟩ := ch
  cases quality with
  | good => exact absurd rfl h
  | noisy => simp [State.receive]
  | framing => simp [State.receive]

/-- Settles O50: `high` and `mixed` are the model's `majority` and `disagrees`. -/
theorem characterQualityIsJudgedFirst : Obligations.CharacterQualityIsJudgedFirst := by
  intro c ch h
  simp only [← majority_iff, ← disagrees_iff, ← anyDisagrees_iff]
  obtain ⟨framing, noisy, good⟩ := quality_of_qualify h
  refine ⟨framing, noisy, good, ?mark, fun i => ?data, fun s p => s.receive_spoiled_receiver p⟩
  case mark => rw [eq_of_qualify h]
  case data => rw [eq_of_qualify h, getLsbD_sampledByte c.data i.isLt]

end Sys2Proof.Machine
end

/-! The gain of DOWN or UP by a mailbox write, and its notice (R171, R173). -/
section

namespace Sys2Proof.Machine

theorem State.replaces_iff (s : State) (st : Station) (r : Fin 4) (newlyTaken : Bool) :
    s.replaces st r newlyTaken = true ↔
      newlyTaken = true ∨ (s.word (mailboxAddress st r + 0x04)).extractLsb' 0 16 = (s.mailbox st r).seq := by
  simp only [State.replaces, State.mailAck, Bool.or_eq_true, beq_iff_eq]

theorem gains_iff (e : MailEvents) (replace : Bool) (phase : TouchPhase) :
    gains e replace phase = true ↔
      (phase = .down ∧ (replace = true ∨ e.down = false)) ∨ (phase = .up ∧ (replace = true ∨ e.up = false)) := by
  cases phase <;> simp [gains]

/-- Of the steps of a mailbox write only the last, taken on a gain at a station with the notify flag, reaches
STATION_NOTICE. -/
theorem State.mailboxWrite_stationNotice (s : State) (st : Station) (r : Fin 4) (newlyTaken : Bool) (m : MailReport) :
    (s.mailboxWrite st r newlyTaken m).stationNotice =
      if gains (s.mailbox st r).events (s.replaces st r newlyTaken) m.phase = true ∧ (s.sample st).notify = true then
        s.stationNotice ||| stationMask st
      else s.stationNotice := by
  simp only [State.mailboxWrite, ← Bool.and_eq_true]
  split <;> simp

/-- Settles O60: `gained` is the model's `gains` with `replaces`, on which `mailboxWrite_stationNotice` turns. -/
theorem mailboxGainsSetTheNotice : Obligations.MailboxGainsSetTheNotice := by
  intro s st r newlyTaken m b replaced gained
  have gained_iff : gains b.events (s.replaces st r newlyTaken) m.phase = true ↔ gained := by
    rw [gains_iff, s.replaces_iff]
  rw [s.mailboxWrite_stationNotice, ← gained_iff]
  refine ⟨fun gain notify => if_pos ⟨gain, notify⟩, fun nothing => if_neg ?quiet, fun move => ?moved,
    s.clearMailbox_stationNotice st r⟩
  case quiet =>
    rintro ⟨gain, notify⟩
    rcases nothing with noGain | noNotify
    · exact noGain gain
    · simp [notify] at noNotify
  case moved => simp [move, gains]

end Sys2Proof.Machine
end

/-! One command: what it keeps of the command queue and the clock, the one message that it sends, and the invariant of the
data (R7, R8, R48). -/
section

namespace Sys2Proof.Machine

variable {s t u : State} {c : Instr}

/-! ### The front command -/

theorem step_cons {rest : List Instr} (h : s.pending = c :: rest) : step s = exec c { s with pending := rest } := by
  unfold step
  rw [h]

theorem step_nil (h : s.pending = []) : step s = .next s := by
  unfold step
  rw [h]

/-- A step is a command on the state that it leaves the queue's rest, or nothing. -/
theorem step_cases (h : step s = .next t) :
    t = s ∨ ∃ c rest, s.pending = c :: rest ∧ exec c { s with pending := rest } = .next t := by
  cases e : s.pending with
  | nil => rw [step_nil e] at h; exact .inl (Host.Outcome.next.inj h).symm
  | cons c rest => exact .inr ⟨c, rest, rfl, step_cons e ▸ h⟩

/-- Settles O1. -/
theorem stepRunsTheFrontCommand : Obligations.StepRunsTheFrontCommand :=
  ⟨fun _ _ _ h => step_cons h, fun _ h => step_nil h⟩

/-! ### What a command keeps before its message and with it -/

/-- The command queue, the clock and the count of messages stand, and the invariant of the data is kept. -/
structure Unsent (s u : State) : Prop where
  pending : u.pending = s.pending
  clock : u.ctl.clock = s.ctl.clock
  sent : u.ctl.messagesSent = s.ctl.messagesSent
  data : s.wellFormed → u.wellFormed

/-- The same, with the one message of the request's rise. -/
structure Sent (s t : State) : Prop where
  pending : t.pending = s.pending
  clock : t.ctl.clock = s.ctl.clock
  sent : t.ctl.messagesSent = s.ctl.messagesSent + messageDue s t
  data : s.wellFormed → t.wellFormed

theorem Moves.unsent (h : Moves s u) : Unsent s u := ⟨h.pending, h.clock, h.sent, h.data⟩

theorem Settled.toSent (h : Settled s t) : Sent s t := ⟨h.pending, h.clock, h.sent, h.data⟩

theorem Unsent.quiet (h : Unsent s u) (hr : u.request = s.request) : Sent s u :=
  ⟨h.pending, h.clock, by rw [h.sent, messageDue_self s u hr, Nat.add_zero], h.data⟩

theorem Sent.refl (s : State) : Sent s s := (Settled.refl s).toSent

theorem Unsent.settle (h : Unsent s u) : Sent s (settleInterrupt s u) where
  pending := by rw [settleInterrupt_eq]; exact h.pending
  clock := by rw [settleInterrupt_eq]; exact h.clock
  sent := by rw [settleInterrupt_eq, h.sent]; rfl
  data w := by rw [settleInterrupt_eq]; exact State.messages_wellFormed (h.data w) _

theorem Unsent.close (h : Unsent s u) : Sent s (closeEvent s u) :=
  Unsent.settle
    { pending := (drainEnd_moves s u).pending.trans h.pending
      clock := (drainEnd_moves s u).clock.trans h.clock
      sent := (drainEnd_moves s u).sent.trans h.sent
      data := (drainEnd_moves s u).data ∘ h.data }

/-! ### The operations that are not Moves -/

theorem State.acceptReset_unsent (s : State) : Unsent s s.acceptReset where
  pending := rfl
  clock := rfl
  sent := rfl
  data w :=
    ⟨w.1,
      { counters := fun st => by simpa [State.counters, State.acceptReset, State.reset] using StationCounters.inRange_zero
        stats := fun q => by simpa [State.poolStats, State.acceptReset, State.reset] using PoolStats.inRange_zero
        job := State.job_inRange_clear fun g => by simp [State.acceptReset, clearShadow]
        port := fun p => by
          have e : s.acceptReset.port p = { cut := cutFrame p (s.port p) } := by simp [State.acceptReset, State.port]
          rw [e]
          exact
            { holdLevel := Nat.zero_le _
              capability := Nat.zero_le _
              counters := LineCounters.inRange_zero
              discards := Discards.inRange_zero
              transmitter := { replies := Nat.zero_le _, sends := fun _ h => by cases h } }
        ceiling := fun st => by simp [State.sample, State.acceptReset, resetControl] }⟩

/-- A change of control registers that leaves the clock, the count of messages and the samples alone. -/
theorem State.setControl_unsent (s : State) (f : Control → Control) (hc : (f s.ctl).clock = s.ctl.clock)
    (hm : (f s.ctl).messagesSent = s.ctl.messagesSent) (hs : (f s.ctl).samples = s.ctl.samples) :
    Unsent s (s.setControl f) :=
  ⟨rfl, hc, hm, fun w => State.setControl_wellFormed w f hs⟩

theorem State.control_unsent (s : State) (k : Command) : Unsent s (s.control k) := by
  by_cases hk : k = .reset
  case neg => exact (s.control_moves hk).unsent
  case pos =>
    subst hk
    unfold State.control
    split
    · exact s.setControl_unsent _ rfl rfl rfl
    · exact s.acceptReset_unsent

theorem State.writeNotice_unsent (s : State) (w : Word) : Unsent s (s.writeNotice w) :=
  ⟨rfl, rfl, rfl, fun h => h.congr h.memory rfl rfl rfl rfl rfl⟩

theorem State.writeStationNotice_unsent (s : State) (w : Word) : Unsent s (s.writeStationNotice w) :=
  ⟨rfl, rfl, rfl, fun h => h.congr h.memory rfl rfl rfl rfl rfl⟩

theorem State.writeMask_unsent (s : State) (w : Word) : Unsent s (s.writeMask w) := s.setControl_unsent _ rfl rfl rfl

theorem State.nudgeVisit_moves (s : State) (st : Station) : Moves s (s.nudgeVisit st) := by
  unfold State.nudgeVisit
  split
  · exact s.setControl_same_samples _ fun _ => ⟨rfl, rfl, rfl, rfl, rfl⟩
  · exact .refl s

theorem State.nudgeSweep_moves (s : State) : Moves s s.nudgeSweep := by
  unfold State.nudgeSweep
  split
  · exact s.setControl_same_samples _ fun _ => ⟨rfl, rfl, rfl, rfl, rfl⟩
  · exact .refl s

theorem State.nudge_moves (s : State) (w : Word) : Moves s (s.nudge w) := by
  unfold State.nudge
  split
  · exact s.nudgeVisit_moves _
  · split
    · exact s.nudgeSweep_moves
    · exact .refl s

theorem State.registerWrite_unsent (s : State) (offset : Nat) (lanes : BitVec 4) (w : Word) :
    Unsent s (s.registerWrite offset lanes w) := by
  unfold State.registerWrite State.writeControl
  split
  · exact (Moves.refl s).unsent
  · split
    · split
      · exact s.control_unsent _
      · exact (Moves.refl s).unsent
    · exact (s.nudge_moves w).unsent
    · exact s.writeNotice_unsent w
    · exact s.writeMask_unsent w
    · exact s.writeStationNotice_unsent w
    · exact (Moves.refl s).unsent

/-- A nudge leaves the interrupt request as it is. -/
theorem State.nudgeVisit_request (s : State) (st : Station) : (s.nudgeVisit st).request = s.request := by
  unfold State.nudgeVisit
  split <;> rfl

theorem State.nudgeSweep_request (s : State) : s.nudgeSweep.request = s.request := by
  unfold State.nudgeSweep
  split <;> rfl

theorem State.hostWrite_kept (s : State) (offset : Nat) (lanes : BitVec 4) (w : Word) :
    Kept s (s.hostWrite offset lanes w) :=
  Kept.ite (s.putWord_kept offset w) (.refl s)

theorem State.hostWrite_request (s : State) (offset : Nat) (lanes : BitVec 4) (w : Word) :
    (s.hostWrite offset lanes w).request = s.request := by
  unfold State.hostWrite
  split <;> rfl

theorem State.startSweepIfDue_moves (s : State) : Moves s (s.setControl startSweepIfDue) :=
  s.setControl_same_samples _ startSweep_same

theorem State.startSweepIfDue_request (s : State) : (s.setControl startSweepIfDue).request = s.request :=
  request_congr rfl rfl (startSweep_same s.ctl).2.1

theorem State.startCompletion_moves (s : State) (next : Nat) :
    Moves s (s.rebuildSlots (allSlots.drop next)).completeStart :=
  (s.rebuildSlots_kept _).moves.trans (State.completeStart_moves _)

theorem State.tick_eq (s : State) : ∃ u, Settled s u ∧ s.tick = u.raiseClock := by
  unfold State.tick
  split
  · exact ⟨_, s.takeExpiries_settled, rfl⟩
  · exact ⟨s, .refl s, rfl⟩

theorem State.powerOn_wellFormed (s : State) : s.powerOn.wellFormed :=
  ⟨Memory.wf_memoryOf _,
    { counters := fun st => by simpa [State.counters, State.powerOn, State.reset] using StationCounters.inRange_zero
      stats := fun q => by simpa [State.poolStats, State.powerOn, State.reset] using PoolStats.inRange_zero
      job := State.job_inRange_clear fun g => by simp [State.powerOn, State.reset]
      port := fun p => by
        have e : s.powerOn.port p = {} := by simp [State.powerOn, State.port, State.reset]
        rw [e]
        exact
          { holdLevel := Nat.zero_le _
            capability := Nat.zero_le _
            counters := LineCounters.inRange_zero
            discards := Discards.inRange_zero
            transmitter := { replies := Nat.zero_le _, sends := fun _ h => by cases h } }
      ceiling := fun st => by simp [State.sample, State.powerOn] }⟩

/-! ### One command -/

/-- Every command but the power-on and the hall tick keeps the clock and sends its message. -/
theorem exec_sent (h : exec c s = .next t) (hp : c ≠ .powerOnReset) (ht : c ≠ .hallTick) : Sent s t := by
  have closed {u : State} (m : Moves s u) : Sent s (closeEvent s u) := m.unsent.close
  cases c
  case powerOnReset => exact absurd rfl hp
  case hallTick => exact absurd rfl ht
  case wipeCompletion =>
    simp only [exec, execWipeCompletion] at h
    split at h <;> cases h
    · exact closed s.completeWipe_moves
    · exact .refl s
  case start => cases h; exact (s.control_unsent .start).close
  case stop => cases h; exact (s.control_unsent .stop).close
  case wipe => cases h; exact (s.control_unsent .wipe).close
  case reset => cases h; exact (s.control_unsent .reset).close
  case nudgeVisit st => cases h; exact (s.nudgeVisit_moves st).unsent.quiet (s.nudgeVisit_request st)
  case nudgeWholeSweep => cases h; exact s.nudgeSweep_moves.unsent.quiet s.nudgeSweep_request
  case noticeWrite w => cases h; exact (s.writeNotice_unsent w).settle
  case maskWrite w => cases h; exact (s.writeMask_unsent w).settle
  case stationNoticeWrite w => cases h; exact (s.writeStationNotice_unsent w).settle
  case registerWriteIgnored offset lanes w =>
    simp only [exec, execRegisterWriteIgnored] at h
    split at h
    · cases h
    · split at h <;> cases h
      exact (s.registerWrite_unsent offset lanes w).close
  case messagesEnabledChange b => cases h; exact (s.setControl_unsent _ rfl rfl rfl).quiet rfl
  case configurationValidation =>
    simp only [exec, execConfigurationValidation] at h
    split at h <;> cases h
    · exact closed s.validateStart_moves
    · exact .refl s
  case startCompletion =>
    simp only [exec, execStartCompletion] at h
    split at h <;> cases h
    · exact closed (s.startCompletion_moves _)
    · exact .refl s
  case deadlineExpiry => cases h; exact closed s.deadlineEvent_kept.moves
  case sweepTimerExpiry => cases h; exact closed s.sweepTimerEvent_moves
  case wholeSweepStart => cases h; exact s.startSweepIfDue_moves.unsent.quiet s.startSweepIfDue_request
  case visit st =>
    simp only [exec, execVisit] at h
    split at h <;> cases h
    · exact closed (s.makeVisit_moves st)
    · exact .refl s
  case wholeSweepEnd =>
    simp only [exec, execWholeSweepEnd] at h
    split at h
    · split at h <;> cases h
      · exact closed (s.closeSweep_moves _)
      · exact .refl s
    · cases h; exact .refl s
  case decayTimerExpiry => cases h; exact closed s.decayEvent_moves
  case characterReceived p ch => cases h; exact closed (s.characterEvent_kept p ch).moves
  case frameRejected p kind payload check => cases h; exact closed (s.rejectEvent_kept p kind payload check).moves
  case frameSent p => cases h; exact (s.sentEvent_kept p).moves.unsent.quiet rfl
  case responseTimerExpiry p => cases h; exact closed (s.responseEvent_kept p).moves
  case probeTimerExpiry p => cases h; exact closed (s.probeEvent_kept p).moves
  case sheetTimerExpiry p => cases h; exact closed (s.sheetEvent_kept p).moves
  case starveTimerExpiry p => cases h; exact closed (s.starveEvent_kept p).moves
  case holdTimerExpiry p => cases h; exact closed (s.holdEvent_kept p).moves
  case hostExchangeMemoryWrite offset lanes w =>
    simp only [exec, execHostExchangeMemoryWrite] at h
    split at h
    · cases h
    · split at h <;> cases h
      exact (s.hostWrite_kept offset lanes w).moves.unsent.quiet (s.hostWrite_request offset lanes w)
  case stateFrame | sheetFrame | imageFrame | imageEndFrame | contactFrame | ackFrame | nakFrame =>
    cases h; exact closed (s.frameEvent_kept _ _).moves

theorem messageDue_setControl (s u : State) (f : Control → Control) (hm : (f u.ctl).mask = u.ctl.mask)
    (he : (f u.ctl).messagesEnabled = u.ctl.messagesEnabled) : messageDue s (u.setControl f) = messageDue s u := by
  have hr : (u.setControl f).request = u.request := request_congr rfl rfl hm
  simp only [messageDue, hr, State.setControl_ctl, he]

theorem State.powerOn_request (s : State) : s.powerOn.request = false := by
  simp [State.request, State.noticeWord, State.powerOn, State.reset]

/-- Settles O2: the power-on asserts no request, and the expiries of a hall tick, closed one by one, send the one message of the
whole tick's rise (`Settled.trans`). -/
theorem commandsKeepQueueClockAndMessages : Obligations.CommandsKeepQueueClockAndMessages := by
  intro c s t h
  by_cases hp : c = .powerOnReset
  · subst hp
    cases h
    exact ⟨rfl, by simp [State.powerOn], by simp [s.powerOn_request]; rfl⟩
  by_cases ht : c = .hallTick
  · subst ht
    cases h
    obtain ⟨u, hu, e⟩ := s.tick_eq
    rw [e]
    refine ⟨hu.pending, ?_, hu.sent.trans ?_⟩
    · rw [if_pos rfl, ← hu.clock]; rfl
    · exact congrArg (s.ctl.messagesSent + ·) (messageDue_setControl s u _ rfl rfl).symm
  · have k := exec_sent h hp ht
    exact ⟨k.pending, by rw [if_neg ht, if_neg hp]; exact k.clock, k.sent⟩

theorem exec_wellFormed (h : exec c s = .next t) (w : s.wellFormed) : t.wellFormed := by
  by_cases hp : c = .powerOnReset
  · subst hp; cases h; exact s.powerOn_wellFormed
  by_cases ht : c = .hallTick
  · subst ht; cases h
    obtain ⟨u, hu, e⟩ := s.tick_eq
    exact e ▸ State.setControl_wellFormed (hu.data w) _ rfl
  · exact (exec_sent h hp ht).data w

/-- The invariant of the data does not speak of the command queue. -/
theorem State.wellFormed.pending (w : s.wellFormed) (rest : List Instr) : State.wellFormed { s with pending := rest } :=
  w.congr w.memory rfl rfl rfl rfl rfl

/-- Settles O3. -/
theorem stepKeepsWellFormed : Obligations.StepKeepsWellFormed := by
  intro s t w h
  rcases step_cases h with rfl | ⟨c, rest, -, he⟩
  · exact w
  · exact exec_wellFormed he (w.pending rest)

end Sys2Proof.Machine
end

/-! The register window and the host's accesses to exchange memory (R1 to R11). -/
section

namespace Sys2Proof.Machine

variable {s t u : State}

/-! ### STATUS and the reads (R1, R3, R202) -/

theorem engineCode_lt (e : Engine) : engineCode e < 8 := by cases e <;> decide
theorem commandCode_lt (k : Command) : commandCode k < 8 := by cases k <;> decide
theorem commandOutcomeCode_lt (o : CommandOutcome) : commandOutcomeCode o < 4 := by cases o <;> decide
theorem refusalCode_lt (r : RefusalReason) : refusalCode r < 4 := by cases r <;> decide
theorem configResultCode_lt (r : ConfigResult) : configResultCode r < 8 := by cases r <;> decide

/-- The fields of a union are the unions of the fields. -/
theorem field_union (a b : Word) (low n : Nat) : field (a ||| b) low n = field a low n ||| field b low n := by
  rw [field_or, BitVec.toNat_or]
  rfl

/-- STATUS has each field in its place. -/
theorem statusWord_fields (c : Control) :
    field (statusWord c) 0 3 = engineCode c.engine ∧ field (statusWord c) 4 3 = commandCode c.lastCommand ∧
      field (statusWord c) 8 2 = commandOutcomeCode c.lastOutcome ∧ field (statusWord c) 10 2 = refusalCode c.refusalReason ∧
      field (statusWord c) 16 3 = configResultCode c.configResult ∧ field (statusWord c) 24 4 = c.errorSubject % 2 ^ 4 := by
  simp [statusWord, field_union, field_place_same, field_place_apart, Nat.mod_eq_of_lt, engineCode_lt, commandCode_lt,
    commandOutcomeCode_lt, refusalCode_lt, configResultCode_lt]

/-- NOTICE reads its sticky bits, and bit 0 where STATION_NOTICE is not zero. -/
theorem State.noticeWord_getLsbD (s : State) (i : Nat) :
    s.noticeWord.getLsbD i = (s.notice.getLsbD i || decide (i = 0) && decide (s.stationNotice ≠ 0)) := by
  unfold State.noticeWord
  rw [BitVec.getLsbD_or]
  congr 1
  by_cases h : s.stationNotice = 0
  · simp [h]
  · rw [if_neg h]
    match i with
    | 0 => simpa using h
    | i + 1 => simp

/-- Settles O16. -/
theorem registerReads : Obligations.RegisterReads := by
  intro s
  obtain ⟨engine, command, outcome, reason, config, subject⟩ := statusWord_fields s.ctl
  refine ⟨engine, command, outcome, reason, config, fun h => ?_, fun h => ?_, fun i _ h7 => ?_, ?_, rfl, rfl, ?_⟩
  · exact subject.trans (Nat.mod_eq_of_lt (by omega))
  · show (s.noticeWord.setWidth 32).getLsbD 0 = true ↔ _
    rw [BitVec.getLsbD_setWidth, s.noticeWord_getLsbD, h]
    simp
  · show (s.noticeWord.setWidth 32).getLsbD i = _
    have i0 : i ≠ 0 := by omega
    rw [BitVec.getLsbD_setWidth, s.noticeWord_getLsbD]
    simp [i0]
    omega
  · show field (s.ctl.mask.setWidth 32) 0 8 = _
    have := s.ctl.mask.isLt
    simp [field]
    omega
  · rintro offset (rfl | rfl | h)
    · rfl
    · rfl
    · unfold State.registerRead
      split <;> first | omega | rfl

/-! ### Register writes (R1, R4 to R7) -/

/-- A message is due on a MASK write where the new enables raise the request (R7). -/
theorem State.writeMask_settled (s : State) (w : Word) : settleInterrupt s (s.writeMask w) =
    { s with ctl := { s.ctl with
      mask := w.extractLsb' 0 8
      messagesSent := s.ctl.messagesSent +
        (if s.noticeWord &&& s.ctl.mask = 0 ∧ s.noticeWord &&& w.extractLsb' 0 8 ≠ 0 ∧ s.ctl.messagesEnabled = true then 1
          else 0) } } := by
  have before : s.request = false ↔ s.noticeWord &&& s.ctl.mask = 0 := by simp [State.request]
  have after : (s.writeMask w).request = true ↔ s.noticeWord &&& w.extractLsb' 0 8 ≠ 0 := by
    simp only [State.request, decide_eq_true_eq]; rfl
  rw [settleInterrupt_eq]
  simp only [messageDue, before, after]
  rfl

/-- A write that clears notices raises no request. -/
theorem settleInterrupt_of_falls (h : u.request = true → s.request = true) : settleInterrupt s u = u := by
  have due : messageDue s u = 0 := if_neg fun ⟨low, high, _⟩ => by simp [h high] at low
  rw [settleInterrupt_eq, due]
  rfl

/-- Fewer notices assert a request only where the others do. -/
theorem request_of_le (hn : ∀ i, t.notice.getLsbD i = true → s.notice.getLsbD i = true)
    (hs : t.stationNotice ≠ 0 → s.stationNotice ≠ 0) (hm : t.ctl.mask = s.ctl.mask) (h : t.request = true) :
    s.request = true := by
  simp only [State.request, decide_eq_true_eq] at *
  contrapose! h
  refine BitVec.eq_of_getLsbD_eq fun i hi => ?_
  have clear : ((s.notice.getLsbD i || decide (i = 0) && decide (s.stationNotice ≠ 0)) && s.ctl.mask.getLsbD i) = false := by
    rw [← s.noticeWord_getLsbD, ← BitVec.getLsbD_and, h]
    exact BitVec.getLsbD_zero
  rw [BitVec.getLsbD_and, t.noticeWord_getLsbD, hm]
  refine Eq.trans ?_ BitVec.getLsbD_zero.symm
  have rises : (t.notice.getLsbD i || decide (i = 0) && decide (t.stationNotice ≠ 0)) = true →
      (s.notice.getLsbD i || decide (i = 0) && decide (s.stationNotice ≠ 0)) = true := by
    simp only [Bool.or_eq_true, Bool.and_eq_true, decide_eq_true_eq]
    exact Or.imp (hn i) (And.imp_right hs)
  rw [Bool.and_eq_false_iff] at clear ⊢
  exact clear.imp_left fun low => Bool.eq_false_iff.mpr fun high => Bool.false_ne_true (low.symm.trans (rises high))

theorem State.writeNotice_settled (s : State) (w : Word) : settleInterrupt s (s.writeNotice w) = s.writeNotice w :=
  settleInterrupt_of_falls (request_of_le (fun i h => by
    simp only [State.writeNotice, BitVec.getLsbD_and, Bool.and_eq_true] at h; exact h.1) id rfl)

theorem State.writeStationNotice_settled (s : State) (w : Word) :
    settleInterrupt s (s.writeStationNotice w) = s.writeStationNotice w :=
  settleInterrupt_of_falls (request_of_le (fun _ => id) (fun h k => h (by
    simp [State.writeStationNotice, k])) rfl)

/-- Settles O17. -/
theorem hostWritesActOnTheRegisters : Obligations.HostWritesActOnTheRegisters := by
  refine ⟨fun s st => ⟨fun h => ?_, fun h => ?_⟩, fun s w b => ⟨?_, ?_, ?_, rfl⟩⟩
  · have e : sweeping s.ctl.engine = true := by rcases h with h | h <;> rw [h] <;> rfl
    simp [exec, execNudgeVisit, execNudgeWholeSweep, State.nudgeVisit, State.nudgeSweep, e, State.setControl]
  · have e : sweeping s.ctl.engine = false := by rcases h with h | h | h <;> rw [h] <;> rfl
    simp [exec, execNudgeVisit, execNudgeWholeSweep, State.nudgeVisit, State.nudgeSweep, e]
  · exact congrArg _ (s.writeNotice_settled w)
  · exact congrArg _ (s.writeStationNotice_settled w)
  · exact congrArg _ (s.writeMask_settled w)

theorem State.registerWrite_lanes {lanes : BitVec 4} (h : lanes ≠ 0xF) (s : State) (offset : Nat) (w : Word) :
    s.registerWrite offset lanes w = s :=
  if_pos h

theorem State.writeControl_unknown (s : State) {w : Word} (h : field w 0 8 = 0 ∨ 4 < field w 0 8) :
    s.writeControl w = s := by
  have none : commandOfCode (field w 0 8) = none := by
    unfold commandOfCode
    split <;> first | omega | rfl
  unfold State.writeControl
  rw [none]

theorem State.nudge_unknown (s : State) {w : Word} (h : 32 ≤ w.toNat) (h63 : w.toNat ≠ 63) : s.nudge w = s := by
  unfold State.nudge
  rw [dif_neg (by omega), if_neg h63]

/-- A register write that names nothing leaves the part as it is (R1, R2, R4). -/
theorem State.registerWrite_ignored (s : State) {offset : Nat} {lanes : BitVec 4} {w : Word}
    (h : lanes ≠ 0xF ∨ (offset = 0x00 ∧ (field w 0 8 = 0 ∨ 4 < field w 0 8)) ∨
      (offset = 0x08 ∧ 32 ≤ w.toNat ∧ w.toNat ≠ 63) ∨
      (offset ≠ 0x00 ∧ offset ≠ 0x08 ∧ offset ≠ 0x0C ∧ offset ≠ 0x10 ∧ offset ≠ 0x14)) :
    s.registerWrite offset lanes w = s := by
  by_cases hl : lanes = 0xF
  case neg => exact s.registerWrite_lanes hl offset w
  subst hl
  rcases h with h | ⟨rfl, h⟩ | ⟨rfl, h32, h63⟩ | ⟨h0, h8, hC, h10, h14⟩
  · exact absurd rfl h
  · exact s.writeControl_unknown h
  · exact s.nudge_unknown h32 h63
  · unfold State.registerWrite
    rw [if_neg fun k => k rfl]
    split <;> first | contradiction | rfl

/-- Settles O18. -/
theorem ignoredRegisterWritesChangeNothing : Obligations.IgnoredRegisterWritesChangeNothing := by
  intro offset lanes w s
  simp only [exec, execRegisterWriteIgnored]
  refine ⟨fun aligned inside h => ?_, fun misaligned => if_pos misaligned, fun aligned outside => ?_⟩
  · rw [if_neg (not_not_intro aligned), if_neg (show ¬ Config.registerWindowBytes ≤ offset from Nat.not_le.mpr inside), s.registerWrite_ignored h, closeEvent_self]
  · rw [if_neg (not_not_intro aligned), if_pos (show Config.registerWindowBytes ≤ offset from outside)]

/-! ### Exchange memory (R9, R11) -/

/-- Settles O19. -/
theorem hostMemoryAccess : Obligations.HostMemoryAccess := by
  intro offset lanes w s wf
  simp only [exec, execHostExchangeMemoryWrite]
  refine ⟨fun aligned inside => ⟨fun awake all => ?_, fun h => ?_, fun h => if_pos h, fun h => if_neg h⟩, fun misaligned => if_pos misaligned,
    fun aligned outside => ?_⟩
  · refine ⟨writeWord s.mem offset w, ?_, ?_, ?_⟩
    · rw [if_neg (not_not_intro aligned), if_neg (show ¬ Config.exchangeBytes ≤ offset from Nat.not_le.mpr inside)]
      exact congrArg _ (if_pos ⟨all, awake⟩)
    · exact readWord_writeWord wf.memory (by unfold Config.exchangeBytes; omega) w
    · exact (writeWord_writes s.mem offset w).kept wf.memory
  · have ignored : s.hostWrite offset lanes w = s := if_neg fun ⟨all, awake⟩ => by
      rcases h with h | h
      · exact awake h
      · exact h all
    rw [if_neg (not_not_intro aligned), if_neg (show ¬ Config.exchangeBytes ≤ offset from Nat.not_le.mpr inside), ignored]
  · rw [if_neg (not_not_intro aligned), if_pos (show Config.exchangeBytes ≤ offset from outside)]

end Sys2Proof.Machine
end

/-! The power-on, the wipe and the commands of CONTROL (R2, R3, R12 to R15, R21), and the reset state. -/
section

namespace Sys2Proof.Machine

variable {s t u : State}

/-! ### The first of a range -/

theorem find?_finRange_eq_some_iff {n : Nat} {f : Fin n → Bool} {i : Fin n} :
    (List.finRange n).find? f = some i ↔ f i = true ∧ ∀ j, j < i → f j = false := by
  rw [← Fin.find?_eq_find?_finRange, Fin.find?_eq_some_iff]

theorem find?_finRange_eq_none_iff {n : Nat} {f : Fin n → Bool} :
    (List.finRange n).find? f = none ↔ ∀ i, f i = false := by
  rw [← Fin.find?_eq_find?_finRange, Fin.find?_eq_none_iff]

/-! ### The reads of a state whose records are given by lists -/

@[simp] theorem State.port_reset (p : Port) : State.reset.port p = {} := by simp [State.port, State.reset]
@[simp] theorem State.slot_reset (g : Slot) : State.reset.slot g = {} := by simp [State.slot, State.reset]
@[simp] theorem State.queue_reset (q : Pool) : State.reset.queue q = [] := by simp [State.queue, State.reset]
@[simp] theorem State.poolStats_reset (q : Pool) : State.reset.poolStats q = {} := by simp [State.poolStats, State.reset]
@[simp] theorem State.counters_reset (st : Station) : State.reset.counters st = {} := by simp [State.counters, State.reset]

@[simp] theorem State.mark_reset (b : Nat) : State.reset.mark b = .outside := by
  unfold State.mark State.reset
  split <;> simp

@[simp] theorem State.mailbox_reset (st : Station) (r : Fin 4) : State.reset.mailbox st r = {} := by
  simp [State.mailbox, State.reset]

/-! ### The invariants of the reset state -/

theorem State.reset_wellFormed : State.reset.wellFormed :=
  ⟨Memory.wf_nil,
    { counters := fun st => by rw [State.counters_reset]; exact StationCounters.inRange_zero
      stats := fun q => by rw [State.poolStats_reset]; exact PoolStats.inRange_zero
      job := State.job_inRange_clear fun g => by simp [State.reset]
      port := fun p => by
        rw [State.port_reset]
        exact
          { holdLevel := Nat.zero_le _
            capability := Nat.zero_le _
            counters := LineCounters.inRange_zero
            discards := Discards.inRange_zero
            transmitter := { replies := Nat.zero_le _, sends := fun _ h => by cases h } }
      ceiling := fun st => by simp [State.sample, State.reset] }⟩

theorem State.reset_atRest : State.reset.atRest :=
  fun _ => ⟨rfl, rfl, rfl, rfl, rfl, rfl, fun p => by rw [State.port_reset]; exact ⟨rfl, rfl, rfl⟩⟩

@[simp] theorem State.job_reset (g : Slot) : State.reset.job g = {} := by simp [State.job]

theorem State.reset_structured : State.reset.structured := by
  have list : State.reset.deadlines = [] := rfl
  have chain : State.reset.spare = [] := rfl
  refine ⟨fun q => by simp, ?deadlines, by simp [State.servicesPair], ?blocks, ?law, by simp [State.recordsClear]⟩
  case deadlines => simp [State.deadlinesHold, list]
  case blocks => simp [State.blocksHold, chain]
  case law => simp [State.lawHolds, list]

theorem State.reset_loansHold : State.reset.loansHold := by
  intro b
  simp [SlotShadow.loans]

theorem State.reset_ordered : State.reset.ordered where
  queues q := by simp
  deadlines := .nil
  ahead g h := by cases h

theorem State.portConfig_reset (p : Port) : State.reset.portConfig p = {} := by simp [State.portConfig, State.reset]

theorem State.reset_servicesHold : State.reset.servicesHold where
  classes :=
    { valid := by rintro (h | ⟨n, h⟩) <;> simp [State.reset, sweeping] at h
      queued := by simp
      serving := by simp }
  idle := { print := by simp, scan := by simp, hold := by simp }
  prints := { chain := by simp [State.inWork], queued := by simp, serving := by simp }
  scans := { queued := by simp, others := by simp, serving := by simp }
  holds := { queued := by simp, serving := by simp }
  frames := { grants := by simp [Transmitter.framesOf], serving := by simp }
  measured := { sheetsDone := by simp, holdRemaining := by simp, fill := by simp, stored := by simp, queue := by simp }

theorem State.contact_reset (p : Port) (i : Fin 10) : State.reset.contact p i = .none := by simp [State.contact]

theorem State.reset_touchHolds : State.reset.touchHolds where
  keys st r k h := by simp at h
  captured p i c h := by simp [State.contact_reset, Contact.captured] at h
  zoned p i c h := by simp [State.contact_reset] at h
  held p i c h := by simp [State.contact_reset] at h
  even st r := by simp
  panels p i h := absurd (State.contact_reset p i) h
  resting _ := State.contact_reset

/-- Settles O5. -/
theorem resetMeetsTheInvariants : Obligations.ResetMeetsTheInvariants :=
  ⟨State.reset_wellFormed, State.reset_atRest, State.reset_structured, State.reset_loansHold, State.reset_ordered,
    State.reset_servicesHold, State.reset_touchHolds⟩

/-! ### Power-on and wipe (R13) -/

theorem State.powerOn_registerRead (s : State) (offset : Nat) : s.powerOn.registerRead offset = 0 := by
  unfold State.registerRead
  split
  · show statusWord {} = 0
    decide
  · show BitVec.setWidth 32 s.powerOn.noticeWord = 0
    simp [State.noticeWord, State.powerOn, State.reset]
  all_goals rfl

theorem exec_wipe_stopped (h : s.ctl.engine = .stopped) : exec .wipe s = .next s.acceptWipe := by
  have accepted : s.control .wipe = s.acceptWipe := by
    unfold State.control
    rw [h]
    rfl
  show Host.Outcome.next (closeEvent s (s.control .wipe)) = _
  rw [accepted, closeEvent_of_not_draining _ _ (by simp [State.acceptWipe]), messageDue_self s s.acceptWipe rfl]
  rfl

theorem exec_wipeCompletion_wiping (h : s.ctl.engine = .wiping) :
    exec .wipeCompletion s = .next (settleInterrupt s s.completeWipe) := by
  show execWipeCompletion s = _
  unfold execWipeCompletion closeEvent
  rw [if_pos h, drainEnd_of_not_draining _ _ (by simp [State.completeWipe])]

/-- Settles O11. -/
theorem wipeFollowsThePowerOn : Obligations.WipeFollowsThePowerOn := by
  refine ⟨fun s => ⟨s.powerOn, rfl, rfl, rfl, s.powerOn_registerRead⟩, fun s h => exec_wipe_stopped h, fun s h => ?_,
    fun s h => if_neg h⟩
  exact ⟨_, exec_wipeCompletion_wiping h, by rw [settleInterrupt_eq]; rfl, fun a => by rw [settleInterrupt_eq]; rfl⟩

/-! ### How commands are judged (R2) -/

theorem State.control_refused {k : Command} {r : RefusalReason} (h : judgeCommand k s.ctl.engine = some r) :
    closeEvent s (s.control k) =
      { s with ctl := { s.ctl with lastCommand := k, lastOutcome := .refused, refusalReason := r } } := by
  have refused : s.control k = s.refuseCommand k r := by
    unfold State.control
    rw [h]
  rw [refused]
  exact closeEvent_setControl s _ rfl

theorem exec_start_stopped (h : s.ctl.engine = .stopped) : exec .start s = .next s.acceptStart := by
  have accepted : s.control .start = s.acceptStart := by
    unfold State.control
    rw [h]
    rfl
  show Host.Outcome.next (closeEvent s (s.control .start)) = _
  rw [accepted]
  exact congrArg _ (closeEvent_setControl s _ rfl)

/-- Settles O12. -/
theorem commandsAreJudgedByState : Obligations.CommandsAreJudgedByState := by
  have refused {s : State} {k : Command} {r : RefusalReason} (h : judgeCommand k s.ctl.engine = some r) :=
    congrArg (Host.Outcome.next (φ := Fault) (ρ := Refusal)) (State.control_refused h)
  refine ⟨fun s => ⟨fun h => ?_, fun h => ?_, fun h => ?_, fun h => ?_⟩, fun s h => exec_start_stopped h⟩
  · rcases h with h | h <;> exact ⟨refused (by rw [h]; rfl), refused (by rw [h]; rfl)⟩
  · rcases h with h | h <;>
      exact ⟨refused (by rw [h]; rfl), refused (by rw [h]; rfl), refused (by rw [h]; rfl)⟩
  · exact refused (by rw [h]; rfl)
  · exact refused (by rw [h]; rfl)

/-! ### RESET (R21, R111) -/

@[simp] theorem State.acceptReset_slot (s : State) (g : Slot) : s.acceptReset.slot g = clearShadow (s.slot g) := by
  simp [State.acceptReset, State.slot]

@[simp] theorem State.acceptReset_port (s : State) (p : Port) : s.acceptReset.port p = { cut := cutFrame p (s.port p) } := by
  simp [State.acceptReset, State.port]

theorem exec_reset_accepted (h : s.ctl.engine ≠ .wiping) : exec .reset s = .next (settleInterrupt s s.acceptReset) := by
  have accepted : s.control .reset = s.acceptReset := by
    unfold State.control
    cases e : s.ctl.engine <;> first | rfl | exact absurd e h
  show Host.Outcome.next (closeEvent s (s.control .reset)) = _
  rw [accepted, closeEvent, drainEnd_of_not_draining _ _ (by simp [State.acceptReset, resetControl])]

/-- Settles O14. -/
theorem resetClearsTheRecords : Obligations.ResetClearsTheRecords := by
  intro s h
  have ports (p : Port) : (settleInterrupt s s.acceptReset).port p = { cut := cutFrame p (s.port p) } := by
    rw [settleInterrupt_eq]; exact s.acceptReset_port p
  refine ⟨_, exec_reset_accepted h, ?_, fun g => ?_, fun p => ?_⟩
  · rw [settleInterrupt_eq]; rfl
  · rw [settleInterrupt_eq]; exact s.acceptReset_slot g
  · rw [ports p]
    refine ⟨rfl, cutFrame_idle p, fun sending => ?_, ⟨rfl, rfl, rfl⟩, rfl, rfl⟩
    obtain ⟨-, c, mem, e⟩ := cutFrame_sending p sending
    exact ⟨c, mem, e, by simp [PortRecord.output, e, wireCharacters]⟩

end Sys2Proof.Machine
end

/-! The clamps of the configuration (R14, R25), the checks of START (R15), and what nothing but the host, the wipe, the power-on
and START writes while the part rests (R11, R12). -/
section

namespace Sys2Proof.Machine

variable {s t u : State}

/-! ### The working copy and the samples (R14, R25) -/

theorem field_lt (w : Word) (low n : Nat) : field w low n < 2 ^ n := BitVec.isLt _

/-- A field of one bit is that bit. -/
theorem field_one_beq (w : Word) (i : Nat) : (field w i 1 == 1) = w.getLsbD i := by
  have bit : field w i 1 = (w.getLsbD i).toNat := by
    simp [field, BitVec.extractLsb'_toNat, BitVec.getLsbD, Nat.shiftRight_eq_div_pow, Nat.testBit_eq_decide_div_mod_eq]
    rcases Nat.mod_two_eq_zero_or_one (w.toNat / 2 ^ i) with h | h <;> simp [h]
  rw [bit]
  cases w.getLsbD i <;> rfl

theorem clampSweepInterval_spec (v : Nat) : 20 ≤ clampSweepInterval v ∧ clampSweepInterval v ≤ 250 ∧
    (20 ≤ v → v ≤ 250 → clampSweepInterval v = v) ∧ (v = 0 → clampSweepInterval v = 20) ∧
    (250 < v → clampSweepInterval v = 250) := by
  unfold clampSweepInterval
  omega

theorem min_spec (limit v : Nat) : (v ≤ limit → min limit v = v) ∧ (limit < v → min limit v = limit) := by omega

theorem orDefault_spec (v default : Nat) : (v ≠ 0 → orDefault v default = v) ∧ (v = 0 → orDefault v default = default) :=
  ⟨fun h => if_neg h, fun h => if_pos h⟩

theorem classOfCode_spec (n : Nat) : (classOfCode n = .bad ↔ 3 < n) ∧ (classOfCode n = .none ↔ n = 0) ∧
    (classOfCode n = .printer ↔ n = 1) ∧ (classOfCode n = .scanner ↔ n = 2) ∧ (classOfCode n = .panel ↔ n = 3) := by
  match n with
  | 0 | 1 | 2 | 3 => decide
  | n + 4 => simp [classOfCode]

theorem stationStateOfCode_spec (n : Nat) :
    (stationStateOfCode n = .opened ↔ n = 1) ∧ (stationStateOfCode n = .suspended ↔ n = 2) := by
  match n with
  | 0 | 1 | 2 => decide
  | n + 3 => simp [stationStateOfCode]

theorem shareWeight_spec (v : Nat) : (v = 0 → max 1 (min 15 v) = 1) ∧ (15 < v → max 1 (min 15 v) = 15) ∧
    (1 ≤ v → v ≤ 15 → max 1 (min 15 v) = v) := by omega

theorem readWorkingCopy_port (m : Memory) (p : Port) : (readWorkingCopy m).ports[p.val] = readPortConfig m p := by
  simp [readWorkingCopy]

theorem readWorkingCopy_pool (m : Memory) (q : Pool) : (readWorkingCopy m).pools[q.val] = readPoolConfig m q := by
  simp [readWorkingCopy]

/-- Settles O13. -/
theorem configurationFieldsAreClamped : Obligations.ConfigurationFieldsAreClamped := by
  refine ⟨fun m p q => ?_, fun m st => ?_⟩
  · intro w interval lowWater port p0 p4 pool q0
    have hport : port = readPortConfig m p := readWorkingCopy_port m p
    have hpool : pool = readPoolConfig m q := readWorkingCopy_pool m q
    have h4 : readWord m (portAddress p + 0x04) = p4 := congrArg (readWord m) (by unfold portAddress; omega)
    rw [hport, hpool]
    simp only [readPortConfig, readPoolConfig, h4]
    obtain ⟨lower, upper, inside, zero, above⟩ := clampSweepInterval_spec interval
    obtain ⟨bad, none, printer, scanner, panel⟩ := classOfCode_spec (field p0 0 8)
    have decay : w.decayPeriod ≤ 255 := Nat.le_of_lt_succ (field_lt _ 16 8)
    refine ⟨⟨lower, upper⟩, inside, zero, above, ⟨rfl, decay⟩, (min_spec 896 lowWater).1, (min_spec 896 lowWater).2,
      (min_spec 7 _).1, (min_spec 7 _).2, (min_spec 3 _).1, (min_spec 3 _).2, (orDefault_spec _ 2).1, (orDefault_spec _ 2).2,
      (orDefault_spec _ 100).1, (orDefault_spec _ 100).2, fun h => ⟨(orDefault_spec _ 30).1 h, (orDefault_spec _ 5).1 h⟩,
      fun h => ⟨(orDefault_spec _ 30).2 h, (orDefault_spec _ 5).2 h⟩, bad, none, printer, scanner, panel, rfl,
      (min_spec 63 _).1, (min_spec 63 _).2, beq_iff_eq⟩
  · intro x w0 w4
    have h4 : readWord m (stationAddress st + 0x04) = w4 := congrArg (readWord m) (by unfold stationAddress; omega)
    simp only [x, readSample, h4, field_one_beq]
    obtain ⟨opened, suspended⟩ := stationStateOfCode_spec (field w0 0 8)
    obtain ⟨least, most, inside⟩ := shareWeight_spec (field w0 16 8)
    exact ⟨opened, suspended, (min_spec 200 _).1, (min_spec 200 _).2, least, most, inside, rfl,
      Nat.le_of_lt_succ (field_lt w0 24 8), trivial, trivial, trivial, trivial⟩

/-! ### What the rebuild leaves alone (R16) -/

/-- What no step of a fold changes, the fold leaves alone. -/
theorem State.foldl_same {α β : Type} {f : State → α → State} (view : State → β) (h : ∀ s a, view (f s a) = view s)
    (l : List α) (s : State) : view (l.foldl f s) = view s := by
  induction l generalizing s with
  | nil => rfl
  | cons a rest ih => rw [List.foldl_cons, ih, h]

section
variable (s : State)

@[simp] theorem State.rebuildClear_ctl : s.rebuildClear.ctl = s.ctl := by
  unfold State.rebuildClear
  simp only [foldl_same State.ctl fun s p => show ((s.clearLineCounters p).clearDiscards p).ctl = s.ctl by simp,
    foldl_same State.ctl fun s q => show ((s.setQueue q []).clearStats q).ctl = s.ctl by simp,
    foldl_same State.ctl State.clearCounters_ctl]
  simp

@[simp] theorem State.rebuildClear_notice : s.rebuildClear.notice = s.notice := by
  unfold State.rebuildClear
  simp only [foldl_same State.notice fun s p => show ((s.clearLineCounters p).clearDiscards p).notice = s.notice by simp,
    foldl_same State.notice fun s q => show ((s.setQueue q []).clearStats q).notice = s.notice by simp,
    foldl_same State.notice State.clearCounters_notice]
  simp

@[simp] theorem State.rebuildClear_stationNotice : s.rebuildClear.stationNotice = s.stationNotice := by
  unfold State.rebuildClear
  simp only [foldl_same State.stationNotice fun s p => show ((s.clearLineCounters p).clearDiscards p).stationNotice = s.stationNotice by simp,
    foldl_same State.stationNotice fun s q => show ((s.setQueue q []).clearStats q).stationNotice = s.stationNotice by simp,
    foldl_same State.stationNotice State.clearCounters_stationNotice]
  simp

@[simp] theorem State.rebuildClear_mailboxes : s.rebuildClear.mailboxes = s.mailboxes := by
  unfold State.rebuildClear
  simp only [foldl_same State.mailboxes fun s p => show ((s.clearLineCounters p).clearDiscards p).mailboxes = s.mailboxes by simp,
    foldl_same State.mailboxes fun s q => show ((s.setQueue q []).clearStats q).mailboxes = s.mailboxes by simp,
    foldl_same State.mailboxes State.clearCounters_mailboxes]
  simp

@[simp] theorem State.rebuildClear_free : s.rebuildClear.free = s.free := by
  unfold State.rebuildClear
  simp only [foldl_same State.free fun s p => show ((s.clearLineCounters p).clearDiscards p).free = s.free by simp,
    foldl_same State.free fun s q => show ((s.setQueue q []).clearStats q).free = s.free by simp,
    foldl_same State.free State.clearCounters_free]
  simp

@[simp] theorem State.rebuildClear_pending : s.rebuildClear.pending = s.pending := by
  unfold State.rebuildClear
  simp only [foldl_same State.pending fun s p => show ((s.clearLineCounters p).clearDiscards p).pending = s.pending by simp,
    foldl_same State.pending fun s q => show ((s.setQueue q []).clearStats q).pending = s.pending by simp,
    foldl_same State.pending State.clearCounters_pending]
  simp

@[simp] theorem State.rebuildFault_ctl (g : Slot) : (s.rebuildFault g).ctl = s.ctl := by simp [State.rebuildFault]

@[simp] theorem State.rebuildWalk_ctl (g : Slot) (n b : Nat) : (State.rebuildWalk g n b s).ctl = s.ctl := by
  induction n generalizing b s with
  | zero =>
    unfold State.rebuildWalk
    split <;> [skip; split] <;> simp
  | succ n ih =>
    unfold State.rebuildWalk
    split <;> [skip; split] <;> simp [ih]

@[simp] theorem State.rebuildSlot_ctl (g : Slot) : (s.rebuildSlot g).ctl = s.ctl := by
  unfold State.rebuildSlot
  split <;> (try split) <;> simp

@[simp] theorem State.rebuildSlots_ctl (slots : List Slot) : (s.rebuildSlots slots).ctl = s.ctl :=
  foldl_same State.ctl State.rebuildSlot_ctl slots s

@[simp] theorem State.rebuildFault_queues (g : Slot) : (s.rebuildFault g).queues = s.queues := by simp [State.rebuildFault]

@[simp] theorem State.rebuildWalk_queues (g : Slot) (n b : Nat) : (State.rebuildWalk g n b s).queues = s.queues := by
  induction n generalizing b s with
  | zero =>
    unfold State.rebuildWalk
    split <;> [skip; split] <;> simp
  | succ n ih =>
    unfold State.rebuildWalk
    split <;> [skip; split] <;> simp [ih]

@[simp] theorem State.rebuildSlot_queues (g : Slot) : (s.rebuildSlot g).queues = s.queues := by
  unfold State.rebuildSlot
  split <;> (try split) <;> simp

@[simp] theorem State.rebuildSlots_queues (slots : List Slot) : (s.rebuildSlots slots).queues = s.queues :=
  foldl_same State.queues State.rebuildSlot_queues slots s

@[simp] theorem State.rebuildFault_deadlines (g : Slot) : (s.rebuildFault g).deadlines = s.deadlines := by simp [State.rebuildFault]

@[simp] theorem State.rebuildWalk_deadlines (g : Slot) (n b : Nat) : (State.rebuildWalk g n b s).deadlines = s.deadlines := by
  induction n generalizing b s with
  | zero =>
    unfold State.rebuildWalk
    split <;> [skip; split] <;> simp
  | succ n ih =>
    unfold State.rebuildWalk
    split <;> [skip; split] <;> simp [ih]

@[simp] theorem State.rebuildSlot_deadlines (g : Slot) : (s.rebuildSlot g).deadlines = s.deadlines := by
  unfold State.rebuildSlot
  split <;> (try split) <;> simp

@[simp] theorem State.rebuildSlots_deadlines (slots : List Slot) : (s.rebuildSlots slots).deadlines = s.deadlines :=
  foldl_same State.deadlines State.rebuildSlot_deadlines slots s

@[simp] theorem State.rebuildFault_stats (g : Slot) : (s.rebuildFault g).stats = s.stats := by simp [State.rebuildFault]

@[simp] theorem State.rebuildWalk_stats (g : Slot) (n b : Nat) : (State.rebuildWalk g n b s).stats = s.stats := by
  induction n generalizing b s with
  | zero =>
    unfold State.rebuildWalk
    split <;> [skip; split] <;> simp
  | succ n ih =>
    unfold State.rebuildWalk
    split <;> [skip; split] <;> simp [ih]

@[simp] theorem State.rebuildSlot_stats (g : Slot) : (s.rebuildSlot g).stats = s.stats := by
  unfold State.rebuildSlot
  split <;> (try split) <;> simp

@[simp] theorem State.rebuildSlots_stats (slots : List Slot) : (s.rebuildSlots slots).stats = s.stats :=
  foldl_same State.stats State.rebuildSlot_stats slots s

@[simp] theorem State.rebuildFault_ports (g : Slot) : (s.rebuildFault g).ports = s.ports := by simp [State.rebuildFault]

@[simp] theorem State.rebuildWalk_ports (g : Slot) (n b : Nat) : (State.rebuildWalk g n b s).ports = s.ports := by
  induction n generalizing b s with
  | zero =>
    unfold State.rebuildWalk
    split <;> [skip; split] <;> simp
  | succ n ih =>
    unfold State.rebuildWalk
    split <;> [skip; split] <;> simp [ih]

@[simp] theorem State.rebuildSlot_ports (g : Slot) : (s.rebuildSlot g).ports = s.ports := by
  unfold State.rebuildSlot
  split <;> (try split) <;> simp

@[simp] theorem State.rebuildSlots_ports (slots : List Slot) : (s.rebuildSlots slots).ports = s.ports :=
  foldl_same State.ports State.rebuildSlot_ports slots s

@[simp] theorem State.rebuildFault_spare (g : Slot) : (s.rebuildFault g).spare = s.spare := by simp [State.rebuildFault]

@[simp] theorem State.rebuildWalk_spare (g : Slot) (n b : Nat) : (State.rebuildWalk g n b s).spare = s.spare := by
  induction n generalizing b s with
  | zero =>
    unfold State.rebuildWalk
    split <;> [skip; split] <;> simp
  | succ n ih =>
    unfold State.rebuildWalk
    split <;> [skip; split] <;> simp [ih]

@[simp] theorem State.rebuildSlot_spare (g : Slot) : (s.rebuildSlot g).spare = s.spare := by
  unfold State.rebuildSlot
  split <;> (try split) <;> simp

@[simp] theorem State.rebuildSlots_spare (slots : List Slot) : (s.rebuildSlots slots).spare = s.spare :=
  foldl_same State.spare State.rebuildSlot_spare slots s

@[simp] theorem State.rebuildFault_mailboxes (g : Slot) : (s.rebuildFault g).mailboxes = s.mailboxes := by simp [State.rebuildFault]

@[simp] theorem State.rebuildWalk_mailboxes (g : Slot) (n b : Nat) : (State.rebuildWalk g n b s).mailboxes = s.mailboxes := by
  induction n generalizing b s with
  | zero =>
    unfold State.rebuildWalk
    split <;> [skip; split] <;> simp
  | succ n ih =>
    unfold State.rebuildWalk
    split <;> [skip; split] <;> simp [ih]

@[simp] theorem State.rebuildSlot_mailboxes (g : Slot) : (s.rebuildSlot g).mailboxes = s.mailboxes := by
  unfold State.rebuildSlot
  split <;> (try split) <;> simp

@[simp] theorem State.rebuildSlots_mailboxes (slots : List Slot) : (s.rebuildSlots slots).mailboxes = s.mailboxes :=
  foldl_same State.mailboxes State.rebuildSlot_mailboxes slots s

@[simp] theorem State.rebuildFault_free (g : Slot) : (s.rebuildFault g).free = s.free := by simp [State.rebuildFault]

@[simp] theorem State.rebuildWalk_free (g : Slot) (n b : Nat) : (State.rebuildWalk g n b s).free = s.free := by
  induction n generalizing b s with
  | zero =>
    unfold State.rebuildWalk
    split <;> [skip; split] <;> simp
  | succ n ih =>
    unfold State.rebuildWalk
    split <;> [skip; split] <;> simp [ih]

@[simp] theorem State.rebuildSlot_free (g : Slot) : (s.rebuildSlot g).free = s.free := by
  unfold State.rebuildSlot
  split <;> (try split) <;> simp

@[simp] theorem State.rebuildSlots_free (slots : List Slot) : (s.rebuildSlots slots).free = s.free :=
  foldl_same State.free State.rebuildSlot_free slots s

@[simp] theorem State.rebuildFault_pending (g : Slot) : (s.rebuildFault g).pending = s.pending := by simp [State.rebuildFault]

@[simp] theorem State.rebuildWalk_pending (g : Slot) (n b : Nat) : (State.rebuildWalk g n b s).pending = s.pending := by
  induction n generalizing b s with
  | zero =>
    unfold State.rebuildWalk
    split <;> [skip; split] <;> simp
  | succ n ih =>
    unfold State.rebuildWalk
    split <;> [skip; split] <;> simp [ih]

@[simp] theorem State.rebuildSlot_pending (g : Slot) : (s.rebuildSlot g).pending = s.pending := by
  unfold State.rebuildSlot
  split <;> (try split) <;> simp

@[simp] theorem State.rebuildSlots_pending (slots : List Slot) : (s.rebuildSlots slots).pending = s.pending :=
  foldl_same State.pending State.rebuildSlot_pending slots s

end

/-! ### The checks of START (R15) -/

theorem WorkingCopy.badPort_eq_some_iff {w : WorkingCopy} {p : Port} :
    w.badPort = some p ↔ w.ports[p.val].cls = .bad ∧ ∀ r : Port, r < p → w.ports[r.val].cls ≠ .bad := by
  simp [WorkingCopy.badPort, allPorts, find?_finRange_eq_some_iff]

theorem WorkingCopy.badPort_eq_none_iff {w : WorkingCopy} :
    w.badPort = none ↔ ∀ p : Port, w.ports[p.val].cls ≠ .bad := by
  simp [WorkingCopy.badPort, allPorts]

theorem WorkingCopy.anyPort_iff {w : WorkingCopy} : w.anyPort = true ↔ ∃ p : Port, w.ports[p.val].cls ≠ .none := by
  simp [WorkingCopy.anyPort, allPorts]

theorem WorkingCopy.mixed_iff {w : WorkingCopy} {q : Pool} : w.mixed q = true ↔ ∃ p r : Port,
    w.ports[p.val].cls ≠ .none ∧ w.ports[r.val].cls ≠ .none ∧ w.ports[p.val].pool = q ∧ w.ports[r.val].pool = q ∧
      w.ports[p.val].cls ≠ w.ports[r.val].cls := by
  simp [WorkingCopy.mixed, allPorts, and_assoc]

/-- The three checks in their order. -/
theorem WorkingCopy.validate_badPort {w : WorkingCopy} {p : Port} (h : w.badPort = some p) :
    w.validate = some (.portClassBad, p.val) := by
  unfold WorkingCopy.validate
  rw [h]

theorem WorkingCopy.validate_noPorts {w : WorkingCopy} (hb : w.badPort = none) (h : w.anyPort = false) :
    w.validate = some (.noPorts, 0) := by
  simp [WorkingCopy.validate, hb, h]

theorem WorkingCopy.validate_mixed {w : WorkingCopy} {q : Pool} (hb : w.badPort = none) (ha : w.anyPort = true)
    (h : allPools.find? w.mixed = some q) : w.validate = some (.poolMixed, q.val) := by
  simp [WorkingCopy.validate, hb, ha, h]

theorem WorkingCopy.validate_passes {w : WorkingCopy} (hb : w.badPort = none) (ha : w.anyPort = true)
    (h : allPools.find? w.mixed = none) : w.validate = none := by
  simp [WorkingCopy.validate, hb, ha, h]

/-- Settles O20. -/
theorem validationJudgesTheConfiguration : Obligations.ValidationJudgesTheConfiguration := by
  intro s starting copied cls mixed fails
  have run {u : State} (h : s.validateStart = u) : exec .configurationValidation s = .next (closeEvent s u) :=
    h ▸ if_pos ⟨starting, copied⟩
  have failed {code : ConfigResult} {subject : Nat} (h : s.ctl.work.validate = some (code, subject)) :
      fails code subject := by
    have failure : s.validateStart = s.failStart code subject := by
      unfold State.validateStart
      rw [h]
    refine ⟨_, run failure, ?_⟩
    rw [closeEvent_of_not_draining _ _ (by simp [State.failStart])]
    rfl
  have noneBad : (∀ p, cls p ≠ .bad) → s.ctl.work.badPort = none := WorkingCopy.badPort_eq_none_iff.mpr
  have mixed_iff (q : Pool) : s.ctl.work.mixed q = true ↔ mixed q := WorkingCopy.mixed_iff
  refine ⟨fun p bad lower => ?_, fun all => ?_, fun q good mix lower => ?_, fun good some unmixed => ?_⟩
  · exact failed (WorkingCopy.validate_badPort (WorkingCopy.badPort_eq_some_iff.mpr ⟨bad, lower⟩))
  · have absent : s.ctl.work.anyPort = false :=
      Bool.eq_false_iff.mpr fun h => (WorkingCopy.anyPort_iff.mp h).elim fun p hp => hp (all p)
    exact failed (WorkingCopy.validate_noPorts (noneBad fun p h => by simp [all p] at h) absent)
  · have present : s.ctl.work.anyPort = true :=
      WorkingCopy.anyPort_iff.mpr (mix.elim fun p ⟨_, hp, _⟩ => ⟨p, hp⟩)
    refine failed (WorkingCopy.validate_mixed (noneBad good) present (find?_finRange_eq_some_iff.mpr ⟨?_, fun r hr => ?_⟩))
    · exact (mixed_iff q).mpr mix
    · exact Bool.eq_false_iff.mpr fun h => lower r hr ((mixed_iff r).mp h)
  · have passes : s.ctl.work.validate = none :=
      WorkingCopy.validate_passes (noneBad good) (WorkingCopy.anyPort_iff.mpr some)
        (find?_finRange_eq_none_iff.mpr fun q => Bool.eq_false_iff.mpr fun h => unmixed q ((mixed_iff q).mp h))
    have rebuild : s.validateStart = ((s.rebuildClear.rebuildSlots (allSlots.take s.rebuildReach)).setControl fun c =>
        { c with startPhase := .rebuilding s.rebuildReach }).drawFree := by
      unfold State.validateStart
      rw [passes]
    refine ⟨s.rebuildReach, _, Nat.min_le_left _ _, run rebuild, ?_⟩
    rw [closeEvent_of_not_draining _ _ (by simp [starting])]
    simp [State.drawFree, State.setControl]

end Sys2Proof.Machine
end

/-! Outside RUNNING no event makes a port SERVING (R12, R19, R65). -/
section

namespace Sys2Proof.Machine

/-- An operation that leaves the control registers alone and, outside RUNNING, makes no port SERVING. -/
structure Tame (s u : State) : Prop where
  ctl : u.ctl = s.ctl
  serving : s.ctl.engine ≠ .running → ∀ p, (u.port p).state = .serving → (s.port p).state = .serving

theorem Tame.refl (s : State) : Tame s s := ⟨rfl, fun _ _ => id⟩

theorem Tame.trans {s t u : State} (h : Tame s t) (k : Tame t u) : Tame s u where
  ctl := k.ctl.trans h.ctl
  serving e p := h.serving e p ∘ k.serving (h.ctl ▸ e) p

theorem Tame.foldl {α : Type} {f : State → α → State} (h : ∀ s a, Tame s (f s a)) (l : List α) (s : State) :
    Tame s (l.foldl f s) := by
  induction l generalizing s with
  | nil => exact .refl s
  | cons a rest ih => exact (h s a).trans (ih _)

theorem Tame.ite {c : Prop} [Decidable c] {s a b : State} (h : Tame s a) (k : Tame s b) : Tame s (if c then a else b) := by
  split <;> assumption

/-- An operation that leaves the ports alone. -/
theorem Tame.of_ports {s u : State} (hc : u.ctl = s.ctl) (hp : u.ports = s.ports) : Tame s u :=
  ⟨hc, fun _ p => by unfold State.port; rw [hp]; exact id⟩

variable (s : State)

/-! ### The named operations -/

theorem State.setPort_tame (p : Port) (x : PortRecord) (h : x.state = .serving → (s.port p).state = .serving) :
    Tame s (s.setPort p x) :=
  ⟨rfl, fun _ r k => by
    by_cases e : r = p
    · subst e; rw [s.port_setPort] at k; exact h k
    · rwa [s.port_setPort_ne e] at k⟩

theorem State.modifyPort_tame (p : Port) (f : PortRecord → PortRecord)
    (h : (f (s.port p)).state = .serving → (s.port p).state = .serving) : Tame s (s.modifyPort p f) :=
  s.setPort_tame p _ h

theorem State.updatePort_tame (p : Port) (f : PortRecord → PortRecord)
    (h : (f (s.port p)).state = .serving → (s.port p).state = .serving) : Tame s (s.updatePort p f) :=
  (s.modifyPort_tame p f h).trans (.of_ports rfl rfl)

theorem State.notePort_tame (p : Port) (f : PortRecord → PortRecord)
    (h : (f (s.port p)).state = .serving → (s.port p).state = .serving) : Tame s (s.notePort p f) :=
  (s.modifyPort_tame p f h).trans (.of_ports rfl rfl)

theorem State.updateLineCounters_tame (p : Port) (f : LineCounters → LineCounters) :
    Tame s (s.updateLineCounters p f) :=
  (s.modifyPort_tame p (fun x => { x with counters := f (s.port p).counters }) id).trans (.of_ports rfl rfl)

theorem State.updateDiscards_tame (p : Port) (f : Discards → Discards) : Tame s (s.updateDiscards p f) :=
  (s.modifyPort_tame p (fun x => { x with discards := f (s.port p).discards }) id).trans (.of_ports rfl rfl)

theorem State.setNotice_tame (b : NoticeBit) : Tame s (s.setNotice b) := .of_ports rfl rfl

theorem State.transmit_tame (p : Port) (f : Transmitter → Transmitter) : Tame s (s.transmit p f) :=
  s.modifyPort_tame p _ id

theorem State.setReceiver_tame (p : Port) (r : Receiver) : Tame s (s.setReceiver p r) := s.modifyPort_tame p _ id

theorem State.modifyPrint_tame (p : Port) (f : PrintService → PrintService) : Tame s (s.modifyPrint p f) :=
  s.modifyPort_tame p _ id

theorem State.modifyScan_tame (p : Port) (f : ScanService → ScanService) : Tame s (s.modifyScan p f) :=
  s.modifyPort_tame p _ id

theorem State.setContact_tame (p : Port) (i : Fin 10) (c : Contact) : Tame s (s.setContact p i c) :=
  s.modifyPort_tame p _ id

theorem State.setSlot_tame (g : Slot) (x : SlotShadow) : Tame s (s.setSlot g x) := .of_ports rfl rfl

theorem State.updateJob_tame (g : Slot) (f : JobRecord → JobRecord) : Tame s (s.updateJob g f) := .of_ports rfl rfl

/-! ### The block map and the touch router -/

theorem State.goTestAt_tame (p : Port) : Tame s (s.goTestAt p) :=
  .ite ((s.transmit_tame p _).trans (State.modifyPort_tame _ p _ id)) (.refl s)

theorem State.goTest_tame : Tame s s.goTest := .foldl State.goTestAt_tame _ _

theorem State.joinSpare_tame (blocks : List Nat) : Tame s (s.joinSpare blocks) := .of_ports (by simp) (by simp)

theorem State.returnResults_tame (g : Slot) : Tame s (s.returnResults g) := by
  unfold State.returnResults
  split
  · exact .refl s
  · exact ((s.joinSpare_tame _).trans (State.updateJob_tame _ _ _)).trans (State.goTest_tame _)

theorem State.closeSplice_tame (status : Word) : Tame s (s.closeSplice status) := .of_ports rfl rfl

theorem State.spliceRefill_tame : Tame s s.spliceRefill := by
  unfold State.spliceRefill
  refine .ite (.refl s) ?_
  dsimp only
  split
  · exact s.closeSplice_tame _
  · exact ((s.joinSpare_tame _).trans (State.closeSplice_tame _ _)).trans (State.goTest_tame _)

theorem State.judgeSpare_tame (before : Nat) : Tame s (s.judgeSpare before) := by
  unfold State.judgeSpare
  dsimp only
  split <;> split <;> exact .of_ports rfl rfl

theorem State.take_tame (p : Port) (g : Slot) : Tame s (s.take p g) := by
  unfold State.take
  split
  · exact .refl s
  · dsimp only
    refine Tame.trans ?_ (State.judgeSpare_tame _ _)
    refine Tame.trans ?_ (.of_ports (State.mirrorSpare_ctl _) (State.mirrorSpare_ports _))
    refine Tame.trans ?_ (State.modifyPort_tame _ p (fun x => { x with scan := _ }) id)
    split <;> exact .of_ports (by simp) (by simp)

theorem State.mailboxWrite_tame (st : Station) (r : Fin 4) (newlyTaken : Bool) (m : MailReport) :
    Tame s (s.mailboxWrite st r newlyTaken m) := .of_ports (by simp) (by simp)

theorem State.liftEntry_tame (zones holds : Bool) (p : Port) (after : Contact) (i : Fin 10) :
    Tame s (State.liftEntry zones holds p after s i) := by
  have lifted (c : Capture) : Tame s ((s.syntheticUp p i c).setContact p i after) :=
    (s.mailboxWrite_tame _ _ _ _).trans (State.setContact_tame _ p i after)
  unfold State.liftEntry
  split
  case h_1 c _ => exact .ite (lifted c) (.refl s)
  case h_2 c _ => exact .ite (lifted c) (.refl s)
  all_goals exact .refl s

theorem State.liftEntries_tame (p : Port) (zones holds : Bool) (after : Contact) :
    Tame s (s.liftEntries p zones holds after) := .foldl (fun s i => s.liftEntry_tame zones holds p after i) _ _

theorem State.closeTouch_tame (st : Station) : Tame s (s.closeTouch st) :=
  (Tame.foldl (fun (s : State) (p : Port) => s.modifyPort_tame p
    (fun x => { x with contacts := x.contacts.map (orphanOf st) }) id) allPorts s).trans
    (.foldl (fun s r => .of_ports (s.clearMailbox_ctl st r) (s.clearMailbox_ports st r)) _ _)

theorem State.sampleAllZones_tame : Tame s s.sampleAllZones :=
  .foldl (fun s p => .ite (s.modifyPort_tame p _ id) (.refl s)) _ _

theorem State.deliver_tame (p : Port) (i : Fin 10) (st : Station) (zone : Nat) (holder : Option Slot) (synthetic : Bool)
    (x y pressure : Nat) : Tame s (s.deliver p i st zone holder synthetic x y pressure) := by
  unfold State.deliver
  split
  · have captured (c : Contact) (r : Fin 4) (newlyTaken : Bool) (m : MailReport) :
        Tame s ((s.mailboxWrite st r newlyTaken m).setContact p i c) :=
      (s.mailboxWrite_tame _ _ _ _).trans (State.setContact_tame _ p i c)
    dsimp only
    split
    · exact (captured _ _ _ _).trans (State.updateJob_tame _ _ _)
    · exact captured _ _ _ _
  · exact (s.setContact_tame p i .dropped).trans (.of_ports rfl rfl)

theorem State.newContact_tame (p : Port) (i : Fin 10) (synthetic : Bool) (x y pressure : Nat) :
    Tame s (s.newContact p i synthetic x y pressure) := by
  unfold State.newContact
  split
  · exact s.deliver_tame _ _ _ _ _ _ _ _ _
  · split
    · exact .ite (s.updateDiscards_tame p _) (s.deliver_tame _ _ _ _ _ _ _ _ _)
    · exact s.updateDiscards_tame p _

theorem State.capturedReport_tame (p : Port) (i : Fin 10) (c : Capture) (rebuild : Capture → Contact) (phase : TouchPhase)
    (x y pressure : Nat) : Tame s (s.capturedReport p i c rebuild phase x y pressure) := by
  cases phase
  · exact ((s.mailboxWrite_tame _ _ _ _).trans (State.setContact_tame _ p i _)).trans (State.newContact_tame _ _ _ _ _ _ _)
  · exact (s.mailboxWrite_tame _ _ _ _).trans (State.setContact_tame _ p i _)
  · exact (s.mailboxWrite_tame _ _ _ _).trans (State.setContact_tame _ p i _)

theorem State.touch_tame (p : Port) (i : Fin 10) (phase : TouchPhase) (x y pressure : Nat) :
    Tame s (s.touch p i phase x y pressure) := by
  unfold State.touch
  split
  · cases phase
    · exact s.newContact_tame _ _ _ _ _ _
    · exact s.newContact_tame _ _ _ _ _ _
    · exact s.updateDiscards_tame p _
  · exact s.capturedReport_tame _ _ _ _ _ _ _ _
  · exact s.capturedReport_tame _ _ _ _ _ _ _ _
  all_goals
    cases phase
    · exact (s.setContact_tame p i _).trans (State.newContact_tame _ _ _ _ _ _ _)
    · exact .refl s
    · exact s.setContact_tame p i _

theorem State.takeReport_tame (p : Port) (r : ContactReport) : Tame s (State.takeReport p s r) := by
  unfold State.takeReport
  split
  · exact s.updateDiscards_tame p _
  · split
    · exact .ite (s.updateDiscards_tame p _) (s.touch_tame _ _ _ _ _ _)
    · exact s.updateDiscards_tame p _

/-! ### Ends of jobs -/

theorem State.finish_tame (g : Slot) (o : JobOutcome) (d : Detail) (reported : Option Word) :
    Tame s (s.finish g o d reported) := .of_ports (by simp) (by simp)

theorem State.finishQueued_tame (g : Slot) (o : JobOutcome) (d : Detail) : Tame s (s.finishQueued g o d) :=
  .of_ports (by simp [State.finishQueued]) (by simp [State.finishQueued])

theorem State.releasePort_tame (p : Port) : Tame s (s.releasePort p) :=
  s.updatePort_tame p _ fun h => by simp at h

theorem State.finishScan_tame (p : Port) (g : Slot) (o : JobOutcome) (d : Detail) (reported : Option Word) :
    Tame s (s.finishScan p g o d reported) := (s.finish_tame g o d reported).trans (State.releasePort_tame _ p)

theorem State.latchAll_tame (jobs : List Slot) : Tame s (s.latchAll jobs) := .of_ports (by simp) (by simp)

theorem State.requeuePreempted_tame (g : Slot) : Tame s (s.requeuePreempted g) := .of_ports (by simp) (by simp)

theorem State.requeueFaulted_tame (g : Slot) : Tame s (s.requeueFaulted g) := .of_ports (by simp) (by simp)

/-! ### Reviews -/

/-- In RUNNING nothing is said of the ports. -/
theorem Tame.of_running {u : State} (hc : u.ctl = s.ctl) (h : s.ctl.engine = .running) : Tame s u :=
  ⟨hc, fun k => absurd h k⟩

theorem State.review_tame (q : Pool) : Tame s (s.review q) := by
  cases e : s.ctl.engine with
  | running => exact .of_running s (s.review_kept q).ctl e
  | draining => unfold State.review; rw [e]; exact s.latchAll_tame _
  | wiping | stopped | starting => unfold State.review; rw [e]; exact .refl s

theorem State.reviewAll_tame : Tame s s.reviewAll := .foldl State.review_tame _ _

theorem State.reviewFreed_tame (p : Port) : Tame s (s.reviewFreed p) := .ite (s.review_tame _) (.refl s)

theorem State.reviewEnded_tame (before : State) (p : Port) : Tame s (s.reviewEnded before p) :=
  .ite (s.reviewFreed_tame p) (.refl s)

/-! ### Print -/

theorem State.countSheet_tame (p : Port) (g : Slot) (counted : Bool) : Tame s (s.countSheet p g counted) := by
  unfold State.countSheet
  split
  · exact (s.updateJob_tame g _).trans (State.modifyPrint_tame _ p _)
  · exact s.modifyPrint_tame p _

theorem State.beginSheet_tame (p : Port) (g : Slot) (copy sheet : Nat) : Tame s (s.beginSheet p g copy sheet) :=
  s.modifyPrint_tame p _

theorem State.closeSheet_tame (p : Port) (g : Slot) (next : Option (Nat × Nat)) : Tame s (s.closeSheet p g next).1 := by
  unfold State.closeSheet
  have latched : Tame s (if s.asksOutrank p g next.isSome then s.latchAll (s.outrankJobs p g) else s) :=
    .ite (s.latchAll_tame _) (.refl s)
  dsimp only
  split
  · exact (latched.trans (State.finish_tame _ _ _ _ _)).trans (State.releasePort_tame _ p)
  · exact ((latched.trans (State.updateJob_tame _ _ _)).trans (State.requeuePreempted_tame _ _)).trans
      (State.releasePort_tame _ p)
  · exact latched.trans (State.beginSheet_tame _ p g _ _)
  · exact latched

theorem State.sheetBoundary_tame (p : Port) (g : Slot) (counted : Bool) : Tame s (s.sheetBoundary p g counted).1 :=
  (s.countSheet_tame p g counted).trans (State.closeSheet_tame _ p g _)

theorem State.feedDue_tame (p : Port) (b n : Nat) : Tame s (s.feedDue p b n) :=
  .ite (s.modifyPrint_tame p _) ((s.modifyPrint_tame p _).trans (State.transmit_tame _ p _))

theorem State.reachEntries_tame (p : Port) (g : Slot) (n : Nat) (s : State) : Tame s (State.reachEntries p g n s) := by
  induction n generalizing s with
  | zero => exact .refl s
  | succ n ih =>
    unfold State.reachEntries
    split
    · exact .refl s
    · next e _ =>
      refine .ite (s.feedDue_tame p _ _) (.ite ((s.modifyPrint_tame p _).trans (ih _)) (.ite (s.modifyPrint_tame p _) ?_))
      have boundary := s.sheetBoundary_tame p g (s.port p).print.fed
      split
      next heq => rw [heq] at boundary; exact boundary.trans (ih _)
      next heq => rw [heq] at boundary; exact boundary

theorem State.runPrint_tame (p : Port) (g : Slot) : Tame s (s.runPrint p g) := State.reachEntries_tame p g _ s

theorem State.confirmSheet_tame (p : Port) (g : Slot) : Tame s (s.confirmSheet p g) := by
  unfold State.confirmSheet
  have boundary := s.sheetBoundary_tame p g true
  split
  next heq => rw [heq] at boundary; exact boundary.trans (State.runPrint_tame _ p g)
  next heq => rw [heq] at boundary; exact boundary

theorem State.feedAnswered_tame (p : Port) (g : Slot) : Tame s (s.feedAnswered p g) := by
  unfold State.feedAnswered
  split
  · exact .refl s
  · exact .ite ((s.modifyPrint_tame p _).trans (State.runPrint_tame _ p g))
      (.ite (s.confirmSheet_tame p g) (s.modifyPrint_tame p _))

theorem State.printCondition_tame (p : Port) (g : Slot) (c : Condition) : Tame s (s.printCondition p g c) :=
  .ite (s.modifyPrint_tame p _)
    (.ite ((s.modifyPrint_tame p _).trans (State.runPrint_tame _ p g)) (s.modifyPrint_tame p _))

theorem State.sheetTaken_tame (p : Port) (g : Slot) : Tame s (s.sheetTaken p g) := by
  unfold State.sheetTaken
  split
  · exact s.confirmSheet_tame p g
  · exact .ite (.refl s) (s.modifyPrint_tame p _)
  · exact .refl s
  · exact .refl s

/-! ### Scan -/

theorem State.roomForByte_tame (p : Port) (g : Slot) : Tame s (s.roomForByte p g) := by
  unfold State.roomForByte
  split
  · exact .ite (.refl s) (s.take_tame p g)
  · exact s.take_tame p g

theorem State.storeByte_tame (p : Port) (g : Slot) (b : Byte) : Tame s (State.storeByte p g s b) := by
  unfold State.storeByte
  dsimp only
  split
  · exact s.roomForByte_tame p g
  · exact ((s.roomForByte_tame p g).trans (.of_ports (by simp) (by simp))).trans (State.modifyScan_tame _ p _)

theorem State.truncate_tame (p : Port) : Tame s (s.truncate p) :=
  (s.transmit_tame p _).trans (State.modifyScan_tame _ p _)

theorem State.storeImage_tame (p : Port) (g : Slot) (data : List Byte) : Tame s (s.storeImage p g data) := by
  have answered := ((Tame.foldl (fun s b => State.storeByte_tame s p g b) data s).trans
    (State.modifyScan_tame _ p fun x => { x with phase := .taking, starveTimer := none })).trans
    (State.transmit_tame _ p (placeReply .ack))
  exact .ite (answered.trans (State.truncate_tame _ p)) answered

theorem State.imageTaken_tame (p : Port) (g : Slot) (data : List Byte) : Tame s (s.imageTaken p g data) :=
  .ite (.ite (s.storeImage_tame p g _) ((s.transmit_tame p _).trans (State.modifyScan_tame _ p _))) (.refl s)

theorem State.imageEndTaken_tame (p : Port) (g : Slot) (total : Word) : Tame s (s.imageEndTaken p g total) :=
  .ite (.ite ((s.transmit_tame p _).trans (State.finishScan_tame _ p g _ _ _))
    ((s.transmit_tame p _).trans (State.finishScan_tame _ p g _ _ _))) (.refl s)

theorem State.closeScanFrames_tame (p : Port) : Tame s (s.closeScanFrames p) := by
  unfold State.closeScanFrames
  split
  · exact (s.transmit_tame p _).trans (State.transmit_tame _ p _)
  · exact s.transmit_tame p _
  · exact s.transmit_tame p _
  · exact .refl s
  · exact .refl s

theorem State.endScan_tame (p : Port) (g : Slot) (o : JobOutcome) (d : Detail) : Tame s (s.endScan p g o d) :=
  (s.closeScanFrames_tame p).trans (State.finishScan_tame _ p g o d none)

theorem State.starveOut_tame (p : Port) (g : Slot) : Tame s (s.starveOut p g) :=
  (s.transmit_tame p _).trans (State.finishScan_tame _ p g _ _ _)

/-! ### Hold -/

theorem State.holdExpired_tame (p : Port) (g : Slot) : Tame s (s.holdExpired p g) :=
  (((s.updateJob_tame g _).trans (State.liftEntries_tame _ p false true .orphan)).trans
    (State.finish_tame _ g .done .none none)).trans (State.releasePort_tame _ p)

theorem State.holdCancelled_tame (p : Port) (g : Slot) : Tame s (s.holdCancelled p g) :=
  (((s.updateJob_tame g _).trans (State.liftEntries_tame _ p false true .orphan)).trans
    (State.finish_tame _ g .cancelled .byHost none)).trans (State.releasePort_tame _ p)

theorem State.holdClosed_tame (p : Port) (g : Slot) : Tame s (s.holdClosed p g) :=
  (((s.updateJob_tame g _).trans (State.modifyPort_tame _ p _ id)).trans
    (State.finish_tame _ g .cancelled .stationClosed none)).trans (State.releasePort_tame _ p)

theorem State.holdStopped_tame (p : Port) (g : Slot) : Tame s (s.holdStopped p g) :=
  ((s.updateJob_tame g _).trans (State.finish_tame _ g .doneShort .engineStop none)).trans (State.releasePort_tame _ p)

/-! ### Faults -/

theorem State.enterFaulted_tame (p : Port) (c : Option Condition) : Tame s (s.enterFaulted p c) :=
  ((s.liftEntries_tame p true true .orphan).trans
    (State.updatePort_tame _ p (faultPort s.ctl.clock (s.portConfig p).probeInterval p c) fun h => by
      simp [faultPort] at h)).trans (State.setNotice_tame _ _)

theorem State.enterFree_tame (p : Port) : Tame s (s.enterFree p) :=
  ((s.updatePort_tame p (fun x => { x with state := .free, condition := .ready, probeTimer := none }) fun h => by
    simp at h).trans (State.setNotice_tame _ _)).trans (State.review_tame _ _)

theorem State.keepHold_tame (g : Slot) (ms : Nat) : Tame s (s.keepHold g ms) := s.updateJob_tame g _

theorem State.keepProgress_tame (p : Port) (g : Slot) : Tame s (s.keepProgress p g) := by
  unfold State.keepProgress
  split
  · exact s.updateJob_tame g _
  · exact s.keepHold_tame g _
  all_goals exact .refl s

theorem State.requeueByFault_tame (p : Port) (g : Slot) : Tame s (s.requeueByFault p g) :=
  ((s.requeueFaulted_tame g).trans (State.modifyScan_tame _ p _)).trans (State.returnResults_tame _ g)

theorem State.faultEnd_tame (p : Port) (g : Slot) (c : Option Condition) : Tame s (s.faultEnd p g c) := by
  unfold State.faultEnd
  dsimp only
  split
  · exact ((s.keepProgress_tame p g).trans (State.finish_tame _ _ _ _ _)).trans (State.enterFaulted_tame _ p c)
  · exact (((s.keepProgress_tame p g).trans (State.requeueByFault_tame _ p g)).trans
      (State.enterFaulted_tame _ p c)).trans (State.review_tame _ _)

theorem State.faultAt_tame (p : Port) (c : Condition) : Tame s (s.faultAt p c) := by
  unfold State.faultAt
  split
  · exact s.enterFaulted_tame p _
  · exact s.enterFaulted_tame p _
  · split
    · exact s.faultEnd_tame p _ _
    · exact .refl s
  · exact s.notePort_tame p _ id
  · exact .refl s

/-! ### The examination of a slot and the visit -/

theorem State.enqueue_tame (g : Slot) (r : Request) (v : Validated) : Tame s (s.enqueue g r v) := by
  unfold State.enqueue
  dsimp only
  refine Tame.trans ?_ (State.review_tame _ _)
  split <;> exact .of_ports (by simp [State.writeAcceptance]) (by simp [State.writeAcceptance])

theorem State.accept_tame (g : Slot) : Tame s (s.accept g) := by
  unfold State.accept
  dsimp only
  split
  · exact .of_ports (by simp) (by simp)
  · exact .ite (.of_ports (by simp) (by simp)) (s.enqueue_tame g _ _)

theorem State.acceptIfRunning_tame (g : Slot) : Tame s (s.acceptIfRunning g) := .ite (s.accept_tame g) (.refl s)

theorem State.release_tame (g : Slot) : Tame s (s.release g) :=
  .of_ports (by simp [State.release, State.releaseResults]) (by simp [State.release, State.releaseResults])

theorem State.cancelServing_tame (g : Slot) : Tame s (s.cancelServing g) := by
  unfold State.cancelServing
  split
  · exact s.updateJob_tame g _
  · exact (s.endScan_tame _ g _ _).trans (State.reviewFreed_tame _ _)
  · exact (s.holdCancelled_tame _ g).trans (State.reviewFreed_tame _ _)
  · exact .refl s

theorem State.examine_tame (g : Slot) : Tame s (s.examine g) := by
  unfold State.examine
  split
  · exact .refl s
  · exact s.acceptIfRunning_tame g
  · exact s.acceptIfRunning_tame g
  · exact .ite (s.finishQueued_tame g _ _) (.refl s)
  · exact .ite (s.cancelServing_tame g) (.refl s)
  · exact .refl s
  · exact s.release_tame g
  · exact (s.release_tame g).trans (State.acceptIfRunning_tame _ g)
  · exact .of_ports rfl rfl

theorem State.closeSlot_tame (g : Slot) : Tame s (s.closeSlot g) := by
  unfold State.closeSlot
  split
  · exact s.finishQueued_tame g _ _
  · split
    · exact s.updateJob_tame g _
    · exact s.endScan_tame _ g _ _
    · exact s.holdClosed_tame _ g
    · exact .refl s
  all_goals exact .refl s

theorem State.closeStation_tame (st : Station) : Tame s (s.closeStation st) :=
  ((Tame.foldl State.closeSlot_tame _ s).trans (State.closeTouch_tame _ st)).trans
    (.foldl (fun s p => s.review_tame (s.portConfig p).pool) _ _)

theorem State.reopenStation_tame (st : Station) : Tame s (s.reopenStation st) :=
  .foldl (fun s q => .ite (s.review_tame q) (.refl s)) _ _

theorem State.changeStation_tame (st : Station) (before after : StationState) :
    Tame s (s.changeStation st before after) := by
  unfold State.changeStation
  split
  · exact s.closeStation_tame st
  · exact s.closeStation_tame st
  · exact s.reopenStation_tame st
  all_goals exact .refl s

/-! ### Line events -/

theorem State.tellService_tame (p : Port) (f : Offered) : Tame s (s.tellService p f) := by
  unfold State.tellService
  split
  · refine .ite ?_ (.refl s)
    split
    · exact s.feedAnswered_tame p _
    · exact s.modifyScan_tame p _
    · exact s.finishScan_tame p _ _ _ _
    · exact .refl s
  · exact .refl s

theorem State.ackTaken_tame (p : Port) : Tame s (s.ackTaken p) := by
  unfold State.ackTaken
  split
  · exact ((s.transmit_tame p _).trans (State.tellService_tame _ p _)).trans (State.reviewEnded_tame _ _ p)
  · exact .refl s

theorem State.sendFailed_tame (p : Port) (c : Condition) : Tame s (s.sendFailed p c) := by
  unfold State.sendFailed
  split
  · have failed := (s.transmit_tame p abandonOutstanding).trans (State.faultAt_tame _ p c)
    exact .ite ((s.updateLineCounters_tame p _).trans (State.transmit_tame _ p _))
      (.ite failed (failed.trans (State.transmit_tame _ p _)))
  · exact .refl s

theorem State.nakTaken_tame (p : Port) : Tame s (s.nakTaken p) := by
  unfold State.nakTaken
  split
  · exact s.sendFailed_tame p _
  · exact .refl s

theorem State.stateAnswers_tame (p : Port) (c : Condition) : Tame s (s.stateAnswers p c) := by
  unfold State.stateAnswers
  split <;> exact .ite (s.transmit_tame p _) (.refl s)

theorem State.stateActs_tame (p : Port) (c : Condition) : Tame s (s.stateActs p c) := by
  unfold State.stateActs
  split
  · exact .refl s
  · exact .ite (s.enterFree_tame p) (s.enterFaulted_tame p _)
  · exact .ite (.refl s) (s.enterFaulted_tame p _)
  · split
    · exact .ite (.ite ((s.printCondition_tame p _ c).trans (State.reviewEnded_tame _ _ p)) (.refl s))
        (s.faultEnd_tame p _ _)
    · exact .refl s
  · exact .ite (s.enterFree_tame p) (.refl s)

theorem State.stateTaken_tame (p : Port) (c : Condition) (capability : Byte) : Tame s (s.stateTaken p c capability) :=
  ((s.stateAnswers_tame p c).trans (State.notePort_tame _ p
    (fun x => { x with condition := c, capability := capabilityOf (s.portConfig p).cls capability }) id)).trans
    (State.stateActs_tame _ p c)

theorem State.dispatch_tame (p : Port) (f : PeripheralFrame) : Tame s (s.dispatch p f) := by
  unfold State.dispatch
  split
  · exact s.ackTaken_tame p
  · exact s.nakTaken_tame p
  · split
    · exact s.stateTaken_tame p _ _
    · exact .refl s
  · split
    · exact (s.sheetTaken_tame p _).trans (State.reviewEnded_tame _ _ p)
    · exact .refl s
  · split
    · exact s.imageTaken_tame p _ _
    · exact .refl s
  · split
    · exact (s.imageEndTaken_tame p _ _).trans (State.reviewEnded_tame _ _ p)
    · exact .refl s
  · exact .ite (.foldl (fun s r => s.takeReport_tame p r) _ _) (.refl s)

theorem State.rejectCheck_tame (p : Port) (kind : Byte) : Tame s (s.rejectCheck p kind) :=
  .ite ((s.updateLineCounters_tame p _).trans (State.transmit_tame _ p _)) (s.updateLineCounters_tame p _)

theorem State.frameComplete_tame (p : Port) (kind : Byte) (payload : List Byte) (check : Byte) :
    Tame s (s.frameComplete p kind payload check) := by
  have hunting := s.setReceiver_tame p .hunting
  unfold State.frameComplete
  refine .ite (hunting.trans (State.rejectCheck_tame _ p kind)) ?_
  split
  · exact hunting.trans (State.dispatch_tame _ p _)
  · exact hunting.trans (State.updateLineCounters_tame _ p _)

theorem State.frameCharacter_tame (p : Port) (b : Byte) : Tame s (s.frameCharacter p b) := by
  unfold State.frameCharacter
  split
  · exact .refl s
  · exact .refl s
  · exact .ite ((s.setReceiver_tame p _).trans (State.updateLineCounters_tame _ p _))
      (.ite (s.setReceiver_tame p _) (s.setReceiver_tame p _))
  · exact .ite (s.setReceiver_tame p _) (s.setReceiver_tame p _)
  · exact s.frameComplete_tame p _ _ _

theorem State.receive_tame (p : Port) (c : Character) : Tame s (s.receive p c) := by
  unfold State.receive
  split
  · exact (s.setReceiver_tame p _).trans (State.updateLineCounters_tame _ p _)
  · exact (s.setReceiver_tame p _).trans (State.updateLineCounters_tame _ p _)
  · refine .ite ?_ (s.frameCharacter_tame p _)
    split
    · exact s.setReceiver_tame p _
    · exact s.setReceiver_tame p _
    · exact (s.updateLineCounters_tame p _).trans (State.setReceiver_tame _ p _)

theorem State.characterEvent_tame (p : Port) (c : LineCharacter) : Tame s (s.characterEvent p c) := by
  have wait : Tame s (s.endWait p) := .ite (s.setReceiver_tame p _) (.refl s)
  unfold State.characterEvent
  refine .ite ?_ (.refl s)
  split
  · exact wait.trans (.ite ((State.receive_tame _ p _).trans (State.setReceiver_tame _ p _)) (State.receive_tame _ p _))
  · exact wait

theorem State.frameEvent_tame (p : Port) (f : PeripheralFrame) : Tame s (s.frameEvent p f) :=
  .ite (.ite ((s.setReceiver_tame p _).trans (State.dispatch_tame _ p f))
    ((s.setReceiver_tame p _).trans (State.updateLineCounters_tame _ p _))) (.refl s)

theorem State.rejectEvent_tame (p : Port) (kind : Byte) (payload : List Byte) (check : Byte) :
    Tame s (s.rejectEvent p kind payload check) := by
  have hunting := s.setReceiver_tame p .hunting
  unfold State.rejectEvent
  refine .ite (.ite (hunting.trans (State.rejectCheck_tame _ p kind)) ?_) (.refl s)
  split
  · exact .refl s
  · exact hunting.trans (State.updateLineCounters_tame _ p _)

theorem portSent_state (clock : Stamp) (timeout : Nat) (x : PortRecord) : (portSent clock timeout x).state = x.state := by
  unfold portSent
  split <;> rfl

theorem State.sentEvent_tame (p : Port) : Tame s (s.sentEvent p) :=
  s.modifyPort_tame p _ fun h => portSent_state _ _ _ ▸ h

/-! ### Expiries -/

theorem State.deadlineEvent_tame : Tame s s.deadlineEvent := by
  unfold State.deadlineEvent
  split
  · exact .of_ports (by simp [State.expireJob]) (by simp [State.expireJob])
  · exact .refl s

theorem State.halveUsage_tame (st : Station) : Tame s (s.halveUsage st) :=
  .ite (.refl s) (.of_ports (s.updateCounters_ctl st _ _) (s.updateCounters_ports st _ _))

theorem State.decayStep_tame : Tame s s.decayStep :=
  (Tame.foldl State.halveUsage_tame allStations s).trans (State.reviewAll_tame _)

theorem State.responseEvent_tame (p : Port) : Tame s (s.responseEvent p) :=
  .ite ((s.transmit_tame p _).trans (State.sendFailed_tame _ p _)) (.refl s)

theorem State.probeEvent_tame (p : Port) : Tame s (s.probeEvent p) :=
  .ite (.ite ((s.modifyPort_tame p _ id).trans (State.transmit_tame _ p _)) (s.modifyPort_tame p _ id)) (.refl s)

theorem State.sheetEvent_tame (p : Port) : Tame s (s.sheetEvent p) := by
  unfold State.sheetEvent
  refine .ite ?_ (.refl s)
  split
  · exact s.faultEnd_tame p _ _
  · exact .refl s

theorem State.starveEvent_tame (p : Port) : Tame s (s.starveEvent p) := by
  unfold State.starveEvent
  refine .ite ?_ (.refl s)
  split
  · exact (s.starveOut_tame p _).trans (State.reviewFreed_tame _ p)
  · exact .refl s

theorem State.holdEvent_tame (p : Port) : Tame s (s.holdEvent p) := by
  unfold State.holdEvent
  refine .ite ?_ (.refl s)
  split
  · exact (s.holdExpired_tame p _).trans (State.reviewFreed_tame _ p)
  · exact .refl s

end Sys2Proof.Machine
end

/-! The engine: which events keep its state, and the rows of the table by which it moves (R12, R20); the registers that change
by their own commands (R5 to R7, R14); and the part at rest (R11, R12). -/
section

namespace Sys2Proof.Machine

variable {s t u : State} {c : Instr}

/-! ### Events in a state of the engine -/

/-- An event, before it is closed, that leaves the state of the engine, the working copy and the progress of START alone. -/
structure Stays (s u : State) : Prop where
  moves : Moves s u
  engine : u.ctl.engine = s.ctl.engine
  startPhase : u.ctl.startPhase = s.ctl.startPhase
  work : u.ctl.work = s.ctl.work
  serving : s.ctl.engine ≠ .running → ∀ p, (u.port p).state = .serving → (s.port p).state = .serving

theorem Kept.stays (h : Kept s u) (k : Tame s u) : Stays s u :=
  ⟨h.moves, by rw [h.ctl], by rw [h.ctl], by rw [h.ctl], k.serving⟩

theorem Stays.refl (s : State) : Stays s s := (Kept.refl s).stays (.refl s)

theorem Stays.trans (h : Stays s t) (k : Stays t u) : Stays s u where
  moves := h.moves.trans k.moves
  engine := k.engine.trans h.engine
  startPhase := k.startPhase.trans h.startPhase
  work := k.work.trans h.work
  serving e p := h.serving e p ∘ k.serving (h.engine ▸ e) p

/-- A change of the sweeper's and the timers' control registers. -/
theorem State.setControl_stays {f : Control → Control} (h : Moves s (s.setControl f))
    (he : (f s.ctl).engine = s.ctl.engine) (hs : (f s.ctl).startPhase = s.ctl.startPhase)
    (hw : (f s.ctl).work = s.ctl.work) : Stays s (s.setControl f) :=
  ⟨h, he, hs, hw, fun _ _ => id⟩

/-- What an event, closed, keeps: the registers of the host, the notices already set; and the state of the engine, but for the
end of draining. -/
structure Ends (s t : State) : Prop where
  mask : t.ctl.mask = s.ctl.mask
  enabled : t.ctl.messagesEnabled = s.ctl.messagesEnabled
  notice : s.notice ||| t.notice = t.notice
  stationNotice : s.stationNotice ||| t.stationNotice = t.stationNotice
  work : t.ctl.work = s.ctl.work
  startPhase : t.ctl.startPhase = s.ctl.startPhase
  engine : t.ctl.engine = s.ctl.engine ∨ s.ctl.engine = .draining ∧ t.ctl.engine = .stopped ∧ s.anyServing = true ∧
    t.anyServing = false ∧ noticeMask .engine ||| t.notice = t.notice
  drained : s.ctl.engine = .draining → s.anyServing = true → t.anyServing = false → t.ctl.engine = .stopped
  serving : s.ctl.engine ≠ .running → t.anyServing = true → s.anyServing = true

theorem State.anyServing_iff (s : State) : s.anyServing = true ↔ ∃ p, (s.port p).state = .serving := by
  simp [State.anyServing, State.isServing, allPorts]

theorem State.anyServing_eq_false_iff (s : State) : s.anyServing = false ↔ ∀ p, (s.port p).state ≠ .serving := by
  simp [State.anyServing, State.isServing, allPorts]

theorem Stays.anyServing (h : Stays s u) (e : s.ctl.engine ≠ .running) (k : u.anyServing = true) : s.anyServing = true :=
  have ⟨p, hp⟩ := u.anyServing_iff.mp k
  s.anyServing_iff.mpr ⟨p, h.serving e p hp⟩

theorem State.enterStopped_anyServing (s : State) : s.enterStopped.anyServing = false :=
  (State.anyServing_eq_false_iff _).mpr fun p => by
    rw [s.enterStopped_port]
    exact PortState.noConfusion

theorem settleInterrupt_anyServing (s u : State) : (settleInterrupt s u).anyServing = u.anyServing := by
  rw [settleInterrupt_eq]; rfl

theorem settleInterrupt_notice (s u : State) : (settleInterrupt s u).notice = u.notice := by rw [settleInterrupt_eq]

theorem settleInterrupt_stationNotice (s u : State) : (settleInterrupt s u).stationNotice = u.stationNotice := by
  rw [settleInterrupt_eq]

theorem settleInterrupt_mem (s u : State) : (settleInterrupt s u).mem = u.mem := by rw [settleInterrupt_eq]

theorem settleInterrupt_engine (s u : State) : (settleInterrupt s u).ctl.engine = u.ctl.engine := by
  rw [settleInterrupt_eq]

theorem settleInterrupt_startPhase (s u : State) : (settleInterrupt s u).ctl.startPhase = u.ctl.startPhase := by
  rw [settleInterrupt_eq]

theorem settleInterrupt_work (s u : State) : (settleInterrupt s u).ctl.work = u.ctl.work := by rw [settleInterrupt_eq]

theorem drainEnd_work (s u : State) : (drainEnd s u).ctl.work = u.ctl.work := by
  rcases drainEnd_cases s u with h | ⟨-, -, -, h⟩ <;> rw [h]
  rw [u.enterStopped_ctl]; rfl

theorem closeEvent_work (s u : State) : (closeEvent s u).ctl.work = u.ctl.work :=
  (settleInterrupt_work _ _).trans (drainEnd_work s u)

theorem Stays.ends (h : Stays s u) : Ends s (closeEvent s u) := by
  have settled := close_settled h.moves
  refine ⟨settled.mask, settled.enabled, settled.notice, settled.stationNotice, (closeEvent_work s u).trans h.work, ?start,
    ?engine, ?drained, ?serving⟩
  all_goals rcases drainEnd_cases s u with e | ⟨draining, before, after, e⟩
  case start.inl => rw [closeEvent, settleInterrupt_startPhase, e, h.startPhase]
  case start.inr => rw [closeEvent, settleInterrupt_startPhase, e, u.enterStopped_ctl]; exact h.startPhase
  case engine.inl => exact .inl (by rw [closeEvent, settleInterrupt_engine, e, h.engine])
  case engine.inr =>
    refine .inr ⟨h.engine ▸ draining, ?_, before, ?_, ?_⟩
    · rw [closeEvent, settleInterrupt_engine, e, u.enterStopped_ctl]; rfl
    · rw [closeEvent, settleInterrupt_anyServing, e, u.enterStopped_anyServing]
    · rw [closeEvent, settleInterrupt_notice, e, u.enterStopped_notice, ← BitVec.or_assoc,
        BitVec.or_comm (noticeMask _), BitVec.or_assoc, BitVec.or_self]
  case drained.inl =>
    intro draining before after
    rw [closeEvent, settleInterrupt_anyServing, e] at after
    have stop : drainEnd s u = u.enterStopped := if_pos ⟨h.engine.trans draining, before, after⟩
    rw [closeEvent, settleInterrupt_engine, stop, u.enterStopped_ctl]
    rfl
  case drained.inr => intro _ _ _; rw [closeEvent, settleInterrupt_engine, e, u.enterStopped_ctl]; rfl
  case serving.inl => rw [closeEvent, settleInterrupt_anyServing, e]; exact h.anyServing
  case serving.inr => exact fun _ _ => before

theorem Ends.refl (s : State) : Ends s s :=
  ⟨rfl, rfl, BitVec.or_self, BitVec.or_self, rfl, rfl, .inl rfl, fun _ h k => by simp [h] at k, fun _ => id⟩

/-- Where a service runs after the two events, one ran between them: outside RUNNING none starts. -/
theorem Ends.trans (h : Ends s t) (k : Ends t u) : Ends s u where
  mask := k.mask.trans h.mask
  enabled := k.enabled.trans h.enabled
  notice := by rw [← k.notice, ← BitVec.or_assoc, h.notice]
  stationNotice := by rw [← k.stationNotice, ← BitVec.or_assoc, h.stationNotice]
  work := k.work.trans h.work
  startPhase := k.startPhase.trans h.startPhase
  engine := by
    rcases h.engine with e | ⟨draining, stopped, before, after, set⟩
    · rcases k.engine with e' | ⟨draining, stopped, before, after, set⟩
      · exact .inl (e'.trans e)
      · exact .inr ⟨e ▸ draining, stopped, h.serving (by rw [← e, draining]; decide) before, after, set⟩
    · refine .inr ⟨draining, ?_, before, ?_, ?_⟩
      · rcases k.engine with e' | ⟨d, -⟩
        · exact e'.trans stopped
        · rw [stopped] at d; cases d
      · exact Bool.eq_false_iff.mpr fun z => by simp [k.serving (by rw [stopped]; decide) z] at after
      · rw [← k.notice, ← BitVec.or_assoc, set]
  drained draining before after := by
    rcases h.engine with e | ⟨-, stopped, -⟩
    · by_cases mid : t.anyServing = true
      · exact k.drained (e.trans draining) mid after
      · have stopped := h.drained draining before (Bool.eq_false_iff.mpr mid)
        rcases k.engine with e' | ⟨d, -⟩
        · exact e'.trans stopped
        · rw [stopped] at d; cases d
    · rcases k.engine with e' | ⟨d, -⟩
      · exact e'.trans stopped
      · rw [stopped] at d; cases d
  serving e after := by
    refine h.serving e (k.serving ?_ after)
    rcases h.engine with e' | ⟨-, stopped, -⟩
    · exact e' ▸ e
    · rw [stopped]; decide

theorem Ends.foldl {α : Type} {f : State → α → State} (h : ∀ s a, Ends s (f s a)) (l : List α) (s : State) :
    Ends s (l.foldl f s) := by
  induction l generalizing s with
  | nil => exact .refl s
  | cons a rest ih => exact (h s a).trans (ih _)

/-- A change of control registers that concerns none of this. -/
theorem State.setControl_ends {f : Control → Control} (hm : (f s.ctl).mask = s.ctl.mask)
    (hb : (f s.ctl).messagesEnabled = s.ctl.messagesEnabled) (hw : (f s.ctl).work = s.ctl.work)
    (hs : (f s.ctl).startPhase = s.ctl.startPhase) (he : (f s.ctl).engine = s.ctl.engine) : Ends s (s.setControl f) :=
  ⟨hm, hb, BitVec.or_self, BitVec.or_self, hw, hs, .inl he,
    fun _ h k => absurd h (Bool.eq_false_iff.mp ((State.anyServing_of_ports rfl).symm.trans k)),
    fun _ h => (State.anyServing_of_ports (s := s) (t := s.setControl f) rfl).symm.trans h⟩

/-! ### The events of the sweeper and of the hall tick -/

theorem startSweepIfDue_engine (c : Control) : (startSweepIfDue c).engine = c.engine ∧
    (startSweepIfDue c).startPhase = c.startPhase ∧ (startSweepIfDue c).work = c.work := by
  unfold startSweepIfDue beginSweep
  split <;> [split; skip] <;> exact ⟨rfl, rfl, rfl⟩

theorem expireSweepTimer_engine (c : Control) : (expireSweepTimer c).engine = c.engine ∧
    (expireSweepTimer c).startPhase = c.startPhase ∧ (expireSweepTimer c).work = c.work := by
  unfold expireSweepTimer
  split
  · exact ⟨rfl, rfl, rfl⟩
  · exact startSweepIfDue_engine _

theorem endSweep_engine (w : Sweep) (c : Control) : (endSweep w c).engine = c.engine ∧
    (endSweep w c).startPhase = c.startPhase ∧ (endSweep w c).work = c.work := by
  unfold endSweep
  split <;> exact ⟨rfl, rfl, rfl⟩

theorem State.makeVisit_stays (s : State) (st : Station) : Stays s (s.makeVisit st) := by
  have sampled : Tame (s.setControl (beginVisit s.mem st)) (s.makeVisit st) :=
    (State.changeStation_tame _ st _ _).trans (.foldl State.examine_tame _ _)
  have ctl := sampled.ctl
  exact ⟨s.makeVisit_moves st, by rw [ctl]; rfl, by rw [ctl]; rfl, by rw [ctl]; rfl, sampled.serving⟩

theorem State.closeSweep_stays (s : State) (w : Sweep) : Stays s (s.closeSweep w) := by
  have tame : Tame s s.sampleAllZones.spliceRefill.reviewAll :=
    (s.sampleAllZones_tame.trans (State.spliceRefill_tame _)).trans (State.reviewAll_tame _)
  obtain ⟨engine, startPhase, work⟩ := endSweep_engine w s.sampleAllZones.spliceRefill.reviewAll.ctl
  rw [tame.ctl] at engine startPhase work
  exact ⟨s.closeSweep_moves w, by rw [State.closeSweep, State.setControl_ctl, tame.ctl, engine],
    by rw [State.closeSweep, State.setControl_ctl, tame.ctl, startPhase],
    by rw [State.closeSweep, State.setControl_ctl, tame.ctl, work], tame.serving⟩

theorem State.sweepTimerEvent_stays (s : State) : Stays s s.sweepTimerEvent := by
  unfold State.sweepTimerEvent
  split
  · obtain ⟨engine, startPhase, work⟩ := expireSweepTimer_engine s.ctl
    exact State.setControl_stays (s.setControl_same_samples _ expireSweep_same) engine startPhase work
  · exact .refl s

theorem State.decayEvent_stays (s : State) : Stays s s.decayEvent := by
  unfold State.decayEvent
  split
  · refine Stays.trans ?_ ((State.decayStep_kept _).stays (State.decayStep_tame _))
    refine State.setControl_stays ?_ rfl rfl rfl
    exact s.setControl_same_samples _ fun _ => ⟨rfl, rfl, rfl, rfl, rfl⟩
  · exact .refl s

theorem State.deadlineExpiries_ends (n : Nat) (s : State) : Ends s (State.deadlineExpiries n s) := by
  induction n generalizing s with
  | zero => exact .refl s
  | succ n ih =>
    unfold State.deadlineExpiries
    split
    · exact (s.deadlineEvent_kept.stays s.deadlineEvent_tame).ends.trans (ih _)
    · exact .refl s

theorem State.portExpiries_ends (s : State) (p : Port) : Ends s (s.portExpiries p) :=
  (((((State.responseEvent_kept s p).stays (State.responseEvent_tame s p)).ends.trans
    ((State.probeEvent_kept _ p).stays (State.probeEvent_tame _ p)).ends).trans
    ((State.sheetEvent_kept _ p).stays (State.sheetEvent_tame _ p)).ends).trans
    ((State.starveEvent_kept _ p).stays (State.starveEvent_tame _ p)).ends).trans
    ((State.holdEvent_kept _ p).stays (State.holdEvent_tame _ p)).ends

theorem State.takeExpiries_ends (s : State) : Ends s s.takeExpiries :=
  (((s.deadlineExpiries_ends _).trans (State.sweepTimerEvent_stays _).ends).trans (State.decayEvent_stays _).ends).trans
    (.foldl State.portExpiries_ends _ _)

theorem State.tick_ends (s : State) : Ends s s.tick := by
  unfold State.tick
  split
  · exact s.takeExpiries_ends.trans (State.setControl_ends rfl rfl rfl rfl rfl)
  · exact State.setControl_ends rfl rfl rfl rfl rfl

/-! ### Commands that leave the state of the engine to the services -/

/-- The commands that move the engine, and the writes of the host's own registers. -/
def setsRegisters : Instr → Bool
  | .powerOnReset | .wipeCompletion | .start | .stop | .wipe | .reset | .configurationValidation | .startCompletion
  | .noticeWrite _ | .maskWrite _ | .stationNoticeWrite _ | .messagesEnabledChange _ => true
  | _ => false

theorem exec_ends (wf : c.wellFormed = true) (hc : setsRegisters c = false) (h : exec c s = .next t) : Ends s t := by
  cases c
  case powerOnReset | wipeCompletion | start | stop | wipe | reset | configurationValidation | startCompletion
    | noticeWrite | maskWrite | stationNoticeWrite | messagesEnabledChange => cases hc
  case nudgeVisit st =>
    cases h
    unfold State.nudgeVisit
    split
    · exact State.setControl_ends rfl rfl rfl rfl rfl
    · exact .refl s
  case nudgeWholeSweep =>
    cases h
    unfold State.nudgeSweep
    split
    · exact State.setControl_ends rfl rfl rfl rfl rfl
    · exact .refl s
  case registerWriteIgnored offset lanes w =>
    simp only [exec, execRegisterWriteIgnored] at h
    split at h
    · cases h
    · split at h <;> cases h
      rw [State.registerWrite_of_wellFormed wf s, closeEvent_self]
      exact .refl s
  case hallTick => cases h; exact s.tick_ends
  case deadlineExpiry => cases h; exact (s.deadlineEvent_kept.stays s.deadlineEvent_tame).ends
  case sweepTimerExpiry => cases h; exact s.sweepTimerEvent_stays.ends
  case wholeSweepStart =>
    cases h
    obtain ⟨engine, startPhase, work⟩ := startSweepIfDue_engine s.ctl
    obtain ⟨-, mask, enabled, -⟩ := startSweep_same s.ctl
    exact State.setControl_ends mask enabled work startPhase engine
  case visit st =>
    simp only [exec, execVisit] at h
    split at h <;> cases h
    · exact (s.makeVisit_stays st).ends
    · exact .refl s
  case wholeSweepEnd =>
    simp only [exec, execWholeSweepEnd] at h
    split at h
    · split at h <;> cases h
      · exact (s.closeSweep_stays _).ends
      · exact .refl s
    · cases h; exact .refl s
  case decayTimerExpiry => cases h; exact s.decayEvent_stays.ends
  case characterReceived p ch => cases h; exact ((s.characterEvent_kept p ch).stays (s.characterEvent_tame p ch)).ends
  case frameRejected p k l x => cases h; exact ((s.rejectEvent_kept p k l x).stays (s.rejectEvent_tame p k l x)).ends
  case frameSent p =>
    cases h
    have ends := ((s.sentEvent_kept p).stays (s.sentEvent_tame p)).ends
    have quiet : closeEvent s (s.sentEvent p) = s.sentEvent p :=
      closeEvent_same _ _ (State.anyServing_congr fun r => by
        by_cases e : r = p
        · subst e; rw [State.sentEvent, s.port_modifyPort, portSent_state]
        · rw [State.sentEvent, s.port_modifyPort_ne e]) rfl rfl rfl
    rwa [quiet] at ends
  case responseTimerExpiry p => cases h; exact ((s.responseEvent_kept p).stays (s.responseEvent_tame p)).ends
  case probeTimerExpiry p => cases h; exact ((s.probeEvent_kept p).stays (s.probeEvent_tame p)).ends
  case sheetTimerExpiry p => cases h; exact ((s.sheetEvent_kept p).stays (s.sheetEvent_tame p)).ends
  case starveTimerExpiry p => cases h; exact ((s.starveEvent_kept p).stays (s.starveEvent_tame p)).ends
  case holdTimerExpiry p => cases h; exact ((s.holdEvent_kept p).stays (s.holdEvent_tame p)).ends
  case hostExchangeMemoryWrite offset lanes w =>
    simp only [exec, execHostExchangeMemoryWrite] at h
    split at h
    · cases h
    · split at h <;> cases h
      have ends := ((s.hostWrite_kept offset lanes w).stays (.ite (.of_ports rfl rfl) (.refl s))).ends
      have quiet : closeEvent s (s.hostWrite offset lanes w) = s.hostWrite offset lanes w := by
        unfold State.hostWrite
        split
        · exact closeEvent_same _ _ (State.anyServing_of_ports rfl) rfl rfl rfl
        · exact closeEvent_self s
      rwa [quiet] at ends
  case stateFrame | sheetFrame | imageFrame | imageEndFrame | contactFrame | ackFrame | nakFrame =>
    cases h; exact ((s.frameEvent_kept _ _).stays (s.frameEvent_tame _ _)).ends

end Sys2Proof.Machine
end

/-! The commands that move the engine (R2, R12), each by the row of its table; the registers that change by their own commands
(R5 to R7, R14); and the part at rest (R11, R12). -/
section

namespace Sys2Proof.Machine

variable {s t u : State} {c : Instr}

/-! ### The commands of CONTROL, by the engine state -/

theorem State.control_judged {k : Command} {r : RefusalReason} (h : judgeCommand k s.ctl.engine = some r) :
    s.control k = s.refuseCommand k r := by
  unfold State.control
  rw [h]

theorem State.control_start (h : s.ctl.engine = .stopped) : s.control .start = s.acceptStart := by
  unfold State.control; rw [h]; rfl

theorem State.control_wipe (h : s.ctl.engine = .stopped) : s.control .wipe = s.acceptWipe := by
  unfold State.control; rw [h]; rfl

theorem State.control_reset (h : s.ctl.engine ≠ .wiping) : s.control .reset = s.acceptReset := by
  unfold State.control
  cases e : s.ctl.engine <;> first | rfl | exact absurd e h

theorem State.control_stop_running (h : s.ctl.engine = .running) : s.control .stop = s.drain := by
  simp [State.control, State.acceptStop, judgeCommand, h]

theorem State.control_stop_draining (h : s.ctl.engine = .draining) :
    s.control .stop = s.setControl (recordCommand .stop .accepted .none) := by
  simp [State.control, State.acceptStop, judgeCommand, h]

theorem judgeCommand_start {e : Engine} (h : e ≠ .stopped) : ∃ r, judgeCommand .start e = some r := by
  cases e <;> first | exact ⟨_, rfl⟩ | exact absurd rfl h

theorem judgeCommand_wipe {e : Engine} (h : e ≠ .stopped) : ∃ r, judgeCommand .wipe e = some r := by
  cases e <;> first | exact ⟨_, rfl⟩ | exact absurd rfl h

theorem judgeCommand_stop {e : Engine} (h1 : e ≠ .running) (h2 : e ≠ .draining) :
    ∃ r, judgeCommand .stop e = some r := by
  cases e <;> first | exact ⟨_, rfl⟩ | exact absurd rfl h1 | exact absurd rfl h2

/-- A command that leaves all but the three command fields of STATUS as it was. -/
theorem recordCommand_ends (s : State) (k : Command) (o : CommandOutcome) (r : RefusalReason) :
    Ends s (closeEvent s (s.setControl (recordCommand k o r))) := by
  rw [closeEvent_setControl s _ rfl]
  exact State.setControl_ends rfl rfl rfl rfl rfl

theorem refused_ends {k : Command} {r : RefusalReason} (h : judgeCommand k s.ctl.engine = some r) :
    Ends s (closeEvent s (s.control k)) := by
  rw [State.control_judged h]
  exact recordCommand_ends s k .refused r

/-- What a STOP in RUNNING ends with before the engine may enter STOPPED: DRAINING, the rest of the control registers as
they were but for the command's own fields. -/
def State.drained (s : State) : State :=
  allPorts.foldl State.stopService (allSlots.foldl State.stopQueued
    (s.setControl fun c => { recordCommand .stop .accepted .none c with engine := .draining })).stopTouch

theorem State.drained_ctl (s : State) :
    s.drained.ctl = { recordCommand .stop .accepted .none s.ctl with engine := .draining } :=
  (((Kept.foldl State.stopQueued_kept allSlots _).trans (State.stopTouch_kept _)).trans
    (Kept.foldl State.stopService_kept allPorts _)).ctl

theorem State.drain_eq (s : State) : s.drain = if s.drained.anyServing then s.drained else s.drained.enterStopped := rfl

/-- A STOP in RUNNING leaves the engine DRAINING with a port that still serves, or STOPPED. -/
theorem State.drain_cases (s : State) :
    (s.drained.anyServing = true ∧ closeEvent s s.drain = settleInterrupt s s.drained) ∨
      (s.drained.anyServing = false ∧ closeEvent s s.drain = settleInterrupt s s.drained.enterStopped) := by
  rw [s.drain_eq]
  cases h : s.drained.anyServing
  · refine .inr ⟨rfl, ?_⟩
    rw [if_neg Bool.false_ne_true, closeEvent, drainEnd_of_not_draining _ _ (by
      rw [State.enterStopped_ctl]; exact Engine.noConfusion)]
  · refine .inl ⟨rfl, ?_⟩
    rw [if_pos rfl, closeEvent, drainEnd, if_neg fun k => by simp [h] at k]

/-- The control registers when START completes (R17, R41, R58). -/
def startedControl (m : Memory) (c : Control) : Control := { c with
  engine := .running
  startPhase := .idle
  samples := Vector.ofFn (readSample m)
  sweep := some { nudged := false, next := 0 }
  sweepTimer := startTimer c.clock c.work.sweepInterval
  sweepHeld := false
  decayTimer := if c.work.decayPeriod = 0 then none else startTimer c.clock (c.work.decayPeriod * 1000) }

theorem State.completeStart_ctl (s : State) : s.completeStart.ctl = startedControl s.mem s.ctl := by
  have opened : Kept (s.setControl (startedControl s.mem)) (allPorts.foldl (fun s p => (s.clearContacts p).openPort p)
      (allStations.foldl State.openStation (s.setControl (startedControl s.mem)).sampleAllZones)) :=
    ((State.sampleAllZones_kept _).trans (Kept.foldl State.openStation_kept allStations _)).trans
      (Kept.foldl (fun s p => (State.clearContacts_kept s p).trans (State.openPort_kept _ p)) allPorts _)
  exact (State.setNotice_ctl _ .engine).trans opened.ctl

/-! ### The rows of the table of engine states (R12) -/

/-- The clauses of the table for one command from one state to the next. -/
def engineLaw (c : Instr) (s t : State) : Prop :=
  transition s.ctl.engine t.ctl.engine ∧
    (t.ctl.engine ≠ s.ctl.engine → t.ctl.engine = .stopped ∨ t.ctl.engine = .running →
      t.notice &&& 0x02 = 0x02) ∧
    (s.ctl.engine = .wiping → t.ctl.engine ≠ .wiping → c = .wipeCompletion) ∧
    (s.ctl.engine = .stopped → t.ctl.engine ≠ .stopped →
      (c = .start ∧ t.ctl.engine = .starting) ∨ (c = .wipe ∧ t.ctl.engine = .wiping)) ∧
    (s.ctl.engine = .starting → t.ctl.engine ≠ .starting →
      (c = .startCompletion ∧ t.ctl.engine = .running) ∨
        ((c = .configurationValidation ∨ c = .reset) ∧ t.ctl.engine = .stopped)) ∧
    (s.ctl.engine = .running → t.ctl.engine ≠ .running → c = .stop ∨ (c = .reset ∧ t.ctl.engine = .stopped)) ∧
    (s.ctl.engine = .draining → t.ctl.engine ≠ .draining →
      t.ctl.engine = .stopped ∧ (c = .reset ∨ (s.anyServing = true ∧ t.anyServing = false))) ∧
    (s.ctl.engine = .draining → s.anyServing = true → t.anyServing = false → t.ctl.engine = .stopped)

theorem and_of_or_eq {n : Nat} {a b : BitVec n} (h : a ||| b = b) : a &&& b = a := by
  rw [← h]
  exact BitVec.eq_of_getLsbD_eq fun i _ => by simp only [BitVec.getLsbD_and, BitVec.getLsbD_or]; cases a.getLsbD i <;> simp

theorem engine_noticed {n : BitVec 8} (h : noticeMask .engine ||| n = n) : n &&& 0x02 = 0x02 :=
  (BitVec.and_comm _ _).trans (and_of_or_eq (a := noticeMask .engine) h)

theorem engine_noticed_or (n : BitVec 8) : (n ||| noticeMask .engine) &&& 0x02 = 0x02 :=
  engine_noticed (by rw [BitVec.or_comm n, ← BitVec.or_assoc, BitVec.or_self])

/-- An event that leaves the engine to the services moves it by the end of draining alone. -/
theorem Ends.engineLaw (h : Ends s t) : engineLaw c s t := by
  rcases h.engine with e | ⟨draining, stopped, before, after, set⟩
  · refine ⟨.inl e.symm, fun k => absurd e k, ?_, ?_, ?_, ?_, ?_, h.drained⟩ <;>
      exact fun a b => absurd (e.trans a) b
  · rw [Machine.engineLaw, draining, stopped]
    refine ⟨by simp [transition], fun _ _ => engine_noticed set, ?_, ?_, ?_, ?_, fun _ _ => ⟨rfl, .inr ⟨before, after⟩⟩,
      fun _ _ _ => rfl⟩ <;> exact fun k => by cases k

/-- A command that leaves the engine and the ports as they were. -/
theorem engineLaw_of_same (he : t.ctl.engine = s.ctl.engine) (hp : t.ports = s.ports) : engineLaw c s t := by
  refine ⟨.inl he.symm, fun k => absurd he k, ?_, ?_, ?_, ?_, ?_, fun _ a b => ?_⟩
  case refine_6 =>
    rw [State.anyServing_of_ports hp, a] at b
    cases b
  all_goals exact fun a b => absurd (he.trans a) b

/-- A command that takes the engine from one state to another by a row of the table. -/
theorem engineLaw_of_row {a b : Engine} (hs : s.ctl.engine = a) (ht : t.ctl.engine = b)
    (notice : b = .stopped ∨ b = .running → t.notice &&& 0x02 = 0x02)
    (row : (a = .wiping ∧ b = .stopped ∧ c = .wipeCompletion) ∨ (a = .stopped ∧ b = .starting ∧ c = .start) ∨
      (a = .stopped ∧ b = .wiping ∧ c = .wipe) ∨ (a = .starting ∧ b = .running ∧ c = .startCompletion) ∨
      (a = .starting ∧ b = .stopped ∧ c = .configurationValidation) ∨ (a = .running ∧ b = .draining ∧ c = .stop) ∨
      (a = .running ∧ b = .stopped ∧ c = .stop) ∨ (a ≠ .wiping ∧ b = .stopped ∧ c = .reset)) :
    engineLaw c s t := by
  subst hs ht
  unfold engineLaw
  refine ⟨?_, fun _ => notice, ?_⟩
  · rcases row with h | h | h | h | h | h | h | h <;> obtain ⟨h1, h2, -⟩ := h <;> rw [h2]
    case inr.inr.inr.inr.inr.inr.inr =>
      cases e : s.ctl.engine <;> first | exact absurd e h1 | simp [transition]
    all_goals rw [h1]; simp [transition]
  · rcases row with h | h | h | h | h | h | h | h <;> obtain ⟨h1, h2, rfl⟩ := h <;> simp [h1, h2]

/-- Settles O6. -/
theorem engineMovesByTheTable : Obligations.EngineMovesByTheTable := by
  intro c s t wf hp h
  show engineLaw c s t
  by_cases hc : setsRegisters c = false
  · exact (exec_ends wf hc h).engineLaw
  cases c
  case powerOnReset => exact absurd rfl hp
  case wipeCompletion =>
    by_cases e : s.ctl.engine = .wiping
    · rw [exec_wipeCompletion_wiping e] at h
      cases h
      refine engineLaw_of_row e (settleInterrupt_engine _ _) (fun _ => ?_) (.inl ⟨rfl, rfl, rfl⟩)
      rw [settleInterrupt_notice]
      exact engine_noticed_or s.notice
    · rw [show exec .wipeCompletion s = .next s from if_neg e] at h
      cases h
      exact (Ends.refl s).engineLaw
  case start =>
    by_cases e : s.ctl.engine = .stopped
    · rw [exec_start_stopped e] at h
      cases h
      exact engineLaw_of_row e rfl (fun k => by rcases k with k | k <;> cases k) (.inr (.inl ⟨rfl, rfl, rfl⟩))
    · cases h
      exact (refused_ends (judgeCommand_start e).choose_spec).engineLaw
  case stop =>
    by_cases running : s.ctl.engine = .running
    · cases h
      rw [State.control_stop_running running]
      rcases s.drain_cases with ⟨-, e⟩ | ⟨-, e⟩ <;> rw [e]
      · exact engineLaw_of_row running (b := .draining) (by rw [settleInterrupt_engine, s.drained_ctl])
          (fun k => by rcases k with k | k <;> cases k) (by simp)
      · refine engineLaw_of_row running (b := .stopped) (by rw [settleInterrupt_engine, State.enterStopped_ctl]; rfl) (fun _ => ?_) (by simp)
        rw [settleInterrupt_notice, State.enterStopped_notice]
        exact engine_noticed_or _
    by_cases draining : s.ctl.engine = .draining
    · cases h
      rw [State.control_stop_draining draining]
      exact (recordCommand_ends s _ _ _).engineLaw
    · cases h
      exact (refused_ends (judgeCommand_stop running draining).choose_spec).engineLaw
  case wipe =>
    by_cases e : s.ctl.engine = .stopped
    · rw [exec_wipe_stopped e] at h
      cases h
      exact engineLaw_of_row e (b := .wiping) rfl (fun k => by rcases k with k | k <;> cases k) (by simp)
    · cases h
      exact (refused_ends (judgeCommand_wipe e).choose_spec).engineLaw
  case reset =>
    by_cases e : s.ctl.engine = .wiping
    · cases h
      exact (refused_ends (r := .busy) (by rw [e]; rfl)).engineLaw
    · rw [exec_reset_accepted e] at h
      cases h
      refine engineLaw_of_row rfl (settleInterrupt_engine _ _) (fun _ => ?_) (by simp [e, State.acceptReset, resetControl])
      rw [settleInterrupt_notice]
      show noticeMask .engine &&& 0x02 = 0x02
      decide
  case configurationValidation =>
    simp only [exec, execConfigurationValidation] at h
    split at h <;> cases h
    case isFalse => exact (Ends.refl s).engineLaw
    case isTrue starting =>
      unfold State.validateStart
      split
      · refine engineLaw_of_row starting.1 (b := .stopped) ?_ (fun _ => ?_) (by simp)
        · rw [closeEvent_of_not_draining _ _ (by simp [State.failStart])]; rfl
        · rw [closeEvent_of_not_draining _ _ (by simp [State.failStart])]
          exact engine_noticed_or s.notice
      · have same : (closeEvent s (((s.rebuildClear.rebuildSlots (allSlots.take s.rebuildReach)).setControl fun c =>
            { c with startPhase := .rebuilding s.rebuildReach }).drawFree)).ctl.engine = s.ctl.engine := by
          rw [closeEvent_of_not_draining _ _ (by simp [starting.1])]; simp
        refine ⟨.inl same.symm, fun k => absurd same k, ?_⟩
        rw [same, starting.1]
        simp
  case startCompletion =>
    simp only [exec, execStartCompletion] at h
    split at h <;> cases h
    case h_2 => exact (Ends.refl s).engineLaw
    case h_1 next starting _ =>
      have running : (s.rebuildSlots (allSlots.drop next)).completeStart.ctl.engine = .running := by
        rw [State.completeStart_ctl]; rfl
      refine engineLaw_of_row starting (b := .running) ?_ (fun _ => ?_) (by simp)
      · rw [closeEvent, settleInterrupt_engine, drainEnd_of_not_draining _ _ (by rw [running]; decide), running]
      · rw [closeEvent, settleInterrupt_notice, drainEnd_of_not_draining _ _ (by rw [running]; decide)]
        exact engine_noticed_or _
  case noticeWrite w =>
    cases h
    rw [s.writeNotice_settled w]
    exact engineLaw_of_same rfl rfl
  case stationNoticeWrite w =>
    cases h
    rw [s.writeStationNotice_settled w]
    exact engineLaw_of_same rfl rfl
  case maskWrite w =>
    cases h
    rw [s.writeMask_settled w]
    exact engineLaw_of_same rfl rfl
  case messagesEnabledChange b =>
    cases h
    exact engineLaw_of_same rfl rfl
  all_goals exact absurd rfl hc

end Sys2Proof.Machine
end

/-! The registers that change by their own commands (R5 to R7, R14), and the part at rest (R11, R12). -/
section

namespace Sys2Proof.Machine

variable {s t u : State} {c : Instr}

/-! ### Registers -/

/-- The commands that move the engine, less the power-on and RESET. -/
def movesEngine : Instr → Bool
  | .wipeCompletion | .start | .stop | .wipe | .configurationValidation | .startCompletion => true
  | _ => false

theorem exec_settled (hc : movesEngine c = true) (h : exec c s = .next t) : Settled s t := by
  cases c <;> try cases hc
  case wipeCompletion =>
    simp only [exec, execWipeCompletion] at h
    split at h <;> cases h
    · exact close_settled s.completeWipe_moves
    · exact .refl s
  case start => cases h; exact close_settled (s.control_moves (by decide))
  case stop => cases h; exact close_settled (s.control_moves (by decide))
  case wipe => cases h; exact close_settled (s.control_moves (by decide))
  case configurationValidation =>
    simp only [exec, execConfigurationValidation] at h
    split at h <;> cases h
    · exact close_settled s.validateStart_moves
    · exact .refl s
  case startCompletion =>
    simp only [exec, execStartCompletion] at h
    split at h <;> cases h
    · exact close_settled (s.startCompletion_moves _)
    · exact .refl s

theorem State.validateStart_work (s : State) : s.validateStart.ctl.work = s.ctl.work := by
  unfold State.validateStart State.failStart
  split <;> simp

theorem State.control_stop_work (s : State) : (s.control .stop).ctl.work = s.ctl.work := by
  unfold State.control State.acceptStop
  split
  · rfl
  · dsimp only
    split
    · rfl
    · rw [s.drain_eq]
      split
      · rw [s.drained_ctl]; rfl
      · rw [State.enterStopped_ctl, s.drained_ctl]; rfl

/-- Of the commands that move the engine START alone changes the working copy, where it is accepted. -/
theorem exec_work (hc : movesEngine c = true) (hs : c ≠ .start ∨ s.ctl.engine ≠ .stopped) (h : exec c s = .next t) :
    t.ctl.work = s.ctl.work := by
  cases c <;> try cases hc
  case wipeCompletion =>
    simp only [exec, execWipeCompletion] at h
    split at h <;> cases h
    · rw [closeEvent_work]; rfl
    · rfl
  case start =>
    obtain ⟨r, hr⟩ := judgeCommand_start (hs.resolve_left fun k => k rfl)
    cases h
    exact (refused_ends hr).work
  case stop => cases h; rw [closeEvent_work, s.control_stop_work]
  case wipe =>
    cases h
    rw [closeEvent_work, State.control]
    split <;> rfl
  case configurationValidation =>
    simp only [exec, execConfigurationValidation] at h
    split at h <;> cases h
    · rw [closeEvent_work, s.validateStart_work]
    · rfl
  case startCompletion =>
    simp only [exec, execStartCompletion] at h
    split at h <;> cases h
    · rw [closeEvent_work, State.completeStart_ctl, State.rebuildSlots_ctl]; rfl
    · rfl

/-- A sticky bit is cleared by its own write, a RESET and the power-on only. -/
theorem exec_notices (wf : c.wellFormed = true) (h : exec c s = .next t) (hp : c ≠ .powerOnReset) (hr : c ≠ .reset) :
    ((∀ w, c ≠ .noticeWrite w) → s.notice ||| t.notice = t.notice) ∧
      ((∀ w, c ≠ .stationNoticeWrite w) → s.stationNotice ||| t.stationNotice = t.stationNotice) := by
  by_cases hc : setsRegisters c = false
  · have ends := exec_ends wf hc h
    exact ⟨fun _ => ends.notice, fun _ => ends.stationNotice⟩
  by_cases hm : movesEngine c = true
  · have settled := exec_settled hm h
    exact ⟨fun _ => settled.notice, fun _ => settled.stationNotice⟩
  cases c
  case powerOnReset => exact absurd rfl hp
  case reset => exact absurd rfl hr
  case noticeWrite w =>
    cases h
    rw [s.writeNotice_settled w]
    exact ⟨fun k => absurd rfl (k w), fun _ => BitVec.or_self⟩
  case stationNoticeWrite w =>
    cases h
    rw [s.writeStationNotice_settled w]
    exact ⟨fun _ => BitVec.or_self, fun k => absurd rfl (k w)⟩
  case maskWrite w =>
    cases h
    rw [s.writeMask_settled w]
    exact ⟨fun _ => BitVec.or_self, fun _ => BitVec.or_self⟩
  case messagesEnabledChange b => cases h; exact ⟨fun _ => BitVec.or_self, fun _ => BitVec.or_self⟩
  case wipeCompletion | start | stop | wipe | configurationValidation | startCompletion => exact absurd rfl hm
  all_goals exact absurd rfl hc

/-- MASK, the input messages enabled and the working copy change by their own commands and those that reset them. -/
theorem exec_enables (wf : c.wellFormed = true) (h : exec c s = .next t) :
    (t.ctl.mask ≠ s.ctl.mask → c = .powerOnReset ∨ ∃ w, c = .maskWrite w) ∧
      (t.ctl.messagesEnabled ≠ s.ctl.messagesEnabled → ∃ b, c = .messagesEnabledChange b) ∧
      (t.ctl.work ≠ s.ctl.work →
        c = .powerOnReset ∨ (c = .reset ∧ s.ctl.engine ≠ .wiping) ∨ (c = .start ∧ s.ctl.engine = .stopped)) := by
  by_cases hc : setsRegisters c = false
  · have ends := exec_ends wf hc h
    exact ⟨fun k => absurd ends.mask k, fun k => absurd ends.enabled k, fun k => absurd ends.work k⟩
  by_cases hm : movesEngine c = true
  · have settled := exec_settled hm h
    refine ⟨fun k => absurd settled.mask k, fun k => absurd settled.enabled k, fun k => ?_⟩
    by_contra other
    simp only [not_or, not_and_or] at other
    exact k (exec_work hm other.2.2 h)
  cases c
  case powerOnReset => cases h; exact ⟨fun _ => .inl rfl, fun k => absurd rfl k, fun _ => .inl rfl⟩
  case reset =>
    by_cases e : s.ctl.engine = .wiping
    · cases h
      have ends := refused_ends (s := s) (k := .reset) (r := .busy) (by rw [e]; rfl)
      exact ⟨fun k => absurd ends.mask k, fun k => absurd ends.enabled k, fun k => absurd ends.work k⟩
    · rw [exec_reset_accepted e, settleInterrupt_eq] at h
      cases h
      exact ⟨fun k => absurd rfl k, fun k => absurd rfl k, fun _ => .inr (.inl ⟨rfl, e⟩)⟩
  case noticeWrite w =>
    cases h
    rw [s.writeNotice_settled w]
    exact ⟨fun k => absurd rfl k, fun k => absurd rfl k, fun k => absurd rfl k⟩
  case stationNoticeWrite w =>
    cases h
    rw [s.writeStationNotice_settled w]
    exact ⟨fun k => absurd rfl k, fun k => absurd rfl k, fun k => absurd rfl k⟩
  case maskWrite w =>
    cases h
    rw [s.writeMask_settled w]
    exact ⟨fun _ => .inr ⟨w, rfl⟩, fun k => absurd rfl k, fun k => absurd rfl k⟩
  case messagesEnabledChange b => cases h; exact ⟨fun k => absurd rfl k, fun _ => ⟨b, rfl⟩, fun k => absurd rfl k⟩
  case wipeCompletion | start | stop | wipe | configurationValidation | startCompletion => exact absurd rfl hm
  all_goals exact absurd rfl hc

/-- Settles O9. -/
theorem registersChangeByTheirOwnCommands : Obligations.RegistersChangeByTheirOwnCommands := by
  refine ⟨fun c s t wf h hp hr => ?_, fun c s t wf h => exec_enables wf h⟩
  obtain ⟨notice, stationNotice⟩ := exec_notices wf h hp hr
  exact ⟨fun k => and_of_or_eq (notice k), fun k => and_of_or_eq (stationNotice k)⟩

/-! ### The part at rest writes nothing (R11, R12) -/

theorem State.nudge_mem (s : State) (w : Word) : (s.nudge w).mem = s.mem := by
  unfold State.nudge State.nudgeVisit State.nudgeSweep
  split <;> [skip; split] <;> (try split) <;> rfl

theorem State.control_mem (k : Command) (h1 : s.ctl.engine ≠ .running) (h2 : s.ctl.engine ≠ .draining) :
    (s.control k).mem = s.mem ∧ (s.control k).ctl.engine ≠ .draining := by
  by_cases stop : k = .stop
  · subst stop
    rw [State.control_judged (judgeCommand_stop h1 h2).choose_spec]
    exact ⟨rfl, h2⟩
  unfold State.control
  split
  · exact ⟨rfl, h2⟩
  · cases k
    case none => exact ⟨rfl, h2⟩
    case start => exact ⟨rfl, by simp [State.acceptStart]⟩
    case stop => exact absurd rfl stop
    case wipe => exact ⟨rfl, by simp [State.acceptWipe]⟩
    case reset => exact ⟨rfl, by simp [State.acceptReset, resetControl]⟩

theorem State.registerWrite_mem (offset : Nat) (lanes : BitVec 4) (w : Word) (h1 : s.ctl.engine ≠ .running)
    (h2 : s.ctl.engine ≠ .draining) :
    (s.registerWrite offset lanes w).mem = s.mem ∧ (s.registerWrite offset lanes w).ctl.engine ≠ .draining := by
  have nudge : (s.nudge w).ctl.engine = s.ctl.engine := by
    unfold State.nudge State.nudgeVisit State.nudgeSweep
    split <;> [skip; split] <;> (try split) <;> rfl
  unfold State.registerWrite State.writeControl
  split
  · exact ⟨rfl, h2⟩
  · split
    · split
      · exact State.control_mem _ h1 h2
      · exact ⟨rfl, h2⟩
    · exact ⟨s.nudge_mem w, nudge ▸ h2⟩
    all_goals exact ⟨rfl, h2⟩

/-- Outside DRAINING what closes an event writes nothing. -/
theorem closeEvent_mem (h : u.ctl.engine ≠ .draining) : (closeEvent s u).mem = u.mem := by
  rw [closeEvent, settleInterrupt_mem, drainEnd_of_not_draining s u h]

/-- Settles O10: at rest the events of the lines, the timers and the sweeper do nothing (`State.frameEvent_atRest` and its
like), and a hall tick raises the clock alone. -/
theorem partAtRestWritesNothing : Obligations.PartAtRestWritesNothing := by
  intro c s t rest h1 h2 hp hw hv hs host h
  have still := not_sweeping h1 h2
  have quiet {u : State} (e : u = s) : (closeEvent s u).mem = s.mem := by rw [e, closeEvent_self]
  have commanded (k : Command) : (closeEvent s (s.control k)).mem = s.mem :=
    have ⟨mem, engine⟩ := State.control_mem k h1 h2
    (closeEvent_mem engine).trans mem
  cases c
  case powerOnReset => exact absurd rfl hp
  case wipeCompletion => exact absurd rfl hw
  case configurationValidation => exact absurd rfl hv
  case startCompletion => exact absurd rfl hs
  case start => cases h; exact commanded .start
  case stop => cases h; exact commanded .stop
  case wipe => cases h; exact commanded .wipe
  case reset => cases h; exact commanded .reset
  case nudgeVisit st => cases h; unfold State.nudgeVisit; split <;> rfl
  case nudgeWholeSweep => cases h; unfold State.nudgeSweep; split <;> rfl
  case noticeWrite w => cases h; exact settleInterrupt_mem _ _
  case maskWrite w => cases h; exact settleInterrupt_mem _ _
  case stationNoticeWrite w => cases h; exact settleInterrupt_mem _ _
  case registerWriteIgnored offset lanes w =>
    simp only [exec, execRegisterWriteIgnored] at h
    split at h
    · cases h
    · split at h <;> cases h
      obtain ⟨mem, engine⟩ := State.registerWrite_mem offset lanes w h1 h2
      exact (closeEvent_mem engine).trans mem
  case messagesEnabledChange b => cases h; rfl
  case hallTick =>
    cases h
    rw [State.tick_atRest rest still]
    rfl
  case deadlineExpiry => cases h; exact quiet (State.deadlineEvent_atRest rest still)
  case sweepTimerExpiry => cases h; exact quiet (State.sweepTimerEvent_atRest rest still)
  case wholeSweepStart => cases h; rfl
  case visit st =>
    simp only [exec, execVisit, State.visitDue_atRest rest still] at h
    cases h
    rfl
  case wholeSweepEnd =>
    simp only [exec, execWholeSweepEnd, (rest still).1] at h
    cases h
    rfl
  case decayTimerExpiry => cases h; exact quiet (State.decayEvent_atRest rest still)
  case characterReceived p ch => cases h; exact quiet (State.characterEvent_atRest rest still p ch)
  case frameRejected p k l x => cases h; exact quiet (State.rejectEvent_atRest rest still p k l x)
  case frameSent p => cases h; rfl
  case responseTimerExpiry p => cases h; exact quiet (State.responseEvent_atRest rest still p)
  case probeTimerExpiry p => cases h; exact quiet (State.probeEvent_atRest rest still p)
  case sheetTimerExpiry p => cases h; exact quiet (State.sheetEvent_atRest rest still p)
  case starveTimerExpiry p => cases h; exact quiet (State.starveEvent_atRest rest still p)
  case holdTimerExpiry p => cases h; exact quiet (State.holdEvent_atRest rest still p)
  case hostExchangeMemoryWrite offset lanes w =>
    have wiping := host offset lanes w rfl
    simp only [exec, execHostExchangeMemoryWrite, State.hostWrite, wiping, ne_eq, not_true_eq_false, and_false,
      if_false] at h
    split at h
    · cases h
    · split at h <;> cases h
      rfl
  case stateFrame | sheetFrame | imageFrame | imageEndFrame | contactFrame | ackFrame | nakFrame =>
    cases h; exact quiet (State.frameEvent_atRest rest still _ _)

end Sys2Proof.Machine
end

/-! SUPPORT. Aging, the places in queue and list, and the times of the hall clock (R49 to R52, R61 to R63, R69). -/
section
namespace Sys2Proof.Machine

/-! ### Aging (R69) -/

theorem agingBonus_off (cap : Nat) (aged : Bool) (waited : Nat) : agingBonus 0 cap aged waited = 0 := if_pos rfl

theorem agingBonus_aged {step : Nat} (h : step ≠ 0) (cap waited : Nat) : agingBonus step cap true waited = cap :=
  (if_neg h).trans (if_pos rfl)

theorem agingBonus_young {step : Nat} (h : step ≠ 0) (cap waited : Nat) :
    agingBonus step cap false waited = min cap (waited / (step * 100)) :=
  (if_neg h).trans (if_neg Bool.false_ne_true)

/-- The latch is set where aging is on and the bonus at the cap. -/
theorem State.latchAged_at_cap {s : State} {g : Slot} (h : (s.pool (s.job g).pool).agingStep ≠ 0)
    (cap : s.bonusOf g = (s.pool (s.job g).pool).agingCap) :
    s.latchAged g = s.updateJob g fun j => { j with agedOut := true } := if_pos ⟨h, cap⟩

theorem State.latchAged_below {s : State} {g : Slot}
    (h : ¬ ((s.pool (s.job g).pool).agingStep ≠ 0 ∧ s.bonusOf g = (s.pool (s.job g).pool).agingCap)) :
    s.latchAged g = s := if_neg h

/-- Settles O34: the branches of the bonus and of its latch. -/
theorem agingBonusIsCapped : Obligations.AgingBonusIsCapped := by
  unfold Obligations.AgingBonusIsCapped
  intro s g step cap waited
  refine ⟨fun off => ⟨?_, State.latchAged_below fun h => h.1 off⟩, fun on aged => ?_, fun on young => ?_,
    fun on full => State.latchAged_at_cap on full, fun h => State.latchAged_below fun k => h k.2⟩
  · show agingBonus step _ _ _ = 0
    rw [off, agingBonus_off]
  · show agingBonus step cap (s.job g).agedOut _ = cap
    rw [aged, agingBonus_aged on]
  · show agingBonus step cap (s.job g).agedOut waited = _
    rw [young, agingBonus_young on]

/-! ### Places in a list (R53, R62) -/

/-- An element is inserted before the first entry that it precedes. -/
theorem insertBefore_split {α : Type} (precedes : α → α → Bool) (x : α) (l : List α) :
    ∃ before after, l = before ++ after ∧ insertBefore precedes x l = before ++ x :: after ∧
      (∀ y ∈ before, precedes x y = false) ∧ ∀ y, after.head? = some y → precedes x y = true := by
  induction l with
  | nil => exact ⟨[], [], rfl, rfl, nofun, nofun⟩
  | cons y rest ih =>
    unfold insertBefore
    split
    next h => exact ⟨[], y :: rest, rfl, rfl, nofun, fun z hz => by cases hz; exact h⟩
    next h =>
      obtain ⟨before, after, hl, hi, hb, ha⟩ := ih
      refine ⟨y :: before, after, congrArg (y :: ·) hl, congrArg (y :: ·) hi, fun z hz => ?_, ha⟩
      rcases List.mem_cons.mp hz with rfl | hz
      · exact Bool.eq_false_iff.mpr h
      · exact hb z hz

theorem State.precedes_iff (s : State) (g h : Slot) : s.precedes g h = true ↔ s.stands g h := by
  unfold State.precedes State.stands State.waited State.waits interval
  rw [Bool.or_eq_true, Bool.and_eq_true, decide_eq_true_iff, decide_eq_true_iff, decide_eq_true_iff,
    eq_comm (a := BitVec.toNat (s.ctl.clock - (s.job g).acceptStamp))]

theorem State.expiresBefore_iff (s : State) (g h : Slot) : s.expiresBefore g h = true ↔ s.expiresFirst g h := by
  unfold State.expiresBefore State.expiresFirst
  rw [Bool.or_eq_true, Bool.and_eq_true, decide_eq_true_iff, decide_eq_true_iff, decide_eq_true_iff]
  rfl

/-- An insertion by a decided order is a join by that order. -/
theorem joined_insertBefore {precedes : Slot → Slot → Bool} {before : Slot → Prop} {g : Slot}
    (h : ∀ x, precedes g x = true ↔ before x) (l : List Slot) : joined before g l (insertBefore precedes g l) := by
  obtain ⟨front, back, hl, hi, hf, hb⟩ := insertBefore_split precedes g l
  exact ⟨front, back, hl, hi, fun x hx k => Bool.false_ne_true ((hf x hx).symm.trans ((h x).mpr k)),
    fun x hx => (h x).mp (hb x hx)⟩

theorem State.queue_joinQueue (s : State) (g : Slot) :
    (s.joinQueue g).queue (s.job g).pool = insertBefore s.precedes g (s.queue (s.job g).pool) := s.queue_setQueue _ _

theorem State.queue_joinQueue_ne (s : State) {g : Slot} {q : Pool} (h : q ≠ (s.job g).pool) :
    (s.joinQueue g).queue q = s.queue q := s.queue_setQueue_ne h _

theorem State.queue_leaveQueue (s : State) (g : Slot) (q : Pool) :
    (s.leaveQueue g).queue q = if q = (s.job g).pool then (s.queue q).erase g else s.queue q := by
  split
  next h => subst h; exact s.queue_setQueue _ _
  next h => exact s.queue_setQueue_ne h _

/-- The queue-length mirror of a pool lies in exchange memory. -/
theorem poolAddress_lt (q : Pool) : poolAddress q + 3 < Config.exchangeBytes := by
  have := q.isLt
  unfold poolAddress Config.exchangeBytes
  omega

/-- A queue that is replaced shows its length (R80). -/
theorem State.setQueue_shown {s : State} (w : Memory.wf s.mem = true) (q : Pool) (l : List Slot) :
    (s.setQueue q l).queueShown q := by
  unfold State.queueShown
  rw [State.queue_setQueue]
  show field (readWord (writeWord s.mem _ _) _) 24 8 = _
  rw [readWord_writeWord w (poolAddress_lt q), field_merge_same _ _ (by omega)]
  rfl

/-- Settles O32: a join and a departure replace the one queue and merge its length into the mirror. -/
theorem queueKeepsItsOrder : Obligations.QueueKeepsItsOrder := by
  unfold Obligations.QueueKeepsItsOrder
  intro s g wf q waited precedes t
  have kept (l : List Slot) : s.memoryKept (s.setQueue q l) fun a => a = poolAddress q + 3 :=
    (s.setQueue_writes q l).kept wf.memory
  refine ⟨?_, rfl, fun r h => s.queue_joinQueue_ne h, State.setQueue_shown wf.memory _ _, State.setQueue_shown wf.memory _ _,
    kept _, kept _, (s.queue_leaveQueue g q).trans (if_pos rfl), rfl, fun r h => (s.queue_leaveQueue g r).trans (if_neg h)⟩
  obtain ⟨before, after, hl, hi, hb, ha⟩ := joined_insertBefore (s.precedes_iff g) (s.queue q)
  exact ⟨before, after, hl, (s.queue_joinQueue g).trans hi, hb, ha⟩

/-! ### The reach test and intervals (R49, R50) -/

theorem toNat_stamp_sub (start : Stamp) {elapsed : Nat} (h : elapsed < 2 ^ 31) :
    interval (start + BitVec.ofNat 32 elapsed) start = elapsed := by
  unfold interval
  bv_omega

/-- A target is reached exactly where the clock has run to it or past it. -/
theorem reached_iff (start : Stamp) {period elapsed : Nat} (hp : period < 2 ^ 31) (he : elapsed < 2 ^ 31) :
    reached (start + BitVec.ofNat 32 elapsed) (start + BitVec.ofNat 32 period) = true ↔ period ≤ elapsed := by
  unfold reached interval
  rw [decide_eq_true_iff]
  constructor <;> intro h <;> bv_omega

theorem State.expiredHead_eq_none {s : State}
    (h : ∀ g e, s.deadlines.head? = some g → (s.job g).expiry = some e → reached s.ctl.clock e = false) :
    s.expiredHead = none := by
  unfold State.expiredHead
  split
  next g rest hl =>
    split
    next e he => rw [h g e (by rw [hl]; rfl) he, Bool.and_false]; exact if_neg Bool.false_ne_true
    next => rfl
  next => rfl

/-- Settles O41: the expiries of a tick are closed events, which keep the clock, and the reach test is arithmetic modulo 2^32. -/
theorem hallTickRaisesTheClock : Obligations.HallTickRaisesTheClock := by
  unfold Obligations.HallTickRaisesTheClock
  refine ⟨fun s => ⟨⟨s.tick, rfl, ?_⟩, fun head sweep decay ports => ?_⟩,
    fun start period elapsed hp he => ⟨reached_iff start hp he, toNat_stamp_sub start he⟩⟩
  · obtain ⟨u, hu, e⟩ := s.tick_eq
    rw [e]
    exact congrArg (· + 1) hu.clock
  · have due : s.expiryDue = false := by
      unfold State.expiryDue
      rw [State.expiredHead_eq_none head, sweep, decay]
      refine Bool.eq_false_iff.mpr fun h => ?_
      obtain ⟨p, _, h⟩ := List.any_eq_true.mp h
      obtain ⟨h1, h2, h3, h4, h5⟩ := ports p
      rw [h1, h2, h3, h4, h5] at h
      exact Bool.false_ne_true h
    show Host.Outcome.next s.tick = _
    unfold State.tick
    rw [due]
    rfl

end Sys2Proof.Machine
end

/-! SUPPORT. Whole sweeps and the decay step (R40 to R42, R51, R58, R59). -/
section
namespace Sys2Proof.Machine

/-! ### The beginning of a whole sweep (R41, R42) -/

theorem sweeping_of {e : Engine} (h : e = .running ∨ e = .draining) : sweeping e = true := by
  rcases h with rfl | rfl <;> rfl

/-- No station request is pending exactly where no station is nudged. -/
theorem Control.nudgedStation_eq_none_iff (c : Control) :
    c.nudgedStation = none ↔ ∀ st : Station, c.nudgeVisits[st.val] = false := by
  unfold Control.nudgedStation allStations
  rw [find?_finRange_eq_none_iff]

theorem Control.sweepDue_iff (c : Control) : c.sweepDue = true ↔
    sweeping c.engine = true ∧ c.sweep = none ∧ (∀ st : Station, c.nudgeVisits[st.val] = false) ∧
      (c.sweepHeld = true ∨ c.nudgeSweep = true) := by
  unfold Control.sweepDue
  rw [Bool.and_eq_true, Bool.and_eq_true, Bool.and_eq_true, Bool.or_eq_true, Option.isNone_iff_eq_none,
    Option.isNone_iff_eq_none, Control.nudgedStation_eq_none_iff, and_assoc, and_assoc]

theorem startSweepIfDue_due {c : Control} (h : c.sweepDue = true) : startSweepIfDue c = beginSweep c := if_pos h

theorem startSweepIfDue_not {c : Control} (h : ¬ c.sweepDue = true) : startSweepIfDue c = c := if_neg h

/-- An event of the sweep timer that changes control registers other than MASK. -/
theorem State.sweepTimerEvent_reached {s : State} {e : Stamp} (sweeps : sweeping s.ctl.engine = true)
    (running : s.ctl.sweepTimer = some e) (due : reached s.ctl.clock e = true)
    (mask : (expireSweepTimer s.ctl).mask = s.ctl.mask) :
    exec .sweepTimerExpiry s = .next { s with ctl := expireSweepTimer s.ctl } := by
  have h : s.sweepTimerEvent = s.setControl expireSweepTimer := by
    unfold State.sweepTimerEvent
    rw [running, sweeps]
    exact if_pos (Bool.and_eq_true_iff.mpr ⟨due, rfl⟩)
  show Host.Outcome.next (closeEvent s s.sweepTimerEvent) = _
  rw [h, closeEvent_setControl s _ mask]
  rfl

theorem State.sweepTimerEvent_not {s : State} (h : timerReached s.ctl.clock s.ctl.sweepTimer = false) :
    exec .sweepTimerExpiry s = .next s := by
  have e : s.sweepTimerEvent = s := by
    unfold State.sweepTimerEvent
    rw [h]
    rfl
  show Host.Outcome.next (closeEvent s s.sweepTimerEvent) = _
  rw [e, closeEvent_self]

theorem expireSweepTimer_in_sweep {c : Control} {w : Sweep} (h : c.sweep = some w) :
    expireSweepTimer c = { c with sweepTimer := none, sweepHeld := c.sweepHeld || !w.nudged } := by
  unfold expireSweepTimer
  rw [h]

theorem expireSweepTimer_idle {c : Control} (h : c.sweep = none) :
    expireSweepTimer c = startSweepIfDue { c with sweepTimer := none, sweepHeld := true } := by
  unfold expireSweepTimer
  rw [h]

/-- Settles O23: the branches of the sweep timer's expiry and of the start of a whole sweep. -/
theorem wholeSweepsBegin : Obligations.WholeSweepsBegin := by
  unfold Obligations.WholeSweepsBegin
  refine ⟨fun s => ?_, fun s active => ?_⟩
  · intro idle
    refine ⟨fun e active timer due => ⟨fun none quiet plain => ?_, fun w hw timed => ?_, fun w hw nudged => ?_,
      fun none busy => ?_⟩, fun h => State.sweepTimerEvent_not (by rw [h]; rfl),
      fun e h late => State.sweepTimerEvent_not (by rw [h]; exact late)⟩
    · have h : expireSweepTimer s.ctl = beginSweep { s.ctl with sweepTimer := .none, sweepHeld := true } :=
        (expireSweepTimer_idle none).trans
          (startSweepIfDue_due ((Control.sweepDue_iff _).mpr ⟨sweeping_of active, none, quiet, .inl rfl⟩))
      have b : beginSweep { s.ctl with sweepTimer := .none, sweepHeld := true } = { s.ctl with
          sweep := some { nudged := false, next := 0 }
          sweepTimer := some (s.ctl.clock + BitVec.ofNat 32 s.ctl.work.sweepInterval)
          sweepHeld := false } := if_neg (by rw [plain]; exact Bool.false_ne_true)
      rw [State.sweepTimerEvent_reached (sweeping_of active) timer due (by rw [h, b]), h, b]
    · have h := expireSweepTimer_in_sweep hw
      rw [State.sweepTimerEvent_reached (sweeping_of active) timer due (by rw [h]), h, timed]
      simp
    · have h := expireSweepTimer_in_sweep hw
      rw [State.sweepTimerEvent_reached (sweeping_of active) timer due (by rw [h]), h, nudged]
      simp
    · have h : expireSweepTimer s.ctl = { s.ctl with sweepTimer := .none, sweepHeld := true } :=
        (expireSweepTimer_idle none).trans (startSweepIfDue_not fun k => busy ((Control.sweepDue_iff _).mp k).2.2.1)
      rw [State.sweepTimerEvent_reached (sweeping_of active) timer due (by rw [h]), h]
  · intro idle
    have run : exec .wholeSweepStart s = .next { s with ctl := startSweepIfDue s.ctl } := rfl
    refine ⟨fun none quiet nudged => ?_, fun none quiet plain held => ?_, fun h => ?_⟩
    · rw [run, startSweepIfDue_due ((Control.sweepDue_iff _).mpr ⟨sweeping_of active, none, quiet, .inr nudged⟩)]
      exact congrArg (fun c => Host.Outcome.next { s with ctl := c }) (if_pos nudged)
    · rw [run, startSweepIfDue_due ((Control.sweepDue_iff _).mpr ⟨sweeping_of active, none, quiet, .inl held⟩)]
      exact congrArg (fun c => Host.Outcome.next { s with ctl := c }) (if_neg (plain ▸ Bool.false_ne_true))
    · rw [run, startSweepIfDue_not fun k => ?_]
      obtain ⟨_, none, quiet, due⟩ := (Control.sweepDue_iff _).mp k
      rcases h with h | h | ⟨h1, h2⟩
      · exact h none
      · exact h quiet
      · rw [h1, h2] at due
        exact due.elim Bool.false_ne_true Bool.false_ne_true

/-! ### Folds over the ports -/

/-- A fold over ports that changes each port by itself, while what the changes look at stays. -/
theorem State.port_foldl_each {f : State → Port → State} {change : Port → PortRecord → PortRecord} {seen : State → Prop}
    (keeps : ∀ s p, seen s → seen (f s p)) (same : ∀ s p, seen s → (f s p).port p = change p (s.port p))
    (other : ∀ s p r, r ≠ p → (f s p).port r = s.port r) (l : List Port) (nodup : l.Nodup) (s : State) (h : seen s) (r : Port) :
    (l.foldl f s).port r = if r ∈ l then change r (s.port r) else s.port r := by
  induction l generalizing s with
  | nil => rfl
  | cons p rest ih =>
    obtain ⟨hp, hrest⟩ := List.nodup_cons.mp nodup
    rw [List.foldl_cons, ih hrest _ (keeps s p h)]
    by_cases e : r = p
    · subst e
      rw [if_neg hp, if_pos List.mem_cons_self, same s r h]
    · rw [other s p r e]
      simp [e]

theorem State.port_foldl_allPorts {f : State → Port → State} {change : Port → PortRecord → PortRecord} {seen : State → Prop}
    (keeps : ∀ s p, seen s → seen (f s p)) (same : ∀ s p, seen s → (f s p).port p = change p (s.port p))
    (other : ∀ s p r, r ≠ p → (f s p).port r = s.port r) (s : State) (h : seen s) (r : Port) :
    (allPorts.foldl f s).port r = change r (s.port r) :=
  (State.port_foldl_each keeps same other _ (List.nodup_finRange 12) s h r).trans (if_pos (mem_allPorts r))

/-! ### The closing steps of a whole sweep (R40, R164) -/

/-- A port with its zone table read again, where it is a panel's (R164). -/
def zonesRead (m : Memory) (cls : PortClass) (p : Port) (x : PortRecord) : PortRecord :=
  if cls = .panel then { x with zones := Vector.ofFn fun z => readZone m p z.val } else x

theorem State.sampleZones_eq (s : State) (p : Port) :
    s.sampleZones p = s.setPort p (zonesRead s.mem (s.portConfig p).cls p (s.port p)) := by
  unfold State.sampleZones zonesRead State.modifyPort
  split
  · rfl
  · exact (s.setPort_self p).symm

theorem State.sampleAllZones_port (s : State) (p : Port) :
    s.sampleAllZones.port p = zonesRead s.mem (s.portConfig p).cls p (s.port p) :=
  State.port_foldl_allPorts (f := State.sampleZones) (seen := fun t => t.mem = s.mem ∧ t.ctl = s.ctl)
    (change := fun p => zonesRead s.mem (s.portConfig p).cls p)
    (fun t p h => by rw [t.sampleZones_eq]; exact h)
    (fun t p h => by
      rw [t.sampleZones_eq, State.port_setPort, h.1]
      unfold State.portConfig
      rw [h.2])
    (fun t p r h => by rw [t.sampleZones_eq, State.port_setPort_ne _ h]) s ⟨rfl, rfl⟩ p

/-- The zone samples change the ports alone. -/
theorem State.sampleAllZones_same {β : Type} (view : State → β) (h : ∀ t p x, view (State.setPort t p x) = view t) (s : State) :
    view s.sampleAllZones = view s := by
  unfold State.sampleAllZones
  exact State.foldl_same view (fun t p => by rw [t.sampleZones_eq]; exact h t p _) _ s

/-- A state that differs in its ports alone. -/
theorem State.eq_ports {s t : State} (h : ∀ (β : Type) (view : State → β), (∀ u p x, view (State.setPort u p x) = view u) →
    view t = view s) : t = { s with ports := t.ports } :=
  State.ext_of (h _ State.ctl fun _ _ _ => rfl) (h _ State.mem fun _ _ _ => rfl) (h _ State.notice fun _ _ _ => rfl)
    (h _ State.stationNotice fun _ _ _ => rfl) (h _ State.slots fun _ _ _ => rfl) (h _ State.queues fun _ _ _ => rfl)
    (h _ State.deadlines fun _ _ _ => rfl) (h _ State.stats fun _ _ _ => rfl) (h _ State.stations fun _ _ _ => rfl) rfl
    (h _ State.marks fun _ _ _ => rfl) (h _ State.spare fun _ _ _ => rfl) (h _ State.mailboxes fun _ _ _ => rfl)
    (h _ State.free fun _ _ _ => rfl) (h _ State.pending fun _ _ _ => rfl)

theorem State.sampleAllZones_eq (s : State) : s.sampleAllZones = { s with ports := s.sampleAllZones.ports } :=
  State.eq_ports fun _ view h => s.sampleAllZones_same view h

/-- A GO test changes its own port (R154). -/
theorem State.goTest_port (s : State) (p : Port) : s.goTest.port p = (s.port p).goTested s.spare.length :=
  State.port_foldl_allPorts (f := State.goTestAt) (seen := fun t => t.spare = s.spare)
    (change := fun _ x => x.goTested s.spare.length) (fun t p h => by rw [t.goTestAt_eq]; exact h)
    (fun t p h => by rw [t.goTestAt_eq, State.port_setPort, h])
    (fun t p r h => by rw [t.goTestAt_eq, State.port_setPort_ne _ h]) s rfl p

theorem PortRecord.goTested_state (x : PortRecord) (n : Nat) : (x.goTested n).state = x.state := by
  unfold PortRecord.goTested
  dsimp only
  rw [apply_ite PortRecord.state]
  exact ite_self _

theorem zonesRead_state (m : Memory) (cls : PortClass) (p : Port) (x : PortRecord) : (zonesRead m cls p x).state = x.state := by
  unfold zonesRead
  split <;> rfl

@[simp] theorem State.closeSplice_ports (s : State) (w : Word) : (s.closeSplice w).ports = s.ports := rfl

@[simp] theorem State.closeSplice_spare (s : State) (w : Word) : (s.closeSplice w).spare = s.spare := rfl

/-- A splice leaves the states of the ports. -/
theorem State.spliceRefill_portState (s : State) (p : Port) : (s.spliceRefill.port p).state = (s.port p).state := by
  unfold State.spliceRefill
  dsimp only
  split
  · rfl
  · split
    · rfl
    · rw [State.goTest_port, PortRecord.goTested_state]
      unfold State.port
      rw [State.closeSplice_ports, State.joinSpare_ports]

/-- A review outside RUNNING leaves the ports. -/
theorem State.review_ports {s : State} (h : s.ctl.engine ≠ .running) (q : Pool) : (s.review q).ports = s.ports := by
  unfold State.review
  split
  next e => exact absurd e h
  next => exact State.latchAll_ports _ _
  all_goals rfl

theorem State.reviewAll_ports {s : State} (h : s.ctl.engine ≠ .running) : s.reviewAll.ports = s.ports := by
  have go (l : List Pool) (s : State) (h : s.ctl.engine ≠ .running) : (l.foldl State.review s).ports = s.ports := by
    induction l generalizing s with
    | nil => rfl
    | cons q rest ih =>
      rw [List.foldl_cons, ih _ (by rw [(s.review_kept q).ctl]; exact h), State.review_ports h]
  exact go _ s h

/-- An event in whose end a DRAINING part serves as before is closed by the interrupt alone. -/
theorem closeEvent_settles {s t : State} (h : t.ctl.engine = .draining → t.anyServing = s.anyServing) :
    closeEvent s t = settleInterrupt s t := by
  unfold closeEvent drainEnd
  rw [if_neg fun k => by rw [h k.1, k.2.1] at k; exact Bool.noConfusion k.2.2]

/-- The splice is a step that a refill word of 0 leaves out. -/
theorem State.spliceRefill_none {s : State} (h : s.word 0x08 = 0) : s.spliceRefill = s := if_pos h

/-- A splice closes with the refill word 0 (R148). -/
theorem State.closeSplice_word {s : State} (w : Memory.wf s.mem = true) (status : Word) :
    (s.closeSplice status).word 0x08 = 0 := by
  show readWord (writeWord (writeWord s.mem 0x0C status) 0x08 0) 0x08 = 0
  exact readWord_writeWord (Memory.wf_writeWord w _ _) (by decide) _

theorem State.spliceRefill_word {s : State} (w : s.wellFormed) : s.spliceRefill.word 0x08 = 0 := by
  unfold State.spliceRefill
  dsimp only
  split
  next h => exact h
  next =>
    split
    · exact State.closeSplice_word w.memory _
    · unfold State.word
      rw [State.goTest_mem]
      exact State.closeSplice_word ((s.joinSpare_kept _).data w).memory _

theorem allPools_eq : allPools = [0, 1, 2, 3, 4, 5, 6, 7] := by decide

theorem State.wholeSweepEnd_run {s : State} {w : Sweep} (active : sweeping s.ctl.engine = true) (hw : s.ctl.sweep = some w) :
    exec .wholeSweepEnd s = if 32 ≤ w.next then .next (closeEvent s (s.closeSweep w)) else .next s := by
  show execWholeSweepEnd s = _
  unfold execWholeSweepEnd
  rw [hw, active]
  simp

theorem State.closeSweep_closed (s : State) (w : Sweep) : closeEvent s (s.closeSweep w) = settleInterrupt s (s.closeSweep w) := by
  refine closeEvent_settles fun e => ?_
  have engine : s.ctl.engine = .draining := (s.closeSweep_stays w).engine.symm.trans e
  refine State.anyServing_congr fun p => ?_
  have same : ((s.closeSweep w).port p).state = (s.port p).state := by
    have ctl : s.sampleAllZones.spliceRefill.ctl = s.ctl :=
      ((s.sampleAllZones_kept).trans (State.spliceRefill_kept _)).ctl
    calc ((s.closeSweep w).port p).state = (s.sampleAllZones.spliceRefill.port p).state := by
          unfold State.closeSweep State.port
          rw [State.setControl_ports, State.reviewAll_ports (by rw [ctl, engine]; exact Engine.noConfusion)]
      _ = (s.port p).state := by rw [State.spliceRefill_portState, State.sampleAllZones_port, zonesRead_state]
  rw [same]

/-- Settles O30: the closing steps in their order, with the splice left out where the refill word is 0. -/
theorem wholeSweepEnds : Obligations.WholeSweepEnds := by
  unfold Obligations.WholeSweepEnds
  refine ⟨fun s w active hw => ?_, fun s hw => ?_⟩
  · intro sampled u
    have hu : sampled.spliceRefill = u := by
      have word : sampled.word 0x08 = s.word 0x08 := by
        show readWord s.sampleAllZones.mem _ = _
        rw [s.sampleAllZones_eq]
        rfl
      show _ = if s.word 0x08 = 0 then sampled else sampled.spliceRefill
      split
      next h => exact State.spliceRefill_none (word.trans h)
      next => rfl
    have ctl : u.ctl = s.ctl := hu ▸ ((s.sampleAllZones_kept).trans (State.spliceRefill_kept _)).ctl
    refine ⟨fun due => ?_, s.sampleAllZones_eq, fun p => ?_, fun p panel z => ?_, fun p other => ?_, ctl, fun wf => ?_,
      fun early => ?_⟩
    · rw [State.wholeSweepEnd_run (sweeping_of active) hw, if_pos due, State.closeSweep_closed]
      have reviewed : u.reviewAll = (((((((u.review 0).review 1).review 2).review 3).review 4).review 5).review 6).review 7 := by
        unfold State.reviewAll
        rw [allPools_eq]
        rfl
      have step : s.closeSweep w = u.reviewAll.setControl (endSweep w) := hu ▸ rfl
      rw [step, ← reviewed]
      have same : u.reviewAll.ctl = s.ctl := (State.reviewAll_kept u).ctl.trans ctl
      refine congrArg (fun t => Host.Outcome.next (settleInterrupt s t)) ?_
      unfold State.setControl endSweep
      rw [same]
      cases w.nudged <;> rfl
    · rw [s.sampleAllZones_port]
      unfold zonesRead
      split <;> rfl
    · rw [s.sampleAllZones_port, zonesRead, if_pos panel]
      exact Vector.getElem_ofFn _
    · rw [s.sampleAllZones_port, zonesRead, if_neg other]
    · rw [← hu]
      exact State.spliceRefill_word (s.sampleAllZones_kept.data wf)
    · rw [State.wholeSweepEnd_run (sweeping_of active) hw, if_neg (by omega)]
  · show execWholeSweepEnd s = _
    unfold execWholeSweepEnd
    rw [hw]

/-! ### The decay step (R58, R59) -/

end Sys2Proof.Machine
end

/-! SUPPORT. The decay step (R58, R59, R76). -/
section
namespace Sys2Proof.Machine

/-- A station's counters with the usage score halved, rounding down (R59). -/
def StationCounters.halved (c : StationCounters) : StationCounters := { c with usage := c.usage / 2 }

theorem StationCounters.halved_of_zero {c : StationCounters} (h : c.usage = 0) : c.halved = c := by
  unfold StationCounters.halved
  rw [h, Nat.zero_div, ← h]

theorem stationAddress_lt (st : Station) : stationAddress st + 0x0F < Config.exchangeBytes := by
  have := st.isLt
  unfold stationAddress Config.exchangeBytes
  omega

/-- The station entries lie apart. -/
theorem stationAddress_apart {st x : Station} (h : x ≠ st) : stationAddress x + 32 ≤ stationAddress st ∨
    stationAddress st + 32 ≤ stationAddress x := by
  have : x.val ≠ st.val := fun k => h (Fin.ext k)
  unfold stationAddress
  omega

theorem State.halveUsage_counters (s : State) (st x : Station) :
    (s.halveUsage st).counters x = if x = st then (s.counters x).halved else s.counters x := by
  unfold State.halveUsage
  split
  next h =>
    split
    next e => rw [e, StationCounters.halved_of_zero h]
    next => rfl
  next =>
    split
    next e => rw [e]; exact s.counters_updateCounters st _ _
    next e => exact State.counters_updateCounters_ne _ e _ _

theorem State.halveUsage_writes (s : State) (st : Station) :
    Writes (fun a => 1 ≤ (s.counters st).usage ∧ within (stationAddress st + 0x0C) 4 a) s.mem (s.halveUsage st).mem := by
  unfold State.halveUsage
  split
  · exact .refl _ _
  next h => exact (State.putWord_writes (s.setCounters st _) _ _).mono fun _ k => ⟨Nat.pos_of_ne_zero h, k⟩

theorem State.halveUsage_word {s : State} (w : Memory.wf s.mem = true) {st : Station} (h : 1 ≤ (s.counters st).usage)
    (le : (s.counters st).usage ≤ 65535) :
    field ((s.halveUsage st).word (stationAddress st + 0x0C)) 0 16 = (s.counters st).usage / 2 := by
  have lt := stationAddress_lt st
  have word : (s.halveUsage st).word (stationAddress st + 0x0C) = scoreWord (s.counters st).halved := by
    unfold State.halveUsage
    rw [if_neg (by omega)]
    exact readWord_writeWord (a := stationAddress st + 0x0C) w (by omega) _
  rw [word, scoreWord, field_or_left (field_place_apart _ (by omega)), field_place_same _ (by omega)]
  exact Nat.mod_eq_of_lt (show (s.counters st).usage / 2 < 2 ^ 16 by omega)

theorem State.halveUsage_same {β : Type} (view : State → β)
    (h : ∀ t st c a w, view (State.putWord (State.setCounters t st c) a w) = view t) (s : State) (st : Station) :
    view (s.halveUsage st) = view s := by
  unfold State.halveUsage
  split
  · rfl
  · exact h s st _ _ _

/-- The halving of the scores of some stations. -/
theorem State.halveAll (l : List Station) (nodup : l.Nodup) {s : State} (w : Memory.wf s.mem = true)
    (range : ∀ st, (s.counters st).usage ≤ 65535) :
    let t := l.foldl State.halveUsage s
    (∀ st, t.counters st = if st ∈ l then (s.counters st).halved else s.counters st) ∧
    Writes (fun a => ∃ st ∈ l, 1 ≤ (s.counters st).usage ∧ within (stationAddress st + 0x0C) 4 a) s.mem t.mem ∧
    ∀ st ∈ l, 1 ≤ (s.counters st).usage → field (t.word (stationAddress st + 0x0C)) 0 16 = (s.counters st).usage / 2 := by
  induction l generalizing s with
  | nil => exact ⟨fun _ => rfl, .refl _ _, nofun⟩
  | cons x rest ih =>
    obtain ⟨hx, hrest⟩ := List.nodup_cons.mp nodup
    have first := s.halveUsage_writes x
    have range' : ∀ st, ((s.halveUsage x).counters st).usage ≤ 65535 := fun st => by
      have := range st
      rw [s.halveUsage_counters]
      split
      · show (s.counters st).usage / 2 ≤ _
        omega
      · exact this
    obtain ⟨hc, hw, hf⟩ := ih hrest (first.wf w) range'
    have other {st : Station} (hs : st ∈ rest) : (s.halveUsage x).counters st = s.counters st :=
      (s.halveUsage_counters x st).trans (if_neg fun e : st = x => hx (e ▸ hs))
    refine ⟨fun st => ?_, (first.mono fun a k => ⟨x, List.mem_cons_self, k⟩).trans
      (hw.mono fun a ⟨st, hs, k⟩ => ⟨st, List.mem_cons_of_mem _ hs, by rw [← other hs]; exact k⟩), fun st hs used => ?_⟩
    · rw [List.foldl_cons, hc, s.halveUsage_counters]
      by_cases e : st = x
      · rw [if_neg (e ▸ hx), if_pos e, if_pos (e ▸ List.mem_cons_self)]
      · rw [if_neg e]
        simp [e]
    · rcases List.mem_cons.mp hs with rfl | hs
      · have keep := hw.word (first.wf w) (a := stationAddress st + 0x0C) fun b hb ⟨y, hy, _, hk⟩ => by
          have apart := stationAddress_apart (x := y) (st := st) fun (e : y = st) => hx (e ▸ hy)
          unfold within at hb hk
          omega
        rw [List.foldl_cons, State.word, keep]
        exact State.halveUsage_word w used (range st)
      · rw [List.foldl_cons, hf st hs (by rw [other hs]; exact used), other hs]

/-- The halving of every score changes the counters and their mirrors alone. -/
theorem State.halveAll_eq (l : List Station) (s : State) : l.foldl State.halveUsage s =
    { s with stations := (l.foldl State.halveUsage s).stations, mem := (l.foldl State.halveUsage s).mem } := by
  have same {β : Type} (view : State → β) (h : ∀ t st c a w, view (State.putWord (State.setCounters t st c) a w) = view t) :=
    State.foldl_same view (fun s st => s.halveUsage_same view h st) l s
  exact State.ext_of (same State.ctl fun _ _ _ _ _ => rfl) rfl (same State.notice fun _ _ _ _ _ => rfl)
    (same State.stationNotice fun _ _ _ _ _ => rfl) (same State.slots fun _ _ _ _ _ => rfl)
    (same State.queues fun _ _ _ _ _ => rfl) (same State.deadlines fun _ _ _ _ _ => rfl)
    (same State.stats fun _ _ _ _ _ => rfl) rfl (same State.ports fun _ _ _ _ _ => rfl)
    (same State.marks fun _ _ _ _ _ => rfl) (same State.spare fun _ _ _ _ _ => rfl)
    (same State.mailboxes fun _ _ _ _ _ => rfl) (same State.free fun _ _ _ _ _ => rfl)
    (same State.pending fun _ _ _ _ _ => rfl)

/-- Reviews bring no end of draining. -/
theorem closeEvent_reviewAll {s u : State} (ports : u.ports = s.ports) :
    closeEvent s u.reviewAll = settleInterrupt s u.reviewAll := by
  refine closeEvent_settles fun e => State.anyServing_of_ports ?_
  have engine : u.ctl.engine = .draining := (State.reviewAll_kept u).ctl ▸ e
  rw [State.reviewAll_ports (by rw [engine]; exact Engine.noConfusion), ports]

theorem State.decayEvent_not {s : State} (h : timerReached s.ctl.clock s.ctl.decayTimer = false) :
    exec .decayTimerExpiry s = .next s := by
  have e : s.decayEvent = s := by
    unfold State.decayEvent
    rw [h]
    rfl
  show Host.Outcome.next (closeEvent s s.decayEvent) = _
  rw [e, closeEvent_self]

/-- Settles O43: the scores are halved one station after another, and the reviews follow. -/
theorem decayHalvesTheScores : Obligations.DecayHalvesTheScores := by
  unfold Obligations.DecayHalvesTheScores
  intro s wf
  refine ⟨fun e active timer due => ?_, fun h => State.decayEvent_not (by rw [h]; rfl),
    fun e h late => State.decayEvent_not (by rw [h]; exact late)⟩
  let restarted := s.setControl fun c => { c with decayTimer := startTimer c.clock (c.work.decayPeriod * 1000) }
  obtain ⟨counters, writes, shown⟩ := State.halveAll allStations (List.nodup_finRange 32) (s := restarted) wf.memory
    fun st => (wf.counters st).usage
  have eq := State.halveAll_eq allStations restarted
  refine ⟨allStations.foldl State.halveUsage restarted, ?_, fun st => ?_, fun st => shown st (List.mem_finRange st),
    fun a ha => writes.kept wf.memory a fun ⟨st, _, k⟩ => ha ⟨st, k⟩, eq⟩
  · have event : s.decayEvent = (allStations.foldl State.halveUsage restarted).reviewAll := by
      unfold State.decayEvent
      rw [timer, sweeping_of active]
      exact if_pos (Bool.and_eq_true_iff.mpr ⟨due, rfl⟩)
    show Host.Outcome.next (closeEvent s s.decayEvent) = _
    rw [event, closeEvent_reviewAll (by rw [eq]; rfl)]
  · exact (counters st).trans (if_pos (List.mem_finRange st))

end Sys2Proof.Machine
end

/-! SUPPORT. The frames of a peripheral (R104, R115, R201). -/
section
namespace Sys2Proof.Machine

/-! ### Little-endian numbers in a payload -/

theorem toNat_append_byte {n : Nat} (x : BitVec n) (y : Byte) : (x ++ y).toNat = x.toNat * 256 + y.toNat := by
  rw [BitVec.toNat_append, ← Nat.shiftLeft_add_eq_or_of_lt y.isLt, Nat.shiftLeft_eq]

theorem bytes_eq_ofNat (b3 b2 b1 b0 : Byte) : (b3 ++ b2 ++ b1 ++ b0 : Word) =
    BitVec.ofNat 32 (b0.toNat + 256 * b1.toNat + 65536 * b2.toNat + 16777216 * b3.toNat) := by
  apply BitVec.eq_of_toNat_eq
  rw [toNat_append_byte, toNat_append_byte, toNat_append_byte, BitVec.toNat_ofNat, Nat.mod_eq_of_lt (by omega)]
  omega

theorem half_of_bytes (x : Half) : x.extractLsb' 8 8 ++ x.extractLsb' 0 8 = x := by
  apply BitVec.eq_of_getLsbD_eq
  intro i hi
  rw [BitVec.getLsbD_append]
  split
  · simp [*]
  · simp only [BitVec.getLsbD_extractLsb']
    rw [show 8 + (i - 8) = i by omega, decide_eq_true (by omega : i - 8 < 8), Bool.true_and]

/-! ### Reports (R162, R201) -/

/-- The seven bytes of a report. -/
def ContactReport.bytes (r : ContactReport) : List Byte :=
  [r.id, r.phase, r.x.extractLsb' 0 8, r.x.extractLsb' 8 8, r.y.extractLsb' 0 8, r.y.extractLsb' 8 8, r.pressure]

theorem parseReports_bytes (reports : List ContactReport) :
    parseReports (reports.flatMap ContactReport.bytes) = some reports := by
  induction reports with
  | nil => rfl
  | cons r rest ih =>
    show (parseReports (rest.flatMap ContactReport.bytes)).map _ = _
    rw [ih, half_of_bytes, half_of_bytes]
    rfl

theorem length_flatMap_bytes (reports : List ContactReport) :
    (reports.flatMap ContactReport.bytes).length = 7 * reports.length := by
  induction reports with
  | nil => rfl
  | cons r rest ih =>
    rw [List.flatMap_cons, List.length_append, ih, List.length_cons]
    show 7 + _ = _
    omega

/-- A payload that is no row of reports of seven bytes parses as none. -/
theorem parseReports_eq_none (payload : List Byte) (h : payload.length % 7 ≠ 0) : parseReports payload = none := by
  fun_induction parseReports payload with
  | case1 => exact absurd rfl h
  | case2 i ph x0 x1 y0 y1 pr rest ih =>
    rw [ih (by simp only [List.length_cons] at h; omega)]
    rfl
  | case3 => rfl

/-! ### Frames by kind (R104) -/

theorem parseFrame_state {payload : List Byte} (h : payload.length ≠ 2) : parseFrame 0x20 payload = none := by
  match payload with
  | [] | [_] => rfl
  | [_, _] => exact absurd rfl h
  | _ :: _ :: _ :: _ => rfl

theorem parseFrame_image (payload : List Byte) : parseFrame 0x22 payload =
    if 1 ≤ payload.length ∧ payload.length ≤ 120 then some (.image payload) else none := rfl

theorem parseFrame_imageEnd {payload : List Byte} (h : payload.length ≠ 4) : parseFrame 0x23 payload = none := by
  match payload with
  | [] | [_] | [_, _] | [_, _, _] => rfl
  | [_, _, _, _] => exact absurd rfl h
  | _ :: _ :: _ :: _ :: _ :: _ => rfl

theorem parseFrame_contact (payload : List Byte) : parseFrame 0x24 payload =
    if 7 ≤ payload.length ∧ payload.length ≤ 70 then (parseReports payload).map .contact else none := rfl

/-- A contact payload of a length that suits no number of reports is none. -/
theorem parseFrame_contact_none {payload : List Byte}
    (h : payload.length = 0 ∨ 70 < payload.length ∨ payload.length % 7 ≠ 0) : parseFrame 0x24 payload = none := by
  rw [parseFrame_contact]
  split
  · rw [parseReports_eq_none payload (by omega)]
    rfl
  · rfl

theorem parseFrame_other {kind : Byte} (payload : List Byte) (h : kind ∉ [0x10, 0x11, 0x20, 0x21, 0x22, 0x23])
    (k : kind ≠ 0x24) : parseFrame kind payload = none := by
  simp only [List.mem_cons, List.not_mem_nil, or_false, not_or] at h
  obtain ⟨h1, h2, h3, h4, h5, h6⟩ := h
  unfold parseFrame
  rw [if_neg h1, if_neg h2, if_neg h3, if_neg h4, if_neg h5, if_neg h6, if_neg k]

/-! ### Conditions and capabilities (R115) -/

theorem goodCondition_printer (code : Byte) : goodCondition .printer code = (match code.toNat with
    | 1 => some .ready | 2 => some .busy | 3 => some .paperOut | 4 => some .jam | 5 => some .coverOpen | _ => none) := by
  unfold goodCondition
  generalize code.toNat = n
  match n with
  | 0 | 1 | 2 | 3 | 4 | 5 | 6 | 7 | _ + 8 => rfl

theorem goodCondition_scanner (code : Byte) : goodCondition .scanner code = (match code.toNat with
    | 1 => some .ready | 2 => some .busy | 4 => some .jam | 5 => some .coverOpen | 6 => some .lampFail | _ => none) := by
  unfold goodCondition
  generalize code.toNat = n
  match n with
  | 0 | 1 | 2 | 3 | 4 | 5 | 6 | 7 | _ + 8 => rfl

theorem goodCondition_panel (code : Byte) : goodCondition .panel code = (match code.toNat with
    | 1 => some .ready | 2 => some .busy | 7 => some .panelFault | _ => none) := by
  unfold goodCondition
  generalize code.toNat = n
  match n with
  | 0 | 1 | 2 | 3 | 4 | 5 | 6 | 7 | _ + 8 => rfl

theorem capabilityOf_scanner (code : Byte) : capabilityOf .scanner code = min 3 code.toNat := rfl

theorem capabilityOf_panel (code : Byte) : capabilityOf .panel code = max 1 (min 10 code.toNat) := rfl

/-- Settles O53: the kinds one by one, the reports by induction on their list. -/
theorem peripheralFramesAreParsed : Obligations.PeripheralFramesAreParsed := by
  unfold Obligations.PeripheralFramesAreParsed
  refine ⟨⟨fun payload => ⟨rfl, rfl, rfl, fun _ _ => rfl, parseFrame_state, fun h1 h2 => (parseFrame_image payload).trans (if_pos ⟨h1, h2⟩), fun h => ?_,
      fun b0 b1 b2 b3 => congrArg (some ∘ PeripheralFrame.imageEnd) (bytes_eq_ofNat b3 b2 b1 b0), parseFrame_imageEnd⟩,
    fun reports h1 h2 => ?_, fun kind payload contact other => ?_⟩,
    fun code => ⟨goodCondition_printer code, goodCondition_scanner code, goodCondition_panel code, rfl, fun h => ?_,
      fun h => ?_, fun h => ?_, fun h1 h2 => ?_, fun h => ?_⟩⟩
  · refine (parseFrame_image payload).trans (if_neg fun ⟨h1, h2⟩ => ?_)
    rcases h with rfl | h
    · exact absurd h1 (by decide)
    · omega
  · show parseFrame 0x24 (reports.flatMap ContactReport.bytes) = _
    have length := length_flatMap_bytes reports
    rw [parseFrame_contact, if_pos (by omega), parseReports_bytes]
    rfl
  · by_cases k : kind = 0x24
    · rw [k]
      exact parseFrame_contact_none (contact k)
    · exact parseFrame_other payload other k
  · rw [capabilityOf_scanner]
    omega
  · rw [capabilityOf_scanner]
    omega
  · rw [h]
    rfl
  · rw [capabilityOf_panel]
    omega
  · rw [capabilityOf_panel]
    omega

end Sys2Proof.Machine
end

/-! SUPPORT. The frame receiver, character by character and at the end of a frame (R97 to R103, R112). -/
section
namespace Sys2Proof.Machine

/-! ### An event of one port -/

/-- An event that changes one port, which serves as before, and exchange memory is closed as it is. -/
theorem closeEvent_port {s : State} {p : Port} {y : PortRecord} (m : Memory) (h : y.state = (s.port p).state) :
    closeEvent s (({ s with mem := m } : State).setPort p y) = ({ s with mem := m } : State).setPort p y := by
  refine closeEvent_same s _ (State.anyServing_congr fun r => ?_) rfl rfl rfl
  by_cases e : r = p
  · subst e
    rw [State.port_setPort, h]
  · rw [State.port_setPort_ne _ e]
    rfl

theorem closeEvent_setPort {s : State} {p : Port} {y : PortRecord} (h : y.state = (s.port p).state) :
    closeEvent s (s.setPort p y) = s.setPort p y := closeEvent_port s.mem h

theorem State.setReceiver_setPort (s : State) (p : Port) (y : PortRecord) (r : Receiver) :
    (s.setPort p y).setReceiver p r = s.setPort p { y with receiver := r } := by
  rw [State.setReceiver, State.modifyPort, State.port_setPort, State.setPort_setPort]

theorem State.setReceiver_eq (s : State) (p : Port) (r : Receiver) :
    s.setReceiver p r = s.setPort p { s.port p with receiver := r } := rfl

/-! ### The line counters (R112) -/

theorem rewriteWord_self (m : Memory) (a : Nat) (w : Word) : rewriteWord m a w w = m := if_pos rfl

/-- The memory in which the mirror of one line counter that rises is written. -/
def lineCounted (m : Memory) (p : Port) (offset count : Nat) : Memory :=
  rewriteWord m (portAddress p + offset) (BitVec.ofNat 32 count) (BitVec.ofNat 32 (saturate max32 count 1))

theorem State.updateLineCounters_setPort (s : State) (p : Port) (y : PortRecord) (f : LineCounters → LineCounters) :
    (s.setPort p y).updateLineCounters p f =
      ({ s with mem := rewriteWords s.mem (portAddress p) (lineWords y.counters) (lineWords (f y.counters)) } : State).setPort p
        { y with counters := f y.counters } := by
  unfold State.updateLineCounters State.modifyPort
  dsimp only
  rw [State.port_setPort, State.setPort_setPort]
  rfl

theorem State.countNoise_setPort (s : State) (p : Port) (y : PortRecord) : (s.setPort p y).countNoise p =
    ({ s with mem := lineCounted s.mem p 0x0C y.counters.noise } : State).setPort p { y with
      counters := { y.counters with noise := saturate max32 y.counters.noise 1 } } := by
  unfold State.countNoise
  rw [State.updateLineCounters_setPort]
  simp [rewriteWords, lineWords, rewriteWord_self, lineCounted]

theorem State.countFraming_setPort (s : State) (p : Port) (y : PortRecord) : (s.setPort p y).countFraming p =
    ({ s with mem := lineCounted s.mem p 0x10 y.counters.framing } : State).setPort p { y with
      counters := { y.counters with framing := saturate max32 y.counters.framing 1 } } := by
  unfold State.countFraming
  rw [State.updateLineCounters_setPort]
  simp [rewriteWords, lineWords, rewriteWord_self, lineCounted]

theorem State.countCheck_setPort (s : State) (p : Port) (y : PortRecord) : (s.setPort p y).countCheck p =
    ({ s with mem := lineCounted s.mem p 0x14 y.counters.check } : State).setPort p { y with
      counters := { y.counters with check := saturate max32 y.counters.check 1 } } := by
  unfold State.countCheck
  rw [State.updateLineCounters_setPort]
  simp [rewriteWords, lineWords, rewriteWord_self, lineCounted]

theorem portAddress_lt (p : Port) : portAddress p + 0x1F < Config.exchangeBytes := by
  have := p.isLt
  unfold portAddress Config.exchangeBytes
  omega

theorem saturate_ofNat_ne {count : Nat} (h : count < 4294967295) :
    BitVec.ofNat 32 count ≠ BitVec.ofNat 32 (saturate max32 count 1) := by
  have e : saturate max32 count 1 = count + 1 := by unfold saturate max32; omega
  rw [e]
  intro k
  have := congrArg BitVec.toNat k
  rw [BitVec.toNat_ofNat, BitVec.toNat_ofNat] at this
  omega

/-- The mirror of a line counter that rises shows it, and no other byte is written. -/
theorem lineCounted_spec {m : Memory} (w : Memory.wf m = true) (p : Port) {offset : Nat} (ho : offset ≤ 0x1C) (count : Nat) :
    (count < 4294967295 → readWord (lineCounted m p offset count) (portAddress p + offset) = BitVec.ofNat 32 (count + 1)) ∧
    (count = 4294967295 → lineCounted m p offset count = m) ∧
    ∀ a, ¬ within (portAddress p + offset) 4 a → readByte (lineCounted m p offset count) a = readByte m a := by
  have lt := portAddress_lt p
  refine ⟨fun h => ?_, fun h => ?_, (rewriteWord_writes m _ _ _).kept w⟩
  · unfold lineCounted rewriteWord
    rw [if_neg (saturate_ofNat_ne h), readWord_writeWord w (by omega)]
    congr 1
    unfold saturate max32
    omega
  · subst h
    exact rewriteWord_self _ _ _

/-! ### What a character does (R98 to R102) -/

/-- The receiver once the wait for a high sample is over (R98). -/
def Receiver.waited (r : Receiver) : Receiver := if r = .lineLow then .hunting else r

theorem State.endWait_setPort (s : State) (p : Port) :
    s.endWait p = s.setPort p { s.port p with receiver := (s.port p).receiver.waited } := by
  rw [State.endWait_eq]
  unfold Receiver.waited
  split
  · rfl
  · exact (s.setPort_self p).symm

theorem Receiver.waited_of_ne {r : Receiver} (h : r ≠ .lineLow) : r.waited = r := if_neg h

theorem State.characterEvent_deaf {s : State} {p : Port} {c : LineCharacter}
    (h : (s.port p).state = .offline ∨ ¬ ((s.port p).receiver ≠ .lineLow ∨ c.afterHigh = true)) :
    s.characterEvent p c = s := by
  refine if_neg fun k => ?_
  obtain ⟨listening, edge⟩ := Bool.and_eq_true_iff.mp k
  rcases h with h | h
  · simp [State.listening, h] at listening
  · exact h (by simpa [State.edgeFound] using edge)

/-- A character that a listening receiver samples from its edge. -/
theorem State.characterEvent_heard {s : State} {p : Port} {c : LineCharacter} (on : (s.port p).state ≠ .offline)
    (edge : (s.port p).receiver ≠ .lineLow ∨ c.afterHigh = true) :
    s.characterEvent p c = match qualify c with
      | some ch => (s.endWait p).takeCharacter p ch
      | none => s.endWait p := by
  have heard : (s.listening p && s.edgeFound p c) = true := by simp [State.listening, State.edgeFound, on, edge]
  exact if_pos heard

theorem exec_character_of {s t : State} {p : Port} {c : LineCharacter} {m : Memory} {y : PortRecord}
    (h : s.characterEvent p c = t) (ht : t = ({ s with mem := m } : State).setPort p y) (state : y.state = (s.port p).state) :
    exec (.characterReceived p c) s = .next t := by
  show Host.Outcome.next (closeEvent s (s.characterEvent p c)) = _
  rw [h, ht, closeEvent_port m state]

/-- The samples of a character as the line carries it. -/
def steadyBit (v : Bool) : BitSamples := { first := v, second := v, third := v }

@[simp] theorem majority_steadyBit (v : Bool) : majority (steadyBit v) = v := by cases v <;> rfl

@[simp] theorem disagrees_steadyBit (v : Bool) : disagrees (steadyBit v) = false := by cases v <;> rfl

/-- The value of a list of bits, least significant first. -/
theorem sampledByte_steady (b : Byte) :
    sampledByte ((Vector.ofFn fun i : Fin 8 => steadyBit (b.getLsbD i.val)).toList) = b := by
  have bits : (Vector.ofFn fun i : Fin 8 => steadyBit (b.getLsbD i.val)).toList =
      [steadyBit (b.getLsbD 0), steadyBit (b.getLsbD 1), steadyBit (b.getLsbD 2), steadyBit (b.getLsbD 3),
        steadyBit (b.getLsbD 4), steadyBit (b.getLsbD 5), steadyBit (b.getLsbD 6), steadyBit (b.getLsbD 7)] := by
    simp [Vector.toList_ofFn, List.ofFn_succ]
  rw [bits]
  revert b
  decide

/-- What a character does to the receiver of its port, where it changes no counter, and where one rises. -/
theorem exec_character_taken {s : State} {p : Port} {c : LineCharacter} {r : Receiver}
    (h : s.characterEvent p c = s.setPort p { s.port p with receiver := r }) :
    exec (.characterReceived p c) s = .next (s.setPort p { s.port p with receiver := r }) :=
  exec_character_of h rfl rfl

theorem exec_character_counted {s : State} (w : Memory.wf s.mem = true) {p : Port} {c : LineCharacter} {r : Receiver}
    {n : LineCounters} {offset count : Nat} (ho : offset ≤ 0x1C)
    (h : s.characterEvent p c = ({ s with mem := lineCounted s.mem p offset count } : State).setPort p
      { s.port p with receiver := r, counters := n }) :
    ∃ t, exec (.characterReceived p c) s = .next t ∧
      t = { (s.setPort p { s.port p with receiver := r, counters := n }) with mem := t.mem } ∧
      (count < 4294967295 → t.word (portAddress p + offset) = BitVec.ofNat 32 (count + 1)) ∧
      (count = 4294967295 → t.mem = s.mem) ∧ s.memoryKept t fun a => within (portAddress p + offset) 4 a :=
  ⟨_, exec_character_of h rfl rfl, rfl, lineCounted_spec w p ho count⟩

/-- A character that a receiver outside the last one of a frame takes (R99, R101, R102). -/
theorem State.takeCharacter_noisy {s : State} {p : Port} {y : PortRecord} {ch : Character} (h : ch.quality = .noisy) :
    (s.setPort p y).takeCharacter p ch = ({ s with mem := lineCounted s.mem p 0x0C y.counters.noise } : State).setPort p { y with
      receiver := .hunting, counters := { y.counters with noise := saturate max32 y.counters.noise 1 } } := by
  unfold State.takeCharacter State.receive
  rw [h, if_neg Quality.noConfusion, State.setReceiver_setPort, State.countNoise_setPort]

theorem State.takeCharacter_framing {s : State} {p : Port} {y : PortRecord} {ch : Character} (h : ch.quality = .framing) :
    (s.setPort p y).takeCharacter p ch = ({ s with mem := lineCounted s.mem p 0x10 y.counters.framing } : State).setPort p { y with
      receiver := .lineLow, counters := { y.counters with framing := saturate max32 y.counters.framing 1 } } := by
  unfold State.takeCharacter State.receive
  rw [h, if_pos rfl, State.setReceiver_setPort, State.countFraming_setPort, State.setReceiver_setPort]

theorem State.takeCharacter_data {s : State} {p : Port} {ch : Character} (h : ch.quality = .good) (m : ch.mark = false) :
    s.takeCharacter p ch = s.frameCharacter p ch.data := by
  unfold State.takeCharacter State.receive
  rw [h, m]
  rfl

theorem State.takeCharacter_header {s : State} {p : Port} {ch : Character} (h : ch.quality = .good) (m : ch.mark = true)
    (out : (s.port p).receiver = .hunting) : s.takeCharacter p ch = s.setReceiver p (.awaitLength ch.data) := by
  unfold State.takeCharacter State.receive
  rw [h, m, out]
  rfl

theorem State.takeCharacter_abort {s : State} {p : Port} {ch : Character} (h : ch.quality = .good) (m : ch.mark = true)
    (out : (s.port p).receiver ≠ .hunting) (low : (s.port p).receiver ≠ .lineLow) :
    s.takeCharacter p ch = (s.countFraming p).setReceiver p (.awaitLength ch.data) := by
  unfold State.takeCharacter State.receive
  rw [h, m]
  match e : (s.port p).receiver with
  | .hunting => exact absurd e out
  | .lineLow => exact absurd e low
  | .awaitLength _ | .awaitPayload _ _ _ | .awaitCheck _ _ => rfl

theorem State.setPort_waited (s : State) (p : Port) (h : (s.port p).receiver ≠ .lineLow) : s.endWait p = s := by
  rw [State.endWait_eq, if_neg h]

/-- Settles O51: the qualities of a character, and for a GOOD one the receiver's states. -/
theorem receiverTakesCharacters : Obligations.ReceiverTakesCharacters := by
  unfold Obligations.ReceiverTakesCharacters
  refine ⟨fun s p c wf => ?_, fun b mark high => ?_⟩
  · intro x edge outside counted taken noisy framing
    have quiet (h : s.characterEvent p c = s) : exec (.characterReceived p c) s = .next s := by
      show Host.Outcome.next (closeEvent s (s.characterEvent p c)) = _
      rw [h, closeEvent_self]
    refine ⟨fun h => quiet (State.characterEvent_deaf h), fun on heard none => ?_, fun ch on heard some => ?_⟩
    · have event := (State.characterEvent_heard on heard).trans (by rw [none])
      exact ⟨fun low => exec_character_taken (event.trans ((s.endWait_eq p).trans (if_pos low))),
        fun not => quiet (event.trans (s.setPort_waited p not))⟩
    · have event : s.characterEvent p c = (s.endWait p).takeCharacter p ch :=
        (State.characterEvent_heard on heard).trans (by rw [some])
      have good (q : ch.quality = .good) (not : x.receiver ≠ .lineLow) (m : ch.mark = false) :
          s.characterEvent p c = s.frameCharacter p ch.data := by
        rw [event, s.setPort_waited p not, State.takeCharacter_data q m]
      refine ⟨fun q => ?_, fun q => ?_, fun q m out => ?_, fun q m out => ?_, fun q m hunts => quiet ?_, fun q m low => ?_,
        fun kind q m await => ?_, fun kind length got q m await => ?_⟩
      · exact exec_character_counted wf.memory (by omega)
          (event.trans (by rw [s.endWait_setPort, State.takeCharacter_noisy q]; rfl))
      · exact exec_character_counted wf.memory (by omega)
          (event.trans (by rw [s.endWait_setPort, State.takeCharacter_framing q]; rfl))
      · refine exec_character_taken (event.trans ?_)
        have hunting : x.receiver.waited = .hunting := by rcases out with h | h <;> rw [h] <;> rfl
        rw [s.endWait_setPort, State.takeCharacter_header q m (by rw [State.port_setPort]; exact hunting),
          State.setReceiver_setPort]
      · have not : x.receiver ≠ .lineLow := fun h => out (.inr h)
        refine exec_character_counted wf.memory (offset := 0x10) (count := x.counters.framing) (by omega) (event.trans ?_)
        rw [s.setPort_waited p not, State.takeCharacter_abort q m (fun h => out (.inl h)) not]
        have h := s.countFraming_setPort p x
        rw [show s.setPort p x = s from s.setPort_self p] at h
        rw [h, State.setReceiver_setPort]
        rfl
      · rw [good q (by rw [hunts]; exact Receiver.noConfusion) m, State.frameCharacter, show (s.port p).receiver = _ from hunts]
      · refine exec_character_taken (event.trans ?_)
        rw [State.takeCharacter_data q m, s.endWait_eq, if_pos low, State.frameCharacter, s.setReceiver_eq, State.port_setPort]
      · have step := good q (by rw [await]; exact Receiver.noConfusion) m
        unfold State.frameCharacter at step
        rw [show (s.port p).receiver = _ from await] at step
        dsimp only at step
        refine ⟨fun long => ?_, fun zero => ?_, fun some short => ?_⟩
        · refine exec_character_counted wf.memory (offset := 0x10) (count := x.counters.framing) (by omega) (step.trans ?_)
          rw [if_pos long, s.setReceiver_eq, State.countFraming_setPort]
          rfl
        · refine exec_character_taken (step.trans ?_)
          rw [zero]
          rfl
        · refine exec_character_taken (step.trans ?_)
          rw [if_neg (by omega), if_neg (by omega), s.setReceiver_eq]
      · have step := good q (by rw [await]; exact Receiver.noConfusion) m
        unfold State.frameCharacter at step
        rw [show (s.port p).receiver = _ from await] at step
        dsimp only at step
        refine ⟨fun more => ?_, fun last => ?_⟩
        · exact exec_character_taken (step.trans (if_pos more))
        · exact exec_character_taken (step.trans (if_neg (by omega)))
  · intro sampled
    have bit (i : Fin 8) : sampled (i.val + 1) = steadyBit (b.getLsbD i.val) := by
      show steadyBit ((lineBits (b, mark))[i.val + 1]?.getD restLevel) = _
      congr 1
      match i with
      | 0 | 1 | 2 | 3 | 4 | 5 | 6 | 7 => rfl
    have data : (Vector.ofFn fun i : Fin 8 => sampled (i.val + 1)) = Vector.ofFn fun i : Fin 8 => steadyBit (b.getLsbD i.val) :=
      congrArg Vector.ofFn (funext bit)
    have start : sampled 0 = steadyBit false := rfl
    have markBit : sampled 9 = steadyBit mark := rfl
    have stop : sampled 10 = steadyBit true := rfl
    unfold qualify
    dsimp only
    rw [data, start, markBit, stop, sampledByte_steady]
    simp [Vector.toList_ofFn]

end Sys2Proof.Machine
end

/-! SUPPORT. A complete frame: its judgement, and the count of one that is rejected (R102 to R104, R112). -/
section
namespace Sys2Proof.Machine

/-! ### The judgement (R103) -/

theorem State.judged_of_parse {s : State} {p : Port} {kind : Byte} {payload : List Byte} {f : PeripheralFrame}
    (h : parseFrame kind payload = some f) :
    s.judged p kind payload = if goodFrame (s.portConfig p).cls f then some f else none := by
  unfold State.judged
  rw [h]

theorem State.judged_of_none {s : State} {p : Port} {kind : Byte} {payload : List Byte} (h : parseFrame kind payload = none) :
    s.judged p kind payload = none := by
  unfold State.judged
  rw [h]

theorem State.listening_of {s : State} {p : Port} (h : (s.port p).state ≠ .offline) : s.listening p = true := bne_iff_ne.mpr h

/-- A frame that the receiver rejects, as its last character completes it, is the rejection's own row (log entry 8). -/
theorem State.frameComplete_rejected {s : State} {p : Port} {kind : Byte} {payload : List Byte} {check : Byte}
    (on : (s.port p).state ≠ .offline) (h : checkHolds kind payload check = false ∨ parseFrame kind payload = none) :
    s.frameComplete p kind payload check = s.rejectEvent p kind payload check := by
  unfold State.frameComplete State.rejectEvent
  dsimp only
  rw [if_pos (State.listening_of on)]
  split
  · rfl
  next holds =>
    rcases h with h | h
    · rw [h] at holds
      exact absurd rfl holds
    · rw [State.judged_of_none h]

/-- A frame that parses acts as its own row. -/
theorem State.frameComplete_parsed {s : State} {p : Port} {kind : Byte} {payload : List Byte} {check : Byte}
    {f : PeripheralFrame} (on : (s.port p).state ≠ .offline) (holds : checkHolds kind payload check = true)
    (h : parseFrame kind payload = some f) : s.frameComplete p kind payload check = s.frameEvent p f := by
  unfold State.frameComplete State.frameEvent
  dsimp only
  rw [if_pos (State.listening_of on), holds, State.judged_of_parse h]
  split
  next k => exact absurd k Bool.false_ne_true
  next =>
    cases goodFrame (s.portConfig p).cls f <;> rfl

/-- The command of a frame (log entry 8). -/
def frameCommand (p : Port) : PeripheralFrame → Instr
  | .ack => .ackFrame p
  | .nak => .nakFrame p
  | .state condition capability => .stateFrame p condition capability
  | .sheet => .sheetFrame p
  | .image data => .imageFrame p data
  | .imageEnd total => .imageEndFrame p total
  | .contact reports => .contactFrame p reports

theorem exec_frameCommand (p : Port) (f : PeripheralFrame) (s : State) :
    exec (frameCommand p f) s = .next (closeEvent s (s.frameEvent p f)) := by
  cases f <;> rfl

/-! ### A rejected frame -/

theorem State.rejectEvent_deaf {s : State} {p : Port} (h : (s.port p).state = .offline) (kind : Byte) (payload : List Byte)
    (check : Byte) : s.rejectEvent p kind payload check = s := if_neg (by simp [State.listening, h])

theorem State.rejectEvent_failed {s : State} {p : Port} {kind : Byte} {payload : List Byte} {check : Byte}
    (on : (s.port p).state ≠ .offline) (h : checkHolds kind payload check = false) :
    s.rejectEvent p kind payload check = (s.setReceiver p .hunting).rejectCheck p kind := by
  unfold State.rejectEvent
  rw [if_pos (State.listening_of on), h]
  rfl

theorem State.rejectEvent_malformed {s : State} {p : Port} {kind : Byte} {payload : List Byte} {check : Byte}
    (on : (s.port p).state ≠ .offline) (h : checkHolds kind payload check = true) (none : s.judged p kind payload = none) :
    s.rejectEvent p kind payload check = (s.setReceiver p .hunting).countFraming p := by
  unfold State.rejectEvent
  dsimp only
  rw [if_pos (State.listening_of on), h, none]
  rfl

theorem State.reply_setPort (s : State) (p : Port) (y : PortRecord) (k : ReplyKind) :
    (s.setPort p y).reply p k = s.setPort p { y with transmitter := placeReply k y.transmitter } := by
  rw [State.reply, State.transmit, State.modifyPort, State.port_setPort, State.setPort_setPort]

/-- The scan service of a port takes IMAGE and IMAGE-END frames (R103, R151). -/
theorem State.takingImages_iff (s : State) (p : Port) : s.takingImages p = true ↔
    (s.port p).state = .serving ∧ (s.portConfig p).cls = .scanner ∧ (s.port p).job ≠ none ∧
      ((s.port p).scan.phase = .taking ∨ (s.port p).scan.phase = .starved) := by
  unfold State.takingImages State.servedJob takesFrames
  rw [Bool.and_eq_true, Bool.or_eq_true, beq_iff_eq, beq_iff_eq, Option.isSome_iff_ne_none]
  split
  next h => simp [h.1, h.2]
  next h => exact ⟨fun k => absurd rfl k.1, fun ⟨h1, h2, _⟩ => absurd ⟨h1, h2⟩ h⟩

theorem State.takingImages_congr {s t : State} {p : Port} (hc : t.ctl = s.ctl) (h1 : (t.port p).state = (s.port p).state)
    (h2 : (t.port p).job = (s.port p).job) (h3 : (t.port p).scan = (s.port p).scan) :
    t.takingImages p = s.takingImages p := by
  unfold State.takingImages State.servedJob State.portConfig
  rw [hc, h1, h2, h3]

/-- A frame whose check fails: the count, and the NAK where the scan service takes images (R103). -/
theorem State.rejectCheck_eq (s : State) (p : Port) (kind : Byte) :
    (s.setReceiver p .hunting).rejectCheck p kind =
      ({ s with mem := lineCounted s.mem p 0x14 (s.port p).counters.check } : State).setPort p { s.port p with
        receiver := .hunting
        counters := { (s.port p).counters with check := saturate max32 (s.port p).counters.check 1 }
        transmitter := if (kind = 0x22 ∨ kind = 0x23) ∧ s.takingImages p = true then
          placeReply .nak (s.port p).transmitter else (s.port p).transmitter } := by
  unfold State.rejectCheck
  dsimp only
  have taking : (s.setReceiver p .hunting).takingImages p = s.takingImages p :=
    State.takingImages_congr rfl (by simp [s.setReceiver_eq]) (by simp [s.setReceiver_eq]) (by simp [s.setReceiver_eq])
  rw [taking, s.setReceiver_eq, State.countCheck_setPort]
  split
  · rw [State.reply_setPort]
  · rfl

theorem exec_rejected_counted {s : State} (w : Memory.wf s.mem = true) {p : Port} {kind : Byte} {payload : List Byte}
    {check : Byte} {t' : Transmitter} {n : LineCounters} {offset count : Nat} (ho : offset ≤ 0x1C)
    (h : s.rejectEvent p kind payload check = ({ s with mem := lineCounted s.mem p offset count } : State).setPort p
      { s.port p with receiver := .hunting, counters := n, transmitter := t' }) :
    ∃ t, exec (.frameRejected p kind payload check) s = .next t ∧
      t = { (s.setPort p { s.port p with receiver := .hunting, counters := n, transmitter := t' }) with mem := t.mem } ∧
      (count < 4294967295 → t.word (portAddress p + offset) = BitVec.ofNat 32 (count + 1)) ∧
      (count = 4294967295 → t.mem = s.mem) ∧ s.memoryKept t fun a => within (portAddress p + offset) 4 a := by
  have run : exec (.frameRejected p kind payload check) s = .next
      (({ s with mem := lineCounted s.mem p offset count } : State).setPort p
        { s.port p with receiver := .hunting, counters := n, transmitter := t' }) := by
    show Host.Outcome.next (closeEvent s (s.rejectEvent p kind payload check)) = _
    rw [h]
    exact congrArg Host.Outcome.next (closeEvent_port _ rfl)
  exact ⟨_, run, rfl, lineCounted_spec w p ho count⟩

/-- Settles O52: the last character's event is the row's own, and a rejected frame raises one counter. -/
theorem framesAreJudgedWhenComplete : Obligations.FramesAreJudgedWhenComplete := by
  unfold Obligations.FramesAreJudgedWhenComplete
  refine ⟨fun s p c ch kind payload on some q m await => ?_, fun s p kind payload check wf => ?_⟩
  · have not : (s.port p).receiver ≠ .lineLow := by rw [await]; exact Receiver.noConfusion
    have event : s.characterEvent p c = s.frameComplete p kind payload ch.data := by
      rw [State.characterEvent_heard on (.inl not), some]
      dsimp only
      rw [s.setPort_waited p not, State.takeCharacter_data q m, State.frameCharacter, await]
    refine ⟨fun rejected => ?_, fun holds f parsed => ?_⟩
    · show Host.Outcome.next (closeEvent s (s.characterEvent p c)) = .next (closeEvent s (s.rejectEvent p kind payload ch.data))
      rw [event, State.frameComplete_rejected on rejected]
    · have own : exec (.characterReceived p c) s = exec (frameCommand p f) s := by
        show Host.Outcome.next (closeEvent s (s.characterEvent p c)) = _
        rw [event, State.frameComplete_parsed on holds parsed, exec_frameCommand]
      cases f <;> exact own
  · intro x counted failed malformed taking
    refine ⟨fun off => ?_, fun on => ⟨fun bad image takes => ?_, fun bad not => ?_, fun holds none => ?_,
      fun f holds parsed bad => ?_⟩⟩
    · show Host.Outcome.next (closeEvent s (s.rejectEvent p kind payload check)) = _
      rw [State.rejectEvent_deaf off, closeEvent_self]
    · refine exec_rejected_counted wf.memory (by omega) ?_
      rw [State.rejectEvent_failed on bad, s.rejectCheck_eq, if_pos ⟨image, (s.takingImages_iff p).mpr takes⟩]
      rfl
    · refine exec_rejected_counted wf.memory (by omega) ?_
      rw [State.rejectEvent_failed on bad, s.rejectCheck_eq,
        if_neg fun k => not ⟨k.1, (s.takingImages_iff p).mp k.2⟩]
      rfl
    · refine exec_rejected_counted wf.memory (by omega) ?_
      rw [State.rejectEvent_malformed on holds (State.judged_of_none none), s.setReceiver_eq, State.countFraming_setPort]
      rfl
    · refine exec_rejected_counted wf.memory (by omega) ?_
      rw [State.rejectEvent_malformed on holds ((State.judged_of_parse parsed).trans (by rw [bad]; rfl)), s.setReceiver_eq,
        State.countFraming_setPort]
      rfl

end Sys2Proof.Machine
end

/-! SUPPORT. The transmitter and the characters of a line (R97, R106, R107, R111, R119). -/
section
namespace Sys2Proof.Machine

/-! ### Lists of equal pieces -/

/-- A place in a concatenation of pieces of one length. -/
theorem getElem?_flatMap_of_length {α β : Type} {f : α → List β} {n : Nat} (h : ∀ a, (f a).length = n) (l : List α) (i : Nat)
    {k : Nat} (hk : k < n) : (l.flatMap f)[n * i + k]? = l[i]?.bind fun a => (f a)[k]? := by
  induction l generalizing i with
  | nil => simp
  | cons a rest ih =>
    cases i with
    | zero => rw [List.flatMap_cons, List.getElem?_append_left (by rw [h]; omega), Nat.mul_zero, Nat.zero_add]; rfl
    | succ i =>
      rw [List.flatMap_cons, List.getElem?_append_right (by rw [h, Nat.mul_succ]; omega), List.getElem?_cons_succ, ← ih i, h,
        Nat.mul_succ]
      congr 1
      omega

/-- The level of a line within a character of its output (R97). -/
theorem PortRecord.level_in {x : PortRecord} {i : Nat} {c : Byte × Bool} (h : x.output[i]? = some c) {k : Nat} (hk : k < 11) :
    x.level (11 * i + k) = (lineBits c)[k]'(by rw [lineBits_length]; exact hk) := by
  unfold PortRecord.level
  rw [getElem?_flatMap_of_length lineBits_length _ _ hk, h, Option.bind_some, List.getElem?_eq_getElem (by rw [lineBits_length]; exact hk)]
  rfl

theorem lineBits_data (c : Byte × Bool) {k : Nat} (hk : k < 8) :
    (lineBits c)[1 + k]'(by rw [lineBits_length]; omega) = c.1.getLsbD k := by
  simp [lineBits, Nat.add_comm 1 k, hk]

theorem lineBits_mark (c : Byte × Bool) : (lineBits c)[9]'(by rw [lineBits_length]; omega) = c.2 := rfl

theorem lineBits_stop (c : Byte × Bool) : (lineBits c)[10]'(by rw [lineBits_length]; omega) = true := rfl

theorem lineBits_start (c : Byte × Bool) : (lineBits c)[0]'(by rw [lineBits_length]; omega) = false := rfl

/-! ### Characters of a frame (R97, R201) -/

theorem frameCharacters_bytes (kind : Byte) (payload : List Byte) : (frameCharacters kind payload).map Prod.fst =
    kind :: BitVec.ofNat 8 payload.length :: payload ++ [checkOf kind payload] := by
  simp [frameCharacters, Function.comp_def]

theorem frameCharacters_marks (kind : Byte) (payload : List Byte) : (frameCharacters kind payload).map Prod.snd =
    true :: List.replicate (payload.length + 2) false := by
  have all : payload.map (fun _ => false) = List.replicate payload.length false := List.map_const'
  simp [frameCharacters, Function.comp_def, all, List.replicate_succ, ← List.replicate_succ']

/-! ### The transmitter's choice (R106) -/

theorem chooseNext_reply {t : Transmitter} {k : ReplyKind} {rest : List ReplyKind} (idle : t.sending = .idle)
    (h : t.replies = k :: rest) : chooseNext t = { t with sending := .reply k, replies := rest } := by
  unfold chooseNext
  rw [idle, h]

theorem chooseNext_send {t : Transmitter} {o : Outstanding} (idle : t.sending = .idle) (h : t.replies = [])
    (ho : t.outstanding = some o) (phase : o.phase = .awaitingSend) :
    chooseNext t = { t with sending := .outstanding, outstanding := some { o with phase := .beingSent } } := by
  unfold chooseNext
  rw [idle, h, ho]
  dsimp only
  rw [phase]

theorem chooseNext_none {t : Transmitter} (h : t.replies = [])
    (ho : ∀ o, t.outstanding = some o → o.phase ≠ .awaitingSend) : chooseNext t = t := by
  unfold chooseNext
  split
  · rw [h]
    dsimp only
    split
    next o e =>
      split
      next k => exact absurd k (ho o e)
      next => rfl
    next => rfl
  · rfl

/-- A frame that awaits its answer leaves the transmitter to the replies. -/
theorem chooseNext_awaiting {t : Transmitter} {o : Outstanding} (idle : t.sending = .idle) (ho : t.outstanding = some o)
    (phase : o.phase = .awaitingAnswer) : chooseNext t = { t with
      sending := match t.replies with | k :: _ => .reply k | [] => .idle
      replies := t.replies.tail } := by
  match h : t.replies with
  | [] =>
    rw [chooseNext_none h fun o' e => by
      obtain rfl := Option.some.inj (ho.symm.trans e)
      rw [phase]
      exact SendPhase.noConfusion]
    dsimp only [List.tail_nil]
    rw [← idle, ← h]
  | k :: rest => exact chooseNext_reply idle h

theorem frameDone_idle {t : Transmitter} (h : t.sending = .idle) (clock : Stamp) (timeout : Nat) : frameDone clock timeout t = t := by
  unfold frameDone
  rw [h]

/-- A reply and a withdrawn frame await no answer. -/
theorem frameDone_unawaited {t : Transmitter} (h : (∃ k, t.sending = .reply k) ∨ ∃ f, t.sending = .withdrawn f) (clock : Stamp)
    (timeout : Nat) : frameDone clock timeout t = chooseNext { t with sending := .idle } := by
  unfold frameDone
  rcases h with ⟨k, h⟩ | ⟨f, h⟩ <;> rw [h]

theorem frameDone_outstanding {t : Transmitter} {o : Outstanding} (h : t.sending = .outstanding) (ho : t.outstanding = some o)
    (clock : Stamp) (timeout : Nat) : frameDone clock timeout t = chooseNext { t with
      sending := .idle
      outstanding := some { o with phase := .awaitingAnswer }
      responseTimer := startTimer clock timeout } := by
  unfold frameDone
  rw [h, ho]

/-- A port whose transmitter is sending (R107). -/
theorem portSent_sending {x : PortRecord} (h : x.transmitter.sending ≠ .idle) (clock : Stamp) (timeout : Nat) :
    portSent clock timeout x =
      { x with transmitter := frameDone clock timeout x.transmitter, cut := { x.cut with character := none } } := by
  unfold portSent
  split
  next k => exact absurd k h
  next => rfl

theorem exec_frameSent (s : State) (p : Port) : exec (.frameSent p) s =
    .next (s.setPort p (portSent s.ctl.clock (s.portConfig p).responseTimeout (s.port p))) := rfl

/-! ### The probe (R119) -/

theorem offer_empty {t : Transmitter} (f : Offered) (h : t.outstanding = none) :
    offer f t = chooseNext { t with outstanding := some { offered := f, sends := 1, phase := .awaitingSend } } := by
  unfold offer
  rw [h]

theorem State.probeEvent_due {s : State} {p : Port} (due : timerReached s.ctl.clock (s.port p).probeTimer = true)
    (down : (s.port p).state = .faulted) : s.probeEvent p = s.setPort p { s.port p with
      probeTimer := some (s.ctl.clock + BitVec.ofNat 32 ((s.portConfig p).probeInterval * 1000))
      transmitter := if (s.port p).transmitter.outstanding = none then
        offer { frame := .ask, owner := .probe } (s.port p).transmitter else (s.port p).transmitter } := by
  unfold State.probeEvent
  dsimp only
  rw [if_pos ⟨due, down⟩]
  cases h : (s.port p).transmitter.outstanding with
  | none =>
    rw [if_pos (by exact rfl), if_pos rfl, State.offerAsk, State.transmit, State.modifyPort, State.modifyPort, State.port_setPort,
      State.setPort_setPort]
    rfl
  | some o =>
    rw [if_neg (by exact Bool.false_ne_true), if_neg (by exact Option.some_ne_none o)]
    rfl

theorem exec_probe_due {s : State} {p : Port} (due : timerReached s.ctl.clock (s.port p).probeTimer = true)
    (down : (s.port p).state = .faulted) : exec (.probeTimerExpiry p) s = .next (s.setPort p { s.port p with
      probeTimer := some (s.ctl.clock + BitVec.ofNat 32 ((s.portConfig p).probeInterval * 1000))
      transmitter := if (s.port p).transmitter.outstanding = none then
        offer { frame := .ask, owner := .probe } (s.port p).transmitter else (s.port p).transmitter }) := by
  show Host.Outcome.next (closeEvent s (s.probeEvent p)) = _
  rw [State.probeEvent_due due down]
  exact congrArg Host.Outcome.next (closeEvent_setPort rfl)

/-- Settles O44: the transmitter's choice after a send, the probe, frames given up, and the bits of a line. -/
theorem transmitterSendsAndProbes : Obligations.TransmitterSendsAndProbes := by
  unfold Obligations.TransmitterSendsAndProbes
  refine ⟨fun s p => ?_, fun s p => ?_, fun p x => ?_, fun s p => s.enterStopped_port p,
    fun kind payload => ⟨frameCharacters_bytes kind payload, frameCharacters_marks kind payload⟩,
    fun x => ⟨fun i c h => ⟨?_, fun k hk => ?_, ?_, ?_⟩, fun time h => x.level_after h⟩⟩
  · intro x timer
    refine ⟨fun due down => ⟨fun none => ?_, fun none idle quiet => ?_, fun some => ?_⟩, fun h => ?_⟩
    · rw [exec_probe_due due down, if_pos none]
    · have sent := chooseNext_send (t := { x.transmitter with
        outstanding := some { offered := { frame := .ask, owner := .probe }, sends := 1, phase := .awaitingSend } })
        idle quiet rfl rfl
      rw [exec_probe_due due down, if_pos none, offer_empty _ none, sent]
    · rw [exec_probe_due due down, if_neg some]
    · have quiet : s.probeEvent p = s := if_neg fun k => by
        rcases h with h | h
        · rw [h] at k
          exact Bool.false_ne_true k.1
        · exact h k.2
      show Host.Outcome.next (closeEvent s (s.probeEvent p)) = _
      rw [quiet, closeEvent_self]
  · intro x next noAnswerDue sent
    have busy (h : noAnswerDue) : x.transmitter.sending ≠ .idle := by
      rcases h with ⟨k, h⟩ | ⟨f, h⟩ <;> rw [h] <;> exact Sending.noConfusion
    refine ⟨fun idle => ?_, fun o sending ho => ?_, fun o free quiet ho phase => ?_, fun free quiet none => ?_,
      fun r rest free replies => ?_⟩
    · have same : portSent s.ctl.clock (s.portConfig p).responseTimeout (s.port p) = s.port p := by
        unfold portSent
        rw [show (s.port p).transmitter.sending = _ from idle]
      rw [exec_frameSent, same, s.setPort_self]
    · rw [exec_frameSent, portSent_sending (by rw [show (s.port p).transmitter.sending = _ from sending]; exact Sending.noConfusion),
        frameDone_outstanding sending ho, chooseNext_awaiting rfl rfl rfl]
      rfl
    · rw [exec_frameSent, portSent_sending (busy free), frameDone_unawaited free,
        chooseNext_send (t := { x.transmitter with sending := .idle }) rfl quiet ho phase]
    · rw [exec_frameSent, portSent_sending (busy free), frameDone_unawaited free,
        chooseNext_none (t := { x.transmitter with sending := .idle }) quiet none]
    · rw [exec_frameSent, portSent_sending (busy free), frameDone_unawaited free,
        chooseNext_reply (t := { x.transmitter with sending := .idle }) rfl replies]
  · intro y
    refine ⟨rfl, fun h => cutFrame_idle p h, fun h => ?_, rfl⟩
    obtain ⟨_, c, hc, character⟩ := cutFrame_sending p h
    exact ⟨c, hc, character, (giveUpFrames_output p x).trans (by rw [character]; rfl)⟩
  · exact (PortRecord.level_in h (k := 0) (by omega)).trans (lineBits_start c)
  · rw [Nat.add_assoc]
    exact (PortRecord.level_in h (k := 1 + k) (by omega)).trans (lineBits_data c hk)
  · exact (PortRecord.level_in h (by omega)).trans (lineBits_mark c)
  · exact (PortRecord.level_in h (by omega)).trans (lineBits_stop c)

end Sys2Proof.Machine
end

/-! SUPPORT. The finish of a job: the words it writes, the counts it raises, and the loans it gives back (R77, R141,
R182 to R186). -/
section
namespace Sys2Proof.Machine

/-! ### Where the entries lie (R195 to R200) -/

theorem slotAddress_bounds (g : Slot) : 0x2000 ≤ slotAddress g ∧ slotAddress g + 64 ≤ 0x4000 := by
  have := g.isLt
  unfold slotAddress
  omega

theorem stationAddress_bounds (st : Station) : 0x0380 ≤ stationAddress st ∧ stationAddress st + 32 ≤ 0x0780 := by
  have := st.isLt
  unfold stationAddress
  omega

theorem poolAddress_bounds (q : Pool) : 0x0280 ≤ poolAddress q ∧ poolAddress q + 32 ≤ 0x0380 := by
  have := q.isLt
  unfold poolAddress
  omega

theorem portAddress_bounds (p : Port) : 0x0100 ≤ portAddress p ∧ portAddress p + 32 ≤ 0x0280 := by
  have := p.isLt
  unfold portAddress
  omega

theorem mailboxAddress_bounds (st : Station) (r : Fin 4) :
    0x0D80 ≤ mailboxAddress st r ∧ mailboxAddress st r + 16 ≤ 0x1580 := by
  have := st.isLt
  have := r.isLt
  unfold mailboxAddress
  omega

theorem slotAddress_apart {g h : Slot} (e : h ≠ g) : slotAddress h + 64 ≤ slotAddress g ∨ slotAddress g + 64 ≤ slotAddress h := by
  have : h.val ≠ g.val := fun k => e (Fin.ext k)
  unfold slotAddress
  omega

theorem exchangeBytes_eq : Config.exchangeBytes = 131072 := rfl

/-! ### Words after a write -/

section
variable {s : State}

theorem State.word_putWord (w : Memory.wf s.mem = true) {a : Nat} (ha : a + 3 < 131072) (v : Word) :
    (s.putWord a v).word a = v := readWord_writeWord w ha v

theorem State.word_putWord_ne (w : Memory.wf s.mem = true) {a x : Nat} (h : x + 4 ≤ a ∨ a + 4 ≤ x) (v : Word) :
    (s.putWord a v).word x = s.word x := readWord_writeWord_ne w h v

theorem State.putWord_wf (w : Memory.wf s.mem = true) (a : Nat) (v : Word) : Memory.wf (s.putWord a v).mem = true :=
  Memory.wf_writeWord w a v

end

/-! ### The fields of a result word (R199) -/

/-- A field inside the lowest placed one. -/
theorem field_place_zero (v : Nat) {n low k : Nat} (hn : n ≤ 32) (h : low + k ≤ n) :
    field (place v 0 n) low k = v / 2 ^ low % 2 ^ k := by
  unfold field place
  rw [BitVec.extractLsb'_toNat, BitVec.shiftLeft_zero, BitVec.toNat_setWidth, BitVec.toNat_ofNat, Nat.shiftRight_eq_div_pow,
    Nat.mod_eq_of_lt (a := v % 2 ^ n) (lt_of_lt_of_le (Nat.mod_lt _ (by positivity)) (Nat.pow_le_pow_right (by omega) hn))]
  obtain ⟨d, rfl⟩ : ∃ d, n = low + d := ⟨n - low, by omega⟩
  rw [Nat.pow_add, Nat.mod_mul_right_div_self]
  exact Nat.mod_mod_of_dvd _ (Nat.pow_dvd_pow 2 (by omega))

theorem outcomeCode_lt (o : JobOutcome) : outcomeCode o < 256 := by cases o <;> decide

theorem detailCode_lt (d : Detail) : detailCode d < 256 := by cases d <;> decide

theorem clampBits_lt (c : ClampFlags) : clampBits c < 32 := by
  unfold clampBits
  have := c.urgency.toNat_le
  have := c.copies.toNat_le
  have := c.resolution.toNat_le
  have := c.maxBytes.toNat_le
  have := c.duration.toNat_le
  omega

theorem validityBits_lt (v : Validity) : validityBits v < 128 := by
  unfold validityBits
  have := v.accept.toNat_le
  have := v.firstGrant.toNat_le
  have := v.port.toNat_le
  have := v.sheets.toNat_le
  have := v.scanStore.toNat_le
  have := v.scanReport.toNat_le
  have := v.contacts.toNat_le
  omega

section
variable (o : JobOutcome) (d : Detail) {clamps : Nat} (v : Validity)

theorem resultWord_outcome (n : Nat) : field (resultWord n clamps v) 0 8 = n % 256 := by
  unfold resultWord
  rw [field_or_left (field_place_apart _ (by omega)), field_or_left (field_place_apart _ (by omega)),
    field_place_zero _ (by omega) (by omega), Nat.pow_zero, Nat.div_one]
  rfl

theorem resultWord_detail (n : Nat) : field (resultWord n clamps v) 8 8 = n / 256 % 256 := by
  unfold resultWord
  rw [field_or_left (field_place_apart _ (by omega)), field_or_left (field_place_apart _ (by omega)),
    field_place_zero _ (by omega) (by omega)]
  rfl

theorem resultWord_clamps (n : Nat) (h : clamps < 32) : field (resultWord n clamps v) 16 5 = clamps := by
  unfold resultWord
  rw [field_or_left (field_place_apart _ (by omega)), field_or_right (field_place_apart _ (by omega)),
    field_place_same _ (by omega)]
  exact Nat.mod_eq_of_lt h

theorem resultWord_validity (n : Nat) : field (resultWord n clamps v) 24 7 = validityBits v := by
  unfold resultWord
  rw [field_or_right (by rw [field_or_left (field_place_apart _ (by omega)), field_place_apart _ (by omega)]),
    field_place_same _ (by omega)]
  exact Nat.mod_eq_of_lt (validityBits_lt v)

theorem outcomePair_codes : outcomePair o d % 256 = outcomeCode o ∧ outcomePair o d / 256 % 256 = detailCode d := by
  have := outcomeCode_lt o
  have := detailCode_lt d
  unfold outcomePair
  omega

end

/-! ### The result writer (R183, R199) -/

section
variable {s : State} {g : Slot} {word firstGrant portWord : Word} {cls : Option JobClass} {r : ClassResults}

/-- The words of the stage that every class has. -/
theorem State.writeResults_words (w : Memory.wf s.mem = true) :
    let t := s.writeResults g word firstGrant portWord cls r
    t.word (slotAddress g + 0x18) = word ∧ t.word (slotAddress g + 0x20) = firstGrant ∧
    t.word (slotAddress g + 0x24) = portWord ∧ (cls ≠ none → t.word (slotAddress g + 0x28) = r.count) ∧
    (cls = some .scan → t.word (slotAddress g + 0x2C) = r.chain ∧ t.word (slotAddress g + 0x30) = r.reported) := by
  have hg := slotAddress_bounds g
  have w1 := State.putWord_wf w (slotAddress g + 0x18) word
  have w2 := State.putWord_wf w1 (slotAddress g + 0x20) firstGrant
  have w3 := State.putWord_wf w2 (slotAddress g + 0x24) portWord
  have w4 := State.putWord_wf w3 (slotAddress g + 0x28) r.count
  have w5 := State.putWord_wf w4 (slotAddress g + 0x2C) r.chain
  have c18 : (((s.putWord (slotAddress g + 0x18) word).putWord (slotAddress g + 0x20) firstGrant).putWord
      (slotAddress g + 0x24) portWord).word (slotAddress g + 0x18) = word := by
    rw [State.word_putWord_ne w2 (by omega), State.word_putWord_ne w1 (by omega), State.word_putWord w (by omega)]
  have c20 : (((s.putWord (slotAddress g + 0x18) word).putWord (slotAddress g + 0x20) firstGrant).putWord
      (slotAddress g + 0x24) portWord).word (slotAddress g + 0x20) = firstGrant := by
    rw [State.word_putWord_ne w2 (by omega), State.word_putWord w1 (by omega)]
  have c24 : (((s.putWord (slotAddress g + 0x18) word).putWord (slotAddress g + 0x20) firstGrant).putWord
      (slotAddress g + 0x24) portWord).word (slotAddress g + 0x24) = portWord := State.word_putWord w2 (by omega) _
  have up {x : Nat} (hx : x ≤ 0x24) (t : State) (wt : Memory.wf t.mem = true) {a : Nat} (ha : 0x28 ≤ a) (v : Word) :
      (t.putWord (slotAddress g + a) v).word (slotAddress g + x) = t.word (slotAddress g + x) :=
    State.word_putWord_ne wt (by omega) v
  unfold State.writeResults
  match cls with
  | none => exact ⟨c18, c20, c24, nofun, nofun⟩
  | some .print | some .hold =>
    exact ⟨(up (by omega) _ w3 (by omega) _).trans c18, (up (by omega) _ w3 (by omega) _).trans c20,
      (up (by omega) _ w3 (by omega) _).trans c24, fun _ => State.word_putWord w3 (by omega) _, nofun⟩
  | some .scan =>
    have past {x : Nat} (hx : x ≤ 0x24) := ((up hx _ w5 (a := 0x30) (by omega) r.reported).trans
      (up hx _ w4 (a := 0x2C) (by omega) r.chain)).trans (up hx _ w3 (a := 0x28) (by omega) r.count)
    refine ⟨(past (by omega)).trans c18, (past (by omega)).trans c20, (past (by omega)).trans c24, fun _ => ?_, fun _ =>
      ⟨?_, State.word_putWord w5 (by omega) _⟩⟩
    · exact ((State.word_putWord_ne w5 (by omega) _).trans (State.word_putWord_ne w4 (by omega) _)).trans
        (State.word_putWord w3 (by omega) _)
    · exact (State.word_putWord_ne w5 (by omega) _).trans (State.word_putWord w4 (by omega) _)

end

/-! ### What every finish shares (R182) -/

theorem State.updateCounters_word {s : State} (w : Memory.wf s.mem = true) (st : Station) (k : CounterPair)
    (f : StationCounters → StationCounters) :
    (s.updateCounters st k f).word (stationAddress st + k.offset) = k.word (f (s.counters st)) := by
  have hs := stationAddress_bounds st
  exact State.word_putWord (s := s.setCounters st (f (s.counters st))) w (by cases k <;> simp only [CounterPair.offset] <;> omega) _

theorem tallyWord_fields {c : StationCounters} (h : c.inRange) :
    field (tallyWord c) 0 16 = c.handoverFaults ∧ field (tallyWord c) 16 16 = c.jobsFinished := by
  unfold tallyWord
  rw [field_or_left (field_place_apart _ (by omega)), field_place_same _ (by omega),
    field_or_right (field_place_apart _ (by omega)), field_place_same _ (by omega)]
  exact ⟨Nat.mod_eq_of_lt (Nat.lt_succ_of_le h.handoverFaults), Nat.mod_eq_of_lt (Nat.lt_succ_of_le h.jobsFinished)⟩

theorem scoreWord_fields {c : StationCounters} (h : c.inRange) :
    field (scoreWord c) 0 16 = c.usage ∧ field (scoreWord c) 16 16 = c.overflow := by
  unfold scoreWord
  rw [field_or_left (field_place_apart _ (by omega)), field_place_same _ (by omega),
    field_or_right (field_place_apart _ (by omega)), field_place_same _ (by omega)]
  exact ⟨Nat.mod_eq_of_lt (Nat.lt_succ_of_le h.usage), Nat.mod_eq_of_lt (Nat.lt_succ_of_le h.overflow)⟩

/-- Where the mirror word shows counts in range, it shows them field by field. -/
theorem State.talliesShown_of {t : State} {st : Station} (range : (t.counters st).inRange)
    (h : t.word (stationAddress st + 0x08) = tallyWord (t.counters st)) : t.talliesShown st := by
  unfold State.talliesShown
  rw [h]
  exact tallyWord_fields range

theorem State.scoresShown_of {t : State} {st : Station} (range : (t.counters st).inRange)
    (h : t.word (stationAddress st + 0x0C) = scoreWord (t.counters st)) : t.scoresShown st := by
  unfold State.scoresShown
  rw [h]
  exact scoreWord_fields range

section
variable (s : State) (g : Slot) (o : JobOutcome) (d : Detail)

theorem State.closeFinish_slots : (s.closeFinish g o d).slots =
    s.slots.set g.val { s.slot g with state := .finished, codes := { outcome := o, detail := d } } := by
  show (s.slots.set g.val _).set g.val _ = _
  rw [Vector.set_set]
  congr 1
  show { (State.setCodes s g o d).slot g with state := SlotState.finished } = _
  rw [State.setCodes, State.slot_setSlot]

theorem State.closeFinish_slot : (s.closeFinish g o d).slot g =
    { s.slot g with state := .finished, codes := { outcome := o, detail := d } } := by
  unfold State.slot
  rw [State.closeFinish_slots]
  exact Vector.getElem_set_self _

theorem State.closeFinish_slot_ne {h : Slot} (e : h ≠ g) : (s.closeFinish g o d).slot h = s.slot h := by
  unfold State.slot
  rw [State.closeFinish_slots]
  exact Vector.getElem_set_ne _ _ fun k => e (Fin.ext k.symm)

theorem State.closeFinish_stations : (s.closeFinish g o d).stations = s.stations.set (stationOf g).val
    { s.counters (stationOf g) with jobsFinished := min 65535 ((s.counters (stationOf g)).jobsFinished + 1) } := rfl

theorem State.closeFinish_counters : (s.closeFinish g o d).counters (stationOf g) =
    { s.counters (stationOf g) with jobsFinished := min 65535 ((s.counters (stationOf g)).jobsFinished + 1) } := by
  unfold State.counters
  rw [State.closeFinish_stations]
  exact Vector.getElem_set_self _

theorem State.closeFinish_counters_ne {st : Station} (e : st ≠ stationOf g) :
    (s.closeFinish g o d).counters st = s.counters st := by
  unfold State.counters
  rw [State.closeFinish_stations]
  exact Vector.getElem_set_ne _ _ fun k => e (Fin.ext k.symm)

theorem State.closeFinish_stationNotice :
    (s.closeFinish g o d).stationNotice = s.stationNotice ||| stationMask (stationOf g) := rfl

theorem State.closeFinish_mem : (s.closeFinish g o d).mem =
    writeWord (writeWord s.mem (slotAddress g) 4) (stationAddress (stationOf g) + 0x08)
      (tallyWord { s.counters (stationOf g) with jobsFinished := min 65535 ((s.counters (stationOf g)).jobsFinished + 1) }) :=
  rfl

variable {s g o d}

/-- The owner field of a finished slot (R182, R199). -/
theorem State.closeFinish_owner (w : Memory.wf s.mem = true) : (s.closeFinish g o d).word (slotAddress g) = 4 := by
  have hg := slotAddress_bounds g
  have hs := stationAddress_bounds (stationOf g)
  unfold State.word
  rw [State.closeFinish_mem, readWord_writeWord_ne (Memory.wf_writeWord w _ _) (by omega),
    readWord_writeWord w (by rw [exchangeBytes_eq]; omega)]

/-- A finish leaves the words of its slot but the owner field. -/
theorem State.closeFinish_word (w : Memory.wf s.mem = true) {x : Nat} (hx : 4 ≤ x ∧ x ≤ 60) :
    (s.closeFinish g o d).word (slotAddress g + x) = s.word (slotAddress g + x) := by
  have hg := slotAddress_bounds g
  have hs := stationAddress_bounds (stationOf g)
  unfold State.word
  rw [State.closeFinish_mem, readWord_writeWord_ne (Memory.wf_writeWord w _ _) (by omega), readWord_writeWord_ne w (by omega)]

theorem State.closeFinish_tally (w : Memory.wf s.mem = true) : (s.closeFinish g o d).word (stationAddress (stationOf g) + 0x08) =
    tallyWord ((s.closeFinish g o d).counters (stationOf g)) := by
  have hs := stationAddress_bounds (stationOf g)
  unfold State.word
  rw [State.closeFinish_counters, State.closeFinish_mem,
    readWord_writeWord (Memory.wf_writeWord w _ _) (by rw [exchangeBytes_eq]; omega)]

theorem stationMask_and (n : Word) (st : Station) : (n ||| stationMask st) &&& stationMask st = stationMask st := by
  ext i hi
  simp only [BitVec.getElem_and, BitVec.getElem_or]
  cases (stationMask st)[i] <;> simp

/-- A finish gives the slot its result, where stage 1 has written both codes. -/
theorem State.closeFinish_hasResult (w : Memory.wf s.mem = true) {clamps : Nat} {v : Validity}
    (h : s.word (slotAddress g + 0x18) = resultWord (outcomePair o d) clamps v) : (s.closeFinish g o d).hasResult g o d := by
  obtain ⟨outcome, detail⟩ := outcomePair_codes o d
  refine ⟨by rw [State.closeFinish_slot], by rw [State.closeFinish_slot], State.closeFinish_owner w, ?_, ?_,
    stationMask_and s.stationNotice (stationOf g)⟩
  · rw [State.closeFinish_word w (by omega), h, resultWord_outcome, outcome]
  · rw [State.closeFinish_word w (by omega), h, resultWord_detail, detail]

/-- A result stands while nothing of it is written again. -/
theorem State.hasResult.congr {t u : State} (h : t.hasResult g o d) (slot : u.slot g = t.slot g)
    (owner : u.word (slotAddress g) = t.word (slotAddress g))
    (result : u.word (slotAddress g + 0x18) = t.word (slotAddress g + 0x18))
    (notice : t.stationNotice ||| u.stationNotice = u.stationNotice) : u.hasResult g o d := by
  obtain ⟨state, codes, own, outcome, detail, bit⟩ := h
  refine ⟨slot ▸ state, slot ▸ codes, owner.trans own, result ▸ outcome, result ▸ detail, ?_⟩
  have keep : u.stationNotice &&& stationMask (stationOf g) = (t.stationNotice ||| u.stationNotice) &&& stationMask (stationOf g) := by
    rw [notice]
  rw [keep]
  ext i hi
  have at_i := congrArg (·[i]) bit
  simp only [BitVec.getElem_and, BitVec.getElem_or] at at_i ⊢
  revert at_i
  cases t.stationNotice[i] <;> cases (stationMask (stationOf g))[i] <;> simp

end

end Sys2Proof.Machine
end

/-! SUPPORT. The finish step of an accepted job as a whole (R77, R141, R182 to R186). -/
section
namespace Sys2Proof.Machine

/-! ### Loans given back (R141) -/

theorem State.mark_outside_of_range {s : State} {b : Nat} (h : ¬ (1 ≤ b ∧ b ≤ 896)) : s.mark b = .outside := dif_neg h

theorem State.mark_range {s : State} {b : Nat} (h : s.mark b ≠ .outside) : 1 ≤ b ∧ b ≤ 896 := by
  by_contra k
  exact h (State.mark_outside_of_range k)

theorem State.unlend_mark_ne (s : State) {b c : Nat} (h : c ≠ b) : (s.unlend b).mark c = s.mark c := by
  unfold State.unlend
  split
  · exact s.mark_setMark_ne h _
  all_goals rfl

theorem State.unlend_mark_loaned {s : State} {b n : Nat} (h : s.mark b = .loaned n) :
    (s.unlend b).mark b = if n ≤ 1 then .outside else .loaned (n - 1) := by
  have range := s.mark_range (b := b) (by rw [h]; exact BlockMark.noConfusion)
  unfold State.unlend
  rw [h]
  exact s.mark_setMark range _

theorem State.unlend_mark_other {s : State} {b : Nat} (h : ∀ n, s.mark b ≠ .loaned n) (c : Nat) : (s.unlend c).mark b = s.mark b := by
  by_cases e : b = c
  · subst e
    unfold State.unlend
    split
    next n k => exact absurd k (h n)
    all_goals rfl
  · exact s.unlend_mark_ne e

/-- A block that is not LOANED keeps its mark when loans are given back. -/
theorem State.unlendAll_mark_other (chain : List ChainEntry) {s : State} {b : Nat} (h : ∀ n, s.mark b ≠ .loaned n) :
    (s.unlendAll chain).mark b = s.mark b := by
  unfold State.unlendAll
  induction chain generalizing s with
  | nil => rfl
  | cons e rest ih =>
    have same := State.unlend_mark_other h e.block
    rw [List.foldl_cons, ih (by rw [same]; exact h), same]

/-- A block gives back one loan for each entry that names it. -/
theorem State.unlendAll_mark_loaned (chain : List ChainEntry) {s : State} {b n : Nat} (h : s.mark b = .loaned n) (one : 1 ≤ n)
    (le : (chain.map ChainEntry.block).count b ≤ n) : (s.unlendAll chain).mark b =
      if n = (chain.map ChainEntry.block).count b then .outside else .loaned (n - (chain.map ChainEntry.block).count b) := by
  induction chain generalizing s n with
  | nil =>
    rw [List.map_nil, List.count_nil, if_neg (by omega), Nat.sub_zero]
    exact h
  | cons e rest ih =>
    show ((s.unlend e.block).unlendAll rest).mark b = _
    by_cases same : e.block = b
    · subst same
      rw [List.map_cons, List.count_cons_self] at le ⊢
      have after := State.unlend_mark_loaned h
      by_cases last : n ≤ 1
      · rw [if_pos last] at after
        rw [State.unlendAll_mark_other _ (by rw [after]; exact fun _ => BlockMark.noConfusion), after, if_pos (by omega)]
      · rw [if_neg last] at after
        rw [ih after (by omega) (by omega)]
        congr 1
        · rw [eq_iff_iff]; omega
        · congr 1; omega
    · have other : (rest.map ChainEntry.block).count b = ((e :: rest).map ChainEntry.block).count b := by
        rw [List.map_cons, List.count_cons_of_ne same]
      rw [← other] at le ⊢
      exact ih ((s.unlend_mark_ne (Ne.symm same)).trans h) one le

/-! ### The stages together -/

section
variable {s : State} {g : Slot} {o : JobOutcome} {d : Detail} {reported : Option Word}

/-- What the loans of a print do not touch, a finish leaves as its charge leaves it. -/
theorem State.finish_view {β : Type} (view : State → β) (h : ∀ t l, view (State.unlendAll t l) = view t) :
    view (s.finish g o d reported) = view (if (s.slot g).state = .serving then
      ((s.writeJobResults g o d reported).closeFinish g o d).chargeService g
      else (s.writeJobResults g o d reported).closeFinish g o d) := by
  unfold State.finish
  dsimp only
  split
  · exact h _ _
  · rfl

theorem State.chargeService_stations (s : State) (g : Slot) : (s.chargeService g).stations = s.stations.set (stationOf g).val
    { s.counters (stationOf g) with usage := min 65535 ((s.counters (stationOf g)).usage + s.busyTime g / 100) } := rfl

theorem State.chargeService_mem (s : State) (g : Slot) : (s.chargeService g).mem =
    writeWord s.mem (stationAddress (stationOf g) + 0x0C)
      (scoreWord { s.counters (stationOf g) with
        usage := min 65535 ((s.counters (stationOf g)).usage + s.busyTime g / 100) }) := rfl

theorem State.chargeService_counters (s : State) (g : Slot) : (s.chargeService g).counters (stationOf g) =
    { s.counters (stationOf g) with usage := min 65535 ((s.counters (stationOf g)).usage + s.busyTime g / 100) } := by
  unfold State.chargeService State.charge
  rw [State.counters_updateCounters]
  rfl

theorem State.chargeService_counters_ne (s : State) {g : Slot} {st : Station} (e : st ≠ stationOf g) :
    (s.chargeService g).counters st = s.counters st := by
  unfold State.chargeService State.charge
  exact s.counters_updateCounters_ne e _ _

theorem State.chargeService_writes (s : State) (g : Slot) :
    Writes (stationMirrors (stationOf g)) s.mem (s.chargeService g).mem := by
  unfold State.chargeService State.charge
  exact s.updateCounters_writes _ _ _

theorem State.unlendAll_counters (s : State) (l : List ChainEntry) (st : Station) :
    (s.unlendAll l).counters st = s.counters st := by
  unfold State.counters
  simp only [State.unlendAll_stations]

theorem State.writeJobResults_counters (s : State) (g : Slot) (o : JobOutcome) (d : Detail) (reported : Option Word)
    (st : Station) : (s.writeJobResults g o d reported).counters st = s.counters st := by
  unfold State.counters
  simp only [State.writeJobResults_stations]

theorem State.writeJobResults_writes (s : State) (g : Slot) (o : JobOutcome) (d : Detail) (reported : Option Word) :
    Writes (finishBytes g) s.mem (s.writeJobResults g o d reported).mem := by
  unfold State.writeJobResults
  exact s.writeResults_writes g _ _ _ _ _

theorem State.finish_slots : (s.finish g o d reported).slots =
    s.slots.set g.val { s.slot g with state := .finished, codes := { outcome := o, detail := d } } := by
  rw [State.finish_view State.slots fun _ _ => State.unlendAll_slots _ _]
  have closed : ((s.writeJobResults g o d reported).closeFinish g o d).slots =
      s.slots.set g.val { s.slot g with state := .finished, codes := { outcome := o, detail := d } } := by
    rw [State.closeFinish_slots]
    unfold State.slot
    rw [State.writeJobResults_slots]
  split
  · rw [State.chargeService_slots, closed]
  · exact closed

theorem State.finish_slot : (s.finish g o d reported).slot g =
    { s.slot g with state := .finished, codes := { outcome := o, detail := d } } := by
  unfold State.slot
  rw [State.finish_slots]
  exact Vector.getElem_set_self _

theorem State.finish_job : (s.finish g o d reported).job g = s.job g := by
  unfold State.job
  rw [State.finish_slot]

theorem State.finish_slot_ne {h : Slot} (e : h ≠ g) : (s.finish g o d reported).slot h = s.slot h := by
  unfold State.slot
  rw [State.finish_slots]
  exact Vector.getElem_set_ne _ _ fun k => e (Fin.ext k.symm)

theorem State.finish_slotsKept : s.slotsKept (s.finish g o d reported) [g] := fun _ h =>
  State.finish_slot_ne fun e => h (List.mem_singleton.mpr e)

theorem State.unlend_marks_congr {s t : State} (h : t.marks = s.marks) (b : Nat) : (t.unlend b).marks = (s.unlend b).marks := by
  have mark : t.mark b = s.mark b := by unfold State.mark; rw [h]
  unfold State.unlend State.setMark
  rw [mark]
  split
  · split
    · exact congrArg (fun v : Vector BlockMark 896 => v.set (b - 1) _) h
    · exact h
  all_goals exact h

theorem State.unlendAll_marks_congr (chain : List ChainEntry) {s t : State} (h : t.marks = s.marks) :
    (t.unlendAll chain).marks = (s.unlendAll chain).marks := by
  unfold State.unlendAll
  induction chain generalizing s t with
  | nil => exact h
  | cons e rest ih => exact ih (State.unlend_marks_congr h e.block)

/-- A finish leaves the marks but for the loans of a print. -/
theorem State.finish_marks (h : (s.job g).cls ≠ some .print) : (s.finish g o d reported).marks = s.marks := by
  unfold State.finish
  dsimp only
  split
  next k => exact absurd k h
  next =>
    split
    · exact State.writeResults_marks s g _ _ _ _ _
    · exact State.writeResults_marks s g _ _ _ _ _

theorem State.finish_marks_print (h : (s.job g).cls = some .print) (b : Nat) :
    (s.finish g o d reported).mark b = (s.unlendAll (s.job g).chain).mark b := by
  have marks : (s.finish g o d reported).marks = (s.unlendAll (s.job g).chain).marks := by
    unfold State.finish
    dsimp only
    rw [h]
    refine State.unlendAll_marks_congr _ ?_
    split <;> exact State.writeResults_marks s g _ _ _ _ _
  unfold State.mark
  rw [marks]

theorem State.finish_stationNotice :
    (s.finish g o d reported).stationNotice = s.stationNotice ||| stationMask (stationOf g) := by
  rw [State.finish_view State.stationNotice fun _ _ => State.unlendAll_stationNotice _ _]
  have closed : ((s.writeJobResults g o d reported).closeFinish g o d).stationNotice =
      s.stationNotice ||| stationMask (stationOf g) := by
    rw [State.closeFinish_stationNotice]
    exact congrArg (· ||| _) (State.writeResults_stationNotice _ _ _ _ _ _ _)
  split <;> exact closed

/-- The counters of the finished slot's station (R77, R182). -/
theorem State.finish_counters : (s.finish g o d reported).counters (stationOf g) = { s.counters (stationOf g) with
    jobsFinished := min 65535 ((s.counters (stationOf g)).jobsFinished + 1)
    usage := if (s.slot g).state = .serving then min 65535 ((s.counters (stationOf g)).usage + s.busyTime g / 100)
      else (s.counters (stationOf g)).usage } := by
  have closed : ((s.writeJobResults g o d reported).closeFinish g o d).counters (stationOf g) = { s.counters (stationOf g) with
      jobsFinished := min 65535 ((s.counters (stationOf g)).jobsFinished + 1) } := by
    rw [State.closeFinish_counters, State.writeJobResults_counters]
  have busy : ((s.writeJobResults g o d reported).closeFinish g o d).busyTime g = s.busyTime g := by
    unfold State.busyTime State.job
    rw [State.closeFinish_slot, State.closeFinish_ctl, State.writeJobResults, State.writeResults_ctl]
    unfold State.slot
    rw [State.writeResults_slots]
  rw [State.finish_view (fun t => t.counters (stationOf g)) fun t l => t.unlendAll_counters l _]
  split
  · rw [State.chargeService_counters, closed, busy]
  · exact closed

theorem State.finish_counters_ne {st : Station} (e : st ≠ stationOf g) :
    (s.finish g o d reported).counters st = s.counters st := by
  have closed : ((s.writeJobResults g o d reported).closeFinish g o d).counters st = s.counters st := by
    rw [State.closeFinish_counters_ne _ _ _ _ e, State.writeJobResults_counters]
  rw [State.finish_view (fun t => t.counters st) fun t l => t.unlendAll_counters l _]
  split
  · rw [State.chargeService_counters_ne _ e, closed]
  · exact closed

theorem State.finish_stationsKept : s.stationsKept (s.finish g o d reported) [stationOf g] := fun _ h =>
  State.finish_counters_ne fun e => h (List.mem_singleton.mpr e)

/-! ### The words of a finish -/

theorem State.writeJobResults_wf (w : Memory.wf s.mem = true) : Memory.wf (s.writeJobResults g o d reported).mem = true :=
  (s.writeJobResults_writes g o d reported).wf w

theorem State.closedResults_wf (w : Memory.wf s.mem = true) :
    Memory.wf ((s.writeJobResults g o d reported).closeFinish g o d).mem = true :=
  (State.closeFinish_writes _ g o d).wf (State.writeJobResults_wf w)

/-- A finish writes the slot's results and its station's mirrors. -/
theorem State.finish_writes : Writes (fun a => finishBytes g a ∨ stationMirrors (stationOf g) a) s.mem
    (s.finish g o d reported).mem := by
  have closed : Writes (fun a => finishBytes g a ∨ stationMirrors (stationOf g) a) s.mem
      ((s.writeJobResults g o d reported).closeFinish g o d).mem :=
    ((s.writeJobResults_writes g o d reported).mono fun _ => .inl).trans
      ((State.closeFinish_writes _ g o d).mono fun _ h => h.imp (.inl ·) id)
  rw [State.finish_view State.mem fun _ _ => State.unlendAll_mem _ _]
  split
  · exact closed.trans ((State.chargeService_writes _ g).mono fun _ => .inr)
  · exact closed

/-- The words that a finish has written below the score are those of its close. -/
theorem State.finish_word (w : Memory.wf s.mem = true) {a : Nat}
    (h : a + 4 ≤ stationAddress (stationOf g) + 0x0C ∨ stationAddress (stationOf g) + 0x10 ≤ a) :
    (s.finish g o d reported).word a = ((s.writeJobResults g o d reported).closeFinish g o d).word a := by
  unfold State.word
  rw [State.finish_view State.mem fun _ _ => State.unlendAll_mem _ _]
  split
  · rw [State.chargeService_mem, readWord_writeWord_ne (State.closedResults_wf w) (by omega)]
  · rfl

theorem State.finish_slotWord (w : Memory.wf s.mem = true) {x : Nat} (hx : 4 ≤ x ∧ x ≤ 60) :
    (s.finish g o d reported).word (slotAddress g + x) = (s.writeJobResults g o d reported).word (slotAddress g + x) := by
  have hg := slotAddress_bounds g
  have hs := stationAddress_bounds (stationOf g)
  rw [State.finish_word w (by omega), State.closeFinish_word (State.writeJobResults_wf w) hx]

theorem State.finish_hasResult (w : Memory.wf s.mem = true) : (s.finish g o d reported).hasResult g o d := by
  have hg := slotAddress_bounds g
  have hs := stationAddress_bounds (stationOf g)
  have closed := State.closeFinish_hasResult (State.writeJobResults_wf (g := g) (o := o) (d := d) (reported := reported) w)
    (State.writeResults_words w).1
  refine closed.congr ?_ (State.finish_word w (by omega)) (State.finish_word w (by omega)) ?_
  · rw [State.finish_slot, State.closeFinish_slot]
    unfold State.slot
    rw [State.writeJobResults_slots]
  · rw [State.finish_view State.stationNotice fun _ _ => State.unlendAll_stationNotice _ _]
    split <;> exact BitVec.or_self

theorem State.finish_talliesShown (wf : s.wellFormed) : (s.finish g o d reported).talliesShown (stationOf g) := by
  have w := wf.memory
  have hs := stationAddress_bounds (stationOf g)
  have range := ((s.finish_kept g o d reported).data wf).counters (stationOf g)
  have shown := State.closeFinish_tally (g := g) (o := o) (d := d) (State.writeJobResults_wf (g := g) (o := o) (d := d) (reported := reported) w)
  refine State.talliesShown_of range ?_
  rw [State.finish_word w (by omega), shown, State.finish_counters, State.closeFinish_counters, State.writeJobResults_counters]
  rfl

theorem State.finish_scoresShown (wf : s.wellFormed) (h : (s.slot g).state = .serving) :
    (s.finish g o d reported).scoresShown (stationOf g) := by
  have w := wf.memory
  have hs := stationAddress_bounds (stationOf g)
  have range := ((s.finish_kept g o d reported).data wf).counters (stationOf g)
  refine State.scoresShown_of range ?_
  have mem := State.finish_view (s := s) (g := g) (o := o) (d := d) (reported := reported) State.mem
    fun _ _ => State.unlendAll_mem _ _
  have counters := State.finish_view (s := s) (g := g) (o := o) (d := d) (reported := reported)
    (fun t => t.counters (stationOf g)) fun t l => t.unlendAll_counters l _
  rw [if_pos h] at mem counters
  rw [counters, State.chargeService_counters]
  unfold State.word
  rw [mem, State.chargeService_mem, readWord_writeWord (State.closedResults_wf w) (by rw [exchangeBytes_eq]; omega)]

end

/-! ### The words of the results -/

/-- The port's byte of the port word: the port of the last service, 0 before the first grant. -/
theorem portWord_split (j : JobRecord) : ∃ w, portWord j = w ||| place j.interruptions 8 8 ||| place j.faults 16 8 ∧
    (∀ low, 8 ≤ low → field w low 8 = 0) ∧
    field w 0 8 = (if j.firstGrant.isSome = true then (match j.port with | some p => p.val | none => 0) else 0) := by
  have zero (low : Nat) : field 0 low 8 = 0 := by
    unfold field
    simp
  refine ⟨_, rfl, fun low h => ?_, ?_⟩
  · split
    · exact field_place_apart _ (by omega)
    · exact zero low
  · split
    next p h1 h2 =>
      rw [h1, h2, field_place_same _ (by omega)]
      exact Nat.mod_eq_of_lt (by have := p.isLt; omega)
    next k =>
      rw [zero]
      cases h1 : j.firstGrant with
      | none => rfl
      | some x =>
        cases h2 : j.port with
        | none => rfl
        | some p => exact absurd h2 (k x p h1)

theorem portWord_fields {j : JobRecord} (h : j.inRange) : field (portWord j) 0 8 =
      (if j.firstGrant.isSome = true then (match j.port with | some p => p.val | none => 0) else 0) ∧
    field (portWord j) 8 8 = j.interruptions ∧ field (portWord j) 16 8 = j.faults := by
  have interruptions := h.interruptions
  have faults := h.faults
  obtain ⟨w, split, high, low⟩ := portWord_split j
  rw [split]
  refine ⟨?_, ?_, ?_⟩
  · rw [field_or_left (field_place_apart _ (by omega)), field_or_left (field_place_apart _ (by omega))]
    exact low
  · rw [field_or_left (field_place_apart _ (by omega)), field_or_right (high 8 (by omega)), field_place_same _ (by omega)]
    exact Nat.mod_eq_of_lt (by omega)
  · rw [field_or_right (by rw [field_or_left (field_place_apart _ (by omega)), high 16 (by omega)]),
      field_place_same _ (by omega)]
    exact Nat.mod_eq_of_lt (by omega)

/-- The validity flags of a finish as a number (R184, R199). -/
theorem finishValidity_bits (j : JobRecord) (reported : Option Word) : validityBits (finishValidity j reported) =
    1 + (if j.firstGrant.isSome = true then 6 + (match j.cls with
      | some .print => 8
      | some .scan => 16 + if reported.isSome = true then 32 else 0
      | some .hold => 64
      | none => 0) else 0) := by
  unfold finishValidity validityBits
  cases j.firstGrant.isSome <;> cases j.cls with
  | none => rfl
  | some c => cases c <;> cases reported.isSome <;> rfl

/-- Settles O40: the stages of a finish, each by what it writes. -/
theorem finishWritesTheResults : Obligations.FinishWritesTheResults := by
  unfold Obligations.FinishWritesTheResults
  intro s g o d reported wf j granted t a c
  have w := wf.memory
  obtain ⟨result, first, port, count, scan⟩ := State.writeResults_words (s := s) (g := g)
    (word := resultWord (outcomePair o d) (clampBits j.clamps) (finishValidity j reported)) (firstGrant := j.firstGrant.getD 0)
    (portWord := portWord j) (cls := j.cls) (r := s.classResults g reported) w
  obtain ⟨portField, interruptions, faults⟩ := portWord_fields (wf.job g)
  have word {x : Nat} (hx : 4 ≤ x ∧ x ≤ 60) := State.finish_slotWord (g := g) (o := o) (d := d) (reported := reported) w hx
  have classes : s.classResults g reported = if granted = true then (match j.cls with
      | some .print => { count := BitVec.ofNat 32 j.sheetsDone }
      | some .scan =>
        { count := BitVec.ofNat 32 (s.storedBytes g)
          chain := place (j.resultChain.headD 0) 0 16 ||| place j.resultChain.length 16 16
          reported := reported.getD 0 }
      | some .hold => { count := BitVec.ofNat 32 j.contactsDelivered }
      | none => {}) else {} := rfl
  refine ⟨State.finish_hasResult w, State.finish_job, ?_, ?_, ?_, ?_, ?_, ?_, fun h => ?_, fun h => ?_, fun h => ⟨?_, ?_, ?_⟩,
    State.finish_counters, State.finish_talliesShown wf, State.finish_scoresShown wf, State.finish_marks,
    fun h b n loaned one le => ?_, State.finish_slotsKept, State.finish_stationsKept, State.finish_writes.kept w,
    State.finish_stationNotice, State.finish_ctl _ _ _ _ _, State.finish_notice _ _ _ _ _, State.finish_queues _ _ _ _ _,
    State.finish_deadlines _ _ _ _ _, State.finish_stats _ _ _ _ _, State.finish_ports _ _ _ _ _, State.finish_spare _ _ _ _ _,
    State.finish_mailboxes _ _ _ _ _, State.finish_free _ _ _ _ _, State.finish_pending _ _ _ _ _⟩
  · rw [word (by omega)]
    exact (congrArg (field · 16 5) result).trans (resultWord_clamps _ _ (clampBits_lt _))
  · rw [word (by omega)]
    exact (congrArg (field · 24 7) result).trans ((resultWord_validity _ _).trans (finishValidity_bits j reported))
  · exact (word (by omega)).trans first
  · rw [word (by omega)]
    exact (congrArg (field · 0 8) port).trans portField
  · rw [word (by omega)]
    exact (congrArg (field · 8 8) port).trans interruptions
  · rw [word (by omega)]
    exact (congrArg (field · 16 8) port).trans faults
  · rw [word (by omega)]
    refine (count (by rw [h]; exact Option.some_ne_none _)).trans ?_
    rw [classes, h]
    split <;> rfl
  · rw [word (by omega)]
    refine (count (by rw [h]; exact Option.some_ne_none _)).trans ?_
    rw [classes, h]
    split <;> rfl
  · rw [word (by omega)]
    refine (count (by rw [h]; exact Option.some_ne_none _)).trans ?_
    rw [classes, h]
    split <;> rfl
  · rw [word (by omega)]
    refine (scan h).1.trans ?_
    rw [classes, h]
    split <;> rfl
  · rw [word (by omega)]
    refine (scan h).2.trans ?_
    rw [classes, h]
    split <;> rfl
  · rw [State.finish_marks_print h]
    exact State.unlendAll_mark_loaned _ loaned one le

end Sys2Proof.Machine
end

/-! SUPPORT. The mirrors of the statistics, and the expiry of a job's deadline (R55, R56, R79, R80). -/
section
namespace Sys2Proof.Machine

/-! ### Mirror words that are rewritten (R80, R112, R163) -/

theorem readWord_rewriteWord_changed {m : Memory} (w : Memory.wf m = true) {a : Nat} (ha : a + 3 < 131072) {old new : Word}
    (h : old ≠ new) : readWord (rewriteWord m a old new) a = new := by
  unfold rewriteWord
  rw [if_neg h]
  exact readWord_writeWord w ha new

/-- Of the words of an entry each that changes is read as it is written. -/
theorem readWord_rewriteWords {m : Memory} (w : Memory.wf m = true) {a : Nat} {old new : List (Nat × Word)}
    (apart : new.Pairwise fun u v => u.1 + 4 ≤ v.1 ∨ v.1 + 4 ≤ u.1) (bound : ∀ v ∈ new, a + v.1 + 3 < 131072)
    {o v : Nat × Word} (h : (o, v) ∈ old.zip new) (ne : o.2 ≠ v.2) : readWord (rewriteWords m a old new) (a + v.1) = v.2 := by
  induction new generalizing m old with
  | nil => rw [List.zip_nil_right] at h; cases h
  | cons x rest ih =>
    cases old with
    | nil => cases h
    | cons y more =>
      obtain ⟨hx, hrest⟩ := List.pairwise_cons.mp apart
      have first : Memory.wf (rewriteWord m (a + x.1) y.2 x.2) = true := (rewriteWord_writes m _ _ _).wf w
      have unfolded : rewriteWords m a (y :: more) (x :: rest) =
          rewriteWords (rewriteWord m (a + x.1) y.2 x.2) a more rest := rfl
      rw [unfolded]
      rcases List.mem_cons.mp h with h | h
      · obtain ⟨rfl, rfl⟩ := Prod.mk.inj h
        have keep := (rewriteWords_writes (rewriteWord m (a + v.1) o.2 v.2) a more rest).word first (a := a + v.1)
          fun b hb ⟨z, hz, hk⟩ => by
            have := hx z hz
            unfold within at hb hk
            omega
        rw [keep]
        exact readWord_rewriteWord_changed w (bound v List.mem_cons_self) ne
      · exact ih first hrest (fun z hz => bound z (List.mem_cons_of_mem _ hz)) h

theorem ofNat_ne {m n : Nat} (hm : m ≤ 4294967295) (hn : n ≤ 4294967295) (h : n ≠ m) : BitVec.ofNat 32 m ≠ BitVec.ofNat 32 n := by
  intro k
  have := congrArg BitVec.toNat k
  rw [BitVec.toNat_ofNat, BitVec.toNat_ofNat] at this
  omega

/-! ### The statistics of a pool (R79, R80) -/

theorem statWords_apart (x : PoolStats) : (statWords x).Pairwise fun u v => u.1 + 4 ≤ v.1 ∨ v.1 + 4 ≤ u.1 := by
  simp [statWords]

theorem statWords_bound (x : PoolStats) {v : Nat × Word} (h : v ∈ statWords x) : 4 ≤ v.1 ∧ v.1 ≤ 28 := by
  simp only [statWords, List.mem_cons, List.not_mem_nil, or_false] at h
  rcases h with rfl | rfl | rfl | rfl | rfl | rfl | rfl <;> simp

/-- The statistics are mirrored behind the queue length. -/
theorem State.updateStats_words (s : State) (q : Pool) (f : PoolStats → PoolStats) :
    Writes (within (poolAddress q + 4) 28) s.mem (s.updateStats q f).mem :=
  (rewriteWords_writes s.mem (poolAddress q) _ _).mono fun a ⟨v, hv, h⟩ => by
    have := statWords_bound _ hv
    unfold within at *
    omega

theorem statWords_zip (x y : PoolStats) : (statWords x).zip (statWords y) =
    [((0x04, BitVec.ofNat 32 x.granted), (0x04, BitVec.ofNat 32 y.granted)),
      ((0x08, BitVec.ofNat 32 x.regrants), (0x08, BitVec.ofNat 32 y.regrants)),
      ((0x0C, BitVec.ofNat 32 x.waitTotal), (0x0C, BitVec.ofNat 32 y.waitTotal)),
      ((0x10, BitVec.ofNat 32 x.waitMax), (0x10, BitVec.ofNat 32 y.waitMax)),
      ((0x14, BitVec.ofNat 32 x.preemptions), (0x14, BitVec.ofNat 32 y.preemptions)),
      ((0x18, BitVec.ofNat 32 x.faultRequeues), (0x18, BitVec.ofNat 32 y.faultRequeues)),
      ((0x1C, BitVec.ofNat 32 x.expiries), (0x1C, BitVec.ofNat 32 y.expiries))] := rfl

theorem State.updateStats_mem (s : State) (q : Pool) (f : PoolStats → PoolStats) : (s.updateStats q f).mem =
    rewriteWords s.mem (poolAddress q) (statWords (s.poolStats q)) (statWords (f (s.poolStats q))) := rfl

/-- Every statistic that changes shows in its mirror. -/
theorem State.updateStats_shown {s : State} (wf : s.wellFormed) (q : Pool) {f : PoolStats → PoolStats}
    (range : (f (s.poolStats q)).inRange) : s.statsShown (s.updateStats q f) q := by
  have hq := poolAddress_bounds q
  have before := wf.stats q
  unfold State.statsShown
  dsimp only
  rw [s.poolStats_updateStats]
  unfold State.word
  rw [s.updateStats_mem]
  generalize f (s.poolStats q) = y at range ⊢
  generalize s.poolStats q = x at before ⊢
  have entry {offset m n : Nat} (h : ((offset, BitVec.ofNat 32 m), (offset, BitVec.ofNat 32 n)) ∈ (statWords x).zip (statWords y))
      (hm : m ≤ 4294967295) (hn : n ≤ 4294967295) (ne : n ≠ m) :
      readWord (rewriteWords s.mem (poolAddress q) (statWords x) (statWords y)) (poolAddress q + offset) = BitVec.ofNat 32 n :=
    readWord_rewriteWords (o := (offset, BitVec.ofNat 32 m)) (v := (offset, BitVec.ofNat 32 n)) wf.memory (statWords_apart y) (fun z hz => by have := statWords_bound _ hz; omega) h (ofNat_ne hm hn ne)
  rw [statWords_zip] at entry
  exact ⟨entry (by simp) before.granted range.granted, entry (by simp) before.regrants range.regrants,
    entry (by simp) before.waitTotal range.waitTotal, entry (by simp) before.waitMax range.waitMax,
    entry (by simp) before.preemptions range.preemptions, entry (by simp) before.faultRequeues range.faultRequeues,
    entry (by simp) before.expiries range.expiries⟩

theorem State.statsShown.congr {s s' t u : State} {q : Pool} (h : s'.statsShown u q) (before : s.poolStats q = s'.poolStats q)
    (after : t.poolStats q = u.poolStats q)
    (words : ∀ x, 4 ≤ x → x ≤ 28 → t.word (poolAddress q + x) = u.word (poolAddress q + x)) : s.statsShown t q := by
  unfold State.statsShown at h ⊢
  dsimp only at h ⊢
  rw [before, after, words 0x04 (by omega) (by omega), words 0x08 (by omega) (by omega), words 0x0C (by omega) (by omega),
    words 0x10 (by omega) (by omega), words 0x14 (by omega) (by omega), words 0x18 (by omega) (by omega),
    words 0x1C (by omega) (by omega)]
  exact h

theorem State.queueShown.congr {t u : State} {q : Pool} (h : u.queueShown q) (queue : t.queue q = u.queue q)
    (word : t.word (poolAddress q) = u.word (poolAddress q)) : t.queueShown q := by
  unfold State.queueShown at h ⊢
  rw [queue, word]
  exact h

/-- Words outside a finish's bytes are kept by it. -/
theorem State.finish_word_apart {s : State} {g : Slot} {o : JobOutcome} {d : Detail} {reported : Option Word}
    (w : Memory.wf s.mem = true) {a : Nat} (h : a + 4 ≤ 0x0380) :
    (s.finish g o d reported).word a = s.word a :=
  have hg := slotAddress_bounds g
  have hs := stationAddress_bounds (stationOf g)
  State.finish_writes.word w fun b hb hk => by
    unfold finishBytes stationMirrors within at *
    omega

/-! ### A queued job leaves queue and list (R54, R63) -/

/-- A queued job off its pool's queue and off the deadline list. -/
def State.unqueued (s : State) (g : Slot) : State := (s.leaveQueue g).leaveDeadlines g

theorem State.finishQueued_eq (s : State) (g : Slot) (o : JobOutcome) (d : Detail) :
    s.finishQueued g o d = (s.unqueued g).finish g o d none := rfl

section
variable (s : State) (g : Slot)

theorem State.unqueued_slot (h : Slot) : (s.unqueued g).slot h = s.slot h := rfl
theorem State.unqueued_job (h : Slot) : (s.unqueued g).job h = s.job h := rfl
theorem State.unqueued_counters (st : Station) : (s.unqueued g).counters st = s.counters st := rfl
theorem State.unqueued_poolStats (q : Pool) : (s.unqueued g).poolStats q = s.poolStats q := rfl
theorem State.unqueued_deadlines : (s.unqueued g).deadlines = s.deadlines.erase g := rfl

theorem State.unqueued_queue (q : Pool) :
    (s.unqueued g).queue q = if q = (s.job g).pool then (s.queue q).erase g else s.queue q := s.queue_leaveQueue g q

theorem State.unqueued_kept : Kept s (s.unqueued g) := (s.leaveQueue_kept g).trans (State.leaveDeadlines_kept _ g)

theorem State.unqueued_writes : Writes (fun a => a = poolAddress (s.job g).pool + 3) s.mem (s.unqueued g).mem :=
  s.setQueue_writes _ _

theorem State.unqueued_shown (w : Memory.wf s.mem = true) : (s.unqueued g).queueShown (s.job g).pool :=
  State.setQueue_shown w _ _

end

/-! ### The expiry (R55, R56) -/

theorem State.expireJob_eq (s : State) (g : Slot) : s.expireJob g = ((s.unqueued g).updateStats (s.job g).pool fun x =>
    { x with expiries := saturate max32 x.expiries 1 }).finish g .expired .notGranted none := rfl

theorem PoolStats.inRange.expired {x : PoolStats} (h : x.inRange) :
    ({ x with expiries := saturate max32 x.expiries 1 } : PoolStats).inRange :=
  { h with expiries := saturate_le _ _ _ }

theorem State.deadlineEvent_none {s : State} (h : s.expiredHead = none) : exec .deadlineExpiry s = .next s := by
  have e : s.deadlineEvent = s := by
    unfold State.deadlineEvent
    rw [h]
  show Host.Outcome.next (closeEvent s s.deadlineEvent) = _
  rw [e, closeEvent_self]

theorem State.expiredHead_some {s : State} {g : Slot} {rest : List Slot} {e : Stamp} (active : sweeping s.ctl.engine = true)
    (head : s.deadlines = g :: rest) (expiry : (s.job g).expiry = some e) (due : reached s.ctl.clock e = true) :
    s.expiredHead = some g := by
  unfold State.expiredHead
  rw [head]
  dsimp only
  rw [expiry, active]
  exact if_pos (by rw [due]; rfl)

/-- An event that leaves the ports is closed by the interrupt. -/
theorem closeEvent_of_ports {s u : State} (h : u.ports = s.ports) : closeEvent s u =
    { u with ctl := { u.ctl with messagesSent := u.ctl.messagesSent + messageDue s u } } := by
  rw [closeEvent_settles fun _ => State.anyServing_of_ports h, settleInterrupt_eq]

/-- Settles O42: the expiry is a departure from queue and list, one statistic, and a finish. -/
theorem deadlineExpiryFinishesTheJob : Obligations.DeadlineExpiryFinishesTheJob := by
  unfold Obligations.DeadlineExpiryFinishesTheJob
  intro s wf
  refine ⟨fun g rest e active head expiry => ⟨fun due queued => ?_, fun late => State.deadlineEvent_none ?_⟩,
    fun none => State.deadlineEvent_none (State.expiredHead_eq_none fun g e h => by rw [none] at h; cases h)⟩
  · let left := (s.unqueued g).updateStats (s.job g).pool fun x => { x with expiries := saturate max32 x.expiries 1 }
    let u := left.finish g .expired .notGranted none
    have w := wf.memory
    have hq := poolAddress_bounds (s.job g).pool
    have unqueued : (s.unqueued g).wellFormed := (s.unqueued_kept g).data wf
    have wl : Memory.wf left.mem = true := (State.updateStats_words (s.unqueued g) (s.job g).pool _).wf unqueued.memory
    have wfl : left.wellFormed :=
      ((s.unqueued g).updateStats_kept (s.job g).pool _ fun _ h => h.expired).data unqueued
    have run : exec .deadlineExpiry s = .next (closeEvent s u) := by
      show Host.Outcome.next (closeEvent s s.deadlineEvent) = _
      unfold State.deadlineEvent
      rw [State.expiredHead_some (sweeping_of active) head expiry due]
      rfl
    have ports : u.ports = s.ports := State.finish_ports _ _ _ _ _
    have ctl : u.ctl = s.ctl := State.finish_ctl _ _ _ _ _
    have pool {x : Nat} (hx : x ≤ 28) : u.word (poolAddress (s.job g).pool + x) = left.word (poolAddress (s.job g).pool + x) :=
      State.finish_word_apart wl (by omega)
    have stats (q : Pool) : u.poolStats q = left.poolStats q := by
      unfold State.poolStats
      rw [show u.stats = left.stats from State.finish_stats _ _ _ _ _]
    have queues (q : Pool) : u.queue q = (s.unqueued g).queue q := by
      unfold State.queue
      rw [show u.queues = left.queues from State.finish_queues _ _ _ _ _]
      rfl
    have shown : (s.unqueued g).statsShown left (s.job g).pool := State.updateStats_shown unqueued _ (wf.stats _).expired
    rw [run, closeEvent_of_ports ports]
    refine ⟨_, rfl, State.finish_hasResult (s := left) wl, ?_, fun q => (queues q).trans (s.unqueued_queue g q), ?_,
      fun q hq => ?_, ?_, ?_, ?_, State.finish_talliesShown wfl, State.finish_stationsKept (s := left),
      State.finish_slotsKept (s := left), ports, State.finish_spare _ _ _ _ _, State.finish_mailboxes _ _ _ _ _,
      State.finish_notice _ _ _ _ _, ?_, ?_⟩
    · refine (State.finish_deadlines left g _ _ _).trans ?_
      show s.deadlines.erase g = rest
      rw [head, List.erase_cons_head]
    · exact (stats _).trans ((s.unqueued g).poolStats_updateStats _ _)
    · exact (stats _).trans ((s.unqueued g).poolStats_updateStats_ne hq _)
    · refine (State.finish_counters (s := left)).trans ?_
      rw [if_neg (by
        show (s.slot g).state ≠ _
        rw [queued]
        exact SlotState.noConfusion)]
      rfl
    · exact shown.congr rfl (stats _) fun x _ hx => pool hx
    · refine (s.unqueued_shown g w).congr (queues _) ((pool (x := 0) (by omega)).trans ?_)
      exact (State.updateStats_words (s.unqueued g) (s.job g).pool _).word unqueued.memory fun b hb hk => by
        unfold within at hb hk
        omega
    · dsimp only
      rw [ctl]
    · refine (((s.unqueued_writes g).mono fun a h => ?_).trans
        (((State.updateStats_writes (s.unqueued g) (s.job g).pool _).mono fun a h => ?_).trans
          ((State.finish_writes (s := left)).mono fun a h => ?_))).kept w
      · exact .inr (.inr (by unfold poolMirrors within; omega))
      · exact .inr (.inr h)
      · exact h.imp id .inl
  · refine State.expiredHead_eq_none fun h e' hh he => ?_
    rw [head] at hh
    obtain rfl := Option.some.inj hh
    rw [expiry] at he
    obtain rfl := Option.some.inj he
    exact late

end Sys2Proof.Machine
end

/-! SUPPORT. The visits of the sweeper: which one is due, what it samples and examines (R24, R25, R40, R42). -/
section
namespace Sys2Proof.Machine

/-! ### The visit that is due (R42) -/

theorem Control.nudgedStation_eq_some_iff (c : Control) (st : Station) :
    c.nudgedStation = some st ↔ c.nudgeVisits[st.val] = true ∧ ∀ r : Station, r < st → c.nudgeVisits[r.val] = false :=
  find?_finRange_eq_some_iff

/-- A visit is due where no closing steps are: that of the nudged station, else that of the whole sweep's next. -/
theorem Control.visitDue_iff {c : Control} {st : Station} : c.visitDue = some st ↔ sweeping c.engine = true ∧
    (∀ w, c.sweep = some w → w.next < 32) ∧
      (c.nudgedStation = some st ∨ (c.nudgedStation = none ∧ ∃ w, c.sweep = some w ∧ w.next = st.val)) := by
  unfold Control.visitDue
  cases sweeping c.engine with
  | false => simp
  | true =>
    cases hs : c.sweep with
    | none => simp
    | some w =>
      by_cases hw : w.next < 32
      · cases c.nudgedStation <;> simp [hw, Fin.ext_iff]
      · simp [hw]

/-- The station's own request brings the visit, if it is set. -/
theorem beginVisit_eq {c : Control} {st : Station} (m : Memory) (due : c.visitDue = some st) : beginVisit m st c = { c with
    samples := c.samples.set st.val (readSample m st)
    nudgeVisits := c.nudgeVisits.set st.val false
    sweep := if c.nudgeVisits[st.val] = true then c.sweep else c.sweep.map fun w => { w with next := w.next + 1 } } := by
  obtain ⟨-, -, nudged | ⟨quiet, w, hw, -⟩⟩ := Control.visitDue_iff.mp due
  · rw [if_pos ((c.nudgedStation_eq_some_iff st).mp nudged).1]
    unfold beginVisit
    rw [nudged]
  · rw [if_neg (by rw [(c.nudgedStation_eq_none_iff).mp quiet st]; exact Bool.false_ne_true)]
    unfold beginVisit
    rw [quiet, hw]
    rfl

theorem sample_beginVisit (s : State) (st : Station) :
    (s.setControl (beginVisit s.mem st)).sample st = readSample s.mem st := by
  unfold State.sample State.setControl beginVisit
  exact Vector.getElem_set_self _

theorem exec_visit_due {s : State} {st : Station} (due : s.ctl.visitDue = some st) :
    exec (.visit st) s = .next (closeEvent s (s.makeVisit st)) := if_pos due

theorem exec_visit_not {s : State} {st : Station} (h : s.ctl.visitDue ≠ some st) : exec (.visit st) s = .next s := if_neg h

/-! ### The changes of station state (R44, R45) -/

theorem State.changeStation_closes (s : State) (st : Station) {before after : StationState} (open_ : before ≠ .closed)
    (closed : after = .closed) : s.changeStation st before after = s.closeStation st := by
  subst closed
  cases before with
  | closed => exact absurd rfl open_
  | opened => rfl
  | suspended => rfl

theorem State.changeStation_rests (s : State) (st : Station) {before after : StationState}
    (h : before = .closed ∨ before = after ∨ (before = .opened ∧ after = .suspended)) :
    s.changeStation st before after = s := by
  rcases h with rfl | rfl | ⟨rfl, rfl⟩
  · cases after <;> rfl
  · cases before <;> rfl
  · rfl

/-- A visit changes no control register but by its sample. -/
theorem State.makeVisit_ctl (s : State) (st : Station) : (s.makeVisit st).ctl = beginVisit s.mem st s.ctl :=
  ((State.changeStation_kept _ st _ _).trans (Kept.foldl State.examine_kept _ _)).ctl

theorem closeEvent_samples (s u : State) : (closeEvent s u).ctl.samples = u.ctl.samples := by
  unfold closeEvent
  rw [settleInterrupt_eq]
  rcases drainEnd_cases s u with h | ⟨-, -, -, h⟩ <;> rw [h]
  show u.enterStopped.ctl.samples = _
  rw [u.enterStopped_ctl]
  rfl

/-- Settles O24: the choice of the visit is read off `Control.visitDue`, its effects off `beginVisit`, the change of station
state by its pair. -/
theorem visitsSampleTheStationDue : Obligations.VisitsSampleTheStationDue := by
  unfold Obligations.VisitsSampleTheStationDue
  refine ⟨fun s st active => ⟨?_, exec_visit_not⟩, fun s st due => ?_, fun s st due => ?_⟩
  · rw [Control.visitDue_iff, Control.nudgedStation_eq_some_iff, Control.nudgedStation_eq_none_iff]
    simp only [sweeping_of active, Bool.not_eq_true, true_and]
  · have ctl : (s.makeVisit st).ctl = _ := (s.makeVisit_ctl st).trans (beginVisit_eq s.mem due)
    refine ⟨_, exec_visit_due due, ?_, fun running => ?_⟩
    · rw [closeEvent_samples, ctl]
    · have engine : (s.makeVisit st).ctl.engine ≠ .draining := by
        rw [ctl]
        show s.ctl.engine ≠ _
        rw [running]
        exact Engine.noConfusion
      rw [closeEvent_of_not_draining _ _ engine]
      dsimp only
      rw [ctl]
  · have visit (u : State) (h : (s.setControl (beginVisit s.mem st)).changeStation st (s.sample st).state
        (readSample s.mem st).state = u) : exec (.visit st) s = .next (closeEvent s
          ((((u.examine (slotOf st 0)).examine (slotOf st 1)).examine (slotOf st 2)).examine (slotOf st 3))) := by
      rw [exec_visit_due due, ← h]
      unfold State.makeVisit
      dsimp only
      rw [sample_beginVisit]
      rfl
    have sampled : s.setControl (beginVisit s.mem st) = _ :=
      congrArg (fun c => { s with ctl := c }) (beginVisit_eq s.mem due)
    rw [sampled] at visit
    refine ⟨fun open_ closed => visit _ (State.changeStation_closes _ st open_ closed), fun suspended opened => visit _ ?_,
      fun h => visit _ (State.changeStation_rests _ st h)⟩
    rw [suspended, opened]
    rfl

end Sys2Proof.Machine
end

/-! SUPPORT. The examination of a slot by the pair of its shadow and its mirror (R26 to R29, R47, R145). -/
section
namespace Sys2Proof.Machine

/-! ### Marks of a list of blocks -/

theorem State.setMark_eq (s : State) (b : Nat) (m : BlockMark) : s.setMark b m = { s with marks := (s.setMark b m).marks } := by
  unfold State.setMark
  split <;> rfl

theorem State.markAll_eq (l : List Nat) (m : BlockMark) (s : State) :
    s.markAll l m = { s with marks := (s.markAll l m).marks } := by
  unfold State.markAll
  induction l generalizing s with
  | nil => rfl
  | cons b rest ih =>
    rw [List.foldl_cons, s.setMark_eq b m]
    exact ih _

/-- Blocks of the part's numbers take the mark; the others keep theirs. -/
theorem State.markAll_mark (l : List Nat) {s : State} {m : BlockMark} {b : Nat} (h : b ∈ l → (1 ≤ b ∧ b ≤ 896) ∨ m = .outside) :
    (s.markAll l m).mark b = if b ∈ l then m else s.mark b := by
  unfold State.markAll
  induction l generalizing s with
  | nil => rfl
  | cons c rest ih =>
    rw [List.foldl_cons, ih fun k => h (List.mem_cons_of_mem c k)]
    by_cases k : b ∈ rest
    · rw [if_pos k, if_pos (List.mem_cons_of_mem c k)]
    · rw [if_neg k]
      by_cases e : b = c
      · subst e
        rw [if_pos List.mem_cons_self]
        rcases h List.mem_cons_self with range | rfl
        · exact s.mark_setMark range m
        · by_cases range : 1 ≤ b ∧ b ≤ 896
          · exact s.mark_setMark range _
          · exact State.mark_outside_of_range range
      · rw [if_neg (by simp [e, k]), s.mark_setMark_ne e]

/-! ### The pairs (R26) -/

theorem State.examine_fault {s : State} {g : Slot} (differ : readOwner s.mem g ≠ some (s.slot g).state)
    (posted : ¬ ((s.slot g).state = .empty ∧ readOwner s.mem g = some .posted))
    (finished : ¬ ((s.slot g).state = .finished ∧ (readOwner s.mem g = some .empty ∨ readOwner s.mem g = some .posted))) :
    s.examine g = s.handoverFault g := by
  unfold State.examine
  split
  next h k => exact absurd (k.trans (congrArg some h.symm)) differ
  next h k => exact absurd ⟨h, k⟩ posted
  next h k => exact absurd (k.trans (congrArg some h.symm)) differ
  next h k => exact absurd (k.trans (congrArg some h.symm)) differ
  next h k => exact absurd (k.trans (congrArg some h.symm)) differ
  next h k => exact absurd (k.trans (congrArg some h.symm)) differ
  next h k => exact absurd ⟨h, .inl k⟩ finished
  next h k => exact absurd ⟨h, .inr k⟩ finished
  next => rfl

section
variable {s : State} {g : Slot}

theorem State.examine_accepts (h : (s.slot g).state = .empty ∨ (s.slot g).state = .posted)
    (posted : readOwner s.mem g = some .posted) : s.examine g = s.acceptIfRunning g := by
  unfold State.examine
  rcases h with h | h <;> rw [h, posted]

theorem State.examine_queued (h : (s.slot g).state = .queued) (k : readOwner s.mem g = some .queued) :
    s.examine g = if readCancel s.mem g ≠ 0 then s.finishQueued g .cancelled .byHost else s := by
  unfold State.examine
  rw [h, k]

theorem State.examine_serving (h : (s.slot g).state = .serving) (k : readOwner s.mem g = some .serving) :
    s.examine g = if readCancel s.mem g ≠ 0 then s.cancelServing g else s := by
  unfold State.examine
  rw [h, k]

theorem State.examine_finished (h : (s.slot g).state = .finished) (k : readOwner s.mem g = some .finished) :
    s.examine g = s := by
  unfold State.examine
  rw [h, k]

theorem State.examine_releases (h : (s.slot g).state = .finished) (k : readOwner s.mem g = some .empty) :
    s.examine g = s.release g := by
  unfold State.examine
  rw [h, k]

theorem State.examine_reposted (h : (s.slot g).state = .finished) (k : readOwner s.mem g = some .posted) :
    s.examine g = (s.release g).acceptIfRunning g := by
  unfold State.examine
  rw [h, k]

/-! ### The release (R29, R145) -/

theorem State.release_eq : s.release g =
    { s with slots := s.slots.set g.val { codes := (s.slot g).codes }, marks := (s.release g).marks } := by
  have marked := s.markAll_eq (s.job g).resultChain .outside
  unfold State.release State.releaseResults
  rw [marked]
  unfold State.updateJob State.setSlot clearShadow
  rw [Vector.set_set]

theorem State.release_slots : (s.release g).slots = s.slots.set g.val { codes := (s.slot g).codes } :=
  congrArg State.slots s.release_eq

theorem State.release_slot : (s.release g).slot g = { codes := (s.slot g).codes } := State.slot_setSlot _ _ _

theorem State.release_mark (b : Nat) : (s.release g).mark b = if b ∈ (s.job g).resultChain then .outside else s.mark b :=
  State.markAll_mark (s := s) _ fun _ => .inr rfl

/-! ### The handover fault (R28) -/

theorem State.handoverFault_mem : (s.handoverFault g).mem = writeWord (writeWord s.mem (slotAddress g) (ownerCode (s.slot g).state))
    (stationAddress (stationOf g) + 0x08) (tallyWord { s.counters (stationOf g) with
      handoverFaults := min 65535 ((s.counters (stationOf g)).handoverFaults + 1) }) := rfl

theorem State.handoverFault_writes : Writes (fun a => within (slotAddress g) 4 a ∨ within (stationAddress (stationOf g) + 0x08) 4 a)
    s.mem (s.handoverFault g).mem :=
  ((s.putWord_writes (slotAddress g) _).mono fun _ => .inl).trans ((State.putWord_writes _ _ _).mono fun _ => .inr)

theorem State.handoverFault_counters : (s.handoverFault g).counters (stationOf g) = { s.counters (stationOf g) with
    handoverFaults := min 65535 ((s.counters (stationOf g)).handoverFaults + 1) } := Vector.getElem_set_self _

end

/-- Settles O26: a pair with no row of its own is a fault, FINISHED under EMPTY or POSTED a release. -/
theorem examinationsByPair : Obligations.ExaminationsByPair := by
  unfold Obligations.ExaminationsByPair
  refine ⟨?_, fun s g finished released => ?_, fun s g finished posted running => ?_⟩
  · intro s g wf state mirror differ posted finished t st c
    have fault : t = s.handoverFault g := State.examine_fault differ posted finished
    have w := wf.memory
    have w1 := Memory.wf_writeWord w (slotAddress g) (ownerCode (s.slot g).state)
    have hg := slotAddress_bounds g
    have hs := stationAddress_bounds (stationOf g)
    rw [fault]
    refine ⟨rfl, ?_, State.talliesShown_of (((s.handoverFault_kept g).data wf).counters _) ?_, fun a h => ?_⟩
    · unfold State.word
      rw [State.handoverFault_mem, readWord_writeWord_ne w1 (by omega), readWord_writeWord w (by rw [exchangeBytes_eq]; omega)]
    · unfold State.word
      rw [State.handoverFault_mem, State.handoverFault_counters, readWord_writeWord w1 (by rw [exchangeBytes_eq]; omega)]
    · exact State.handoverFault_writes.kept w a h
  · have release : s.examine g = s.release g := by
      rcases released with empty | ⟨posted, draining⟩
      · exact State.examine_releases finished empty
      · rw [State.examine_reposted finished posted]
        refine if_neg ?_
        rw [s.release_eq, draining]
        exact Engine.noConfusion
    rw [release]
    exact ⟨s.release_eq, State.release_mark⟩
  · have accepted := State.examine_accepts (s := s.release g) (g := g) (.inl (by rw [State.release_slot]))
      (by rw [s.release_eq]; exact posted)
    exact ⟨s.release g, State.release_eq, State.release_mark, (State.examine_reposted finished posted).trans accepted.symm⟩

end Sys2Proof.Machine
end

/-! SUPPORT. The checks of acceptance, the chain walk and the refusal (R31, R32, R124, R182, R184). -/
section
namespace Sys2Proof.Machine

/-! ### The chain walk (R32, R124) -/

section
variable {s : State}

/-- A block that the walk of acceptance passes: of a block's number, neither SPARE nor RESULT. -/
def State.passes (s : State) (b : Nat) : Prop := 1 ≤ b ∧ b ≤ 896 ∧ s.mark b ≠ .spare ∧ s.mark b ≠ .result

theorem chainWalk_loop (n : Nat) {b : Nat} (h : 896 < readLink s.mem b) : chainWalk s (n + 1) b = .error .chainLoop := if_pos h

theorem chainWalk_conflict (n : Nat) {b : Nat} (link : readLink s.mem b ≤ 896) (h : s.mark b = .spare ∨ s.mark b = .result) :
    chainWalk s (n + 1) b = .error .chainConflict := by
  unfold chainWalk
  refine (if_neg (Nat.not_lt.mpr link)).trans (if_pos ?_)
  rcases h with h | h <;> rw [h] <;> rfl

theorem State.passes.unmarked {b : Nat} (h : s.passes b) : ¬ (s.mark b == .spare || s.mark b == .result) = true := by
  simp [h.2.2.1, h.2.2.2]

theorem chainWalk_last (n : Nat) {b : Nat} (h : s.passes b) (link : readLink s.mem b = 0) :
    chainWalk s (n + 1) b = .ok [{ block := b, sheetEnd := true }] := by
  unfold chainWalk
  exact (if_neg (by rw [link]; decide)).trans ((if_neg h.unmarked).trans (if_pos link))

theorem chainWalk_next (n : Nat) {b : Nat} (h : s.passes b) (le : readLink s.mem b ≤ 896) (link : readLink s.mem b ≠ 0) :
    chainWalk s (n + 1) b =
      (chainWalk s n (readLink s.mem b)).map ({ block := b, sheetEnd := readEndSheet s.mem b } :: ·) := by
  have step : chainWalk s (n + 1) b = _ := (if_neg (Nat.not_lt.mpr le)).trans ((if_neg h.unmarked).trans (if_neg link))
  rw [step]
  cases chainWalk s n (readLink s.mem b) <;> rfl

/-- A chain whose blocks all pass is recorded in its order, with the sheet ends that it has. -/
theorem chainWalk_passes (n : Nat) {first : Nat} {rest : List Nat} (len : (first :: rest).length ≤ n)
    (pass : ∀ b ∈ first :: rest, s.passes b) (links : (first :: rest).map (readLink s.mem) = rest ++ [0]) :
    ∃ chain, chainWalk s n first = .ok chain ∧ chain.map ChainEntry.block = first :: rest ∧
      ∀ i e, chain[i]? = some e →
        (e.sheetEnd = true ↔ i = rest.length ∨ (s.word (blockAddress e.block + 4)).getLsbD 0 = true) := by
  induction rest generalizing first n with
  | nil =>
    obtain ⟨n, rfl⟩ : ∃ k, n = k + 1 := ⟨n - 1, by rw [List.length_singleton] at len; omega⟩
    refine ⟨_, chainWalk_last n (pass first List.mem_cons_self) (List.cons.inj links).1, rfl, fun i e h => ?_⟩
    obtain ⟨rfl, rfl⟩ : i = 0 ∧ e = { block := first, sheetEnd := true } := by
      rw [List.getElem?_singleton] at h
      split at h
      · next k => exact ⟨k, (Option.some.inj h).symm⟩
      · cases h
    simp
  | cons second rest ih =>
    obtain ⟨n, rfl⟩ : ∃ k, n = k + 1 := ⟨n - 1, by rw [List.length_cons] at len; omega⟩
    obtain ⟨link, links⟩ := List.cons.inj links
    have next := pass second (List.mem_cons_of_mem _ List.mem_cons_self)
    obtain ⟨chain, walk, blocks, ends⟩ := ih n (Nat.le_of_succ_le_succ len) (fun b h => pass b (List.mem_cons_of_mem _ h)) links
    refine ⟨{ block := first, sheetEnd := readEndSheet s.mem first } :: chain, ?_, by rw [List.map_cons, blocks], fun i e h => ?_⟩
    · rw [chainWalk_next n (pass first List.mem_cons_self) (by rw [link]; exact next.2.1) (by rw [link]; exact Nat.one_le_iff_ne_zero.mp next.1),
        link, walk]
      rfl
    · cases i with
      | zero =>
        obtain rfl := Option.some.inj h
        simp only [readEndSheet, field_one_beq]
        exact ⟨.inr, fun k => k.resolve_left fun k => by cases k⟩
      | succ i =>
        rw [ends i e h, List.length_cons, Nat.add_right_cancel_iff]

/-- A walk fails as it fails behind blocks that pass. -/
theorem chainWalk_after {before : List Nat} {n first b : Nat} {d : Detail} (pass : ∀ x ∈ before, s.passes x)
    (links : before.map (readLink s.mem) = (before ++ [b]).tail) (head : (before ++ [b]).head? = some first) (one : 1 ≤ b)
    (le : b ≤ 896) (fails : chainWalk s n b = .error d) : chainWalk s (before.length + n) first = .error d := by
  induction before generalizing first with
  | nil =>
    obtain rfl := Option.some.inj head
    rw [List.length_nil, Nat.zero_add]
    exact fails
  | cons x rest ih =>
    obtain rfl : x = first := Option.some.inj head
    obtain ⟨y, hy⟩ : ∃ y, (rest ++ [b]).head? = some y := by cases rest <;> exact ⟨_, rfl⟩
    have tail : rest ++ [b] = y :: (rest ++ [b]).tail := (List.cons_head?_tail hy).symm
    have split : (x :: rest).map (readLink s.mem) = y :: (rest ++ [b]).tail := links.trans tail
    obtain ⟨link, links⟩ := List.cons.inj split
    have range : 1 ≤ y ∧ y ≤ 896 := by
      cases rest with
      | nil => obtain rfl := Option.some.inj hy; exact ⟨one, le⟩
      | cons z _ =>
        obtain rfl := Option.some.inj hy
        have := pass z (List.mem_cons_of_mem _ List.mem_cons_self)
        exact ⟨this.1, this.2.1⟩
    have walk := ih (fun z h => pass z (List.mem_cons_of_mem _ h)) links hy
    rw [List.length_cons, Nat.add_right_comm, chainWalk_next _ (pass x List.mem_cons_self) (by omega) (by omega), link, walk]
    rfl

end

/-! ### The checks in their order (R31) -/

section
variable {s : State} {st : Station} {r : Request} {cls : JobClass}

theorem State.validateRequest_closed (h : (s.sample st).state = .closed) :
    s.validateRequest st r = .error .stationClosed := if_pos h

theorem State.validateRequest_noPriority (open_ : (s.sample st).state ≠ .closed) (h : (s.sample st).basePriority = 0) :
    s.validateRequest st r = .error .noPriority := (if_neg open_).trans (if_pos h)

variable (open_ : (s.sample st).state ≠ .closed) (priority : (s.sample st).basePriority ≠ 0)
include open_ priority

theorem State.validateRequest_badClass (h : r.cls = none) : s.validateRequest st r = .error .badClass := by
  unfold State.validateRequest
  rw [h]
  exact (if_neg open_).trans (if_neg priority)

variable (known : r.cls = some cls)
include known

theorem State.validateRequest_badPool (h : s.servesPool cls r.pool = false) :
    s.validateRequest st r = .error .badPool := by
  unfold State.validateRequest
  rw [known]
  refine (if_neg open_).trans ((if_neg priority).trans (if_pos ?_))
  rw [h]
  rfl

variable (serves : s.servesPool cls r.pool = true)
include serves

theorem State.validateRequest_notPermitted (h : permits (s.sample st) cls = false) :
    s.validateRequest st r = .error .notPermitted := by
  unfold State.validateRequest
  rw [known]
  refine (if_neg open_).trans ((if_neg priority).trans ((if_neg ?_).trans (if_pos ?_)))
  · rw [serves]
    exact Bool.false_ne_true
  · rw [h]
    rfl

theorem State.validateRequest_badParameters (permitted : permits (s.sample st) cls = true) {d : Detail}
    (h : s.validateParameters r cls = .error d) : s.validateRequest st r = .error d := by
  unfold State.validateRequest
  rw [known]
  refine (if_neg open_).trans ((if_neg priority).trans ((if_neg ?_).trans ((if_neg ?_).trans ?_)))
  · rw [serves]
    exact Bool.false_ne_true
  · rw [permitted]
    exact Bool.false_ne_true
  · rw [h]

end

theorem State.servesPool_iff {s : State} {cls : JobClass} {n : Nat} (h : n < 8) :
    s.servesPool cls n = true ↔ s.poolClass ⟨n, h⟩ = servingClass cls := by
  unfold State.servesPool
  rw [dif_pos h, beq_iff_eq]

theorem State.servesPool_eq_false {s : State} {cls : JobClass} {n : Nat}
    (h : ∀ k : n < 8, s.poolClass ⟨n, k⟩ ≠ servingClass cls) : s.servesPool cls n = false := by
  by_cases k : n < 8
  · exact Bool.eq_false_iff.mpr fun serves => h k ((State.servesPool_iff k).mp serves)
  · exact dif_neg k

section
variable {s : State} {r : Request}

theorem State.validateParameters_badChain (h : r.firstBlock = 0 ∨ 896 < r.firstBlock) :
    s.validateParameters r .print = .error .badChain := by
  refine if_neg ?_
  unfold isBlock
  rw [decide_eq_true_eq]
  intro k
  have : r.firstBlock ≤ 896 := k.2
  omega

theorem State.validateParameters_walk (one : 1 ≤ r.firstBlock) (le : r.firstBlock ≤ 896) :
    s.validateParameters r .print = chainWalk s 896 r.firstBlock := if_pos (decide_eq_true ⟨one, le⟩)

theorem State.validateParameters_badParam (h : r.mode = 0 ∨ 3 < r.mode) :
    s.validateParameters r .scan = .error .badParam := if_neg (by omega)

end

/-! ### The refusal (R31, R184) -/

section
variable {s : State} {g : Slot} {cls : Option JobClass} {d : Detail}

theorem State.accept_refuses (h : s.validateRequest (stationOf g) (readRequest s.mem g) = .error d) :
    s.accept g = s.refuse g (readRequest s.mem g).cls d := by
  unfold State.accept
  dsimp only
  rw [h]

theorem State.accept_running (h : s.ctl.engine = .running) : s.acceptIfRunning g = s.accept g := if_pos h

/-- The flags' half of a result word without flags. -/
theorem resultWord_unflagged (n : Nat) : field (resultWord n 0 {}) 16 16 = 0 := by
  unfold resultWord
  rw [show place 0 16 5 = 0#32 from rfl, show place (validityBits {}) 24 7 = 0#32 from rfl, BitVec.or_zero, BitVec.or_zero]
  exact field_place_apart _ (by omega)

theorem State.refuse_words (w : Memory.wf s.mem = true) : (s.refuse g cls d).hasResult g .refused d ∧
    field ((s.refuse g cls d).word (slotAddress g + 0x18)) 16 16 = 0 ∧
    (s.refuse g cls d).word (slotAddress g + 0x20) = 0 ∧ (s.refuse g cls d).word (slotAddress g + 0x24) = 0 := by
  obtain ⟨result, first, port, -, -⟩ := State.writeResults_words (s := s) (g := g)
    (word := resultWord (outcomePair .refused d) 0 {}) (firstGrant := 0) (portWord := 0) (cls := cls) (r := {}) w
  have written : Memory.wf (s.writeResults g (resultWord (outcomePair .refused d) 0 {}) 0 0 cls {}).mem = true :=
    (s.writeResults_writes g _ _ _ _ _).wf w
  unfold State.refuse
  refine ⟨State.closeFinish_hasResult written result, ?_, ?_, ?_⟩
  · rw [State.closeFinish_word written (by omega), result, resultWord_unflagged]
  · rw [State.closeFinish_word written (by omega), first]
  · rw [State.closeFinish_word written (by omega), port]

theorem State.writeResults_slot (word firstGrant portWord : Word) (r : ClassResults) (h : Slot) :
    (s.writeResults g word firstGrant portWord cls r).slot h = s.slot h := by
  unfold State.slot
  simp only [State.writeResults_slots]

theorem State.writeResults_counters (word firstGrant portWord : Word) (r : ClassResults) (st : Station) :
    (s.writeResults g word firstGrant portWord cls r).counters st = s.counters st := by
  unfold State.counters
  simp only [State.writeResults_stations]

theorem State.refuse_slots : (s.refuse g cls d).slots =
    s.slots.set g.val { s.slot g with state := .finished, codes := { outcome := .refused, detail := d } } := by
  unfold State.refuse
  rw [State.closeFinish_slots, State.writeResults_slot]
  simp only [State.writeResults_slots]

theorem State.refuse_counters : (s.refuse g cls d).counters (stationOf g) = { s.counters (stationOf g) with
    jobsFinished := min 65535 ((s.counters (stationOf g)).jobsFinished + 1) } := by
  unfold State.refuse
  rw [State.closeFinish_counters, State.writeResults_counters]

theorem State.refuse_counters_ne {st : Station} (e : st ≠ stationOf g) : (s.refuse g cls d).counters st = s.counters st := by
  unfold State.refuse
  rw [State.closeFinish_counters_ne _ _ _ _ e, State.writeResults_counters]

theorem State.refuse_stationNotice : (s.refuse g cls d).stationNotice = s.stationNotice ||| stationMask (stationOf g) := by
  unfold State.refuse
  rw [State.closeFinish_stationNotice]
  exact congrArg (· ||| _) (State.writeResults_stationNotice _ _ _ _ _ _ _)

theorem State.refuse_writes : Writes (fun a => finishBytes g a ∨ stationMirrors (stationOf g) a) s.mem (s.refuse g cls d).mem :=
  ((s.writeResults_writes g _ _ _ _ _).mono fun _ => .inl).trans
    ((State.closeFinish_writes _ g _ _).mono fun _ h => h.imp (.inl ·) id)

theorem State.refuse_talliesShown (wf : s.wellFormed) : (s.refuse g cls d).talliesShown (stationOf g) :=
  State.talliesShown_of (((s.refuse_kept g cls d).data wf).counters _)
    (State.closeFinish_tally ((s.writeResults_writes g _ _ _ _ _).wf wf.memory))

end

/-- Settles O27: the check that fails first decides the refusal, and the walk of a chain follows its links. -/
theorem failedCheckRefusesTheRequest : Obligations.FailedCheckRefusesTheRequest := by
  unfold Obligations.FailedCheckRefusesTheRequest
  refine ⟨?_, fun s => ⟨fun first rest len pass links => chainWalk_passes 896 len pass links,
    fun before first b pass links head one le => ⟨fun len link conflict => ?_, fun len _ _ link => ?_, fun len => ?_⟩⟩⟩
  · intro s g wf running free posted r x t refused
    have run : t = s.accept g := (State.examine_accepts free posted).trans (State.accept_running running)
    have judged {d : Detail} (h : s.validateRequest (stationOf g) r = .error d) : refused d := by
      have e : t = s.refuse g r.cls d := run.trans (State.accept_refuses h)
      obtain ⟨result, flags, first, port⟩ := State.refuse_words (g := g) (cls := r.cls) (d := d) wf.memory
      simp only [refused, e]
      exact ⟨result, flags, first, port, by rw [State.refuse_counters],
        State.ext_of (State.refuse_ctl _ _ _ _) rfl (State.refuse_notice _ _ _ _) State.refuse_stationNotice
          State.refuse_slots (State.refuse_queues _ _ _ _) (State.refuse_deadlines _ _ _ _) (State.refuse_stats _ _ _ _) rfl
          (State.refuse_ports _ _ _ _) (State.refuse_marks _ _ _ _) (State.refuse_spare _ _ _ _)
          (State.refuse_mailboxes _ _ _ _) (State.refuse_free _ _ _ _) (State.refuse_pending _ _ _ _),
        State.refuse_talliesShown wf,
        fun st h => State.refuse_counters_ne fun e => h (List.mem_singleton.mpr e), State.refuse_writes.kept wf.memory⟩
    refine ⟨fun closed => judged (State.validateRequest_closed closed),
      fun open_ none => judged (State.validateRequest_noPriority open_ none),
      fun open_ priority none => judged (State.validateRequest_badClass open_ priority none),
      fun cls open_ priority known => ⟨fun unserved => judged (State.validateRequest_badPool open_ priority known
        (State.servesPool_eq_false unserved)), fun pool served => ?_⟩⟩
    have serves := (State.servesPool_iff pool).mpr served
    refine ⟨fun h => judged (State.validateRequest_notPermitted open_ priority known serves h), fun permitted => ?_⟩
    have parameters {d : Detail} (h : s.validateParameters r cls = .error d) : refused d :=
      judged (State.validateRequest_badParameters open_ priority known serves permitted h)
    refine ⟨fun print h => parameters ?_, fun print one le => ?_, fun scan h => parameters ?_⟩
    · rw [print, State.validateParameters_badChain h]
    · have walk {d : Detail} (h : chainWalk s 896 r.firstBlock = .error d) : refused d :=
        parameters (by rw [print, State.validateParameters_walk one le, h])
      exact ⟨fun conflict link => walk (chainWalk_conflict 895 link conflict), fun _ _ link => walk (chainWalk_loop 895 link),
        fun _ => walk⟩
    · rw [scan, State.validateParameters_badParam h]
  · have := chainWalk_after (n := 895 - before.length + 1) pass links head one le (chainWalk_conflict _ link conflict)
    rwa [show before.length + (895 - before.length + 1) = 896 by omega] at this
  · have := chainWalk_after (n := 895 - before.length + 1) pass links head one le (chainWalk_loop _ link)
    rwa [show before.length + (895 - before.length + 1) = 896 by omega] at this
  · have := chainWalk_after (n := 0) pass links head one le rfl
    rwa [len] at this

end Sys2Proof.Machine
end

/-! SUPPORT. The acceptance of a request: the fresh record, the words, the places in queue and list, the loans, and the cancel
before acceptance (R30 to R35, R52, R53, R62). -/
section
namespace Sys2Proof.Machine

/-! ### What the checks leave (R31) -/

section
variable {s : State} {st : Station} {r : Request} {v : Validated}

/-- A request that passes names its class and its pool, and its parameters pass. -/
theorem State.validated (h : s.validateRequest st r = .ok v) :
    r.cls = some v.cls ∧ r.pool = v.pool.val ∧ s.poolClass v.pool = servingClass v.cls ∧
      s.validateParameters r v.cls = .ok v.chain := by
  unfold State.validateRequest at h
  dsimp only at h
  split at h
  · cases h
  split at h
  · cases h
  split at h
  · cases h
  next cls known =>
    by_cases serves : s.servesPool cls r.pool = true
    · rw [if_neg (by rw [serves]; exact Bool.false_ne_true)] at h
      split at h
      · cases h
      split at h
      · cases h
      next chain parameters =>
        have lt : r.pool < 8 := by
          by_contra k
          rw [State.servesPool, dif_neg k] at serves
          cases serves
        cases h
        have pool : (⟨r.pool % 8, Nat.mod_lt _ (by decide)⟩ : Pool) = ⟨r.pool, lt⟩ := Fin.ext (Nat.mod_eq_of_lt lt)
        exact ⟨known, (Nat.mod_eq_of_lt lt).symm, by rw [pool]; exact (State.servesPool_iff lt).mp serves, parameters⟩
    · rw [if_pos (by simp [serves])] at h
      cases h

/-- The walk's record names blocks of the part. -/
theorem chainWalk_range {n b : Nat} {chain : List ChainEntry} (range : 1 ≤ b ∧ b ≤ 896) (h : chainWalk s n b = .ok chain) :
    ∀ e ∈ chain, 1 ≤ e.block ∧ e.block ≤ 896 := by
  induction n generalizing b chain with
  | zero => cases h
  | succ n ih =>
    unfold chainWalk at h
    dsimp only at h
    split at h
    · cases h
    next le =>
      split at h
      · cases h
      split at h
      · cases h
        intro e he
        obtain rfl := List.mem_singleton.mp he
        exact range
      next link =>
        have next : 1 ≤ readLink s.mem b ∧ readLink s.mem b ≤ 896 := ⟨Nat.one_le_iff_ne_zero.mpr link, Nat.le_of_not_lt le⟩
        split at h
        next rest walk =>
          cases h
          intro e he
          rcases List.mem_cons.mp he with rfl | he
          · exact range
          · exact ih next walk e he
        next => cases h

theorem State.validateParameters_print (h : s.validateParameters r .print = .ok v.chain) :
    chainWalk s 896 r.firstBlock = .ok v.chain ∧ ∀ e ∈ v.chain, 1 ≤ e.block ∧ e.block ≤ 896 := by
  by_cases block : 1 ≤ r.firstBlock ∧ r.firstBlock ≤ 896
  · rw [State.validateParameters_walk block.1 block.2] at h
    exact ⟨h, chainWalk_range block h⟩
  · rw [State.validateParameters_badChain (by omega)] at h
    cases h

theorem State.validateParameters_other {cls : JobClass} {chain : List ChainEntry} (h : s.validateParameters r cls = .ok chain)
    (other : cls ≠ .print) : chain = [] := by
  cases cls with
  | print => exact absurd rfl other
  | hold => cases h; rfl
  | scan =>
    unfold State.validateParameters at h
    dsimp only at h
    split at h
    · cases h; rfl
    · cases h

end

/-! ### Loans (R141) -/

section
variable {s : State}

theorem State.lend_mark_ne (s : State) {b c : Nat} (h : c ≠ b) : (s.lend b).mark c = s.mark c := by
  unfold State.lend
  split
  · exact s.mark_setMark_ne h _
  · exact s.mark_setMark_ne h _
  all_goals rfl

theorem State.lend_mark_outside {b : Nat} (range : 1 ≤ b ∧ b ≤ 896) (h : s.mark b = .outside) :
    (s.lend b).mark b = .loaned 1 := by
  unfold State.lend
  rw [h]
  exact s.mark_setMark range _

theorem State.lend_mark_loaned {b n : Nat} (h : s.mark b = .loaned n) : (s.lend b).mark b = .loaned (n + 1) := by
  unfold State.lend
  rw [h]
  exact s.mark_setMark (State.mark_range (by rw [h]; exact BlockMark.noConfusion)) _

theorem State.lendAll_mark_loaned (chain : List ChainEntry) {s : State} {b n : Nat} (h : s.mark b = .loaned n) :
    (s.lendAll chain).mark b = .loaned (n + (chain.map ChainEntry.block).count b) := by
  induction chain generalizing s n with
  | nil => exact h
  | cons e rest ih =>
    show ((s.lend e.block).lendAll rest).mark b = _
    by_cases same : e.block = b
    · subst same
      rw [ih (State.lend_mark_loaned h), List.map_cons, List.count_cons_self, Nat.add_assoc, Nat.add_comm 1]
    · rw [ih ((s.lend_mark_ne (Ne.symm same)).trans h), List.map_cons, List.count_cons_of_ne same]

theorem State.lendAll_mark_outside (chain : List ChainEntry) {s : State} {b : Nat} (h : s.mark b = .outside)
    (range : ∀ e ∈ chain, 1 ≤ e.block ∧ e.block ≤ 896) : (s.lendAll chain).mark b =
      if (chain.map ChainEntry.block).count b = 0 then .outside else .loaned ((chain.map ChainEntry.block).count b) := by
  induction chain generalizing s with
  | nil => exact h
  | cons e rest ih =>
    show ((s.lend e.block).lendAll rest).mark b = _
    by_cases same : e.block = b
    · subst same
      rw [State.lendAll_mark_loaned rest (State.lend_mark_outside (range e List.mem_cons_self) h), List.map_cons,
        List.count_cons_self, if_neg (Nat.succ_ne_zero _), Nat.add_comm 1]
    · rw [ih ((s.lend_mark_ne (Ne.symm same)).trans h) fun x hx => range x (List.mem_cons_of_mem _ hx), List.map_cons,
        List.count_cons_of_ne same]

end

/-! ### Places in queue and list (R53, R62) -/

/-- A job that has joined its pool's queue stands where its accept stamp puts it, as long as the waits stay. -/
theorem State.joinQueue_joined {s w u : State} {g : Slot} {q : Pool} (pool : (w.job g).pool = q) (before : w.queue q = s.queue q)
    (after : u.queue q = (w.joinQueue g).queue q) (waits : ∀ x, u.waits x = w.waits x) : s.joinedQueue u q g := by
  subst pool
  unfold State.joinedQueue
  rw [after, w.queue_joinQueue, ← before]
  refine joined_insertBefore (fun x => (w.precedes_iff g x).trans ?_) _
  unfold State.stands
  rw [waits, waits]

theorem State.joinDeadlines_joined {s w u : State} {g : Slot} (before : w.deadlines = s.deadlines)
    (after : u.deadlines = (w.joinDeadlines g).deadlines) (expiresIn : ∀ x, u.expiresIn x = w.expiresIn x) :
    s.joinedDeadlines u g := by
  unfold State.joinedDeadlines
  rw [after, ← before]
  refine joined_insertBefore (fun x => (w.expiresBefore_iff g x).trans ?_) _
  unfold State.expiresFirst
  rw [expiresIn, expiresIn]

/-! ### The accepted job (R33, R35) -/

/-- The acceptance writes its three words, and the slot is QUEUED with its record. -/
def State.acceptedSlot (s : State) (g : Slot) (r : Request) (v : Validated) : State :=
  (s.setSlot g { s.slot g with job := freshJob s.ctl.clock r v }).writeAcceptance g (clampFlagsOf r)

/-- A job that is accepted, before its pool is reviewed. -/
def State.enqueued (s : State) (g : Slot) (r : Request) (v : Validated) : State :=
  let queued := (s.acceptedSlot g r v).joinQueue g
  (if r.deadline = 0 then queued else queued.joinDeadlines g).lendAll v.chain

/-- The words of a result word that has the accept stamp alone valid. -/
theorem resultWord_accepted (n : Nat) {clamps : Nat} : field (resultWord n clamps { accept := true }) 24 8 = 1 := by
  unfold resultWord
  rw [field_or_right (by rw [field_or_left (field_place_apart _ (by omega)), field_place_apart _ (by omega)])]
  rfl

section
variable (s : State) (g : Slot) (r : Request) (v : Validated)

theorem State.enqueue_eq : s.enqueue g r v = (s.enqueued g r v).review v.pool := rfl

theorem State.acceptedSlot_slots : (s.acceptedSlot g r v).slots = s.slots.set g.val
    { s.slot g with state := .queued, job := freshJob s.ctl.clock r v } := by
  have slot : (s.setSlot g { s.slot g with job := freshJob s.ctl.clock r v }).slot g =
      { s.slot g with job := freshJob s.ctl.clock r v } := State.slot_setSlot _ _ _
  have written : (s.acceptedSlot g r v).slots = (s.slots.set g.val { s.slot g with job := freshJob s.ctl.clock r v }).set g.val
      { (s.setSlot g { s.slot g with job := freshJob s.ctl.clock r v }).slot g with state := .queued } := rfl
  rw [written, Vector.set_set, slot]

theorem State.enqueued_view {β : Type} (view : State → β) (loan : ∀ t l, view (State.lendAll t l) = view t)
    (list : ∀ t l, view (State.setDeadlines t l) = view t) :
    view (s.enqueued g r v) = view ((s.acceptedSlot g r v).joinQueue g) := by
  unfold State.enqueued
  dsimp only
  rw [loan]
  split
  · rfl
  · exact list _ _

theorem State.enqueued_slots : (s.enqueued g r v).slots = s.slots.set g.val
    { s.slot g with state := .queued, job := freshJob s.ctl.clock r v } :=
  (s.enqueued_view g r v State.slots (fun _ _ => State.lendAll_slots _ _) fun _ _ => rfl).trans (s.acceptedSlot_slots g r v)

theorem State.enqueued_slot : (s.enqueued g r v).slot g =
    { s.slot g with state := .queued, job := freshJob s.ctl.clock r v } := by
  unfold State.slot
  rw [State.enqueued_slots]
  exact Vector.getElem_set_self _

theorem State.enqueued_slot_ne {h : Slot} (e : h ≠ g) : (s.enqueued g r v).slot h = s.slot h := by
  unfold State.slot
  rw [State.enqueued_slots]
  exact Vector.getElem_set_ne _ _ fun k => e (Fin.ext k.symm)

theorem State.acceptedSlot_job (h : Slot) : (s.acceptedSlot g r v).job h = (s.enqueued g r v).job h := by
  unfold State.job State.slot
  simp only [State.enqueued_slots, State.acceptedSlot_slots]

theorem State.enqueued_job : (s.enqueued g r v).job g = freshJob s.ctl.clock r v := by
  unfold State.job
  rw [State.enqueued_slot]

theorem State.enqueued_ctl : (s.enqueued g r v).ctl = s.ctl :=
  s.enqueued_view g r v State.ctl (fun _ _ => State.lendAll_ctl _ _) fun _ _ => rfl

theorem State.enqueued_queues : (s.enqueued g r v).queues = ((s.acceptedSlot g r v).joinQueue g).queues :=
  s.enqueued_view g r v State.queues (fun _ _ => State.lendAll_queues _ _) fun _ _ => rfl

theorem State.enqueued_queue (q : Pool) : (s.enqueued g r v).queue q = ((s.acceptedSlot g r v).joinQueue g).queue q := by
  unfold State.queue
  rw [State.enqueued_queues]

theorem State.enqueued_mem : (s.enqueued g r v).mem = ((s.acceptedSlot g r v).joinQueue g).mem :=
  s.enqueued_view g r v State.mem (fun _ _ => State.lendAll_mem _ _) fun _ _ => rfl

theorem State.enqueued_marks : (s.enqueued g r v).marks = (s.lendAll v.chain).marks := by
  have congr (chain : List ChainEntry) : ∀ {a b : State}, b.marks = a.marks → (b.lendAll chain).marks = (a.lendAll chain).marks := by
    induction chain with
    | nil => exact id
    | cons e rest ih =>
      intro a b h
      refine ih (a := a.lend e.block) (b := b.lend e.block) ?_
      have mark : b.mark e.block = a.mark e.block := by unfold State.mark; rw [h]
      unfold State.lend State.setMark
      rw [mark]
      split
      · split
        · exact congrArg (fun v : Vector BlockMark 896 => v.set (e.block - 1) _) h
        · exact h
      · split
        · exact congrArg (fun v : Vector BlockMark 896 => v.set (e.block - 1) _) h
        · exact h
      all_goals exact h
  unfold State.enqueued
  refine congr v.chain ?_
  split <;> rfl

theorem State.enqueued_mark (b : Nat) : (s.enqueued g r v).mark b = (s.lendAll v.chain).mark b := by
  unfold State.mark
  rw [s.enqueued_marks]

theorem State.enqueued_ports : (s.enqueued g r v).ports = s.ports :=
  s.enqueued_view g r v State.ports (fun _ _ => State.lendAll_ports _ _) fun _ _ => rfl

theorem State.enqueued_stats : (s.enqueued g r v).stats = s.stats :=
  s.enqueued_view g r v State.stats (fun _ _ => State.lendAll_stats _ _) fun _ _ => rfl

theorem State.enqueued_stations : (s.enqueued g r v).stations = s.stations :=
  s.enqueued_view g r v State.stations (fun _ _ => State.lendAll_stations _ _) fun _ _ => rfl

theorem State.enqueued_spare : (s.enqueued g r v).spare = s.spare :=
  s.enqueued_view g r v State.spare (fun _ _ => State.lendAll_spare _ _) fun _ _ => rfl

theorem State.enqueued_mailboxes : (s.enqueued g r v).mailboxes = s.mailboxes :=
  s.enqueued_view g r v State.mailboxes (fun _ _ => State.lendAll_mailboxes _ _) fun _ _ => rfl

theorem State.enqueued_notice : (s.enqueued g r v).notice = s.notice :=
  s.enqueued_view g r v State.notice (fun _ _ => State.lendAll_notice _ _) fun _ _ => rfl

theorem State.enqueued_stationNotice : (s.enqueued g r v).stationNotice = s.stationNotice :=
  s.enqueued_view g r v State.stationNotice (fun _ _ => State.lendAll_stationNotice _ _) fun _ _ => rfl

theorem State.enqueued_deadlines_none (h : r.deadline = 0) : (s.enqueued g r v).deadlines = s.deadlines := by
  unfold State.enqueued
  rw [State.lendAll_deadlines, if_pos h]
  rfl

theorem State.enqueued_deadlines (h : r.deadline ≠ 0) :
    (s.enqueued g r v).deadlines = (((s.acceptedSlot g r v).joinQueue g).joinDeadlines g).deadlines := by
  unfold State.enqueued
  rw [State.lendAll_deadlines, if_neg h]

theorem State.acceptedSlot_mem : (s.acceptedSlot g r v).mem = writeWord (writeWord (writeWord s.mem (slotAddress g + 0x1C) s.ctl.clock)
    (slotAddress g + 0x18) (resultWord (codesPair (s.slot g).codes) (clampBits (clampFlagsOf r)) { accept := true }))
    (slotAddress g) 2 := by
  have codes : ((s.setSlot g { s.slot g with job := freshJob s.ctl.clock r v }).slot g).codes = (s.slot g).codes := by
    rw [State.slot_setSlot]
  rw [← codes]
  rfl

variable {s g r v}

/-- The words of the acceptance: owner, stamp and result word. -/
theorem State.enqueued_words (w : Memory.wf s.mem = true) : (s.enqueued g r v).word (slotAddress g) = 2 ∧
    (s.enqueued g r v).word (slotAddress g + 0x1C) = s.ctl.clock ∧ (s.enqueued g r v).word (slotAddress g + 0x18) =
      resultWord (codesPair (s.slot g).codes) (clampBits (clampFlagsOf r)) { accept := true } := by
  have hg := slotAddress_bounds g
  have w1 := Memory.wf_writeWord w (slotAddress g + 0x1C) s.ctl.clock
  have w2 := Memory.wf_writeWord w1 (slotAddress g + 0x18)
    (resultWord (codesPair (s.slot g).codes) (clampBits (clampFlagsOf r)) { accept := true })
  have accepted : Memory.wf (s.acceptedSlot g r v).mem = true := by
    rw [s.acceptedSlot_mem]
    exact Memory.wf_writeWord w2 _ _
  have word {a : Nat} (ha : slotAddress g ≤ a) : (s.enqueued g r v).word a = (s.acceptedSlot g r v).word a := by
    have hq := poolAddress_bounds ((s.acceptedSlot g r v).job g).pool
    unfold State.word
    rw [s.enqueued_mem]
    exact ((s.acceptedSlot g r v).setQueue_writes _ _).word accepted fun b hb h => by
      unfold within at hb
      omega
  rw [word (by omega), word (by omega), word (by omega)]
  unfold State.word
  rw [s.acceptedSlot_mem]
  refine ⟨readWord_writeWord w2 (by rw [exchangeBytes_eq]; omega) _, ?_, ?_⟩
  · rw [readWord_writeWord_ne w2 (by omega), readWord_writeWord_ne w1 (by omega),
      readWord_writeWord w (by rw [exchangeBytes_eq]; omega)]
  · rw [readWord_writeWord_ne w2 (by omega), readWord_writeWord w1 (by rw [exchangeBytes_eq]; omega)]

theorem State.acceptedSlot_wf (w : Memory.wf s.mem = true) : Memory.wf (s.acceptedSlot g r v).mem = true := by
  rw [s.acceptedSlot_mem]
  exact Memory.wf_writeWord (Memory.wf_writeWord (Memory.wf_writeWord w _ _) _ _) _ _

end

/-! ### The cancel before acceptance (R34) -/

section
variable {s : State} {g : Slot} {cls : Option JobClass} {clamps : ClampFlags}

theorem State.cancelBeforeAccept_words (w : Memory.wf s.mem = true) :
    (s.cancelBeforeAccept g cls clamps).hasResult g .cancelled .beforeAccept ∧
      (s.cancelBeforeAccept g cls clamps).word (slotAddress g + 0x1C) = s.ctl.clock ∧
      (s.cancelBeforeAccept g cls clamps).word (slotAddress g + 0x18) =
        resultWord (outcomePair .cancelled .beforeAccept) (clampBits clamps) { accept := true } := by
  have hg := slotAddress_bounds g
  obtain ⟨result, -⟩ := State.writeResults_words (s := s) (g := g)
    (word := resultWord (outcomePair .cancelled .beforeAccept) (clampBits clamps) { accept := true }) (firstGrant := 0)
    (portWord := 0) (cls := cls) (r := {}) w
  have written := (s.writeResults_writes g (resultWord (outcomePair .cancelled .beforeAccept) (clampBits clamps)
    { accept := true }) 0 0 cls {}).wf w
  have stamped := State.putWord_wf written (slotAddress g + 0x1C) s.ctl.clock
  have word : (State.putWord (s.writeResults g (resultWord (outcomePair .cancelled .beforeAccept) (clampBits clamps)
      { accept := true }) 0 0 cls {}) (slotAddress g + 0x1C) s.ctl.clock).word (slotAddress g + 0x18) = _ :=
    (State.word_putWord_ne written (by omega) _).trans result
  unfold State.cancelBeforeAccept
  refine ⟨State.closeFinish_hasResult stamped word, ?_, ?_⟩
  · rw [State.closeFinish_word stamped (by omega)]
    exact State.word_putWord written (by omega) _
  · rw [State.closeFinish_word stamped (by omega), word]

theorem State.cancelBeforeAccept_talliesShown (wf : s.wellFormed) :
    (s.cancelBeforeAccept g cls clamps).talliesShown (stationOf g) :=
  State.talliesShown_of (((s.cancelBeforeAccept_kept g cls clamps).data wf).counters _)
    (State.closeFinish_tally (State.putWord_wf ((s.writeResults_writes g _ _ _ _ _).wf wf.memory) _ _))

end

theorem clampFlagsOf_iff {r : Request} {cls : JobClass} (h : r.cls = some cls) :
    ((clampFlagsOf r).urgency = true ↔ 3 < r.urgency) ∧
    ((clampFlagsOf r).copies = true ↔ cls = .print ∧ (r.copies = 0 ∨ 9 < r.copies)) ∧
    ((clampFlagsOf r).resolution = true ↔ cls = .scan ∧ 3 < r.resolution) ∧
    ((clampFlagsOf r).maxBytes = true ↔ cls = .scan ∧ r.maxBytes = 0) ∧
    ((clampFlagsOf r).duration = true ↔ cls = .hold ∧ (r.duration = 0 ∨ 3600 < r.duration)) := by
  simp [clampFlagsOf, h]

/-- Settles O28: the acceptance in its parts, or the cancel before it. -/
theorem passedRequestIsQueued : Obligations.PassedRequestIsQueued := by
  unfold Obligations.PassedRequestIsQueued
  intro s g v wf running free posted r valid
  have w := wf.memory
  obtain ⟨known, pool, -, parameters⟩ := State.validated valid
  have run : s.examine g = s.accept g := (State.examine_accepts free posted).trans (State.accept_running running)
  have walk (print : v.cls = .print) := State.validateParameters_print (v := v) (print ▸ parameters)
  have other (h : v.cls ≠ .print) : v.chain = [] := State.validateParameters_other parameters h
  have range : ∀ e ∈ v.chain, 1 ≤ e.block ∧ e.block ≤ 896 := by
    by_cases print : v.cls = .print
    · exact (walk print).2
    · rw [other print]
      exact fun e h => absurd h List.not_mem_nil
  refine ⟨fun print => (walk print).1, other, fun uncancelled => ?_, fun cancelled => ?_⟩
  · have queued : s.examine g = (s.enqueued g r v).review v.pool := by
      rw [run, ← s.enqueue_eq]
      unfold State.accept
      dsimp only
      rw [valid]
      exact if_neg (fun k => k uncancelled)
    obtain ⟨owner, stamp, result⟩ := State.enqueued_words (g := g) (r := r) (v := v) w
    have outcome := outcomePair_codes (s.slot g).codes.outcome (s.slot g).codes.detail
    have job := s.enqueued_job g r v
    obtain ⟨urgency, copies, resolution, maxBytes, duration⟩ := clampFlagsOf_iff known
    have ctl := s.enqueued_ctl g r v
    have accepted : (s.acceptedSlot g r v).ctl = s.ctl := rfl
    have acceptedPool : ((s.acceptedSlot g r v).job g).pool = v.pool := by
      rw [s.acceptedSlot_job, job]
      rfl
    refine ⟨s.enqueued g r v, queued, by rw [s.enqueued_slot], owner, stamp, ?_, ?_, by rw [s.enqueued_slot], ?_, ?_, ?_, ?_,
      ?_, fun q hq => ?_, s.enqueued_deadlines_none g r v, fun h => ?_, fun b => ⟨fun h => ?_, fun n h => ?_⟩,
      fun h e => s.enqueued_slot_ne g r v fun k => e (List.mem_singleton.mpr k), ctl, s.enqueued_ports g r v,
      s.enqueued_stats g r v, s.enqueued_stations g r v, s.enqueued_spare g r v, s.enqueued_mailboxes g r v,
      s.enqueued_notice g r v, s.enqueued_stationNotice g r v⟩
    · rw [result, resultWord_outcome]
      exact outcome.1
    · rw [result, resultWord_detail]
      exact outcome.2
    · rw [← acceptedPool]
      refine (State.setQueue_shown (State.acceptedSlot_wf w) _ _).congr (s.enqueued_queue g r v _) ?_
      unfold State.word
      rw [s.enqueued_mem]
      rfl
    · rw [result, resultWord_clamps _ _ (clampBits_lt _), job]
      rfl
    · rw [result, resultWord_accepted]
    · intro j
      have fresh : j = freshJob s.ctl.clock r v := job
      rw [fresh]
      exact ⟨known, rfl, rfl, pool, rfl, rfl, rfl, rfl, fun h => ⟨if_pos h, if_pos h, if_pos h⟩,
        fun h => ⟨if_pos h, if_pos h, if_pos h⟩, fun h => if_pos h, urgency, copies, resolution, maxBytes, duration,
        rfl, rfl, rfl, rfl, rfl, rfl, rfl, rfl, rfl⟩
    · exact State.joinQueue_joined acceptedPool rfl (s.enqueued_queue g r v _) fun x => by
        unfold State.waits
        rw [s.acceptedSlot_job, ctl, accepted]
    · rw [s.enqueued_queue, State.queue_joinQueue_ne _ (by rw [acceptedPool]; exact hq)]
      rfl
    · exact State.joinDeadlines_joined (w := (s.acceptedSlot g r v).joinQueue g) rfl (s.enqueued_deadlines g r v h) fun x => by
        have job : ((s.acceptedSlot g r v).joinQueue g).job x = (s.enqueued g r v).job x := s.acceptedSlot_job g r v x
        have clock : ((s.acceptedSlot g r v).joinQueue g).ctl = (s.enqueued g r v).ctl := ctl.symm
        unfold State.expiresIn
        rw [job, clock]
    · rw [s.enqueued_mark]
      exact State.lendAll_mark_outside v.chain h range
    · rw [s.enqueued_mark]
      exact State.lendAll_mark_loaned v.chain h
  · have cancel : s.examine g = s.cancelBeforeAccept g r.cls (clampFlagsOf r) := by
      rw [run]
      unfold State.accept
      dsimp only
      rw [valid]
      exact if_pos cancelled
    obtain ⟨has, stamp, result⟩ := State.cancelBeforeAccept_words (g := g) (cls := r.cls) (clamps := clampFlagsOf r) w
    rw [cancel]
    refine ⟨has, stamp, ?_, ?_, State.cancelBeforeAccept_queues _ _ _ _, State.cancelBeforeAccept_deadlines _ _ _ _,
      State.cancelBeforeAccept_marks _ _ _ _, State.cancelBeforeAccept_talliesShown wf, State.cancelBeforeAccept_ports _ _ _ _⟩
    · rw [result, resultWord_accepted]
    · rw [result, resultWord_clamps _ _ (clampBits_lt _)]

end Sys2Proof.Machine
end

/-! SUPPORT. Mailbox writes and the record for a new contact (R170 to R172, R198). -/
section
namespace Sys2Proof.Machine

/-! ### The words of a write (R170, R198) -/

/-- The three words of a mailbox record that the part writes. -/
def mailWords (st : Station) (r : Fin 4) (a : Nat) : Prop :=
  within (mailboxAddress st r) 4 a ∨ within (mailboxAddress st r + 0x08) 8 a

section
variable {s : State} {st : Station} {r : Fin 4} {seq : Half} {events position : Word}

theorem State.writeMailWords_only : Writes (mailWords st r) s.mem (s.writeMailWords st r seq events position).mem := by
  have put (t : State) {a : Nat} (v : Word) (h : ∀ b, within a 4 b → mailWords st r b) :
      Writes (mailWords st r) t.mem (t.putWord a v).mem := (t.putWord_writes a v).mono h
  unfold State.writeMailWords
  exact (((put s _ fun _ h => .inl h).trans (put _ _ fun b h => .inr (by unfold within at *; omega))).trans
    (put _ _ fun b h => .inr (by unfold within at *; omega))).trans (put _ _ fun _ h => .inl h)

theorem State.writeMailWords_words (w : Memory.wf s.mem = true) :
    (s.writeMailWords st r seq events position).word (mailboxAddress st r) = (seq + 2).setWidth 32 ∧
      (s.writeMailWords st r seq events position).word (mailboxAddress st r + 0x08) = events ∧
      (s.writeMailWords st r seq events position).word (mailboxAddress st r + 0x0C) = position := by
  have ha := mailboxAddress_bounds st r
  have w1 := State.putWord_wf w (mailboxAddress st r) ((seq + 1).setWidth 32)
  have w2 := State.putWord_wf w1 (mailboxAddress st r + 0x08) events
  have w3 := State.putWord_wf w2 (mailboxAddress st r + 0x0C) position
  unfold State.writeMailWords
  refine ⟨State.word_putWord w3 (by omega) _, ?_, ?_⟩
  · rw [State.word_putWord_ne w3 (by omega), State.word_putWord_ne w2 (by omega), State.word_putWord w1 (by omega)]
  · rw [State.word_putWord_ne w3 (by omega), State.word_putWord w2 (by omega)]

end

/-! ### The record after a write (R171) -/

section
variable {s : State} {st : Station} {r : Fin 4} {newlyTaken : Bool} {m : MailReport}

/-- A mailbox write changes one record, its words, and the station's notice. -/
theorem State.mailboxWrite_eq : ∃ n, s.mailboxWrite st r newlyTaken m =
    { (((s.writeMailWords st r (s.mailbox st r).seq
        (mailWord (some m.key) (mailAfter (s.mailbox st r) (s.replaces st r newlyTaken) m).events
          (mailAfter (s.mailbox st r) (s.replaces st r newlyTaken) m).synthetic m.zone)
        (place m.x 0 12 ||| place m.y 12 12 ||| place m.pressure 24 8)).setMailbox st r
          (mailAfter (s.mailbox st r) (s.replaces st r newlyTaken) m)) : State) with stationNotice := n } := by
  unfold State.mailboxWrite
  dsimp only
  split
  · exact ⟨_, rfl⟩
  · exact ⟨_, rfl⟩

theorem State.mailboxWrite_mailboxes : (s.mailboxWrite st r newlyTaken m).mailboxes =
    (s.setMailbox st r (mailAfter (s.mailbox st r) (s.replaces st r newlyTaken) m)).mailboxes := by
  obtain ⟨n, e⟩ := State.mailboxWrite_eq (s := s) (st := st) (r := r) (newlyTaken := newlyTaken) (m := m)
  rw [e]
  rfl

theorem State.mailboxWrite_mailbox : (s.mailboxWrite st r newlyTaken m).mailbox st r =
    mailAfter (s.mailbox st r) (s.replaces st r newlyTaken) m := by
  unfold State.mailbox
  rw [State.mailboxWrite_mailboxes]
  exact s.mailbox_setMailbox st r _

theorem State.mailboxWrite_mem : (s.mailboxWrite st r newlyTaken m).mem = (s.writeMailWords st r (s.mailbox st r).seq
    (mailWord (some m.key) (mailAfter (s.mailbox st r) (s.replaces st r newlyTaken) m).events
      (mailAfter (s.mailbox st r) (s.replaces st r newlyTaken) m).synthetic m.zone)
    (place m.x 0 12 ||| place m.y 12 12 ||| place m.pressure 24 8)).mem := by
  obtain ⟨n, e⟩ := State.mailboxWrite_eq (s := s) (st := st) (r := r) (newlyTaken := newlyTaken) (m := m)
  rw [e]
  rfl

theorem State.mailboxWrite_only : Writes (mailWords st r) s.mem (s.mailboxWrite st r newlyTaken m).mem := by
  rw [State.mailboxWrite_mem]
  exact State.writeMailWords_only

theorem State.mailboxWrite_words (w : Memory.wf s.mem = true) :
    (s.mailboxWrite st r newlyTaken m).word (mailboxAddress st r) = ((s.mailbox st r).seq + 2).setWidth 32 ∧
    (s.mailboxWrite st r newlyTaken m).word (mailboxAddress st r + 0x08) =
      mailWord (some m.key) (mailAfter (s.mailbox st r) (s.replaces st r newlyTaken) m).events
        (mailAfter (s.mailbox st r) (s.replaces st r newlyTaken) m).synthetic m.zone ∧
    (s.mailboxWrite st r newlyTaken m).word (mailboxAddress st r + 0x0C) =
      place m.x 0 12 ||| place m.y 12 12 ||| place m.pressure 24 8 := by
  unfold State.word
  rw [State.mailboxWrite_mem]
  exact State.writeMailWords_words w

end

theorem State.mailbox_setMailbox_ne (s : State) {st st' : Station} {r r' : Fin 4} (h : (st', r') ≠ (st, r)) (b : Mailbox) :
    (s.setMailbox st r b).mailbox st' r' = s.mailbox st' r' := by
  unfold State.mailbox State.setMailbox
  by_cases e : st' = st
  · subst e
    have ne : r.val ≠ r'.val := fun k => h (by rw [Fin.ext k])
    simp [ne]
  · have ne : st.val ≠ st'.val := fun k => e (Fin.ext k.symm)
    simp [ne]

theorem State.mailboxWrite_mailbox_ne {s : State} {st st' : Station} {r r' : Fin 4} {newlyTaken : Bool} {m : MailReport}
    (h : (st', r') ≠ (st, r)) : (s.mailboxWrite st r newlyTaken m).mailbox st' r' = s.mailbox st' r' := by
  unfold State.mailbox
  rw [State.mailboxWrite_mailboxes]
  exact s.mailbox_setMailbox_ne h _

theorem extract_place_off (v : Nat) {low n low' n' : Nat} (h : low + n ≤ low' ∨ low' + n' ≤ low) :
    (place v low n).extractLsb' low' n' = 0#n' := extract_place_apart v h

/-- The fields of the word with key, events, flag and zone (R198). -/
theorem mailWord_fields (p : Port) (i : Fin 10) (e : MailEvents) (synthetic : Bool) (zone : Nat) :
    let w := mailWord (some (p, i)) e synthetic zone
    field w 0 4 = i.val ∧ field w 4 4 = p.val ∧ field w 16 8 = zone % 256 ∧ w.getLsbD 8 = true ∧ w.getLsbD 9 = e.down ∧
      w.getLsbD 10 = e.moved ∧ w.getLsbD 11 = e.up ∧ w.getLsbD 12 = synthetic ∧ field w 13 3 = 0 ∧ field w 24 8 = 0 := by
  have hp := p.isLt
  have hi := i.isLt
  have bit (b : Bool) : (BitVec.ofNat 1 b.toNat).toNat = b.toNat := by cases b <;> rfl
  simp only [← field_one_beq]
  unfold field mailWord
  simp (disch := omega) only [BitVec.extractLsb'_or, extract_place_same, extract_place_off, BitVec.zero_or, BitVec.or_zero,
    BitVec.toNat_ofNat, bit]
  refine ⟨by omega, by omega, trivial, rfl, ?_, ?_, ?_, ?_, trivial, trivial⟩
  · cases e.down <;> rfl
  · cases e.moved <;> rfl
  · cases e.up <;> rfl
  · cases synthetic <;> rfl

theorem positionWord_fields {x y pressure : Nat} (hx : x ≤ 4095) (hy : y ≤ 4095) (hp : pressure ≤ 255) :
    let w := place x 0 12 ||| place y 12 12 ||| place pressure 24 8
    field w 0 12 = x ∧ field w 12 12 = y ∧ field w 24 8 = pressure := by
  unfold field
  simp (disch := omega) only [BitVec.extractLsb'_or, extract_place_same, extract_place_off, BitVec.zero_or, BitVec.or_zero,
    BitVec.toNat_ofNat]
  omega

theorem joinEvent_down (e : MailEvents) (phase : TouchPhase) : (joinEvent e phase).down = true ↔ phase = .down ∨ e.down = true := by
  cases phase <;> simp [joinEvent]

theorem joinEvent_moved (e : MailEvents) (phase : TouchPhase) : (joinEvent e phase).moved = true ↔ phase = .move ∨ e.moved = true := by
  cases phase <;> simp [joinEvent]

theorem joinEvent_up (e : MailEvents) (phase : TouchPhase) : (joinEvent e phase).up = true ↔ phase = .up ∨ e.up = true := by
  cases phase <;> simp [joinEvent]

/-! ### The record for a new contact (R172) -/

section
variable {s : State} {st : Station} {key : Port × Fin 10}

theorem State.recordFree_iff (r : Fin 4) : s.recordFree st r = true ↔ (s.mailbox st r).key = none ∨
    ((s.mailbox st r).lifted = true ∧ (s.word (mailboxAddress st r + 0x04)).extractLsb' 0 16 = (s.mailbox st r).seq) := by
  unfold State.recordFree State.mailAck
  simp only [Bool.or_eq_true, Bool.and_eq_true, Option.isNone_iff_eq_none, beq_iff_eq]

theorem State.heldRecord_none (h : ∀ k, (s.mailbox st k).key ≠ some key) :
    (fourIndices.find? fun r => (s.mailbox st r).key == some key) = none :=
  find?_finRange_eq_none_iff.mpr fun i => beq_eq_false_iff_ne.mpr (h i)

theorem State.chooseRecord_held {r : Fin 4} (h : (s.mailbox st r).key = some key) :
    ∃ k, (s.mailbox st k).key = some key ∧ s.chooseRecord st key = some (k, false) := by
  unfold State.chooseRecord
  cases found : fourIndices.find? fun r => (s.mailbox st r).key == some key with
  | some k => exact ⟨k, beq_iff_eq.mp (find?_finRange_eq_some_iff.mp found).1, rfl⟩
  | none => exact absurd h (beq_eq_false_iff_ne.mp (find?_finRange_eq_none_iff.mp found r))

theorem State.chooseRecord_new (h : ∀ k, (s.mailbox st k).key ≠ some key) :
    s.chooseRecord st key = (fourIndices.find? fun r => s.recordFree st r).map fun r => (r, true) := by
  unfold State.chooseRecord
  rw [State.heldRecord_none h]

end

/-- Settles O59: the record, its three words and the choice of a record. -/
theorem mailboxWritesKeepTheAck : Obligations.MailboxWritesKeepTheAck := by
  unfold Obligations.MailboxWritesKeepTheAck
  refine ⟨?_, ?_⟩
  · intro s st r newlyTaken m wf b replaced t after
    have ha := mailboxAddress_bounds st r
    have record : after = mailAfter b (s.replaces st r newlyTaken) m := State.mailboxWrite_mailbox
    have replace : s.replaces st r newlyTaken = true ↔ replaced := s.replaces_iff st r newlyTaken
    obtain ⟨seqWord, keyWord, positionWord⟩ := State.mailboxWrite_words (st := st) (r := r) (newlyTaken := newlyTaken) (m := m)
      wf.memory
    have fields := mailWord_fields m.key.1 m.key.2 after.events after.synthetic m.zone
    have shown : t.word (mailboxAddress st r + 0x08) = mailWord (some (m.key.1, m.key.2)) after.events after.synthetic m.zone := by
      rw [record]
      exact keyWord
    have ack : t.word (mailboxAddress st r + 0x04) = s.word (mailboxAddress st r + 0x04) :=
      State.mailboxWrite_only.word wf.memory fun c hc k => by
        unfold mailWords within at *
        omega
    rw [← shown] at fields
    obtain ⟨id, port, zone, held, down, moved, up, synthetic, none13, none24⟩ := fields
    have joined (old : Bool) (keep : Bool) : ((if keep = true then false else old) = true) ↔ (¬ keep = true ∧ old = true) := by
      cases keep <;> simp
    refine ⟨?_, ?_, ?_, ?_, ?_, ?_, ?_, ?_, ?_, seqWord, ack, fun hx hy hp => ?_, id, port, zone, held, down, moved, up,
      synthetic, none13, none24, fun st' r' h => State.mailboxWrite_mailbox_ne h, State.mailboxWrite_only.kept wf.memory, ?_⟩
    · rw [record]; rfl
    · rw [record]; rfl
    · intro h; rw [record]; unfold mailAfter; rw [h]
    · intro h; rw [record]; unfold mailAfter; rw [h]
    · intro h; rw [record]; unfold mailAfter; rw [h]
    · rw [record, ← replace]
      refine (joinEvent_down _ _).trans ?_
      cases s.replaces st r newlyTaken <;> simp
    · rw [record, ← replace]
      refine (joinEvent_moved _ _).trans ?_
      cases s.replaces st r newlyTaken <;> simp
    · rw [record, ← replace]
      refine (joinEvent_up _ _).trans ?_
      cases s.replaces st r newlyTaken <;> simp
    · rw [record, ← replace]
      unfold mailAfter
      cases s.replaces st r newlyTaken <;> simp [or_comm]
    · rw [positionWord]
      exact positionWord_fields hx hy hp
    · obtain ⟨n, e⟩ := State.mailboxWrite_eq (s := s) (st := st) (r := r) (newlyTaken := newlyTaken) (m := m)
      show s.mailboxWrite st r newlyTaken m = { s with
        mem := (s.mailboxWrite st r newlyTaken m).mem, mailboxes := (s.mailboxWrite st r newlyTaken m).mailboxes,
        stationNotice := (s.mailboxWrite st r newlyTaken m).stationNotice }
      rw [e]
      rfl
  · intro s st key holds free
    refine ⟨fun r h => State.chooseRecord_held h, fun r unheld isFree lowest => ?_, fun unheld busy => ?_⟩
    · have found : (fourIndices.find? fun k => s.recordFree st k) = some r := find?_finRange_eq_some_iff.mpr
        ⟨(State.recordFree_iff r).mpr isFree, fun k h => Bool.eq_false_iff.mpr fun e => lowest k h ((State.recordFree_iff k).mp e)⟩
      rw [State.chooseRecord_new unheld, found]
      rfl
    · have found : (fourIndices.find? fun k => s.recordFree st k) = none := find?_finRange_eq_none_iff.mpr
        fun k => Bool.eq_false_iff.mpr fun e => busy k ((State.recordFree_iff k).mp e)
      rw [State.chooseRecord_new unheld, found]
      rfl

end Sys2Proof.Machine
end

/-! SUPPORT. Lifted contacts: the synthetic UPs that their records take, and the entries that they leave (R170, R174). -/
section
namespace Sys2Proof.Machine

/-! ### The records that lifts write (R174) -/

/-- A captured contact with its key. -/
abbrev LiftedContact := (Port × Fin 10) × Capture

/-- A captured contact has the mailbox record. -/
def LiftedContact.uses (x : LiftedContact) (st : Station) (r : Fin 4) : Bool := decide (x.2.station = st ∧ x.2.record = r)

theorem LiftedContact.uses_iff {x : LiftedContact} {st : Station} {r : Fin 4} :
    x.uses st r = true ↔ x.2.station = st ∧ x.2.record = r := decide_eq_true_iff

theorem mailWords_apart {st st' : Station} {r r' : Fin 4} (h : ¬ (st' = st ∧ r' = r)) {a : Nat} (k : mailWords st' r' a) :
    ¬ mailWords st r a := by
  intro m
  have hr := r.isLt
  have hr' := r'.isLt
  have : ¬ (st'.val = st.val ∧ r'.val = r.val) := fun e => h ⟨Fin.ext e.1, Fin.ext e.2⟩
  unfold mailWords within mailboxAddress at k m
  omega

theorem mailWords_bytes {st : Station} {r : Fin 4} {a : Nat} (h : mailWords st r a) : mailboxBytes st a := ⟨r, h⟩

/-- Some contacts have been lifted one after the other, each by a synthetic UP to its record. -/
structure Lifts (s t : State) (l : List LiftedContact) : Prop where
  writes : Writes (fun a => ∃ x ∈ l, mailWords x.2.station x.2.record a) s.mem t.mem
  others : ∀ st r, (∀ x ∈ l, x.uses st r = false) → t.mailbox st r = s.mailbox st r
  lifted : ∀ x ∈ l, (t.mailbox x.2.station x.2.record).lifted = true ∧ (t.mailbox x.2.station x.2.record).events.up = true ∧
    (t.mailbox x.2.station x.2.record).synthetic = true
  once : ∀ x, l.filter (LiftedContact.uses · x.2.station x.2.record) = [x] →
    (t.mailbox x.2.station x.2.record).seq = (s.mailbox x.2.station x.2.record).seq + 2 ∧
    (t.mailbox x.2.station x.2.record).key = some x.1 ∧
    (Memory.wf s.mem = true →
      t.word (mailboxAddress x.2.station x.2.record) = ((s.mailbox x.2.station x.2.record).seq + 2).setWidth 32 ∧
      t.word (mailboxAddress x.2.station x.2.record + 0x0C) = place x.2.x 0 12 ||| place x.2.y 12 12 ||| place 0 24 8)

theorem Lifts.nil {s t : State} (mem : t.mem = s.mem) (mailboxes : t.mailboxes = s.mailboxes) : Lifts s t [] where
  writes := by rw [mem]; exact .refl _ _
  others st r _ := by unfold State.mailbox; rw [mailboxes]
  lifted x h := absurd h List.not_mem_nil
  once x h := by cases h

/-- Outside the records of the lifted contacts no word of a record changes. -/
theorem Lifts.words {s t : State} {l : List LiftedContact} (h : Lifts s t l) (w : Memory.wf s.mem = true) {st : Station} {r : Fin 4}
    (others : ∀ x ∈ l, x.uses st r = false) {a : Nat} (ha : ∀ b, within a 4 b → mailWords st r b) : t.word a = s.word a :=
  h.writes.word w fun b hb ⟨x, hx, k⟩ => mailWords_apart (fun e => by
    have := others x hx
    rw [LiftedContact.uses_iff.mpr e] at this
    cases this) k (ha b hb)

theorem Lifts.trans {s t u : State} {l m : List LiftedContact} (h : Lifts s t l) (k : Lifts t u m) : Lifts s u (l ++ m) where
  writes := (h.writes.mono fun _ ⟨x, hx, a⟩ => ⟨x, List.mem_append_left _ hx, a⟩).trans
    (k.writes.mono fun _ ⟨x, hx, a⟩ => ⟨x, List.mem_append_right _ hx, a⟩)
  others st r none := (k.others st r fun x hx => none x (List.mem_append_right _ hx)).trans
    (h.others st r fun x hx => none x (List.mem_append_left _ hx))
  lifted x hx := by
    by_cases again : ∃ y ∈ m, y.uses x.2.station x.2.record = true
    · obtain ⟨y, hy, uses⟩ := again
      obtain ⟨station, record⟩ := LiftedContact.uses_iff.mp uses
      rw [← station, ← record]
      exact k.lifted y hy
    · have none : ∀ y ∈ m, y.uses x.2.station x.2.record = false := fun y hy =>
        Bool.eq_false_iff.mpr fun uses => again ⟨y, hy, uses⟩
      rw [k.others _ _ none]
      rcases List.mem_append.mp hx with hx | hx
      · exact h.lifted x hx
      · exact absurd (LiftedContact.uses_iff.mpr ⟨rfl, rfl⟩) (Bool.eq_false_iff.mp (none x hx))
  once x hx := by
    have idle {n : List LiftedContact} (e : n.filter (LiftedContact.uses · x.2.station x.2.record) = []) :
        ∀ y ∈ n, y.uses x.2.station x.2.record = false := fun y hy =>
      Bool.eq_false_iff.mpr (List.filter_eq_nil_iff.mp e y hy)
    rw [List.filter_append, List.append_eq_singleton_iff] at hx
    rcases hx with ⟨first, second⟩ | ⟨first, second⟩
    · have none := idle first
      obtain ⟨seq, key, words⟩ := k.once x second
      rw [h.others _ _ none] at seq words
      exact ⟨seq, key, fun w => words (h.writes.wf w)⟩
    · have none := idle second
      obtain ⟨seq, key, words⟩ := h.once x first
      rw [k.others _ _ none]
      refine ⟨seq, key, fun w => ?_⟩
      rw [k.words (h.writes.wf w) none fun b hb => .inl hb,
        k.words (h.writes.wf w) none fun b hb => .inr (by unfold within at *; omega)]
      exact words w

theorem State.syntheticUp_lifts (s : State) (p : Port) (i : Fin 10) (c : Capture) :
    Lifts s (s.syntheticUp p i c) [((p, i), c)] where
  writes := State.mailboxWrite_only.mono fun a h => ⟨_, List.mem_singleton.mpr rfl, h⟩
  others st r none := State.mailboxWrite_mailbox_ne fun e => by
    have := none _ (List.mem_singleton.mpr rfl)
    obtain ⟨rfl, rfl⟩ := Prod.mk.inj e
    rw [LiftedContact.uses_iff.mpr ⟨rfl, rfl⟩] at this
    cases this
  lifted x hx := by
    obtain rfl := List.mem_singleton.mp hx
    unfold State.syntheticUp
    dsimp only
    rw [State.mailboxWrite_mailbox]
    exact ⟨rfl, rfl, Bool.or_true _⟩
  once x hx := by
    have mem : x ∈ [((p, i), c)] := by
      have : x ∈ List.filter (LiftedContact.uses · x.2.station x.2.record) [((p, i), c)] := hx ▸ List.mem_singleton.mpr rfl
      exact (List.mem_filter.mp this).1
    obtain rfl := List.mem_singleton.mp mem
    unfold State.syntheticUp
    dsimp only
    rw [State.mailboxWrite_mailbox]
    refine ⟨rfl, rfl, fun w => ?_⟩
    obtain ⟨seq, -, position⟩ := State.mailboxWrite_words (st := c.station) (r := c.record) (newlyTaken := false)
      (m := { key := (p, i), zone := c.zone, phase := .up, synthetic := true, x := c.x, y := c.y, pressure := 0 }) w
    exact ⟨seq, position⟩

/-! ### The entries that lifts leave (R174) -/

/-- The capture of an entry that an event lifts. -/
def Contact.taken (zones holds : Bool) : Contact → Option Capture
  | .zone c => if zones then some c else Option.none
  | .hold c => if holds then some c else Option.none
  | _ => Option.none

/-- An entry after an event that lifts. -/
def Contact.after (zones holds : Bool) (c left : Contact) : Contact := if (c.taken zones holds).isSome then left else c

theorem Contact.taken_zones : Contact.taken true false = Contact.zoned := by
  funext c
  cases c <;> rfl

theorem Contact.taken_holds : Contact.taken false true = Contact.held := by
  funext c
  cases c <;> rfl

theorem Contact.taken_both : Contact.taken true true = Contact.captured := by
  funext c
  cases c <;> rfl

section
variable {s : State} {zones holds : Bool} {p : Port} {left : Contact} {i : Fin 10}

theorem State.liftEntry_taken {c : Capture} (h : (s.contact p i).taken zones holds = some c) :
    State.liftEntry zones holds p left s i = (s.syntheticUp p i c).setContact p i left := by
  unfold State.liftEntry
  cases e : s.contact p i with
  | zone d =>
    rw [e] at h
    simp only [Contact.taken, Option.ite_none_right_eq_some] at h
    obtain ⟨z, h⟩ := h
    obtain rfl := Option.some.inj h
    exact if_pos z
  | hold d =>
    rw [e] at h
    simp only [Contact.taken, Option.ite_none_right_eq_some] at h
    obtain ⟨z, h⟩ := h
    obtain rfl := Option.some.inj h
    exact if_pos z
  | none => rw [e] at h; cases h
  | orphan => rw [e] at h; cases h
  | dropped => rw [e] at h; cases h

theorem State.liftEntry_left (h : (s.contact p i).taken zones holds = none) : State.liftEntry zones holds p left s i = s := by
  unfold State.liftEntry
  cases e : s.contact p i with
  | zone d =>
    rw [e] at h
    refine if_neg fun z => ?_
    simp [Contact.taken, z] at h
  | hold d =>
    rw [e] at h
    refine if_neg fun z => ?_
    simp [Contact.taken, z] at h
  | none => rfl
  | orphan => rfl
  | dropped => rfl

/-- One entry's lift is at most one synthetic UP. -/
theorem State.liftEntry_lifts : Lifts s (State.liftEntry zones holds p left s i)
    (((s.contact p i).taken zones holds).map fun c => ((p, i), c)).toList := by
  cases h : (s.contact p i).taken zones holds with
  | none =>
    rw [State.liftEntry_left h]
    exact .nil rfl rfl
  | some c =>
    rw [State.liftEntry_taken h]
    exact (s.syntheticUp_lifts p i c).trans (m := []) (.nil (State.setContact_mem _ _ _ _) (State.setContact_mailboxes _ _ _ _))

theorem State.liftEntry_setPort : ∃ t : State, t.ports = s.ports ∧ State.liftEntry zones holds p left s i =
    t.setPort p { s.port p with contacts := (s.port p).contacts.set i.val ((s.contact p i).after zones holds left) } := by
  unfold Contact.after
  cases h : (s.contact p i).taken zones holds with
  | none =>
    refine ⟨s, rfl, ?_⟩
    have same : (s.port p).contacts.set i.val (s.contact p i) = (s.port p).contacts := Vector.set_getElem_self _
    rw [State.liftEntry_left h, Option.isSome_none, if_neg Bool.false_ne_true, same]
    exact (s.setPort_self p).symm
  | some c =>
    have ports : (s.syntheticUp p i c).ports = s.ports := by
      unfold State.syntheticUp
      rw [State.mailboxWrite_ports]
    have port : (s.syntheticUp p i c).port p = s.port p := by
      unfold State.port
      rw [ports]
    refine ⟨s.syntheticUp p i c, ports, ?_⟩
    rw [State.liftEntry_taken h]
    unfold State.setContact State.modifyPort
    rw [port]
    rfl

theorem State.liftEntry_port_ne {r : Port} (h : r ≠ p) : (State.liftEntry zones holds p left s i).port r = s.port r := by
  obtain ⟨t, ports, e⟩ := State.liftEntry_setPort (s := s) (zones := zones) (holds := holds) (p := p) (left := left) (i := i)
  rw [e, t.port_setPort_ne h]
  unfold State.port
  rw [ports]

theorem State.liftEntry_port : (State.liftEntry zones holds p left s i).port p =
    { s.port p with contacts := (s.port p).contacts.set i.val ((s.contact p i).after zones holds left) } := by
  obtain ⟨t, -, e⟩ := State.liftEntry_setPort (s := s) (zones := zones) (holds := holds) (p := p) (left := left) (i := i)
  rw [e, t.port_setPort]

theorem State.liftEntry_contact_ne {k : Fin 10} (h : k ≠ i) :
    (State.liftEntry zones holds p left s i).contact p k = s.contact p k := by
  unfold State.contact
  rw [State.liftEntry_port]
  exact Vector.getElem_set_ne i.isLt k.isLt fun e => h (Fin.ext e.symm)

end

theorem tenIndices_nodup : tenIndices.Nodup := List.nodup_finRange 10

theorem mem_tenIndices (i : Fin 10) : i ∈ tenIndices := List.mem_finRange i

section
variable (s : State) (p : Port) (zones holds : Bool) (left : Contact)

/-- The contacts that an event lifts, in the order of their ids. -/
def State.liftedContacts (l : List (Fin 10)) : List LiftedContact :=
  l.flatMap fun i => (((s.contact p i).taken zones holds).map fun c => ((p, i), c)).toList

variable {s p zones holds left}

theorem State.mem_liftedContacts {l : List (Fin 10)} {x : LiftedContact} : x ∈ s.liftedContacts p zones holds l ↔
    x.1.1 = p ∧ x.1.2 ∈ l ∧ (s.contact p x.1.2).taken zones holds = some x.2 := by
  unfold State.liftedContacts
  simp only [List.mem_flatMap, Option.mem_toList, Option.map_eq_some_iff]
  constructor
  · rintro ⟨i, hi, c, h, rfl⟩
    exact ⟨rfl, hi, h⟩
  · rintro ⟨rfl, hi, h⟩
    exact ⟨x.1.2, hi, x.2, h, rfl⟩

theorem State.liftedContacts_nodup {l : List (Fin 10)} (h : l.Nodup) : (s.liftedContacts p zones holds l).Nodup := by
  refine List.nodup_flatMap.mpr ⟨fun i _ => ?_, h.imp fun {i k} ne => ?_⟩
  · cases (s.contact p i).taken zones holds <;> simp
  · intro x hi hk
    simp only [Option.mem_toList, Option.map_eq_some_iff] at hi hk
    obtain ⟨c, -, rfl⟩ := hi
    obtain ⟨d, -, e⟩ := hk
    exact ne (congrArg (fun x : LiftedContact => x.1.2) e).symm

theorem State.liftFold_lifts {l : List (Fin 10)} (h : l.Nodup) {t : State} (same : ∀ i ∈ l, t.contact p i = s.contact p i) :
    Lifts t (l.foldl (State.liftEntry zones holds p left) t) (s.liftedContacts p zones holds l) := by
  induction l generalizing t with
  | nil => exact .nil rfl rfl
  | cons i rest ih =>
    obtain ⟨out, nodup⟩ := List.nodup_cons.mp h
    have step := State.liftEntry_lifts (s := t) (zones := zones) (holds := holds) (p := p) (left := left) (i := i)
    rw [same i List.mem_cons_self] at step
    exact step.trans (ih nodup fun k hk => (State.liftEntry_contact_ne fun e : k = i => out (e ▸ hk)).trans
      (same k (List.mem_cons_of_mem _ hk)))

theorem State.liftFold_port_ne {r : Port} (h : r ≠ p) (l : List (Fin 10)) :
    (l.foldl (State.liftEntry zones holds p left) s).port r = s.port r := by
  induction l generalizing s with
  | nil => rfl
  | cons i rest ih => exact ih.trans (State.liftEntry_port_ne h)

/-- A fold of lifts changes the entries it passes, one by one. -/
theorem State.liftFold_port {l : List (Fin 10)} (h : l.Nodup) : ∃ contacts : Vector Contact 10,
    (l.foldl (State.liftEntry zones holds p left) s).port p = { s.port p with contacts } ∧
      ∀ i : Fin 10, contacts[i.val] = if i ∈ l then (s.contact p i).after zones holds left else s.contact p i := by
  induction l generalizing s with
  | nil => exact ⟨_, rfl, fun i => rfl⟩
  | cons i rest ih =>
    obtain ⟨out, nodup⟩ := List.nodup_cons.mp h
    obtain ⟨contacts, port, entry⟩ := ih (s := State.liftEntry zones holds p left s i) nodup
    refine ⟨contacts, by rw [List.foldl_cons, port, State.liftEntry_port], fun k => ?_⟩
    rw [entry k]
    by_cases e : k = i
    · subst e
      rw [if_neg out, if_pos List.mem_cons_self]
      unfold State.contact
      rw [State.liftEntry_port]
      exact Vector.getElem_set_self _
    · simp only [State.liftEntry_contact_ne e, List.mem_cons, e, false_or]

variable (s p zones holds left)

theorem State.liftEntries_lifts : Lifts s (s.liftEntries p zones holds left) (s.liftedContacts p zones holds tenIndices) :=
  State.liftFold_lifts tenIndices_nodup fun _ _ => rfl

theorem State.liftEntries_port_ne {r : Port} (h : r ≠ p) : (s.liftEntries p zones holds left).port r = s.port r :=
  State.liftFold_port_ne h _

theorem State.liftEntries_port : (s.liftEntries p zones holds left).port p =
    { s.port p with contacts := (s.port p).contacts.map fun c => c.after zones holds left } := by
  obtain ⟨contacts, port, entry⟩ := State.liftFold_port (s := s) (p := p) (zones := zones) (holds := holds) (left := left)
    tenIndices_nodup
  have all : contacts = (s.port p).contacts.map fun c => c.after zones holds left := Vector.ext fun i hi => by
    rw [Vector.getElem_map]
    exact (entry ⟨i, hi⟩).trans (if_pos (mem_tenIndices _))
  rw [← all]
  exact port

theorem State.liftEntries_contact (i : Fin 10) :
    (s.liftEntries p zones holds left).contact p i = (s.contact p i).after zones holds left := by
  unfold State.contact
  rw [s.liftEntries_port]
  exact Vector.getElem_map _ _

theorem State.liftEntries_only : Writes (fun a => ∃ st, mailboxBytes st a) s.mem (s.liftEntries p zones holds left).mem :=
  (s.liftEntries_lifts p zones holds left).writes.mono fun _ ⟨x, _, h⟩ => ⟨x.2.station, mailWords_bytes h⟩

end

/-! ### What a lift leaves in its record -/

/-- Lifts of exactly the contacts that `which` selects on some panels. -/
theorem Lifts.written {s t : State} {l : List LiftedContact} (h : Lifts s t l) (nodup : l.Nodup) (w : Memory.wf s.mem = true)
    {panels : List Port} {which : Contact → Option Capture}
    (mem : ∀ x, x ∈ l ↔ x.1.1 ∈ panels ∧ which (s.contact x.1.1 x.1.2) = some x.2) : s.liftsWritten t panels which := by
  intro p hp i c hc
  have listed : ((p, i), c) ∈ l := (mem _).mpr ⟨hp, hc⟩
  obtain ⟨lifted, up, synthetic⟩ := h.lifted _ listed
  refine ⟨lifted, up, synthetic, fun only => ?_⟩
  have filter : l.filter (LiftedContact.uses · c.station c.record) = [((p, i), c)] := by
    have all : ∀ x ∈ l.filter (LiftedContact.uses · c.station c.record), x = ((p, i), c) := fun x hx => by
      obtain ⟨hx, uses⟩ := List.mem_filter.mp hx
      obtain ⟨station, record⟩ := LiftedContact.uses_iff.mp uses
      obtain ⟨panel, held⟩ := (mem x).mp hx
      obtain ⟨e1, e2⟩ := only x.1.1 panel x.1.2 x.2 held station record
      rw [e1, e2, hc] at held
      exact Prod.ext (Prod.ext e1 e2) (Option.some.inj held).symm
    have present : ((p, i), c) ∈ l.filter (LiftedContact.uses · c.station c.record) :=
      List.mem_filter.mpr ⟨listed, LiftedContact.uses_iff.mpr ⟨rfl, rfl⟩⟩
    exact List.perm_singleton.mp ((List.perm_ext_iff_of_nodup (nodup.filter _) (List.nodup_singleton _)).mpr fun x =>
      ⟨fun hx => List.mem_singleton.mpr (all x hx), fun hx => (List.mem_singleton.mp hx) ▸ present⟩)
  obtain ⟨seq, key, words⟩ := h.once ((p, i), c) filter
  obtain ⟨seqWord, position⟩ := words w
  exact ⟨seq, key, seqWord, position⟩

/-- The lifts of one panel show in its contacts' records. -/
theorem State.liftEntries_written {s : State} (w : Memory.wf s.mem = true) (p : Port) (zones holds : Bool) (left : Contact) :
    s.liftsWritten (s.liftEntries p zones holds left) [p] (Contact.taken zones holds) :=
  (s.liftEntries_lifts p zones holds left).written (State.liftedContacts_nodup tenIndices_nodup) w fun x => by
    rw [State.mem_liftedContacts, List.mem_singleton]
    constructor
    · rintro ⟨panel, -, h⟩
      exact ⟨panel, by rw [panel]; exact h⟩
    · rintro ⟨panel, h⟩
      exact ⟨panel, mem_tenIndices _, by rw [← panel]; exact h⟩

theorem State.liftsWritten.congr {s s' t u : State} {panels : List Port} {which : Contact → Option Capture}
    (h : s'.liftsWritten u panels which) (contacts : ∀ p ∈ panels, ∀ i, s.contact p i = s'.contact p i)
    (before : s.mailboxes = s'.mailboxes) (after : t.mailboxes = u.mailboxes)
    (words : ∀ st r x, x ≤ 12 → t.word (mailboxAddress st r + x) = u.word (mailboxAddress st r + x)) :
    s.liftsWritten t panels which := by
  intro p hp i c hc
  have b : s.mailbox c.station c.record = s'.mailbox c.station c.record := by unfold State.mailbox; rw [before]
  have m : t.mailbox c.station c.record = u.mailbox c.station c.record := by unfold State.mailbox; rw [after]
  obtain ⟨lifted, up, synthetic, once⟩ := h p hp i c (by rw [← contacts p hp]; exact hc)
  dsimp only
  rw [b, m]
  refine ⟨lifted, up, synthetic, fun only => ?_⟩
  obtain ⟨seq, key, seqWord, position⟩ := once fun r hr k d hd => only r hr k d (by rw [contacts r hr]; exact hd)
  exact ⟨seq, key, (words _ _ 0 (by omega)).trans seqWord, (words _ _ 0x0C (by omega)).trans position⟩

end Sys2Proof.Machine
end

/-! SUPPORT. A service that ends with a finish and leaves its port FREE, and the cancel byte (R36 to R38, R113, R118, R158,
R174, R178). -/
section
namespace Sys2Proof.Machine

/-! ### Mirrors that stand while their words do -/

theorem State.talliesShown.congr {t u : State} {st : Station} (h : u.talliesShown st) (counters : t.counters st = u.counters st)
    (word : t.word (stationAddress st + 0x08) = u.word (stationAddress st + 0x08)) : t.talliesShown st := by
  unfold State.talliesShown at *
  rw [counters, word]
  exact h

theorem State.scoresShown.congr {t u : State} {st : Station} (h : u.scoresShown st) (counters : t.counters st = u.counters st)
    (word : t.word (stationAddress st + 0x0C) = u.word (stationAddress st + 0x0C)) : t.scoresShown st := by
  unfold State.scoresShown at *
  rw [counters, word]
  exact h

theorem State.portShown.congr {t u : State} {p : Port} (h : u.portShown p) (port : t.port p = u.port p)
    (word : t.word (portAddress p + 0x08) = u.word (portAddress p + 0x08)) : t.portShown p := by
  unfold State.portShown at *
  rw [port, word]
  exact h

theorem portStateCode_lt (x : PortState) : portStateCode x < 256 := by cases x <;> decide

theorem conditionCode_lt (c : Condition) : conditionCode c < 256 := by cases c <;> decide

theorem portMirrorWord_fields {x : PortRecord} (h : x.capability ≤ 10) :
    field (portMirrorWord x) 0 8 = portStateCode x.state ∧ field (portMirrorWord x) 8 8 = conditionCode x.condition ∧
      field (portMirrorWord x) 16 8 = x.capability := by
  have state := portStateCode_lt x.state
  have condition := conditionCode_lt x.condition
  unfold field portMirrorWord
  simp (disch := omega) only [BitVec.extractLsb'_or, extract_place_same, extract_place_off, BitVec.zero_or, BitVec.or_zero,
    BitVec.toNat_ofNat]
  omega

theorem State.portShown_of {t : State} {p : Port} (h : (t.port p).capability ≤ 10)
    (word : t.word (portAddress p + 0x08) = portMirrorWord (t.port p)) : t.portShown p := by
  unfold State.portShown
  rw [word]
  exact portMirrorWord_fields h

/-- A port that is changed with its mirrors shows its state, condition and capability (R113). -/
theorem State.updatePort_shown {s : State} (w : Memory.wf s.mem = true) {p : Port} {f : PortRecord → PortRecord}
    (h : (f (s.port p)).capability ≤ 10) : (s.updatePort p f).portShown p := by
  have hp := portAddress_bounds p
  refine State.portShown_of (by rw [State.port_updatePort]; exact h) ?_
  rw [State.port_updatePort]
  unfold State.updatePort State.mirrorPort
  rw [State.word_putWord (s := s.modifyPort p f) w (by omega), State.port_modifyPort]

/-- The words outside a port's mirror word stand. -/
theorem State.updatePort_word {s : State} (w : Memory.wf s.mem = true) {p : Port} {f : PortRecord → PortRecord} {a : Nat}
    (h : a + 4 ≤ portAddress p + 0x08 ∨ portAddress p + 0x0C ≤ a) : (s.updatePort p f).word a = s.word a :=
  (State.updatePort_writes s p f).word w fun b hb hk => by
    unfold portMirror within at *
    omega

/-! ### A finish that frees the port (R118) -/

section
variable {s : State} {p : Port} {g : Slot} {o : JobOutcome} {d : Detail} {reported : Option Word}

theorem State.releasePort_port (s : State) (p : Port) : (s.releasePort p).port p = (s.port p).ended := s.port_updatePort p _

theorem State.releasePort_port_ne (s : State) {p r : Port} (h : r ≠ p) : (s.releasePort p).port r = s.port r :=
  s.port_updatePort_ne h _

theorem State.releasePort_word (w : Memory.wf s.mem = true) {a : Nat}
    (h : a + 4 ≤ portAddress p + 0x08 ∨ portAddress p + 0x0C ≤ a) : (s.releasePort p).word a = s.word a :=
  State.updatePort_word w h

theorem State.releasePort_writes (s : State) (p : Port) : Writes (portMirror p) s.mem (s.releasePort p).mem :=
  s.updatePort_writes p _

theorem State.releasePort_shown (wf : s.wellFormed) : (s.releasePort p).portShown p :=
  State.updatePort_shown wf.memory (wf.port p).capability

theorem State.finish_port (r : Port) : (s.finish g o d reported).port r = s.port r := by
  unfold State.port
  rw [State.finish_ports]

theorem State.finish_wf (w : Memory.wf s.mem = true) : Memory.wf (s.finish g o d reported).mem = true :=
  State.finish_writes.wf w

theorem State.finishScan_port : (s.finishScan p g o d reported).port p = (s.port p).ended := by
  unfold State.finishScan
  rw [State.releasePort_port, State.finish_port]

theorem State.finishScan_portsKept : s.portsKept (s.finishScan p g o d reported) [p] := fun r h => by
  unfold State.finishScan
  rw [State.releasePort_port_ne _ fun e => h (List.mem_singleton.mpr e), State.finish_port]

/-- Outside the port's mirror word the words are those of the finish. -/
theorem State.finishScan_word (w : Memory.wf s.mem = true) {a : Nat}
    (h : a + 4 ≤ portAddress p + 0x08 ∨ portAddress p + 0x0C ≤ a) :
    (s.finishScan p g o d reported).word a = (s.finish g o d reported).word a :=
  State.releasePort_word (State.finish_wf w) h

theorem State.finishScan_high (w : Memory.wf s.mem = true) {a : Nat} (h : 0x0280 ≤ a) :
    (s.finishScan p g o d reported).word a = (s.finish g o d reported).word a :=
  State.finishScan_word w (by have := portAddress_bounds p; omega)

theorem State.finishScan_shown (wf : s.wellFormed) : (s.finishScan p g o d reported).portShown p :=
  State.releasePort_shown ((s.finish_kept g o d reported).data wf)

theorem State.finishScan_slots : (s.finishScan p g o d reported).slots =
    s.slots.set g.val { s.slot g with state := .finished, codes := { outcome := o, detail := d } } := by
  unfold State.finishScan
  rw [State.releasePort_slots, State.finish_slots]

theorem State.finishScan_slot : (s.finishScan p g o d reported).slot g =
    { s.slot g with state := .finished, codes := { outcome := o, detail := d } } := by
  unfold State.slot
  rw [State.finishScan_slots]
  exact Vector.getElem_set_self _

theorem State.finishScan_job : (s.finishScan p g o d reported).job g = s.job g := by
  unfold State.job
  rw [State.finishScan_slot]

theorem State.finishScan_slotsKept : s.slotsKept (s.finishScan p g o d reported) [g] := fun h e => by
  unfold State.slot
  rw [State.finishScan_slots]
  exact Vector.getElem_set_ne _ _ fun k => e (List.mem_singleton.mpr (Fin.ext k.symm))

theorem State.finishScan_counters (st : Station) :
    (s.finishScan p g o d reported).counters st = (s.finish g o d reported).counters st := by
  unfold State.finishScan State.counters
  simp only [State.releasePort_stations]

theorem State.finishScan_stationsKept : s.stationsKept (s.finishScan p g o d reported) [stationOf g] := fun st h => by
  rw [State.finishScan_counters]
  exact State.finish_stationsKept st h

theorem State.finishScan_hasResult (w : Memory.wf s.mem = true) : (s.finishScan p g o d reported).hasResult g o d := by
  have hg := slotAddress_bounds g
  refine (State.finish_hasResult w).congr ?_ (State.finishScan_high w (by omega)) (State.finishScan_high w (by omega)) ?_
  · rw [State.finishScan_slot, State.finish_slot]
  · unfold State.finishScan
    rw [State.releasePort_stationNotice]
    exact BitVec.or_self

theorem State.finishScan_talliesShown (wf : s.wellFormed) : (s.finishScan p g o d reported).talliesShown (stationOf g) :=
  (State.finish_talliesShown wf).congr (State.finishScan_counters _)
    (State.finishScan_high wf.memory (by have := stationAddress_bounds (stationOf g); omega))

theorem State.finishScan_scoresShown (wf : s.wellFormed) (h : (s.slot g).state = .serving) :
    (s.finishScan p g o d reported).scoresShown (stationOf g) :=
  (State.finish_scoresShown wf h).congr (State.finishScan_counters _)
    (State.finishScan_high wf.memory (by have := stationAddress_bounds (stationOf g); omega))

theorem State.finishScan_marks (h : (s.job g).cls ≠ some .print) : (s.finishScan p g o d reported).marks = s.marks := by
  unfold State.finishScan
  rw [State.releasePort_marks, State.finish_marks h]

theorem State.finishScan_writes :
    Writes (fun a => finishBytes g a ∨ stationMirrors (stationOf g) a ∨ portMirror p a) s.mem (s.finishScan p g o d reported).mem :=
  (State.finish_writes.mono fun _ h => h.imp id .inl).trans ((State.releasePort_writes _ p).mono fun _ h => .inr (.inr h))

theorem State.finishScan_spare : (s.finishScan p g o d reported).spare = s.spare := by
  unfold State.finishScan
  rw [State.releasePort_spare, State.finish_spare]

theorem State.finishScan_queues : (s.finishScan p g o d reported).queues = s.queues := by
  unfold State.finishScan
  rw [State.releasePort_queues, State.finish_queues]

theorem State.finishScan_deadlines : (s.finishScan p g o d reported).deadlines = s.deadlines := by
  unfold State.finishScan
  rw [State.releasePort_deadlines, State.finish_deadlines]

theorem State.finishScan_stats : (s.finishScan p g o d reported).stats = s.stats := by
  unfold State.finishScan
  rw [State.releasePort_stats, State.finish_stats]

theorem State.finishScan_ctl : (s.finishScan p g o d reported).ctl = s.ctl := by
  unfold State.finishScan
  rw [State.releasePort_ctl, State.finish_ctl]

theorem State.finishScan_notice : (s.finishScan p g o d reported).notice = s.notice := by
  unfold State.finishScan
  rw [State.releasePort_notice, State.finish_notice]

theorem State.finishScan_mailboxes : (s.finishScan p g o d reported).mailboxes = s.mailboxes := by
  unfold State.finishScan
  rw [State.releasePort_mailboxes, State.finish_mailboxes]

/-- The freed port brings its pool's review (R65). -/
theorem State.finishScan_reviewFreed : (s.finishScan p g o d reported).reviewFreed p =
    (s.finishScan p g o d reported).review (s.portConfig p).pool := by
  have config : (s.finishScan p g o d reported).portConfig p = s.portConfig p := by
    unfold State.portConfig
    rw [State.finishScan_ctl]
  unfold State.reviewFreed
  rw [config]
  refine if_pos ?_
  rw [State.finishScan_port]
  rfl

/-- A finish leaves the mailbox records. -/
theorem State.finishScan_mailWord (w : Memory.wf s.mem = true) (st : Station) (r : Fin 4) {x : Nat} (hx : x ≤ 12) :
    (s.finishScan p g o d reported).word (mailboxAddress st r + x) = s.word (mailboxAddress st r + x) :=
  State.finishScan_writes.word w fun b hb hk => by
    have := mailboxAddress_bounds st r
    have := slotAddress_bounds g
    have := stationAddress_bounds (stationOf g)
    have := portAddress_bounds p
    unfold finishBytes stationMirrors portMirror within at *
    omega

end

/-! ### The count words of a finish (R183, R184) -/

/-- The scan's count word: the bytes that its service has stored, 0 where it was never granted. -/
theorem State.finish_scanCount {s : State} {p : Port} {g : Slot} {o : JobOutcome} {d : Detail} {reported : Option Word}
    (w : Memory.wf s.mem = true) (cls : (s.job g).cls = some .scan) (serving : (s.slot g).state = .serving)
    (port : (s.job g).port = some p) : (s.finish g o d reported).word (slotAddress g + 0x28) =
      if (s.job g).firstGrant = none then 0 else BitVec.ofNat 32 (s.port p).scan.stored := by
  have count := (State.writeResults_words (s := s) (g := g)
    (word := resultWord (outcomePair o d) (clampBits (s.job g).clamps) (finishValidity (s.job g) reported))
    (firstGrant := (s.job g).firstGrant.getD 0) (portWord := portWord (s.job g)) (cls := (s.job g).cls)
    (r := s.classResults g reported) w).2.2.2.1 (by rw [cls]; exact Option.some_ne_none _)
  have stored : s.storedBytes g = (s.port p).scan.stored := by
    unfold State.storedBytes
    rw [serving, port]
  rw [State.finish_slotWord w (by omega)]
  refine count.trans ?_
  unfold State.classResults
  dsimp only
  rw [cls, stored]
  cases (s.job g).firstGrant <;> rfl

/-! ### A hold's time and its lifted contacts (R174, R178) -/

/-- A hold at its end: the time kept in the record, the HOLD entries lifted. -/
def State.holdLifted (s : State) (p : Port) (g : Slot) (ms : Nat) : State :=
  (s.keepHold g ms).liftEntries p false true .orphan

section
variable {s : State} {p : Port} {g : Slot} {ms : Nat}

theorem State.holdLifted_slots : (s.holdLifted p g ms).slots =
    s.slots.set g.val { s.slot g with job := { s.job g with holdRemaining := ms } } := State.liftEntries_slots _ _ _ _ _

theorem State.holdLifted_slot : (s.holdLifted p g ms).slot g =
    { s.slot g with job := { s.job g with holdRemaining := ms } } := by
  unfold State.slot
  rw [State.holdLifted_slots]
  exact Vector.getElem_set_self _

theorem State.holdLifted_slot_ne {h : Slot} (e : h ≠ g) : (s.holdLifted p g ms).slot h = s.slot h := by
  unfold State.slot
  rw [State.holdLifted_slots]
  exact Vector.getElem_set_ne _ _ fun k => e (Fin.ext k.symm)

theorem State.holdLifted_job : (s.holdLifted p g ms).job g = { s.job g with holdRemaining := ms } := by
  unfold State.job
  rw [State.holdLifted_slot]
  rfl

theorem State.holdLifted_port : (s.holdLifted p g ms).port p =
    { s.port p with contacts := (s.port p).contacts.map fun c => c.after false true .orphan } :=
  (s.keepHold g ms).liftEntries_port p false true .orphan

theorem State.holdLifted_port_ne {r : Port} (h : r ≠ p) : (s.holdLifted p g ms).port r = s.port r :=
  (s.keepHold g ms).liftEntries_port_ne p false true .orphan h

theorem State.holdLifted_contact (i : Fin 10) :
    (s.holdLifted p g ms).contact p i = (s.contact p i).after false true .orphan :=
  (s.keepHold g ms).liftEntries_contact p false true .orphan i

theorem State.holdLifted_writes : Writes (fun a => ∃ st, mailboxBytes st a) s.mem (s.holdLifted p g ms).mem :=
  (s.keepHold g ms).liftEntries_only p false true .orphan

theorem State.holdLifted_written (w : Memory.wf s.mem = true) : s.liftsWritten (s.holdLifted p g ms) [p] Contact.held := by
  have written := State.liftEntries_written (s := s.keepHold g ms) w p false true .orphan
  rw [Contact.taken_holds] at written
  unfold State.holdLifted
  exact written.congr (fun _ _ _ => rfl) rfl rfl fun _ _ _ _ => rfl

theorem State.holdLifted_kept (h : s.wellFormed) : (s.holdLifted p g ms).wellFormed :=
  ((s.keepHold_kept g ms).trans (State.liftEntries_kept _ _ _ _ _)).data h

theorem State.holdLifted_stations : (s.holdLifted p g ms).stations = s.stations := State.liftEntries_stations _ _ _ _ _
theorem State.holdLifted_marks : (s.holdLifted p g ms).marks = s.marks := State.liftEntries_marks _ _ _ _ _
theorem State.holdLifted_spare : (s.holdLifted p g ms).spare = s.spare := State.liftEntries_spare _ _ _ _ _
theorem State.holdLifted_queues : (s.holdLifted p g ms).queues = s.queues := State.liftEntries_queues _ _ _ _ _
theorem State.holdLifted_deadlines : (s.holdLifted p g ms).deadlines = s.deadlines := State.liftEntries_deadlines _ _ _ _ _
theorem State.holdLifted_stats : (s.holdLifted p g ms).stats = s.stats := State.liftEntries_stats _ _ _ _ _
theorem State.holdLifted_ctl : (s.holdLifted p g ms).ctl = s.ctl := State.liftEntries_ctl _ _ _ _ _
theorem State.holdLifted_notice : (s.holdLifted p g ms).notice = s.notice := State.liftEntries_notice _ _ _ _ _

theorem State.holdLifted_counters (st : Station) : (s.holdLifted p g ms).counters st = s.counters st := by
  unfold State.counters
  simp only [State.holdLifted_stations]

theorem State.holdLeft_eq {e : Stamp} (h : (s.port p).hold.timer = some e) : s.holdLeft p = (e - s.ctl.clock).toNat := by
  unfold State.holdLeft
  rw [h]
  rfl

end

end Sys2Proof.Machine
end

/-! SUPPORT. The cancel byte at each shadow state (R36 to R38, R80, R113, R158, R174, R178). -/
section
namespace Sys2Proof.Machine

/-! ### The end of a scan by a cancel, a close or a STOP (R158) -/

/-- The port with the frames that an end by cause leaves. -/
def State.scanClosed (s : State) (p : Port) : State := s.setPort p { s.port p with transmitter := (s.port p).scanEnded }

section
variable {s : State} {p : Port} {g : Slot} {o : JobOutcome} {d : Detail}

theorem State.endScan_eq : s.endScan p g o d = (s.scanClosed p).finishScan p g o d none := by
  unfold State.endScan
  rw [s.closeScanFrames_eq]
  rfl

theorem State.scanClosed_port : (s.scanClosed p).port p = { s.port p with transmitter := (s.port p).scanEnded } :=
  s.port_setPort p _

theorem State.scanClosed_port_ne {r : Port} (h : r ≠ p) : (s.scanClosed p).port r = s.port r := s.port_setPort_ne h _

theorem State.scanClosed_wellFormed (h : s.wellFormed) : (s.scanClosed p).wellFormed := by
  unfold State.scanClosed
  rw [← s.closeScanFrames_eq]
  exact (s.closeScanFrames_kept p).data h

theorem State.endScan_port : (s.endScan p g o d).port p = { (s.port p).ended with transmitter := (s.port p).scanEnded } := by
  rw [State.endScan_eq, State.finishScan_port, State.scanClosed_port]
  rfl

theorem State.endScan_portsKept : s.portsKept (s.endScan p g o d) [p] := fun r h => by
  rw [State.endScan_eq]
  exact (State.finishScan_portsKept r h).trans (State.scanClosed_port_ne fun e => h (List.mem_singleton.mpr e))

end

/-! ### The end of a hold that is finished (R177, R178) -/

theorem PortRecord.ended_contacts (x : PortRecord) : x.ended.contacts = x.contacts := rfl

/-- A hold's end: its time kept, its HOLD entries lifted, the job finished, the port FREE. -/
def State.holdEnd (s : State) (p : Port) (g : Slot) (ms : Nat) (o : JobOutcome) (d : Detail) : State :=
  (s.holdLifted p g ms).finishScan p g o d none

section
variable {s : State} {p : Port} {g : Slot} {ms : Nat} {o : JobOutcome} {d : Detail}

theorem State.holdEnd_hasResult (wf : s.wellFormed) : (s.holdEnd p g ms o d).hasResult g o d :=
  State.finishScan_hasResult (State.holdLifted_kept wf).memory

theorem State.holdEnd_shown (wf : s.wellFormed) : (s.holdEnd p g ms o d).portShown p :=
  State.finishScan_shown (State.holdLifted_kept wf)

theorem State.holdEnd_contact (i : Fin 10) :
    (s.holdEnd p g ms o d).contact p i = (s.contact p i).after false true .orphan := by
  have port : (s.holdEnd p g ms o d).port p = ((s.holdLifted p g ms).port p).ended := State.finishScan_port
  refine Eq.trans ?_ (State.holdLifted_contact (g := g) (ms := ms) i)
  unfold State.contact
  simp only [port, PortRecord.ended_contacts]

theorem State.holdEnd_port :
    (s.holdEnd p g ms o d).port p = { (s.port p).ended with contacts := ((s.holdEnd p g ms o d).port p).contacts } := by
  have port : (s.holdEnd p g ms o d).port p = ((s.holdLifted p g ms).port p).ended := State.finishScan_port
  rw [port, State.holdLifted_port]
  rfl

theorem State.holdEnd_job : (s.holdEnd p g ms o d).job g = { s.job g with holdRemaining := ms } :=
  State.finishScan_job.trans State.holdLifted_job

theorem State.holdEnd_written (wf : s.wellFormed) : s.liftsWritten (s.holdEnd p g ms o d) [p] Contact.held :=
  (State.holdLifted_written (g := g) (ms := ms) wf.memory).congr (fun _ _ _ => rfl) rfl State.finishScan_mailboxes
    fun st r _ hx => State.finishScan_mailWord (State.holdLifted_kept wf).memory st r hx

theorem State.holdEnd_portsKept : s.portsKept (s.holdEnd p g ms o d) [p] := fun r h =>
  (State.finishScan_portsKept r h).trans (State.holdLifted_port_ne fun e => h (List.mem_singleton.mpr e))

theorem State.holdEnd_slotsKept : s.slotsKept (s.holdEnd p g ms o d) [g] := fun h e =>
  (State.finishScan_slotsKept h e).trans (State.holdLifted_slot_ne fun k => e (List.mem_singleton.mpr k))

theorem State.holdEnd_stationsKept : s.stationsKept (s.holdEnd p g ms o d) [stationOf g] := fun st h =>
  (State.finishScan_stationsKept st h).trans (State.holdLifted_counters st)

theorem State.holdEnd_marks (h : (s.job g).cls = some .hold) : (s.holdEnd p g ms o d).marks = s.marks :=
  (State.finishScan_marks (by rw [State.holdLifted_job, h]; decide)).trans State.holdLifted_marks

theorem State.holdEnd_spare : (s.holdEnd p g ms o d).spare = s.spare := State.finishScan_spare.trans State.holdLifted_spare
theorem State.holdEnd_queues : (s.holdEnd p g ms o d).queues = s.queues := State.finishScan_queues.trans State.holdLifted_queues
theorem State.holdEnd_deadlines : (s.holdEnd p g ms o d).deadlines = s.deadlines :=
  State.finishScan_deadlines.trans State.holdLifted_deadlines
theorem State.holdEnd_stats : (s.holdEnd p g ms o d).stats = s.stats := State.finishScan_stats.trans State.holdLifted_stats
theorem State.holdEnd_ctl : (s.holdEnd p g ms o d).ctl = s.ctl := State.finishScan_ctl.trans State.holdLifted_ctl
theorem State.holdEnd_notice : (s.holdEnd p g ms o d).notice = s.notice := State.finishScan_notice.trans State.holdLifted_notice

end

/-! ### A cancel at a serving job (R37, R38) -/

section
variable {s : State} {p : Port} {g : Slot}

theorem State.cancelServing_print (h : (s.job g).cls = some .print) :
    s.cancelServing g = s.updateJob g fun j => { j with cancelLatch := true } := by
  unfold State.cancelServing
  rw [h]

theorem State.cancelServing_scan (h : (s.job g).cls = some .scan) (port : (s.job g).port = some p) :
    s.cancelServing g = (s.endScan p g .cancelled .byHost).review (s.portConfig p).pool := by
  unfold State.cancelServing
  rw [h, port]
  dsimp only
  rw [State.endScan_eq]
  exact State.finishScan_reviewFreed

theorem State.cancelServing_hold (h : (s.job g).cls = some .hold) (port : (s.job g).port = some p) :
    s.cancelServing g =
      (s.holdEnd p g (s.holdLeft p) .cancelled .byHost).review (s.portConfig p).pool := by
  have config : (s.holdLifted p g (s.holdLeft p)).portConfig p = s.portConfig p := by
    unfold State.portConfig
    rw [State.holdLifted_ctl]
  unfold State.cancelServing
  rw [h, port, ← config]
  exact State.finishScan_reviewFreed

end

/-- Settles O29: a queued job is finished, a serving print takes its latch, a serving scan or hold ends. -/
theorem cancelByteActs : Obligations.CancelByteActs := by
  unfold Obligations.CancelByteActs
  intro s g wf cancel
  have w := wf.memory
  refine ⟨?_, fun serving mirror print => ?_, fun finished mirror => State.examine_finished finished mirror, ?_⟩
  · intro queued mirror t
    have run : t = (s.unqueued g).finish g .cancelled .byHost none :=
      (State.examine_queued queued mirror).trans (if_pos cancel)
    have unqueued : (s.unqueued g).wellFormed := (s.unqueued_kept g).data wf
    have hq := poolAddress_bounds (s.job g).pool
    have usage (st : Station) : (((s.unqueued g).finish g .cancelled .byHost none).counters st).usage = (s.counters st).usage := by
      by_cases e : st = stationOf g
      · subst e
        rw [State.finish_counters]
        exact if_neg (by rw [s.unqueued_slot, queued]; exact SlotState.noConfusion)
      · rw [State.finish_counters_ne e]
        rfl
    have queues : ((s.unqueued g).finish g .cancelled .byHost none).queues = (s.unqueued g).queues := State.finish_queues _ _ _ _ _
    rw [run]
    refine ⟨State.finish_hasResult unqueued.memory, State.finish_deadlines _ _ _ _ _, fun q => ?_, usage, ?_,
      State.finish_talliesShown unqueued, State.finish_slotsKept (s := s.unqueued g), State.finish_ctl _ _ _ _ _,
      State.finish_ports _ _ _ _ _, State.finish_stats _ _ _ _ _, State.finish_spare _ _ _ _ _,
      State.finish_mailboxes _ _ _ _ _, State.finish_notice _ _ _ _ _⟩
    · unfold State.queue
      rw [queues]
      exact s.unqueued_queue g q
    · refine (s.unqueued_shown g w).congr ?_ (State.finish_word_apart unqueued.memory (by omega))
      unfold State.queue
      rw [queues]
  · rw [State.examine_serving serving mirror, if_pos cancel, State.cancelServing_print print]
    rfl
  · intro p serving mirror port x
    have run : s.examine g = s.cancelServing g := (State.examine_serving serving mirror).trans (if_pos cancel)
    have hg := slotAddress_bounds g
    refine ⟨fun scan => ⟨s.endScan p g .cancelled .byHost, run.trans (State.cancelServing_scan scan port), ?_⟩,
      fun e hold timer => ⟨_, run.trans (State.cancelServing_hold hold port), ?_⟩⟩
    · have closed := State.scanClosed_wellFormed (p := p) wf
      have count := State.finish_scanCount (s := s.scanClosed p) (p := p) (g := g) (o := .cancelled) (d := .byHost)
        (reported := none) closed.memory scan serving port
      rw [State.scanClosed_port] at count
      refine ⟨?_, State.endScan_port, ?_, ?_, ?_, State.endScan_portsKept, ?_⟩
      · rw [State.endScan_eq]
        exact State.finishScan_hasResult closed.memory
      · rw [State.endScan_eq]
        exact State.finishScan_shown closed
      · rw [State.endScan_eq]
        exact State.finishScan_job
      · rw [State.endScan_eq, State.finishScan_high closed.memory (by omega)]
        exact count
      · rw [State.endScan_eq]
        exact ⟨State.finishScan_slotsKept (s := s.scanClosed p), State.finishScan_stationsKept (s := s.scanClosed p),
          State.finishScan_marks (s := s.scanClosed p) (by
            show (s.job g).cls ≠ _
            rw [scan]
            decide), State.finishScan_spare, State.finishScan_queues, State.finishScan_deadlines, State.finishScan_stats,
          State.finishScan_ctl, State.finishScan_notice⟩
    · exact ⟨State.holdEnd_hasResult wf, State.holdEnd_port, State.holdEnd_shown wf,
        by rw [State.holdEnd_job, State.holdLeft_eq timer],
        fun i => (State.holdEnd_contact i).trans (by cases s.contact p i <;> rfl), State.holdEnd_written wf,
        State.holdEnd_portsKept, State.holdEnd_slotsKept, State.holdEnd_stationsKept, State.holdEnd_marks hold,
        State.holdEnd_spare, State.holdEnd_queues, State.holdEnd_deadlines, State.holdEnd_stats, State.holdEnd_ctl,
        State.holdEnd_notice⟩

end Sys2Proof.Machine
end

/-! SUPPORT. The re-queue that preemption and fault share (R62, R77, R90, R91), and the preemption of a hold (R85, R179). -/
section
namespace Sys2Proof.Machine

/-- What a re-queue changes, with the change that its cause makes to the record and to the pool's statistics (R90, R91). -/
def State.requeuedWith (s : State) (g : Slot) (f : JobRecord → JobRecord) (h : PoolStats → PoolStats) : State :=
  ((s.requeue g).updateJob g f).updateStats (s.job g).pool h

/-- One more interruption (R90). -/
def JobRecord.interrupted (j : JobRecord) : JobRecord := { j with interruptions := saturate 255 j.interruptions 1 }

/-- One more fault (R91). -/
def JobRecord.faulted (j : JobRecord) : JobRecord := { j with faults := j.faults + 1 }

/-- One more preemption (R80, R90). -/
def PoolStats.preempted (x : PoolStats) : PoolStats := { x with preemptions := saturate max32 x.preemptions 1 }

/-- One more re-queue by fault (R80, R91). -/
def PoolStats.requeued (x : PoolStats) : PoolStats := { x with faultRequeues := saturate max32 x.faultRequeues 1 }

theorem State.requeuePreempted_eq (s : State) (g : Slot) :
    s.requeuePreempted g = s.requeuedWith g JobRecord.interrupted PoolStats.preempted := rfl

theorem State.requeueFaulted_eq (s : State) (g : Slot) :
    s.requeueFaulted g = s.requeuedWith g JobRecord.faulted PoolStats.requeued := rfl

section
variable {s : State} {g : Slot} {f : JobRecord → JobRecord} {h : PoolStats → PoolStats}

/-- The slot QUEUED again, with its place in the queue, before the charge. -/
def State.rejoined (s : State) (g : Slot) : State := (s.handSlot g .queued).joinQueue g

theorem State.requeue_eq (s : State) (g : Slot) : s.requeue g = (s.rejoined g).chargeService g := rfl

theorem State.rejoined_slots : (s.rejoined g).slots = s.slots.set g.val { s.slot g with state := .queued } := rfl

theorem State.rejoined_slot : (s.rejoined g).slot g = { s.slot g with state := .queued } := by
  unfold State.slot
  rw [State.rejoined_slots]
  exact Vector.getElem_set_self _

theorem State.rejoined_job : (s.rejoined g).job g = s.job g := by
  unfold State.job
  rw [State.rejoined_slot]

theorem State.handSlot_job (x : SlotState) (k : Slot) : (s.handSlot g x).job k = s.job k := s.job_handSlot g k x

theorem State.rejoined_writes : Writes (fun a => within (slotAddress g) 4 a ∨ a = poolAddress (s.job g).pool + 3) s.mem
    (s.rejoined g).mem := by
  have joined : Writes (fun a => a = poolAddress ((s.handSlot g .queued).job g).pool + 3) (s.handSlot g .queued).mem
      (s.rejoined g).mem := (s.handSlot g .queued).setQueue_writes _ _
  rw [State.handSlot_job] at joined
  exact ((s.handSlot_writes g .queued).mono fun _ => .inl).trans (joined.mono fun _ => .inr)

theorem State.rejoined_queueShown (w : Memory.wf s.mem = true) : (s.rejoined g).queueShown (s.job g).pool := by
  rw [← State.handSlot_job (s := s) (g := g) .queued g]
  exact State.setQueue_shown ((s.handSlot_writes g .queued).wf w) _ _

theorem State.rejoined_owner (w : Memory.wf s.mem = true) : (s.rejoined g).word (slotAddress g) = 2 := by
  have hg := slotAddress_bounds g
  have hq := poolAddress_bounds ((s.handSlot g .queued).job g).pool
  have owner : (s.handSlot g .queued).word (slotAddress g) = 2 := State.word_putWord (s := s.setShadow g .queued) w (by omega) _
  refine Eq.trans ?_ owner
  exact ((s.handSlot g .queued).setQueue_writes _ _).word ((s.handSlot_writes g .queued).wf w) fun b hb hk => by
    unfold within at hb
    omega

theorem State.rejoined_counters (st : Station) : (s.rejoined g).counters st = s.counters st := rfl

theorem State.rejoined_busyTime : (s.rejoined g).busyTime g = s.busyTime g := by
  unfold State.busyTime
  rw [State.rejoined_job]
  rfl

theorem State.requeuedWith_slots : (s.requeuedWith g f h).slots =
    s.slots.set g.val { s.slot g with state := .queued, job := f (s.job g) } := by
  have slots : (s.requeuedWith g f h).slots = (s.rejoined g).slots.set g.val
      { (s.rejoined g).slot g with job := f ((s.rejoined g).job g) } := rfl
  rw [slots, State.rejoined_slot, State.rejoined_job, State.rejoined_slots, Vector.set_set]

theorem State.requeuedWith_slot : (s.requeuedWith g f h).slot g =
    { s.slot g with state := .queued, job := f (s.job g) } := by
  unfold State.slot
  rw [State.requeuedWith_slots]
  exact Vector.getElem_set_self _

theorem State.requeuedWith_job : (s.requeuedWith g f h).job g = f (s.job g) := by
  unfold State.job
  rw [State.requeuedWith_slot]
  rfl

theorem State.requeuedWith_slotsKept : s.slotsKept (s.requeuedWith g f h) [g] := fun k e => by
  unfold State.slot
  rw [State.requeuedWith_slots]
  exact Vector.getElem_set_ne _ _ fun k => e (List.mem_singleton.mpr (Fin.ext k.symm))

theorem State.requeuedWith_ports : (s.requeuedWith g f h).ports = s.ports := by simp [State.requeuedWith]
theorem State.requeuedWith_marks : (s.requeuedWith g f h).marks = s.marks := by simp [State.requeuedWith]
theorem State.requeuedWith_spare : (s.requeuedWith g f h).spare = s.spare := by simp [State.requeuedWith]
theorem State.requeuedWith_mailboxes : (s.requeuedWith g f h).mailboxes = s.mailboxes := by simp [State.requeuedWith]
theorem State.requeuedWith_deadlines : (s.requeuedWith g f h).deadlines = s.deadlines := by simp [State.requeuedWith]
theorem State.requeuedWith_ctl : (s.requeuedWith g f h).ctl = s.ctl := by simp [State.requeuedWith]
theorem State.requeuedWith_notice : (s.requeuedWith g f h).notice = s.notice := by simp [State.requeuedWith]
theorem State.requeuedWith_stationNotice : (s.requeuedWith g f h).stationNotice = s.stationNotice := by simp [State.requeuedWith]

/-- The station is charged with the service (R77). -/
theorem State.requeuedWith_counters : (s.requeuedWith g f h).counters (stationOf g) = { s.counters (stationOf g) with
    usage := min 65535 ((s.counters (stationOf g)).usage + s.busyTime g / 100) } := by
  have counters : (s.requeuedWith g f h).counters (stationOf g) = ((s.rejoined g).chargeService g).counters (stationOf g) := rfl
  rw [counters, State.chargeService_counters, State.rejoined_busyTime, State.rejoined_counters]

theorem State.requeuedWith_stationsKept : s.stationsKept (s.requeuedWith g f h) [stationOf g] := fun st e => by
  have counters : (s.requeuedWith g f h).counters st = ((s.rejoined g).chargeService g).counters st := rfl
  rw [counters, State.chargeService_counters_ne _ fun k => e (List.mem_singleton.mpr k), State.rejoined_counters]

theorem State.requeuedWith_poolStats : (s.requeuedWith g f h).poolStats (s.job g).pool = h (s.poolStats (s.job g).pool) :=
  State.poolStats_updateStats ((s.requeue g).updateJob g f) _ _

theorem State.requeuedWith_poolStats_ne {q : Pool} (e : q ≠ (s.job g).pool) :
    (s.requeuedWith g f h).poolStats q = s.poolStats q :=
  State.poolStats_updateStats_ne ((s.requeue g).updateJob g f) e _

theorem State.requeuedWith_queue (q : Pool) : (s.requeuedWith g f h).queue q = (s.rejoined g).queue q := rfl

/-- The job stands again where its accept stamp puts it. -/
theorem State.requeuedWith_joined (stamp : (f (s.job g)).acceptStamp = (s.job g).acceptStamp) :
    s.joinedQueue (s.requeuedWith g f h) (s.job g).pool g := by
  refine State.joinQueue_joined (w := s.handSlot g .queued) (by rw [State.handSlot_job]) rfl rfl fun x => ?_
  have job : (s.requeuedWith g f h).job x = if x = g then f (s.job g) else s.job x := by
    split
    next e => subst e; exact State.requeuedWith_job
    next e => exact congrArg SlotShadow.job (State.requeuedWith_slotsKept x (by simpa using e))
  unfold State.waits
  rw [job, State.handSlot_job, State.requeuedWith_ctl, State.handSlot_ctl]
  split
  next e => subst e; rw [stamp]
  next => rfl

/-- The state of a re-queue before its statistic. -/
theorem State.requeuedWith_before : ∃ before : State, s.requeuedWith g f h = before.updateStats (s.job g).pool h ∧
    before.mem = ((s.rejoined g).chargeService g).mem ∧ before.stats = s.stats ∧
    (∀ q, before.queue q = (s.rejoined g).queue q) ∧ before.stations = ((s.rejoined g).chargeService g).stations :=
  ⟨(s.requeue g).updateJob g f, rfl, rfl, rfl, fun _ => rfl, rfl⟩

theorem State.requeuedWith_writes : Writes (fun a => within (slotAddress g) 4 a ∨ stationMirrors (stationOf g) a ∨
    poolMirrors (s.job g).pool a) s.mem (s.requeuedWith g f h).mem := by
  have rejoin := (State.rejoined_writes (s := s) (g := g)).mono fun a k =>
    (k.imp id fun k => .inr (by unfold poolMirrors within; omega) :
      within (slotAddress g) 4 a ∨ stationMirrors (stationOf g) a ∨ poolMirrors (s.job g).pool a)
  have charge := (State.chargeService_writes (s.rejoined g) g).mono fun a k =>
    (.inr (.inl k) : within (slotAddress g) 4 a ∨ stationMirrors (stationOf g) a ∨ poolMirrors (s.job g).pool a)
  have stats := (State.updateStats_words ((s.requeue g).updateJob g f) (s.job g).pool h).mono fun a k =>
    (.inr (.inr (by unfold poolMirrors within at *; omega)) :
      within (slotAddress g) 4 a ∨ stationMirrors (stationOf g) a ∨ poolMirrors (s.job g).pool a)
  exact (rejoin.trans charge).trans stats

section
variable (wf : s.wellFormed)
include wf

theorem State.rejoined_wf : Memory.wf (s.rejoined g).mem = true := State.rejoined_writes.wf wf.memory

theorem State.charged_wf : Memory.wf ((s.rejoined g).chargeService g).mem = true :=
  (State.chargeService_writes _ g).wf (State.rejoined_wf wf)

/-- Below and above the statistics of the pool the words of a re-queue are those before its statistic. -/
theorem State.requeuedWith_word {a : Nat}
    (k : a + 4 ≤ poolAddress (s.job g).pool + 4 ∨ poolAddress (s.job g).pool + 32 ≤ a) :
    (s.requeuedWith g f h).word a = ((s.rejoined g).chargeService g).word a := by
  have mem : ((s.requeue g).updateJob g f).mem = ((s.rejoined g).chargeService g).mem := rfl
  have writes := State.updateStats_words ((s.requeue g).updateJob g f) (s.job g).pool h
  rw [mem] at writes
  exact writes.word (State.charged_wf wf) fun b hb hk => by
    unfold within at *
    omega

theorem State.charged_word {a : Nat} (k : a + 4 ≤ 0x0380 ∨ 0x0780 ≤ a) :
    ((s.rejoined g).chargeService g).word a = (s.rejoined g).word a :=
  (State.chargeService_writes (s.rejoined g) g).word (State.rejoined_wf wf) fun b hb hk => by
    have := stationAddress_bounds (stationOf g)
    unfold stationMirrors within at *
    omega

theorem State.requeuedWith_owner : (s.requeuedWith g f h).word (slotAddress g) = 2 := by
  have := slotAddress_bounds g
  have := poolAddress_bounds (s.job g).pool
  rw [State.requeuedWith_word wf (by omega), State.charged_word wf (by omega), State.rejoined_owner wf.memory]

theorem State.requeuedWith_queueShown : (s.requeuedWith g f h).queueShown (s.job g).pool := by
  have := poolAddress_bounds (s.job g).pool
  exact (State.rejoined_queueShown wf.memory).congr (State.requeuedWith_queue _) (by
    rw [State.requeuedWith_word wf (by omega), State.charged_word wf (by omega)])

theorem State.requeuedWith_statsShown (range : (h (s.poolStats (s.job g).pool)).inRange) (job : (f (s.job g)).inRange) :
    s.statsShown (s.requeuedWith g f h) (s.job g).pool := by
  have data : ((s.requeue g).updateJob g f).wellFormed := by
    have requeue : (s.requeue g).wellFormed := (s.requeue_kept g).data wf
    refine (State.updateJob_kept _ g _ fun _ => ?_).data requeue
    have e : (s.requeue g).job g = s.job g := s.job_requeue g g
    rw [e]
    exact job
  exact (State.updateStats_shown data (s.job g).pool range).congr rfl rfl fun _ _ _ => rfl

theorem State.requeuedWith_scoresShown : (s.requeuedWith g f h).scoresShown (stationOf g) := by
  have hs := stationAddress_bounds (stationOf g)
  have hq := poolAddress_bounds (s.job g).pool
  have charged : ((s.rejoined g).chargeService g).wellFormed := (s.requeue_kept g).data wf
  refine State.scoresShown.congr (u := (s.rejoined g).chargeService g) (State.scoresShown_of (charged.counters _) ?_) rfl
    (State.requeuedWith_word wf (by omega))
  rw [State.chargeService_counters]
  unfold State.word
  rw [State.chargeService_mem, readWord_writeWord (State.rejoined_wf wf) (by rw [exchangeBytes_eq]; omega)]

end
end

end Sys2Proof.Machine
end

/-! SUPPORT. A preempted hold goes back to its queue (R85, R90, R179). -/
section
namespace Sys2Proof.Machine

section
variable {s : State} {p : Port} {g : Slot} {f : JobRecord → JobRecord} {h : PoolStats → PoolStats}

theorem State.requeuedWith_port (r : Port) : (s.requeuedWith g f h).port r = s.port r := by
  unfold State.port
  rw [State.requeuedWith_ports]

/-- A re-queue leaves the mailbox records. -/
theorem State.requeuedWith_mailWord (w : Memory.wf s.mem = true) (st : Station) (r : Fin 4) {x : Nat} (hx : x ≤ 12) :
    (s.requeuedWith g f h).word (mailboxAddress st r + x) = s.word (mailboxAddress st r + x) :=
  State.requeuedWith_writes.word w fun b hb hk => by
    have := mailboxAddress_bounds st r
    have := slotAddress_bounds g
    have := stationAddress_bounds (stationOf g)
    have := poolAddress_bounds (s.job g).pool
    unfold stationMirrors poolMirrors within at *
    omega

theorem PoolStats.inRange.preempted {x : PoolStats} (range : x.inRange) : x.preempted.inRange :=
  { range with preemptions := saturate_le _ _ _ }

theorem PoolStats.inRange.requeued {x : PoolStats} (range : x.inRange) : x.requeued.inRange :=
  { range with faultRequeues := saturate_le _ _ _ }

theorem JobRecord.inRange.interrupted {j : JobRecord} (range : j.inRange) : j.interrupted.inRange :=
  { range with interruptions := saturate_le _ _ _ }

theorem JobRecord.inRange.faulted {j : JobRecord} (range : j.inRange) (h : j.faults < 2) : j.faulted.inRange :=
  { range with faults := h }

theorem JobRecord.interrupted_acceptStamp (j : JobRecord) : j.interrupted.acceptStamp = j.acceptStamp := rfl

theorem JobRecord.faulted_acceptStamp (j : JobRecord) : j.faulted.acceptStamp = j.acceptStamp := rfl

theorem State.busyTime_of {t : Stamp} (grant : (s.job g).serviceGrant = some t) :
    s.busyTime g = (s.ctl.clock - t).toNat := by
  unfold State.busyTime
  rw [grant]
  rfl

/-- A place in a queue stands while queue, records and clock do. -/
theorem State.joinedQueue.congr {s' t u : State} {q : Pool} (joins : s'.joinedQueue u q g) (before : s.queue q = s'.queue q)
    (after : t.queue q = u.queue q) (waits : ∀ x, t.waits x = u.waits x) : s.joinedQueue t q g := by
  unfold State.joinedQueue at *
  rw [before, after]
  have stands : t.stands g = u.stands g := by
    funext x
    unfold State.stands
    rw [waits, waits]
  rw [stands]
  exact joins

theorem State.waits_congr {t u : State} (slots : t.slots = u.slots) (ctl : t.ctl = u.ctl) (x : Slot) : t.waits x = u.waits x := by
  unfold State.waits State.job State.slot
  rw [ctl]
  simp only [slots]

end

/-! ### What a re-queue leaves -/

/-- The words that a re-queue writes lie in the entries of pools and stations and in the slots. -/
def requeueWord (a : Nat) : Prop := (0x0280 ≤ a ∧ a + 4 ≤ 0x0D80) ∨ (0x2000 ≤ a ∧ a + 4 ≤ 0x4000)

/-- A job has been re-queued, with a change of its record and of its pool's statistics (R77, R80, R90, R91). -/
structure Requeued (s t : State) (g : Slot) (f : JobRecord → JobRecord) (h : PoolStats → PoolStats) : Prop where
  slot : t.slot g = { s.slot g with state := .queued, job := f (s.job g) }
  owner : t.word (slotAddress g) = 2
  slots : s.slotsKept t [g]
  counters : t.counters (stationOf g) = { s.counters (stationOf g) with
    usage := min 65535 ((s.counters (stationOf g)).usage + s.busyTime g / 100) }
  stations : s.stationsKept t [stationOf g]
  stats : t.poolStats (s.job g).pool = h (s.poolStats (s.job g).pool)
  statsShown : s.statsShown t (s.job g).pool
  queueShown : t.queueShown (s.job g).pool
  scoresShown : t.scoresShown (stationOf g)
  joined : s.joinedQueue t (s.job g).pool g

section
variable {s : State} {g : Slot} {f : JobRecord → JobRecord} {h : PoolStats → PoolStats}

theorem State.requeuedWith_requeued (wf : s.wellFormed) (stamp : (f (s.job g)).acceptStamp = (s.job g).acceptStamp)
    (range : (h (s.poolStats (s.job g).pool)).inRange) (job : (f (s.job g)).inRange) : Requeued s (s.requeuedWith g f h) g f h where
  slot := State.requeuedWith_slot
  owner := State.requeuedWith_owner wf
  slots := State.requeuedWith_slotsKept
  counters := State.requeuedWith_counters
  stations := State.requeuedWith_stationsKept
  stats := State.requeuedWith_poolStats
  statsShown := State.requeuedWith_statsShown wf range job
  queueShown := State.requeuedWith_queueShown wf
  scoresShown := State.requeuedWith_scoresShown wf
  joined := State.requeuedWith_joined stamp

theorem Requeued.job {t : State} (r : Requeued s t g f h) : t.job g = f (s.job g) := congrArg SlotShadow.job r.slot

/-- What follows a re-queue leaves it while slots, queues, statistics and counters and their words stay. -/
theorem Requeued.after {t u : State} (r : Requeued s u g f h) (slots : t.slots = u.slots) (queues : t.queues = u.queues)
    (stats : t.stats = u.stats) (stations : t.stations = u.stations) (ctl : t.ctl = u.ctl)
    (words : ∀ a, requeueWord a → t.word a = u.word a) : Requeued s t g f h where
  slot := by unfold State.slot; simp only [slots]; exact r.slot
  owner := (words _ (.inr (by have := slotAddress_bounds g; omega))).trans r.owner
  slots k e := by unfold State.slot; simp only [slots]; exact r.slots k e
  counters := by unfold State.counters; simp only [stations]; exact r.counters
  stations st e := by unfold State.counters; simp only [stations]; exact r.stations st e
  stats := by unfold State.poolStats; simp only [stats]; exact r.stats
  statsShown := r.statsShown.congr rfl (by unfold State.poolStats; rw [stats]) fun x _ hx =>
    words _ (.inl (by have := poolAddress_bounds (s.job g).pool; omega))
  queueShown := r.queueShown.congr (by unfold State.queue; rw [queues])
    (words _ (.inl (by have := poolAddress_bounds (s.job g).pool; omega)))
  scoresShown := r.scoresShown.congr (by unfold State.counters; rw [stations])
    (words _ (.inl (by have := stationAddress_bounds (stationOf g); omega)))
  joined := r.joined.congr rfl (by unfold State.queue; rw [queues]) (State.waits_congr slots ctl)

/-- A re-queue behind a change of the job's own progress. -/
theorem Requeued.from {k t : State} {f₀ : JobRecord → JobRecord} (r : Requeued k t g f h)
    (slot : k.slot g = { s.slot g with job := f₀ (s.job g) }) (slots : s.slotsKept k [g]) (stations : k.stations = s.stations)
    (stats : k.stats = s.stats) (queues : k.queues = s.queues) (ctl : k.ctl = s.ctl) (pool : (f₀ (s.job g)).pool = (s.job g).pool)
    (grant : (f₀ (s.job g)).serviceGrant = (s.job g).serviceGrant) : Requeued s t g (f ∘ f₀) h := by
  have job : k.job g = f₀ (s.job g) := congrArg SlotShadow.job slot
  have counters (st : Station) : k.counters st = s.counters st := by unfold State.counters; rw [stations]
  have poolStats (q : Pool) : k.poolStats q = s.poolStats q := by unfold State.poolStats; rw [stats]
  have busy : k.busyTime g = s.busyTime g := by
    unfold State.busyTime
    rw [job, grant, ctl]
  have samePool : (k.job g).pool = (s.job g).pool := by rw [job, pool]
  refine ⟨?_, r.owner, fun x e => (r.slots x e).trans (slots x e), ?_, fun st e => (r.stations st e).trans (counters st), ?_, ?_,
    ?_, r.scoresShown, ?_⟩
  · rw [r.slot, slot, job]
    rfl
  · rw [r.counters, counters, busy]
  · rw [← samePool, r.stats, poolStats]
  · rw [← samePool]
    exact r.statsShown.congr (poolStats _).symm rfl fun _ _ _ => rfl
  · rw [← samePool]
    exact r.queueShown
  · rw [← samePool]
    exact r.joined.congr (by unfold State.queue; rw [queues]) rfl fun _ => rfl

end

/-- The release of the port leaves the words that a re-queue writes. -/
theorem State.releasePort_requeueWord {u : State} {p : Port} (w : Memory.wf u.mem = true) {a : Nat} (h : requeueWord a) :
    (u.releasePort p).word a = u.word a :=
  State.releasePort_word w (by
    have := portAddress_bounds p
    unfold requeueWord at h
    omega)

section
variable {s : State} {p : Port} {g : Slot}

/-- A preempted hold before its port is released. -/
def State.holdRequeued (s : State) (p : Port) (g : Slot) : State :=
  (s.holdLifted p g (max 1 (s.holdLeft p))).requeuedWith g JobRecord.interrupted PoolStats.preempted

theorem State.holdPreempted_eq : s.holdPreempted p g = (s.holdRequeued p g).releasePort p := rfl

theorem State.holdRequeued_wf (wf : s.wellFormed) : (s.holdRequeued p g).wellFormed :=
  ((s.holdLifted p g (max 1 (s.holdLeft p))).requeuePreempted_kept g).data (State.holdLifted_kept wf)

theorem State.holdPreempted_requeued (wf : s.wellFormed) : Requeued s (s.holdPreempted p g) g
    (JobRecord.interrupted ∘ fun j => { j with holdRemaining := max 1 (s.holdLeft p) }) PoolStats.preempted := by
  have lifted : (s.holdLifted p g (max 1 (s.holdLeft p))).wellFormed := State.holdLifted_kept wf
  have requeued : Requeued (s.holdLifted p g (max 1 (s.holdLeft p))) (s.holdRequeued p g) g
      JobRecord.interrupted PoolStats.preempted :=
    State.requeuedWith_requeued lifted (JobRecord.interrupted_acceptStamp _) (lifted.stats _).preempted (lifted.job g).interrupted
  have released : Requeued (s.holdLifted p g (max 1 (s.holdLeft p))) (s.holdPreempted p g) g
      JobRecord.interrupted PoolStats.preempted :=
    requeued.after (State.releasePort_slots _ _) (State.releasePort_queues _ _) (State.releasePort_stats _ _)
      (State.releasePort_stations _ _) (State.releasePort_ctl _ _) fun a h =>
        State.releasePort_requeueWord (State.holdRequeued_wf wf).memory h
  exact released.from (f₀ := fun j => { j with holdRemaining := max 1 (s.holdLeft p) }) State.holdLifted_slot
    (fun x e => State.holdLifted_slot_ne fun k => e (List.mem_singleton.mpr k)) State.holdLifted_stations
    State.holdLifted_stats State.holdLifted_queues State.holdLifted_ctl rfl rfl

theorem State.holdPreempted_port : (s.holdPreempted p g).port p =
    { (s.port p).ended with contacts := (s.port p).contacts.map fun c => c.after false true .orphan } := by
  rw [State.holdPreempted_eq, State.releasePort_port]
  unfold State.holdRequeued
  rw [State.requeuedWith_port, State.holdLifted_port]
  rfl

theorem State.holdPreempted_portsKept : s.portsKept (s.holdPreempted p g) [p] := fun x h => by
  have ne : x ≠ p := fun e => h (List.mem_singleton.mpr e)
  rw [State.holdPreempted_eq, State.releasePort_port_ne _ ne]
  exact (State.requeuedWith_port x).trans (State.holdLifted_port_ne ne)

theorem State.holdPreempted_written (wf : s.wellFormed) : s.liftsWritten (s.holdPreempted p g) [p] Contact.held := by
  refine (State.holdLifted_written (g := g) (ms := max 1 (s.holdLeft p)) wf.memory).congr (fun _ _ _ => rfl) rfl ?_
    fun st x y hy => ?_
  · rw [State.holdPreempted_eq, State.releasePort_mailboxes]
    exact State.requeuedWith_mailboxes
  · have := mailboxAddress_bounds st x
    have := portAddress_bounds p
    rw [State.holdPreempted_eq, State.releasePort_word (State.holdRequeued_wf wf).memory (by omega)]
    exact State.requeuedWith_mailWord (State.holdLifted_kept wf).memory st x hy

theorem State.holdPreempted_deadlines : (s.holdPreempted p g).deadlines = s.deadlines := by
  rw [State.holdPreempted_eq, State.releasePort_deadlines]
  exact State.requeuedWith_deadlines.trans State.holdLifted_deadlines

theorem State.holdPreempted_marks : (s.holdPreempted p g).marks = s.marks := by
  rw [State.holdPreempted_eq, State.releasePort_marks]
  exact State.requeuedWith_marks.trans State.holdLifted_marks

theorem State.holdPreempted_spare : (s.holdPreempted p g).spare = s.spare := by
  rw [State.holdPreempted_eq, State.releasePort_spare]
  exact State.requeuedWith_spare.trans State.holdLifted_spare

theorem State.holdPreempted_ctl : (s.holdPreempted p g).ctl = s.ctl := by
  rw [State.holdPreempted_eq, State.releasePort_ctl]
  exact State.requeuedWith_ctl.trans State.holdLifted_ctl

theorem State.holdPreempted_notice : (s.holdPreempted p g).notice = s.notice := by
  rw [State.holdPreempted_eq, State.releasePort_notice]
  exact State.requeuedWith_notice.trans State.holdLifted_notice

end

/-- Settles O39: the hold's time and lifts, its re-queue, and the port's release. -/
theorem preemptedHoldIsRequeued : Obligations.PreemptedHoldIsRequeued := by
  unfold Obligations.PreemptedHoldIsRequeued
  intro s p g e grant wf timer granted t
  have requeued : Requeued s t g _ _ := State.holdPreempted_requeued wf
  have port : t.port p = _ := State.holdPreempted_port
  have job := requeued.job
  have charged := requeued.counters
  rw [s.busyTime_of granted] at charged
  refine ⟨by rw [requeued.slot], requeued.owner, by rw [job, ← State.holdLeft_eq timer]; rfl, by rw [job]; rfl, by rw [job]; rfl,
    by rw [job]; rfl, by rw [job]; rfl, by rw [requeued.stats]; rfl, by rw [charged], by rw [charged], requeued.joined,
    requeued.statsShown, requeued.queueShown, requeued.scoresShown, by rw [port], ?_, fun i => ?_,
    State.holdPreempted_written wf, State.holdPreempted_portsKept, requeued.slots, State.holdPreempted_deadlines,
    State.holdPreempted_marks, State.holdPreempted_spare, State.holdPreempted_ctl, State.holdPreempted_notice⟩
  · exact State.releasePort_shown (State.holdRequeued_wf wf)
  · have entry : t.contact p i = (s.contact p i).after false true .orphan := by
      unfold State.contact
      simp only [port]
      exact Vector.getElem_map _ _
    rw [entry]
    cases s.contact p i <;> rfl

end Sys2Proof.Machine
end

/-! SUPPORT. The entry of a port to FAULTED, and the sends that end without success (R109, R111, R113, R120, R174). -/
section
namespace Sys2Proof.Machine

/-! ### The entry to FAULTED (R120) -/

section
variable {s : State} {p : Port} {c : Option Condition}

/-- The probe timer that an entry to FAULTED starts (R119). -/
def State.probeStarted (s : State) (p : Port) : Timer :=
  some (s.ctl.clock + BitVec.ofNat 32 ((s.portConfig p).probeInterval * 1000))

theorem State.setNotice_port (s : State) (b : NoticeBit) (r : Port) : (s.setNotice b).port r = s.port r := rfl

theorem State.setNotice_word (s : State) (b : NoticeBit) (a : Nat) : (s.setNotice b).word a = s.word a := rfl

theorem faultPort_down (clock : Stamp) (interval : Nat) (p : Port) (c : Option Condition) (x : PortRecord) :
    faultPort clock interval p c x = { x.down (c.getD x.condition) (some (clock + BitVec.ofNat 32 (interval * 1000))) with
      cut := cutFrame p (clearService x) } := rfl

theorem faultPort_capability (clock : Stamp) (interval : Nat) (p : Port) (c : Option Condition) (x : PortRecord) :
    (faultPort clock interval p c x).capability = x.capability := rfl

theorem State.enterFaulted_port : ∃ cut, (s.enterFaulted p c).port p =
    { (s.port p).down (c.getD (s.port p).condition) (s.probeStarted p) with
      contacts := (s.port p).contacts.map fun k => k.after true true .orphan
      cut } := by
  unfold State.enterFaulted
  rw [State.setNotice_port, State.port_updatePort, s.liftEntries_port, faultPort_down]
  exact ⟨_, rfl⟩

theorem State.enterFaulted_port_ne {r : Port} (h : r ≠ p) : (s.enterFaulted p c).port r = s.port r := by
  unfold State.enterFaulted
  rw [State.setNotice_port, State.port_updatePort_ne _ h, s.liftEntries_port_ne p true true .orphan h]

theorem State.enterFaulted_state : ((s.enterFaulted p c).port p).state = .faulted := by
  obtain ⟨cut, port⟩ := State.enterFaulted_port (s := s) (p := p) (c := c)
  rw [port]
  rfl

theorem State.enterFaulted_contact (i : Fin 10) :
    (s.enterFaulted p c).contact p i = (s.contact p i).after true true .orphan := by
  obtain ⟨cut, port⟩ := State.enterFaulted_port (s := s) (p := p) (c := c)
  unfold State.contact
  simp only [port]
  exact Vector.getElem_map _ _

theorem State.lifted_wf (w : Memory.wf s.mem = true) (zones holds : Bool) (left : Contact) :
    Memory.wf (s.liftEntries p zones holds left).mem = true := (s.liftEntries_only p zones holds left).wf w

/-- Outside the mailbox records and the port's mirror word the words stand. -/
theorem State.enterFaulted_word (w : Memory.wf s.mem = true) {a : Nat}
    (mail : a + 4 ≤ 0x0D80 ∨ 0x1580 ≤ a) (mirror : a + 4 ≤ portAddress p + 0x08 ∨ portAddress p + 0x0C ≤ a) :
    (s.enterFaulted p c).word a = s.word a := by
  unfold State.enterFaulted
  rw [State.setNotice_word, State.updatePort_word (State.lifted_wf w _ _ _) mirror]
  exact (s.liftEntries_only p true true .orphan).word w fun b hb ⟨st, r, hk⟩ => by
    have := mailboxAddress_bounds st r
    unfold within at *
    omega

theorem State.enterFaulted_mailWord (w : Memory.wf s.mem = true) (st : Station) (r : Fin 4) {x : Nat} (hx : x ≤ 12) :
    (s.enterFaulted p c).word (mailboxAddress st r + x) =
      (s.liftEntries p true true .orphan).word (mailboxAddress st r + x) := by
  have := mailboxAddress_bounds st r
  have := portAddress_bounds p
  unfold State.enterFaulted
  rw [State.setNotice_word, State.updatePort_word (State.lifted_wf w _ _ _) (by omega)]

theorem State.enterFaulted_written (w : Memory.wf s.mem = true) :
    s.liftsWritten (s.enterFaulted p c) [p] Contact.captured := by
  have written := State.liftEntries_written w p true true .orphan
  rw [Contact.taken_both] at written
  refine written.congr (fun _ _ _ => rfl) rfl ?_ fun st r x hx => State.enterFaulted_mailWord w st r hx
  unfold State.enterFaulted
  rw [State.setNotice_mailboxes, State.updatePort_mailboxes]

theorem State.enterFaulted_shown (wf : s.wellFormed) : (s.enterFaulted p c).portShown p := by
  have lifted := (s.liftEntries_kept p true true .orphan).data wf
  have shown := State.updatePort_shown (p := p) (f := faultPort s.ctl.clock (s.portConfig p).probeInterval p c) lifted.memory
    (by rw [faultPort_capability]; exact (lifted.port p).capability)
  unfold State.enterFaulted
  exact shown.congr (State.setNotice_port _ _ _) (State.setNotice_word _ _ _)

theorem State.enterFaulted_notice : (s.enterFaulted p c).notice = s.notice ||| 0x20 := by
  unfold State.enterFaulted
  rw [State.setNotice_notice, State.updatePort_notice, State.liftEntries_notice]
  rfl


end

/-! ### A send that ends without success (R109) -/

section
variable {s : State} {p : Port} {o : Outstanding} {c : Instr} {condition : Condition}

/-- The ends of a send that this statement is about: a NAK, and an expiry of the response timer. -/
def State.unanswered (s : State) (p : Port) (c : Instr) (condition : Condition) : Prop :=
  (c = .nakFrame p ∧ condition = .lineRefused) ∨
    (c = .responseTimerExpiry p ∧ condition = .lineSilent ∧
      timerReached s.ctl.clock (s.port p).transmitter.responseTimer = true)

theorem awaitedFrame_of {t : Transmitter} {o : Outstanding} (h : t.outstanding = some o) (phase : o.phase = .awaitingAnswer) :
    awaitedFrame t = some o.offered := by
  unfold awaitedFrame
  rw [h]
  dsimp only
  rw [phase]

/-- The port that meets the end of the send: the frame heard, the response timer as it may be. -/
def State.unansweredPort (s : State) (p : Port) (c : Instr) (timer : Timer) : PortRecord :=
  { (s.port p).heard (s.portConfig p).cls c with transmitter := { (s.port p).transmitter with responseTimer := timer } }

theorem exec_unanswered (out : (s.port p).transmitter.outstanding = some o) (phase : o.phase = .awaitingAnswer)
    (listens : (s.port p).state ≠ .offline) (h : s.unanswered p c condition) : ∃ timer, exec c s =
      .next (closeEvent s ((s.setPort p (s.unansweredPort p c timer)).sendFailed p condition)) := by
  rcases h with ⟨rfl, rfl⟩ | ⟨rfl, rfl, reached⟩
  · refine ⟨(s.port p).transmitter.responseTimer, ?_⟩
    have hunting : s.setReceiver p .hunting =
        s.setPort p (s.unansweredPort p (.nakFrame p) (s.port p).transmitter.responseTimer) := rfl
    have taken : (s.setReceiver p .hunting).nakTaken p = (s.setReceiver p .hunting).sendFailed p .lineRefused := by
      have awaits : awaitedFrame (s.unansweredPort p (.nakFrame p) (s.port p).transmitter.responseTimer).transmitter =
          some o.offered := awaitedFrame_of (o := o) out phase
      unfold State.nakTaken
      rw [hunting, State.port_setPort, awaits]
    show Host.Outcome.next (closeEvent s (s.frameEvent p .nak)) = _
    unfold State.frameEvent
    rw [if_pos (State.listening_of listens)]
    dsimp only
    rw [if_pos (by rfl)]
    unfold State.dispatch
    dsimp only
    rw [taken, hunting]
  · refine ⟨none, ?_⟩
    show Host.Outcome.next (closeEvent s (s.responseEvent p)) = _
    unfold State.responseEvent
    rw [if_pos reached]
    rfl

/-- The class of a frame that the end of a send brings does not change the port's state. -/
theorem PortRecord.heard_state (x : PortRecord) (cls : PortClass) (c : Instr) : (x.heard cls c).state = x.state := by
  cases c <;> rfl

theorem PortRecord.heard_counters (x : PortRecord) (cls : PortClass) (c : Instr) : (x.heard cls c).counters = x.counters := by
  cases c <;> rfl

theorem PortRecord.heard_contacts (x : PortRecord) (cls : PortClass) (c : Instr) : (x.heard cls c).contacts = x.contacts := by
  cases c <;> rfl

theorem PortRecord.heard_job (x : PortRecord) (cls : PortClass) (c : Instr) : (x.heard cls c).job = x.job := by
  cases c <;> rfl

theorem PortRecord.heard_condition (x : PortRecord) (cls : PortClass) (h : s.unanswered p c condition) :
    (x.heard cls c).condition = x.condition := by
  rcases h with ⟨rfl, -⟩ | ⟨rfl, -⟩ <;> rfl

/-- One more resend is counted (R112). -/
theorem State.countResend_setPort (s : State) (p : Port) (y : PortRecord) :
    (s.setPort p y).updateLineCounters p (fun x => { x with resend := saturate max32 x.resend 1 }) =
      ({ s with mem := lineCounted s.mem p 0x18 y.counters.resend } : State).setPort p { y with
        counters := { y.counters with resend := saturate max32 y.counters.resend 1 } } := by
  rw [State.updateLineCounters_setPort]
  simp [rewriteWords, lineWords, rewriteWord_self, lineCounted]

theorem State.sendFailed_resends {y : PortRecord} (out : y.transmitter.outstanding = some o) (few : o.sends < 3) :
    (s.setPort p y).sendFailed p condition = ({ s with mem := lineCounted s.mem p 0x18 y.counters.resend } : State).setPort p { y with
      counters := { y.counters with resend := saturate max32 y.counters.resend 1 }
      transmitter := resendFrame o y.transmitter } := by
  unfold State.sendFailed
  rw [State.port_setPort, out]
  dsimp only
  rw [if_pos few, State.countResend_setPort]
  unfold State.transmit State.modifyPort
  rw [State.port_setPort, State.setPort_setPort]

/-- The transmission that has failed at its third send. -/
theorem State.sendFailed_third {y : PortRecord} (out : y.transmitter.outstanding = some o) (third : 3 ≤ o.sends)
    (faulted : (((s.setPort p { y with transmitter := abandonOutstanding y.transmitter }).faultAt p condition).port p).state =
      .faulted) : (s.setPort p y).sendFailed p condition =
        (s.setPort p { y with transmitter := abandonOutstanding y.transmitter }).faultAt p condition := by
  have abandoned : (s.setPort p y).transmit p abandonOutstanding =
      s.setPort p { y with transmitter := abandonOutstanding y.transmitter } := by
    unfold State.transmit State.modifyPort
    rw [State.port_setPort, State.setPort_setPort]
  unfold State.sendFailed
  rw [State.port_setPort, out]
  dsimp only
  rw [if_neg (by omega), abandoned, if_pos faulted]

theorem State.faultAt_enters (h : (s.port p).state = .probing ∨ (s.port p).state = .free) :
    s.faultAt p condition = s.enterFaulted p (some condition) := by
  unfold State.faultAt
  rcases h with h | h <;> rw [h]

theorem State.faultAt_faulted (h : (s.port p).state = .faulted) :
    s.faultAt p condition = s.notePort p fun x => { x with condition := condition } := by
  unfold State.faultAt
  rw [h]

end

/-- An entry to FAULTED of a port that does not serve is closed by the interrupt. -/
theorem closeEvent_enterFaulted {s u : State} {p : Port} {c : Option Condition} (same : ∀ r, r ≠ p → u.port r = s.port r)
    (idle : (s.port p).state ≠ .serving) :
    closeEvent s (u.enterFaulted p c) = settleInterrupt s (u.enterFaulted p c) := by
  refine closeEvent_settles fun _ => State.anyServing_congr fun r => ?_
  by_cases e : r = p
  · subst e
    rw [State.enterFaulted_state]
    exact ⟨PortState.noConfusion, fun h => absurd h idle⟩
  · rw [State.enterFaulted_port_ne e, same r e]

/-- A condition that a port notes shows where it changes (R113). -/
theorem State.notePort_condition {s : State} (wf : s.wellFormed) {p : Port} {y : PortRecord} {condition : Condition}
    (range : y.capability ≤ 10) (ne : y.condition ≠ condition) :
    field (((s.setPort p y).notePort p fun x => { x with condition := condition }).word (portAddress p + 0x08)) 8 8 =
      conditionCode condition := by
  have hp := portAddress_bounds p
  have mem : ((s.setPort p y).notePort p fun x => { x with condition := condition }).mem =
      rewriteWord s.mem (portAddress p + 0x08) (portMirrorWord ((s.setPort p y).port p))
        (portMirrorWord { (s.setPort p y).port p with condition := condition }) := rfl
  have differ : portMirrorWord y ≠ portMirrorWord { y with condition := condition } := fun e => by
    have old := (portMirrorWord_fields range).2.1
    have new := (portMirrorWord_fields (x := { y with condition := condition }) range).2.1
    rw [e, new] at old
    revert old ne
    cases y.condition <;> cases condition <;> simp [conditionCode]
  unfold State.word
  rw [mem, State.port_setPort, readWord_rewriteWord_changed wf.memory (by omega) differ]
  exact (portMirrorWord_fields (x := { y with condition := condition }) range).2.1

end Sys2Proof.Machine
end

/-! SUPPORT. What a NAK and a silent answer lead to (R109, R112, R113, R116, R117, R119). -/
section
namespace Sys2Proof.Machine

/-- The port whose outstanding frame has been abandoned at the third send (R109). -/
def State.abandonedPort (s : State) (p : Port) (c : Instr) : PortRecord :=
  { (s.port p).heard (s.portConfig p).cls c with
    transmitter := { (s.port p).transmitter with outstanding := none, responseTimer := none } }

section
variable {s : State} {p : Port} {o : Outstanding} {c : Instr} {condition : Condition}

/-- The third send without an answer is a fault at the port, whose frame is gone. -/
theorem exec_third_send (out : (s.port p).transmitter.outstanding = some o) (phase : o.phase = .awaitingAnswer)
    (listens : (s.port p).state ≠ .offline) (h : s.unanswered p c condition) (third : 3 ≤ o.sends)
    (faulted : (((s.setPort p (s.abandonedPort p c)).faultAt p condition).port p).state = .faulted) :
    exec c s = .next (closeEvent s ((s.setPort p (s.abandonedPort p c)).faultAt p condition)) := by
  obtain ⟨timer, run⟩ := exec_unanswered out phase listens h
  rw [run, State.sendFailed_third (y := s.unansweredPort p c timer) out third faulted]
  rfl

theorem PortRecord.heard_capability (x : PortRecord) (cls : PortClass) (h : s.unanswered p c condition) :
    (x.heard cls c).capability = x.capability := by
  rcases h with ⟨rfl, -⟩ | ⟨rfl, -⟩ <;> rfl

theorem State.setPort_wellFormed (wf : s.wellFormed) {y : PortRecord} (h : y.inRange) : (s.setPort p y).wellFormed :=
  (s.setPort_kept p y fun _ => h).data wf

theorem State.abandonedPort_inRange (wf : s.wellFormed) (h : s.unanswered p c condition) : (s.abandonedPort p c).inRange := by
  have range := wf.port p
  have transmitter : ({ (s.port p).transmitter with outstanding := none, responseTimer := none } : Transmitter).inRange :=
    ⟨range.transmitter.replies, fun o h => by cases h⟩
  rcases h with ⟨rfl, -⟩ | ⟨rfl, -⟩
  · exact { range with transmitter := transmitter }
  · exact { range with transmitter := transmitter }

theorem State.abandonedPort_contacts : (s.abandonedPort p c).contacts = (s.port p).contacts :=
  (s.port p).heard_contacts (s.portConfig p).cls c

theorem State.abandonedPort_state : (s.abandonedPort p c).state = (s.port p).state :=
  (s.port p).heard_state (s.portConfig p).cls c

theorem State.setPort_contact {y : PortRecord} (h : y.contacts = (s.port p).contacts) (i : Fin 10) :
    (s.setPort p y).contact p i = s.contact p i := by
  unfold State.contact
  rw [State.port_setPort]
  simp only [h]

end

theorem Contact.after_both (c : Contact) :
    c.after true true .orphan = match c with | .zone _ => .orphan | .hold _ => .orphan | k => k := by
  cases c <;> rfl

/-- Settles O45: before the third send the frame waits again, at the third it is a fault at the port. -/
theorem unansweredSendsFailAtTheThird : Obligations.UnansweredSendsFailAtTheThird := by
  unfold Obligations.UnansweredSendsFailAtTheThird
  intro s p o c condition wf x out phase listens unanswered
  have heard := x.heard_state (s.portConfig p).cls c
  refine ⟨fun few => ?_, fun third early => ?_, fun third faulted => ?_⟩
  · obtain ⟨timer, run⟩ := exec_unanswered out phase listens unanswered
    have counters : (s.unansweredPort p c timer).counters = x.counters := x.heard_counters _ c
    obtain ⟨word, full, kept⟩ := lineCounted_spec wf.memory p (offset := 0x18) (by omega) x.counters.resend
    rw [run, State.sendFailed_resends (y := s.unansweredPort p c timer) out few, counters]
    refine ⟨_, congrArg Host.Outcome.next (closeEvent_port _ heard), ?_, word, full, fun r h => ?_, kept, rfl⟩
    · rw [State.port_setPort]
      rfl
    · exact State.port_setPort_ne _ (fun e => h (List.mem_singleton.mpr e)) _
  · let u := s.setPort p (s.abandonedPort p c)
    have port : u.port p = s.abandonedPort p c := s.port_setPort p _
    have enters : u.faultAt p condition = u.enterFaulted p (some condition) := State.faultAt_enters (by
      rw [port, State.abandonedPort_state]
      exact early)
    have idle : (s.port p).state ≠ .serving := by rcases early with h | h <;> rw [h] <;> exact PortState.noConfusion
    have data : u.wellFormed := State.setPort_wellFormed wf (State.abandonedPort_inRange wf unanswered)
    have contact (i : Fin 10) : u.contact p i = s.contact p i := State.setPort_contact State.abandonedPort_contacts i
    have run := exec_third_send out phase listens unanswered third (by rw [enters]; exact State.enterFaulted_state)
    rw [enters, closeEvent_enterFaulted (fun r h => s.port_setPort_ne h _) idle, settleInterrupt_eq] at run
    obtain ⟨cut, faulted⟩ := State.enterFaulted_port (s := u) (p := p) (c := some condition)
    rw [port] at faulted
    have shown := State.enterFaulted_shown (p := p) (c := some condition) data
    have written := (State.enterFaulted_written (s := u) (p := p) (c := some condition) wf.memory).congr (s := s)
      (fun r hr i => by rw [List.mem_singleton.mp hr, contact]) rfl rfl fun _ _ _ _ => rfl
    have entries (i : Fin 10) : (u.enterFaulted p (some condition)).contact p i = (s.contact p i).after true true .orphan :=
      (State.enterFaulted_contact i).trans (by rw [contact i])
    have others (r : Port) (ne : r ≠ p) : (u.enterFaulted p (some condition)).port r = s.port r :=
      (State.enterFaulted_port_ne ne).trans (s.port_setPort_ne ne _)
    have notice : (u.enterFaulted p (some condition)).notice = s.notice ||| 0x20 := State.enterFaulted_notice
    have slots : (u.enterFaulted p (some condition)).slots = s.slots := State.enterFaulted_slots _ _ _
    have queues : (u.enterFaulted p (some condition)).queues = s.queues := State.enterFaulted_queues _ _ _
    have deadlines : (u.enterFaulted p (some condition)).deadlines = s.deadlines := State.enterFaulted_deadlines _ _ _
    have stats : (u.enterFaulted p (some condition)).stats = s.stats := State.enterFaulted_stats _ _ _
    have marks : (u.enterFaulted p (some condition)).marks = s.marks := State.enterFaulted_marks _ _ _
    have spare : (u.enterFaulted p (some condition)).spare = s.spare := State.enterFaulted_spare _ _ _
    have ctl : (u.enterFaulted p (some condition)).ctl = s.ctl := State.enterFaulted_ctl _ _ _
    generalize u.enterFaulted p (some condition) = v at *
    refine ⟨_, run, ?_, notice, shown, fun i => (entries i).trans (Contact.after_both _), written, fun r h => others r fun e => h (List.mem_singleton.mpr e), slots, queues,
      deadlines, stats, marks, spare, ?_⟩
    · have down : v.port p = { (x.heard (s.portConfig p).cls c).down condition (s.probeStarted p) with
          contacts := (v.port p).contacts, cut := (v.port p).cut } := by rw [faulted]; rfl
      exact down
    · dsimp only
      rw [ctl]
  · let y := s.abandonedPort p c
    have notes : (s.setPort p y).faultAt p condition = (s.setPort p y).notePort p fun x => { x with condition := condition } :=
      State.faultAt_faulted (by rw [State.port_setPort]; exact heard.trans faulted)
    let m := rewriteWord s.mem (portAddress p + 0x08) (portMirrorWord y) (portMirrorWord { y with condition := condition })
    have noted : (s.setPort p y).notePort p (fun x => { x with condition := condition }) =
        ({ s with mem := m } : State).setPort p { y with condition := condition } := by
      unfold State.notePort State.modifyPort State.remirror
      simp only [State.port_setPort, State.setPort_setPort]
      rfl
    have run := exec_third_send out phase listens unanswered third (by
      rw [notes, noted, State.port_setPort]
      exact heard.trans faulted)
    rw [notes, noted] at run
    have same : y.condition = x.condition := x.heard_condition _ unanswered
    refine ⟨_, run.trans (congrArg Host.Outcome.next (closeEvent_port _ heard)), ?_, rfl, fun r h => ?_, fun e => ?_, fun ne => ?_,
      ?_⟩
    · rw [State.port_setPort]
      rfl
    · exact State.port_setPort_ne _ (fun e => h (List.mem_singleton.mpr e)) _
    · have stands : ({ y with condition := condition } : PortRecord) = y := by rw [← e, ← same]
      show m = s.mem
      simp only [m, stands, rewriteWord_self]
    · have shown := State.notePort_condition (s := s) (p := p) (y := y) (condition := condition) wf
        ((x.heard_capability _ unanswered).trans_le (wf.port p).capability) (by rw [same]; exact ne)
      rw [noted] at shown
      exact shown
    · exact (rewriteWord_writes s.mem _ _ _).kept wf.memory

end Sys2Proof.Machine
end

/-! SUPPORT. What a print's steps can do: they work on the port's print service and transmitter and on the records of jobs,
and then go on, finish the job, or give the port up (R127, R130 to R132). -/
section
namespace Sys2Proof.Machine

/-! ### The work of a service on its own port -/

/-- A print at work: the service and the transmitter of its port and the sheets done of its job change, and aged-out latches
(R69, R127). -/
structure Worked (s t : State) (p : Port) (g : Slot) : Prop where
  rest : t = { s with slots := t.slots, ports := t.ports }
  port : ∃ print transmitter, t.port p = { s.port p with print := print, transmitter := transmitter }
  others : s.portsKept t [p]
  slot : ∀ h, ∃ aged done, t.slot h = { s.slot h with job := { s.job h with agedOut := aged, sheetsDone := done } } ∧
    (h ≠ g → done = (s.job h).sheetsDone)
  still : ∀ h, h ≠ g → (∀ q, h ∉ s.queue q) → t.slot h = s.slot h

section
variable {s t u : State} {p : Port} {g : Slot}

theorem State.portsKept.trans {l : List Port} (h : s.portsKept t l) (k : t.portsKept u l) : s.portsKept u l :=
  fun r hr => (k r hr).trans (h r hr)

theorem State.portsKept.refl (s : State) (l : List Port) : s.portsKept s l := fun _ _ => rfl

theorem Worked.refl (s : State) (p : Port) (g : Slot) : Worked s s p g where
  rest := rfl
  port := ⟨_, _, rfl⟩
  others := State.portsKept.refl s _
  slot := fun _ => ⟨_, _, rfl, fun _ => rfl⟩
  still := fun _ _ _ => rfl

theorem Worked.queue (h : Worked s t p g) (q : Pool) : t.queue q = s.queue q := by
  rw [h.rest]
  rfl

theorem Worked.trans (h : Worked s t p g) (k : Worked t u p g) : Worked s u p g where
  rest := by
    have first := h.rest
    have second := k.rest
    rw [first] at second
    exact second
  port := by
    obtain ⟨_, _, first⟩ := h.port
    obtain ⟨print, transmitter, second⟩ := k.port
    exact ⟨print, transmitter, by rw [second, first]⟩
  others := h.others.trans k.others
  slot := fun x => by
    obtain ⟨_, done, first, same⟩ := h.slot x
    obtain ⟨aged, done', second, same'⟩ := k.slot x
    refine ⟨aged, done', by rw [second, State.job, first], fun e => ?_⟩
    rw [same' e, State.job, first]
    exact same e
  still := fun x ne out => (k.still x ne fun q => h.queue q ▸ out q).trans (h.still x ne out)

/-- A change of the port's print service and transmitter is work. -/
theorem Worked.modifyPort (s : State) (p : Port) (g : Slot) {f : PortRecord → PortRecord}
    (h : ∃ print transmitter, f (s.port p) = { s.port p with print := print, transmitter := transmitter }) :
    Worked s (s.modifyPort p f) p g where
  rest := rfl
  port := by rw [State.port_modifyPort]; exact h
  others := fun r hr => State.port_modifyPort_ne _ (fun e => hr (List.mem_singleton.mpr e)) _
  slot := fun _ => ⟨_, _, rfl, fun _ => rfl⟩
  still := fun _ _ _ => rfl

theorem Worked.modifyPrint (s : State) (p : Port) (g : Slot) (f : PrintService → PrintService) :
    Worked s (s.modifyPrint p f) p g := Worked.modifyPort s p g ⟨_, _, rfl⟩

theorem Worked.offerFrame (s : State) (p : Port) (g : Slot) (f : AnswerFrame) : Worked s (s.offerFrame p f) p g := by
  unfold State.offerFrame State.transmit
  exact Worked.modifyPort s p g ⟨_, _, rfl⟩

/-- A change of a job's aged-out latch, and of the sheets done of the port's own job, is work. -/
theorem Worked.updateJob (s : State) (p : Port) {g h : Slot} {f : JobRecord → JobRecord}
    (k : ∃ aged done, f (s.job h) = { s.job h with agedOut := aged, sheetsDone := done } ∧ (h ≠ g → done = (s.job h).sheetsDone))
    (known : h = g ∨ ∃ q, h ∈ s.queue q) : Worked s (s.updateJob h f) p g where
  rest := rfl
  port := ⟨_, _, rfl⟩
  others := fun _ _ => rfl
  slot := fun x => by
    unfold State.updateJob
    by_cases e : x = h
    · subst e
      obtain ⟨aged, done, change, same⟩ := k
      exact ⟨aged, done, by rw [State.slot_setSlot, change], same⟩
    · exact ⟨_, _, State.slot_setSlot_ne _ e _, fun _ => rfl⟩
  still := fun x ne out => State.slot_setSlot_ne _ (fun e => by
    rcases known with k | ⟨q, k⟩
    · exact ne (e.trans k)
    · exact out q (e ▸ k)) _

theorem Worked.latchAged (s : State) (p : Port) (g : Slot) {h : Slot} (queued : ∃ q, h ∈ s.queue q) : Worked s (s.latchAged h) p g := by
  unfold State.latchAged
  dsimp only
  split
  · exact Worked.updateJob s p ⟨_, _, rfl, fun _ => rfl⟩ (.inr queued)
  · exact Worked.refl s p g

theorem Worked.latchAll (p : Port) (g : Slot) (l : List Slot) : ∀ s : State, (∀ h ∈ l, ∃ q, h ∈ s.queue q) → Worked s (s.latchAll l) p g := by
  induction l with
  | nil => exact fun s _ => Worked.refl s p g
  | cons h rest ih =>
    intro s queued
    have first := Worked.latchAged s p g (queued h List.mem_cons_self)
    refine first.trans (ih _ fun k hk => ?_)
    obtain ⟨q, mem⟩ := queued k (List.mem_cons_of_mem h hk)
    exact ⟨q, first.queue q ▸ mem⟩

theorem Worked.portState (h : Worked s t p g) (r : Port) : (t.port r).state = (s.port r).state := by
  by_cases e : r = p
  · subst e
    obtain ⟨_, _, port⟩ := h.port
    rw [port]
  · rw [h.others r fun k => e (List.mem_singleton.mp k)]

end

/-! ### What a print's step comes to (R127, R132) -/

/-- The place that a print's job keeps for its next service (R90, R132). -/
def State.resumeAt (s : State) (g : Slot) (copy sheet : Nat) : State :=
  s.updateJob g fun j => { j with resumeCopy := copy, resumeSheet := sheet }

/-- A print's step ends with the service at work, with the job finished and the port FREE, or with the job re-queued and
the port FREE. -/
inductive PrintStep (s : State) (p : Port) (g : Slot) : State → Prop
  | works {t} (work : Worked s t p g) : PrintStep s p g t
  | ends {t} (work : Worked s t p g) (o d) : PrintStep s p g (t.finishScan p g o d none)
  | yields {t} (work : Worked s t p g) (copy sheet) (asked : (s.port p).yieldPending = true) (engine : s.ctl.engine ≠ .draining) :
      PrintStep s p g (((t.resumeAt g copy sheet).requeuePreempted g).releasePort p)

section
variable {s t u : State} {p : Port} {g : Slot}

theorem PrintStep.after (h : Worked s t p g) (k : PrintStep t p g u) : PrintStep s p g u := by
  cases k with
  | works work => exact .works (h.trans work)
  | ends work o d => exact .ends (h.trans work) o d
  | yields work copy sheet asked engine =>
    obtain ⟨_, _, port⟩ := h.port
    exact .yields (h.trans work) copy sheet (by rw [port] at asked; exact asked) (by rw [h.rest] at engine; exact engine)

theorem Worked.beginSheet (s : State) (p : Port) (g : Slot) (copy sheet : Nat) : Worked s (s.beginSheet p g copy sheet) p g :=
  Worked.modifyPrint s p g _

theorem Worked.countSheet (s : State) (p : Port) (g : Slot) (counted : Bool) : Worked s (s.countSheet p g counted) p g := by
  unfold State.countSheet
  split
  · exact (Worked.updateJob s p ⟨_, _, rfl, fun e => absurd rfl e⟩ (.inl rfl)).trans (Worked.modifyPrint _ p g _)
  · exact Worked.modifyPrint _ p g _

/-- A boundary gives the port up where a yield is pending, and not in DRAINING (R88, R132). -/
theorem State.boundaryCheck_requeue {remaining : Bool} (h : s.boundaryCheck p g remaining = .requeue) :
    (s.port p).yieldPending = true ∧ s.ctl.engine ≠ .draining := by
  unfold State.boundaryCheck at h
  split at h
  · cases h
  split at h
  · cases h
  split at h
  · cases h
  next engine =>
    split at h
    · next asks =>
      simp only [Bool.and_eq_true] at asks
      exact ⟨asks.1.2, engine⟩
    · split at h <;> cases h

/-- The checks of a boundary: a next sheet has begun, and the service is at work, or the step is over. -/
theorem State.closeSheet_step (s : State) (p : Port) (g : Slot) (next : Option (Nat × Nat)) :
    PrintStep s p g (s.closeSheet p g next).1 ∧
      ((s.closeSheet p g next).2 = true → Worked s (s.closeSheet p g next).1 p g) := by
  unfold State.closeSheet
  have latched : Worked s (if s.asksOutrank p g next.isSome then s.latchAll (s.outrankJobs p g) else s) p g := by
    split
    · exact Worked.latchAll p g _ s fun h hh => ⟨_, (List.mem_filter.mp hh).1⟩
    · exact Worked.refl s p g
  revert latched
  generalize (if s.asksOutrank p g next.isSome then s.latchAll (s.outrankJobs p g) else s) = t
  intro latched
  cases check : s.boundaryCheck p g next.isSome with
  | finish o d => exact ⟨.ends latched o d, fun h => Bool.noConfusion h⟩
  | requeue =>
    cases next with
    | none => exact ⟨.works latched, fun h => Bool.noConfusion h⟩
    | some place =>
      obtain ⟨asked, engine⟩ := State.boundaryCheck_requeue check
      exact ⟨.yields latched place.1 place.2 asked engine, fun h => Bool.noConfusion h⟩
  | next =>
    cases next with
    | none => exact ⟨.works latched, fun h => Bool.noConfusion h⟩
    | some place =>
      have begun := latched.trans (Worked.beginSheet t p g place.1 place.2)
      exact ⟨.works begun, fun _ => begun⟩

theorem State.sheetBoundary_step (s : State) (p : Port) (g : Slot) (counted : Bool) :
    PrintStep s p g (s.sheetBoundary p g counted).1 ∧
      ((s.sheetBoundary p g counted).2 = true → Worked s (s.sheetBoundary p g counted).1 p g) := by
  have count := Worked.countSheet s p g counted
  obtain ⟨step, begun⟩ := (s.countSheet p g counted).closeSheet_step p g
    (nextSheet (s.job g) (s.port p).print.copy (s.port p).print.sheet)
  exact ⟨step.after count, fun h => count.trans (begun h)⟩

theorem Worked.feedDue (s : State) (p : Port) (g : Slot) (b n : Nat) : Worked s (s.feedDue p b n) p g := by
  unfold State.feedDue
  split
  · exact Worked.modifyPrint s p g _
  · exact (Worked.modifyPrint s p g _).trans (Worked.offerFrame _ p g _)

theorem State.reachEntries_step (p : Port) (g : Slot) : ∀ (n : Nat) (s : State), PrintStep s p g (State.reachEntries p g n s)
  | 0, s => .works (Worked.refl s p g)
  | n + 1, s => by
    unfold State.reachEntries
    split
    · exact .works (Worked.refl s p g)
    · next e _ =>
      dsimp only
      split
      · exact .works (Worked.feedDue s p g _ _)
      split
      · exact (State.reachEntries_step p g n _).after (Worked.modifyPrint s p g _)
      split
      · exact .works (Worked.modifyPrint s p g _)
      obtain ⟨step, begun⟩ := s.sheetBoundary_step p g (s.port p).print.fed
      split
      · next t h =>
        rw [h] at begun
        exact (State.reachEntries_step p g n t).after (begun rfl)
      · next t h =>
        rw [h] at step
        exact step

theorem State.runPrint_step (s : State) (p : Port) (g : Slot) : PrintStep s p g (s.runPrint p g) :=
  State.reachEntries_step p g _ s

theorem State.confirmSheet_step (s : State) (p : Port) (g : Slot) : PrintStep s p g (s.confirmSheet p g) := by
  unfold State.confirmSheet
  obtain ⟨step, begun⟩ := s.sheetBoundary_step p g true
  split
  · next t h =>
    rw [h] at begun
    exact (t.runPrint_step p g).after (begun rfl)
  · next t h =>
    rw [h] at step
    exact step

theorem State.startPrint_step (s : State) (p : Port) (g : Slot) : PrintStep s p g (s.startPrint p g) :=
  (State.runPrint_step _ p g).after ((Worked.modifyPrint s p g _).trans (Worked.beginSheet _ p g _ _))

theorem State.feedAnswered_step (s : State) (p : Port) (g : Slot) : PrintStep s p g (s.feedAnswered p g) := by
  unfold State.feedAnswered
  split
  · exact .works (Worked.refl s p g)
  split
  · exact (State.runPrint_step _ p g).after (Worked.modifyPrint s p g _)
  split
  · exact s.confirmSheet_step p g
  · exact .works (Worked.modifyPrint s p g _)

theorem State.printCondition_step (s : State) (p : Port) (g : Slot) (c : Condition) :
    PrintStep s p g (s.printCondition p g c) := by
  unfold State.printCondition
  split
  · exact .works (Worked.modifyPrint s p g _)
  dsimp only
  split
  · exact (State.runPrint_step _ p g).after (Worked.modifyPrint s p g _)
  · exact .works (Worked.modifyPrint s p g _)

theorem State.sheetTaken_step (s : State) (p : Port) (g : Slot) : PrintStep s p g (s.sheetTaken p g) := by
  unfold State.sheetTaken
  split
  · exact s.confirmSheet_step p g
  · split
    · exact .works (Worked.refl s p g)
    · exact .works (Worked.modifyPrint s p g _)
  · exact .works (Worked.refl s p g)
  · exact .works (Worked.refl s p g)

/-- Whatever a print's step does, the other ports keep their records. -/
theorem PrintStep.portsKept (h : PrintStep s p g t) : s.portsKept t [p] := by
  cases h with
  | works work => exact work.others
  | ends work o d => exact work.others.trans State.finishScan_portsKept
  | yields work copy sheet =>
    refine work.others.trans fun r hr => ?_
    rw [State.releasePort_port_ne _ (fun e => hr (List.mem_singleton.mpr e)), State.requeuePreempted_eq, State.requeuedWith_port]
    rfl

end

/-! ### A review keeps the ports that are neither FREE nor SERVING (R66) -/

section
variable {s : State} {p : Port} {g : Slot}

theorem State.startService_portsKept : s.portsKept (s.startService p g) [p] := by
  unfold State.startService
  split
  · exact (s.startPrint_step p g).portsKept
  · intro r hr
    have ne : r ≠ p := fun e => hr (List.mem_singleton.mpr e)
    unfold State.startScan State.offerFrame State.transmit State.modifyScan
    dsimp only
    rw [State.port_modifyPort_ne _ ne, State.port_modifyPort_ne _ ne]
    split <;> rfl
  · intro r hr
    have ne : r ≠ p := fun e => hr (List.mem_singleton.mpr e)
    unfold State.startHold
    rw [State.liftEntries_port_ne _ p true false .orphan ne, State.port_modifyPort_ne _ ne]
  · exact State.portsKept.refl s _
  · exact State.portsKept.refl s _

theorem State.grant_portsKept (rank : Nat) : s.portsKept (s.grant g rank p) [p] := by
  unfold State.grant
  refine State.portsKept.trans (fun r hr => ?_) State.startService_portsKept
  rw [State.port_updatePort_ne _ fun e => hr (List.mem_singleton.mpr e)]
  rfl

theorem State.askYield_state (r : Port) : ((s.askYield p).port r).state = (s.port r).state := by
  unfold State.askYield
  by_cases e : r = p
  · subst e
    rw [State.port_modifyPort]
  · rw [State.port_modifyPort_ne _ e]

/-- The best of a list is in it. -/
theorem firstBest_mem {α : Type} (value : α → Nat) : ∀ {l : List α} {x : α}, firstBest value l = some x → x ∈ l
  | [], _, h => by cases h
  | y :: rest, x, h => by
    unfold firstBest at h
    split at h
    · next z best =>
      split at h
      · cases h
        exact List.mem_cons_of_mem _ (firstBest_mem value best)
      · cases h
        exact List.mem_cons_self
    · cases h
      exact List.mem_cons_self

/-- The candidate of the preemption step serves (R84). -/
theorem State.candidate_serving {q : Pool} (h : s.candidate q g = some p) : (s.port p).state = .serving := by
  have mem := firstBest_mem _ h
  have cand := (List.mem_filter.mp mem).2
  unfold State.isCandidate at cand
  split at cand
  · exact eq_of_beq (Bool.and_eq_true_iff.mp cand).1
  · exact Bool.noConfusion cand

/-- The decision to end a hold is about a port that serves. -/
theorem State.preemption_endHold {q : Pool} {ranks : List (Slot × Nat)} {h : Slot}
    (e : s.preemption q ranks g = .endHold p h) : (s.port p).state = .serving ∧ (s.port p).job = some h := by
  unfold State.preemption at e
  split at e
  · split at e
    · next p' cand =>
      split at e
      · split at e
        · next h' _ job =>
          cases e
          exact ⟨State.candidate_serving cand, job⟩
        · cases e
        · cases e
      · cases e
    · cases e
  · cases e

theorem State.preemption_askYield {q : Pool} {ranks : List (Slot × Nat)}
    (e : s.preemption q ranks g = .askYield p) : (s.port p).state = .serving := by
  unfold State.preemption at e
  split at e
  · split at e
    · next p' cand =>
      split at e
      · split at e
        · cases e
        · cases e
          exact State.candidate_serving cand
        · cases e
      · cases e
    · cases e
  · cases e

theorem State.freePort_free {q : Pool} (h : s.freePort q = some p) : (s.port p).state = .free := by
  unfold State.freePort at h
  have found := List.find?_some h
  exact eq_of_beq found

theorem State.reviewRounds_port {q : Pool} {ranks : List (Slot × Nat)} {r : Port} : ∀ (n : Nat) (excluded : List Slot) (s : State),
    (s.port r).state ≠ .free → (s.port r).state ≠ .serving →
      (State.reviewRounds q ranks n excluded s).port r = s.port r
  | 0, _, _, _, _ => rfl
  | n + 1, excluded, s, free, serving => by
    unfold State.reviewRounds
    split
    · rfl
    · next g _ =>
      split
      · next p found =>
        have kept : (s.grant g (rankIn ranks g) p).port r = s.port r := State.grant_portsKept _ r fun e => by
          rw [List.mem_singleton.mp e] at free
          exact free (State.freePort_free found)
        rw [State.reviewRounds_port n excluded _ (by rw [kept]; exact free) (by rw [kept]; exact serving), kept]
      · split
        · rfl
        · next p asks =>
          unfold State.askYield
          exact State.port_modifyPort_ne _ (fun e => serving (by rw [e]; exact State.preemption_askYield asks)) _
        · next p h ends =>
          have kept : ((s.holdPreempted p h).latchAged h).port r = s.port r := by
            show ((s.holdPreempted p h).latchAged h).ports[r.val] = _
            rw [State.latchAged_ports]
            exact State.holdPreempted_portsKept r fun e => by
              rw [List.mem_singleton.mp e] at serving
              exact serving (State.preemption_endHold ends).1
          rw [State.reviewRounds_port n _ _ (by rw [kept]; exact free) (by rw [kept]; exact serving), kept]

/-- A review acts on FREE and SERVING ports only. -/
theorem State.review_port {q : Pool} {r : Port} (free : (s.port r).state ≠ .free) (serving : (s.port r).state ≠ .serving) :
    (s.review q).port r = s.port r := by
  have latched : (s.latchAll (s.queue q)).port r = s.port r := by
    show (s.latchAll (s.queue q)).ports[r.val] = _
    rw [State.latchAll_ports]
    rfl
  unfold State.review
  split
  · dsimp only
    rw [State.reviewRounds_port _ _ _ (by rw [latched]; exact free) (by rw [latched]; exact serving), latched]
  · exact latched
  · rfl
  · rfl
  · rfl

end

end Sys2Proof.Machine
end

/-! SUPPORT. A STATE frame at its port: what it answers, what it shows, and what each port state makes of it (R105, R108,
R113, R115 to R122). -/
section
namespace Sys2Proof.Machine

/-! ### What a STATE sets before it acts -/

/-- The transmitter after a good STATE: an ASK that awaits its answer is completed, and a READY at a FAULTED port completes one
before its first send is over (R108, R122; log entry 30). -/
def PortRecord.answered (x : PortRecord) (c : Condition) : Transmitter :=
  match x.transmitter.outstanding with
  | some o =>
    if o.offered.frame ≠ .ask then x.transmitter
    else if o.phase = .awaitingAnswer then completeFrame x.transmitter
    else if x.state = .faulted ∧ c = .ready ∧ o.sends = 1 then
      completeFrame (if o.phase = .beingSent then { x.transmitter with sending := .withdrawn .ask } else x.transmitter)
    else x.transmitter
  | none => x.transmitter

/-- The port that has heard a good STATE (R102, R115). -/
def PortRecord.stated (x : PortRecord) (cls : PortClass) (c : Condition) (capability : Byte) : PortRecord :=
  { x with receiver := .hunting, condition := c, capability := capabilityOf cls capability, transmitter := x.answered c }

/-- The part whose port has heard a good STATE, the mirror written where it changes (R113). -/
def State.stateHeard (s : State) (p : Port) (c : Condition) (capability : Byte) : State :=
  let y := (s.port p).stated (s.portConfig p).cls c capability
  let m := rewriteWord s.mem (portAddress p + 0x08) (portMirrorWord (s.port p)) (portMirrorWord y)
  ({ s with mem := m } : State).setPort p y

section
variable {s : State} {p : Port} {c : Condition} {code capability : Byte}

theorem State.transmit_setPort (s : State) (p : Port) (y : PortRecord) (f : Transmitter → Transmitter) :
    (s.setPort p y).transmit p f = s.setPort p { y with transmitter := f y.transmitter } := by
  unfold State.transmit State.modifyPort
  rw [State.port_setPort, State.setPort_setPort]

theorem awaitedFrame_none {t : Transmitter} {o : Outstanding} (out : t.outstanding = some o) (h : o.phase ≠ .awaitingAnswer) :
    awaitedFrame t = none := by
  unfold awaitedFrame
  rw [out]
  dsimp only
  split
  · next awaits => exact absurd awaits h
  · rfl

theorem completeUnsent_of {t : Transmitter} {o : Outstanding} (out : t.outstanding = some o) : completeUnsent t =
    completeFrame (if o.phase = .beingSent then { t with sending := .withdrawn o.offered.frame } else t) := by
  unfold completeUnsent
  rw [out]
  dsimp only
  cases o.phase <;> rfl

theorem State.stateAnswers_setPort (s : State) (p : Port) (y : PortRecord) (c : Condition) :
    (s.setPort p y).stateAnswers p c = s.setPort p { y with transmitter := y.answered c } := by
  unfold State.stateAnswers State.readyOvertakes PortRecord.answered
  rw [State.port_setPort, State.transmit_setPort, State.transmit_setPort]
  cases out : y.transmitter.outstanding with
  | none =>
    have waits : awaitedFrame y.transmitter = none := by unfold awaitedFrame; rw [out]
    have due : firstAskDue y.transmitter = false := by unfold firstAskDue; rw [out]
    rw [waits, due, Bool.and_false]
    rfl
  | some o =>
    by_cases awaits : o.phase = .awaitingAnswer
    · rw [awaitedFrame_of out awaits]
      by_cases ask : o.offered.frame = .ask
      · simp [ask, awaits]
      · simp [ask]
    · rw [awaitedFrame_none out awaits, completeUnsent_of out]
      have due : firstAskDue y.transmitter = (o.offered.frame == .ask && o.sends == 1) := by
        unfold firstAskDue
        rw [out]
        simp [awaits]
      rw [due]
      by_cases ask : o.offered.frame = .ask
      · by_cases overtakes : y.state = .faulted ∧ c = .ready ∧ o.sends = 1
        · obtain ⟨faulted, ready, first⟩ := overtakes
          simp [ask, awaits, faulted, ready, first]
        · simp only [ask, awaits, overtakes, ite_false, ne_eq, not_true_eq_false, Bool.and_eq_true, beq_iff_eq]
          exact if_neg fun h => overtakes ⟨h.1.2, h.1.1, h.2.2⟩
      · simp [ask]

theorem PortRecord.answered_receiver (x : PortRecord) (r : Receiver) : ({ x with receiver := r } : PortRecord).answered c =
    x.answered c := rfl

theorem State.notePort_setPort (s : State) (p : Port) (y : PortRecord) (f : PortRecord → PortRecord) :
    (s.setPort p y).notePort p f =
      let m := rewriteWord s.mem (portAddress p + 0x08) (portMirrorWord y) (portMirrorWord (f y))
      ({ s with mem := m } : State).setPort p (f y) := by
  unfold State.notePort State.modifyPort State.remirror
  rw [State.port_setPort, State.setPort_setPort]
  rfl

/-- A good STATE at a listening port. -/
theorem exec_stateFrame (listens : (s.port p).state ≠ .offline) (good : goodCondition (s.portConfig p).cls code = some c) :
    exec (.stateFrame p code capability) s = .next (closeEvent s ((s.stateHeard p c capability).stateActs p c)) := by
  have taken : (s.setReceiver p .hunting).stateTaken p c capability = (s.stateHeard p c capability).stateActs p c := by
    unfold State.stateTaken
    rw [s.setReceiver_eq, State.stateAnswers_setPort, State.notePort_setPort]
    rfl
  show Host.Outcome.next (closeEvent s (s.frameEvent p (.state code capability))) = _
  have fits : goodFrame (s.portConfig p).cls (.state code capability) = true := by
    show (goodCondition (s.portConfig p).cls code).isSome = true
    rw [good]
    rfl
  unfold State.frameEvent
  dsimp only
  rw [if_pos (State.listening_of listens), if_pos fits]
  unfold State.dispatch
  dsimp only
  have same : (s.setReceiver p .hunting).portConfig p = s.portConfig p := rfl
  rw [same, good]
  exact congrArg (fun u => Host.Outcome.next (closeEvent s u)) taken

theorem State.stateHeard_port : (s.stateHeard p c capability).port p =
    (s.port p).stated (s.portConfig p).cls c capability := State.port_setPort _ p _

theorem State.stateHeard_port_ne {r : Port} (h : r ≠ p) : (s.stateHeard p c capability).port r = s.port r :=
  State.port_setPort_ne _ h _

theorem State.stateHeard_eq : s.stateHeard p c capability =
    { (s.setPort p ((s.port p).stated (s.portConfig p).cls c capability)) with mem := (s.stateHeard p c capability).mem } := rfl

theorem State.stateHeard_writes : Writes (portMirror p) s.mem (s.stateHeard p c capability).mem :=
  rewriteWord_writes s.mem _ _ _

theorem conditionCode_injective {a b : Condition} (h : conditionCode a = conditionCode b) : a = b := by
  revert h
  cases a <;> cases b <;> simp [conditionCode]

theorem State.stateHeard_wellFormed (wf : s.wellFormed) : (s.stateHeard p c capability).wellFormed := by
  have kept : Kept s (((s.setReceiver p .hunting).stateAnswers p c).notePort p fun x => { x with
      condition := c, capability := capabilityOf (s.portConfig p).cls capability }) :=
    ((s.setReceiver_kept p _).trans (State.stateAnswers_kept _ p c)).trans
      (State.notePort_kept _ p _ fun w => { w.port p with capability := capabilityOf_le _ _ })
  have same : ((s.setReceiver p .hunting).stateAnswers p c).notePort p (fun x => { x with
      condition := c, capability := capabilityOf (s.portConfig p).cls capability }) = s.stateHeard p c capability := by
    rw [s.setReceiver_eq, State.stateAnswers_setPort, State.notePort_setPort]
    rfl
  rw [← same]
  exact kept.data wf

/-- The mirror shows the condition and the capability where one of them changes, and is not written otherwise (R113). -/
theorem State.stateHeard_mirrored (wf : s.wellFormed) :
    ((s.port p).condition = c → (s.port p).capability = capabilityOf (s.portConfig p).cls capability →
      (s.stateHeard p c capability).mem = s.mem) ∧
    ((s.port p).condition ≠ c ∨ (s.port p).capability ≠ capabilityOf (s.portConfig p).cls capability →
      field ((s.stateHeard p c capability).word (portAddress p + 0x08)) 8 8 = conditionCode c ∧
        field ((s.stateHeard p c capability).word (portAddress p + 0x08)) 16 8 =
          capabilityOf (s.portConfig p).cls capability) := by
  have hp := portAddress_bounds p
  have old := portMirrorWord_fields (wf.port p).capability
  have new := portMirrorWord_fields (x := (s.port p).stated (s.portConfig p).cls c capability) (capabilityOf_le _ _)
  have mem : (s.stateHeard p c capability).mem = rewriteWord s.mem (portAddress p + 0x08) (portMirrorWord (s.port p))
    (portMirrorWord ((s.port p).stated (s.portConfig p).cls c capability)) := rfl
  refine ⟨fun hc hk => ?_, fun changed => ?_⟩
  · have word : portMirrorWord ((s.port p).stated (s.portConfig p).cls c capability) = portMirrorWord (s.port p) := by
      unfold portMirrorWord PortRecord.stated
      rw [← hc, ← hk]
    rw [mem, word, rewriteWord_self]
  · have differ : portMirrorWord (s.port p) ≠ portMirrorWord ((s.port p).stated (s.portConfig p).cls c capability) := fun e => by
      rw [e] at old
      have condition : conditionCode (s.port p).condition = conditionCode c := old.2.1.symm.trans new.2.1
      have capable : (s.port p).capability = capabilityOf (s.portConfig p).cls capability := old.2.2.symm.trans new.2.2
      rcases changed with h | h
      · exact h (conditionCode_injective condition)
      · exact h capable
    unfold State.word
    rw [mem, readWord_rewriteWord_changed wf.memory (by omega) differ]
    exact ⟨new.2.1, new.2.2⟩

end

end Sys2Proof.Machine
end

/-! SUPPORT. What a STATE does at each state of its port (R116 to R122, R129). -/
section
namespace Sys2Proof.Machine

/-! ### Blocks that a change of the header and the slots leaves -/

section
variable {m n : Memory} {B : Nat → Prop}

theorem Writes.length (h : Writes B m n) (w : Memory.wf m = true) (low : ∀ a, B a → a < 0x4000) (b : Nat) :
    readLength n b = readLength m b := by
  unfold readLength
  rw [h.word w fun a ha k => by
    have := low a k
    unfold within blockAddress at ha
    omega]

theorem Writes.data (h : Writes B m n) (w : Memory.wf m = true) (low : ∀ a, B a → a < 0x4000) (b k : Nat) :
    readData n b k = readData m b k := by
  unfold readData readBytes
  refine List.map_congr_left fun i _ => h.kept w _ fun k => ?_
  have := low _ k
  unfold blockAddress at this
  omega

end

section
variable {s t : State} {p : Port} {c : Condition} {code capability : Byte}

/-- An event behind which the port still serves brings no review for its end. -/
theorem State.reviewEnded_serving (before : State) (h : (t.port p).state = .serving) : t.reviewEnded before p = t := by
  have stays : t.reviewFreed p = t := if_neg (by rw [h]; exact PortState.noConfusion)
  unfold State.reviewEnded
  rw [stays, ite_self]

theorem portMirror_low {a : Nat} (h : portMirror p a) : a < 0x4000 := by
  have := portAddress_bounds p
  unfold portMirror within at h
  omega

theorem State.setPort_updatePort (s : State) (p : Port) (y : PortRecord) (f : PortRecord → PortRecord) :
    (s.setPort p y).updatePort p f =
      let m := writeWord s.mem (portAddress p + 0x08) (portMirrorWord (f y))
      ({ s with mem := m } : State).setPort p (f y) := by
  unfold State.updatePort State.modifyPort State.mirrorPort
  rw [State.port_setPort, State.setPort_setPort, State.port_setPort]
  rfl

/-- The port that a READY makes FREE (R121). -/
def PortRecord.freed (x : PortRecord) (cls : PortClass) (capability : Byte) : PortRecord :=
  { x.stated cls .ready capability with state := .free, probeTimer := none }

/-- A READY at a PROBING or FAULTED port makes it FREE, and its pool is reviewed. -/
theorem State.stateActs_ready (h : (s.port p).state = .probing ∨ (s.port p).state = .faulted) :
    (s.stateHeard p .ready capability).stateActs p .ready =
      (let m := writeWord (s.stateHeard p .ready capability).mem (portAddress p + 0x08)
        (portMirrorWord ((s.port p).freed (s.portConfig p).cls capability))
      ({ (s.setPort p ((s.port p).freed (s.portConfig p).cls capability)) with
        mem := m
        notice := s.notice ||| 0x40 } : State)).review (s.portConfig p).pool := by
  have state : ((s.stateHeard p .ready capability).port p).state = (s.port p).state := by rw [State.stateHeard_port]; rfl
  have acts : (s.stateHeard p .ready capability).stateActs p .ready = (s.stateHeard p .ready capability).enterFree p := by
    unfold State.stateActs
    rw [state]
    rcases h with h | h <;> rw [h] <;> rfl
  rw [acts]
  unfold State.enterFree State.stateHeard
  dsimp only
  rw [State.setPort_updatePort]
  rfl

/-- Another condition at a PROBING port, and a fault condition at a FREE one, is a fault (R116, R117). -/
theorem State.stateActs_faults
    (h : (s.port p).state = .probing ∧ c ≠ .ready ∨ (s.port p).state = .free ∧ c ≠ .ready ∧ c ≠ .busy) :
    (s.stateHeard p c capability).stateActs p c = (s.stateHeard p c capability).enterFaulted p (some c) := by
  have state : ((s.stateHeard p c capability).port p).state = (s.port p).state := by rw [State.stateHeard_port]; rfl
  unfold State.stateActs
  rw [state]
  rcases h with ⟨h, ready⟩ | ⟨h, ready, busy⟩ <;> rw [h]
  · exact if_neg ready
  · have rests : working c = false := by simp [working, ready, busy]
    dsimp only
    rw [rests]
    rfl

/-- The ports that take a condition alone (R117 to R119). -/
theorem State.stateActs_rests (h : (s.port p).state = .free ∧ (c = .ready ∨ c = .busy) ∨ (s.port p).state = .faulted ∧ c ≠ .ready ∨
    (s.port p).state = .serving ∧ (s.port p).job ≠ none ∧ (c = .ready ∨ c = .busy) ∧ (s.portConfig p).cls ≠ .printer) :
    (s.stateHeard p c capability).stateActs p c = s.stateHeard p c capability := by
  have state : ((s.stateHeard p c capability).port p).state = (s.port p).state := by rw [State.stateHeard_port]; rfl
  have job : ((s.stateHeard p c capability).port p).job = (s.port p).job := by rw [State.stateHeard_port]; rfl
  have config : (s.stateHeard p c capability).portConfig p = s.portConfig p := rfl
  have works : c = .ready ∨ c = .busy → working c = true := by rintro (rfl | rfl) <;> rfl
  unfold State.stateActs
  rw [state, job, config]
  rcases h with ⟨h, k⟩ | ⟨h, k⟩ | ⟨h, served, k, cls⟩ <;> rw [h] <;> dsimp only
  · rw [works k]
    rfl
  · exact if_neg k
  · split
    · rw [works k, if_neg cls, if_pos rfl]
    · rfl

/-- A STATE READY or BUSY at a serving print (R129). -/
theorem State.stateActs_prints {g : Slot} (serves : (s.port p).state = .serving) (job : (s.port p).job = some g)
    (cls : (s.portConfig p).cls = .printer) (works : working c = true) :
    (s.stateHeard p c capability).stateActs p c = ((s.stateHeard p c capability).printCondition p g c).reviewEnded
      (s.stateHeard p c capability) p := by
  have state : ((s.stateHeard p c capability).port p).state = .serving := by rw [State.stateHeard_port]; exact serves
  have job' : ((s.stateHeard p c capability).port p).job = some g := by rw [State.stateHeard_port]; exact job
  have config : (s.stateHeard p c capability).portConfig p = s.portConfig p := rfl
  unfold State.stateActs
  rw [state, job', config]
  dsimp only
  rw [if_pos works, if_pos cls]

/-- A service that reaches an entry with data acts on it and no further (R127). -/
theorem State.runPrint_feeds {g : Slot} {e : ChainEntry} (entry : (s.job g).chain[(s.port p).print.entry]? = some e)
    (full : readLength s.mem e.block ≠ 0) : s.runPrint p g = s.feedDue p e.block (readLength s.mem e.block) := by
  unfold State.runPrint entryBound State.reachEntries
  rw [entry]
  exact if_pos full

theorem State.modifyPrint_setPort (s : State) (p : Port) (y : PortRecord) (f : PrintService → PrintService) :
    (s.setPort p y).modifyPrint p f = s.setPort p { y with print := f y.print } := by
  unfold State.modifyPrint State.modifyPort
  rw [State.port_setPort, State.setPort_setPort]

theorem State.feedDue_free {y : PortRecord} (idle : y.print.busy = false) (b n : Nat) :
    (s.setPort p y).feedDue p b n = s.setPort p { y with
      print := { y.print with early := false, phase := .feeding, fed := true }
      transmitter := offer { frame := .feed (readData s.mem b n), owner := .service y.grantNumber } y.transmitter } := by
  unfold State.feedDue State.offerFrame
  rw [State.port_setPort, idle, if_neg Bool.false_ne_true, State.modifyPrint_setPort, State.transmit_setPort, State.port_setPort]
  rfl

theorem State.runPrint_offers {y : PortRecord} {g : Slot} {e : ChainEntry} (entry : (s.job g).chain[y.print.entry]? = some e)
    (full : readLength s.mem e.block ≠ 0) (idle : y.print.busy = false) :
    (s.setPort p y).runPrint p g = s.setPort p { y with
      print := { y.print with early := false, phase := .feeding, fed := true }
      transmitter := offer { frame := .feed (readData s.mem e.block (readLength s.mem e.block)), owner := .service y.grantNumber }
        y.transmitter } := by
  have reached : ((s.setPort p y).job g).chain[((s.setPort p y).port p).print.entry]? = some e := by
    rw [State.port_setPort]
    exact entry
  rw [State.runPrint_feeds reached full]
  exact State.feedDue_free idle _ _

theorem State.feedDue_busy {y : PortRecord} (busy : y.print.busy = true) (b n : Nat) :
    (s.setPort p y).feedDue p b n = s.setPort p { y with print := { y.print with early := false, phase := .stalled } } := by
  unfold State.feedDue
  rw [State.port_setPort, busy, State.modifyPrint_setPort]
  rfl

theorem State.stateHeard_contact (i : Fin 10) : (s.stateHeard p c capability).contact p i = s.contact p i := by
  unfold State.contact
  rw [State.stateHeard_port]
  rfl

theorem State.stateHeard_setPort (y : PortRecord) : (s.stateHeard p c capability).setPort p y =
    { (s.setPort p y) with mem := (s.stateHeard p c capability).mem } := State.setPort_setPort _ p _ _

theorem State.stateHeard_modifyPrint (f : PrintService → PrintService) : (s.stateHeard p c capability).modifyPrint p f =
    (s.stateHeard p c capability).setPort p
      { (s.port p).stated (s.portConfig p).cls c capability with print := f (s.port p).print } := by
  unfold State.modifyPrint State.modifyPort
  rw [State.stateHeard_port]
  rfl

/-- A READY at a print whose entry was stalled offers the entry's FEED (R129). -/
theorem State.printCondition_stalled {g : Slot} {e : ChainEntry} (w : Memory.wf s.mem = true) (stalled : (s.port p).print.phase = .stalled)
    (entry : (s.job g).chain[(s.port p).print.entry]? = some e) (full : readLength s.mem e.block ≠ 0) :
    (s.stateHeard p .ready capability).printCondition p g .ready = (s.stateHeard p .ready capability).setPort p
      { (s.port p).stated (s.portConfig p).cls .ready capability with
        print := { (s.port p).print with busy := false, early := false, phase := .feeding, fed := true }
        transmitter := offer
          { frame := .feed (readData s.mem e.block (readLength s.mem e.block)), owner := .service (s.port p).grantNumber }
          ((s.port p).answered .ready) } := by
  have writes := State.stateHeard_writes (s := s) (p := p) (c := .ready) (capability := capability)
  have length := writes.length w (fun _ => portMirror_low) e.block
  have data := writes.data w (fun _ => portMirror_low) e.block (readLength s.mem e.block)
  have phase : ((s.stateHeard p .ready capability).port p).print.phase = .stalled := by rw [State.stateHeard_port]; exact stalled
  unfold State.printCondition
  rw [if_neg (by exact Condition.noConfusion)]
  dsimp only
  rw [if_pos phase, State.stateHeard_modifyPrint]
  have job : (s.stateHeard p .ready capability).job g = s.job g := rfl
  generalize s.stateHeard p .ready capability = v at *
  refine (State.runPrint_offers (e := e) ?_ (fun k => full (length.symm.trans k)) rfl).trans ?_
  · rw [job]
    exact entry
  · rw [length, data]
    rfl

/-- A STATE that leaves the port at work with its condition noted. -/
theorem exec_stateFrame_works {y : PortRecord} (listens : (s.port p).state ≠ .offline)
    (good : goodCondition (s.portConfig p).cls code = some c)
    (acts : (s.stateHeard p c capability).stateActs p c = (s.stateHeard p c capability).setPort p y)
    (same : y.state = (s.port p).state) :
    exec (.stateFrame p code capability) s = .next ((s.stateHeard p c capability).setPort p y) := by
  rw [exec_stateFrame listens good, acts]
  unfold State.stateHeard
  dsimp only
  rw [State.setPort_setPort]
  exact congrArg Host.Outcome.next (closeEvent_port _ same)

end

/-- Settles O54: what the frame answers and shows, then the port states one by one. -/
theorem stateActsByPortState : Obligations.StateActsByPortState := by
  unfold Obligations.StateActsByPortState
  intro s p code capability wf x cls completed run mirrored
  have hp := portAddress_bounds p
  refine ⟨fun off => ?_, fun on bad => ?_, fun c good => ?_⟩
  · show Host.Outcome.next (closeEvent s (s.frameEvent p (.state code capability))) = _
    have deaf : s.frameEvent p (.state code capability) = s := if_neg (by simp [State.listening, show (s.port p).state = .offline from off])
    rw [deaf, closeEvent_self]
  · obtain ⟨-, -, kept⟩ := lineCounted_spec wf.memory p (offset := 0x10) (by omega) x.counters.framing
    have malformed : goodFrame (s.portConfig p).cls (.state code capability) = false := by
      show (goodCondition (s.portConfig p).cls code).isSome = false
      rw [show goodCondition (s.portConfig p).cls code = none from bad]
      rfl
    have counts : s.frameEvent p (.state code capability) = (s.setReceiver p .hunting).countFraming p := by
      unfold State.frameEvent
      dsimp only
      rw [if_pos (State.listening_of on), malformed]
      rfl
    rw [s.setReceiver_eq, State.countFraming_setPort] at counts
    have closed : run = _ := congrArg Host.Outcome.next ((congrArg (closeEvent s) counts).trans (closeEvent_port _ rfl))
    exact ⟨_, closed, rfl, kept⟩
  have answers : completed c = x.answered c := rfl
  refine ⟨?_, fun h => ?_, fun h => ?_, fun g serves job printer => ?_⟩
  · rintro h rfl
    have listens : (s.port p).state ≠ .offline := by rcases h with h | h <;> exact fun e => PortState.noConfusion (h.symm.trans e)
    refine ⟨_, (exec_stateFrame listens good).trans (congrArg (fun u => Host.Outcome.next (closeEvent s u))
      (State.stateActs_ready h)), rfl, ?_, ?_⟩
    · exact readWord_writeWord (State.stateHeard_writes.wf wf.memory) (by have := portAddress_lt p; omega) _
    · exact (State.stateHeard_writes.trans (writeWord_writes _ _ _)).kept wf.memory
  · have idle : (s.port p).state ≠ .serving := by rcases h with ⟨h, -⟩ | ⟨h, -⟩ <;> exact fun e => PortState.noConfusion (h.symm.trans e)
    have listens : (s.port p).state ≠ .offline := by rcases h with ⟨h, -⟩ | ⟨h, -⟩ <;> exact fun e => PortState.noConfusion (h.symm.trans e)
    have ran := exec_stateFrame (capability := capability) listens good
    have data := State.stateHeard_wellFormed (p := p) (c := c) (capability := capability) wf
    have others (r : Port) (ne : r ≠ p) := (State.stateHeard_port_ne (s := s) (c := c) (capability := capability) ne)
    rw [State.stateActs_faults h, closeEvent_enterFaulted others idle, settleInterrupt_eq] at ran
    have contact (i : Fin 10) : (s.stateHeard p c capability).contact p i = s.contact p i :=
      State.stateHeard_contact i
    obtain ⟨cut, port⟩ := State.enterFaulted_port (s := s.stateHeard p c capability) (p := p) (c := some c)
    rw [State.stateHeard_port] at port
    have shown := State.enterFaulted_shown (p := p) (c := some c) data
    have written := (State.enterFaulted_written (p := p) (c := some c) data.memory).congr (s := s)
      (fun r hr i => by rw [List.mem_singleton.mp hr, contact]) rfl rfl fun _ _ _ _ => rfl
    have entries (i : Fin 10) : ((s.stateHeard p c capability).enterFaulted p (some c)).contact p i =
        (s.contact p i).after true true .orphan := (State.enterFaulted_contact i).trans (by rw [contact i])
    have others (r : Port) (ne : r ≠ p) : ((s.stateHeard p c capability).enterFaulted p (some c)).port r = s.port r :=
      (State.enterFaulted_port_ne ne).trans (others r ne)
    have notice : ((s.stateHeard p c capability).enterFaulted p (some c)).notice = s.notice ||| 0x20 := State.enterFaulted_notice
    have slots : ((s.stateHeard p c capability).enterFaulted p (some c)).slots = s.slots := State.enterFaulted_slots _ _ _
    have queues : ((s.stateHeard p c capability).enterFaulted p (some c)).queues = s.queues := State.enterFaulted_queues _ _ _
    have stats : ((s.stateHeard p c capability).enterFaulted p (some c)).stats = s.stats := State.enterFaulted_stats _ _ _
    have marks : ((s.stateHeard p c capability).enterFaulted p (some c)).marks = s.marks := State.enterFaulted_marks _ _ _
    generalize (s.stateHeard p c capability).enterFaulted p (some c) = v at *
    refine ⟨_, ran, ?_, shown, notice, fun i => (entries i).trans (Contact.after_both _), written,
      fun r h => others r fun e => h (List.mem_singleton.mpr e), slots, queues, stats, marks⟩
    have down : v.port p = { (x.heard cls (.stateFrame p code capability)).down c (s.probeStarted p) with
        contacts := (v.port p).contacts, cut := (v.port p).cut } := by rw [port]; rfl
    exact down
  · have listens : (s.port p).state ≠ .offline := by
      rcases h with ⟨h, -⟩ | ⟨h, -⟩ | ⟨h, -⟩ <;> exact fun e => PortState.noConfusion (h.symm.trans e)
    have ran := exec_stateFrame (capability := capability) listens good
    have closed : closeEvent s (s.stateHeard p c capability) = s.stateHeard p c capability := closeEvent_port _ rfl
    rw [State.stateActs_rests h, closed] at ran
    obtain ⟨stands, shown⟩ := State.stateHeard_mirrored (p := p) (c := c) (capability := capability) wf
    exact ⟨_, ran, rfl, stands, shown, State.stateHeard_writes.kept wf.memory⟩
  · have listens : (s.port p).state ≠ .offline := fun e => PortState.noConfusion (Eq.trans (Eq.symm serves) e)
    obtain ⟨stands, shown⟩ := State.stateHeard_mirrored (p := p) (c := c) (capability := capability) wf
    have kept := (State.stateHeard_writes (p := p) (c := c) (capability := capability)).kept wf.memory
    intro printing
    have works {y : PortRecord} (works : working c = true)
        (condition : (s.stateHeard p c capability).printCondition p g c = (s.stateHeard p c capability).setPort p y)
        (state : y.state = (s.port p).state) : ∃ t, run = .next t ∧ t = { (s.setPort p y) with mem := t.mem } ∧ mirrored t c := by
      refine ⟨_, exec_stateFrame_works listens good ?_ state, State.stateHeard_setPort y, ?_⟩
      · rw [State.stateActs_prints serves job printer works, condition]
        exact State.reviewEnded_serving _ (by rw [State.port_setPort, state]; exact serves)
      · rw [State.stateHeard_setPort]
        exact ⟨stands, shown, kept⟩
    refine ⟨fun busy => works (by rw [busy]; rfl) ?_ rfl, fun ready flows => works (by rw [ready]; rfl) ?_ rfl,
      fun e ready stalled entry full => works (by rw [ready]; rfl) ?_ rfl⟩
    · unfold State.printCondition
      rw [if_pos busy, State.stateHeard_modifyPrint]
      rfl
    · unfold State.printCondition
      have phase : ((s.stateHeard p c capability).port p).print.phase ≠ .stalled := by rw [State.stateHeard_port]; exact flows
      rw [if_neg (by rw [ready]; exact Condition.noConfusion)]
      dsimp only
      rw [if_neg phase, State.stateHeard_modifyPrint]
      rfl
    · subst ready
      exact State.printCondition_stalled wf.memory stalled entry full

end Sys2Proof.Machine
end

/-! SUPPORT. A service that ends by a fault: what brings it, and what it leaves (R91 to R93, R109, R116, R118, R120, R131). -/
section
namespace Sys2Proof.Machine

/-! ### What brings a fault end -/

/-- A frame or an expiry has reached a port, and has changed its receiver, transmitter, condition and capability (R102,
R113). -/
structure Heard (s v : State) (p : Port) (c : Instr) : Prop where
  rest : v = { s with mem := v.mem, ports := v.ports }
  port : ∃ condition transmitter, v.port p =
    { (s.port p).heard (s.portConfig p).cls c with condition := condition, transmitter := transmitter }
  others : s.portsKept v [p]
  writes : Writes (portMirror p) s.mem v.mem
  data : v.wellFormed

/-- The causes of a fault end: the sheet timer, a fault condition, a third send without answer. -/
def State.faultBrought (s : State) (p : Port) (c : Instr) (condition : Condition) : Prop :=
  (c = .sheetTimerExpiry p ∧ timerReached s.ctl.clock (s.port p).print.sheetTimer = true ∧ condition = (s.port p).condition ∧
    (s.portConfig p).cls = .printer) ∨
  (∃ code capability, c = .stateFrame p code capability ∧ goodCondition (s.portConfig p).cls code = some condition ∧
    working condition = false) ∨
  ∃ o, (s.port p).transmitter.outstanding = some o ∧ 3 ≤ o.sends ∧ o.phase = .awaitingAnswer ∧ s.unanswered p c condition

section
variable {s v t : State} {p : Port} {g : Slot} {c : Instr} {condition : Condition} {k : Option Condition}

/-- A fault end leaves its port FAULTED. -/
theorem State.faultEnd_state (s : State) (p : Port) (g : Slot) (k : Option Condition) :
    ((s.faultEnd p g k).port p).state = .faulted := by
  unfold State.faultEnd
  dsimp only
  split
  · exact State.enterFaulted_state
  · rw [State.review_port] <;> rw [State.enterFaulted_state]
    · exact PortState.noConfusion
    · exact PortState.noConfusion

theorem Heard.state (h : Heard s v p c) : (v.port p).state = (s.port p).state := by
  obtain ⟨_, _, port⟩ := h.port
  rw [port]
  exact PortRecord.heard_state _ _ _

theorem Heard.job (h : Heard s v p c) : (v.port p).job = (s.port p).job := by
  obtain ⟨_, _, port⟩ := h.port
  rw [port]
  exact PortRecord.heard_job _ _ _

theorem Heard.contacts (h : Heard s v p c) : (v.port p).contacts = (s.port p).contacts := by
  obtain ⟨_, _, port⟩ := h.port
  rw [port]
  exact PortRecord.heard_contacts _ _ _

theorem PortRecord.heard_services (x : PortRecord) (cls : PortClass) (c : Instr) :
    (x.heard cls c).print = x.print ∧ (x.heard cls c).scan = x.scan ∧ (x.heard cls c).hold = x.hold := by
  cases c <;> exact ⟨rfl, rfl, rfl⟩

theorem Heard.print (h : Heard s v p c) : (v.port p).print = (s.port p).print := by
  obtain ⟨_, _, port⟩ := h.port
  rw [port]
  exact (PortRecord.heard_services _ _ _).1

theorem Heard.hold (h : Heard s v p c) : (v.port p).hold = (s.port p).hold := by
  obtain ⟨_, _, port⟩ := h.port
  rw [port]
  exact (PortRecord.heard_services _ _ _).2.2

theorem Heard.ctl (h : Heard s v p c) : v.ctl = s.ctl := by rw [h.rest]
theorem Heard.slots (h : Heard s v p c) : v.slots = s.slots := by rw [h.rest]
theorem Heard.queues (h : Heard s v p c) : v.queues = s.queues := by rw [h.rest]
theorem Heard.deadlines (h : Heard s v p c) : v.deadlines = s.deadlines := by rw [h.rest]
theorem Heard.stats (h : Heard s v p c) : v.stats = s.stats := by rw [h.rest]
theorem Heard.stations (h : Heard s v p c) : v.stations = s.stations := by rw [h.rest]
theorem Heard.marks (h : Heard s v p c) : v.marks = s.marks := by rw [h.rest]
theorem Heard.spare (h : Heard s v p c) : v.spare = s.spare := by rw [h.rest]
theorem Heard.mailboxes (h : Heard s v p c) : v.mailboxes = s.mailboxes := by rw [h.rest]
theorem Heard.notice (h : Heard s v p c) : v.notice = s.notice := by rw [h.rest]

theorem Heard.slot (h : Heard s v p c) (x : Slot) : v.slot x = s.slot x := by
  unfold State.slot
  simp only [h.slots]

/-- The cause of a fault end at a serving port brings it. -/
theorem exec_faultEnd (wf : s.wellFormed) (serves : (s.port p).state = .serving) (job : (s.port p).job = some g)
    (h : s.faultBrought p c condition) :
    ∃ v k, Heard s v p c ∧ k.getD (v.port p).condition = condition ∧ exec c s = .next (closeEvent s (v.faultEnd p g k)) := by
  have listens : (s.port p).state ≠ .offline := by rw [serves]; exact PortState.noConfusion
  rcases h with ⟨rfl, reached, rfl, printer⟩ | ⟨code, capability, rfl, good, fault⟩ | ⟨o, out, third, phase, unanswered⟩
  · refine ⟨s, none, ⟨rfl, ⟨_, _, rfl⟩, .refl s _, .refl _ _, wf⟩, rfl, ?_⟩
    have served : s.servedJob p .printer = some g := (if_pos ⟨serves, printer⟩).trans job
    show Host.Outcome.next (closeEvent s (s.sheetEvent p)) = _
    unfold State.sheetEvent
    rw [if_pos reached, served]
  · refine ⟨s.stateHeard p condition capability, some condition, ⟨rfl, ⟨_, _, State.stateHeard_port⟩, fun r hr =>
      State.stateHeard_port_ne fun e => hr (List.mem_singleton.mpr e), State.stateHeard_writes, State.stateHeard_wellFormed wf⟩,
      rfl, ?_⟩
    have state : ((s.stateHeard p condition capability).port p).state = .serving := by rw [State.stateHeard_port]; exact serves
    have job' : ((s.stateHeard p condition capability).port p).job = some g := by rw [State.stateHeard_port]; exact job
    rw [exec_stateFrame listens good]
    unfold State.stateActs
    rw [state, job']
    dsimp only
    rw [fault]
    rfl
  · have state : ((s.setPort p (s.abandonedPort p c)).port p).state = .serving := by
      rw [State.port_setPort, State.abandonedPort_state]
      exact serves
    have job' : ((s.setPort p (s.abandonedPort p c)).port p).job = some g := by
      rw [State.port_setPort]
      exact (PortRecord.heard_job _ _ _).trans job
    have acts : (s.setPort p (s.abandonedPort p c)).faultAt p condition =
        (s.setPort p (s.abandonedPort p c)).faultEnd p g (some condition) := by
      unfold State.faultAt
      rw [state, job']
    refine ⟨s.setPort p (s.abandonedPort p c), some condition, ⟨rfl, ⟨_, _, s.port_setPort p _⟩, fun r hr =>
      State.port_setPort_ne _ (fun e => hr (List.mem_singleton.mpr e)) _, .refl _ _,
      State.setPort_wellFormed wf (State.abandonedPort_inRange wf unanswered)⟩, rfl, ?_⟩
    rw [exec_third_send out phase listens unanswered third (by rw [acts]; exact State.faultEnd_state _ p g _), acts]

/-! ### What a fault leaves of the port -/

/-- A port has met a fault: FAULTED with the condition, its captured contacts lifted, the rest of it as the command's frame
left it, and PORT_DOWN set (R118, R120, R174). -/
structure Downed (s t : State) (p : Port) (c : Instr) (condition : Condition) : Prop where
  shown : t.portShown p
  port : ∃ cut, t.port p = { ((s.port p).heard (s.portConfig p).cls c).down condition (s.probeStarted p) with
    contacts := (s.port p).contacts.map fun k => k.after true true .orphan, cut := cut }
  written : s.liftsWritten t [p] Contact.captured
  notice : t.notice = s.notice ||| 0x20

theorem PortRecord.down_of (x : PortRecord) (condition k : Condition) (transmitter : Transmitter) (scan : ScanService)
    (probe : Timer) : ({ x with condition := condition, transmitter := transmitter, scan := scan } : PortRecord).down k probe =
      x.down k probe := rfl

theorem PortRecord.down_contacts (x : PortRecord) (k : Condition) (probe : Timer) : (x.down k probe).contacts = x.contacts := rfl

/-- The entry to FAULTED behind a change of the port's service and of other records. -/
theorem Heard.downed {w : State} (h : Heard s v p c) (cond : k.getD (v.port p).condition = condition)
    (port : ∃ scan, w.port p = { v.port p with scan := scan }) (mailboxes : w.mailboxes = v.mailboxes)
    (notice : w.notice = v.notice) (ctl : w.ctl = v.ctl) (wf : w.wellFormed) : Downed s (w.enterFaulted p k) p c condition := by
  obtain ⟨scan, port⟩ := port
  obtain ⟨old, transmitter, heard⟩ := h.port
  have contact (i : Fin 10) : s.contact p i = w.contact p i := by
    unfold State.contact
    simp only [port, h.contacts]
  refine ⟨State.enterFaulted_shown wf, ?_, ?_, by rw [State.enterFaulted_notice, notice, h.notice]⟩
  · obtain ⟨cut, entered⟩ := State.enterFaulted_port (s := w) (p := p) (c := k)
    have probe : w.probeStarted p = s.probeStarted p := by
      unfold State.probeStarted State.portConfig
      rw [ctl, h.ctl]
    refine ⟨cut, ?_⟩
    have same : (w.port p).condition = (v.port p).condition := by rw [port]
    have contacts : (w.port p).contacts = (s.port p).contacts := by rw [port]; exact h.contacts
    rw [entered, same, cond, probe, contacts, port, heard]
    rfl
  · exact (State.enterFaulted_written wf.memory).congr
      (fun r hr i => by rw [List.mem_singleton.mp hr, contact]) (by rw [mailboxes, h.mailboxes]) rfl fun _ _ _ _ => rfl

theorem Downed.contact (h : Downed s t p c condition) (i : Fin 10) : t.contact p i = (s.contact p i).after true true .orphan := by
  obtain ⟨cut, port⟩ := h.port
  unfold State.contact
  simp only [port]
  exact Vector.getElem_map _ _

/-- A port that has met a fault still has while its record, its mirror word, the mailboxes and their words and NOTICE stay. -/
theorem Downed.congr {u : State} (h : Downed s u p c condition) (port : t.port p = u.port p) (mem : t.mem = u.mem)
    (mailboxes : t.mailboxes = u.mailboxes) (notice : t.notice = u.notice) : Downed s t p c condition where
  shown := h.shown.congr port (by unfold State.word; rw [mem])
  port := by rw [port]; exact h.port
  written := h.written.congr (fun _ _ _ => rfl) rfl mailboxes fun _ _ _ _ => by unfold State.word; rw [mem]
  notice := notice.trans h.notice

end

end Sys2Proof.Machine
end

/-! SUPPORT. Links of blocks, and how blocks join the spare tail (R142, R194, R200). -/
section
namespace Sys2Proof.Machine

/-! ### A write that changes nothing -/

/-- A merge of the field's own value is the word. -/
theorem merge_self (w : Word) {low n : Nat} (h : low + n ≤ 32) : merge w (field w low n) low n = w := by
  refine BitVec.eq_of_getLsbD_eq fun i _ => ?_
  by_cases k : i < low ∨ low + n ≤ i
  · exact merge_getLsbD_apart w _ low n i k
  · have same : (merge w (field w low n) low n).extractLsb' low n = w.extractLsb' low n := by
      refine BitVec.eq_of_toNat_eq ?_
      have fields := field_merge_same w (field w low n) h
      rw [Nat.mod_eq_of_lt (by unfold field; exact (w.extractLsb' low n).isLt)] at fields
      exact fields
    have bit := congrArg (fun x => x.getLsbD (i - low)) same
    simp only [BitVec.getLsbD_extractLsb'] at bit
    rw [show low + (i - low) = i by omega] at bit
    simpa [show i - low < n by omega] using bit

theorem writeWord_self {m : Memory} (w : Memory.wf m = true) {a : Nat} (h : a + 3 < Config.exchangeBytes) :
    writeWord m a (readWord m a) = m := by
  refine Memory.ext_readByte (low := 0) (Memory.wf_writeWord w a _) w fun x => ?_
  by_cases out : x < a ∨ a + 4 ≤ x
  · exact readByte_writeWord_ne w out _
  · obtain ⟨i, rfl⟩ : ∃ i, x = a + i := ⟨x - a, by omega⟩
    have hi : i < 4 := by omega
    rw [readByte_eq_extract _ _ hi, readByte_eq_extract _ _ hi, readWord_writeWord w h]

/-! ### The link of one block (R194) -/

/-- The numbers of the part's blocks (R137). -/
def inMap (b : Nat) : Prop := 1 ≤ b ∧ b ≤ 896

theorem blockAddress_bounds {b : Nat} (h : inMap b) : 0x4000 ≤ blockAddress b ∧ blockAddress b + 128 ≤ 0x20000 := by
  unfold inMap at h
  unfold blockAddress
  omega

theorem blockAddress_apart {b c : Nat} (hb : inMap b) (hc : inMap c) (h : b ≠ c) :
    blockAddress b + 128 ≤ blockAddress c ∨ blockAddress c + 128 ≤ blockAddress b := by
  unfold inMap at hb hc
  unfold blockAddress
  omega

section
variable {s t : State} {b c v : Nat}

theorem State.writeLink_writes (h : inMap b) : Writes (within (blockAddress b) 2) s.mem (s.writeLink b v).mem := by
  have bound : blockAddress b + 3 < Config.exchangeBytes := by
    have := blockAddress_bounds h
    rw [exchangeBytes_eq]
    omega
  exact writeMerge_writes s.mem (low := 0) (n := 16) bound rfl rfl

theorem State.readLink_writeLink (w : Memory.wf s.mem = true) (h : inMap b) (small : v < 65536) :
    readLink (s.writeLink b v).mem b = v := by
  have := blockAddress_bounds h
  unfold readLink
  show field (readWord (writeWord s.mem _ _) _) 0 16 = v
  rw [readWord_writeWord w (by rw [exchangeBytes_eq]; omega), field_merge_same _ _ (by omega)]
  omega

theorem State.readLink_writeLink_ne (w : Memory.wf s.mem = true) (hb : inMap b) (hc : inMap c) (ne : c ≠ b) :
    readLink (s.writeLink b v).mem c = readLink s.mem c := by
  have := blockAddress_apart hb hc (Ne.symm ne)
  unfold readLink
  rw [(State.writeLink_writes hb).word w fun a ha k => by unfold within at *; omega]

theorem State.writeLink_self (w : Memory.wf s.mem = true) (h : inMap b) : s.writeLink b (readLink s.mem b) = s := by
  have := blockAddress_bounds h
  unfold State.writeLink readLink State.word State.putWord
  rw [merge_self _ (by omega), writeWord_self w (by rw [exchangeBytes_eq]; omega)]

/-! ### The links of a chain (R142) -/

theorem State.linkChain_mem_congr (h : t.mem = s.mem) (l : List Nat) : (t.linkChain l).mem = (s.linkChain l).mem := by
  have one {s t : State} (h : t.mem = s.mem) (b v : Nat) : (t.writeLink b v).mem = (s.writeLink b v).mem := by
    unfold State.writeLink State.word State.putWord
    simp only [h]
  induction l generalizing s t with
  | nil => exact h
  | cons b rest ih =>
    cases rest with
    | nil => exact one h b 0
    | cons next more => exact ih (one h b next)

theorem State.linkChain_writes (l : List Nat) (range : ∀ b ∈ l, inMap b) :
    Writes (fun a => ∃ b ∈ l, within (blockAddress b) 2 a) s.mem (s.linkChain l).mem := by
  induction l generalizing s with
  | nil => exact .refl _ _
  | cons b rest ih =>
    have first (v : Nat) : Writes (fun a => ∃ c ∈ b :: rest, within (blockAddress c) 2 a) s.mem (s.writeLink b v).mem :=
      (State.writeLink_writes (range b List.mem_cons_self)).mono fun a h => ⟨b, List.mem_cons_self, h⟩
    cases rest with
    | nil => exact first 0
    | cons next more =>
      exact (first next).trans ((ih fun c hc => range c (List.mem_cons_of_mem b hc)).mono fun a ⟨c, hc, h⟩ =>
        ⟨c, List.mem_cons_of_mem b hc, h⟩)

theorem State.readLink_linkChain_ne (w : Memory.wf s.mem = true) {l : List Nat} (range : ∀ b ∈ l, inMap b) (hc : inMap c)
    (h : c ∉ l) : readLink (s.linkChain l).mem c = readLink s.mem c := by
  unfold readLink
  rw [(State.linkChain_writes l range).word w fun a ha ⟨b, hb, k⟩ => by
    have := blockAddress_apart (range b hb) hc fun e => h (e ▸ hb)
    unfold within at *
    omega]

/-- Each block of a chain is linked to the next one, the last one to 0. -/
theorem State.readLink_linkChain (w : Memory.wf s.mem = true) {l : List Nat} (nodup : l.Nodup) (range : ∀ b ∈ l, inMap b) :
    l.map (readLink (s.linkChain l).mem) = l.tail ++ (if l = [] then [] else [0]) := by
  induction l generalizing s with
  | nil => rfl
  | cons b rest ih =>
    have first := range b List.mem_cons_self
    cases rest with
    | nil =>
      show [readLink (s.writeLink b 0).mem b] = [0]
      rw [State.readLink_writeLink w first (by omega)]
    | cons next more =>
      have others : ∀ c ∈ next :: more, inMap c := fun c hc => range c (List.mem_cons_of_mem b hc)
      have fresh : b ∉ next :: more := (List.nodup_cons.mp nodup).1
      have wf : Memory.wf (s.writeLink b next).mem = true := (State.writeLink_writes first).wf w
      show readLink ((s.writeLink b next).linkChain (next :: more)).mem b ::
        (next :: more).map (readLink ((s.writeLink b next).linkChain (next :: more)).mem) = next :: (more ++ [0])
      rw [ih wf (List.nodup_cons.mp nodup).2 others, State.readLink_linkChain_ne wf others first fresh,
        State.readLink_writeLink w first (by have := others next List.mem_cons_self; unfold inMap at this; omega)]
      rfl

/-- A chain that is linked already stays as it is. -/
theorem State.linkChain_self (w : Memory.wf s.mem = true) {l : List Nat} (range : ∀ b ∈ l, inMap b)
    (linked : l.map (readLink s.mem) = l.tail ++ (if l = [] then [] else [0])) : s.linkChain l = s := by
  induction l with
  | nil => rfl
  | cons b rest ih =>
    have first := range b List.mem_cons_self
    cases rest with
    | nil =>
      have link : readLink s.mem b = 0 := by simpa using linked
      show s.writeLink b 0 = s
      rw [← link]
      exact State.writeLink_self w first
    | cons next more =>
      obtain ⟨link, rest⟩ : readLink s.mem b = next ∧ (next :: more).map (readLink s.mem) = more ++ [0] := by simpa using linked
      show (s.writeLink b next).linkChain (next :: more) = s
      rw [← link, State.writeLink_self w first, link]
      exact ih (fun c hc => range c (List.mem_cons_of_mem b hc)) (by simpa using rest)

end

/-! ### Blocks join the spare tail (R142) -/

/-- The memory with the spare mirrors of a spare chain. -/
def spareMirrors (m : Memory) (l : List Nat) : Memory :=
  writeWord (writeWord m 0x10 (place (l.headD 0) 0 16 ||| place (l.getLastD 0) 16 16)) 0x14 (place l.length 0 16)

/-- The old spare tail linked to the first block that joins. -/
def State.tailLinked (s : State) (first : Nat) : State :=
  match s.spare.getLast? with
  | some tail => s.writeLink tail first
  | none => s

section
variable {s : State} {first : Nat} {rest : List Nat}

theorem State.tailLinked_marks : (s.tailLinked first).marks = s.marks := by
  unfold State.tailLinked
  split <;> rfl

theorem State.markAll_marks_congr {t : State} (h : t.marks = s.marks) (l : List Nat) (m : BlockMark) :
    (t.markAll l m).marks = (s.markAll l m).marks := by
  have one {s t : State} (h : t.marks = s.marks) (b : Nat) : (t.setMark b m).marks = (s.setMark b m).marks := by
    unfold State.setMark
    split
    · simp only [h]
    · exact h
  unfold State.markAll
  induction l generalizing s t with
  | nil => exact h
  | cons b rest ih => exact ih (one h b)

theorem State.joinSpare_eq : s.joinSpare (first :: rest) =
    (let m := spareMirrors ((s.tailLinked first).linkChain (first :: rest)).mem (s.spare ++ first :: rest)
    { s with
      spare := s.spare ++ first :: rest
      marks := (s.markAll (first :: rest) .spare).marks
      mem := m } : State) := by
  refine State.ext_of (by simp) ?_ (by simp) (by simp) (by simp) (by simp) (by simp) (by simp) (by simp) (by simp) ?_ rfl (by simp)
    (by simp) (by simp)
  · show spareMirrors (((s.tailLinked first).markAll (first :: rest) .spare).linkChain (first :: rest)).mem _ = _
    have marked : ((s.tailLinked first).markAll (first :: rest) .spare).mem = (s.tailLinked first).mem := by
      rw [State.markAll_eq]
    rw [State.linkChain_mem_congr marked]
    rfl
  · show (((s.tailLinked first).markAll (first :: rest) .spare).linkChain (first :: rest)).marks = _
    rw [State.linkChain_marks, State.markAll_marks_congr State.tailLinked_marks]

end

/-! ### What the join leaves (R142) -/

/-- Different blocks of the part are no more than 896. -/
theorem length_le_of_inMap {l : List Nat} (nodup : l.Nodup) (range : ∀ b ∈ l, inMap b) : l.length ≤ 896 := by
  have sub : l.toFinset ⊆ Finset.Icc 1 896 := fun b hb => Finset.mem_Icc.mpr (range b (List.mem_toFinset.mp hb))
  have card := Finset.card_le_card sub
  rw [List.toFinset_card_of_nodup nodup, Nat.card_Icc] at card
  exact card

theorem spareMirrors_writes (m : Memory) (l : List Nat) : Writes (within 0x10 8) m (spareMirrors m l) :=
  ((writeWord_writes m 0x10 _).mono fun _ h => by unfold within at *; omega).trans
    ((writeWord_writes _ 0x14 _).mono fun _ h => by unfold within at *; omega)

theorem spareMirrors_words {m : Memory} (w : Memory.wf m = true) (l : List Nat) :
    readWord (spareMirrors m l) 0x10 = place (l.headD 0) 0 16 ||| place (l.getLastD 0) 16 16 ∧
      readWord (spareMirrors m l) 0x14 = place l.length 0 16 := by
  have first := Memory.wf_writeWord w 0x10 (place (l.headD 0) 0 16 ||| place (l.getLastD 0) 16 16)
  refine ⟨?_, readWord_writeWord first (by decide) _⟩
  exact (readWord_writeWord_ne first (by omega) _).trans (readWord_writeWord w (by decide) _)

/-- The first, the last and the number of the spare blocks, as the hall header shows them (R195). -/
theorem spareMirrors_fields {m : Memory} (w : Memory.wf m = true) (l : List Nat) :
    field (readWord (spareMirrors m l) 0x10) 0 16 = l.headD 0 % 65536 ∧
      field (readWord (spareMirrors m l) 0x10) 16 16 = l.getLastD 0 % 65536 ∧
      field (readWord (spareMirrors m l) 0x14) 0 16 = l.length % 65536 := by
  obtain ⟨ends, count⟩ := spareMirrors_words w l
  rw [ends, count, field_or_left (field_place_apart _ (by omega)), field_or_right (field_place_apart _ (by omega)),
    field_place_same _ (by omega), field_place_same _ (by omega), field_place_same _ (by omega)]
  exact ⟨rfl, rfl, rfl⟩

section
variable {s : State} {first : Nat} {rest : List Nat}

/-- The blocks that join are different blocks of the part and none of the spare chain, which is one of such blocks. -/
structure State.canJoin (s : State) (blocks : List Nat) : Prop where
  nodup : blocks.Nodup
  range : ∀ b ∈ blocks, inMap b
  spareNodup : s.spare.Nodup
  spareRange : ∀ b ∈ s.spare, inMap b
  apart : ∀ b ∈ s.spare, b ∉ blocks

theorem State.canJoin.count {blocks : List Nat} (h : s.canJoin blocks) : (s.spare ++ blocks).length ≤ 896 := by
  refine length_le_of_inMap (List.nodup_append.mpr ⟨h.spareNodup, h.nodup, fun a ha b hb e => h.apart a ha (e ▸ hb)⟩) fun b hb => ?_
  rcases List.mem_append.mp hb with k | k
  · exact h.spareRange b k
  · exact h.range b k

theorem State.tailLinked_writes (range : ∀ b ∈ s.spare, inMap b) :
    Writes (fun a => ∃ tail, s.spare.getLast? = some tail ∧ within (blockAddress tail) 2 a) s.mem (s.tailLinked first).mem := by
  unfold State.tailLinked
  split
  · next tail last =>
    exact (State.writeLink_writes (range tail (List.mem_of_getLast? last))).mono fun a h => ⟨tail, last, h⟩
  · exact .refl _ _

theorem State.joinSpare_mem : (s.joinSpare (first :: rest)).mem =
    spareMirrors ((s.tailLinked first).linkChain (first :: rest)).mem (s.spare ++ first :: rest) := by
  rw [State.joinSpare_eq]

theorem State.joinSpare_writes (range : ∀ b ∈ first :: rest, inMap b) (spareRange : ∀ b ∈ s.spare, inMap b) :
    Writes (fun a => within 0x10 8 a ∨
        ∃ b, (s.spare.getLast? = some b ∨ b ∈ first :: rest) ∧ within (blockAddress b) 2 a)
      s.mem (s.joinSpare (first :: rest)).mem := by
  rw [State.joinSpare_mem]
  exact (((State.tailLinked_writes spareRange).mono fun a ⟨b, hb, h⟩ => .inr ⟨b, .inl hb, h⟩).trans
    ((State.linkChain_writes _ range).mono fun a ⟨b, hb, h⟩ => .inr ⟨b, .inr hb, h⟩)).trans
    ((spareMirrors_writes _ _).mono fun a h => .inl h)

/-- The links behind the mirrors are those before. -/
theorem readLink_spareMirrors {m : Memory} (w : Memory.wf m = true) (l : List Nat) (b : Nat) :
    readLink (spareMirrors m l) b = readLink m b := by
  unfold readLink
  rw [(spareMirrors_writes m l).word w fun a ha k => by unfold within blockAddress at *; omega]

/-- The blocks have joined the spare tail. -/
theorem State.joinSpare_joined (w : Memory.wf s.mem = true) (h : s.canJoin (first :: rest)) :
    s.spareJoined (s.joinSpare (first :: rest)) (first :: rest) := by
  have tailed := State.tailLinked_writes (first := first) h.spareRange
  have linked := State.linkChain_writes (s := s.tailLinked first) (first :: rest) h.range
  have w₁ : Memory.wf (s.tailLinked first).mem = true := tailed.wf w
  have w₂ : Memory.wf ((s.tailLinked first).linkChain (first :: rest)).mem = true := linked.wf w₁
  obtain ⟨head, last, count⟩ := spareMirrors_fields w₂ (s.spare ++ first :: rest)
  have small : ∀ b ∈ s.spare ++ first :: rest, b < 65536 := fun b hb => by
    rcases List.mem_append.mp hb with k | k
    · have := h.spareRange b k; unfold inMap at this; omega
    · have := h.range b k; unfold inMap at this; omega
  have spare : (s.joinSpare (first :: rest)).spare = s.spare ++ first :: rest := by rw [State.joinSpare_eq]
  refine ⟨spare, fun b => ?_, fun tail ht => ?_, ?_, ?_, ?_, ?_⟩
  · have marks : (s.joinSpare (first :: rest)).marks = (s.markAll (first :: rest) .spare).marks := by rw [State.joinSpare_eq]
    rw [← State.markAll_mark (s := s) (first :: rest) fun k => .inl (h.range b k)]
    unfold State.mark
    rw [marks]
  · have inSpare := List.mem_of_getLast? ht
    rw [State.joinSpare_mem, readLink_spareMirrors w₂,
      State.readLink_linkChain_ne w₁ h.range (h.spareRange tail inSpare) (h.apart tail inSpare)]
    unfold State.tailLinked
    rw [ht]
    exact State.readLink_writeLink w (h.spareRange tail inSpare) (small first (by simp))
  · have links := State.readLink_linkChain w₁ h.nodup h.range
    rw [if_neg (List.cons_ne_nil first rest)] at links
    rw [State.joinSpare_mem]
    exact (List.map_congr_left fun b _ => readLink_spareMirrors w₂ _ b).trans links
  · rw [spare]
    unfold State.word
    rw [State.joinSpare_mem, head]
    refine Nat.mod_eq_of_lt ?_
    cases l : s.spare with
    | nil => exact small first (by simp)
    | cons a more => exact small a (by simp [l])
  · rw [spare]
    unfold State.word
    rw [State.joinSpare_mem, last]
    refine Nat.mod_eq_of_lt (small _ ?_)
    rw [List.getLastD_eq_getLast?, List.getLast?_eq_some_getLast (by simp)]
    exact List.getLast_mem _
  · rw [spare]
    unfold State.word
    rw [State.joinSpare_mem, count]
    exact Nat.mod_eq_of_lt (by have := h.count; omega)

end

end Sys2Proof.Machine
end

/-! SUPPORT. The refill walk and splice, and the return of a scan's blocks (R144, R146 to R148, R154). -/
section
namespace Sys2Proof.Machine

/-! ### The walk (R147) -/

section
variable {s : State}

theorem refillWalk_step {b : Nat} (range : inMap b) (mark : s.mark b = .outside) (n : Nat) (passed : List Nat) :
    refillWalk s (n + 1) b passed =
      if readLink s.mem b = 0 then { passed := passed ++ [b], failure := none }
      else refillWalk s n (readLink s.mem b) (passed ++ [b]) := by
  rw [refillWalk, if_neg (by unfold inMap at range; unfold Config.blocks; omega)]
  exact if_neg (not_not_intro mark)

/-- A walk passes the blocks that are OUTSIDE and linked each to the next. -/
theorem refillWalk_passes {b : Nat} : ∀ (before passed : List Nat) (n x : Nat),
    (∀ y ∈ before, inMap y ∧ s.mark y = .outside) → before.map (readLink s.mem) = (before ++ [b]).tail →
    (before ++ [b]).head? = some x → b ≠ 0 →
      refillWalk s (n + before.length) x passed = refillWalk s n b (passed ++ before)
  | [], passed, n, x, _, _, head, _ => by
    cases head
    simp
  | y :: before, passed, n, x, good, links, head, nonzero => by
    cases head
    obtain ⟨range, mark⟩ := good y List.mem_cons_self
    obtain ⟨next, hnext⟩ : ∃ next, (before ++ [b]).head? = some next := by
      cases before <;> exact ⟨_, rfl⟩
    have split : before ++ [b] = next :: (before ++ [b]).tail := by
      cases before <;> cases hnext <;> rfl
    have here : readLink s.mem y :: before.map (readLink s.mem) = next :: (before ++ [b]).tail := by
      rw [← split]
      exact links
    obtain ⟨link, more⟩ := List.cons.inj here
    have notZero : next ≠ 0 := by
      cases before with
      | nil => cases hnext; exact nonzero
      | cons z _ => cases hnext; exact fun e => by have := (good next (by simp)).1; unfold inMap at this; omega
    have len : n + (y :: before).length = (n + before.length) + 1 := by simp [Nat.add_assoc]
    rw [len, refillWalk_step range mark, link, if_neg notZero, refillWalk_passes before _ n next (fun z hz => good z (List.mem_cons_of_mem y hz)) more hnext nonzero]
    simp

/-- A walk ends well at a block whose link is 0. -/
theorem refillWalk_ends {b : Nat} (range : inMap b) (mark : s.mark b = .outside) (link : readLink s.mem b = 0) (n : Nat)
    (passed : List Nat) : refillWalk s (n + 1) b passed = { passed := passed ++ [b], failure := none } := by
  rw [refillWalk_step range mark, if_pos link]

theorem refillWalk_badIndex {b : Nat} (h : 896 < b) (n : Nat) (passed : List Nat) :
    refillWalk s n b passed = { passed := passed, failure := some (2, b) } := by
  unfold refillWalk
  exact if_pos h

theorem refillWalk_loop {b : Nat} (h : b ≤ 896) (passed : List Nat) :
    refillWalk s 0 b passed = { passed := passed, failure := some (3, b) } := by
  unfold refillWalk
  exact if_neg (by unfold Config.blocks; omega)

theorem refillWalk_duplicate {b : Nat} (h : b ≤ 896) (mark : s.mark b ≠ .outside) (n : Nat) (passed : List Nat) :
    refillWalk s (n + 1) b passed = { passed := passed, failure := some (4, b) } := by
  rw [refillWalk, if_neg (by unfold Config.blocks; omega)]
  exact if_pos mark

/-- A chain of blocks that end with link 0 passes whole. -/
theorem refillWalk_chain {first : Nat} {rest : List Nat} (nodup : (first :: rest).Nodup)
    (good : ∀ b ∈ first :: rest, inMap b ∧ s.mark b = .outside) (links : (first :: rest).map (readLink s.mem) = rest ++ [0]) :
    refillWalk s 896 first [] = { passed := first :: rest, failure := none } := by
  have count := length_le_of_inMap nodup fun b hb => (good b hb).1
  obtain ⟨before, b, whole⟩ := List.eq_nil_or_concat (first :: rest) |>.resolve_left (List.cons_ne_nil _ _)
  rw [List.concat_eq_append] at whole
  have tail : rest = (before ++ [b]).tail := by rw [← whole]; rfl
  have head : (before ++ [b]).head? = some first := by rw [← whole]; rfl
  rw [whole] at good links count
  rw [tail, List.map_append] at links
  obtain ⟨inner, last⟩ := List.append_inj' links rfl
  have link : readLink s.mem b = 0 := by simpa using last
  obtain ⟨range, mark⟩ := good b (by simp)
  have len : 896 = (896 - before.length - 1 + 1) + before.length := by
    rw [List.length_append, List.length_singleton] at count
    omega
  rw [len, refillWalk_passes before [] _ first (fun y hy => good y (List.mem_append_left _ hy)) inner head
    (by unfold inMap at range; omega), refillWalk_ends range mark link, whole]
  rfl

/-! ### The splice (R148) -/

theorem State.closeSplice_mem (s : State) (status : Word) :
    (s.closeSplice status).mem = writeWord (writeWord s.mem 0x0C status) 0x08 0 := rfl

theorem State.closeSplice_words (w : Memory.wf s.mem = true) (status : Word) :
    (s.closeSplice status).word 0x08 = 0 ∧ (s.closeSplice status).word 0x0C = status ∧
      Writes (within 0x08 8) s.mem (s.closeSplice status).mem := by
  have first := Memory.wf_writeWord w 0x0C status
  unfold State.word
  rw [State.closeSplice_mem]
  refine ⟨readWord_writeWord first (by decide) _, ?_, ?_⟩
  · exact (readWord_writeWord_ne first (by omega) _).trans (readWord_writeWord w (by decide) _)
  · exact ((writeWord_writes s.mem 0x0C _).mono fun _ h => by unfold within at *; omega).trans
      ((writeWord_writes _ 0x08 _).mono fun _ h => by unfold within at *; omega)

/-- A walk that fails rejects the refill with its status (R148). -/
theorem State.spliceRefill_rejects (wf : s.wellFormed) (word : s.word 0x08 ≠ 0) {code subject : Nat} {passed : List Nat}
    (walk : refillWalk s 896 (s.word 0x08).toNat [] = { passed := passed, failure := some (code, subject) }) :
    s.spliceRefill = { s with mem := s.spliceRefill.mem, notice := s.notice ||| 0x10 } ∧ s.spliceRefill.word 0x08 = 0 ∧
      s.spliceRefill.word 0x0C = place code 0 4 ||| place passed.length 4 12 ||| place subject 16 16 ∧
      s.memoryKept s.spliceRefill fun a => within 0x08 8 a := by
  have splice : s.spliceRefill = s.closeSplice (refillStatus code passed.length subject) := by
    unfold State.spliceRefill
    dsimp only
    rw [show Config.blocks = 896 from rfl, walk]
    exact if_neg word
  obtain ⟨refill, status, writes⟩ := State.closeSplice_words wf.memory (refillStatus code passed.length subject)
  rw [splice]
  exact ⟨rfl, refill, status, writes.kept wf.memory⟩

/-- Blocks may join the spare tail where they are OUTSIDE in a part whose records agree. -/
theorem State.structured.canJoin {blocks : List Nat} (h : s.structured) (nodup : blocks.Nodup)
    (good : ∀ b ∈ blocks, inMap b ∧ s.mark b ≠ .spare) : s.canJoin blocks := by
  obtain ⟨-, -, -, ⟨spareNodup, spare, -⟩, -⟩ := h
  refine ⟨nodup, fun b hb => (good b hb).1, spareNodup, fun b hb => ?_, fun b hb k => (good b k).2 ((spare b).mp hb)⟩
  exact State.mark_range (by rw [(spare b).mp hb]; exact BlockMark.noConfusion)

theorem State.joinSpare_wf (wf : s.wellFormed) (blocks : List Nat) : Memory.wf (s.joinSpare blocks).mem = true :=
  ((s.joinSpare_kept blocks).data wf).memory

/-- The count of the spare blocks, as the hall header shows it. -/
theorem State.joinSpare_count (w : Memory.wf s.mem = true) {first : Nat} {rest : List Nat} (range : ∀ b ∈ first :: rest, inMap b) :
    field ((s.joinSpare (first :: rest)).word 0x14) 0 16 = (s.spare.length + rest.length + 1) % 65536 ∧
      field ((s.joinSpare (first :: rest)).word 0x10) 0 16 = (s.spare ++ first :: rest).headD 0 % 65536 := by
  have tailed : Memory.wf (s.tailLinked first).mem = true := by
    unfold State.tailLinked
    split
    · exact Memory.wf_writeWord w _ _
    · exact w
  obtain ⟨head, -, count⟩ := spareMirrors_fields ((State.linkChain_writes (first :: rest) range).wf tailed) (s.spare ++ first :: rest)
  unfold State.word
  rw [State.joinSpare_mem, count, head, List.length_append, List.length_cons]
  exact ⟨rfl, rfl⟩

/-- The state of a refill that has been appended. -/
def State.appended (s : State) (blocks : List Nat) : State :=
  ((s.joinSpare blocks).closeSplice (refillStatus 1 blocks.length 0)).goTest

theorem State.spliceRefill_appends (word : s.word 0x08 ≠ 0) {blocks : List Nat}
    (walk : refillWalk s 896 (s.word 0x08).toNat [] = { passed := blocks, failure := none }) :
    s.spliceRefill = s.appended blocks := by
  unfold State.spliceRefill
  dsimp only
  rw [show Config.blocks = 896 from rfl, walk]
  exact if_neg word

theorem State.goTest_same {β : Type} (view : State → β) (h : ∀ t p x, view (State.setPort t p x) = view t) (s : State) :
    view s.goTest = view s := by
  unfold State.goTest
  exact State.foldl_same view (fun t p => by rw [t.goTestAt_eq]; exact h t p _) _ s

theorem State.goTest_eq (s : State) : s.goTest = { s with ports := s.goTest.ports } :=
  State.eq_ports fun _ view h => s.goTest_same view h

theorem State.closeSplice_tested {notice : BitVec 8} (u : State) (h : u.notice = notice) (w : Word) : (u.closeSplice w).goTest =
    { u with
      mem := (u.closeSplice w).mem
      notice := notice ||| 0x10
      ports := (u.closeSplice w).goTest.ports } := by
  refine (State.goTest_eq _).trans ?_
  generalize (u.closeSplice w).goTest.ports = ports
  subst h
  rfl

/-- Every record but the ports is the join's. -/
theorem State.appended_eq (s : State) (blocks : List Nat) : s.appended blocks =
    { s.joinSpare blocks with
      mem := ((s.joinSpare blocks).closeSplice (refillStatus 1 blocks.length 0)).mem
      notice := s.notice ||| 0x10
      ports := (s.appended blocks).ports } :=
  State.closeSplice_tested (s.joinSpare blocks) (State.joinSpare_notice _ _) (refillStatus 1 blocks.length 0)

theorem State.appended_port (s : State) (blocks : List Nat) (p : Port) :
    (s.appended blocks).port p = (s.port p).goTested (s.joinSpare blocks).spare.length := by
  unfold State.appended
  rw [State.goTest_port, State.closeSplice_spare]
  unfold State.port
  rw [State.closeSplice_ports, State.joinSpare_ports]

/-- The refill words, and what stands behind them. -/
theorem State.appended_words (wf : s.wellFormed) (blocks : List Nat) : (s.appended blocks).word 0x08 = 0 ∧
    (s.appended blocks).word 0x0C = refillStatus 1 blocks.length 0 ∧
      Writes (within 0x08 8) (s.joinSpare blocks).mem (s.appended blocks).mem := by
  have words := State.closeSplice_words (State.joinSpare_wf wf blocks) (refillStatus 1 blocks.length 0)
  rw [State.appended_eq]
  exact words

/-- What the words of the header behind 0x08 and the links show stands while the refill words are written. -/
theorem State.spareJoined.congr {t u : State} {blocks : List Nat} (h : s.spareJoined u blocks) (spare : t.spare = u.spare)
    (marks : t.marks = u.marks) (w : Memory.wf u.mem = true) (writes : Writes (within 0x08 8) u.mem t.mem) :
    s.spareJoined t blocks := by
  obtain ⟨joined, mark, tail, links, head, last, count⟩ := h
  have link (b : Nat) : readLink t.mem b = readLink u.mem b := by
    unfold readLink
    rw [writes.word w fun a ha k => by unfold within blockAddress at *; omega]
  have word (a : Nat) (ha : 0x10 ≤ a) : t.word a = u.word a := writes.word w fun b hb k => by unfold within at *; omega
  refine ⟨spare.trans joined, fun b => ?_, fun x hx => (link x).trans (tail x hx), ?_, ?_, ?_, ?_⟩
  · rw [← mark b]
    unfold State.mark
    rw [marks]
  · rw [← links]
    exact List.map_congr_left fun b _ => link b
  · rw [word 0x10 (by omega), head, spare]
  · rw [word 0x10 (by omega), last, spare]
  · rw [word 0x14 (by omega), count, spare]

/-- A refill that is appended writes the refill words, the mirrors and the old tail's link alone: its own links stand. -/
theorem State.joinSpare_writes_linked {first : Nat} {rest : List Nat} (w : Memory.wf s.mem = true) (h : s.canJoin (first :: rest))
    (links : (first :: rest).map (readLink s.mem) = rest ++ [0]) :
    Writes (fun a => within 0x10 8 a ∨ ∃ tail, s.spare.getLast? = some tail ∧ within (blockAddress tail) 2 a) s.mem
      (s.joinSpare (first :: rest)).mem := by
  have tailed := State.tailLinked_writes (first := first) h.spareRange
  have stands : (first :: rest).map (readLink (s.tailLinked first).mem) = rest ++ [0] := by
    rw [← links]
    refine List.map_congr_left fun b hb => ?_
    unfold State.tailLinked
    split
    · next tail last =>
      have inSpare := List.mem_of_getLast? last
      exact State.readLink_writeLink_ne w (h.spareRange tail inSpare) (h.range b hb) fun e => h.apart tail inSpare (e ▸ hb)
    · rfl
  rw [State.joinSpare_mem, State.linkChain_self (tailed.wf w) h.range (by rw [if_neg (List.cons_ne_nil _ _)]; exact stands)]
  exact (tailed.mono fun _ k => .inr k).trans ((spareMirrors_writes _ _).mono fun _ k => .inl k)

end

section
variable {s : State} {blocks : List Nat}

theorem State.appended_mark (range : ∀ b ∈ blocks, inMap b) (b : Nat) :
    (s.appended blocks).mark b = if b ∈ blocks then .spare else s.mark b := by
  rw [← State.markAll_mark (s := s) blocks fun k => .inl (range b k)]
  unfold State.mark
  rw [State.appended_eq]
  cases blocks with
  | nil => rfl
  | cons first rest => simp only [State.joinSpare_eq]

/-- What a refill leaves in a part whose records agree. -/
theorem State.appended_joined {first : Nat} {rest : List Nat} (wf : s.wellFormed) (joins : s.canJoin (first :: rest))
    (links : (first :: rest).map (readLink s.mem) = rest ++ [0]) : s.spareJoined (s.appended (first :: rest)) (first :: rest) ∧
      (s.memoryKept (s.appended (first :: rest)) fun a => within 0x08 16 a ∨
        ∃ tail, s.spare.getLast? = some tail ∧ within (blockAddress tail) 2 a) ∧
      ∀ p, (s.appended (first :: rest)).port p = (s.port p).goTested (s.appended (first :: rest)).spare.length := by
  have w := State.joinSpare_wf wf (first :: rest)
  obtain ⟨-, -, writes⟩ := State.appended_words wf (first :: rest)
  have spare : (s.appended (first :: rest)).spare = (s.joinSpare (first :: rest)).spare := by rw [State.appended_eq]
  refine ⟨(State.joinSpare_joined wf.memory joins).congr spare (by rw [State.appended_eq]) w writes, ?_, fun p => ?_⟩
  · refine (((State.joinSpare_writes_linked wf.memory joins links).mono fun a h => ?_).trans
      (writes.mono fun a h => .inl ?_)).kept wf.memory
    · exact h.imp (fun k => by unfold within at *; omega) id
    · unfold within at *
      omega
  · rw [spare, State.appended_port]

end

theorem State.updateJob_slotsKept {s : State} {g : Slot} (f : JobRecord → JobRecord) : s.slotsKept (s.updateJob g f) [g] :=
  fun _ h => s.slot_setSlot_ne (fun e => h (List.mem_singleton.mpr e)) _

/-- A field without bits set. -/
theorem place_zero (low n : Nat) : place 0 low n = 0#32 := by
  unfold place
  simp

section
variable {s : State} {g : Slot}

theorem State.returnResults_eq {first : Nat} {rest : List Nat} (h : (s.job g).resultChain = first :: rest) :
    s.returnResults g = ((s.joinSpare (first :: rest)).updateJob g fun j => { j with resultChain := [] }).goTest := by
  unfold State.returnResults
  rw [h]

theorem State.returnResults_nil (h : (s.job g).resultChain = []) : s.returnResults g = s := by
  unfold State.returnResults
  rw [h]

/-- The blocks of a result chain may join the spare tail. -/
theorem State.structured.canReturn (h : s.structured) (g : Slot) : s.canJoin (s.job g).resultChain := by
  obtain ⟨-, -, -, ⟨-, -, nodup, -, result⟩, -⟩ := id h
  refine h.canJoin (nodup g) fun b hb => ?_
  have mark := (result b).mpr ⟨g, hb⟩
  exact ⟨State.mark_range (by rw [mark]; exact BlockMark.noConfusion), by rw [mark]; exact BlockMark.noConfusion⟩

end

section
variable {s : State} {g : Slot} {blocks : List Nat}

theorem State.returned_eq (u : State) (g : Slot) (f : JobRecord → JobRecord) : (u.updateJob g f).goTest =
    { u with slots := (u.updateJob g f).slots, ports := (u.updateJob g f).goTest.ports } := State.goTest_eq _

/-- What the return of a result chain leaves. -/
theorem State.returnResults_returned {first : Nat} {rest : List Nat} (wf : s.wellFormed) (chain : (s.job g).resultChain = first :: rest)
    (joins : s.canJoin (first :: rest)) : s.spareJoined (s.returnResults g) (s.job g).resultChain ∧
      (s.returnResults g).job g = { s.job g with resultChain := [] } ∧ s.slotsKept (s.returnResults g) [g] ∧
      (∀ p, (s.returnResults g).port p = (s.port p).goTested (s.returnResults g).spare.length) ∧
      s.returnResults g = { s with
        slots := (s.returnResults g).slots
        marks := (s.returnResults g).marks
        spare := (s.returnResults g).spare
        mem := (s.returnResults g).mem
        ports := (s.returnResults g).ports } ∧
      s.memoryKept (s.returnResults g) fun a => within 0x10 8 a ∨
        ∃ b, (s.spare.getLast? = some b ∨ b ∈ (s.job g).resultChain) ∧ within (blockAddress b) 2 a := by
  have joined := State.joinSpare_joined wf.memory joins
  have w := State.joinSpare_wf wf (first :: rest)
  have writes := State.joinSpare_writes (s := s) joins.range joins.spareRange
  have slots (x : Slot) : (s.joinSpare (first :: rest)).slot x = s.slot x := by
    unfold State.slot
    simp only [State.joinSpare_slots]
  have ports (x : Port) : (s.joinSpare (first :: rest)).port x = s.port x := by
    unfold State.port
    rw [State.joinSpare_ports]
  have whole := State.joinSpare_eq (s := s) (first := first) (rest := rest)
  rw [State.returnResults_eq chain, chain]
  generalize s.joinSpare (first :: rest) = u at *
  have returned := State.returned_eq u g fun j => { j with resultChain := [] }
  have port (x : Port) := State.goTest_port (u.updateJob g fun j => { j with resultChain := [] }) x
  have job : (u.updateJob g fun j => { j with resultChain := [] }).slot g = { s.slot g with job := { s.job g with resultChain := [] } } := by
    refine (u.slot_setSlot g _).trans ?_
    unfold State.job
    rw [slots]
  have kept := State.updateJob_slotsKept (s := u) (g := g) fun j => { j with resultChain := [] }
  have shadow (x : Slot) : (u.updateJob g fun j => { j with resultChain := [] }).goTest.slot x =
      (u.updateJob g fun j => { j with resultChain := [] }).slot x := by
    unfold State.slot
    simp only [State.goTest_slots]
  generalize (u.updateJob g fun j => { j with resultChain := [] }).goTest = t at *
  have spare : t.spare = u.spare := by rw [returned]
  refine ⟨joined.congr spare (by rw [returned]) w (.of_eq (by rw [returned])), ?_, fun x e => ?_, fun p => ?_, ?_, ?_⟩
  · exact congrArg SlotShadow.job ((shadow g).trans job)
  · rw [shadow, kept x e, slots]
  · rw [port p, spare, ← ports p]
    rfl
  · have frame {β : Type} (view : State → β) (h : view { u with slots := t.slots, ports := t.ports } = view u)
        (k : view u = view s) : view t = view s := by
      rw [returned] at h ⊢
      exact h.trans k
    exact State.ext_of (frame State.ctl rfl (by rw [whole])) rfl (frame State.notice rfl (by rw [whole]))
      (frame State.stationNotice rfl (by rw [whole])) rfl (frame State.queues rfl (by rw [whole]))
      (frame State.deadlines rfl (by rw [whole])) (frame State.stats rfl (by rw [whole]))
      (frame State.stations rfl (by rw [whole])) rfl rfl rfl (frame State.mailboxes rfl (by rw [whole]))
      (frame State.free rfl (by rw [whole])) (frame State.pending rfl (by rw [whole]))
  · rw [State.memoryKept, returned]
    exact writes.kept wf.memory

end

/-- Settles O31: the walk block by block, then the splice; a return joins in the same way. -/
theorem refillWordIsSpliced : Obligations.RefillWordIsSpliced := by
  unfold Obligations.RefillWordIsSpliced
  refine ⟨fun s wf => ⟨fun code subject word h => ?_, fun before b code word good links head count nonzero h => ?_,
    fun first rest word nodup good links => ?_⟩, fun s g wf agree => ⟨fun none => State.returnResults_nil none, fun some => ?_⟩⟩
  · have walk : refillWalk s 896 (s.word 0x08).toNat [] = { passed := [], failure := some (code, subject) } := by
      rcases h with ⟨high, rfl, rfl⟩ | ⟨low, mark, rfl, rfl⟩
      · exact refillWalk_badIndex high _ _
      · exact refillWalk_duplicate low mark _ _
    obtain ⟨whole, refill, status, kept⟩ := State.spliceRefill_rejects wf word walk
    refine ⟨whole, refill, status.trans ?_, kept⟩
    rw [List.length_nil, place_zero, BitVec.or_zero]
  · have passes := refillWalk_passes before [] (896 - before.length) _ (fun y hy => ⟨⟨(good y hy).1, (good y hy).2.1⟩, (good y hy).2.2⟩)
      links head nonzero
    rw [Nat.sub_add_cancel count] at passes
    have walk : refillWalk s 896 (s.word 0x08).toNat [] = { passed := before, failure := some (code, b) } := by
      rw [passes, List.nil_append]
      rcases h with ⟨high, rfl⟩ | ⟨low, full, rfl⟩ | ⟨low, short, mark, rfl⟩
      · exact refillWalk_badIndex high _ _
      · rw [full]
        exact refillWalk_loop low _
      · rw [show 896 - before.length = (895 - before.length) + 1 by omega]
        exact refillWalk_duplicate low mark _ _
    exact State.spliceRefill_rejects wf word walk
  · have blocks : ∀ b ∈ first :: rest, inMap b ∧ s.mark b = .outside := fun b hb =>
      ⟨⟨(good b hb).1, (good b hb).2.1⟩, (good b hb).2.2⟩
    have nonzero : s.word 0x08 ≠ 0 := fun e => by
      have range := (blocks first List.mem_cons_self).1
      rw [← word, e] at range
      exact absurd range.1 (by decide)
    have splice := State.spliceRefill_appends nonzero (by rw [word]; exact refillWalk_chain nodup blocks links)
    have range : ∀ b ∈ first :: rest, inMap b := fun b hb => (blocks b hb).1
    obtain ⟨refill, status, writes⟩ := State.appended_words wf (first :: rest)
    obtain ⟨count, head⟩ := State.joinSpare_count wf.memory range
    have above (a : Nat) (h : 0x10 ≤ a) : (s.appended (first :: rest)).word a = (s.joinSpare (first :: rest)).word a :=
      writes.word (State.joinSpare_wf wf _) fun b hb k => by unfold within at *; omega
    have mark := State.appended_mark (s := s) (blocks := first :: rest) range
    have records := s.appended_eq (first :: rest)
    rw [State.joinSpare_eq] at records
    rw [splice]
    refine ⟨by rw [records], fun b hb => (mark b).trans (if_pos hb), fun b hb => (mark b).trans (if_neg hb), refill,
      ?_, by rw [records], ?_, fun empty => ?_, by rw [records], by rw [records], by rw [records], by rw [records], by rw [records],
      by rw [records], by rw [records], by rw [records], fun agree => ?_⟩
    · rw [status, refillStatus, place_zero, BitVec.or_zero]
      rfl
    · rw [above 0x14 (by omega), count]
    · rw [above 0x10 (by omega), head, empty]
      exact Nat.mod_eq_of_lt (by have := range first List.mem_cons_self; unfold inMap at this; simp; omega)
    · refine State.appended_joined wf (agree.canJoin nodup fun b hb => ⟨range b hb, ?_⟩) links
      rw [(blocks b hb).2]
      exact BlockMark.noConfusion
  · obtain ⟨first, rest, chain⟩ := List.exists_cons_of_ne_nil some
    exact State.returnResults_returned wf chain (chain ▸ agree.canReturn g)

end Sys2Proof.Machine
end

/-! SUPPORT. The job at a fault end: its progress kept, then finished or re-queued, its result blocks given back (R91 to R93,
R133, R144, R159, R179). -/
section
namespace Sys2Proof.Machine

section
variable {s v t : State} {p : Port} {g : Slot} {c : Instr} {condition : Condition} {k : Option Condition}

/-- The progress that a service leaves in its job's record (R133, R179). -/
def State.progress (s : State) (p : Port) (j : JobRecord) : JobRecord :=
  match (s.portConfig p).cls with
  | .printer => { j with resumeCopy := (s.port p).print.copy, resumeSheet := (s.port p).print.sheet }
  | .panel => { j with holdRemaining := max 1 (s.holdLeft p) }
  | .scanner | .none | .bad => j

theorem State.updateJob_id (s : State) (g : Slot) : s.updateJob g (fun j => j) = s := by
  have same : s.slots.set g.val (s.slot g) g.isLt = s.slots := Vector.set_getElem_self g.isLt
  unfold State.updateJob State.setSlot
  exact congrArg (fun slots => { s with slots := slots }) same

theorem State.keepProgress_eq : s.keepProgress p g = s.updateJob g (s.progress p) := by
  unfold State.keepProgress State.progress
  cases (s.portConfig p).cls with
  | printer => rfl
  | panel => rfl
  | scanner => exact (s.updateJob_id g).symm
  | none => exact (s.updateJob_id g).symm
  | bad => exact (s.updateJob_id g).symm

theorem State.progress_same (j : JobRecord) : (s.progress p j).pool = j.pool ∧ (s.progress p j).serviceGrant = j.serviceGrant ∧
    (s.progress p j).acceptStamp = j.acceptStamp ∧ (s.progress p j).faults = j.faults ∧ (s.progress p j).cls = j.cls ∧
      (s.progress p j).resultChain = j.resultChain := by
  unfold State.progress
  split <;> exact ⟨rfl, rfl, rfl, rfl, rfl, rfl⟩

theorem State.updateJob_slot (f : JobRecord → JobRecord) : (s.updateJob g f).slot g = { s.slot g with job := f (s.job g) } :=
  s.slot_setSlot g _

theorem State.updateJob_wellFormed (wf : s.wellFormed) : (s.updateJob g (s.progress p)).wellFormed := by
  rw [← State.keepProgress_eq]
  exact (s.keepProgress_kept p g).data wf

/-! ### A job finished by a fault (R92, R93) -/

/-- The service of a job has ended by a fault that finishes it. -/
def State.faultFinished (s : State) (p : Port) (g : Slot) (o : JobOutcome) (d : Detail) (k : Option Condition) : State :=
  ((s.updateJob g (s.progress p)).finish g o d none).enterFaulted p k

theorem State.faultEnd_finishes {o : JobOutcome} {d : Detail} (h : s.faultFinish g = some (o, d)) :
    s.faultEnd p g k = s.faultFinished p g o d k := by
  unfold State.faultEnd
  rw [h, State.keepProgress_eq]
  rfl

/-- What a fault end leaves where it finishes the job. -/
structure FaultFinished (s t : State) (p : Port) (g : Slot) (o : JobOutcome) (d : Detail) (j : JobRecord) : Prop where
  result : t.hasResult g o d
  job : t.job g = j
  slots : s.slotsKept t [g]
  ports : s.portsKept t [p]
  queues : t.queues = s.queues
  stats : t.stats = s.stats
  spare : t.spare = s.spare
  marks : (s.job g).cls ≠ some .print → t.marks = s.marks
  ctl : t.ctl = s.ctl

theorem State.enterFaulted_high (w : Memory.wf s.mem = true) {a : Nat} (h : 0x2000 ≤ a) :
    (s.enterFaulted p k).word a = s.word a :=
  State.enterFaulted_word w (by omega) (by have := portAddress_bounds p; omega)

theorem State.enterFaulted_portsKept : s.portsKept (s.enterFaulted p k) [p] := fun r h =>
  State.enterFaulted_port_ne fun e => h (List.mem_singleton.mpr e)

theorem State.enterFaulted_slot (x : Slot) : (s.enterFaulted p k).slot x = s.slot x := by
  unfold State.slot
  simp only [State.enterFaulted_slots]

theorem Heard.finished {o : JobOutcome} {d : Detail} (h : Heard s v p c) :
    FaultFinished s (v.faultFinished p g o d k) p g o d (v.progress p (s.job g)) := by
  have data : (v.updateJob g (v.progress p)).wellFormed := State.updateJob_wellFormed h.data
  have hg := slotAddress_bounds g
  have w : Memory.wf ((v.updateJob g (v.progress p)).finish g o d none).mem = true := State.finish_wf data.memory
  have slot (x : Slot) : (v.faultFinished p g o d k).slot x = ((v.updateJob g (v.progress p)).finish g o d none).slot x :=
    State.enterFaulted_slot x
  refine ⟨?_, ?_, fun x e => ?_, fun r e => ?_, ?_, ?_, ?_, fun e => ?_, ?_⟩
  · exact (State.finish_hasResult data.memory).congr (slot g) (State.enterFaulted_high w (by omega))
      (State.enterFaulted_high w (by omega)) (State.enterFaulted_kept _ p k).stationNotice
  · unfold State.job
    rw [slot, State.finish_slot]
    show (v.updateJob g (v.progress p)).job g = _
    rw [State.job_updateJob]
    unfold State.job
    rw [h.slot]
  · rw [slot, State.finish_slotsKept x e, State.updateJob_slotsKept _ x e, h.slot]
  · unfold State.faultFinished
    rw [State.enterFaulted_portsKept r e, State.finish_port]
    exact h.others r e
  · unfold State.faultFinished
    rw [State.enterFaulted_queues, State.finish_queues]
    exact h.queues
  · unfold State.faultFinished
    rw [State.enterFaulted_stats, State.finish_stats]
    exact h.stats
  · unfold State.faultFinished
    rw [State.enterFaulted_spare, State.finish_spare]
    exact h.spare
  · unfold State.faultFinished
    rw [State.enterFaulted_marks, State.finish_marks]
    · exact h.marks
    · rw [State.job_updateJob, (State.progress_same _).2.2.2.2.1]
      unfold State.job
      rw [h.slot]
      exact e
  · unfold State.faultFinished
    rw [State.enterFaulted_ctl, State.finish_ctl]
    exact h.ctl

theorem Heard.finished_downed {o : JobOutcome} {d : Detail} (h : Heard s v p c)
    (cond : k.getD (v.port p).condition = condition) : Downed s (v.faultFinished p g o d k) p c condition := by
  refine h.downed cond ⟨_, State.finish_port p⟩ (State.finish_mailboxes _ _ _ _ _) ?_ (State.finish_ctl _ _ _ _ _)
    ((State.finish_kept _ g o d none).data (State.updateJob_wellFormed h.data))
  exact State.finish_notice _ _ _ _ _

/-! ### A job re-queued by a fault (R91, R144) -/

/-- The job's record after its result chain has been given back. -/
def JobRecord.returned (j : JobRecord) : JobRecord := { j with resultChain := [] }

/-- The service of a job has ended by a fault that re-queues it, before its pool is reviewed. -/
def State.faultRequeued (s : State) (p : Port) (g : Slot) (k : Option Condition) : State :=
  ((s.updateJob g (s.progress p)).requeueByFault p g).enterFaulted p k

theorem State.faultEnd_requeues (h : s.faultFinish g = none) :
    s.faultEnd p g k = (s.faultRequeued p g k).review (s.job g).pool := by
  unfold State.faultEnd
  rw [h, State.keepProgress_eq]
  rfl

theorem State.requeueByFault_eq : s.requeueByFault p g =
    ((s.requeuedWith g JobRecord.faulted PoolStats.requeued).modifyScan p fun _ => {}).returnResults g := by
  rw [← State.requeueFaulted_eq]
  rfl

/-- What follows a re-queue may give the result chain back. -/
theorem Requeued.returns {u : State} {f : JobRecord → JobRecord} {h : PoolStats → PoolStats} (r : Requeued s u g f h)
    (slot : t.slot g = { u.slot g with job := (u.job g).returned }) (slots : u.slotsKept t [g]) (queues : t.queues = u.queues)
    (stats : t.stats = u.stats) (stations : t.stations = u.stations) (ctl : t.ctl = u.ctl)
    (words : ∀ a, requeueWord a → t.word a = u.word a) : Requeued s t g (JobRecord.returned ∘ f) h where
  slot := by rw [slot, r.job, r.slot]; rfl
  owner := (words _ (.inr (by have := slotAddress_bounds g; omega))).trans r.owner
  slots x e := (slots x e).trans (r.slots x e)
  counters := by unfold State.counters; simp only [stations]; exact r.counters
  stations st e := by unfold State.counters; simp only [stations]; exact r.stations st e
  stats := by unfold State.poolStats; simp only [stats]; exact r.stats
  statsShown := r.statsShown.congr rfl (by unfold State.poolStats; rw [stats]) fun x _ hx =>
    words _ (.inl (by have := poolAddress_bounds (s.job g).pool; omega))
  queueShown := r.queueShown.congr (by unfold State.queue; rw [queues])
    (words _ (.inl (by have := poolAddress_bounds (s.job g).pool; omega)))
  scoresShown := r.scoresShown.congr (by unfold State.counters; rw [stations])
    (words _ (.inl (by have := stationAddress_bounds (stationOf g); omega)))
  joined := r.joined.congr rfl (by unfold State.queue; rw [queues]) fun x => by
    have stamp : (t.job x).acceptStamp = (u.job x).acceptStamp := by
      by_cases e : x = g
      · rw [e, State.job, slot]
        rfl
      · rw [State.job, slots x fun k => e (List.mem_singleton.mp k)]
        rfl
    unfold State.waits
    rw [ctl, stamp]

end

end Sys2Proof.Machine
end

/-! SUPPORT. What a fault end leaves where it re-queues the job (R91, R120, R144, R154, R159). -/
section
namespace Sys2Proof.Machine

section
variable {s v t u : State} {p : Port} {g : Slot} {c : Instr} {condition : Condition} {k : Option Condition}

theorem JobRecord.returned_of_nil {j : JobRecord} (h : j.resultChain = []) : j.returned = j := by
  cases j
  cases h
  rfl

/-- What the return of a result chain leaves, of one that is empty too. -/
structure ResultsReturned (u t : State) (g : Slot) : Prop where
  rest : t = { u with slots := t.slots, marks := t.marks, spare := t.spare, mem := t.mem, ports := t.ports }
  slot : t.slot g = { u.slot g with job := (u.job g).returned }
  slots : u.slotsKept t [g]
  spare : t.spare = u.spare ++ (u.job g).resultChain
  mark : ∀ b, t.mark b = if b ∈ (u.job g).resultChain then .spare else u.mark b
  port : ∀ r, t.port r = if (u.job g).resultChain = [] then u.port r else (u.port r).goTested t.spare.length
  words : ∀ a, 0x18 ≤ a → a + 4 ≤ 0x4000 → t.word a = u.word a

theorem ResultsReturned.ctl (r : ResultsReturned u t g) : t.ctl = u.ctl := by rw [r.rest]
theorem ResultsReturned.queues (r : ResultsReturned u t g) : t.queues = u.queues := by rw [r.rest]
theorem ResultsReturned.stats (r : ResultsReturned u t g) : t.stats = u.stats := by rw [r.rest]
theorem ResultsReturned.stations (r : ResultsReturned u t g) : t.stations = u.stations := by rw [r.rest]
theorem ResultsReturned.deadlines (r : ResultsReturned u t g) : t.deadlines = u.deadlines := by rw [r.rest]
theorem ResultsReturned.notice (r : ResultsReturned u t g) : t.notice = u.notice := by rw [r.rest]
theorem ResultsReturned.mailboxes (r : ResultsReturned u t g) : t.mailboxes = u.mailboxes := by rw [r.rest]

theorem State.returnResults_slot : (u.returnResults g).slot g = { u.slot g with job := (u.job g).returned } := by
  rcases chain : (u.job g).resultChain with _ | ⟨first, rest⟩
  · rw [State.returnResults_nil chain, JobRecord.returned_of_nil chain]
    rfl
  · have slots : ((u.joinSpare (first :: rest)).updateJob g fun j => { j with resultChain := [] }).goTest.slots =
        u.slots.set g.val { u.slot g with job := (u.job g).returned } := by
      rw [State.goTest_slots]
      unfold State.updateJob State.setSlot State.job State.slot
      simp only [State.joinSpare_slots]
      rfl
    rw [State.returnResults_eq chain]
    unfold State.slot
    simp only [slots]
    exact Vector.getElem_set_self _

theorem State.returnResults_all (wf : u.wellFormed) (joins : (u.job g).resultChain ≠ [] → u.canJoin (u.job g).resultChain) :
    ResultsReturned u (u.returnResults g) g := by
  rcases chain : (u.job g).resultChain with _ | ⟨first, rest⟩
  · rw [State.returnResults_nil chain]
    refine ⟨rfl, ?_, fun _ _ => rfl, by rw [chain, List.append_nil], fun b => ?_, fun r => ?_, fun _ _ _ => rfl⟩
    · rw [JobRecord.returned_of_nil chain]
      rfl
    · rw [chain]
      rfl
    · rw [if_pos chain]
  · obtain ⟨⟨spare, mark, -⟩, job, slots, port, rest, kept⟩ := State.returnResults_returned wf chain
      (chain ▸ joins (by rw [chain]; exact List.cons_ne_nil _ _))
    have w := ((u.returnResults_kept g).data wf).memory
    refine ⟨rest, ?_, slots, spare, mark, fun r => ?_, fun a low high => ?_⟩
    · exact State.returnResults_slot
    · rw [if_neg (by rw [chain]; exact List.cons_ne_nil _ _)]
      exact port r
    · refine Writes.word (B := fun a => within 0x10 8 a ∨ 0x4000 ≤ a) ⟨fun _ => w, fun _ x hx => kept x fun k => ?_⟩ wf.memory
        fun b hb k => by unfold within at *; omega
      rcases k with k | ⟨b, -, k⟩
      · exact hx (.inl k)
      · exact hx (.inr (by unfold within blockAddress at k; omega))

/-- What a fault end leaves of the job and of the part where it re-queues the job. -/
structure FaultRequeued (s t : State) (p : Port) (g : Slot) (f₀ : JobRecord → JobRecord) : Prop where
  requeued : Requeued s t g ((JobRecord.returned ∘ JobRecord.faulted) ∘ f₀) PoolStats.requeued
  spare : t.spare = s.spare ++ (s.job g).resultChain
  mark : ∀ b, t.mark b = if b ∈ (s.job g).resultChain then .spare else s.mark b
  ports : ∀ r, r ≠ p → t.port r = if (s.job g).resultChain = [] then s.port r else (s.port r).goTested t.spare.length
  deadlines : t.deadlines = s.deadlines
  ctl : t.ctl = s.ctl

/-- The state before a fault end gives the result chain back. -/
def State.faultQueued (v : State) (p : Port) (g : Slot) : State :=
  ((v.updateJob g (v.progress p)).requeuedWith g JobRecord.faulted PoolStats.requeued).modifyScan p fun _ => {}

theorem State.faultRequeued_eq : v.faultRequeued p g k = ((v.faultQueued p g).returnResults g).enterFaulted p k := by
  unfold State.faultRequeued
  rw [State.requeueByFault_eq]
  rfl

theorem Heard.queued_wellFormed (h : Heard s v p c) (few : (s.job g).faults < 2) : (v.faultQueued p g).wellFormed := by
  have data : (v.updateJob g (v.progress p)).wellFormed := State.updateJob_wellFormed h.data
  have faults : ((v.updateJob g (v.progress p)).job g).faults < 2 := by
    rw [State.job_updateJob, (State.progress_same _).2.2.2.1]
    unfold State.job
    rw [h.slot]
    exact few
  unfold State.faultQueued
  rw [← State.requeueFaulted_eq]
  exact ((State.requeueFaulted_kept _ g faults).trans (State.modifyScan_kept _ p _)).data data

theorem Heard.queued (h : Heard s v p c) (few : (s.job g).faults < 2) :
    Requeued s (v.faultQueued p g) g (JobRecord.faulted ∘ v.progress p) PoolStats.requeued := by
  have data : (v.updateJob g (v.progress p)).wellFormed := State.updateJob_wellFormed h.data
  have job : (v.updateJob g (v.progress p)).job g = v.progress p (s.job g) := by
    rw [State.job_updateJob]
    unfold State.job
    rw [h.slot]
  have faults : ((v.updateJob g (v.progress p)).job g).faults < 2 := by
    rw [job, (State.progress_same _).2.2.2.1]
    exact few
  have first : Requeued (v.updateJob g (v.progress p)) ((v.updateJob g (v.progress p)).requeuedWith g JobRecord.faulted
      PoolStats.requeued) g JobRecord.faulted PoolStats.requeued :=
    State.requeuedWith_requeued data (JobRecord.faulted_acceptStamp _) (data.stats _).requeued ((data.job g).faulted faults)
  have next : Requeued (v.updateJob g (v.progress p)) (v.faultQueued p g) g JobRecord.faulted PoolStats.requeued :=
    first.after rfl rfl rfl rfl rfl fun _ _ => rfl
  refine next.from (f₀ := v.progress p) ?_ (fun x e => ?_) h.stations h.stats h.queues h.ctl (State.progress_same _).1
    (State.progress_same _).2.1
  · rw [State.updateJob_slot]
    unfold State.job
    rw [h.slot]
  · rw [State.updateJob_slotsKept _ x e, h.slot]

theorem State.faultQueued_port : (v.faultQueued p g).port p = { v.port p with scan := {} } := by
  unfold State.faultQueued State.modifyScan
  rw [State.port_modifyPort, State.requeuedWith_port]
  rfl

theorem State.faultQueued_portsKept : v.portsKept (v.faultQueued p g) [p] := fun r hr => by
  unfold State.faultQueued State.modifyScan
  rw [State.port_modifyPort_ne _ fun e => hr (List.mem_singleton.mpr e), State.requeuedWith_port]
  rfl

theorem State.faultQueued_spare : (v.faultQueued p g).spare = v.spare := by
  simp [State.faultQueued, State.modifyScan, State.requeuedWith_spare]

theorem State.faultQueued_marks : (v.faultQueued p g).marks = v.marks := by
  simp [State.faultQueued, State.modifyScan, State.requeuedWith_marks]

theorem State.faultQueued_deadlines : (v.faultQueued p g).deadlines = v.deadlines := by
  simp [State.faultQueued, State.modifyScan, State.requeuedWith_deadlines]

theorem State.faultQueued_ctl : (v.faultQueued p g).ctl = v.ctl := by
  simp [State.faultQueued, State.modifyScan, State.requeuedWith_ctl]

theorem State.faultQueued_notice : (v.faultQueued p g).notice = v.notice := by
  simp [State.faultQueued, State.modifyScan, State.requeuedWith_notice]

theorem State.faultQueued_mailboxes : (v.faultQueued p g).mailboxes = v.mailboxes := by
  simp [State.faultQueued, State.modifyScan, State.requeuedWith_mailboxes]


/-- The GO test leaves a port whose scan is not STARVED. -/
theorem PortRecord.goTested_rests (x : PortRecord) (n : Nat) : ({ x with scan := {} } : PortRecord).goTested n = { x with scan := {} } :=
  by
    unfold PortRecord.goTested
    exact if_neg fun h => ScanPhase.noConfusion h.1

/-- What the blocks have come back to at a fault end. -/
theorem Heard.returned (h : Heard s v p c) (few : (s.job g).faults < 2) (joins : (s.job g).resultChain ≠ [] → s.canJoin (s.job g).resultChain) :
    ResultsReturned (v.faultQueued p g) ((v.faultQueued p g).returnResults g) g := by
  refine State.returnResults_all (h.queued_wellFormed few) ?_
  have chain : ((v.faultQueued p g).job g).resultChain = (s.job g).resultChain := by
    rw [(h.queued few).job]
    exact (State.progress_same _).2.2.2.2.2
  have spare : (v.faultQueued p g).spare = s.spare := State.faultQueued_spare.trans h.spare
  rw [chain]
  intro some
  have joins := joins some
  exact ⟨joins.nodup, joins.range, spare ▸ joins.spareNodup, spare ▸ joins.spareRange, spare ▸ joins.apart⟩

theorem Heard.requeued (h : Heard s v p c) (few : (s.job g).faults < 2) (joins : (s.job g).resultChain ≠ [] → s.canJoin (s.job g).resultChain) :
    FaultRequeued s (v.faultRequeued p g k) p g (v.progress p) := by
  have queued := h.queued (g := g) few
  have returned := h.returned (g := g) few joins
  have w := ((State.returnResults_kept _ g).data (h.queued_wellFormed (g := g) few)).memory
  have chain : ((v.faultQueued p g).job g).resultChain = (s.job g).resultChain := by
    rw [queued.job]
    exact (State.progress_same _).2.2.2.2.2
  have marks : (v.faultQueued p g).marks = s.marks := State.faultQueued_marks.trans h.marks
  have mark := returned.mark
  have ports := returned.port
  have spare := returned.spare
  have again : Requeued s ((v.faultQueued p g).returnResults g) g ((JobRecord.returned ∘ JobRecord.faulted) ∘ v.progress p)
      PoolStats.requeued :=
    queued.returns returned.slot returned.slots returned.queues returned.stats returned.stations returned.ctl fun a ha => returned.words a (by unfold requeueWord at ha; omega) (by unfold requeueWord at ha; omega)
  have ctl : ((v.faultQueued p g).returnResults g).ctl = s.ctl := returned.ctl.trans (State.faultQueued_ctl.trans h.ctl)
  have deadlines : ((v.faultQueued p g).returnResults g).deadlines = s.deadlines := returned.deadlines.trans (State.faultQueued_deadlines.trans h.deadlines)
  have others (r : Port) (ne : r ≠ p) : (v.faultQueued p g).port r = s.port r :=
    have out : r ∉ [p] := fun e => ne (List.mem_singleton.mp e)
    (State.faultQueued_portsKept r out).trans (h.others r out)
  rw [State.faultRequeued_eq]
  rw [chain] at mark ports spare
  rw [State.faultQueued_spare, h.spare] at spare
  generalize (v.faultQueued p g).returnResults g = r at *
  refine ⟨again.after (State.enterFaulted_slots _ _ _) (State.enterFaulted_queues _ _ _) (State.enterFaulted_stats _ _ _)
    (State.enterFaulted_stations _ _ _) (State.enterFaulted_ctl _ _ _) fun a ha => ?_, ?_, fun b => ?_, fun x ne => ?_, ?_, ?_⟩
  · have := portAddress_bounds p
    exact State.enterFaulted_word w (by unfold requeueWord at ha; omega) (by unfold requeueWord at ha; omega)
  · rw [State.enterFaulted_spare, spare]
  · have same : (v.faultQueued p g).mark b = s.mark b := by unfold State.mark; rw [marks]
    rw [← same, ← mark b]
    unfold State.mark
    rw [State.enterFaulted_marks]
  · rw [State.enterFaulted_port_ne ne, ports x, others x ne, State.enterFaulted_spare]
  · rw [State.enterFaulted_deadlines, deadlines]
  · rw [State.enterFaulted_ctl, ctl]

theorem Heard.requeued_downed (h : Heard s v p c) (few : (s.job g).faults < 2) (joins : (s.job g).resultChain ≠ [] → s.canJoin (s.job g).resultChain)
    (cond : k.getD (v.port p).condition = condition) : Downed s (v.faultRequeued p g k) p c condition := by
  have returned := h.returned (g := g) few joins
  have wf := (State.returnResults_kept _ g).data (h.queued_wellFormed (g := g) few)
  have port := returned.port p
  rw [State.faultQueued_port, PortRecord.goTested_rests, ite_self] at port
  have notice : ((v.faultQueued p g).returnResults g).notice = v.notice := returned.notice.trans State.faultQueued_notice
  have ctl : ((v.faultQueued p g).returnResults g).ctl = v.ctl := returned.ctl.trans State.faultQueued_ctl
  have mailboxes : ((v.faultQueued p g).returnResults g).mailboxes = v.mailboxes := returned.mailboxes.trans State.faultQueued_mailboxes
  rw [State.faultRequeued_eq]
  exact h.downed cond ⟨_, port⟩ mailboxes notice ctl wf

end

end Sys2Proof.Machine
end

/-! SUPPORT. A fault end in RUNNING, and the ends of a hold (R91 to R93, R177, R179). -/
section
namespace Sys2Proof.Machine

section
variable {s v t : State} {p : Port} {g : Slot} {c : Instr} {condition : Condition} {k : Option Condition}

theorem Heard.shadow (h : Heard s v p c) (x : Slot) : v.job x = s.job x := congrArg SlotShadow.job (h.slot x)

theorem State.faultFinish_third (h : 2 ≤ (s.job g).faults) : s.faultFinish g = some (.failed, .portFaults) := if_pos h

/-- In RUNNING a job that a fault finds below two faults and without a latch is re-queued (R92, R93). -/
theorem State.faultFinish_none (few : (s.job g).faults < 2) (engine : s.ctl.engine = .running)
    (open' : (s.job g).cls = some .print → (s.job g).cancelLatch = false ∧ (s.job g).closeLatch = false) :
    s.faultFinish g = none := by
  unfold State.faultFinish
  dsimp only
  rw [if_neg (by omega), if_neg fun h => ?_, if_neg fun h => ?_, if_neg fun h => ?_]
  · exact Engine.noConfusion (engine.symm.trans h)
  · exact Bool.noConfusion ((open' h.1).2.symm.trans h.2)
  · exact Bool.noConfusion ((open' h.1).1.symm.trans h.2)

/-- An event in RUNNING is closed by the interrupt alone. -/
theorem closeEvent_running {u : State} (h : u.ctl.engine = .running) : closeEvent s u = settleInterrupt s u :=
  closeEvent_settles fun e => Engine.noConfusion (h.symm.trans e)

/-- A fault end that re-queues the job in RUNNING brings the review of its pool. -/
theorem exec_fault_requeue (wf : s.wellFormed) (serves : (s.port p).state = .serving) (job : (s.port p).job = some g)
    (brought : s.faultBrought p c condition) (engine : s.ctl.engine = .running) (few : (s.job g).faults < 2)
    (open' : (s.job g).cls = some .print → (s.job g).cancelLatch = false ∧ (s.job g).closeLatch = false)
    (joins : (s.job g).resultChain ≠ [] → s.canJoin (s.job g).resultChain) :
    ∃ v u, Heard s v p c ∧ exec c s = .next (settleInterrupt s (u.review (s.job g).pool)) ∧
      FaultRequeued s u p g (v.progress p) ∧ Downed s u p c condition := by
  obtain ⟨v, k, heard, cond, run⟩ := exec_faultEnd wf serves job brought
  have requeued := heard.requeued (g := g) (k := k) few joins
  have downed := heard.requeued_downed (g := g) few joins cond
  have none : v.faultFinish g = none := by
    refine State.faultFinish_none ?_ ?_ ?_
    · rw [heard.shadow]; exact few
    · rw [heard.ctl]; exact engine
    · rw [heard.shadow]; exact open'
  rw [State.faultEnd_requeues none, heard.shadow] at run
  generalize v.faultRequeued p g k = u at *
  refine ⟨v, u, heard, run.trans (congrArg Host.Outcome.next (closeEvent_running ?_)), requeued, downed⟩
  rw [(u.review_kept _).ctl, requeued.ctl]
  exact engine

/-- A fault end that finishes the job in RUNNING. -/
theorem exec_fault_finish {o : JobOutcome} {d : Detail} (wf : s.wellFormed) (serves : (s.port p).state = .serving)
    (job : (s.port p).job = some g) (brought : s.faultBrought p c condition) (engine : s.ctl.engine = .running)
    (ends : s.faultFinish g = some (o, d)) :
    ∃ v t, Heard s v p c ∧ exec c s = .next t ∧ t.hasResult g o d ∧ t.job g = v.progress p (s.job g) ∧ s.slotsKept t [g] ∧
      s.portsKept t [p] ∧ t.queues = s.queues ∧ t.stats = s.stats ∧ t.spare = s.spare ∧
      ((s.job g).cls ≠ some .print → t.marks = s.marks) ∧ Downed s t p c condition := by
  obtain ⟨v, k, heard, cond, run⟩ := exec_faultEnd wf serves job brought
  have finished := heard.finished (g := g) (k := k) (o := o) (d := d)
  have downed := heard.finished_downed (g := g) (o := o) (d := d) cond
  have same : v.faultFinish g = some (o, d) := by
    rw [← ends]
    unfold State.faultFinish
    rw [heard.shadow, heard.ctl]
  rw [State.faultEnd_finishes same] at run
  generalize v.faultFinished p g o d k = u at *
  rw [closeEvent_running (by rw [finished.ctl]; exact engine), settleInterrupt_eq] at run
  exact ⟨v, _, heard, run, finished.result.congr rfl rfl rfl BitVec.or_self, finished.job, finished.slots, finished.ports,
    finished.queues, finished.stats, finished.spare, finished.marks, downed.congr rfl rfl rfl rfl⟩

theorem Heard.portConfig (h : Heard s v p c) : v.portConfig p = s.portConfig p := by
  unfold State.portConfig
  rw [h.ctl]

/-- The progress of a hold is the time that its timer had left (R179). -/
theorem Heard.progress_panel (h : Heard s v p c) (panel : (s.portConfig p).cls = .panel) {e : Stamp}
    (timer : (s.port p).hold.timer = some e) (j : JobRecord) :
    v.progress p j = { j with holdRemaining := max 1 (e - s.ctl.clock).toNat } := by
  have left : v.holdLeft p = (e - s.ctl.clock).toNat := by
    rw [State.holdLeft_eq (by rw [h.hold]; exact timer), h.ctl]
  unfold State.progress
  rw [h.portConfig, panel, left]

theorem Heard.progress_printer (h : Heard s v p c) (printer : (s.portConfig p).cls = .printer) (j : JobRecord) :
    v.progress p j = { j with resumeCopy := (s.port p).print.copy, resumeSheet := (s.port p).print.sheet } := by
  unfold State.progress
  rw [h.portConfig, printer, h.print]

theorem Heard.progress_scanner (h : Heard s v p c) (scanner : (s.portConfig p).cls = .scanner) (j : JobRecord) :
    v.progress p j = j := by
  unfold State.progress
  rw [h.portConfig, scanner]

/-- The form in which the statements give a port that has met a fault, the contacts by cases. -/
theorem Downed.form (h : Downed s t p c condition) : t.port p =
    { ((s.port p).heard (s.portConfig p).cls c).down condition (s.probeStarted p) with
      contacts := (s.port p).contacts.map fun k => k.after true true .orphan, cut := (t.port p).cut } := by
  obtain ⟨cut, port⟩ := h.port
  rw [port]

theorem Downed.form_contacts (h : Downed s t p c condition) : t.port p =
    { ((s.port p).heard (s.portConfig p).cls c).down condition (s.probeStarted p) with
      contacts := (t.port p).contacts, cut := (t.port p).cut } := by
  obtain ⟨cut, port⟩ := h.port
  rw [port]

end

/-! ### The hold timer (R177) -/

section
variable {s : State} {p : Port} {g : Slot}

theorem exec_holdTimer_not (h : timerReached s.ctl.clock (s.port p).hold.timer = false) :
    exec (.holdTimerExpiry p) s = .next s := by
  have rests : s.holdEvent p = s := if_neg fun k => by rw [h] at k; exact Bool.noConfusion k.1
  show Host.Outcome.next (closeEvent s (s.holdEvent p)) = _
  rw [rests, closeEvent_self]

/-- The hold timer's expiry ends the hold in full. -/
theorem exec_holdTimer (reached : timerReached s.ctl.clock (s.port p).hold.timer = true) (holding : (s.port p).hold.phase = .holding)
    (serves : (s.port p).state = .serving) (panel : (s.portConfig p).cls = .panel) (job : (s.port p).job = some g) :
    exec (.holdTimerExpiry p) s = .next (closeEvent s ((s.holdEnd p g 0 .done .none).review (s.portConfig p).pool)) := by
  have served : s.servedJob p .panel = some g := (if_pos ⟨serves, panel⟩).trans job
  have event : s.holdEvent p = (s.holdExpired p g).reviewFreed p := by
    unfold State.holdEvent
    rw [if_pos ⟨reached, holding⟩, served]
  have config : (s.holdLifted p g 0).portConfig p = s.portConfig p := by
    unfold State.portConfig
    rw [State.holdLifted_ctl]
  have ended : (s.holdExpired p g).reviewFreed p = (s.holdEnd p g 0 .done .none).review (s.portConfig p).pool := by
    rw [← config]
    exact State.finishScan_reviewFreed (s := s.holdLifted p g 0)
  show Host.Outcome.next (closeEvent s (s.holdEvent p)) = _
  rw [event, ended]

end

end Sys2Proof.Machine
end

/-! SUPPORT. A hold that ends at a slot that is not SERVING: its station's score is not charged, and its mirror is not written
(R77, R182). -/
section
namespace Sys2Proof.Machine

/-- Port 0 is a panel. -/
def panelWork : WorkingCopy :=
  { ({} : WorkingCopy) with ports := ({} : WorkingCopy).ports.set 0 { cls := .panel } }

/-- A part whose port 0 serves the hold of slot 0, while the slot's shadow is EMPTY and its station's score, which is 5, shows
as 0. -/
def uncharged : State :=
  (((State.reset.setControl fun c => { c with work := panelWork }).setCounters 0 { usage := 5 }).setSlot 0
    { job := { cls := some .hold } }).setPort 0
      { state := .serving, job := some 0, hold := { phase := .holding, timer := some 0 } }

/-- The hold of the part at its end. -/
def unchargedEnd : State := uncharged.holdEnd 0 0 0 .done .none

theorem unchargedEnd_score : (unchargedEnd.counters 0).usage = 5 ∧ field (unchargedEnd.word (stationAddress 0 + 0x0C)) 0 16 = 0 := by
  decide

theorem uncharged_wellFormed : uncharged.wellFormed := by
  refine State.setPort_wellFormed ?_ ⟨Nat.zero_le _, Nat.zero_le _, LineCounters.inRange_zero, Discards.inRange_zero,
    Nat.zero_le _, fun _ h => by cases h⟩
  refine (State.setSlot_kept _ 0 _ fun _ => ⟨Nat.zero_le _, Nat.zero_le _, Nat.zero_le _, Nat.zero_le _⟩).data ?_
  refine (State.setCounters_kept _ 0 _ fun _ => ⟨Nat.zero_le _, Nat.zero_le _, by decide, Nat.zero_le _⟩).data ?_
  exact State.setControl_wellFormed State.reset_wellFormed _ rfl

theorem State.review_wiping {s : State} (h : s.ctl.engine = .wiping) (q : Pool) : s.review q = s := by
  unfold State.review
  rw [h]

theorem closeEvent_wiping {s t : State} (h : t.ctl.engine = .wiping) :
    (closeEvent s t).mem = t.mem ∧ (closeEvent s t).stations = t.stations := by
  rw [closeEvent_of_not_draining s t (by rw [h]; exact Engine.noConfusion)]
  exact ⟨rfl, rfl⟩

/-- Refutes O47: the statement asks for the score's mirror at every end of a hold, and does not ask for a slot that is SERVING;
where the slot is not, nothing is charged and the mirror keeps what it shows. -/
theorem not_holdEndsInFull : ¬ Obligations.HoldEndsInFull := by
  unfold Obligations.HoldEndsInFull
  intro h
  obtain ⟨u, run, -, -, -, -, shown, -, -, -, -, -, -, -, -, -, -, -, ctl, -⟩ :=
    (h.1 uncharged 0 uncharged_wellFormed).1 0 (by decide) rfl rfl rfl rfl rfl
  have ends := exec_holdTimer (s := uncharged) (p := 0) (g := 0) (by decide) rfl rfl rfl rfl
  have engine : u.ctl.engine = .wiping := by rw [ctl]; rfl
  have ended : unchargedEnd.ctl.engine = .wiping := by rw [show unchargedEnd.ctl = uncharged.ctl from State.holdEnd_ctl]; rfl
  change _ = Host.Outcome.next (closeEvent uncharged (unchargedEnd.review _)) at ends
  rw [State.review_wiping ended, run, State.review_wiping engine] at ends
  have same := Host.Outcome.next.inj ends
  obtain ⟨mem, stations⟩ := closeEvent_wiping (s := uncharged) engine
  obtain ⟨mem', stations'⟩ := closeEvent_wiping (s := uncharged) ended
  have word : u.mem = unchargedEnd.mem := by rw [← mem, same, mem']
  have score : u.stations = unchargedEnd.stations := by rw [← stations, same, stations']
  obtain ⟨usage, mirror⟩ := unchargedEnd_score
  have claim := shown.1
  unfold State.counters at usage claim
  unfold State.word at mirror claim
  rw [word, score, show stationOf 0 = 0 from rfl, usage, mirror] at claim
  exact absurd claim (by decide)

end Sys2Proof.Machine
end

/-! SUPPORT. The ends of a scan by its cause (R155 to R160). -/
section
namespace Sys2Proof.Machine

/-! ### The words of a scan's finish (R183, R184) -/

section
variable {s : State} {p : Port} {g : Slot} {o : JobOutcome} {d : Detail}

theorem State.offerFrame_eq (s : State) (p : Port) (f : AnswerFrame) : s.offerFrame p f =
    s.setPort p { s.port p with
      transmitter := offer { frame := f, owner := .service (s.port p).grantNumber } (s.port p).transmitter } := rfl

theorem exec_starveTimer_not (h : timerReached s.ctl.clock (s.port p).scan.starveTimer = false) :
    exec (.starveTimerExpiry p) s = .next s := by
  have rests : s.starveEvent p = s := if_neg fun k => by rw [h] at k; exact Bool.noConfusion k.1
  show Host.Outcome.next (closeEvent s (s.starveEvent p)) = _
  rw [rests, closeEvent_self]

/-- The starve timer's expiry at a STARVED scan. -/
theorem exec_starveTimer (reached : timerReached s.ctl.clock (s.port p).scan.starveTimer = true)
    (starved : (s.port p).scan.phase = .starved) (serves : (s.port p).state = .serving)
    (scanner : (s.portConfig p).cls = .scanner) (job : (s.port p).job = some g) :
    exec (.starveTimerExpiry p) s = .next (closeEvent s
      (((s.offerFrame p .closeScan).finishScan p g .doneShort .starved none).review (s.portConfig p).pool)) := by
  have served : s.servedJob p .scanner = some g := (if_pos ⟨serves, scanner⟩).trans job
  have event : s.starveEvent p = (s.starveOut p g).reviewFreed p := by
    unfold State.starveEvent
    rw [if_pos ⟨reached, starved⟩, served]
  have ended : (s.starveOut p g).reviewFreed p =
      ((s.offerFrame p .closeScan).finishScan p g .doneShort .starved none).review (s.portConfig p).pool :=
    State.finishScan_reviewFreed (s := s.offerFrame p .closeScan)
  show Host.Outcome.next (closeEvent s (s.starveEvent p)) = _
  rw [event, ended]

/-- The port that hears an IMAGE-END of its scan and answers it (R156). -/
def State.imageEnded (s : State) (p : Port) : State :=
  s.setPort p { s.port p with receiver := .hunting, transmitter := placeReply .ack (s.port p).transmitter }

theorem frameEvent_imageEnd (listens : (s.port p).state ≠ .offline) (total : Word) :
    s.frameEvent p (.imageEnd total) = (s.setReceiver p .hunting).dispatch p (.imageEnd total) := by
  unfold State.frameEvent
  rw [if_pos (State.listening_of listens)]
  rfl

theorem takesFrames_iff (x : ScanService) : takesFrames x = true ↔ x.phase = .taking ∨ x.phase = .starved := by
  unfold takesFrames
  rw [Bool.or_eq_true, beq_iff_eq, beq_iff_eq]

/-- An IMAGE-END where no scan takes it is discarded (R105). -/
theorem exec_imageEnd_discards (listens : (s.port p).state ≠ .offline) (total : Word)
    (h : (s.port p).state ≠ .serving ∨ (s.portConfig p).cls ≠ .scanner ∨
      ¬ ((s.port p).scan.phase = .taking ∨ (s.port p).scan.phase = .starved)) :
    exec (.imageEndFrame p total) s = .next (s.setPort p { s.port p with receiver := .hunting }) := by
  have state : ((s.setReceiver p .hunting).port p).state = (s.port p).state := by rw [s.setReceiver_eq, State.port_setPort]
  have scan : ((s.setReceiver p .hunting).port p).scan = (s.port p).scan := by rw [s.setReceiver_eq, State.port_setPort]
  have config : (s.setReceiver p .hunting).portConfig p = s.portConfig p := rfl
  have rests : (s.setReceiver p .hunting).dispatch p (.imageEnd total) = s.setReceiver p .hunting := by
    unfold State.dispatch
    dsimp only
    split
    · next g served =>
      have serving : (s.port p).state = .serving ∧ (s.portConfig p).cls = .scanner := by
        unfold State.servedJob at served
        rw [state, config] at served
        by_contra no
        rw [if_neg no] at served
        cases served
      have idle : ¬ takesFrames ((s.setReceiver p .hunting).port p).scan = true := by
        rw [scan, takesFrames_iff]
        rcases h with h | h | h
        · exact absurd serving.1 h
        · exact absurd serving.2 h
        · exact h
      have stays : (s.setReceiver p .hunting).imageEndTaken p g total = s.setReceiver p .hunting := if_neg idle
      rw [stays]
      exact State.reviewEnded_serving _ (state.trans serving.1)
    · rfl
  show Host.Outcome.next (closeEvent s (s.frameEvent p (.imageEnd total))) = _
  rw [frameEvent_imageEnd listens, rests, s.setReceiver_eq]
  exact congrArg Host.Outcome.next (closeEvent_setPort rfl)

/-- An IMAGE-END that the scan takes ends it by its count (R156). -/
theorem exec_imageEnd_takes (serves : (s.port p).state = .serving) (scanner : (s.portConfig p).cls = .scanner)
    (job : (s.port p).job = some g) (taking : (s.port p).scan.phase = .taking ∨ (s.port p).scan.phase = .starved) {total : Word}
    (h : (total.toNat = (s.port p).scan.stored ∧ o = .done ∧ d = .none) ∨
      (total.toNat ≠ (s.port p).scan.stored ∧ o = .doneShort ∧ d = .countMismatch)) :
    exec (.imageEndFrame p total) s = .next (closeEvent s
      (((s.imageEnded p).finishScan p g o d (some total)).review (s.portConfig p).pool)) := by
  have hunting : s.setReceiver p .hunting = s.setPort p { s.port p with receiver := .hunting } := rfl
  have served : (s.setReceiver p .hunting).servedJob p .scanner = some g := by
    unfold State.servedJob
    rw [hunting, State.port_setPort]
    exact (if_pos ⟨serves, scanner⟩).trans job
  have answered : (s.setReceiver p .hunting).reply p .ack = s.imageEnded p := State.reply_setPort s p _ .ack
  have taken : (s.setReceiver p .hunting).imageEndTaken p g total = (s.imageEnded p).finishScan p g o d (some total) := by
    unfold State.imageEndTaken
    rw [answered, hunting, State.port_setPort, if_pos ((takesFrames_iff _).mpr taking)]
    rcases h with ⟨same, rfl, rfl⟩ | ⟨differ, rfl, rfl⟩
    · exact if_pos same
    · exact if_neg differ
  have serving : (s.setReceiver p .hunting).isServing p = true := by
    unfold State.isServing
    rw [hunting, State.port_setPort]
    exact beq_iff_eq.mpr serves
  show Host.Outcome.next (closeEvent s (s.frameEvent p (.imageEnd total))) = _
  rw [frameEvent_imageEnd (by rw [serves]; exact PortState.noConfusion)]
  unfold State.dispatch
  dsimp only
  rw [served]
  dsimp only
  unfold State.reviewEnded
  rw [if_pos serving, taken, State.finishScan_reviewFreed]
  rfl

/-- The words of the class results of a granted scan. -/
theorem State.finish_scanWords {reported : Option Word} (w : Memory.wf s.mem = true) (cls : (s.job g).cls = some .scan)
    (granted : (s.job g).firstGrant ≠ none) :
    (s.finish g o d reported).word (slotAddress g + 0x30) = reported.getD 0 ∧
      (s.finish g o d reported).word (slotAddress g + 0x2C) =
        place ((s.job g).resultChain.headD 0) 0 16 ||| place (s.job g).resultChain.length 16 16 := by
  have words := (State.writeResults_words (s := s) (g := g)
    (word := resultWord (outcomePair o d) (clampBits (s.job g).clamps) (finishValidity (s.job g) reported))
    (firstGrant := (s.job g).firstGrant.getD 0) (portWord := portWord (s.job g)) (cls := (s.job g).cls)
    (r := s.classResults g reported) w).2.2.2.2 cls
  have results : s.classResults g reported = {
      count := BitVec.ofNat 32 (s.storedBytes g)
      chain := place ((s.job g).resultChain.headD 0) 0 16 ||| place (s.job g).resultChain.length 16 16
      reported := reported.getD 0 } := by
    unfold State.classResults
    dsimp only
    rw [if_pos (Option.isSome_iff_ne_none.mpr granted), cls]
  rw [results] at words
  rw [State.finish_slotWord w (by omega), State.finish_slotWord w (by omega)]
  unfold State.writeJobResults
  rw [results]
  exact ⟨words.2, words.1⟩

end

end Sys2Proof.Machine
end

/-! SUPPORT. A scan's ends by starving, by its count and by a fault (R155, R156, R159). -/
section
namespace Sys2Proof.Machine

section
variable {s : State} {p : Port} {g : Slot} {o : JobOutcome} {d : Detail}

/-- A starved scan at its end. -/
theorem State.offerFrame_wellFormed (wf : s.wellFormed) (f : AnswerFrame) : (s.offerFrame p f).wellFormed :=
  (s.offerFrame_kept p f).data wf

theorem scanEndsStarved (wf : s.wellFormed) (scan : (s.job g).cls = some .scan) :
    let u := (s.offerFrame p .closeScan).finishScan p g .doneShort .starved none
    u.hasResult g .doneShort .starved ∧
      u.port p = { (s.port p).ended with
        transmitter := offer { frame := .closeScan, owner := .service (s.port p).grantNumber } (s.port p).transmitter } ∧
      u.portShown p ∧ (u.job g).resultChain = (s.job g).resultChain ∧ u.marks = s.marks ∧ u.spare = s.spare ∧
      s.portsKept u [p] ∧ s.slotsKept u [g] ∧ s.stationsKept u [stationOf g] ∧ u.queues = s.queues ∧
      u.deadlines = s.deadlines ∧ u.stats = s.stats ∧ u.ctl = s.ctl ∧ u.notice = s.notice ∧
      s.memoryKept u fun a => finishBytes g a ∨ stationMirrors (stationOf g) a ∨ portMirror p a := by
  have offered := State.offerFrame_wellFormed (p := p) wf .closeScan
  have port : (s.offerFrame p .closeScan).port p = { s.port p with
      transmitter := offer { frame := .closeScan, owner := .service (s.port p).grantNumber } (s.port p).transmitter } :=
    s.port_setPort p _
  refine ⟨State.finishScan_hasResult offered.memory, ?_, State.finishScan_shown offered, ?_, ?_, State.finishScan_spare, fun r hr => ?_,
    State.finishScan_slotsKept (s := s.offerFrame p .closeScan), State.finishScan_stationsKept (s := s.offerFrame p .closeScan),
    State.finishScan_queues, State.finishScan_deadlines, State.finishScan_stats, State.finishScan_ctl, State.finishScan_notice,
    State.finishScan_writes.kept wf.memory⟩
  · rw [State.finishScan_port, port]
    rfl
  · rw [State.finishScan_job]
    rfl
  · exact State.finishScan_marks (s := s.offerFrame p .closeScan) (by
      show (s.job g).cls ≠ some .print
      rw [scan]
      exact fun e => by cases e)
  · rw [State.finishScan_portsKept r hr]
    exact s.port_setPort_ne (fun e => hr (List.mem_singleton.mpr e)) _

theorem State.imageEnded_port : (s.imageEnded p).port p =
    { s.port p with receiver := .hunting, transmitter := placeReply .ack (s.port p).transmitter } := s.port_setPort p _

/-- A scan at the end that its IMAGE-END brings. -/
theorem scanEndsByCount (wf : s.wellFormed) (scan : (s.job g).cls = some .scan) (granted : (s.job g).firstGrant ≠ none)
    (port : (s.job g).port = some p) (serving : (s.slot g).state = .serving) (total : Word) :
    let u := (s.imageEnded p).finishScan p g o d (some total)
    u.hasResult g o d ∧ u.word (slotAddress g + 0x28) = BitVec.ofNat 32 (s.port p).scan.stored ∧
      u.word (slotAddress g + 0x30) = total ∧
      field (u.word (slotAddress g + 0x2C)) 0 16 = (s.job g).resultChain.headD 0 % 65536 ∧
      field (u.word (slotAddress g + 0x2C)) 16 16 = (s.job g).resultChain.length % 65536 ∧
      u.port p = { (s.port p).ended with receiver := .hunting, transmitter := placeReply .ack (s.port p).transmitter } ∧
      u.portShown p ∧ s.portsKept u [p] ∧ s.slotsKept u [g] ∧ u.marks = s.marks ∧ u.spare = s.spare ∧ u.queues = s.queues ∧
      u.deadlines = s.deadlines ∧ u.stats = s.stats ∧ u.ctl = s.ctl ∧ u.notice = s.notice := by
  have hg := slotAddress_bounds g
  have range := wf.port p
  have ended : (s.imageEnded p).wellFormed :=
    State.setPort_wellFormed wf { range with transmitter := placeReply_inRange .ack range.transmitter }
  have count := State.finish_scanCount (s := s.imageEnded p) (p := p) (g := g) (o := o) (d := d) (reported := some total)
    ended.memory scan serving port
  rw [State.imageEnded_port] at count
  obtain ⟨reported, chain⟩ := State.finish_scanWords (s := s.imageEnded p) (g := g) (o := o) (d := d) (reported := some total)
    ended.memory scan granted
  have unchanged : (s.imageEnded p).job g = s.job g := rfl
  rw [unchanged] at count chain
  refine ⟨State.finishScan_hasResult ended.memory, ?_, ?_, ?_, ?_, ?_, State.finishScan_shown ended, fun r hr => ?_,
    State.finishScan_slotsKept (s := s.imageEnded p), State.finishScan_marks (s := s.imageEnded p) ?_, State.finishScan_spare,
    State.finishScan_queues, State.finishScan_deadlines, State.finishScan_stats, State.finishScan_ctl, State.finishScan_notice⟩
  · rw [State.finishScan_high ended.memory (by omega), count, if_neg granted]
  · rw [State.finishScan_high ended.memory (by omega), reported]
    rfl
  · rw [State.finishScan_high ended.memory (by omega), chain, field_or_left (field_place_apart _ (by omega)),
      field_place_same _ (by omega)]
    rfl
  · rw [State.finishScan_high ended.memory (by omega), chain, field_or_right (field_place_apart _ (by omega)),
      field_place_same _ (by omega)]
    rfl
  · rw [State.finishScan_port, State.imageEnded_port]
    rfl
  · rw [State.finishScan_portsKept r hr]
    exact s.port_setPort_ne (fun e => hr (List.mem_singleton.mpr e)) _
  · rw [unchanged, scan]
    exact fun e => by cases e

end

/-- The faults of a scanner's port, as causes of a fault end. -/
theorem scannerFault_brought {s : State} {p : Port} {c : Instr} {condition : Condition} {code capability : Byte}
    (scanner : (s.portConfig p).cls = .scanner)
    (h : (c = .stateFrame p code capability ∧
        ((code = 4 ∧ condition = .jam) ∨ (code = 5 ∧ condition = .coverOpen) ∨ (code = 6 ∧ condition = .lampFail))) ∨
      (∃ o, (s.port p).transmitter.outstanding = some o ∧ 3 ≤ o.sends ∧ o.phase = .awaitingAnswer ∧
        ((c = .nakFrame p ∧ condition = .lineRefused) ∨ (c = .responseTimerExpiry p ∧ condition = .lineSilent ∧
          timerReached s.ctl.clock (s.port p).transmitter.responseTimer = true)))) : s.faultBrought p c condition := by
  rcases h with ⟨rfl, h⟩ | h
  · refine .inr (.inl ⟨code, capability, rfl, ?_⟩)
    rw [scanner, goodCondition_scanner]
    rcases h with ⟨rfl, rfl⟩ | ⟨rfl, rfl⟩ | ⟨rfl, rfl⟩ <;> exact ⟨rfl, rfl⟩
  · exact .inr (.inr h)

/-- Settles O46: the starve timer, the IMAGE-END, and the fault end of a scan. -/
theorem scanEndsByItsCause : Obligations.ScanEndsByItsCause := by
  unfold Obligations.ScanEndsByItsCause
  refine ⟨fun s p wf => ⟨fun g reached starved serves scanner job scan => ?_, exec_starveTimer_not⟩, fun s p total wf listens => ?_,
    fun s p g c condition code capability wf agree => ?_⟩
  · exact ⟨_, exec_starveTimer reached starved serves scanner job, scanEndsStarved wf scan⟩
  · intro x run taking
    exact ⟨exec_imageEnd_discards listens total, fun g o d serves scanner job takes scan granted port serving h =>
      ⟨_, exec_imageEnd_takes serves scanner job takes h, scanEndsByCount wf scan granted port serving total⟩⟩
  · intro x engine scanner job scan h probe downed
    have serves : (s.port p).state = .serving := (agree.2.2.1.1 p).mpr (by rw [job]; exact Option.some_ne_none _)
    have brought := scannerFault_brought scanner h
    have shows {t : State} (down : Downed s t p c condition) : downed t := by
      refine ⟨down.shown, down.form.trans (congrArg (fun f => ({ (x.heard (s.portConfig p).cls c).down condition probe with
        contacts := x.contacts.map f, cut := (t.port p).cut } : PortRecord)) (funext fun k => ?_))⟩
      cases k <;> rfl
    refine ⟨fun few => ?_, fun third => ?_⟩
    · obtain ⟨v, u, heard, run, requeued, down⟩ := exec_fault_requeue wf serves job brought engine few
        (fun print => by rw [scan] at print; cases print) fun _ => agree.canReturn g
      have job' := requeued.requeued.job
      have slot := requeued.requeued.slot
      refine ⟨u, run, by rw [slot], requeued.requeued.owner, ?_, requeued.spare, requeued.mark, requeued.requeued.joined, ?_,
        requeued.requeued.statsShown, requeued.requeued.queueShown, requeued.requeued.scoresShown, shows down, down.notice,
        requeued.ports, requeued.requeued.slots, requeued.requeued.stations, requeued.deadlines, requeued.ctl⟩
      · rw [job']
        show ((v.progress p (s.job g)).faulted).returned = _
        rw [heard.progress_scanner scanner]
        rfl
      · rw [requeued.requeued.stats]
        rfl
    · obtain ⟨v, t, heard, run, result, job', slots, ports, queues, stats, spare, marks, down⟩ :=
        exec_fault_finish wf serves job brought engine (State.faultFinish_third third)
      exact ⟨t, run, result, job'.trans (heard.progress_scanner scanner _), shows down, down.notice, queues, stats, ports, slots,
        spare, marks (by rw [scan]; exact fun e => by cases e)⟩

end Sys2Proof.Machine
end

/-! SUPPORT. What the entry to STOPPED leaves (R20, R113). -/
section
namespace Sys2Proof.Machine

section
variable {s : State} {p : Port}

theorem State.enterStopped_same {β : Type} (view : State → β)
    (ports : ∀ t p, view (State.updatePort t p (offlinePort p)) = view t) (control : ∀ t f, view (State.setControl t f) = view t)
    (notice : ∀ t b, view (State.setNotice t b) = view t) (s : State) : view s.enterStopped = view s := by
  unfold State.enterStopped
  rw [notice, control]
  exact State.foldl_same view ports _ s

/-- A state that differs in the ports, exchange memory, the control registers and NOTICE. -/
theorem State.ports_form {s t : State} {c : Control} {n : BitVec 8} (ctl : t.ctl = c) (notice : t.notice = n)
    (stationNotice : t.stationNotice = s.stationNotice) (slots : t.slots = s.slots) (queues : t.queues = s.queues)
    (deadlines : t.deadlines = s.deadlines) (stats : t.stats = s.stats) (stations : t.stations = s.stations)
    (marks : t.marks = s.marks) (spare : t.spare = s.spare) (mailboxes : t.mailboxes = s.mailboxes) (free : t.free = s.free)
    (pending : t.pending = s.pending) : t = { s with ports := t.ports, mem := t.mem, ctl := c, notice := n } :=
  State.ext_of ctl rfl notice stationNotice slots queues deadlines stats stations rfl marks spare mailboxes free pending

/-- The entry to STOPPED changes the ports with their mirrors, the control registers and NOTICE.ENGINE. -/
theorem State.enterStopped_eq (s : State) : s.enterStopped = { s with
    ports := s.enterStopped.ports
    mem := s.enterStopped.mem
    ctl := stoppedControl s.ctl
    notice := s.notice ||| 0x02 } :=
  State.ports_form s.enterStopped_ctl s.enterStopped_notice s.enterStopped_stationNotice
    (s.enterStopped_same State.slots (fun t p => t.updatePort_slots p _) (fun _ _ => rfl) fun _ _ => rfl)
    (s.enterStopped_same State.queues (fun t p => t.updatePort_queues p _) (fun _ _ => rfl) fun _ _ => rfl)
    (s.enterStopped_same State.deadlines (fun t p => t.updatePort_deadlines p _) (fun _ _ => rfl) fun _ _ => rfl)
    (s.enterStopped_same State.stats (fun t p => t.updatePort_stats p _) (fun _ _ => rfl) fun _ _ => rfl)
    (s.enterStopped_same State.stations (fun t p => t.updatePort_stations p _) (fun _ _ => rfl) fun _ _ => rfl)
    (s.enterStopped_same State.marks (fun t p => t.updatePort_marks p _) (fun _ _ => rfl) fun _ _ => rfl)
    (s.enterStopped_same State.spare (fun t p => t.updatePort_spare p _) (fun _ _ => rfl) fun _ _ => rfl)
    (s.enterStopped_same State.mailboxes (fun t p => t.updatePort_mailboxes p _) (fun _ _ => rfl) fun _ _ => rfl)
    (s.enterStopped_same State.free (fun t p => t.updatePort_free p _) (fun _ _ => rfl) fun _ _ => rfl) s.enterStopped_pending

theorem State.enterStopped_mem (s : State) :
    s.enterStopped.mem = (allPorts.foldl (fun s p => s.updatePort p (offlinePort p)) s).mem := by
  unfold State.enterStopped
  rw [State.setNotice_mem, State.setControl_mem]

theorem State.enterStopped_ports (s : State) :
    s.enterStopped.ports = (allPorts.foldl (fun s p => s.updatePort p (offlinePort p)) s).ports := by
  unfold State.enterStopped
  rw [State.setNotice_ports, State.setControl_ports]

theorem State.enterStopped_writes (s : State) : Writes (fun a => ∃ p, portMirror p a) s.mem s.enterStopped.mem := by
  rw [State.enterStopped_mem]
  exact Writes.foldl (f := fun s p => s.updatePort p (offlinePort p))
    (fun t p => (t.updatePort_writes p _).mono fun _ h => ⟨p, h⟩) allPorts s

theorem portAddress_apart {p r : Port} (h : p ≠ r) :
    portAddress p + 0x20 ≤ portAddress r ∨ portAddress r + 0x20 ≤ portAddress p := by
  have : p.val ≠ r.val := fun e => h (Fin.ext e)
  unfold portAddress
  omega

theorem State.updatePort_shown_ne (w : Memory.wf s.mem = true) {r : Port} {f : PortRecord → PortRecord} (h : s.portShown p)
    (ne : p ≠ r) : (s.updatePort r f).portShown p :=
  h.congr (State.port_updatePort_ne _ ne _) (State.updatePort_word w (by have := portAddress_apart ne; omega))

/-- Ports that go OFFLINE show it. -/
theorem State.offline_shown : ∀ (l : List Port) (s : State), s.wellFormed → p ∈ l ∨ s.portShown p →
    (l.foldl (fun s p => s.updatePort p (offlinePort p)) s).portShown p
  | [], s, _, h => by simpa using h
  | r :: rest, s, wf, h => by
    have next : (s.updatePort r (offlinePort r)).wellFormed :=
      (s.updatePort_kept r _ fun w => offlinePort_inRange r (w.port r)).data wf
    refine State.offline_shown rest _ next ?_
    by_cases e : p = r
    · subst e
      exact .inr (State.updatePort_shown wf.memory (offlinePort_inRange p (wf.port p)).capability)
    · rcases h with h | h
      · exact .inl ((List.mem_cons.mp h).resolve_left e)
      · exact .inr (State.updatePort_shown_ne wf.memory h e)

theorem State.enterStopped_shown (wf : s.wellFormed) (p : Port) : s.enterStopped.portShown p := by
  have shown := State.offline_shown allPorts s wf (.inl (mem_allPorts p))
  refine shown.congr ?_ ?_
  · unfold State.port
    rw [State.enterStopped_ports]
  · unfold State.word
    rw [State.enterStopped_mem]

end

/-! ### Marks by their blocks -/

theorem State.marks_ext {s t : State} (h : ∀ b, t.mark b = s.mark b) : t.marks = s.marks := by
  refine Vector.ext fun i hi => ?_
  have mark := h (i + 1)
  unfold State.mark at mark
  rw [dif_pos ⟨by omega, by omega⟩, dif_pos ⟨by omega, by omega⟩] at mark
  exact mark

end Sys2Proof.Machine
end

/-! SUPPORT. The fault end of a print (R20, R91 to R93, R131, R133). -/
section
namespace Sys2Proof.Machine

section
variable {s v t : State} {p : Port} {g : Slot} {c : Instr} {condition : Condition} {k : Option Condition} {o : JobOutcome} {d : Detail}

/-- The faults of a printer's port, as causes of a fault end. -/
theorem printerFault_brought {code capability : Byte} (printer : (s.portConfig p).cls = .printer)
    (h : (c = .sheetTimerExpiry p ∧ timerReached s.ctl.clock (s.port p).print.sheetTimer = true ∧
        condition = (s.port p).condition) ∨
      (c = .stateFrame p code capability ∧
        ((code = 3 ∧ condition = .paperOut) ∨ (code = 4 ∧ condition = .jam) ∨ (code = 5 ∧ condition = .coverOpen))) ∨
      (∃ o, (s.port p).transmitter.outstanding = some o ∧ 3 ≤ o.sends ∧ o.phase = .awaitingAnswer ∧
        ((c = .nakFrame p ∧ condition = .lineRefused) ∨ (c = .responseTimerExpiry p ∧ condition = .lineSilent ∧
          timerReached s.ctl.clock (s.port p).transmitter.responseTimer = true)))) : s.faultBrought p c condition := by
  rcases h with ⟨rfl, reached, rfl⟩ | ⟨rfl, h⟩ | h
  · exact .inl ⟨rfl, reached, rfl, printer⟩
  · refine .inr (.inl ⟨code, capability, rfl, ?_⟩)
    rw [printer, goodCondition_printer]
    rcases h with ⟨rfl, rfl⟩ | ⟨rfl, rfl⟩ | ⟨rfl, rfl⟩ <;> exact ⟨rfl, rfl⟩
  · exact .inr (.inr h)

/-- The finish of a print at a fault end below the third fault: by its latches, the host's before the station's, and by the
end of the engine's work (R93). -/
theorem State.faultFinish_print (print : (s.job g).cls = some .print) (few : (s.job g).faults < 2)
    (h : o = .cancelled ∧ ((s.job g).cancelLatch = true ∧ d = .byHost ∨
      (s.job g).cancelLatch = false ∧ (s.job g).closeLatch = true ∧ d = .stationClosed ∨
      (s.job g).cancelLatch = false ∧ (s.job g).closeLatch = false ∧ s.ctl.engine = .draining ∧ d = .engineStop)) :
    s.faultFinish g = some (o, d) := by
  obtain ⟨rfl, h⟩ := h
  unfold State.faultFinish
  dsimp only
  rw [if_neg (by omega), print]
  rcases h with ⟨cancel, rfl⟩ | ⟨cancel, close, rfl⟩ | ⟨cancel, close, draining, rfl⟩
  · rw [cancel]; rfl
  · rw [cancel, close]; rfl
  · rw [cancel, close, draining]; rfl

/-- A part in which one port has left SERVING serves where another one does. -/
theorem State.anyServing_left (same : s.portsKept t [p]) (left : (t.port p).state ≠ .serving) :
    t.anyServing = true ↔ ∃ r, r ≠ p ∧ (s.port r).state = .serving := by
  rw [State.anyServing_iff]
  constructor
  · rintro ⟨r, serves⟩
    have ne : r ≠ p := fun e => left (e ▸ serves)
    exact ⟨r, ne, by rw [← same r fun k => ne (List.mem_singleton.mp k)]; exact serves⟩
  · rintro ⟨r, ne, serves⟩
    exact ⟨r, by rw [same r fun k => ne (List.mem_singleton.mp k)]; exact serves⟩

/-- A fault end that finishes the job in DRAINING goes on where another port serves, and stops the engine otherwise. -/
theorem exec_fault_drains (wf : s.wellFormed) (serves : (s.port p).state = .serving) (job : (s.port p).job = some g)
    (brought : s.faultBrought p c condition) (engine : s.ctl.engine = .draining) (ends : s.faultFinish g = some (o, d)) :
    ∃ w : State, w.wellFormed ∧ w.hasResult g o d ∧ w.queues = s.queues ∧ s.slotsKept w [g] ∧ s.portsKept w [p] ∧
      w.ctl = s.ctl ∧ Downed s w p c condition ∧
      ((∃ r, r ≠ p ∧ (s.port r).state = .serving) → exec c s = .next (settleInterrupt s w)) ∧
      ((∀ r, r ≠ p → (s.port r).state ≠ .serving) → exec c s = .next (settleInterrupt s w.enterStopped)) := by
  obtain ⟨v, k, heard, cond, run⟩ := exec_faultEnd wf serves job brought
  have finished := heard.finished (g := g) (k := k) (o := o) (d := d)
  have downed := heard.finished_downed (g := g) (o := o) (d := d) cond
  have same : v.faultFinish g = some (o, d) := by
    rw [← ends]
    unfold State.faultFinish
    rw [heard.shadow, heard.ctl]
  have data : (v.faultEnd p g k).wellFormed := (v.faultEnd_kept p g k).data heard.data
  have left : ((v.faultEnd p g k).port p).state ≠ .serving := by
    rw [State.faultEnd_state]
    exact PortState.noConfusion
  rw [State.faultEnd_finishes same] at run data left
  generalize v.faultFinished p g o d k = w at *
  have drains : w.ctl.engine = .draining := by rw [finished.ctl]; exact engine
  have before : s.anyServing = true := (s.anyServing_iff).mpr ⟨p, serves⟩
  have after := State.anyServing_left finished.ports left
  refine ⟨w, data, finished.result, finished.queues, finished.slots, finished.ports, finished.ctl, downed, fun more => ?_, fun none => ?_⟩
  · rw [run]
    exact congrArg Host.Outcome.next (closeEvent_settles fun _ => (after.mpr more).trans before.symm)
  · rw [run]
    have idle : w.anyServing = false := Bool.eq_false_iff.mpr fun h => by
      obtain ⟨r, ne, h⟩ := after.mp h
      exact none r ne h
    unfold closeEvent drainEnd
    rw [if_pos ⟨drains, before, idle⟩]

/-- What the entry to STOPPED leaves of a job's results. -/
theorem State.enterStopped_hasResult {w : State} (m : Memory.wf w.mem = true) (h : w.hasResult g o d) :
    w.enterStopped.hasResult g o d := by
  have hg := slotAddress_bounds g
  have word (a : Nat) (ha : 0x0280 ≤ a) : w.enterStopped.word a = w.word a :=
    w.enterStopped_writes.word m fun b hb ⟨r, k⟩ => by
      have := portAddress_bounds r
      unfold portMirror within at *
      omega
  refine h.congr ?_ (word _ (by omega)) (word _ (by omega)) ?_
  · rw [State.enterStopped_eq]
    rfl
  · rw [State.enterStopped_stationNotice]
    exact BitVec.or_self

theorem State.closed_hasResult {w : State} (h : w.hasResult g o d) (s : State) : (settleInterrupt s w).hasResult g o d := by
  rw [settleInterrupt_eq]
  exact h.congr rfl rfl rfl BitVec.or_self

theorem Downed.closed {w : State} (h : Downed s w p c condition) (before : State) :
    Downed s (settleInterrupt before w) p c condition := by
  rw [settleInterrupt_eq]
  exact h.congr rfl rfl rfl rfl

theorem settleInterrupt_records (s w : State) : (settleInterrupt s w).queues = w.queues ∧ (settleInterrupt s w).slots = w.slots ∧
    (settleInterrupt s w).ports = w.ports ∧ (settleInterrupt s w).notice = w.notice ∧
    (settleInterrupt s w).ctl.engine = w.ctl.engine ∧ (settleInterrupt s w).mem = w.mem := by
  rw [settleInterrupt_eq]
  exact ⟨rfl, rfl, rfl, rfl, rfl, rfl⟩

/-- The port of a fault end that stops the engine: OFFLINE, the rest as the fault leaves it. -/
theorem Downed.stopped_port {w : State} (h : Downed s w p c condition) : w.enterStopped.port p =
    { ((s.port p).heard (s.portConfig p).cls c).down condition none with
      state := .offline, contacts := (w.enterStopped.port p).contacts, cut := (w.enterStopped.port p).cut } := by
  have form := h.form_contacts
  rw [State.enterStopped_port]
  generalize w.port p = y at *
  rw [form]
  rfl

/-- What a fault end in DRAINING leaves, by whether another port still serves. -/
theorem drained {w : State} (wf : w.wellFormed) (result : w.hasResult g o d) (queues : w.queues = s.queues)
    (slots : s.slotsKept w [g]) (ports : s.portsKept w [p]) (ctl : w.ctl = s.ctl) (down : Downed s w p c condition)
    (engine : s.ctl.engine = .draining)
    (more : (∃ r, r ≠ p ∧ (s.port r).state = .serving) → exec c s = .next (settleInterrupt s w))
    (last : (∀ r, r ≠ p → (s.port r).state ≠ .serving) → exec c s = .next (settleInterrupt s w.enterStopped)) :
    ∃ t, exec c s = .next t ∧ t.hasResult g o d ∧ t.queues = s.queues ∧ s.slotsKept t [g] ∧ t.portShown p ∧
      ((∀ r, r ≠ p → (s.port r).state ≠ .serving) →
        t.ctl.engine = .stopped ∧ t.notice = s.notice ||| 0x22 ∧ (∀ r, (t.port r).state = .offline) ∧
          t.port p = { ((s.port p).heard (s.portConfig p).cls c).down condition none with
            state := .offline, contacts := (t.port p).contacts, cut := (t.port p).cut }) ∧
      ((∃ r, r ≠ p ∧ (s.port r).state = .serving) →
        t.ctl.engine = .draining ∧ Downed s t p c condition ∧ t.notice = s.notice ||| 0x20 ∧ s.portsKept t [p]) := by
  by_cases h : ∃ r, r ≠ p ∧ (s.port r).state = .serving
  · obtain ⟨queues', slots', ports', notice', engine', mem'⟩ := settleInterrupt_records s w
    refine ⟨_, more h, State.closed_hasResult result s, queues'.trans queues, fun x e => ?_, (down.closed s).shown, fun none => ?_,
      fun _ => ⟨?_, down.closed s, notice'.trans down.notice, fun r e => ?_⟩⟩
    · rw [← slots x e]
      unfold State.slot
      simp only [slots']
    · obtain ⟨r, ne, serves⟩ := h
      exact absurd serves (none r ne)
    · rw [engine', ctl, engine]
    · rw [← ports r e]
      unfold State.port
      rw [ports']
  · have none : ∀ r, r ≠ p → (s.port r).state ≠ .serving := fun r ne serves => h ⟨r, ne, serves⟩
    obtain ⟨queues', slots', ports', notice', engine', mem'⟩ := settleInterrupt_records s w.enterStopped
    have port (r : Port) : (settleInterrupt s w.enterStopped).port r = w.enterStopped.port r := by
      unfold State.port
      rw [ports']
    refine ⟨_, last none, State.closed_hasResult (State.enterStopped_hasResult wf.memory result) s, ?_, fun x e => ?_, ?_,
      fun _ => ⟨?_, ?_, fun r => ?_, ?_⟩, fun more => absurd more h⟩
    · rw [queues', State.enterStopped_eq]
      exact queues
    · rw [← slots x e]
      unfold State.slot
      simp only [slots'.trans (congrArg State.slots w.enterStopped_eq)]
    · exact (State.enterStopped_shown wf p).congr (port p) (by unfold State.word; rw [mem'])
    · rw [engine', State.enterStopped_ctl]
      rfl
    · rw [notice', State.enterStopped_notice, down.notice, BitVec.or_assoc]
      rfl
    · rw [port, State.enterStopped_port]
      rfl
    · rw [port]
      exact down.stopped_port

end

/-- Settles O48: a re-queue, the third fault and the latches in RUNNING, and the end of a print in DRAINING. -/
theorem faultEndsAPrint : Obligations.FaultEndsAPrint := by
  unfold Obligations.FaultEndsAPrint
  intro s p g grant c condition code capability wf x active serves printer job print granted chain h probe j downed
  have brought := printerFault_brought printer h
  have shows {t : State} (down : Downed s t p c condition) : downed t := by
    refine ⟨down.shown, down.form.trans (congrArg (fun f => ({ (x.heard (s.portConfig p).cls c).down condition probe with
      contacts := x.contacts.map f, cut := (t.port p).cut } : PortRecord)) (funext fun k => ?_))⟩
    cases k <;> rfl
  refine ⟨fun engine few cancel close => ?_, fun engine third => ?_, fun d engine few h => ?_, fun o d engine h => ?_⟩
  · obtain ⟨v, u, heard, run, requeued, down⟩ := exec_fault_requeue wf serves job brought engine few
      (fun _ => ⟨cancel, close⟩) fun some => absurd chain some
    have job' := requeued.requeued.job
    have counters := requeued.requeued.counters
    have slot := requeued.requeued.slot
    have spare := requeued.spare
    have mark := requeued.mark
    have ports := requeued.ports
    rw [s.busyTime_of granted] at counters
    rw [chain] at spare mark ports
    refine ⟨u, run, by rw [slot], requeued.requeued.owner, ?_, requeued.requeued.joined, ?_, by rw [counters],
      requeued.requeued.statsShown, requeued.requeued.queueShown, requeued.requeued.scoresShown, shows down, down.notice,
      fun r hr => ?_, requeued.requeued.slots, requeued.requeued.stations, State.marks_ext fun b => ?_, ?_, requeued.deadlines,
      requeued.ctl⟩
    · rw [job']
      show ((v.progress p (s.job g)).faulted).returned = _
      rw [JobRecord.returned_of_nil (j := (v.progress p (s.job g)).faulted) ((State.progress_same _).2.2.2.2.2.trans chain),
        heard.progress_printer printer]
      rfl
    · rw [requeued.requeued.stats]
      rfl
    · exact (ports r fun e => hr (List.mem_singleton.mpr e)).trans (if_pos rfl)
    · exact (mark b).trans (if_neg List.not_mem_nil)
    · rw [spare, List.append_nil]
  · obtain ⟨v, t, heard, run, result, job', slots, ports, queues, stats, spare, -, down⟩ :=
      exec_fault_finish wf serves job brought engine (State.faultFinish_third third)
    exact ⟨t, run, result, shows down, down.notice, queues, stats, ports, slots, spare, by
      rw [job', (State.progress_same _).2.2.2.1]⟩
  · have ends : s.faultFinish g = some (.cancelled, d) := State.faultFinish_print print few ⟨rfl, by
      rcases h with h | h
      · exact .inl h
      · exact .inr (.inl h)⟩
    obtain ⟨v, t, heard, run, result, job', slots, ports, queues, stats, spare, -, down⟩ :=
      exec_fault_finish wf serves job brought engine ends
    exact ⟨t, run, result, shows down, down.notice, queues, stats, ports, slots, spare⟩
  · have ends : s.faultFinish g = some (o, d) := by
      rcases h with ⟨third, rfl, rfl⟩ | ⟨few, rfl, h⟩
      · exact State.faultFinish_third third
      · exact State.faultFinish_print print few ⟨rfl, h.imp id (Or.imp id fun k => ⟨k.1, k.2.1, engine, k.2.2⟩)⟩
    obtain ⟨w, data, result, queues, slots, ports, ctl, down, more, last⟩ := exec_fault_drains wf serves job brought engine ends
    obtain ⟨t, run, result, queues, slots, shown, stops, drains⟩ := drained data result queues slots ports ctl down engine more last
    exact ⟨t, run, result, queues, slots, shown, stops, fun more =>
      have ⟨draining, down, notice, kept⟩ := drains more
      ⟨draining, shows down, notice, kept⟩⟩

end Sys2Proof.Machine
end

/-! SUPPORT. The scheduler's choices (R67, R72, R83 to R86, R88). -/
section
namespace Sys2Proof.Machine

/-! ### The best of a list -/

/-- The best element stands before the others of its value, and none is better. -/
theorem firstBest_split {α : Type} (value : α → Nat) : ∀ {l : List α} {x : α}, firstBest value l = some x →
    ∃ front back, l = front ++ x :: back ∧ (∀ y ∈ front, value y < value x) ∧ ∀ y ∈ back, value y ≤ value x
  | [], _, h => by cases h
  | y :: rest, x, h => by
    unfold firstBest at h
    split at h
    · next z best =>
      obtain ⟨front, back, split, before, after⟩ := firstBest_split value best
      split at h
      · next less =>
        cases h
        refine ⟨y :: front, back, by rw [split]; rfl, fun w hw => ?_, after⟩
        rcases List.mem_cons.mp hw with rfl | hw
        · exact less
        · exact before w hw
      · next not =>
        cases h
        refine ⟨[], rest, rfl, fun _ hw => absurd hw List.not_mem_nil, fun w hw => ?_⟩
        rw [split] at hw
        rcases List.mem_append.mp hw with hw | hw
        · have := before w hw
          omega
        · rcases List.mem_cons.mp hw with rfl | hw
          · omega
          · have := after w hw
            omega
    · next none =>
      cases h
      refine ⟨[], rest, rfl, fun _ hw => absurd hw List.not_mem_nil, fun w hw => ?_⟩
      cases rest with
      | nil => exact absurd hw List.not_mem_nil
      | cons z more =>
        unfold firstBest at none
        split at none
        · split at none <;> cases none
        · cases none

theorem firstBest_eq_none_iff {α : Type} (value : α → Nat) {l : List α} : firstBest value l = none ↔ l = [] := by
  constructor
  · intro h
    cases l with
    | nil => rfl
    | cons z more =>
      unfold firstBest at h
      split at h
      · split at h <;> cases h
      · cases h
  · rintro rfl
    rfl

/-- In a list in order the best element is the least of its value. -/
theorem firstBest_sorted {α : Type} {value : α → Nat} {l : List α} {x y : α} {before : α → α → Prop} (h : firstBest value l = some x)
    (sorted : l.Pairwise before) (hy : y ∈ l) : value y < value x ∨ value y = value x ∧ (y = x ∨ before x y) := by
  obtain ⟨front, back, rfl, less, most⟩ := firstBest_split value h
  rcases List.mem_append.mp hy with hy | hy
  · exact .inl (less y hy)
  · rcases List.mem_cons.mp hy with rfl | hy
    · exact .inr ⟨rfl, .inl rfl⟩
    · have order := (List.pairwise_cons.mp (List.pairwise_append.mp sorted).2.1).1 y hy
      rcases Nat.lt_or_eq_of_le (most y hy) with k | k
      · exact .inl k
      · exact .inr ⟨k, .inr order⟩

/-- The best of the elements that pass a test stands first among them in the whole list. -/
theorem firstBest_filter_idxOf {α : Type} [DecidableEq α] {value : α → Nat} {test : α → Bool} {l : List α} {x y : α}
    (h : firstBest value (l.filter test) = some x) (hy : y ∈ l) (passes : test y = true) (same : value y = value x) :
    l.idxOf x ≤ l.idxOf y := by
  obtain ⟨front, back, split, less, -⟩ := firstBest_split value h
  obtain ⟨l₁, l₂, rfl, hfront, hback⟩ := List.filter_eq_append_iff.mp split
  obtain ⟨l₃, l₄, rfl, fail, -, -⟩ := List.filter_eq_cons_iff.mp hback
  have out (z : α) (hz : test z = true) (k : value z = value x) : z ∉ l₁ ++ l₃ := fun mem => by
    rcases List.mem_append.mp mem with mem | mem
    · have := less z (hfront ▸ List.mem_filter.mpr ⟨mem, hz⟩)
      omega
    · exact fail z mem hz
  have own : test x = true := (List.mem_filter.mp (split ▸ by simp : x ∈ List.filter test (l₁ ++ (l₃ ++ x :: l₄)))).2
  rw [← List.append_assoc, List.idxOf_append_of_notMem (out x own rfl), List.idxOf_append_of_notMem (out y passes same),
    List.idxOf_cons_self]
  omega

/-! ### The grant step (R67, R72) -/

section
variable {s : State} {q : Pool} {p : Port} {g : Slot}

theorem State.eligible_iff (s : State) (g : Slot) : s.eligible g = true ↔ (s.sample (stationOf g)).state = .opened := beq_iff_eq

/-- The member ports of a pool (R60). -/
theorem State.mem_members {r : Port} : r ∈ s.members q ↔ (s.portConfig r).cls ≠ .none ∧ (s.portConfig r).pool = q := by
  unfold State.members
  simp [mem_allPorts]

theorem State.members_sorted : (s.members q).Pairwise (· < ·) :=
  List.Pairwise.filter _ (List.pairwise_lt_finRange 12)

theorem State.freePort_iff : s.freePort q = some p ↔
    ((s.portConfig p).cls ≠ .none ∧ (s.portConfig p).pool = q ∧ (s.port p).state = .free) ∧
      ∀ r, r < p → ¬ ((s.portConfig r).cls ≠ .none ∧ (s.portConfig r).pool = q ∧ (s.port r).state = .free) := by
  unfold State.freePort State.members allPorts
  rw [List.find?_filter, find?_finRange_eq_some_iff]
  simp [and_assoc]

theorem State.bestWaiting_passes {excluded : List Slot} (h : Slot) :
    (s.eligible h && !excluded.contains h) = true ↔ (s.sample (stationOf h)).state = .opened ∧ h ∉ excluded := by
  rw [Bool.and_eq_true, State.eligible_iff]
  simp

/-! ### The preemption step (R83 to R85) -/

theorem State.isCandidate_iff {r : Port} : s.isCandidate g r = true ↔
    ∃ h, (s.port r).state = .serving ∧ (s.port r).job = some h ∧ stationOf h ≠ stationOf g := by
  unfold State.isCandidate State.isServing
  cases job : (s.port r).job with
  | none => simp
  | some h => simp

/-- A port of the pool that serves a job of another station (R84). -/
def State.candidatePort (s : State) (q : Pool) (g : Slot) (r : Port) (h : Slot) : Prop :=
  (s.portConfig r).cls ≠ .none ∧ (s.portConfig r).pool = q ∧ (s.port r).state = .serving ∧ (s.port r).job = some h ∧
    stationOf h ≠ stationOf g

theorem State.mem_candidates {r : Port} : r ∈ (s.members q).filter (s.isCandidate g) ↔ ∃ h, s.candidatePort q g r h := by
  rw [List.mem_filter, State.mem_members, State.isCandidate_iff]
  unfold State.candidatePort
  constructor
  · rintro ⟨⟨cls, pool⟩, h, serves, job, station⟩
    exact ⟨h, cls, pool, serves, job, station⟩
  · rintro ⟨h, cls, pool, serves, job, station⟩
    exact ⟨⟨cls, pool⟩, h, serves, job, station⟩

theorem State.candidate_none_iff : s.candidate q g = none ↔ ∀ r h, ¬ s.candidatePort q g r h := by
  unfold State.candidate
  rw [firstBest_eq_none_iff, List.eq_nil_iff_forall_not_mem]
  simp only [State.mem_candidates, not_exists]

/-- The candidate has the lowest hold level, and the lowest number among equals. -/
theorem State.candidate_least (h : s.candidate q g = some p) : (∃ h, s.candidatePort q g p h) ∧
    ∀ r h, s.candidatePort q g r h → (s.port r).holdLevel ≤ 255 → (s.port p).holdLevel ≤ 255 →
      (s.port p).holdLevel < (s.port r).holdLevel ∨ ((s.port p).holdLevel = (s.port r).holdLevel ∧ p ≤ r) := by
  refine ⟨State.mem_candidates.mp (firstBest_mem _ h), fun r k cand high low => ?_⟩
  have order := firstBest_sorted h (List.Pairwise.filter _ State.members_sorted) (State.mem_candidates.mpr ⟨k, cand⟩)
  rcases order with less | ⟨same, rfl | before⟩
  · exact .inl (by omega)
  · exact .inr ⟨rfl, le_refl _⟩
  · exact .inr ⟨by omega, before.le⟩

/-- The decision where there is a candidate. -/
theorem State.preemption_of_candidate {ranks : List (Slot × Nat)} (h : s.candidate q g = some p) : s.preemption q ranks g =
    if (s.pool q).preempt = true ∧ (s.port p).holdLevel < rankIn ranks g then
      match s.poolClass q, (s.port p).job with
      | .panel, some k => .endHold p k
      | .printer, _ => .askYield p
      | _, _ => .nothing
    else .nothing := by
  unfold State.preemption
  rw [h]
  dsimp only
  by_cases enabled : (s.pool q).preempt = true
  · rw [if_pos enabled]
    by_cases below : (s.port p).holdLevel < rankIn ranks g
    · rw [if_pos below, if_pos ⟨enabled, below⟩] <;> rfl
    · rw [if_neg below, if_neg fun k => below k.2]
  · rw [if_neg enabled, if_neg fun k => enabled k.1]

theorem State.preemption_none {ranks : List (Slot × Nat)} (h : s.candidate q g = none) : s.preemption q ranks g = .nothing := by
  unfold State.preemption
  rw [h]
  exact ite_self _

/-- What ends a hold or asks for a yield is about the candidate. -/
theorem State.preemption_acts {ranks : List (Slot × Nat)} {k : Slot}
    (e : s.preemption q ranks g = .endHold p k ∨ s.preemption q ranks g = .askYield p) :
    s.candidate q g = some p ∧ (s.pool q).preempt = true ∧ (s.port p).holdLevel < rankIn ranks g := by
  cases cand : s.candidate q g with
  | none =>
    rw [State.preemption_none cand] at e
    rcases e with e | e <;> cases e
  | some r =>
    rw [State.preemption_of_candidate cand] at e
    split at e
    · next h =>
      split at e
      · rcases e with e | e <;> cases e
        exact ⟨rfl, h⟩
      · rcases e with e | e <;> cases e
        exact ⟨rfl, h⟩
      · rcases e with e | e <;> cases e
    · rcases e with e | e <;> cases e

/-- The port that a decision is about is the candidate that the statement names. -/
theorem State.candidate_eq {h : Slot} (wf : s.wellFormed) (cand : s.candidatePort q g p h)
    (least : ∀ r h, s.candidatePort q g r h → (s.port r).holdLevel ≤ 255 → (s.port p).holdLevel ≤ 255 →
      (s.port p).holdLevel < (s.port r).holdLevel ∨ ((s.port p).holdLevel = (s.port r).holdLevel ∧ p ≤ r)) :
    s.candidate q g = some p := by
  cases found : s.candidate q g with
  | none => exact absurd cand (State.candidate_none_iff.mp found p h)
  | some r =>
    obtain ⟨⟨k, other⟩, best⟩ := State.candidate_least found
    have high := (wf.port p).holdLevel
    have low := (wf.port r).holdLevel
    have up := least r k other low high
    have down := best p h cand high low
    have same : p = r := by
      rcases up with up | ⟨level, up⟩
      · rcases down with down | ⟨down, -⟩ <;> omega
      · rcases down with down | ⟨-, down⟩
        · omega
        · exact le_antisymm up down
    rw [same]

end

/-- Settles O35: the best of the queue, the first FREE member, the lowest candidate, and the outrank test. -/
theorem schedulerChoosesByRankAndLevel : Obligations.SchedulerChoosesByRankAndLevel := by
  unfold Obligations.SchedulerChoosesByRankAndLevel
  refine ⟨fun s q ranks excluded => ?_, fun s q ranks g p => ?_, fun s p g => ?_⟩
  · intro waits open'
    have passes (h : Slot) : h ∈ (s.queue q).filter (fun g => s.eligible g && !excluded.contains g) ↔ waits h := by
      rw [List.mem_filter, State.bestWaiting_passes]
    refine ⟨fun g best => ⟨(passes g).mp (firstBest_mem _ best), fun h hw => ?_⟩, ?_, fun p => State.freePort_iff⟩
    · obtain ⟨front, back, split, less, most⟩ := firstBest_split _ best
      have mem := (passes h).mpr hw
      refine ⟨?_, fun same => firstBest_filter_idxOf best hw.1 (State.bestWaiting_passes h |>.mpr hw.2) same⟩
      rw [split] at mem
      rcases List.mem_append.mp mem with mem | mem
      · exact (less h mem).le
      · rcases List.mem_cons.mp mem with rfl | mem
        · exact le_refl _
        · exact most h mem
    · unfold State.bestWaiting
      rw [firstBest_eq_none_iff, List.eq_nil_iff_forall_not_mem]
      exact forall_congr' fun h => not_congr (passes h)
  · intro candidate chosen
    have isChosen {k : Slot} (e : s.preemption q ranks g = .endHold p k ∨ s.preemption q ranks g = .askYield p) : chosen := by
      obtain ⟨found, enabled, below⟩ := State.preemption_acts e
      obtain ⟨cand, least⟩ := State.candidate_least found
      exact ⟨enabled, below, cand, least⟩
    refine ⟨fun h e => ⟨isChosen (.inl e), ?_⟩, fun e => ⟨isChosen (k := g) (.inr e), ?_⟩, fun off => ?_,
      fun h wf pick job => ?_, fun out => ?_⟩
    · obtain ⟨found, enabled, below⟩ := State.preemption_acts (.inl e)
      rw [State.preemption_of_candidate found, if_pos ⟨enabled, below⟩] at e
      split at e
      · next k cls job =>
        cases e
        exact ⟨cls, job⟩
      · cases e
      · cases e
    · obtain ⟨found, enabled, below⟩ := State.preemption_acts (k := g) (.inr e)
      rw [State.preemption_of_candidate found, if_pos ⟨enabled, below⟩] at e
      split at e
      · cases e
      · next cls => exact cls
      · cases e
    · unfold State.preemption
      rw [off]
      rfl
    · obtain ⟨enabled, below, ⟨k, cand⟩, least⟩ := pick
      have found := State.candidate_eq wf cand least
      rw [State.preemption_of_candidate found, if_pos ⟨enabled, below⟩, job]
      refine ⟨fun cls => by rw [cls], fun cls => by rw [cls], fun panel printer => ?_⟩
      split
      · next cls _ => exact absurd cls panel
      · next cls => exact absurd cls printer
      · rfl
    · cases found : s.candidate q g with
      | none => exact State.preemption_none found
      | some r =>
        obtain ⟨⟨k, cand⟩, -⟩ := State.candidate_least found
        rw [State.preemption_of_candidate found]
        exact if_neg fun k' => absurd (out r k cand) (by omega)
  · unfold State.outranked State.outrankJobs
    rw [List.any_eq_true]
    simp only [List.mem_filter, Bool.and_eq_true, State.eligible_iff, bne_iff_ne, decide_eq_true_eq]
    constructor
    · rintro ⟨h, ⟨mem, opened, station⟩, level⟩
      exact ⟨h, mem, opened, station, level⟩
    · rintro ⟨h, mem, opened, station, level⟩
      exact ⟨h, ⟨mem, opened, station⟩, level⟩

end Sys2Proof.Machine
end

/-! SUPPORT. What a grant does before the service starts (R73, R74, R78). -/
section
namespace Sys2Proof.Machine

/-- The slot SERVING, off queue and list, before its record changes. -/
def State.taken (s : State) (g : Slot) : State := (s.handSlot g .serving).unqueued g

/-- The record and the statistics of a grant (R73, R78). -/
def State.granted (s : State) (g : Slot) (p : Port) : State :=
  ((s.taken g).updateJob g (grantRecord s.ctl.clock p)).updateStats (s.job g).pool
    (grantStats (s.job g).firstGrant.isNone (interval s.ctl.clock (s.job g).acceptStamp))

/-- A grant before the service starts. -/
def State.paired (s : State) (g : Slot) (rank : Nat) (p : Port) : State :=
  (s.granted g p).updatePort p (grantPort g (max rank (s.sample (stationOf g)).groupCeiling))

theorem State.grant_eq (s : State) (g : Slot) (rank : Nat) (p : Port) : s.grant g rank p = (s.paired g rank p).startService p g :=
  rfl

section
variable {s : State} {g : Slot} {rank : Nat} {p : Port}

theorem State.paired_slots : (s.paired g rank p).slots =
    s.slots.set g.val { s.slot g with state := .serving, job := grantRecord s.ctl.clock p (s.job g) } := by
  have taken : (s.taken g).slots = s.slots.set g.val { s.slot g with state := .serving } := rfl
  have slot : (s.taken g).slot g = { s.slot g with state := .serving } := by
    unfold State.slot
    rw [taken]
    exact Vector.getElem_set_self _
  have granted : (s.paired g rank p).slots = (s.taken g).slots.set g.val
      { (s.taken g).slot g with job := grantRecord s.ctl.clock p ((s.taken g).slot g).job } := rfl
  rw [granted, slot, taken, Vector.set_set]
  rfl

theorem State.paired_slot : (s.paired g rank p).slot g =
    { s.slot g with state := .serving, job := grantRecord s.ctl.clock p (s.job g) } := by
  unfold State.slot
  rw [State.paired_slots]
  exact Vector.getElem_set_self _

theorem State.paired_job : (s.paired g rank p).job g = grantRecord s.ctl.clock p (s.job g) := by
  unfold State.job
  rw [State.paired_slot]
  rfl

theorem State.paired_slotsKept : s.slotsKept (s.paired g rank p) [g] := fun k e => by
  unfold State.slot
  rw [State.paired_slots]
  exact Vector.getElem_set_ne _ _ fun k => e (List.mem_singleton.mpr (Fin.ext k.symm))

theorem State.paired_port : (s.paired g rank p).port p =
    grantPort g (max rank (s.sample (stationOf g)).groupCeiling) (s.port p) :=
  (s.granted g p).port_updatePort p _

theorem State.paired_portsKept : s.portsKept (s.paired g rank p) [p] := fun _ e =>
  (s.granted g p).port_updatePort_ne (by simpa using e) _

theorem State.paired_queue (q : Pool) : (s.paired g rank p).queue q =
    if q = (s.job g).pool then (s.queue q).erase g else s.queue q := by
  rw [← s.job_handSlot g g .serving]
  exact (s.handSlot g .serving).unqueued_queue g q

theorem State.paired_deadlines : (s.paired g rank p).deadlines = s.deadlines.erase g := by
  have taken : (s.taken g).deadlines = s.deadlines.erase g := rfl
  rw [← taken]
  simp [State.paired, State.granted]

theorem State.paired_stats : (s.paired g rank p).poolStats (s.job g).pool =
    grantStats (s.job g).firstGrant.isNone (interval s.ctl.clock (s.job g).acceptStamp) (s.poolStats (s.job g).pool) :=
  State.poolStats_updateStats _ _ _

theorem State.paired_stats_ne {q : Pool} (h : q ≠ (s.job g).pool) : (s.paired g rank p).poolStats q = s.poolStats q :=
  State.poolStats_updateStats_ne _ h _

theorem State.paired_ctl : (s.paired g rank p).ctl = s.ctl := by
  simp [State.paired, State.granted, State.taken, State.unqueued]
theorem State.paired_stations : (s.paired g rank p).stations = s.stations := by
  simp [State.paired, State.granted, State.taken, State.unqueued]
theorem State.paired_notice : (s.paired g rank p).notice = s.notice := by
  simp [State.paired, State.granted, State.taken, State.unqueued]
theorem State.paired_stationNotice : (s.paired g rank p).stationNotice = s.stationNotice := by
  simp [State.paired, State.granted, State.taken, State.unqueued]
theorem State.paired_marks : (s.paired g rank p).marks = s.marks := by
  simp [State.paired, State.granted, State.taken, State.unqueued]
theorem State.paired_spare : (s.paired g rank p).spare = s.spare := by
  simp [State.paired, State.granted, State.taken, State.unqueued]
theorem State.paired_mailboxes : (s.paired g rank p).mailboxes = s.mailboxes := by
  simp [State.paired, State.granted, State.taken, State.unqueued]

theorem State.taken_writes : Writes (fun a => within (slotAddress g) 4 a ∨ a = poolAddress (s.job g).pool + 3) s.mem
    (s.taken g).mem := by
  have left := (s.handSlot g .serving).unqueued_writes g
  rw [s.job_handSlot] at left
  exact ((s.handSlot_writes g .serving).mono fun _ => .inl).trans (left.mono fun _ => .inr)

theorem State.granted_writes : Writes (within (poolAddress (s.job g).pool + 4) 28) (s.taken g).mem (s.granted g p).mem :=
  State.updateStats_words _ _ _

section
variable (w : Memory.wf s.mem = true)
include w

theorem State.granted_wf : Memory.wf (s.granted g p).mem = true := State.granted_writes.wf (State.taken_writes.wf w)

/-- Outside the statistics and the port's mirror the words of a grant are those before the record. -/
theorem State.paired_word {a : Nat} (port : a + 4 ≤ portAddress p + 0x08 ∨ portAddress p + 0x0C ≤ a)
    (pool : a + 4 ≤ poolAddress (s.job g).pool + 4 ∨ poolAddress (s.job g).pool + 32 ≤ a) :
    (s.paired g rank p).word a = (s.taken g).word a := by
  unfold State.paired
  rw [State.updatePort_word (State.granted_wf w) port]
  exact State.granted_writes.word (State.taken_writes.wf w) fun b hb hk => by
    unfold within at *
    omega

theorem State.paired_owner : (s.paired g rank p).word (slotAddress g) = 3 := by
  have := slotAddress_bounds g
  have := poolAddress_bounds (s.job g).pool
  have := portAddress_bounds p
  have owner : (s.handSlot g .serving).word (slotAddress g) = 3 := State.word_putWord (s := s.setShadow g .serving) w (by omega) _
  have left := (s.handSlot g .serving).unqueued_writes g
  rw [s.job_handSlot] at left
  rw [State.paired_word w (by omega) (by omega), ← owner]
  exact left.word ((s.handSlot_writes g .serving).wf w) fun b hb hk => by
    unfold within at hb
    omega

theorem State.paired_queueShown : (s.paired g rank p).queueShown (s.job g).pool := by
  have := poolAddress_bounds (s.job g).pool
  have := portAddress_bounds p
  have left := (s.handSlot g .serving).unqueued_shown g ((s.handSlot_writes g .serving).wf w)
  rw [s.job_handSlot] at left
  exact left.congr rfl (State.paired_word w (by omega) (by omega))

theorem State.paired_kept : s.memoryKept (s.paired g rank p) fun a =>
    within (slotAddress g) 4 a ∨ poolMirrors (s.job g).pool a ∨ portMirror p a := by
  have pools (a : Nat) (h : a = poolAddress (s.job g).pool + 3 ∨ within (poolAddress (s.job g).pool + 4) 28 a) :
      poolMirrors (s.job g).pool a := by
    unfold poolMirrors within at *
    omega
  refine Writes.kept (.trans (.trans (State.taken_writes.mono fun a h => ?_) (State.granted_writes.mono fun a h => ?_))
    (((s.granted g p).updatePort_writes p _).mono fun a h => .inr (.inr h))) w
  · exact h.imp id fun h => .inl (pools a (.inl h))
  · exact .inr (.inl (pools a (.inr h)))

end

/-- Each statistic that a grant changes shows in its mirror. -/
theorem State.paired_statsShown (wf : s.wellFormed) : s.statsShown (s.paired g rank p) (s.job g).pool := by
  have := poolAddress_bounds (s.job g).pool
  have := portAddress_bounds p
  have handed : (s.handSlot g .serving).wellFormed := (s.handSlot_kept g .serving).data wf
  have taken : (s.taken g).wellFormed := ((s.handSlot g .serving).unqueued_kept g).data handed
  let t := (s.taken g).updateJob g (grantRecord s.ctl.clock p)
  have recorded : t.wellFormed := (State.updateJob_kept _ g _ fun h =>
    ⟨(h.2.job g).interruptions, (h.2.job g).faults, (h.2.job g).contactsDelivered, (h.2.job g).urgency⟩).data taken
  have range : (grantStats (s.job g).firstGrant.isNone (interval s.ctl.clock (s.job g).acceptStamp)
      (t.poolStats (s.job g).pool)).inRange := grantStats_inRange _ (interval_le _ _) (recorded.stats _)
  exact (State.updateStats_shown recorded (s.job g).pool range).congr rfl rfl fun x _ _ =>
    State.updatePort_word (State.granted_wf wf.memory) (by omega)

end

/-- Settles O36: the parts of a grant, one by one. -/
theorem grantPairsJobAndPort : Obligations.GrantPairsJobAndPort := by
  unfold Obligations.GrantPairsJobAndPort
  intro s g rank p wf
  have w := wf.memory
  refine ⟨s.paired g rank p, s.grant_eq g rank p, by rw [State.paired_slot], State.paired_owner w, State.paired_job,
    State.paired_deadlines,
    State.paired_queue, State.paired_port, ?_, State.paired_statsShown wf, State.paired_queueShown w,
    State.updatePort_shown (State.granted_wf w) (wf.port p).capability, fun q h => State.paired_stats_ne h,
    State.paired_portsKept, State.paired_slotsKept, State.paired_ctl,
    State.paired_stations, State.paired_marks, State.paired_spare, State.paired_mailboxes, State.paired_notice,
    State.paired_stationNotice, State.paired_kept w⟩
  rw [State.paired_stats]
  unfold grantStats
  rcases h : (s.job g).firstGrant with _ | first
  · rfl
  · rfl

end Sys2Proof.Machine
end

/-! SUPPORT. The walk of a print over its entries: empty blocks, sheets that begin, boundaries (R126, R127, R132). -/
section
namespace Sys2Proof.Machine

/-! ### The first entry of a sheet (R126) -/

theorem sheetStart_append {front rest : List ChainEntry} {n : Nat} (last : front.getLast?.map ChainEntry.sheetEnd = some true)
    (count : (front.filter ChainEntry.sheetEnd).length = n + 1) : sheetStart (front ++ rest) (n + 2) = front.length := by
  induction front generalizing n with
  | nil => cases last
  | cons e front ih =>
    rw [List.cons_append]
    show 1 + sheetStart (front ++ rest) (if e.sheetEnd then n + 1 else n + 2) = _
    rw [List.filter_cons] at count
    rcases front with _ | ⟨f, more⟩
    · have marked : e.sheetEnd = true := Option.some.inj last
      rw [marked] at count ⊢
      obtain rfl : n = 0 := by simpa using count
      simp [sheetStart]
    · have last' : (f :: more).getLast?.map ChainEntry.sheetEnd = some true := by simpa using last
      have marks : 1 ≤ ((f :: more).filter ChainEntry.sheetEnd).length := by
        obtain ⟨x, hx, marked⟩ := Option.map_eq_some_iff.mp last'
        exact List.length_pos_of_mem (List.mem_filter.mpr ⟨List.mem_of_getLast? hx, marked⟩)
      cases marked : e.sheetEnd
      · rw [marked] at count
        rw [if_neg Bool.false_ne_true, ih last' (by simpa using count), List.length_cons (a := e), Nat.add_comm]
      · rw [marked, if_pos rfl, List.length_cons] at count
        rw [if_pos rfl]
        obtain ⟨k, rfl⟩ : ∃ k, n = k + 1 := ⟨n - 1, by omega⟩
        rw [ih last' (by omega), List.length_cons (a := e), Nat.add_comm]

/-- The next sheet begins behind the marked entry that ends a sheet. -/
theorem sheetStart_next {chain front rest : List ChainEntry} {m : ChainEntry} {n : Nat} (pos : 1 ≤ n)
    (stands : chain.drop (sheetStart chain n) = front ++ m :: rest) (plain : ∀ f ∈ front, f.sheetEnd = false)
    (marked : m.sheetEnd = true) : sheetStart chain (n + 1) = sheetStart chain n + front.length + 1 := by
  obtain ⟨k, rfl⟩ : ∃ k, n = k + 1 := ⟨n - 1, by omega⟩
  induction chain generalizing k front with
  | nil => simp at stands
  | cons e chain ih =>
    cases k with
    | zero =>
      show 1 + sheetStart chain (if e.sheetEnd then 1 else 2) = 0 + front.length + 1
      have whole : e :: chain = front ++ m :: rest := stands
      rcases front with _ | ⟨f, front⟩
      · obtain ⟨rfl, -⟩ := List.cons.inj whole
        rw [marked]
        cases chain <;> rfl
      · obtain ⟨rfl, tail⟩ := List.cons.inj (whole.trans (List.cons_append ..))
        rw [plain e List.mem_cons_self, if_neg Bool.false_ne_true]
        have start : sheetStart chain 1 = 0 := by cases chain <;> rfl
        have := ih (front := front) (fun f h => plain f (List.mem_cons_of_mem _ h)) 0 (by omega) (by rw [start]; exact tail)
        rw [start] at this
        rw [this, List.length_cons]
        omega
    | succ k =>
      show 1 + sheetStart chain (if e.sheetEnd then k + 2 else k + 3) = 1 + sheetStart chain (if e.sheetEnd then k + 1 else k + 2) +
        front.length + 1
      have stands' : chain.drop (sheetStart chain (if e.sheetEnd then k + 1 else k + 2)) = front ++ m :: rest := by
        have : (e :: chain).drop (1 + sheetStart chain (if e.sheetEnd then k + 1 else k + 2)) = front ++ m :: rest := stands
        rwa [Nat.add_comm, List.drop_succ_cons] at this
      cases h : e.sheetEnd <;> rw [h] at stands'
      · have : sheetStart chain (k + 3) = sheetStart chain (k + 2) + front.length + 1 := ih plain (k + 1) (by omega) stands'
        simp only [Bool.false_eq_true, if_false]
        omega
      · have : sheetStart chain (k + 2) = sheetStart chain (k + 1) + front.length + 1 := ih plain k (by omega) stands'
        simp only [if_true]
        omega

theorem sheetsPerCopy_le (chain : List ChainEntry) : sheetsPerCopy chain ≤ chain.length := List.length_filter_le _ _

theorem getElem?_of_drop {chain skip rest : List ChainEntry} {e : ChainEntry} {n : Nat} (h : chain.drop n = skip ++ e :: rest) :
    chain[n + skip.length]? = some e := by
  rw [← List.getElem?_drop, h]
  simp

theorem length_of_drop {chain skip rest : List ChainEntry} {e : ChainEntry} {n : Nat} (h : chain.drop n = skip ++ e :: rest) :
    n + skip.length + 1 + rest.length = chain.length := by
  have := congrArg List.length h
  rw [List.length_drop, List.length_append, List.length_cons] at this
  omega

/-! ### Passing blocks of length 0 (R127) -/

/-- A block is passed over: its entry ends no sheet, and its length is 0. -/
def State.passesOver (s : State) (skip : List ChainEntry) : Prop := ∀ f ∈ skip, f.sheetEnd = false ∧ readLength s.mem f.block = 0

/-- A port whose print has reached an entry with data (R127). -/
def PortRecord.reaching (x : PortRecord) (entry : Nat) (data : List Byte) : PortRecord :=
  if x.print.busy = true then { x with print := { x.print with entry := entry, early := false, phase := .stalled } }
  else { x with
    print := { x.print with entry := entry, early := false, phase := .feeding, fed := true }
    transmitter := offer { frame := .feed data, owner := .service x.grantNumber } x.transmitter }

theorem PortRecord.reaching_idle {x : PortRecord} (idle : x.print.busy = false) (entry : Nat) (data : List Byte) :
    x.reaching entry data = { x with
      print := { x.print with entry := entry, early := false, phase := .feeding, fed := true }
      transmitter := offer { frame := .feed data, owner := .service x.grantNumber } x.transmitter } :=
  if_neg (Bool.eq_false_iff.mp idle)

theorem PortRecord.reaching_busy {x : PortRecord} (busy : x.print.busy = true) (entry : Nat) (data : List Byte) :
    x.reaching entry data = { x with print := { x.print with entry := entry, early := false, phase := .stalled } } :=
  if_pos busy

section
variable {s : State} {p : Port} {g : Slot} {y : PortRecord}

section
variable {e : ChainEntry} (n : Nat) (entry : (s.job g).chain[(s.port p).print.entry]? = some e)
include entry

theorem State.reachEntries_full (full : readLength s.mem e.block ≠ 0) :
    State.reachEntries p g (n + 1) s = s.feedDue p e.block (readLength s.mem e.block) := by
  unfold State.reachEntries
  rw [entry]
  exact if_pos full

theorem State.reachEntries_blank (blank : readLength s.mem e.block = 0) (plain : e.sheetEnd = false) :
    State.reachEntries p g (n + 1) s = State.reachEntries p g n (s.nextEntry p) := by
  conv_lhs => unfold State.reachEntries
  rw [entry]
  dsimp only
  rw [if_neg (not_not.mpr blank), plain]
  rfl

theorem State.reachEntries_waits (blank : readLength s.mem e.block = 0) (marked : e.sheetEnd = true)
    (fed : (s.port p).print.fed = true) (late : (s.port p).print.early = false) :
    State.reachEntries p g (n + 1) s = s.modifyPrint p fun x => { x with phase := .sheetWait } := by
  unfold State.reachEntries
  rw [entry]
  dsimp only
  rw [if_neg (not_not.mpr blank), marked, fed, late]
  rfl

theorem State.reachEntries_bounds (blank : readLength s.mem e.block = 0) (marked : e.sheetEnd = true)
    (ends : (s.port p).print.fed = false ∨ (s.port p).print.early = true) :
    State.reachEntries p g (n + 1) s = match s.sheetBoundary p g (s.port p).print.fed with
      | (s', true) => State.reachEntries p g n s'
      | (s', false) => s' := by
  have ends : ((s.port p).print.fed && !(s.port p).print.early) = false := by
    rcases ends with h | h <;> rw [h]
    · rfl
    · exact Bool.and_false _
  conv_lhs => unfold State.reachEntries
  rw [entry]
  dsimp only
  rw [if_neg (not_not.mpr blank), marked, ends]
  rfl

end

theorem State.nextEntry_setPort : (s.setPort p y).nextEntry p =
    s.setPort p { y with print := { y.print with entry := y.print.entry + 1 } } := State.modifyPrint_setPort s p y _

/-- Empty blocks are passed over, one entry after the other. -/
theorem State.reachEntries_skips (n : Nat) {skip back : List ChainEntry}
    (stands : (s.job g).chain.drop y.print.entry = skip ++ back) (passes : s.passesOver skip) :
    State.reachEntries p g (skip.length + n) (s.setPort p y) =
      State.reachEntries p g n (s.setPort p { y with print := { y.print with entry := y.print.entry + skip.length } }) := by
  induction skip generalizing y with
  | nil => rw [List.length_nil, Nat.zero_add]; rfl
  | cons f skip ih =>
    obtain ⟨plain, blank⟩ := passes f List.mem_cons_self
    have entry : ((s.setPort p y).job g).chain[((s.setPort p y).port p).print.entry]? = some f := by
      rw [State.port_setPort]
      exact getElem?_of_drop (skip := []) stands
    rw [List.length_cons, Nat.add_right_comm, State.reachEntries_blank _ entry blank plain, State.nextEntry_setPort, ih ?_ fun f h => passes f (List.mem_cons_of_mem _ h)]
    · rw [Nat.add_assoc, Nat.add_comm 1]
    · show (s.job g).chain.drop (y.print.entry + 1) = _
      rw [← List.drop_drop, stands]
      rfl

theorem State.feedDue_reaching (b n : Nat) :
    (s.setPort p y).feedDue p b n = s.setPort p (y.reaching y.print.entry (readData s.mem b n)) := by
  unfold PortRecord.reaching
  split
  next busy => exact State.feedDue_busy busy b n
  next idle => exact State.feedDue_free (Bool.eq_false_iff.mpr idle) b n

/-- The first block with data is fed, or stalls the service. -/
theorem State.reachEntries_feeds {n : Nat} {skip rest : List ChainEntry} {e : ChainEntry}
    (stands : (s.job g).chain.drop y.print.entry = skip ++ e :: rest) (passes : s.passesOver skip)
    (full : readLength s.mem e.block ≠ 0) (bound : skip.length < n) :
    State.reachEntries p g n (s.setPort p y) =
      s.setPort p (y.reaching (y.print.entry + skip.length) (readData s.mem e.block (readLength s.mem e.block))) := by
  obtain ⟨k, rfl⟩ : ∃ k, n = skip.length + (k + 1) := ⟨n - skip.length - 1, by omega⟩
  rw [State.reachEntries_skips (k + 1) stands passes]
  refine (State.reachEntries_full (s := s.setPort p _) (e := e) k ?_ full).trans (State.feedDue_reaching _ _)
  rw [State.port_setPort]
  exact getElem?_of_drop stands

/-! ### Boundaries (R132) -/

/-- The job after a boundary's count (R132, step 1). -/
def State.counted (s : State) (g : Slot) (counts : Bool) : State :=
  if counts then s.updateJob g fun j => { j with sheetsDone := j.sheetsDone + 1 } else s

/-- A port whose print begins a sheet (R126, R127). -/
def PortRecord.begun (x : PortRecord) (place : Nat × Nat) (start : Nat) (timer : Timer) : PortRecord :=
  { x with print := { x.print with
    copy := place.1, sheet := place.2, entry := start, fed := false, early := false, sheetTimer := timer } }

theorem State.counted_chain (c : Bool) : ((s.counted g c).job g).chain = (s.job g).chain := by
  unfold State.counted
  cases c
  · rfl
  · rw [if_pos rfl, State.job_updateJob]

theorem State.counted_latches (c : Bool) : ((s.counted g c).job g).cancelLatch = (s.job g).cancelLatch ∧
    ((s.counted g c).job g).closeLatch = (s.job g).closeLatch := by
  unfold State.counted
  cases c
  · exact ⟨rfl, rfl⟩
  · rw [if_pos rfl, State.job_updateJob]
    exact ⟨rfl, rfl⟩

theorem State.counted_ctl (c : Bool) : (s.counted g c).ctl = s.ctl := by cases c <;> rfl
theorem State.counted_mem (c : Bool) : (s.counted g c).mem = s.mem := by cases c <;> rfl

theorem State.portConfig_congr {t : State} (h : t.ctl = s.ctl) (r : Port) : t.portConfig r = s.portConfig r := by
  unfold State.portConfig
  rw [h]

/-- The port at a boundary: the sheet timer stopped, no early SHEET (R132). -/
def PortRecord.bounded (x : PortRecord) : PortRecord := { x with print := { x.print with sheetTimer := none, early := false } }

theorem State.countSheet_setPort (c : Bool) :
    (s.setPort p y).countSheet p g c = (s.counted g c).setPort p y.bounded := by
  cases c
  · exact State.modifyPrint_setPort s p y _
  · unfold State.countSheet State.counted
    rw [if_pos rfl, if_pos rfl]
    exact State.modifyPrint_setPort (s.updateJob g fun j => { j with sheetsDone := j.sheetsDone + 1 }) p y _

theorem State.sheetBoundary_eq (c : Bool) : (s.setPort p y).sheetBoundary p g c =
    ((s.counted g c).setPort p y.bounded).closeSheet p g (nextSheet (s.job g) y.print.copy y.print.sheet) := by
  unfold State.sheetBoundary
  rw [State.countSheet_setPort, State.port_setPort]
  rfl

theorem State.beginSheet_setPort (place : Nat × Nat) : (s.setPort p y.bounded).beginSheet p g place.1 place.2 =
    s.setPort p (y.begun place (sheetStart (s.job g).chain place.2)
      (startTimer s.ctl.clock ((s.portConfig p).sheetTimeout * 1000))) :=
  State.modifyPrint_setPort s p y.bounded _

section
variable (c : Bool)

/-- A boundary without latch, drain or yield begins the sheet that follows. -/
theorem State.sheetBoundary_next {place : Nat × Nat} (cancel : (s.job g).cancelLatch = false) (close : (s.job g).closeLatch = false)
    (engine : s.ctl.engine ≠ .draining) (yield : y.yieldPending = false)
    (next : nextSheet (s.job g) y.print.copy y.print.sheet = some place) :
    (s.setPort p y).sheetBoundary p g c = ((s.counted g c).setPort p (y.begun place (sheetStart (s.job g).chain place.2)
      (startTimer s.ctl.clock ((s.portConfig p).sheetTimeout * 1000))), true) := by
  have begin := State.beginSheet_setPort (s := s.counted g c) (p := p) (g := g) (y := y) place
  rw [State.counted_chain, State.counted_ctl, State.portConfig_congr (State.counted_ctl c)] at begin
  obtain ⟨hcancel, hclose⟩ := State.counted_latches (s := s) (g := g) c
  have hengine : (s.counted g c).ctl = s.ctl := State.counted_ctl c
  rw [State.sheetBoundary_eq, next, ← begin]
  generalize s.counted g c = v at *
  have asks : (v.setPort p y.bounded).asksOutrank p g true = false := by
    unfold State.asksOutrank
    rw [State.port_setPort, show y.bounded.yieldPending = false from yield, Bool.and_false]
  have check : (v.setPort p y.bounded).boundaryCheck p g true = .next := by
    unfold State.boundaryCheck
    rw [State.port_setPort, show y.bounded.yieldPending = false from yield,
      show ((v.setPort p y.bounded).job g).cancelLatch = false from hcancel.trans cancel,
      show ((v.setPort p y.bounded).job g).closeLatch = false from hclose.trans close,
      if_neg (show (v.setPort p y.bounded).ctl.engine ≠ .draining by
        rw [show (v.setPort p y.bounded).ctl = s.ctl from hengine]; exact engine)]
    rfl
  unfold State.closeSheet
  dsimp only [Option.isSome]
  rw [check]
  dsimp only
  rw [if_neg (by rw [asks]; exact Bool.false_ne_true)]

/-- What ends a job at a boundary (R132). -/
def State.boundaryEnds (s : State) (g : Slot) (remaining : Bool) (o : JobOutcome) (d : Detail) : Prop :=
  ((s.job g).cancelLatch = true ∧ o = .cancelled ∧ d = .byHost) ∨
    ((s.job g).cancelLatch = false ∧ (s.job g).closeLatch = true ∧ o = .cancelled ∧ d = .stationClosed) ∨
    ((s.job g).cancelLatch = false ∧ (s.job g).closeLatch = false ∧ s.ctl.engine = .draining ∧ o = .doneShort ∧
      d = .engineStop) ∨
    ((s.job g).cancelLatch = false ∧ (s.job g).closeLatch = false ∧ s.ctl.engine ≠ .draining ∧ remaining = false ∧ o = .done ∧
      d = .none)

theorem State.closeSheet_ends {o : JobOutcome} {d : Detail} {next : Option (Nat × Nat)}
    (ends : s.boundaryEnds g next.isSome o d) :
    s.closeSheet p g next = ((s.finish g o d none).releasePort p, false) := by
  have asks : s.asksOutrank p g next.isSome = false := by
    unfold State.asksOutrank
    rcases ends with ⟨h, -⟩ | ⟨-, h, -⟩ | ⟨-, -, h, -⟩ | ⟨-, -, -, h, -⟩ <;> rw [h] <;> simp
  have check : s.boundaryCheck p g next.isSome = .finish o d := by
    unfold State.boundaryCheck
    rcases ends with ⟨h, rfl, rfl⟩ | ⟨h, k, rfl, rfl⟩ | ⟨h, k, e, rfl, rfl⟩ | ⟨h, k, e, r, rfl, rfl⟩
    · rw [h, if_pos rfl]
    · rw [h, k, if_neg Bool.false_ne_true, if_pos rfl]
    · rw [h, k, if_neg Bool.false_ne_true, if_neg Bool.false_ne_true, if_pos e]
    · rw [h, k, r, if_neg Bool.false_ne_true, if_neg Bool.false_ne_true, if_neg e]
      rfl
  unfold State.closeSheet
  rw [check]
  dsimp only
  rw [if_neg (by rw [asks]; exact Bool.false_ne_true)]

/-- A boundary that ends the job frees the port. -/
theorem State.sheetBoundary_ends {o : JobOutcome} {d : Detail}
    (ends : s.boundaryEnds g (nextSheet (s.job g) y.print.copy y.print.sheet).isSome o d) :
    (s.setPort p y).sheetBoundary p g c = ((((s.counted g c).setPort p y.bounded).finish g o d none).releasePort p, false) := by
  rw [State.sheetBoundary_eq]
  obtain ⟨hcancel, hclose⟩ := State.counted_latches (s := s) (g := g) c
  have hctl : (s.counted g c).ctl = s.ctl := State.counted_ctl c
  refine State.closeSheet_ends ?_
  unfold State.boundaryEnds at ends ⊢
  rw [← hcancel, ← hclose, ← hctl] at ends
  exact ends

end
end

end Sys2Proof.Machine
end

/-! SUPPORT. How a service starts by the port's class (R126, R127, R151, R174, R176). -/
section
namespace Sys2Proof.Machine

section
variable {s : State} {p : Port} {g : Slot}

/-! ### A scan starts (R151) -/

/-- The job of a scan that starts: a resolution above the scanner's is flagged (R151). -/
def State.scanFlagged (s : State) (p : Port) (g : Slot) : State :=
  if (s.port p).capability < (s.job g).resolution then
    s.updateJob g fun j => { j with clamps := { j.clamps with resolution := true } }
  else s

theorem State.scanFlagged_other {h : Slot} (e : h ≠ g) : (s.scanFlagged p g).slot h = s.slot h := by
  unfold State.scanFlagged
  split
  · exact s.slot_setSlot_ne e _
  · rfl

theorem State.scanFlagged_state : ((s.scanFlagged p g).slot g).state = (s.slot g).state := by
  unfold State.scanFlagged
  split
  · exact (congrArg SlotShadow.state (s.slot_setSlot g { s.slot g with job := _ }) :)
  · rfl

theorem State.scanFlagged_fields : (s.scanFlagged p g).ports = s.ports ∧ (s.scanFlagged p g).mem = s.mem ∧
    (s.scanFlagged p g).marks = s.marks := by
  unfold State.scanFlagged
  split <;> exact ⟨rfl, rfl, rfl⟩

theorem State.startScan_eq (s : State) (p : Port) (g : Slot) : s.startScan p g = (s.scanFlagged p g).setPort p { s.port p with
    scan := { phase := .opening, resolution := min (s.job g).resolution (s.port p).capability }
    transmitter := offer
      { frame := .openScan (BitVec.ofNat 8 (s.job g).mode) (BitVec.ofNat 8 (min (s.job g).resolution (s.port p).capability))
        owner := .service (s.port p).grantNumber } (s.port p).transmitter } := by
  have port : (s.scanFlagged p g).port p = s.port p := by
    unfold State.port
    rw [State.scanFlagged_fields.1]
  rw [← port]
  unfold State.startScan State.offerFrame State.modifyScan State.modifyPort
  dsimp only
  rw [← State.scanFlagged, State.port_setPort, State.transmit_setPort, port]

/-! ### A hold starts (R176) -/

theorem State.startHold_eq (s : State) (p : Port) (g : Slot) : s.startHold p g = (s.setPort p { s.port p with
    hold := { phase := .holding, timer := startTimer s.ctl.clock (s.job g).holdRemaining } }).liftEntries p true false .orphan :=
  rfl

/-! ### A print starts (R126, R127) -/

/-- The port of a print that begins at its resume point (R126). -/
def State.printBegun (s : State) (p : Port) (g : Slot) : PortRecord :=
  ({ s.port p with print := { busy := (s.port p).condition == .busy } } : PortRecord).begun
    ((s.job g).resumeCopy, (s.job g).resumeSheet) (sheetStart (s.job g).chain (s.job g).resumeSheet)
    (startTimer s.ctl.clock ((s.portConfig p).sheetTimeout * 1000))

theorem State.startPrint_eq : s.startPrint p g =
    State.reachEntries p g (entryBound (s.job g)) (s.setPort p (s.printBegun p g)) := by
  unfold State.startPrint
  dsimp only
  have begun : (s.modifyPrint p fun _ => { busy := (s.port p).condition == .busy }).beginSheet p g (s.job g).resumeCopy
      (s.job g).resumeSheet = s.setPort p (s.printBegun p g) := State.modifyPrint_setPort s p _ _
  rw [begun]
  rfl

theorem State.startService_printer (h : (s.portConfig p).cls = .printer) : s.startService p g = s.startPrint p g := by
  unfold State.startService
  rw [h]

theorem State.startService_scanner (h : (s.portConfig p).cls = .scanner) : s.startService p g = s.startScan p g := by
  unfold State.startService
  rw [h]

theorem State.startService_panel (h : (s.portConfig p).cls = .panel) : s.startService p g = s.startHold p g := by
  unfold State.startService
  rw [h]

theorem length_lt_entryBound (j : JobRecord) : j.chain.length < entryBound j := by
  unfold entryBound
  nlinarith

/-- The print that starts reaches its first block with data (R126, R127). -/
theorem State.startPrint_feeds {skip rest : List ChainEntry} {e : ChainEntry}
    (stands : (s.job g).chain.drop (sheetStart (s.job g).chain (s.job g).resumeSheet) = skip ++ e :: rest)
    (passes : s.passesOver skip) (full : readLength s.mem e.block ≠ 0) : s.startPrint p g = s.setPort p
      ((s.printBegun p g).reaching (sheetStart (s.job g).chain (s.job g).resumeSheet + skip.length)
        (readData s.mem e.block (readLength s.mem e.block))) := by
  have := length_of_drop stands
  have := length_lt_entryBound (s.job g)
  rw [State.startPrint_eq]
  exact State.reachEntries_feeds (y := s.printBegun p g) stands passes full (by omega)

end

/-- What a finish from a port's change alone leaves when the port is freed. -/
theorem State.endPrint_result {s : State} {p : Port} {g : Slot} {y : PortRecord} {o : JobOutcome} {d : Detail} (w : Memory.wf s.mem = true) :
    (((s.setPort p y).finish g o d none).releasePort p).hasResult g o d := by
  have := portAddress_bounds p
  have := slotAddress_bounds g
  have wt : Memory.wf ((s.setPort p y).finish g o d none).mem = true := State.finish_wf (s := s.setPort p y) w
  refine (State.finish_hasResult (s := s.setPort p y) w).congr rfl (State.updatePort_word wt (by omega))
    (State.updatePort_word wt (by omega)) ?_
  rw [State.releasePort_stationNotice, BitVec.or_self]

section
variable {s : State} {p : Port} {g : Slot}

theorem startsScan (cls : (s.portConfig p).cls = .scanner) :
    let x := s.port p
    let t := s.startService p g
    t.port p = { x with
        scan := { phase := .opening, resolution := min (s.job g).resolution x.capability }
        transmitter := offer
          { frame := .openScan (BitVec.ofNat 8 (s.job g).mode) (BitVec.ofNat 8 (min (s.job g).resolution x.capability))
            owner := .service x.grantNumber } x.transmitter } ∧
      (x.capability < (s.job g).resolution → (t.job g).clamps.resolution = true) ∧
      ((s.job g).resolution ≤ x.capability → t.job g = s.job g) ∧
      s.portsKept t [p] ∧ s.slotsKept t [g] ∧ (t.slot g).state = (s.slot g).state ∧ t.mem = s.mem ∧ t.marks = s.marks := by
  obtain ⟨ports, mem, marks⟩ := State.scanFlagged_fields (s := s) (p := p) (g := g)
  dsimp only
  rw [State.startService_scanner cls, State.startScan_eq]
  refine ⟨State.port_setPort _ p _, fun above => ?_, fun below => ?_, fun r e => ?_, fun h e => ?_, State.scanFlagged_state, mem, marks⟩
  · show ((s.scanFlagged p g).job g).clamps.resolution = true
    unfold State.scanFlagged
    rw [if_pos above, State.job_updateJob]
  · show (s.scanFlagged p g).job g = _
    unfold State.scanFlagged
    rw [if_neg (by omega)]
  · rw [State.port_setPort_ne _ (by simpa using e)]
    unfold State.port
    rw [ports]
  · exact State.scanFlagged_other (by simpa using e)

theorem startsHold (cls : (s.portConfig p).cls = .panel) :
    let t := s.startService p g
    (t.port p).hold = { phase := .holding, timer := some (s.ctl.clock + BitVec.ofNat 32 (s.job g).holdRemaining) } ∧
      (∀ i, t.contact p i = (s.contact p i).after true false .orphan) ∧ (s.wellFormed → s.liftsWritten t [p] Contact.zoned) ∧
      s.portsKept t [p] ∧ t.slots = s.slots ∧ t.queues = s.queues ∧ t.marks = s.marks := by
  dsimp only
  rw [State.startService_panel cls, State.startHold_eq]
  have contact (y : PortRecord) (i : Fin 10) (h : y.contacts = (s.port p).contacts) : (s.setPort p y).contact p i = s.contact p i := by
    unfold State.contact
    rw [State.port_setPort, h]
  refine ⟨?_, fun i => ?_, fun wf => ?_, fun r e => ?_, by simp, by simp, by simp⟩
  · rw [State.liftEntries_port, State.port_setPort]
    rfl
  · rw [State.liftEntries_contact, contact]
    rfl
  · rw [← Contact.taken_zones]
    refine (State.liftEntries_written (s := s.setPort p _) wf.memory p true false .orphan).congr (fun r hr i => ?_) rfl rfl
      fun _ _ _ _ => rfl
    obtain rfl := List.mem_singleton.mp hr
    exact (contact _ i (by rfl)).symm
  · have e : r ≠ p := by simpa using e
    rw [State.liftEntries_port_ne _ _ _ _ _ e, State.port_setPort_ne _ e]

/-- The first block of the sheet is empty: the entry after it, or the sheet after it, is reached in the same event (R127). -/
theorem startsPast {e f : ChainEntry} {rest : List ChainEntry} (sheet : (s.job g).resumeSheet = 1)
    (chain : (s.job g).chain = e :: f :: rest) (blank : readLength s.mem e.block = 0) (idle : (s.port p).condition ≠ .busy)
    (full : readLength s.mem f.block ≠ 0)
    (next : e.sheetEnd = false ∨ ((s.port p).yieldPending = false ∧ (s.job g).cancelLatch = false ∧
      (s.job g).closeLatch = false ∧ s.ctl.engine = .running ∧ 1 < sheetsPerCopy (s.job g).chain)) :
    s.startPrint p g = s.setPort p { s.port p with
      print := {
        phase := .feeding, copy := (s.job g).resumeCopy, sheet := if e.sheetEnd = true then 2 else 1, entry := 1
        fed := true, sheetTimer := some (s.ctl.clock + BitVec.ofNat 32 ((s.portConfig p).sheetTimeout * 1000)) }
      transmitter := offer { frame := .feed (readData s.mem f.block (readLength s.mem f.block)), owner := .service (s.port p).grantNumber }
        (s.port p).transmitter } := by
  have first : sheetStart (s.job g).chain 1 = 0 := by rw [chain]; rfl
  have busy : ((s.port p).condition == .busy) = false := beq_eq_false_iff_ne.mpr idle
  cases marked : e.sheetEnd
  · rw [State.startPrint_feeds (skip := [e]) (e := f) (rest := rest) (by rw [sheet, first]; exact chain) (fun h m => by
      obtain rfl := List.mem_singleton.mp m
      exact ⟨marked, blank⟩) full]
    rw [PortRecord.reaching_idle busy]
    unfold State.printBegun
    rw [sheet, first, busy]
    rfl
  · obtain ⟨yield, cancel, close, running, more⟩ := next.resolve_left (by rw [marked]; exact Bool.noConfusion)
    have bound : entryBound (s.job g) = (entryBound (s.job g) - 1) + 1 := by unfold entryBound; rfl
    have len := length_lt_entryBound (s.job g)
    rw [chain] at len
    have entry : ((s.setPort p (s.printBegun p g)).job g).chain[((s.setPort p (s.printBegun p g)).port p).print.entry]? = some e := by
      rw [State.port_setPort]
      show (s.job g).chain[sheetStart (s.job g).chain (s.job g).resumeSheet]? = some e
      rw [sheet, first, chain]
      rfl
    have second : sheetStart (s.job g).chain 2 = 1 := by
      rw [chain]
      show 1 + sheetStart (f :: rest) (if e.sheetEnd then 1 else 2) = 1
      rw [marked]
      rfl
    have follows : nextSheet (s.job g) (s.job g).resumeCopy (s.job g).resumeSheet = some ((s.job g).resumeCopy, 2) := by
      unfold nextSheet
      rw [sheet, if_pos more]
    rw [State.startPrint_eq, bound, State.reachEntries_bounds _ entry blank marked (.inl (by rw [State.port_setPort]; rfl)),
      State.port_setPort, show (s.printBegun p g).print.fed = false from rfl, State.sheetBoundary_next (y := s.printBegun p g) false cancel close (by rw [running]; exact Engine.noConfusion)
        yield follows]
    refine (State.reachEntries_feeds (s := s) (skip := []) (e := f) (rest := rest) ?_ (fun _ m => absurd m List.not_mem_nil) full
      (by simp only [List.length_cons, List.length_nil] at *; omega)).trans ?_
    · show (s.job g).chain.drop (sheetStart (s.job g).chain 2) = _
      rw [second, chain]
      rfl
    · rw [PortRecord.reaching_idle (by exact busy)]
      unfold State.printBegun PortRecord.begun
      rw [second, busy]
      rfl

end

section
variable {s : State} {p : Port} {g : Slot}

/-- A print of one empty sheet is finished in the event that starts it (R127, R132). -/
theorem startsEmpty {e : ChainEntry} (wf : s.wellFormed) (sheet : (s.job g).resumeSheet = 1) (chain : (s.job g).chain = [e])
    (blank : readLength s.mem e.block = 0) (marked : e.sheetEnd = true) (copies : (s.job g).copies ≤ (s.job g).resumeCopy)
    (running : s.ctl.engine = .running) (cancel : (s.job g).cancelLatch = false) (close : (s.job g).closeLatch = false) :
    let t := s.startPrint p g
    t.hasResult g .done .none ∧ t.job g = s.job g ∧ t.port p = (s.port p).ended ∧ t.portShown p ∧
      s.portsKept t [p] ∧ s.slotsKept t [g] ∧ t.queues = s.queues ∧ t.ctl = s.ctl := by
  have first : sheetStart (s.job g).chain 1 = 0 := by rw [chain]; rfl
  have bound : entryBound (s.job g) = (entryBound (s.job g) - 1) + 1 := by unfold entryBound; rfl
  have entry : ((s.setPort p (s.printBegun p g)).job g).chain[((s.setPort p (s.printBegun p g)).port p).print.entry]? = some e := by
    rw [State.port_setPort]
    show (s.job g).chain[sheetStart (s.job g).chain (s.job g).resumeSheet]? = some e
    rw [sheet, first, chain]
    rfl
  have last : nextSheet (s.job g) (s.job g).resumeCopy (s.job g).resumeSheet = none := by
    unfold nextSheet sheetsPerCopy
    rw [sheet, chain, if_neg (by simp [marked]), if_neg (by omega)]
  have ends : s.boundaryEnds g (nextSheet (s.job g) (s.printBegun p g).print.copy (s.printBegun p g).print.sheet).isSome
      .done .none := .inr (.inr (.inr ⟨cancel, close, by rw [running]; exact Engine.noConfusion, by
        rw [show nextSheet (s.job g) (s.printBegun p g).print.copy (s.printBegun p g).print.sheet = none from last]; rfl, rfl, rfl⟩))
  have run : s.startPrint p g = ((s.setPort p (s.printBegun p g).bounded).finish g .done .none none).releasePort p := by
    rw [State.startPrint_eq, bound, State.reachEntries_bounds _ entry blank marked (.inl (by rw [State.port_setPort]; rfl)),
      State.port_setPort, show (s.printBegun p g).print.fed = false from rfl, State.sheetBoundary_ends (y := s.printBegun p g) false ends]
    rfl
  dsimp only
  rw [run]
  have wt : ((s.setPort p (s.printBegun p g).bounded).finish g .done .none none).wellFormed :=
    ((s.setPort p (s.printBegun p g).bounded).finish_kept g _ _ _).data (State.setPort_wellFormed wf { wf.port p with })
  refine ⟨State.endPrint_result wf.memory, ?_, ?_, State.releasePort_shown wt, fun r e => ?_, fun h e => ?_, by simp, by simp⟩
  · exact State.finish_job (s := s.setPort p _)
  · rw [State.releasePort_port, State.finish_port, State.port_setPort]
    rfl
  · have e : r ≠ p := by simpa using e
    rw [State.releasePort_port_ne _ e, State.finish_port, State.port_setPort_ne _ e]
  · exact State.finish_slotsKept (s := s.setPort p _) h e

end

/-- Settles O37: the classes one by one; a print by the entries that it walks over. -/
theorem serviceStartsByClass : Obligations.ServiceStartsByClass := by
  unfold Obligations.ServiceStartsByClass
  intro s p g
  dsimp only
  refine ⟨startsScan, fun cls => ?_, fun front skip e rest cls chain start passes full => ?_, fun e rest cls sheet chain blank idle =>
    ⟨fun f head full next => ?_, fun wf marked last copies running cancel close print => ?_⟩⟩
  · obtain ⟨hold, contacts, written, kept⟩ := startsHold (g := g) cls
    refine ⟨hold, fun i => (contacts i).trans ?_, written, kept⟩
    cases s.contact p i <;> rfl
  · have begins : sheetStart (s.job g).chain (s.job g).resumeSheet = front.length := by
      rcases start with ⟨rfl, sheet⟩ | ⟨last, count⟩
      · rw [sheet]
        cases (s.job g).chain <;> rfl
      · obtain ⟨x, hx, marked⟩ := Option.map_eq_some_iff.mp last
        have pos : 1 ≤ (front.filter ChainEntry.sheetEnd).length :=
          List.length_pos_of_mem (List.mem_filter.mpr ⟨List.mem_of_getLast? hx, marked⟩)
        rw [chain, ← count, List.append_assoc]
        obtain ⟨k, hk⟩ : ∃ k, (front.filter ChainEntry.sheetEnd).length = k + 1 := ⟨_, (Nat.sub_add_cancel pos).symm⟩
        rw [hk]
        exact sheetStart_append last hk
    rw [State.startService_printer cls, State.startPrint_feeds (skip := skip) (e := e) (rest := rest)
      (by rw [begins, chain, List.append_assoc]; exact List.drop_left) passes full]
    rw [begins]
    refine ⟨fun idle => ?_, fun busy => ?_⟩
    · have idle : ((s.port p).condition == .busy) = false := beq_eq_false_iff_ne.mpr idle
      rw [PortRecord.reaching_idle (x := s.printBegun p g) idle]
      unfold State.printBegun
      rw [begins, idle]
      rfl
    · have busy : ((s.port p).condition == .busy) = true := beq_iff_eq.mpr busy
      rw [PortRecord.reaching_busy (x := s.printBegun p g) busy]
      unfold State.printBegun
      rw [begins, busy]
      rfl
  · obtain ⟨more, rfl⟩ : ∃ more, rest = f :: more := by
      rcases rest with _ | ⟨x, more⟩
      · cases head
      · exact ⟨more, congrArg (· :: more) (Option.some.inj head)⟩
    rw [State.startService_printer cls]
    exact startsPast sheet chain blank idle full next
  · subst last
    rw [State.startService_printer cls]
    exact startsEmpty wf sheet chain blank marked copies running cancel close

end Sys2Proof.Machine
end

/-! SUPPORT. Reviews: aged-out latches in DRAINING, and in RUNNING the rounds until no port or no job is left (R20, R66, R86). -/
section
namespace Sys2Proof.Machine

section
variable {s t : State} {p : Port} {g : Slot} {q : Pool}

/-! ### Latches (R69) -/

theorem State.latchAged_slot (h x : Slot) : ∃ aged, (s.latchAged h).slot x = { s.slot x with
    job := { s.job x with agedOut := aged } } := by
  unfold State.latchAged
  dsimp only
  split
  · by_cases e : x = h
    · subst e
      exact ⟨true, s.slot_setSlot x _⟩
    · exact ⟨_, s.slot_setSlot_ne e _⟩
  · exact ⟨_, rfl⟩

theorem State.latchAged_pool (h x : Slot) : ((s.latchAged h).job x).pool = (s.job x).pool := by
  obtain ⟨_, slot⟩ := s.latchAged_slot h x
  rw [State.job, slot]

theorem State.latchAll_slot (l : List Slot) : ∀ (s : State) (x : Slot), ∃ aged, (s.latchAll l).slot x = { s.slot x with
    job := { s.job x with agedOut := aged } } := by
  induction l with
  | nil => exact fun s x => ⟨_, rfl⟩
  | cons h rest ih =>
    intro s x
    obtain ⟨_, first⟩ := s.latchAged_slot h x
    obtain ⟨aged, second⟩ := ih (s.latchAged h) x
    exact ⟨aged, by rw [show s.latchAll (h :: rest) = (s.latchAged h).latchAll rest from rfl, second, State.job, first]⟩

theorem State.latchAll_rest (l : List Slot) (s : State) : s.latchAll l = { s with slots := (s.latchAll l).slots } := by
  refine State.ext_of ?_ ?_ ?_ ?_ rfl ?_ ?_ ?_ ?_ ?_ ?_ ?_ ?_ ?_ ?_ <;> simp

/-! ### What a grant leaves to the review (R72 to R74) -/

/-- A print that is asked for no yield keeps every queue. -/
theorem PrintStep.queues (step : PrintStep s p g t) (yield : (s.port p).yieldPending = false) : t.queues = s.queues := by
  cases step with
  | works work => rw [work.rest]
  | ends work o d => rw [State.finishScan_queues, work.rest]
  | yields work copy sheet asked =>
    rw [yield] at asked
    exact Bool.noConfusion asked

/-- A print that is asked for no yield leaves every job in its pool. -/
theorem PrintStep.pool (step : PrintStep s p g t) (yield : (s.port p).yieldPending = false) (h : Slot) :
    (t.job h).pool = (s.job h).pool := by
  have worked {u : State} (work : Worked s u p g) : (u.job h).pool = (s.job h).pool := by
    obtain ⟨_, _, slot, -⟩ := work.slot h
    rw [State.job, slot]
  cases step with
  | works work => exact worked work
  | ends work o d =>
    by_cases e : h = g
    · subst e
      rw [State.finishScan_job, worked work]
    · rw [State.job, State.finishScan_slotsKept h (by simpa using e)]
      exact worked work
  | yields work copy sheet asked =>
    rw [yield] at asked
    exact Bool.noConfusion asked

/-- A print that starts gives its port up by no yield: the grant has cleared the flag (R74). -/
theorem State.startService_queues (yield : (s.port p).yieldPending = false) : (s.startService p g).queues = s.queues := by
  unfold State.startService
  split
  · exact (s.startPrint_step p g).queues yield
  · rw [State.startScan_eq]
    unfold State.scanFlagged
    split <;> rfl
  · unfold State.startHold
    simp [State.modifyPort]
  · rfl
  · rfl

/-- A service that starts leaves every job in its pool. -/
theorem State.startService_pool (yield : (s.port p).yieldPending = false) (h : Slot) :
    ((s.startService p g).job h).pool = (s.job h).pool := by
  unfold State.startService
  split
  · exact (s.startPrint_step p g).pool yield h
  · rw [State.startScan_eq]
    show ((s.scanFlagged p g).job h).pool = _
    by_cases e : h = g
    · subst e
      unfold State.scanFlagged
      split
      · rw [State.job_updateJob]
      · rfl
    · rw [State.job, State.scanFlagged_other e]
      rfl
  · rw [State.startHold_eq]
    unfold State.job State.slot
    rw [State.liftEntries_slots]
    rfl
  · rfl
  · rfl

theorem State.grant_queue (rank : Nat) (h : Pool) : (s.grant g rank p).queue h =
    if h = (s.job g).pool then (s.queue h).erase g else s.queue h := by
  rw [State.grant_eq, ← State.paired_queue (rank := rank) (p := p)]
  unfold State.queue
  rw [State.startService_queues (by rw [State.paired_port]; rfl)]

theorem State.grant_pool (rank : Nat) (h : Slot) : ((s.grant g rank p).job h).pool = (s.job h).pool := by
  rw [State.grant_eq, State.startService_pool (by rw [State.paired_port]; rfl)]
  by_cases e : h = g
  · subst e
    rw [State.paired_job]
    rfl
  · rw [State.job, State.paired_slotsKept h (by simpa using e)]
    rfl

theorem State.grant_ctl (rank : Nat) : (s.grant g rank p).ctl = s.ctl := by
  rw [State.grant_eq, (State.startService_kept _ p g).ctl, State.paired_ctl]

/-- A panel serves the job that it is granted. -/
theorem State.grant_panel {rank : Nat} (cls : (s.portConfig p).cls = .panel) : ((s.grant g rank p).port p).state = .serving := by
  have cls' : ((s.paired g rank p).portConfig p).cls = .panel := by
    rw [State.portConfig_congr State.paired_ctl]
    exact cls
  rw [State.grant_eq, State.startService_panel cls', State.startHold_eq, State.liftEntries_port, State.port_setPort]
  exact congrArg PortRecord.state State.paired_port

/-! ### What a preempted hold leaves to the review (R85) -/

/-- The re-queued slot stands in its own pool's queue, and the others keep their places. -/
theorem State.joined_filter {l after : List Slot} {before : Slot → Prop} (h : joined before g l after) (f : Slot → Bool)
    (out : f g = false) : after.filter f = l.filter f := by
  obtain ⟨front, back, rfl, rfl, -⟩ := h
  rw [List.filter_append, List.filter_cons, out, List.filter_append]
  rfl

theorem State.requeuedWith_queue_ne {f : JobRecord → JobRecord} {k : PoolStats → PoolStats} {h : Pool} (e : h ≠ (s.job g).pool) :
    (s.requeuedWith g f k).queue h = s.queue h := by
  have joined : (s.rejoined g).queue h = (s.handSlot g .queued).queue h :=
    State.queue_joinQueue_ne _ (by rw [State.handSlot_job]; exact e)
  exact (State.requeuedWith_queue h).trans joined

theorem State.holdPreempted_queue : (s.holdPreempted p g).queue q = (s.holdRequeued p g).queue q := by
  rw [State.holdPreempted_eq]
  unfold State.queue
  rw [State.releasePort_queues]

theorem State.holdLifted_queue (ms : Nat) : (s.holdLifted p g ms).queue q = s.queue q := by
  unfold State.queue
  rw [State.holdLifted_queues]

theorem State.holdPreempted_queue_ne {h : Pool} (e : h ≠ (s.job g).pool) : (s.holdPreempted p g).queue h = s.queue h := by
  rw [State.holdPreempted_queue, State.holdRequeued, State.requeuedWith_queue_ne, State.holdLifted_queue]
  rw [State.holdLifted_job]
  exact e

theorem State.holdPreempted_queue_filter (f : Slot → Bool) (out : f g = false) (h : Pool) :
    ((s.holdPreempted p g).queue h).filter f = (s.queue h).filter f := by
  by_cases e : h = (s.job g).pool
  · subst e
    have job : ((s.holdLifted p g (max 1 (s.holdLeft p))).job g).pool = (s.job g).pool := by rw [State.holdLifted_job]
    have joined := State.requeuedWith_joined (s := s.holdLifted p g (max 1 (s.holdLeft p))) (g := g)
      (f := JobRecord.interrupted) (h := PoolStats.preempted) (JobRecord.interrupted_acceptStamp _)
    rw [job] at joined
    have same := State.joined_filter joined f out
    rw [State.holdPreempted_queue, State.holdRequeued, same, State.holdLifted_queue]
  · rw [State.holdPreempted_queue_ne e]

theorem State.holdPreempted_pool (h : Slot) : ((s.holdPreempted p g).job h).pool = (s.job h).pool := by
  have slots : (s.holdPreempted p g).slots = (s.holdRequeued p g).slots := by
    rw [State.holdPreempted_eq, State.releasePort_slots]
  have job (x : Slot) : (s.holdPreempted p g).job x = (s.holdRequeued p g).job x := by
    unfold State.job State.slot
    rw [slots]
  rw [job]
  by_cases e : h = g
  · subst e
    unfold State.holdRequeued
    rw [State.requeuedWith_job, State.holdLifted_job]
    rfl
  · rw [State.job, State.holdRequeued, State.requeuedWith_slotsKept h (by simpa using e), State.holdLifted_slot_ne e]
    rfl

/-! ### The rounds of a review (R66, R86) -/

/-- The jobs of a pool's queue that a review may still consider (R67, R86). -/
def State.waiting (s : State) (q : Pool) (excluded : List Slot) : List Slot :=
  (s.queue q).filter fun g => s.eligible g && !excluded.contains g

/-- A member port of a pool (R60). -/
def State.isMember (s : State) (q : Pool) (r : Port) : Prop := (s.portConfig r).cls ≠ .none ∧ (s.portConfig r).pool = q

/-- No member port of a pool is FREE. -/
def State.noneFree (s : State) (q : Pool) : Prop := ∀ r, s.isMember q r → (s.port r).state ≠ .free

/-- A review may end: no FREE member port, or no eligible job. -/
def State.reviewed (s : State) (q : Pool) : Prop :=
  s.noneFree q ∨ ∀ g ∈ s.queue q, (s.sample (stationOf g)).state ≠ .opened

/-- What holds between the rounds of a review: a preemption has freed one panel, for a job that still waits. -/
structure State.betweenRounds (s : State) (q : Pool) (excluded : List Slot) : Prop where
  pools : ∀ g ∈ s.queue q, (s.job g).pool = q
  classes : ∀ r r', s.isMember q r → s.isMember q r' → (s.portConfig r).cls = (s.portConfig r').cls
  freed : excluded = [] ∨ (∀ r, s.isMember q r → (s.portConfig r).cls = .panel) ∧
    (s.noneFree q ∨ s.waiting q excluded ≠ [] ∧ ∃ p, ∀ r, s.isMember q r → (s.port r).state = .free → r = p)

theorem State.freePort_none_iff : s.freePort q = none ↔ s.noneFree q := by
  unfold State.freePort State.noneFree State.isMember
  rw [List.find?_eq_none]
  simp only [State.mem_members, beq_iff_eq]

theorem State.waiting_eligible (ctl : t.ctl = s.ctl) (g : Slot) : t.eligible g = s.eligible g := by
  unfold State.eligible State.sample
  rw [ctl]

theorem State.isMember_congr (ctl : t.ctl = s.ctl) (r : Port) : t.isMember q r ↔ s.isMember q r := by
  unfold State.isMember
  rw [State.portConfig_congr ctl]

theorem State.bestWaiting_eq (ranks : List (Slot × Nat)) (excluded : List Slot) :
    s.bestWaiting q ranks excluded = firstBest (rankIn ranks) (s.waiting q excluded) := rfl

/-- A grant takes its job off the waiting ones. -/
theorem State.grant_waiting {excluded : List Slot} {rank : Nat} (pool : (s.job g).pool = q) (mem : g ∈ s.waiting q excluded) :
    ((s.grant g rank p).waiting q excluded).length + 1 = (s.waiting q excluded).length := by
  have open' := (List.mem_filter.mp mem).2
  unfold State.waiting at mem ⊢
  rw [State.grant_queue, if_pos pool.symm]
  simp only [State.waiting_eligible (State.grant_ctl rank)]
  rw [← List.erase_filter, List.length_erase_of_mem mem]
  have := List.length_pos_of_mem mem
  omega

theorem State.betweenRounds.classOf {excluded : List Slot} (b : s.betweenRounds q excluded) (ctl : t.ctl = s.ctl) (r r' : Port)
    (h : t.isMember q r) (h' : t.isMember q r') : (t.portConfig r).cls = (t.portConfig r').cls := by
  rw [State.isMember_congr ctl] at h h'
  rw [State.portConfig_congr ctl, State.portConfig_congr ctl]
  exact b.classes r r' h h'

/-- A grant to the lowest FREE member; after a preemption it is the panel that was freed. -/
theorem State.betweenRounds.grant {excluded : List Slot} {rank : Nat} (b : s.betweenRounds q excluded) (free : s.freePort q = some p)
    (mem : g ∈ s.waiting q excluded) : (s.grant g rank p).betweenRounds q excluded := by
  have own : (s.job g).pool = q := b.pools g (List.mem_filter.mp mem).1
  have ctl : (s.grant g rank p).ctl = s.ctl := State.grant_ctl rank
  obtain ⟨⟨cls, pool, isFree⟩, -⟩ := State.freePort_iff.mp free
  refine ⟨fun h hm => ?_, b.classOf ctl, b.freed.imp id fun ⟨panels, one⟩ => ⟨fun r hr => ?_, .inl fun r hr isFree' => ?_⟩⟩
  · rw [State.grant_pool]
    rw [State.grant_queue, if_pos own.symm] at hm
    exact b.pools h (List.mem_of_mem_erase hm)
  · rw [State.isMember_congr ctl] at hr
    rw [State.portConfig_congr ctl]
    exact panels r hr
  · rw [State.isMember_congr ctl] at hr
    by_cases e : r = p
    · subst e
      rw [State.grant_panel (panels r hr)] at isFree'
      exact PortState.noConfusion isFree'
    · rw [State.grant_portsKept rank r (by simpa using e)] at isFree'
      rcases one with none | ⟨-, p', only⟩
      · exact none r hr isFree'
      · exact e ((only r hr isFree').trans (only p ⟨cls, pool⟩ isFree).symm)

/-- What the decision to end a hold is about (R84, R85). -/
theorem State.preemption_holds {ranks : List (Slot × Nat)} {h : Slot} (e : s.preemption q ranks g = .endHold p h) :
    s.poolClass q = .panel ∧ s.isMember q p ∧ stationOf h ≠ stationOf g := by
  obtain ⟨found, enabled, below⟩ := State.preemption_acts (.inl e)
  obtain ⟨⟨k, cls, pool, -, job, station⟩, -⟩ := State.candidate_least found
  rw [State.preemption_of_candidate found, if_pos ⟨enabled, below⟩] at e
  split at e
  · next k' panel job' =>
    cases e
    rw [job'] at job
    cases job
    exact ⟨panel, ⟨cls, pool⟩, station⟩
  · cases e
  · cases e

/-- The state after a preempted hold. -/
theorem State.betweenRounds.preempt {excluded : List Slot} {ranks : List (Slot × Nat)} {h : Slot} (b : s.betweenRounds q excluded)
    (none : s.noneFree q) (mem : g ∈ s.waiting q excluded) (e : s.preemption q ranks g = .endHold p h) :
    let t := (s.holdPreempted p h).latchAged h
    t.betweenRounds q (h :: excluded) ∧ t.waiting q (h :: excluded) ≠ [] ∧
      (t.waiting q (h :: excluded)).length ≤ (s.waiting q excluded).length ∧ ¬ t.noneFree q := by
  intro t
  obtain ⟨panel, isMember, station⟩ := State.preemption_holds e
  have ctl : t.ctl = s.ctl := by
    rw [show t = (s.holdPreempted p h).latchAged h from rfl, State.latchAged_ctl, State.holdPreempted_ctl]
  have ports (r : Port) : t.port r = (s.holdPreempted p h).port r := by
    unfold State.port
    rw [show t = (s.holdPreempted p h).latchAged h from rfl, State.latchAged_ports]
  have queue : t.queue q = (s.holdPreempted p h).queue q := by
    unfold State.queue
    rw [show t = (s.holdPreempted p h).latchAged h from rfl, State.latchAged_queues]
  have pool (x : Slot) : (t.job x).pool = (s.job x).pool := by
    rw [show t = (s.holdPreempted p h).latchAged h from rfl, State.latchAged_pool, State.holdPreempted_pool]
  have wait : t.waiting q (h :: excluded) = (s.waiting q excluded).filter fun x => x != h := by
    unfold State.waiting
    simp only [State.waiting_eligible ctl]
    rw [queue, State.holdPreempted_queue_filter _ (by simp), List.filter_filter]
    refine List.filter_congr fun x _ => ?_
    rw [List.contains_cons, Bool.not_or, Bool.and_left_comm]
    rfl
  have stays : g ∈ t.waiting q (h :: excluded) := by
    rw [wait, List.mem_filter]
    exact ⟨mem, bne_iff_ne.mpr fun k => station (by rw [k])⟩
  have members (r : Port) (hr : s.isMember q r) : (s.portConfig r).cls = .panel := by
    rw [← panel]
    unfold State.poolClass
    cases l : s.members q with
    | nil => exact absurd (State.mem_members.mpr hr) (by rw [l]; exact List.not_mem_nil)
    | cons m rest => exact b.classes r m hr (State.mem_members.mp (by rw [l]; exact List.mem_cons_self))
  have ne_nil : t.waiting q (h :: excluded) ≠ [] := List.ne_nil_of_mem stays
  refine ⟨⟨fun x hx => ?_, b.classOf ctl, .inr ⟨fun r hr => ?_, .inr ⟨ne_nil, p, fun r hr free => ?_⟩⟩⟩, ne_nil, ?_, fun none' => ?_⟩
  · rw [pool]
    rw [queue] at hx
    by_cases k : q = (s.job h).pool
    · by_cases e : x = h
      · rw [e, k]
      · have kept := State.holdPreempted_queue_filter (s := s) (p := p) (g := h) (fun x => x != h) (by simp) q
        have : x ∈ (s.queue q).filter fun x => x != h := kept ▸ List.mem_filter.mpr ⟨hx, bne_iff_ne.mpr e⟩
        exact b.pools x (List.mem_filter.mp this).1
    · rw [State.holdPreempted_queue_ne k] at hx
      exact b.pools x hx
  · rw [State.isMember_congr ctl] at hr
    rw [State.portConfig_congr ctl]
    exact members r hr
  · rw [State.isMember_congr ctl] at hr
    by_contra ne
    rw [ports, State.holdPreempted_portsKept r (by simpa using ne)] at free
    exact none r hr free
  · rw [wait]
    exact List.length_filter_le _ _
  · refine none' p ((State.isMember_congr ctl p).mpr isMember) ?_
    rw [ports, State.holdPreempted_port]
    rfl

theorem State.noneFree.askYield (none : s.noneFree q) : (s.askYield p).noneFree q := fun r hr => by
  rw [State.askYield_state]
  exact none r hr

/-- A review's rounds end, by the bound, where no port or no job is left. -/
theorem State.reviewRounds_reviewed (ranks : List (Slot × Nat)) : ∀ (n : Nat) (excluded : List Slot) (s : State),
    s.betweenRounds q excluded →
    (2 * (s.waiting q excluded).length + 1 ≤ n ∨
      ¬ s.noneFree q ∧ s.waiting q excluded ≠ [] ∧ 2 * (s.waiting q excluded).length ≤ n) →
    (State.reviewRounds q ranks n excluded s).reviewed q
  | 0, excluded, s, _, bound => by
    rcases bound with bound | ⟨-, some, bound⟩
    · omega
    · exact absurd (List.length_eq_zero_iff.mp (by omega)) some
  | n + 1, excluded, s, b, bound => by
    unfold State.reviewRounds
    split
    · next best =>
      rw [State.bestWaiting_eq, firstBest_eq_none_iff] at best
      rcases b.freed with rfl | ⟨-, none | ⟨some, -⟩⟩
      · refine .inr fun g hg open' => ?_
        have mem : g ∈ s.waiting q [] := List.mem_filter.mpr ⟨hg, by simp [State.eligible_iff, open']⟩
        rw [best] at mem
        exact absurd mem List.not_mem_nil
      · exact .inl none
      · exact absurd best some
    · next g best =>
      have mem : g ∈ s.waiting q excluded := firstBest_mem _ best
      have positive : 1 ≤ (s.waiting q excluded).length := List.length_pos_of_mem mem
      split
      · next p free =>
        have less := State.grant_waiting (p := p) (rank := rankIn ranks g) (b.pools g (List.mem_filter.mp mem).1) mem
        exact State.reviewRounds_reviewed ranks n excluded _ (b.grant free mem) (.inl (by omega))
      · next none =>
        rw [State.freePort_none_iff] at none
        have steps : 2 * (s.waiting q excluded).length + 1 ≤ n + 1 := bound.resolve_right fun k => k.1 none
        split
        · exact .inl none
        · exact .inl none.askYield
        · next p h ends =>
          obtain ⟨between, some, fewer, free⟩ := b.preempt none mem ends
          exact State.reviewRounds_reviewed ranks n _ _ between (.inr ⟨free, some, by omega⟩)

end

/-- Settles O38: latches in DRAINING, nothing at rest, and in RUNNING the rounds to their end. -/
theorem reviewsGrantInRunningOnly : Obligations.ReviewsGrantInRunningOnly := by
  unfold Obligations.ReviewsGrantInRunningOnly
  refine ⟨fun s q => ⟨fun draining => ?_, fun rests => ?_⟩, fun s q structured running => ?_⟩
  · have run : s.review q = s.latchAll (s.queue q) := by
      unfold State.review
      rw [draining]
    rw [run]
    refine ⟨State.latchAll_rest _ s, fun g => ?_⟩
    obtain ⟨aged, slot⟩ := State.latchAll_slot (s.queue q) s g
    unfold State.job
    rw [slot]
    exact ⟨rfl, rfl⟩
  · unfold State.review
    rcases rests with h | h | h <;> rw [h]
  · intro member classes
    obtain ⟨queues, -⟩ := structured
    let u := s.latchAll (s.queue q)
    have run : s.review q = State.reviewRounds q ((s.queue q).map fun g => (g, s.rankOf g)) reviewBound [] u := by
      unfold State.review
      rw [running]
    have ctl : u.ctl = s.ctl := State.latchAll_ctl s _
    have queue : u.queue q = s.queue q := by
      unfold State.queue
      rw [show u = s.latchAll (s.queue q) from rfl, State.latchAll_queues]
    have between : u.betweenRounds q [] := by
      refine ⟨fun g hg => ?_, fun r r' h h' => ?_, .inl rfl⟩
      · rw [queue] at hg
        obtain ⟨_, slot⟩ := State.latchAll_slot (s.queue q) s g
        rw [State.job, slot]
        exact ((queues q).2 g).mp hg |>.2
      · rw [State.isMember_congr ctl] at h h'
        rw [State.portConfig_congr ctl, State.portConfig_congr ctl]
        exact classes r r' h h'
    have length : (u.waiting q []).length ≤ 128 := by
      refine (List.length_filter_le _ _).trans ?_
      rw [queue]
      simpa using (queues q).1.length_le_card
    have done := State.reviewRounds_reviewed ((s.queue q).map fun g => (g, s.rankOf g)) reviewBound [] u between
      (.inl (by unfold reviewBound; omega))
    rw [← run] at done
    have ctl' : (s.review q).ctl = s.ctl := (State.review_kept s q).ctl
    refine done.imp (fun none p hp => none p ((State.isMember_congr ctl' p).mpr hp)) fun none g hg => ?_
    · have := none g hg
      unfold State.sample at this ⊢
      rwa [ctl'] at this

end Sys2Proof.Machine
end

/-! SUPPORT. A SHEET at a serving print; one that ends a print at a slot that is not SERVING charges nothing, and the score's
mirror is not written (R77, R130, R132, R182). -/
section
namespace Sys2Proof.Machine

section
variable {s : State} {p : Port} {g : Slot}

/-- The port that hunts for the next frame. -/
def PortRecord.hunts (x : PortRecord) : PortRecord := { x with receiver := .hunting }

theorem State.hunting_eq (s : State) (p : Port) : s.setReceiver p .hunting = s.setPort p (s.port p).hunts := rfl

/-- A SHEET acts at the print that the port serves (R130). -/
theorem exec_sheetFrame (serves : (s.port p).state = .serving) (printer : (s.portConfig p).cls = .printer)
    (job : (s.port p).job = some g) : exec (.sheetFrame p) s = .next (closeEvent s
      (((s.setPort p (s.port p).hunts).sheetTaken p g).reviewEnded (s.setPort p (s.port p).hunts) p)) := by
  have event : s.frameEvent p .sheet = (s.setPort p (s.port p).hunts).dispatch p .sheet := by
    unfold State.frameEvent
    rw [if_pos (State.listening_of (by rw [serves]; exact PortState.noConfusion))]
    exact if_pos rfl
  have served : (s.setPort p (s.port p).hunts).servedJob p .printer = some g := by
    unfold State.servedJob
    rw [State.port_setPort]
    exact (if_pos ⟨serves, printer⟩).trans job
  show Host.Outcome.next (closeEvent s (s.frameEvent p .sheet)) = _
  rw [event]
  unfold State.dispatch
  dsimp only
  rw [served]

/-- A SHEET that a print waits for is the end of its sheet (R130). -/
theorem State.sheetTaken_waits {y : PortRecord} (waits : y.print.phase = .sheetWait) :
    (s.setPort p y).sheetTaken p g = (s.setPort p y).confirmSheet p g := by
  unfold State.sheetTaken
  rw [State.port_setPort, waits]

theorem State.confirmSheet_ends {y : PortRecord} {o : JobOutcome} {d : Detail}
    (ends : s.boundaryEnds g (nextSheet (s.job g) y.print.copy y.print.sheet).isSome o d) :
    (s.setPort p y).confirmSheet p g = (((s.counted g true).setPort p y.bounded).finish g o d none).releasePort p := by
  unfold State.confirmSheet
  rw [State.sheetBoundary_ends true ends]

/-- The review behind a step of a print that the port served. -/
theorem State.reviewEnded_freed {before t : State} (serves : (before.port p).state = .serving) (free : (t.port p).state = .free) :
    t.reviewEnded before p = t.review (t.portConfig p).pool := by
  unfold State.reviewEnded State.isServing
  rw [if_pos (beq_iff_eq.mpr serves)]
  exact if_pos free

end

/-! ### The counterexample -/

/-- Port 0 is a printer. -/
def printerWork : WorkingCopy :=
  { ({} : WorkingCopy) with ports := ({} : WorkingCopy).ports.set 0 { cls := .printer } }

/-- The port of a print that waits for its SHEET. -/
def waitingPort : PortRecord := { state := .serving, job := some 0, print := { phase := .sheetWait } }

/-- A part whose port 0 serves the print of slot 0, which the host has cancelled, while the slot's shadow is EMPTY and its
station's score, which is 5, shows as 0. -/
def unchargedPrint : State :=
  (((State.reset.setControl fun c => { c with work := printerWork }).setCounters 0 { usage := 5 }).setSlot 0
    { job := { cls := some .print, cancelLatch := true } }).setPort 0 waitingPort

/-- The print of the part at its end. -/
def unchargedPrintEnd : State :=
  (((unchargedPrint.counted 0 true).setPort 0 waitingPort.hunts.bounded).finish 0 .cancelled .byHost none).releasePort 0

theorem unchargedPrintEnd_score :
    (unchargedPrintEnd.counters 0).usage = 5 ∧ field (unchargedPrintEnd.word (stationAddress 0 + 0x0C)) 0 16 = 0 := by
  decide

theorem unchargedPrint_wellFormed : unchargedPrint.wellFormed := by
  refine State.setPort_wellFormed ?_ ⟨Nat.zero_le _, Nat.zero_le _, LineCounters.inRange_zero, Discards.inRange_zero,
    Nat.zero_le _, fun _ h => by cases h⟩
  refine (State.setSlot_kept _ 0 _ fun _ => ⟨Nat.zero_le _, Nat.zero_le _, Nat.zero_le _, Nat.zero_le _⟩).data ?_
  refine (State.setCounters_kept _ 0 _ fun _ => ⟨Nat.zero_le _, Nat.zero_le _, by decide, Nat.zero_le _⟩).data ?_
  exact State.setControl_wellFormed State.reset_wellFormed _ rfl

theorem unchargedPrintEnd_engine : unchargedPrintEnd.ctl.engine = .wiping := by
  unfold unchargedPrintEnd
  rw [State.releasePort_ctl, State.finish_ctl]
  rfl

theorem exec_unchargedPrint : exec (.sheetFrame 0) unchargedPrint = .next (closeEvent unchargedPrint unchargedPrintEnd) := by
  have port : unchargedPrint.port 0 = waitingPort := State.port_setPort _ _ _
  have ends : unchargedPrint.boundaryEnds 0 (nextSheet (unchargedPrint.job 0) 0 0).isSome .cancelled .byHost := .inl ⟨rfl, rfl, rfl⟩
  have free : (unchargedPrintEnd.port 0).state = .free := by
    unfold unchargedPrintEnd
    rw [State.releasePort_port]
    rfl
  rw [exec_sheetFrame (g := 0) (by rw [port]; rfl) rfl (by rw [port]; rfl), port, State.sheetTaken_waits rfl,
    State.confirmSheet_ends (y := waitingPort.hunts) ends]
  change Host.Outcome.next (closeEvent _ (unchargedPrintEnd.reviewEnded _ 0)) = _
  rw [State.reviewEnded_freed (by rw [State.port_setPort]; rfl) free, State.review_wiping unchargedPrintEnd_engine]

/-- Refutes O55: the statement asks for the score's mirror at every end of a print, and does not ask for a slot that is SERVING;
where the slot is not, nothing is charged and the mirror keeps what it shows. -/
theorem not_sheetConfirmsThePrint : ¬ Obligations.SheetConfirmsThePrint := by
  unfold Obligations.SheetConfirmsThePrint
  intro h
  obtain ⟨-, -, finished, -⟩ :=
    (h unchargedPrint 0 unchargedPrint_wellFormed (by decide)).2 0 rfl rfl rfl
  obtain ⟨u, run, -, -, -, -, -, shown, -, -, -, -, -, -, -, ctl, -⟩ :=
    finished .cancelled .byHost rfl rfl (.inl ⟨rfl, rfl, rfl⟩)
  have engine : u.ctl.engine = .wiping := by rw [ctl]; rfl
  rw [exec_unchargedPrint, State.review_wiping engine] at run
  have same := (Host.Outcome.next.inj run).symm
  obtain ⟨mem, stations⟩ := closeEvent_wiping (s := unchargedPrint) engine
  obtain ⟨mem', stations'⟩ := closeEvent_wiping (s := unchargedPrint) unchargedPrintEnd_engine
  have word : u.mem = unchargedPrintEnd.mem := by rw [← mem, same, mem']
  have score : u.stations = unchargedPrintEnd.stations := by rw [← stations, same, stations']
  obtain ⟨usage, mirror⟩ := unchargedPrintEnd_score
  have claim := shown.1
  unfold State.counters at usage claim
  unfold State.word at mirror claim
  rw [word, score, show stationOf 0 = 0 from rfl, usage, mirror] at claim
  exact absurd claim (by decide)

end Sys2Proof.Machine
end

/-! SUPPORT. The ends of a print are blind to where its service stood: a change of the port's print service commutes with
latches, with a re-queue and with a finish (R127, R130, R132). -/
section
namespace Sys2Proof.Machine

section
variable {s v : State} {p : Port} {g : Slot} {y y' : PortRecord}

/-! ### Commuting with a port's record -/

theorem State.latchAged_setPort (s : State) (p : Port) (y : PortRecord) (h : Slot) :
    (s.setPort p y).latchAged h = (s.latchAged h).setPort p y := by
  unfold State.latchAged
  dsimp only
  have same : (s.setPort p y).bonusOf h = s.bonusOf h := rfl
  have pool : (s.setPort p y).pool ((s.setPort p y).job h).pool = s.pool (s.job h).pool := rfl
  rw [same, pool]
  split <;> rfl

theorem State.latchAll_setPort (p : Port) (y : PortRecord) (l : List Slot) : ∀ s : State,
    (s.setPort p y).latchAll l = (s.latchAll l).setPort p y := by
  induction l with
  | nil => exact fun _ => rfl
  | cons h rest ih =>
    intro s
    show ((s.setPort p y).latchAged h).latchAll rest = _
    rw [State.latchAged_setPort, ih]
    rfl

theorem State.requeuePreempted_setPort (s : State) (p : Port) (y : PortRecord) (g : Slot) :
    (s.setPort p y).requeuePreempted g = (s.requeuePreempted g).setPort p y := rfl

theorem State.setMark_setPort (s : State) (p : Port) (y : PortRecord) (b : Nat) (m : BlockMark) :
    (s.setPort p y).setMark b m = (s.setMark b m).setPort p y := by
  unfold State.setMark
  split <;> rfl

theorem State.unlend_setPort (s : State) (p : Port) (y : PortRecord) (b : Nat) :
    (s.setPort p y).unlend b = (s.unlend b).setPort p y := by
  have same : (s.setPort p y).mark b = s.mark b := rfl
  unfold State.unlend
  rw [same]
  cases s.mark b with
  | loaned n => exact State.setMark_setPort s p y b _
  | outside => rfl
  | spare => rfl
  | result => rfl

theorem State.unlendAll_setPort (p : Port) (y : PortRecord) (l : List ChainEntry) : ∀ s : State,
    (s.setPort p y).unlendAll l = (s.unlendAll l).setPort p y := by
  induction l with
  | nil => exact fun _ => rfl
  | cons e rest ih =>
    intro s
    show ((s.setPort p y).unlend e.block).unlendAll rest = _
    rw [State.unlend_setPort, ih]
    rfl

theorem State.putWord_setPort (s : State) (p : Port) (y : PortRecord) (a : Nat) (w : Word) :
    (s.setPort p y).putWord a w = (s.putWord a w).setPort p y := rfl

theorem State.updateCounters_setPort (s : State) (p : Port) (y : PortRecord) (st : Station) (pair : CounterPair)
    (f : StationCounters → StationCounters) :
    (s.setPort p y).updateCounters st pair f = (s.updateCounters st pair f).setPort p y := rfl

theorem State.chargeService_setPort (s : State) (p : Port) (y : PortRecord) (g : Slot) :
    (s.setPort p y).chargeService g = (s.chargeService g).setPort p y := by
  have busy : (s.setPort p y).busyTime g = s.busyTime g := rfl
  unfold State.chargeService State.charge
  rw [busy, State.updateCounters_setPort]

theorem State.closeFinish_setPort (s : State) (p : Port) (y : PortRecord) (g : Slot) (o : JobOutcome) (d : Detail) :
    (s.setPort p y).closeFinish g o d = (s.closeFinish g o d).setPort p y := by
  have codes : (s.setPort p y).setCodes g o d = (s.setCodes g o d).setPort p y := rfl
  have hand (t : State) : (t.setPort p y).handSlot g .finished = (t.handSlot g .finished).setPort p y := rfl
  unfold State.closeFinish
  rw [codes, hand, State.updateCounters_setPort]
  rfl

theorem State.writeResults_setPort (s : State) (p : Port) (y : PortRecord) (g : Slot) (word firstGrant portWord : Word)
    (cls : Option JobClass) (r : ClassResults) : (s.setPort p y).writeResults g word firstGrant portWord cls r =
      (s.writeResults g word firstGrant portWord cls r).setPort p y := by
  unfold State.writeResults
  simp only [State.putWord_setPort]
  rcases cls with _ | _ | _ | _ <;> simp only [State.putWord_setPort]

/-- The results of a finish see of a port the bytes stored alone (R160). -/
theorem State.storedBytes_setPort (scan : y.scan = (s.port p).scan) : (s.setPort p y).storedBytes g = s.storedBytes g := by
  have slot : (s.setPort p y).slot g = s.slot g := rfl
  have job : (s.setPort p y).job g = s.job g := rfl
  unfold State.storedBytes
  rw [slot, job]
  split
  · next r _ _ =>
    by_cases e : r = p
    · subst e
      rw [State.port_setPort, scan]
    · rw [State.port_setPort_ne _ e]
  · rfl

theorem State.classResults_setPort (reported : Option Word) (scan : y.scan = (s.port p).scan) :
    (s.setPort p y).classResults g reported = s.classResults g reported := by
  have job : (s.setPort p y).job g = s.job g := rfl
  unfold State.classResults
  rw [State.storedBytes_setPort scan, job]

theorem State.finish_setPort (o : JobOutcome) (d : Detail) (reported : Option Word) (scan : y.scan = (s.port p).scan) :
    (s.setPort p y).finish g o d reported = (s.finish g o d reported).setPort p y := by
  have job : (s.setPort p y).job g = s.job g := rfl
  have slot : (s.setPort p y).slot g = s.slot g := rfl
  unfold State.finish State.writeJobResults
  dsimp only
  rw [State.classResults_setPort reported scan, job, slot, State.writeResults_setPort, State.closeFinish_setPort,
    State.chargeService_setPort]
  generalize (s.writeResults _ _ _ _ _ _).closeFinish g o d = t
  have charged : (if (s.slot g).state = .serving then (t.chargeService g).setPort p y else t.setPort p y) =
      (if (s.slot g).state = .serving then t.chargeService g else t).setPort p y := by
    split <;> rfl
  rw [charged]
  cases (s.job g).cls with
  | none => rfl
  | some c =>
    cases c with
    | print => exact State.unlendAll_setPort p y _ _
    | scan => rfl
    | hold => rfl

/-! ### Two places of one print -/

/-- The ports differ in the phase and the entry of their print alone. -/
structure PortRecord.twins (x x' : PortRecord) : Prop where
  same : x' = { x with print := { x.print with phase := x'.print.phase, entry := x'.print.entry } }

theorem PortRecord.twins.fields (h : y.twins y') : y'.yieldPending = y.yieldPending ∧ y'.holdLevel = y.holdLevel ∧ y'.scan = y.scan ∧
    clearService y' = clearService y ∧ y'.print.copy = y.print.copy ∧ y'.print.sheet = y.print.sheet := by
  have same := h.same
  refine ⟨?_, ?_, ?_, ?_, ?_, ?_⟩ <;> rw [same] <;> rfl

theorem PortRecord.twins.bounded (h : y.twins y') : y.bounded.twins y'.bounded := by
  have same := h.same
  constructor
  unfold PortRecord.bounded
  rw [same]

theorem State.boundaryCheck_twins (h : y.twins y') (remaining : Bool) :
    (s.setPort p y').boundaryCheck p g remaining = (s.setPort p y).boundaryCheck p g remaining := by
  obtain ⟨yield, level, -⟩ := h.fields
  have jobs : (s.setPort p y').outrankJobs p g = (s.setPort p y).outrankJobs p g := rfl
  have rank (x : Slot) : (s.setPort p y').rankOf x = (s.setPort p y).rankOf x := rfl
  have job : (s.setPort p y').job g = (s.setPort p y).job g := rfl
  have ctl : (s.setPort p y').ctl = (s.setPort p y).ctl := rfl
  unfold State.boundaryCheck State.outranked
  simp only [State.port_setPort, yield, level, jobs, rank, job, ctl]

/-- A port that is released forgets where its print stood. -/
theorem State.releasePort_twins (h : y.twins y') : (s.setPort p y').releasePort p = (s.setPort p y).releasePort p := by
  obtain ⟨-, -, -, cleared, -⟩ := h.fields
  unfold State.releasePort
  rw [State.setPort_updatePort, State.setPort_updatePort, cleared]

theorem State.finishes_twins (h : y.twins y') (o : JobOutcome) (d : Detail) :
    ((s.setPort p y').finish g o d none).releasePort p = ((s.setPort p y).finish g o d none).releasePort p := by
  obtain ⟨-, -, scan, -⟩ := h.fields
  have first : s.setPort p y' = (s.setPort p y).setPort p y' := (State.setPort_setPort _ _ _ _).symm
  have port : ((s.setPort p y).finish g o d none).port p = y := by rw [State.finish_port, State.port_setPort]
  rw [first, State.finish_setPort o d none (by rw [State.port_setPort]; exact scan)]
  generalize (s.setPort p y).finish g o d none = t at port ⊢
  rw [State.releasePort_twins h, ← port, State.setPort_self]

theorem State.yields_twins (h : y.twins y') (f : JobRecord → JobRecord) :
    (((s.setPort p y').updateJob g f).requeuePreempted g).releasePort p =
      (((s.setPort p y).updateJob g f).requeuePreempted g).releasePort p := by
  have out (x : PortRecord) : (s.setPort p x).updateJob g f = (s.updateJob g f).setPort p x := rfl
  rw [out, out, State.requeuePreempted_setPort, State.requeuePreempted_setPort, State.releasePort_twins h]

/-- Where no sheet remains a boundary ends the job (R132). -/
theorem State.boundaryCheck_last : ∃ o d, s.boundaryCheck p g false = .finish o d := by
  unfold State.boundaryCheck
  split
  · exact ⟨_, _, rfl⟩
  split
  · exact ⟨_, _, rfl⟩
  split
  · exact ⟨_, _, rfl⟩
  · exact ⟨_, _, rfl⟩

/-- The state in which a boundary acts: the latches of its outrank test are set. -/
def State.asked (s : State) (p : Port) (g : Slot) (asks : Bool) : State := if asks then s.latchAll (s.outrankJobs p g) else s

/-- The next sheet has begun (R127). -/
def State.beginning (s : State) (p : Port) (g : Slot) (place : Nat × Nat) (x : PortRecord) : State :=
  s.setPort p (x.begun place (sheetStart (s.job g).chain place.2)
    (startTimer s.ctl.clock ((s.portConfig p).sheetTimeout * 1000)))

/-- What a boundary decides of the state does not turn on where the print stood: an end is the same, a next sheet begins in
one state of the rest. -/
theorem State.closeSheet_twins (h : y.twins y') (next : Option (Nat × Nat)) :
    (∃ t, (s.setPort p y.bounded).closeSheet p g next = (t, false) ∧ (s.setPort p y'.bounded).closeSheet p g next = (t, false)) ∨
    ∃ asks place, next = some place ∧ (s.setPort p y.bounded).boundaryCheck p g true = .next ∧
      (s.setPort p y.bounded).closeSheet p g next = ((s.asked p g asks).beginning p g place y, true) ∧
      (s.setPort p y'.bounded).closeSheet p g next = ((s.asked p g asks).beginning p g place y', true) := by
  have twins := h.bounded
  obtain ⟨yield, level, scan, -⟩ := twins.fields
  have asksSame : (s.setPort p y'.bounded).asksOutrank p g next.isSome = (s.setPort p y.bounded).asksOutrank p g next.isSome := by
    have job : (s.setPort p y'.bounded).job g = (s.setPort p y.bounded).job g := rfl
    have ctl : (s.setPort p y'.bounded).ctl = (s.setPort p y.bounded).ctl := rfl
    unfold State.asksOutrank
    simp only [State.port_setPort, yield, job, ctl]
  have check := State.boundaryCheck_twins (s := s) (p := p) (g := g) twins next.isSome
  have latched (x : PortRecord) (asks : Bool) : (if asks = true then (s.setPort p x).latchAll ((s.setPort p x).outrankJobs p g)
      else s.setPort p x) = (s.asked p g asks).setPort p x := by
    unfold State.asked
    split
    · exact State.latchAll_setPort p x _ s
    · rfl
  unfold State.closeSheet
  rw [check, asksSame]
  dsimp only
  simp only [latched]
  generalize (s.setPort p y.bounded).asksOutrank p g next.isSome = asks
  generalize hw : s.asked p g asks = w at *
  cases decided : (s.setPort p y.bounded).boundaryCheck p g next.isSome with
  | finish o d =>
    exact .inl ⟨_, rfl, Prod.ext (State.finishes_twins twins o d) rfl⟩
  | requeue =>
    cases next with
    | none =>
      obtain ⟨_, _, last⟩ := State.boundaryCheck_last (s := s.setPort p y.bounded) (p := p) (g := g)
      exact Boundary.noConfusion (last.symm.trans decided)
    | some place => exact .inl ⟨_, rfl, Prod.ext (State.yields_twins twins _) rfl⟩
  | next =>
    cases next with
    | none =>
      obtain ⟨_, _, last⟩ := State.boundaryCheck_last (s := s.setPort p y.bounded) (p := p) (g := g)
      exact Boundary.noConfusion (last.symm.trans decided)
    | some place =>
      refine .inr ⟨asks, place, rfl, decided, ?_⟩
      rw [hw]
      exact ⟨Prod.ext (State.beginSheet_setPort place) rfl, Prod.ext (State.beginSheet_setPort place) rfl⟩

end

end Sys2Proof.Machine
end

/-! SUPPORT. An ACK: the frame that it completes, and what the service does that is told (R106 to R108, R127, R128). -/
section
namespace Sys2Proof.Machine

/-! ### The completed frame (R108) -/

theorem completeFrame_alone {t : Transmitter} (h : t.waiting = none) :
    completeFrame t = { t with outstanding := none, responseTimer := none } := by
  unfold completeFrame moveUp
  rw [h]

theorem completeFrame_moves {t : Transmitter} {f : Offered} (h : t.waiting = some f) : completeFrame t =
    chooseNext { t with
      outstanding := some { offered := f, sends := 1, phase := .awaitingSend }, waiting := none, responseTimer := none } := by
  unfold completeFrame moveUp
  rw [h]

section
variable {s : State} {p : Port} {g : Slot} {o : Outstanding} {y y' : PortRecord}

/-- The port when an ACK has completed its frame. -/
def PortRecord.acked (x : PortRecord) : PortRecord := { x.hunts with transmitter := completeFrame x.transmitter }

/-- The closing of an event sees of the state before it the services, the request and what it turns on. -/
theorem closeEvent_before {s s' t : State} (serving : s'.anyServing = s.anyServing) (request : s'.request = s.request) :
    closeEvent s' t = closeEvent s t := by
  unfold closeEvent drainEnd settleInterrupt
  rw [serving, request]

theorem State.anyServing_setPort (same : y.state = (s.port p).state) : (s.setPort p y).anyServing = s.anyServing := by
  refine State.anyServing_congr fun r => ?_
  by_cases e : r = p
  · subst e
    rw [State.port_setPort, same]
  · rw [State.port_setPort_ne _ e]

/-! ### The frame that an ACK answers -/

theorem ackAnswers_some (out : (s.port p).transmitter.outstanding = some o) (awaits : o.phase = .awaitingAnswer)
    (frame : o.offered.frame ≠ .ask) : ackAnswers (s.port p).transmitter = some o.offered := by
  unfold ackAnswers awaitedFrame
  rw [out]
  dsimp only
  rw [awaits]
  exact if_neg frame

theorem exec_ackFrame (listens : (s.port p).state ≠ .offline) :
    exec (.ackFrame p) s = .next (closeEvent s ((s.setPort p (s.port p).hunts).ackTaken p)) := by
  have event : s.frameEvent p .ack = (s.setPort p (s.port p).hunts).ackTaken p := by
    unfold State.frameEvent
    rw [if_pos (State.listening_of listens)]
    exact if_pos rfl
  show Host.Outcome.next (closeEvent s (s.frameEvent p .ack)) = _
  rw [event]

/-- An ACK that no frame awaits, and one that comes for an ASK, is discarded. -/
theorem exec_ack_discards (listens : (s.port p).state ≠ .offline)
    (h : ∀ o, (s.port p).transmitter.outstanding = some o → o.phase ≠ .awaitingAnswer ∨ o.offered.frame = .ask) :
    exec (.ackFrame p) s = .next (s.setPort p (s.port p).hunts) := by
  have none : ackAnswers (s.port p).transmitter = none := by
    unfold ackAnswers awaitedFrame
    cases out : (s.port p).transmitter.outstanding with
    | none => rfl
    | some o =>
      dsimp only
      rcases h o out with h | h
      · cases phase : o.phase with
        | awaitingAnswer => exact absurd phase h
        | awaitingSend => rfl
        | beingSent => rfl
      · cases o.phase with
        | awaitingAnswer => exact if_pos h
        | awaitingSend => rfl
        | beingSent => rfl
  rw [exec_ackFrame listens]
  unfold State.ackTaken
  rw [State.port_setPort, show (s.port p).hunts.transmitter = (s.port p).transmitter from rfl, none]
  exact congrArg Host.Outcome.next (closeEvent_setPort rfl)

/-- The completed frame's service is told. -/
theorem exec_ack_takes (listens : (s.port p).state ≠ .offline) (out : (s.port p).transmitter.outstanding = some o)
    (awaits : o.phase = .awaitingAnswer) (frame : o.offered.frame ≠ .ask) : exec (.ackFrame p) s = .next (closeEvent s
      (((s.setPort p (s.port p).acked).tellService p o.offered).reviewEnded (s.setPort p (s.port p).hunts) p)) := by
  rw [exec_ackFrame listens]
  unfold State.ackTaken
  rw [State.port_setPort, show (s.port p).hunts.transmitter = (s.port p).transmitter from rfl, ackAnswers_some out awaits frame,
    State.transmit_setPort]
  rfl

/-- The service is told and goes on. -/
theorem exec_ack_works (listens : (s.port p).state ≠ .offline) (out : (s.port p).transmitter.outstanding = some o)
    (awaits : o.phase = .awaitingAnswer) (frame : o.offered.frame ≠ .ask)
    (told : (s.setPort p (s.port p).acked).tellService p o.offered = s.setPort p y) (same : y.state = (s.port p).state) :
    exec (.ackFrame p) s = .next (s.setPort p y) := by
  have stays : (s.setPort p y).reviewEnded (s.setPort p (s.port p).hunts) p = s.setPort p y := by
    by_cases serves : (s.port p).state = .serving
    · exact State.reviewEnded_serving _ (by rw [State.port_setPort, same]; exact serves)
    · unfold State.reviewEnded State.isServing
      rw [State.port_setPort, if_neg]
      exact fun k => serves (eq_of_beq k)
  rw [exec_ack_takes listens out awaits frame, told, stays]
  exact congrArg Host.Outcome.next (closeEvent_port _ same)

theorem State.tellService_serving {f : Offered} (serves : y.state = .serving) (job : y.job = some g)
    (owner : f.owner = .service y.grantNumber) : (s.setPort p y).tellService p f = match f.frame with
      | .feed _ => (s.setPort p y).feedAnswered p g
      | .openScan _ _ => (s.setPort p y).modifyScan p fun x => { x with phase := .taking }
      | .closeScan => (s.setPort p y).finishScan p g .doneShort .truncated none
      | .ask => s.setPort p y := by
  unfold State.tellService
  rw [State.port_setPort, serves, job]
  dsimp only
  rw [if_pos owner] <;> cases f.frame <;> rfl

theorem State.tellService_none {f : Offered} (h : y.state ≠ .serving ∨ f.owner ≠ .service y.grantNumber) :
    (s.setPort p y).tellService p f = s.setPort p y := by
  unfold State.tellService
  rw [State.port_setPort]
  split
  · next serves _ => exact if_neg (h.resolve_left (not_not.mpr serves))
  · rfl

end

end Sys2Proof.Machine
end

/-! SUPPORT. The boundary that an early SHEET brings at an ACK, and the print's way after an answered FEED (R127, R128, R130). -/
section
namespace Sys2Proof.Machine

section
variable {s : State} {p : Port} {g : Slot} {y y' : PortRecord}

/-! ### One boundary from two places -/

/-- The next sheet of a print comes to rest in the event that begins it: at a block with data, or as an empty sheet that is the
last (R127, R132). -/
def State.restsAt (s : State) (g : Slot) (place : Nat × Nat) : Prop :=
  ∃ skip e rest, (s.job g).chain.drop (sheetStart (s.job g).chain place.2) = skip ++ e :: rest ∧ s.passesOver skip ∧
    (readLength s.mem e.block ≠ 0 ∨
      (e.sheetEnd = true ∧ sheetsPerCopy (s.job g).chain ≤ place.2 ∧ (s.job g).copies ≤ place.1))

theorem PortRecord.twins.begun (h : y.twins y') (place : Nat × Nat) (start : Nat) (timer : Timer) :
    (y.begun place start timer).twins (y'.begun place start timer) := by
  have same := h.same
  constructor
  unfold PortRecord.begun
  rw [same]

theorem PortRecord.twins.reaching (h : y.twins y') (entry : Nat) (data : List Byte) : y'.reaching entry data = y.reaching entry data := by
  have same := h.same
  unfold PortRecord.reaching
  rw [same]

theorem PortRecord.twins.at (h : y.twins y') (entry : Nat) : ({ y with print := { y.print with entry := entry } } : PortRecord).twins
    { y' with print := { y'.print with entry := entry } } := by
  have same := h.same
  constructor
  rw [same]

/-- The last boundary of two places of one print. -/
theorem State.sheetBoundary_last (h : y.twins y') (c : Bool) (last : nextSheet (s.job g) y.print.copy y.print.sheet = none) :
    ∃ t, (s.setPort p y).sheetBoundary p g c = (t, false) ∧ (s.setPort p y').sheetBoundary p g c = (t, false) := by
  obtain ⟨-, -, -, -, copy, sheet⟩ := h.fields
  rw [State.sheetBoundary_eq, State.sheetBoundary_eq, copy, sheet, last]
  rcases State.closeSheet_twins (s := s.counted g c) (p := p) (g := g) h none with ends | ⟨_, _, next, -⟩
  · exact ends
  · cases next

/-- An empty sheet that is the last ends the print. -/
theorem State.reachEntries_last {n : Nat} {t : State} {e : ChainEntry} (entry : (s.job g).chain[(s.port p).print.entry]? = some e)
    (blank : readLength s.mem e.block = 0) (marked : e.sheetEnd = true) (fed : (s.port p).print.fed = false)
    (ends : s.sheetBoundary p g false = (t, false)) : State.reachEntries p g (n + 1) s = t := by
  rw [State.reachEntries_bounds n entry blank marked (.inl fed), fed, ends]

/-- A sheet that begins at the same entry of two places comes to one end. -/
theorem State.reachEntries_twins {place : Nat × Nat} {n n' : Nat} (h : y.twins y') (entry : y'.print.entry = y.print.entry)
    (start : y.print.entry = sheetStart (s.job g).chain place.2) (copy : y.print.copy = place.1) (sheet : y.print.sheet = place.2)
    (fed : y.print.fed = false) (rests : s.restsAt g place) (bound : (s.job g).chain.length < n)
    (bound' : (s.job g).chain.length < n') :
    State.reachEntries p g n (s.setPort p y) = State.reachEntries p g n' (s.setPort p y') := by
  obtain ⟨skip, e, rest, stands, passes, ends⟩ := rests
  have length := length_of_drop stands
  rw [← start] at stands
  by_cases full : readLength s.mem e.block ≠ 0
  · rw [State.reachEntries_feeds stands passes full (by omega),
      State.reachEntries_feeds (by rw [entry]; exact stands) passes full (by omega), h.reaching, entry]
  · obtain ⟨marked, sheets, copies⟩ := ends.resolve_left full
    have blank : readLength s.mem e.block = 0 := not_not.mp full
    obtain ⟨k, rfl⟩ : ∃ k, n = skip.length + (k + 1) := ⟨n - skip.length - 1, by omega⟩
    obtain ⟨k', rfl⟩ : ∃ k', n' = skip.length + (k' + 1) := ⟨n' - skip.length - 1, by omega⟩
    have place' (x : PortRecord) (hx : x.print.entry = y.print.entry + skip.length) :
        ((s.setPort p x).job g).chain[((s.setPort p x).port p).print.entry]? = some e := by
      rw [State.port_setPort, hx]
      exact getElem?_of_drop stands
    have fed' : y'.print.fed = false := by rw [h.same]; exact fed
    have last : nextSheet (s.job g) y.print.copy y.print.sheet = none := by
      unfold nextSheet
      rw [copy, sheet, if_neg (by omega), if_neg (by omega)]
    obtain ⟨t, ends, ends'⟩ := State.sheetBoundary_last (s := s) (p := p) (g := g) (h.at (y.print.entry + skip.length)) false last
    rw [State.reachEntries_skips (k + 1) stands passes, State.reachEntries_skips (k' + 1) (by rw [entry]; exact stands) passes, entry,
      State.reachEntries_last (place' _ rfl) blank marked (by rw [State.port_setPort]; exact fed) ends,
      State.reachEntries_last (place' _ rfl) blank marked (by rw [State.port_setPort]; exact fed') ends']

/-- The boundary that confirms a sheet is the same from two places of one print. -/
theorem State.confirmSheet_twins (h : y.twins y')
    (rests : ∀ place, nextSheet (s.job g) y.print.copy y.print.sheet = some place → s.restsAt g place) :
    (∃ t, (s.setPort p y).sheetBoundary p g true = (t, false) ∧ (s.setPort p y').confirmSheet p g = t) ∨
    ∃ u, (s.setPort p y).sheetBoundary p g true = (u, true) ∧ (s.job g).chain.length < entryBound (u.job g) ∧
      ∀ n, (s.job g).chain.length < n → State.reachEntries p g n u = (s.setPort p y').confirmSheet p g := by
  obtain ⟨-, -, -, -, copy, sheet⟩ := h.fields
  have chain : ((s.counted g true).job g).chain = (s.job g).chain := State.counted_chain true
  have copies : ((s.counted g true).job g).copies = (s.job g).copies := by
    unfold State.counted
    rw [if_pos rfl, State.job_updateJob]
  have mem : (s.counted g true).mem = s.mem := State.counted_mem true
  unfold State.confirmSheet
  rw [State.sheetBoundary_eq, State.sheetBoundary_eq, copy, sheet]
  generalize hv : s.counted g true = v at chain copies mem ⊢
  rcases State.closeSheet_twins (s := v) (p := p) (g := g) h (nextSheet (s.job g) y.print.copy y.print.sheet) with
    ⟨t, ends, ends'⟩ | ⟨asks, place, next, -, begun, begun'⟩
  · refine .inl ⟨t, ends, ?_⟩
    rw [ends']
  · have askedMem : (v.asked p g asks).mem = s.mem := by
      rw [← mem]
      unfold State.asked
      split
      · exact State.latchAll_mem v _
      · rfl
    have askedJob : ((v.asked p g asks).job g).chain = (s.job g).chain ∧ ((v.asked p g asks).job g).copies = (s.job g).copies := by
      rw [← chain, ← copies]
      unfold State.asked
      split
      · obtain ⟨_, slot⟩ := State.latchAll_slot (v.outrankJobs p g) v g
        rw [State.job, slot]
        exact ⟨rfl, rfl⟩
      · exact ⟨rfl, rfl⟩
    have rests' : (v.asked p g asks).restsAt g place := by
      have := rests place next
      unfold State.restsAt State.passesOver at this ⊢
      rw [askedMem, askedJob.1, askedJob.2]
      exact this
    have own : (s.job g).chain.length < entryBound (((v.asked p g asks).beginning p g place y).job g) :=
      askedJob.1 ▸ length_lt_entryBound ((v.asked p g asks).job g)
    refine .inr ⟨_, begun, own, fun n bound => ?_⟩
    rw [begun']
    dsimp only
    unfold State.beginning State.runPrint
    rw [← askedJob.1] at bound
    refine State.reachEntries_twins (place := place) (h.begun place _ _) rfl rfl rfl rfl rfl rests' bound ?_
    exact length_lt_entryBound _

theorem State.confirmSheet_same (h : y.twins y')
    (rests : ∀ place, nextSheet (s.job g) y.print.copy y.print.sheet = some place → s.restsAt g place) :
    (s.setPort p y).confirmSheet p g = (s.setPort p y').confirmSheet p g := by
  rcases State.confirmSheet_twins (p := p) h rests with ⟨t, ends, same⟩ | ⟨u, begun, own, same⟩
  · rw [same]
    unfold State.confirmSheet
    rw [ends]
  · conv_lhs => unfold State.confirmSheet
    rw [begun]
    exact same _ own

end

end Sys2Proof.Machine
end

/-! SUPPORT. What an ACK brings the service that is told (R127, R128, R151, R157). -/
section
namespace Sys2Proof.Machine

section
variable {s : State} {p : Port} {g : Slot} {o : Outstanding} {x : PortRecord} {fed e : ChainEntry} {skip rest : List ChainEntry}

/-- The print of a port at an entry. -/
def PortRecord.atEntry (x : PortRecord) (n : Nat) : PortRecord := { x with print := { x.print with entry := n } }

/-- The print of a port waits for its SHEET. -/
def PortRecord.waits (x : PortRecord) : PortRecord := { x with print := { x.print with phase := .sheetWait } }

theorem entry_setPort (h : (s.job g).chain[x.print.entry]? = some fed) :
    ((s.setPort p x).job g).chain[((s.setPort p x).port p).print.entry]? = some fed := by
  rw [State.port_setPort]
  exact h

/-- The FEED of a marked entry begins the wait for the SHEET (R128). -/
theorem State.feedAnswered_waits (entry : (s.job g).chain[x.print.entry]? = some fed) (marked : fed.sheetEnd = true)
    (late : x.print.early = false) :
    (s.setPort p x).feedAnswered p g = s.setPort p x.waits := by
  unfold State.feedAnswered
  rw [entry_setPort entry]
  dsimp only
  rw [marked, State.port_setPort, late, if_neg (by decide), if_neg Bool.false_ne_true]
  exact State.modifyPrint_setPort s p x _

/-- With the early-SHEET flag set the boundary is taken in place of the wait (R128). -/
theorem State.feedAnswered_early (entry : (s.job g).chain[x.print.entry]? = some fed) (marked : fed.sheetEnd = true)
    (early : x.print.early = true) : (s.setPort p x).feedAnswered p g = (s.setPort p x).confirmSheet p g := by
  unfold State.feedAnswered
  rw [entry_setPort entry]
  dsimp only
  rw [marked, State.port_setPort, early]
  rfl

/-- The FEED of an unmarked entry brings the next entry (R128). -/
theorem State.feedAnswered_next (entry : (s.job g).chain[x.print.entry]? = some fed) (plain : fed.sheetEnd = false) :
    (s.setPort p x).feedAnswered p g = State.reachEntries p g (entryBound (s.job g))
      (s.setPort p (x.atEntry (x.print.entry + 1))) := by
  unfold State.feedAnswered
  rw [entry_setPort entry]
  dsimp only
  have next : (s.setPort p x).nextEntry p = s.setPort p (x.atEntry (x.print.entry + 1)) := State.nextEntry_setPort
  rw [plain, ← next]
  rfl

theorem State.feedAnswered_feeds (entry : (s.job g).chain[x.print.entry]? = some fed) (plain : fed.sheetEnd = false)
    (stands : (s.job g).chain.drop (x.print.entry + 1) = skip ++ e :: rest) (passes : s.passesOver skip)
    (full : readLength s.mem e.block ≠ 0) : (s.setPort p x).feedAnswered p g = s.setPort p
      ((x.atEntry (x.print.entry + 1)).reaching (x.print.entry + 1 + skip.length)
        (readData s.mem e.block (readLength s.mem e.block))) := by
  have := length_of_drop stands
  have := length_lt_entryBound (s.job g)
  rw [State.feedAnswered_next entry plain]
  exact State.reachEntries_feeds (y := (x.atEntry (x.print.entry + 1))) stands passes full (by omega)

/-- The rest of the bound when the empty blocks and the marked one behind them have been reached. -/
def restOfBound (j : JobRecord) (skip : List ChainEntry) : Nat := entryBound j - skip.length - 1

theorem State.feedAnswered_reaches (entry : (s.job g).chain[x.print.entry]? = some fed) (plain : fed.sheetEnd = false)
    (stands : (s.job g).chain.drop (x.print.entry + 1) = skip ++ e :: rest) (passes : s.passesOver skip) :
    (s.setPort p x).feedAnswered p g = State.reachEntries p g (restOfBound (s.job g) skip + 1)
      (s.setPort p (x.atEntry (x.print.entry + 1 + skip.length))) := by
  have := length_of_drop stands
  have := length_lt_entryBound (s.job g)
  have bound : entryBound (s.job g) = skip.length + (restOfBound (s.job g) skip + 1) := by
    unfold restOfBound
    omega
  rw [State.feedAnswered_next entry plain, bound]
  exact State.reachEntries_skips (y := (x.atEntry (x.print.entry + 1)))
    (restOfBound (s.job g) skip + 1) stands passes

/-- The marked entry is reached with length 0: the wait for the SHEET begins. -/
theorem State.feedAnswered_blank (entry : (s.job g).chain[x.print.entry]? = some fed) (plain : fed.sheetEnd = false)
    (stands : (s.job g).chain.drop (x.print.entry + 1) = skip ++ e :: rest) (passes : s.passesOver skip)
    (blank : readLength s.mem e.block = 0) (marked : e.sheetEnd = true) (wasFed : x.print.fed = true) (late : x.print.early = false) :
    (s.setPort p x).feedAnswered p g = s.setPort p
      (x.atEntry (x.print.entry + 1 + skip.length)).waits := by
  have own : ((s.setPort p (x.atEntry (x.print.entry + 1 + skip.length))).job g).chain[((s.setPort p
      (x.atEntry (x.print.entry + 1 + skip.length))).port p).print.entry]? = some e := entry_setPort (getElem?_of_drop stands)
  rw [State.feedAnswered_reaches entry plain stands passes, State.reachEntries_waits _ own blank marked
    (by rw [State.port_setPort]; exact wasFed) (by rw [State.port_setPort]; exact late)]
  exact State.modifyPrint_setPort s p _ _

/-- The marked entry is reached with length 0 under the early-SHEET flag: the boundary is taken. -/
theorem State.feedAnswered_bounds (entry : (s.job g).chain[x.print.entry]? = some fed) (plain : fed.sheetEnd = false)
    (stands : (s.job g).chain.drop (x.print.entry + 1) = skip ++ e :: rest) (passes : s.passesOver skip)
    (blank : readLength s.mem e.block = 0) (marked : e.sheetEnd = true) (wasFed : x.print.fed = true) (early : x.print.early = true) :
    (s.setPort p x).feedAnswered p g =
      match (s.setPort p (x.atEntry (x.print.entry + 1 + skip.length))).sheetBoundary p g true with
      | (t, true) => State.reachEntries p g (restOfBound (s.job g) skip) t
      | (t, false) => t := by
  have own : ((s.setPort p (x.atEntry (x.print.entry + 1 + skip.length))).job g).chain[((s.setPort p
      (x.atEntry (x.print.entry + 1 + skip.length))).port p).print.entry]? = some e := entry_setPort (getElem?_of_drop stands)
  have fedHere : ((s.setPort p (x.atEntry (x.print.entry + 1 + skip.length))).port p).print.fed = true := by
    rw [State.port_setPort]
    exact wasFed
  rw [State.feedAnswered_reaches entry plain stands passes, State.reachEntries_bounds _ own blank marked
    (.inr (by rw [State.port_setPort]; exact early)), fedHere] <;> rfl

/-- An answered FEED under the early-SHEET flag acts as the SHEET that came early would act in the wait. -/
theorem State.feedAnswered_confirms (entry : (s.job g).chain[x.print.entry]? = some fed)
    (ends : fed.sheetEnd = true ∨ (fed.sheetEnd = false ∧ x.print.fed = true ∧ 1 ≤ (s.job g).copies ∧ ∃ skip e rest,
      (s.job g).chain.drop (x.print.entry + 1) = skip ++ e :: rest ∧ s.passesOver skip ∧ e.sheetEnd = true ∧
        readLength s.mem e.block = 0)) (early : x.print.early = true)
    (rests : ∀ place, nextSheet (s.job g) x.print.copy x.print.sheet = some place → s.restsAt g place) :
    (s.setPort p x).feedAnswered p g =
      (s.setPort p x.waits).confirmSheet p g := by
  rcases ends with marked | ⟨plain, wasFed, copies, skip, e, rest, stands, passes, marked, blank⟩
  · rw [State.feedAnswered_early entry marked early]
    exact State.confirmSheet_same ⟨rfl⟩ rests
  · rw [State.feedAnswered_bounds entry plain stands passes blank marked wasFed early]
    have twins : (x.atEntry (x.print.entry + 1 + skip.length)).twins
      x.waits := ⟨rfl⟩
    have bound : (s.job g).chain.length < restOfBound (s.job g) skip := by
      have length := length_of_drop stands
      have twice : (s.job g).chain.length * 2 ≤ (s.job g).chain.length * ((s.job g).copies + 1) := Nat.mul_le_mul_left _ (by omega)
      unfold restOfBound entryBound
      omega
    rcases State.confirmSheet_twins (s := s) (p := p) (g := g) twins rests with ⟨t, ends, same⟩ | ⟨u, begun, -, same⟩
    · rw [same, ends]
    · rw [begun]
      exact same _ bound

/-! ### The ACK as an event -/

section
variable (serves : (s.port p).state = .serving) (job : (s.port p).job = some g)
  (out : (s.port p).transmitter.outstanding = some o) (awaits : o.phase = .awaitingAnswer)
  (owner : o.offered.owner = .service (s.port p).grantNumber)
include serves job out awaits owner

/-- An answered FEED is told to its print. -/
theorem exec_ack_fed {data : List Byte} (frame : o.offered.frame = .feed data) : exec (.ackFrame p) s = .next (closeEvent s
    (((s.setPort p (s.port p).acked).feedAnswered p g).reviewEnded (s.setPort p (s.port p).hunts) p)) := by
  rw [exec_ack_takes (by rw [serves]; exact PortState.noConfusion) out awaits (by rw [frame]; exact AnswerFrame.noConfusion),
    State.tellService_serving (y := (s.port p).acked) serves job owner, frame]

theorem exec_ack_fed_works {data : List Byte} {y : PortRecord} (frame : o.offered.frame = .feed data)
    (fed : (s.setPort p (s.port p).acked).feedAnswered p g = s.setPort p y) (same : y.state = (s.port p).state) :
    exec (.ackFrame p) s = .next (s.setPort p y) := by
  refine exec_ack_works (by rw [serves]; exact PortState.noConfusion) out awaits (by rw [frame]; exact AnswerFrame.noConfusion) ?_ same
  rw [State.tellService_serving (y := (s.port p).acked) serves job owner, frame]
  exact fed

/-- An ACK under the early-SHEET flag is as the SHEET in the wait. -/
theorem exec_ack_early {data : List Byte} (frame : o.offered.frame = .feed data) (printer : (s.portConfig p).cls = .printer)
    (fed : (s.setPort p (s.port p).acked).feedAnswered p g = (s.setPort p (s.port p).acked.waits).confirmSheet p g) :
    exec (.ackFrame p) s = exec (.sheetFrame p) (s.setPort p (s.port p).acked.waits) := by
  have hunts : (s.port p).acked.waits.hunts = (s.port p).acked.waits := rfl
  have ctl : (s.setPort p (s.port p).acked.waits).ctl = s.ctl := rfl
  rw [exec_ack_fed serves job out awaits owner frame, fed, exec_sheetFrame (g := g) (by rw [State.port_setPort]; exact serves)
    (by rw [State.portConfig_congr ctl]; exact printer) (by rw [State.port_setPort]; exact job), State.port_setPort,
    State.setPort_setPort, hunts, State.sheetTaken_waits rfl]
  have serving (x : PortRecord) (h : x.state = .serving) : (s.setPort p x).isServing p = true := by
    unfold State.isServing
    rw [State.port_setPort]
    exact beq_iff_eq.mpr h
  unfold State.reviewEnded
  rw [if_pos (serving (s.port p).hunts serves), if_pos (serving (s.port p).acked.waits serves)]
  have serves' : (s.setPort p (s.port p).acked.waits).anyServing = s.anyServing := State.anyServing_setPort rfl
  have request : (s.setPort p (s.port p).acked.waits).request = s.request := rfl
  rw [closeEvent_before serves' request]

end
end

/-- What an ACK that answers CLOSE-SCAN brings (R157). -/
theorem exec_ack_closes {s : State} {p : Port} {g : Slot} {o : Outstanding} (wf : s.wellFormed) (serves : (s.port p).state = .serving)
    (job : (s.port p).job = some g) (out : (s.port p).transmitter.outstanding = some o) (awaits : o.phase = .awaitingAnswer)
    (owner : o.offered.owner = .service (s.port p).grantNumber) (frame : o.offered.frame = .closeScan)
    (scan : (s.job g).cls = some .scan) :
    ∃ u, exec (.ackFrame p) s = .next (closeEvent s (u.review (s.portConfig p).pool)) ∧ u.hasResult g .doneShort .truncated ∧
      u.port p = { (s.port p).ended with receiver := .hunting, transmitter := completeFrame (s.port p).transmitter } ∧
      u.portShown p ∧ s.portsKept u [p] ∧ s.slotsKept u [g] ∧ u.marks = s.marks ∧ u.queues = s.queues ∧ u.ctl = s.ctl := by
  let v := s.setPort p (s.port p).acked
  have range : (s.port p).acked.inRange := { wf.port p with transmitter := completeFrame_inRange (wf.port p).transmitter }
  have wfv : v.wellFormed := State.setPort_wellFormed wf range
  have ctl : (v.finishScan p g .doneShort .truncated none).ctl = s.ctl := State.finishScan_ctl
  have port : (v.finishScan p g .doneShort .truncated none).port p = (s.port p).acked.ended := by
    rw [State.finishScan_port, State.port_setPort]
  refine ⟨v.finishScan p g .doneShort .truncated none, ?_, State.finishScan_hasResult wfv.memory, port, State.finishScan_shown wfv,
    fun r h => ?_, State.finishScan_slotsKept (s := v), State.finishScan_marks (s := v) (by
      rw [show (v.job g).cls = (s.job g).cls from rfl, scan]
      exact fun k => JobClass.noConfusion (Option.some.inj k)), State.finishScan_queues, ctl⟩
  · have told : (s.setPort p (s.port p).acked).tellService p o.offered = v.finishScan p g .doneShort .truncated none := by
      rw [State.tellService_serving (y := (s.port p).acked) serves job owner, frame]
    rw [exec_ack_takes (by rw [serves]; exact PortState.noConfusion) out awaits (by rw [frame]; exact AnswerFrame.noConfusion), told,
      State.reviewEnded_freed (by rw [State.port_setPort]; exact serves) (by rw [port]; rfl), State.portConfig_congr ctl]
  · rw [State.finishScan_portsKept r h, State.port_setPort_ne _ (by simpa using h)]

/-- Settles O57: the completed frame, the discarded ACK, and the service that is told. -/
theorem ackCompletesTheFrame : Obligations.AckCompletesTheFrame := by
  unfold Obligations.AckCompletesTheFrame
  refine ⟨fun t => ⟨completeFrame_alone, fun f waits => ⟨fun idle replies => ?_, fun k rest idle replies => ?_, fun busy => ?_⟩⟩,
    fun s p wf listens => ⟨exec_ack_discards listens, fun o out awaits frame => ⟨fun other => ?_, fun g serves job owner =>
      ⟨fun mode resolution opens => ?_, fun data fed feeds entry => ⟨fun marked late => ?_, fun skip e rest plain stands passes =>
        ⟨fun full => ⟨fun idle => ?_, fun busy => ?_⟩, fun blank marked wasFed late => ?_⟩, fun ends early printer rests => ?_⟩,
        fun closes scan => exec_ack_closes wf serves job out awaits owner closes scan⟩⟩⟩⟩
  · rw [completeFrame_moves waits]
    unfold chooseNext
    dsimp only
    rw [idle, replies]
  · rw [completeFrame_moves waits]
    unfold chooseNext
    dsimp only
    rw [idle, replies]
  · rw [completeFrame_moves waits]
    unfold chooseNext
    split
    · next idle => exact absurd idle busy
    · rfl
  · exact exec_ack_works listens out awaits frame (State.tellService_none other) rfl
  · refine exec_ack_works listens out awaits frame ?_ rfl
    rw [State.tellService_serving (y := (s.port p).acked) serves job owner, opens]
    show (s.setPort p (s.port p).acked).modifyScan p _ = _
    unfold State.modifyScan State.modifyPort
    rw [State.port_setPort, State.setPort_setPort]
    rfl
  · exact exec_ack_fed_works serves job out awaits owner feeds (State.feedAnswered_waits entry marked late) rfl
  · refine exec_ack_fed_works serves job out awaits owner feeds ?_ rfl
    rw [State.feedAnswered_feeds (x := (s.port p).acked) entry plain stands passes full, PortRecord.reaching_idle (by exact idle)]
    rfl
  · refine exec_ack_fed_works serves job out awaits owner feeds ?_ rfl
    rw [State.feedAnswered_feeds (x := (s.port p).acked) entry plain stands passes full, PortRecord.reaching_busy (by exact busy)]
    rfl
  · exact exec_ack_fed_works serves job out awaits owner feeds
      (State.feedAnswered_blank entry plain stands passes blank marked wasFed late) rfl
  · exact exec_ack_early serves job out awaits owner feeds printer
      (State.feedAnswered_confirms entry ends early fun place next => rests place.1 place.2 next)

end Sys2Proof.Machine
end

/-! SUPPORT. The bytes of an IMAGE in a result block, and the taking of a spare block (R142, R143, R152). -/
section
namespace Sys2Proof.Machine

/-! ### Bytes into the current block (R152) -/

/-- The memory with a byte stored behind the fill of a block, and its length written. -/
def storedMem (m : Memory) (c fill : Nat) (b : Byte) : Memory :=
  writeWord (writeByte m (blockAddress c + 8 + fill) b) (blockAddress c) (place (fill + 1) 16 16)

/-- The memory with bytes stored one after the other from the fill of a block. -/
def filledMem (m : Memory) (c : Nat) : Nat → List Byte → Memory
  | _, [] => m
  | fill, b :: rest => filledMem (storedMem m c fill b) c (fill + 1) rest

section
variable {m : Memory} {c fill : Nat} {data : List Byte}

theorem storedMem_writes (m : Memory) (c fill : Nat) (b : Byte) :
    Writes (fun a => within (blockAddress c) 4 a ∨ a = blockAddress c + 8 + fill) m (storedMem m c fill b) :=
  ((writeByte_writes m _ b).mono fun _ => .inr).trans ((writeWord_writes _ _ _).mono fun _ => .inl)

theorem filledMem_writes (c : Nat) : ∀ (data : List Byte) (m : Memory) (fill : Nat),
    Writes (fun a => within (blockAddress c) 4 a ∨ within (blockAddress c + 8 + fill) data.length a) m (filledMem m c fill data)
  | [], m, _ => .refl _ m
  | b :: rest, m, fill => by
    refine ((storedMem_writes m c fill b).mono fun a h => ?_).trans ((filledMem_writes c rest _ _).mono fun a h => ?_)
    · rw [List.length_cons]
      unfold within at *
      omega
    · rw [List.length_cons]
      unfold within at *
      omega

/-- The bytes lie from the fill on. -/
theorem filledMem_data (hc : inMap c) : ∀ (data : List Byte) (m : Memory) (fill : Nat), Memory.wf m = true →
    fill + data.length ≤ 120 → ∀ i (h : i < data.length), readByte (filledMem m c fill data) (blockAddress c + 8 + fill + i) = data[i]
  | [], _, _, _, _, _, h => absurd h (by simp)
  | b :: rest, m, fill, w, bound, i, h => by
    have := blockAddress_bounds hc
    rw [List.length_cons] at bound h
    have first : Memory.wf (storedMem m c fill b) = true := (storedMem_writes m c fill b).wf w
    cases i with
    | zero =>
      have kept : readByte (filledMem m c fill (b :: rest)) (blockAddress c + 8 + fill + 0) =
          readByte (storedMem m c fill b) (blockAddress c + 8 + fill + 0) :=
        (filledMem_writes c rest (storedMem m c fill b) (fill + 1)).kept first _ (by unfold within; omega)
      rw [kept]
      unfold storedMem
      rw [readByte_writeWord_ne (Memory.wf_writeByte w _ _) (by omega), readByte_writeByte w (by rw [exchangeBytes_eq]; omega)]
      exact if_pos rfl
    | succ i =>
      have next := filledMem_data hc rest (storedMem m c fill b) (fill + 1) first (by omega) i (by omega)
      rw [show blockAddress c + 8 + fill + (i + 1) = blockAddress c + 8 + (fill + 1) + i by omega]
      exact next

/-- The header word shows the new length, and link 0. -/
theorem filledMem_header (hc : inMap c) : ∀ (data : List Byte) (m : Memory) (fill : Nat), Memory.wf m = true →
    data ≠ [] → fill + data.length ≤ 120 → readWord (filledMem m c fill data) (blockAddress c) = place (fill + data.length) 16 16
  | [], _, _, _, filled, _ => absurd rfl filled
  | b :: rest, m, fill, w, _, bound => by
    have := blockAddress_bounds hc
    have first : Memory.wf (storedMem m c fill b) = true := (storedMem_writes m c fill b).wf w
    rw [List.length_cons] at bound ⊢
    by_cases more : rest = []
    · subst more
      unfold filledMem filledMem storedMem
      exact readWord_writeWord (Memory.wf_writeByte w _ _) (by rw [exchangeBytes_eq]; omega) _
    · have next := filledMem_header hc rest (storedMem m c fill b) (fill + 1) first more (by omega)
      rw [show fill + (rest.length + 1) = fill + 1 + rest.length by omega]
      exact next

theorem filledMem_fields (hc : inMap c) (w : Memory.wf m = true) (filled : data ≠ []) (bound : fill + data.length ≤ 120) :
    readLength (filledMem m c fill data) c = fill + data.length ∧ readLink (filledMem m c fill data) c = 0 := by
  have header := filledMem_header hc data m fill w filled bound
  unfold readLength readLink
  rw [header, field_place_same _ (by omega), field_place_apart _ (by omega)]
  refine ⟨?_, rfl⟩
  unfold Config.blockData
  omega

end

section
variable {s : State} {p : Port} {g : Slot} {c : Nat} {b : Byte} {x : PortRecord} {data : List Byte}

/-- The port of a scan that has stored `n` more bytes in its current block. -/
def PortRecord.filled (x : PortRecord) (n : Nat) : PortRecord :=
  { x with scan := { x.scan with fill := x.scan.fill + n, stored := x.scan.stored + n } }

/-- The state with the bytes of a list stored in the current block of a port. -/
def State.filled (s : State) (p : Port) (c : Nat) (data : List Byte) : State :=
  let m := filledMem s.mem c (s.port p).scan.fill data
  ({ s with mem := m } : State).setPort p ((s.port p).filled data.length)

theorem State.storeByte_room (current : (s.port p).scan.current = some c) (room : (s.port p).scan.fill < 120) :
    State.storeByte p g s b = s.filled p c [b] := by
  have here : s.roomForByte p g = s := by
    unfold State.roomForByte
    rw [current]
    exact if_pos room
  unfold State.storeByte
  rw [here]
  dsimp only
  rw [current]
  rfl

theorem State.filled_port : (s.filled p c data).port p = (s.port p).filled data.length := State.port_setPort _ p _

theorem State.setPort_mem_setPort (s : State) (p : Port) (y z : PortRecord) (m m' : Memory) :
    ({ (({ s with mem := m } : State).setPort p y) with mem := m' } : State).setPort p z = ({ s with mem := m' } : State).setPort p z :=
  State.setPort_setPort ({ s with mem := m' } : State) p y z

theorem State.filled_cons (s : State) (p : Port) (c : Nat) (b : Byte) (rest : List Byte) :
    (s.filled p c [b]).filled p c rest = s.filled p c (b :: rest) := by
  have fills : ((s.port p).filled 1).filled rest.length = (s.port p).filled (rest.length + 1) := by
    unfold PortRecord.filled
    simp only [Nat.add_assoc, Nat.add_comm 1]
  have port : (s.filled p c [b]).port p = (s.port p).filled 1 := State.filled_port
  have again : (s.filled p c [b]).filled p c rest =
      (let m := filledMem (s.filled p c [b]).mem c ((s.filled p c [b]).port p).scan.fill rest
      ({ (s.filled p c [b]) with mem := m } : State).setPort p (((s.filled p c [b]).port p).filled rest.length)) := rfl
  rw [again, port, fills]
  exact State.setPort_mem_setPort s p _ _ _ _

/-- Bytes that have room in the current block are stored in it. -/
theorem State.storeBytes_room (data : List Byte) : ∀ s : State, (s.port p).scan.current = some c →
    (s.port p).scan.fill + data.length ≤ 120 → data.foldl (State.storeByte p g) s = s.filled p c data := by
  induction data with
  | nil =>
    intro s _ _
    have same : s.filled p c [] = s.setPort p (s.port p) := rfl
    rw [same, State.setPort_self]
    rfl
  | cons b rest ih =>
    intro s current bound
    rw [List.length_cons] at bound
    have port : (s.filled p c [b]).port p = (s.port p).filled 1 := State.filled_port
    rw [List.foldl_cons, State.storeByte_room current (by omega), ih _ (by rw [port]; exact current) (by rw [port]; show _ + 1 + _ ≤ _; omega)]
    exact State.filled_cons s p c b rest

/-! ### The answer of a stored IMAGE (R152, R157) -/

/-- The port when a stored frame has been ACKed. -/
def PortRecord.imageAcked (x : PortRecord) : PortRecord :=
  { x with scan := { x.scan with phase := .taking, starveTimer := none }, transmitter := placeReply .ack x.transmitter }

/-- The port that closes its scan at the job's maximum (R157). -/
def PortRecord.truncated (x : PortRecord) : PortRecord :=
  let closing := offer { frame := .closeScan, owner := .service x.grantNumber } x.transmitter
  { x with transmitter := closing, scan := { x.scan with phase := .closing } }

/-- The port behind a stored frame. -/
def PortRecord.imageStored (x : PortRecord) (maxBytes : Nat) : PortRecord :=
  if x.scan.stored = maxBytes then x.imageAcked.truncated else x.imageAcked

theorem State.storeImage_eq : s.storeImage p g data = (data.foldl (State.storeByte p g) s).setPort p
    (((data.foldl (State.storeByte p g) s).port p).imageStored (s.job g).maxBytes) := by
  unfold State.storeImage
  generalize data.foldl (State.storeByte p g) s = t
  have answered : (t.modifyScan p fun x => { x with phase := .taking, starveTimer := none }).reply p .ack =
      t.setPort p (t.port p).imageAcked := State.reply_setPort t p _ .ack
  dsimp only
  rw [answered, State.port_setPort]
  unfold PortRecord.imageStored
  by_cases full : (t.port p).scan.stored = (s.job g).maxBytes
  · rw [if_pos full]
    refine (if_pos full).trans ?_
    unfold State.truncate State.offerFrame
    rw [State.port_setPort, State.transmit_setPort]
    unfold State.modifyScan State.modifyPort
    rw [State.port_setPort, State.setPort_setPort]
    rfl
  · rw [if_neg full]
    exact if_neg full

theorem PortRecord.imageStored_scan (x : PortRecord) (maxBytes : Nat) : (x.imageStored maxBytes).scan.stored = x.scan.stored ∧
    (x.imageStored maxBytes).scan.fill = x.scan.fill ∧ (x.imageStored maxBytes).scan.current = x.scan.current ∧
    (x.imageStored maxBytes).scan.starveTimer = none ∧ (x.imageStored maxBytes).state = x.state := by
  unfold PortRecord.imageStored
  split <;> exact ⟨rfl, rfl, rfl, rfl, rfl⟩

theorem PortRecord.imageStored_short {maxBytes : Nat} (h : x.scan.stored ≠ maxBytes) :
    (x.imageStored maxBytes).scan.phase = .taking ∧ (x.imageStored maxBytes).transmitter = placeReply .ack x.transmitter := by
  unfold PortRecord.imageStored
  rw [if_neg h]
  exact ⟨rfl, rfl⟩

theorem PortRecord.imageStored_full {maxBytes : Nat} (h : x.scan.stored = maxBytes) :
    (x.imageStored maxBytes).scan.phase = .closing ∧ (x.imageStored maxBytes).transmitter =
      offer { frame := .closeScan, owner := .service x.grantNumber } (placeReply .ack x.transmitter) := by
  unfold PortRecord.imageStored
  rw [if_pos h]
  exact ⟨rfl, rfl⟩

/-! ### The take of a spare block (R143) -/

/-- The memory with the header of a taken block written, and the block before it linked to it. -/
def takenMem (m : Memory) (current : Option Nat) (b : Nat) : Memory :=
  let headed := writeWord (writeWord m (blockAddress b) 0) (blockAddress b + 4) 0
  match current with
  | some c => writeWord headed (blockAddress c) (merge (readWord headed (blockAddress c)) b 0 16)
  | none => headed

/-- The port of a scan with a new current block. -/
def PortRecord.takes (x : PortRecord) (b : Nat) : PortRecord := { x with scan := { x.scan with current := some b, fill := 0 } }

/-- The notices of a take that leaves `n` spare blocks (R143). -/
def takeNotices (low n : Nat) : BitVec 8 :=
  (if low ≠ 0 ∧ low < n + 1 ∧ n ≤ low then 0x04 else 0) ||| (if n = 0 then 0x08 else 0)

theorem State.judgeSpare_eq (s : State) (n : Nat) :
    s.judgeSpare (n + 1) = { s with notice := s.notice ||| takeNotices s.ctl.work.lowWater n } := by
  unfold State.judgeSpare takeNotices
  dsimp only
  rw [Nat.add_sub_cancel]
  have last : (n + 1 = 1) ↔ n = 0 := by omega
  by_cases low : s.ctl.work.lowWater ≠ 0 ∧ s.ctl.work.lowWater < n + 1 ∧ n ≤ s.ctl.work.lowWater
  · rw [if_pos low, if_pos low]
    by_cases e : n = 0
    · rw [if_pos (last.mpr e), if_pos e]
      show ({ s with notice := s.notice ||| 0x04 ||| 0x08 } : State) = _
      rw [BitVec.or_assoc]
    · rw [if_neg fun k => e (last.mp k), if_neg e, show (0x04 : BitVec 8) ||| 0 = 0x04 from rfl]
      rfl
  · rw [if_neg low, if_neg low]
    by_cases e : n = 0
    · rw [if_pos (last.mpr e), if_pos e, show (0 : BitVec 8) ||| 0x08 = 0x08 from rfl]
      rfl
    · rw [if_neg fun k => e (last.mp k), if_neg e, show (0 : BitVec 8) ||| 0 = 0#8 from rfl, BitVec.or_zero]

/-- The records of a take: the block off the spare chain, marked and on the job's result chain (R143). -/
def State.takenMarks (s : State) (g : Slot) (b : Nat) (rest : List Nat) : State :=
  { s with
    spare := rest
    marks := (s.setMark b .result).marks
    slots := (s.updateJob g fun j => { j with resultChain := j.resultChain ++ [b] }).slots }

theorem State.takenMarks_eq (s : State) (g : Slot) (b : Nat) (rest : List Nat) : ((s.setSpare rest).setMark b .result).updateJob g
    (fun j => { j with resultChain := j.resultChain ++ [b] }) = s.takenMarks g b rest := by
  unfold State.takenMarks State.setMark
  split <;> rfl

/-- What a take does behind its records, in any state. -/
theorem State.served_eq (v : State) (p : Port) (current : Option Nat) (b n : Nat) :
    (((match current with
      | some c => ((v.putWord (blockAddress b) 0).putWord (blockAddress b + 4) 0).writeLink c b
      | none => (v.putWord (blockAddress b) 0).putWord (blockAddress b + 4) 0).modifyPort p fun x => x.takes b).mirrorSpare).judgeSpare
        (n + 1) =
      (let m := spareMirrors (takenMem v.mem current b) v.spare
      let notices := takeNotices v.ctl.work.lowWater n
      { (v.setPort p ((v.port p).takes b)) with mem := m, notice := v.notice ||| notices } : State) := by
  rw [State.judgeSpare_eq]
  cases current <;> rfl

theorem State.take_eq {b : Nat} {rest : List Nat} (spare : s.spare = b :: rest) : s.take p g =
    (let m := spareMirrors (takenMem s.mem (s.port p).scan.current b) rest
    let notices := takeNotices s.ctl.work.lowWater rest.length
    { ((s.takenMarks g b rest).setPort p ((s.port p).takes b)) with mem := m, notice := s.notice ||| notices } : State) := by
  unfold State.take
  rw [spare]
  dsimp only
  rw [State.takenMarks_eq]
  have served := State.served_eq (s.takenMarks g b rest) p (s.port p).scan.current b rest.length
  cases current : (s.port p).scan.current <;> rw [current] at served <;> exact served

end

end Sys2Proof.Machine
end

/-! SUPPORT. What an IMAGE does to the state of a serving scan (R152, R153). -/
section
namespace Sys2Proof.Machine

section
variable {s : State} {p : Port} {g : Slot} {b : Nat} {rest : List Nat} {data : List Byte}

/-! ### The event of an IMAGE (R105) -/

theorem frameEvent_image (listens : (s.port p).state ≠ .offline) (one : 1 ≤ data.length) (most : data.length ≤ 120) :
    s.frameEvent p (.image data) = (s.setPort p (s.port p).hunts).dispatch p (.image data) := by
  have good : goodFrame (s.portConfig p).cls (.image data) = true := decide_eq_true ⟨one, most⟩
  unfold State.frameEvent
  rw [if_pos (State.listening_of listens)]
  exact if_pos good

theorem State.servedJob_hunts (serves : (s.port p).state = .serving) (scanner : (s.portConfig p).cls = .scanner) :
    (s.setPort p (s.port p).hunts).servedJob p .scanner = (s.port p).job := by
  unfold State.servedJob
  rw [State.port_setPort]
  exact if_pos ⟨serves, scanner⟩

theorem exec_image_discards (listens : (s.port p).state ≠ .offline) (one : 1 ≤ data.length) (most : data.length ≤ 120)
    (h : (s.port p).state ≠ .serving ∨ (s.portConfig p).cls ≠ .scanner ∨
      ¬ ((s.port p).scan.phase = .taking ∨ (s.port p).scan.phase = .starved)) :
    exec (.imageFrame p data) s = .next (s.setPort p (s.port p).hunts) := by
  have rests : (s.setPort p (s.port p).hunts).dispatch p (.image data) = s.setPort p (s.port p).hunts := by
    unfold State.dispatch
    dsimp only
    split
    · next g served =>
      have serving : (s.port p).state = .serving ∧ (s.portConfig p).cls = .scanner := by
        unfold State.servedJob at served
        rw [State.port_setPort] at served
        by_contra no
        have none : none = some g := (if_neg no).symm.trans served
        cases none
      have idle : ¬ takesFrames ((s.setPort p (s.port p).hunts).port p).scan = true := by
        rw [State.port_setPort, takesFrames_iff]
        rcases h with h | h | h
        · exact absurd serving.1 h
        · exact absurd serving.2 h
        · exact h
      exact if_neg idle
    · rfl
  show Host.Outcome.next (closeEvent s (s.frameEvent p (.image data))) = _
  rw [frameEvent_image listens one most, rests]
  exact congrArg Host.Outcome.next (closeEvent_setPort rfl)

/-- An IMAGE at a scan that takes frames is put to the room test (R152). -/
theorem exec_image_takes (serves : (s.port p).state = .serving) (scanner : (s.portConfig p).cls = .scanner)
    (job : (s.port p).job = some g) (taking : (s.port p).scan.phase = .taking ∨ (s.port p).scan.phase = .starved)
    (one : 1 ≤ data.length) (most : data.length ≤ 120) : exec (.imageFrame p data) s = .next (closeEvent s
      (if s.bytesDue p g data.length ≤ scanRoom (s.port p).scan s.spare.length then
        (s.setPort p (s.port p).hunts).storeImage p g (data.take (s.bytesDue p g data.length))
      else (s.setPort p (s.port p).hunts).starve p (s.bytesDue p g data.length))) := by
  have same : ((s.setPort p (s.port p).hunts).port p) = (s.port p).hunts := State.port_setPort _ _ _
  have due : (s.setPort p (s.port p).hunts).bytesDue p g data.length = s.bytesDue p g data.length := by
    unfold State.bytesDue
    rw [same]
    rfl
  have taken : (s.setPort p (s.port p).hunts).dispatch p (.image data) =
      if s.bytesDue p g data.length ≤ scanRoom (s.port p).scan s.spare.length then
        (s.setPort p (s.port p).hunts).storeImage p g (data.take (s.bytesDue p g data.length))
      else (s.setPort p (s.port p).hunts).starve p (s.bytesDue p g data.length) := by
    unfold State.dispatch
    dsimp only
    rw [State.servedJob_hunts serves scanner, job]
    unfold State.imageTaken
    dsimp only
    rw [due, same]
    exact if_pos ((takesFrames_iff _).mpr taking)
  show Host.Outcome.next (closeEvent s (s.frameEvent p (.image data))) = _
  rw [frameEvent_image (by rw [serves]; exact PortState.noConfusion) one most, taken]

theorem scanRoom_eq (x : ScanService) (n : Nat) :
    scanRoom x n = (if x.current = none then 0 else 120 - x.fill) + 120 * n := by
  unfold scanRoom Config.blockData
  cases x.current <;> rfl

/-! ### Without room (R153) -/

/-- The port of a scan that has answered PAUSE. -/
def PortRecord.paused (x : PortRecord) (clock : Word) (limit due : Nat) : PortRecord :=
  { x with
    transmitter := placeReply .pause x.transmitter
    scan := { x.scan with
      phase := .starved
      wanted := due
      starveTimer := if x.scan.phase = .starved then x.scan.starveTimer else some (clock + BitVec.ofNat 32 (limit * 1000)) } }

theorem State.starve_setPort (s : State) (p : Port) (y : PortRecord) (due : Nat) :
    (s.setPort p y).starve p due = s.setPort p (y.paused s.ctl.clock (s.portConfig p).starveLimit due) := by
  unfold State.starve State.modifyScan State.modifyPort
  rw [State.reply_setPort, State.port_setPort, State.setPort_setPort]
  rfl

/-! ### Room in the current block (R152) -/

/-- The port of a scan behind an IMAGE whose bytes go to its current block. -/
def PortRecord.storesHere (x : PortRecord) (n maxBytes : Nat) : PortRecord := (x.hunts.filled n).imageStored maxBytes

theorem State.storeImage_room (current : (s.port p).scan.current = some b)
    (bound : (s.port p).scan.fill + data.length ≤ 120) : (s.setPort p (s.port p).hunts).storeImage p g data =
      (let m := filledMem s.mem b (s.port p).scan.fill data
      ({ s with mem := m } : State).setPort p ((s.port p).storesHere data.length (s.job g).maxBytes)) := by
  have port : (s.setPort p (s.port p).hunts).port p = (s.port p).hunts := State.port_setPort _ _ _
  have stored : data.foldl (State.storeByte p g) (s.setPort p (s.port p).hunts) = (s.setPort p (s.port p).hunts).filled p b data :=
    State.storeBytes_room data _ (by rw [port]; exact current) (by rw [port]; exact bound)
  rw [State.storeImage_eq, stored, State.filled_port, port]
  unfold State.filled
  rw [port]
  dsimp only
  rw [State.setPort_setPort]
  exact State.setPort_setPort ({ s with mem := filledMem s.mem b (s.port p).scan.fill data } : State) p _ _

/-! ### Bytes behind a take (R143, R152) -/

/-- The state of a take, with memory, notices and the port as given. -/
def State.tookBlock (s : State) (p : Port) (g : Slot) (b : Nat) (rest : List Nat) (m : Memory) (n : BitVec 8) (y : PortRecord) :
    State :=
  { ((s.takenMarks g b rest).setPort p y) with mem := m, notice := n }

theorem State.tookBlock_setPort (s : State) (p : Port) (g : Slot) (b : Nat) (rest : List Nat) (m m' : Memory) (n : BitVec 8)
    (y z : PortRecord) : ({ (s.tookBlock p g b rest m n y) with mem := m' } : State).setPort p z = s.tookBlock p g b rest m' n z :=
  State.setPort_setPort ({ (s.takenMarks g b rest) with mem := m', notice := n } : State) p y z

theorem State.tookBlock_answers (s : State) (p : Port) (g : Slot) (b : Nat) (rest : List Nat) (m : Memory) (n : BitVec 8)
    (y z : PortRecord) : (s.tookBlock p g b rest m n y).setPort p z = s.tookBlock p g b rest m n z :=
  State.tookBlock_setPort s p g b rest m m n y z

theorem State.setPort_tookBlock (s : State) (p : Port) (g : Slot) (b : Nat) (rest : List Nat) (m m' : Memory) (n : BitVec 8)
    (y z : PortRecord) : (({ s with mem := m' } : State).setPort p y).tookBlock p g b rest m n z = s.tookBlock p g b rest m n z := by
  have marks : (({ s with mem := m' } : State).setPort p y).takenMarks g b rest =
      ({ (s.takenMarks g b rest) with mem := m' } : State).setPort p y := by
    unfold State.takenMarks State.setMark
    split <;> rfl
  unfold State.tookBlock
  rw [marks, State.setPort_setPort]
  rfl

theorem State.tookBlock_port {m : Memory} {n : BitVec 8} {y : PortRecord} : (s.tookBlock p g b rest m n y).port p = y :=
  State.port_setPort (s.takenMarks g b rest) p y

theorem State.tookBlock_port_ne {m : Memory} {n : BitVec 8} {y : PortRecord} {r : Port} (h : r ≠ p) :
    (s.tookBlock p g b rest m n y).port r = s.port r := State.port_setPort_ne (s.takenMarks g b rest) h y

/-- The memory when the bytes that have room went to the block before, if any. -/
def hereMem (m : Memory) (current : Option Nat) (fill : Nat) (data : List Byte) : Memory :=
  match current with
  | some c => filledMem m c fill data
  | none => m

/-- The memory behind an IMAGE that takes a block: the bytes before it, its header and link, the mirrors, the rest. -/
def splitMem (m : Memory) (current : Option Nat) (fill b : Nat) (rest : List Nat) (first second : List Byte) : Memory :=
  filledMem (spareMirrors (takenMem (hereMem m current fill first) current b) rest) b 0 second

/-- The first bytes of a split go to the block before. -/
theorem State.storeFirst (first : List Byte) (s : State)
    (fits : ∀ c, (s.port p).scan.current = some c → (s.port p).scan.fill + first.length ≤ 120)
    (none : (s.port p).scan.current = none → first = []) : first.foldl (State.storeByte p g) s =
      (let m := hereMem s.mem (s.port p).scan.current (s.port p).scan.fill first
      ({ s with mem := m } : State).setPort p ((s.port p).filled first.length)) := by
  cases current : (s.port p).scan.current with
  | none =>
    rw [none current]
    exact (s.setPort_self p).symm
  | some c => exact State.storeBytes_room first s current (fits c current)

/-- A byte without room in the block before takes the head of the spare chain (R152). -/
theorem State.storeByte_takes (spare : s.spare = b :: rest) (full : ∀ c, (s.port p).scan.current = some c → (s.port p).scan.fill = 120)
    (x : Byte) : State.storeByte p g s x = State.storeByte p g (s.take p g) x := by
  have takes : s.roomForByte p g = s.take p g := by
    unfold State.roomForByte
    cases current : (s.port p).scan.current with
    | none => rfl
    | some c =>
      dsimp only
      rw [full c current]
      exact if_neg (by decide)
  have port : (s.take p g).port p = (s.port p).takes b := by
    rw [State.take_eq spare]
    exact State.port_setPort (s.takenMarks g b rest) p _
  have rests : (s.take p g).roomForByte p g = s.take p g := by
    unfold State.roomForByte
    rw [port]
    exact if_pos (show 0 < 120 by decide)
  unfold State.storeByte
  rw [takes, rests]

/-- The port of a scan behind an IMAGE that takes a block. -/
def PortRecord.storesSplit (x : PortRecord) (b first second maxBytes : Nat) : PortRecord :=
  (((x.filled first).takes b).filled second).imageStored maxBytes

theorem State.storeImage_split {first second : List Byte} (spare : s.spare = b :: rest) (more : second ≠ [])
    (short : second.length ≤ 120)
    (full : ∀ c, (s.port p).scan.current = some c → (s.port p).scan.fill + first.length = 120)
    (none : (s.port p).scan.current = none → first = []) : s.storeImage p g (first ++ second) =
      s.tookBlock p g b rest (splitMem s.mem (s.port p).scan.current (s.port p).scan.fill b rest first second)
        (s.notice ||| takeNotices s.ctl.work.lowWater rest.length)
        ((s.port p).storesSplit b first.length second.length (s.job g).maxBytes) := by
  have before := State.storeFirst (g := g) first s (fun c h => (full c h).le) none
  dsimp only at before
  unfold splitMem
  generalize hereMem s.mem (s.port p).scan.current (s.port p).scan.fill first = m at before ⊢
  obtain ⟨x, hx⟩ : ∃ x, s.port p = x := ⟨_, rfl⟩
  rw [hx] at before full ⊢
  have port : (({ s with mem := m } : State).setPort p (x.filled first.length)).port p = x.filled first.length :=
    State.port_setPort _ _ _
  have took : (({ s with mem := m } : State).setPort p (x.filled first.length)).take p g =
      s.tookBlock p g b rest (spareMirrors (takenMem m x.scan.current b) rest) (s.notice ||| takeNotices s.ctl.work.lowWater rest.length)
        ((x.filled first.length).takes b) := by
    rw [State.take_eq (s := ({ s with mem := m } : State).setPort p (x.filled first.length)) spare, port]
    exact State.setPort_tookBlock s p g b rest _ _ _ _ _
  have stored : (first ++ second).foldl (State.storeByte p g) s = second.foldl (State.storeByte p g)
      (s.tookBlock p g b rest (spareMirrors (takenMem m x.scan.current b) rest)
        (s.notice ||| takeNotices s.ctl.work.lowWater rest.length) ((x.filled first.length).takes b)) := by
    obtain ⟨y, tail, rfl⟩ := List.exists_cons_of_ne_nil more
    rw [List.foldl_append, before, List.foldl_cons, List.foldl_cons, ← took]
    refine congrArg (tail.foldl _) (State.storeByte_takes (s := ({ s with mem := m } : State).setPort p (x.filled first.length)) spare
      (fun c h => ?_) y)
    rw [port] at h ⊢
    exact full c h
  rw [State.storeImage_eq, stored, State.storeBytes_room second _ (by rw [State.tookBlock_port]; rfl)
    (by rw [State.tookBlock_port]; show 0 + _ ≤ 120; omega), State.filled_port, State.tookBlock_port]
  unfold State.filled
  rw [State.tookBlock_port]
  dsimp only
  rw [State.tookBlock_setPort, State.tookBlock_answers]
  rfl

end

end Sys2Proof.Machine
end

/-! The obligation about IMAGEs: stored, split over a new block, or answered PAUSE. -/
section
namespace Sys2Proof.Machine

section
variable {m : Memory} {current : Option Nat} {fill b : Nat} {rest : List Nat} {first second : List Byte}

/-- The block before, if any: another block of the map, which the first bytes fill. -/
structure FillsBefore (current : Option Nat) (fill b n : Nat) : Prop where
  range : ∀ c, current = some c → inMap c
  other : ∀ c, current = some c → c ≠ b
  full : ∀ c, current = some c → fill + n = 120

/-- What a split writes at the block before. -/
def beforeBytes (current : Option Nat) (fill n a : Nat) : Prop :=
  ∃ c, current = some c ∧ (within (blockAddress c) 4 a ∨ within (blockAddress c + 8 + fill) n a)

theorem hereMem_writes (m : Memory) (current : Option Nat) (fill : Nat) (first : List Byte) :
    Writes (beforeBytes current fill first.length) m (hereMem m current fill first) := by
  cases current with
  | none => exact .refl _ m
  | some c => exact (filledMem_writes c first m fill).mono fun a h => ⟨c, rfl, h⟩

theorem takenMem_writes (m : Memory) (current : Option Nat) (b : Nat) :
    Writes (fun a => within (blockAddress b) 8 a ∨ ∃ c, current = some c ∧ within (blockAddress c) 4 a) m (takenMem m current b) := by
  have header : Writes (within (blockAddress b) 8) m (writeWord (writeWord m (blockAddress b) 0) (blockAddress b + 4) 0) :=
    ((writeWord_writes m _ 0).mono fun _ h => by unfold within at *; omega).trans
      ((writeWord_writes _ _ 0).mono fun _ h => by unfold within at *; omega)
  cases current with
  | none => exact header.mono fun _ => .inl
  | some c => exact (header.mono fun _ => .inl).trans ((writeWord_writes _ _ _).mono fun _ h => .inr ⟨c, rfl, h⟩)

/-- The header of a taken block is 0, and the block before is linked to it, its length kept. -/
theorem takenMem_words (w : Memory.wf m = true) (hb : inMap b) (before : FillsBefore current fill b n) :
    readWord (takenMem m current b) (blockAddress b + 4) = 0 ∧
      ∀ c, current = some c → readLink (takenMem m current b) c = b ∧ readLength (takenMem m current b) c = readLength m c := by
  have place := blockAddress_bounds hb
  have w1 := Memory.wf_writeWord w (blockAddress b) 0
  have w2 := Memory.wf_writeWord w1 (blockAddress b + 4) 0
  have second : readWord (writeWord (writeWord m (blockAddress b) 0) (blockAddress b + 4) 0) (blockAddress b + 4) = 0 :=
    readWord_writeWord w1 (by rw [exchangeBytes_eq]; omega) _
  cases current with
  | none => exact ⟨second, fun c h => by cases h⟩
  | some c =>
    have hc := before.range c rfl
    have placed := blockAddress_bounds hc
    have apart := blockAddress_apart hb hc (Ne.symm (before.other c rfl))
    refine ⟨?_, fun d h => ?_⟩
    · exact (readWord_writeWord_ne w2 (by omega) _).trans second
    · cases h
      have kept : readWord (writeWord (writeWord m (blockAddress b) 0) (blockAddress b + 4) 0) (blockAddress c) =
          readWord m (blockAddress c) := by
        rw [readWord_writeWord_ne w1 (by omega), readWord_writeWord_ne w (by omega)]
      have linked : readWord (takenMem m (some c) b) (blockAddress c) = merge (readWord m (blockAddress c)) b 0 16 := by
        show readWord (writeWord _ _ (merge (readWord _ _) b 0 16)) _ = _
        rw [readWord_writeWord w2 (by rw [exchangeBytes_eq]; omega), kept]
      have upper : field (merge (readWord m (blockAddress c)) b 0 16) 16 16 = field (readWord m (blockAddress c)) 16 16 :=
        congrArg BitVec.toNat (BitVec.eq_of_getLsbD_eq fun i _ => by
          rw [BitVec.getLsbD_extractLsb', BitVec.getLsbD_extractLsb', merge_getLsbD_apart _ _ _ _ _ (by omega)])
      unfold readLink readLength
      rw [linked, upper, field_merge_same _ _ (by omega)]
      unfold inMap at hb
      exact ⟨by omega, rfl⟩

/-- Where a split writes. -/
def splitBytes (current : Option Nat) (fill b n k a : Nat) : Prop :=
  within 0x10 8 a ∨ within (blockAddress b) (8 + k) a ∨ beforeBytes current fill n a

/-- The mirrors of a take, and the bytes in the new block. -/
theorem spareFilled_writes (m : Memory) (b : Nat) (rest : List Nat) (second : List Byte) :
    Writes (fun a => within 0x10 8 a ∨ within (blockAddress b) 4 a ∨ within (blockAddress b + 8) second.length a) m
      (filledMem (spareMirrors m rest) b 0 second) :=
  ((spareMirrors_writes _ rest).mono fun _ h => .inl h).trans ((filledMem_writes b second _ 0).mono fun _ h => .inr h)

theorem splitMem_writes (m : Memory) (current : Option Nat) (fill b : Nat) (rest : List Nat) (first second : List Byte) :
    Writes (splitBytes current fill b first.length second.length) m (splitMem m current fill b rest first second) := by
  refine (((hereMem_writes m current fill first).mono fun a h => .inr (.inr h)).trans
    ((takenMem_writes _ current b).mono fun a h => ?_)).trans ((spareFilled_writes _ b rest second).mono fun a h => ?_)
  · rcases h with h | ⟨c, hc, h⟩
    · exact .inr (.inl (by unfold within at *; omega))
    · exact .inr (.inr ⟨c, hc, .inl h⟩)
  · unfold splitBytes within at *
    omega

/-- The new block holds its length, link 0, no end-of-sheet flag and the bytes from its start. -/
theorem splitMem_block (w : Memory.wf m = true) (hb : inMap b) (before : FillsBefore current fill b first.length)
    (more : second ≠ []) (short : second.length ≤ 120) :
    readLength (splitMem m current fill b rest first second) b = second.length ∧
      readLink (splitMem m current fill b rest first second) b = 0 ∧
      readWord (splitMem m current fill b rest first second) (blockAddress b + 4) = 0 ∧
      ∀ i (h : i < second.length), readByte (splitMem m current fill b rest first second) (blockAddress b + 8 + i) = second[i] := by
  have placed := blockAddress_bounds hb
  have w1 : Memory.wf (hereMem m current fill first) = true := (hereMem_writes m current fill first).wf w
  have w2 : Memory.wf (takenMem (hereMem m current fill first) current b) = true := (takenMem_writes _ current b).wf w1
  have w3 := (spareMirrors_writes (takenMem (hereMem m current fill first) current b) rest).wf w2
  obtain ⟨length, link⟩ := filledMem_fields (fill := 0) hb w3 more (by omega)
  refine ⟨length.trans (Nat.zero_add _), link, ?_, fun i h => filledMem_data hb second _ 0 w3 (by omega) i h⟩
  exact ((spareFilled_writes _ b rest second).word w2 fun a h => by unfold within at *; omega).trans (takenMem_words w1 hb before).1

/-- The block before is linked to the new one; the bytes that it had room for fill it. -/
theorem splitMem_before (w : Memory.wf m = true) (hb : inMap b) (before : FillsBefore current fill b first.length)
    (short : second.length ≤ 120) {c : Nat} (hc : current = some c) :
    readLink (splitMem m current fill b rest first second) c = b ∧
      (first ≠ [] → readLength (splitMem m current fill b rest first second) c = 120) ∧
      ∀ i (h : i < first.length), readByte (splitMem m current fill b rest first second) (blockAddress c + 8 + fill + i) = first[i] := by
  have range := before.range c hc
  have full := before.full c hc
  have placed := blockAddress_bounds hb
  have at_c := blockAddress_bounds range
  have apart := blockAddress_apart hb range (Ne.symm (before.other c hc))
  have w1 : Memory.wf (hereMem m current fill first) = true := (hereMem_writes m current fill first).wf w
  have w2 : Memory.wf (takenMem (hereMem m current fill first) current b) = true := (takenMem_writes _ current b).wf w1
  have header : readWord (splitMem m current fill b rest first second) (blockAddress c) =
      readWord (takenMem (hereMem m current fill first) current b) (blockAddress c) :=
    (spareFilled_writes _ b rest second).word w2 fun a h => by unfold within at *; omega
  obtain ⟨-, taken⟩ := takenMem_words w1 hb before
  obtain ⟨link, length⟩ := taken c hc
  have here : hereMem m current fill first = filledMem m c fill first := by rw [hc]; rfl
  refine ⟨?_, fun some => ?_, fun i h => ?_⟩
  · unfold readLink at link ⊢
    rw [header, link]
  · have filled : readLength (hereMem m current fill first) c = 120 := by
      rw [here, (filledMem_fields range w some (by omega)).1, full]
    rw [← filled, ← length]
    unfold readLength
    rw [header]
  · have data := filledMem_data range first m fill w (by omega) i h
    rw [← here] at data
    rw [← data]
    refine ((spareFilled_writes _ b rest second).kept w2 _ (by unfold within; omega)).trans ((takenMem_writes _ current b).kept w1 _ ?_)
    rintro (k | ⟨d, hd, k⟩)
    · unfold within at k
      omega
    · rw [hc] at hd
      cases hd
      unfold within at k
      omega

/-- The mirrors of the spare chain behind a take. -/
theorem splitMem_mirrors (w : Memory.wf m = true) (hb : inMap b) (range : ∀ c ∈ rest, inMap c) (count : rest.length ≤ 896) :
    field (readWord (splitMem m current fill b rest first second) 0x10) 0 16 = rest.headD 0 ∧
      field (readWord (splitMem m current fill b rest first second) 0x10) 16 16 = rest.getLastD 0 ∧
      field (readWord (splitMem m current fill b rest first second) 0x14) 0 16 = rest.length := by
  have placed := blockAddress_bounds hb
  have w2 : Memory.wf (takenMem (hereMem m current fill first) current b) = true :=
    (takenMem_writes _ current b).wf ((hereMem_writes m current fill first).wf w)
  have w3 := (spareMirrors_writes (takenMem (hereMem m current fill first) current b) rest).wf w2
  have kept (a : Nat) (ha : a + 4 ≤ 0x4000) : readWord (splitMem m current fill b rest first second) a =
      readWord (spareMirrors (takenMem (hereMem m current fill first) current b) rest) a :=
    (filledMem_writes b second _ 0).word w3 fun x h => by unfold within at *; omega
  obtain ⟨head, last, number⟩ := spareMirrors_fields w2 rest
  rw [kept 0x10 (by omega), kept 0x14 (by omega), head, last, number]
  have small : ∀ x ∈ rest, x % 65536 = x := fun x hx => by
    have := range x hx
    unfold inMap at this
    omega
  cases rest with
  | nil => exact ⟨rfl, rfl, rfl⟩
  | cons x more =>
    refine ⟨small x List.mem_cons_self, ?_, by omega⟩
    rw [List.getLastD_cons]
    rw [List.getLastD_eq_getLast?]
    cases last : more.getLast? with
    | none => exact small x List.mem_cons_self
    | some y => exact small y (List.mem_cons_of_mem x (List.mem_of_getLast? last))

end

section
variable {s : State} {p : Port} {g : Slot} {b : Nat} {rest : List Nat} {data : List Byte}

/-- What the port shows of an IMAGE that is stored. -/
def PortRecord.answers (x y : PortRecord) (due maxBytes : Nat) : Prop :=
  y.scan.stored = x.scan.stored + due ∧ y.scan.starveTimer = none ∧
    (x.scan.stored + due ≠ maxBytes → y.scan.phase = .taking ∧ y.transmitter = placeReply .ack x.transmitter) ∧
    (x.scan.stored + due = maxBytes → y.scan.phase = .closing ∧ y.transmitter =
      offer { frame := .closeScan, owner := .service x.grantNumber } (placeReply .ack x.transmitter))

theorem PortRecord.imageStored_answers {x z : PortRecord} {due : Nat} (maxBytes : Nat) (stored : z.scan.stored = x.scan.stored + due)
    (transmitter : z.transmitter = x.transmitter) (grant : z.grantNumber = x.grantNumber) :
    x.answers (z.imageStored maxBytes) due maxBytes := by
  obtain ⟨same, -, -, timer, -⟩ := z.imageStored_scan maxBytes
  refine ⟨same.trans stored, timer, fun differ => ?_, fun full => ?_⟩
  · rw [← transmitter]
    exact PortRecord.imageStored_short (by rw [stored]; exact differ)
  · rw [← transmitter, ← grant]
    exact PortRecord.imageStored_full (by rw [stored]; exact full)

/-- An IMAGE without room is answered PAUSE (R153). -/
theorem exec_image_pauses (serves : (s.port p).state = .serving) (scanner : (s.portConfig p).cls = .scanner)
    (job : (s.port p).job = some g) (taking : (s.port p).scan.phase = .taking ∨ (s.port p).scan.phase = .starved)
    (one : 1 ≤ data.length) (most : data.length ≤ 120)
    (room : scanRoom (s.port p).scan s.spare.length < s.bytesDue p g data.length) : exec (.imageFrame p data) s =
      .next (s.setPort p ((s.port p).hunts.paused s.ctl.clock (s.portConfig p).starveLimit (s.bytesDue p g data.length))) := by
  rw [exec_image_takes serves scanner job taking one most, if_neg (by omega), State.starve_setPort]
  exact congrArg Host.Outcome.next (closeEvent_setPort rfl)

/-- An IMAGE whose bytes have room in the current block (R152). -/
theorem exec_image_room (serves : (s.port p).state = .serving) (scanner : (s.portConfig p).cls = .scanner)
    (job : (s.port p).job = some g) (taking : (s.port p).scan.phase = .taking ∨ (s.port p).scan.phase = .starved)
    (one : 1 ≤ data.length) (most : data.length ≤ 120) (current : (s.port p).scan.current = some b)
    (room : (s.port p).scan.fill + s.bytesDue p g data.length ≤ 120) : exec (.imageFrame p data) s =
      (let m := filledMem s.mem b (s.port p).scan.fill (data.take (s.bytesDue p g data.length))
      .next (({ s with mem := m } : State).setPort p
        ((s.port p).storesHere (data.take (s.bytesDue p g data.length)).length (s.job g).maxBytes))) := by
  have short := List.length_take_le (s.bytesDue p g data.length) data
  rw [exec_image_takes serves scanner job taking one most,
    if_pos (by rw [scanRoom_eq, current]; show _ ≤ (120 - _) + _; omega), State.storeImage_room current (by omega)]
  refine congrArg Host.Outcome.next (closeEvent_port _ ?_)
  exact ((PortRecord.imageStored_scan _ _).2.2.2.2)

/-- An IMAGE that takes a block of the spare chain (R143, R152). -/
theorem exec_image_split (serves : (s.port p).state = .serving) (scanner : (s.portConfig p).cls = .scanner)
    (job : (s.port p).job = some g) (taking : (s.port p).scan.phase = .taking ∨ (s.port p).scan.phase = .starved)
    (one : 1 ≤ data.length) (most : data.length ≤ 120) (spare : s.spare = b :: rest) {first second : List Byte}
    (split : data.take (s.bytesDue p g data.length) = first ++ second) (more : second ≠ [])
    (full : ∀ c, (s.port p).scan.current = some c → (s.port p).scan.fill + first.length = 120)
    (none : (s.port p).scan.current = none → first = []) : exec (.imageFrame p data) s = .next (settleInterrupt s
      (s.tookBlock p g b rest (splitMem s.mem (s.port p).scan.current (s.port p).scan.fill b rest first second)
        (s.notice ||| takeNotices s.ctl.work.lowWater rest.length)
        ((s.port p).hunts.storesSplit b first.length second.length (s.job g).maxBytes))) := by
  have due : s.bytesDue p g data.length ≤ data.length := Nat.min_le_left _ _
  have size : s.bytesDue p g data.length = first.length + second.length := by
    rw [← List.length_append, ← split, List.length_take, Nat.min_eq_left due]
  have port : (s.setPort p (s.port p).hunts).port p = (s.port p).hunts := State.port_setPort _ _ _
  have room : s.bytesDue p g data.length ≤ scanRoom (s.port p).scan s.spare.length := by
    rw [scanRoom_eq, spare, List.length_cons]
    split
    · omega
    · next c =>
      obtain ⟨c, hc⟩ := Option.ne_none_iff_exists'.mp c
      have := full c hc
      omega
  have stored := State.storeImage_split (s := s.setPort p (s.port p).hunts) (p := p) (g := g) (first := first) spare more (by omega)
    (by rw [port]; exact full) (by rw [port]; exact none)
  rw [port] at stored
  rw [exec_image_takes serves scanner job taking one most, if_pos room, split, stored]
  have whole := State.setPort_tookBlock s p g b rest (splitMem s.mem (s.port p).scan.current (s.port p).scan.fill b rest first second)
    s.mem (s.notice ||| takeNotices s.ctl.work.lowWater rest.length) (s.port p).hunts
    ((s.port p).hunts.storesSplit b first.length second.length (s.job g).maxBytes)
  refine (congrArg (fun t => Host.Outcome.next (closeEvent s t)) whole).trans (congrArg Host.Outcome.next (closeEvent_settles fun _ => ?_))
  refine State.anyServing_congr fun r => ?_
  by_cases e : r = p
  · subst e
    rw [State.tookBlock_port]
    unfold PortRecord.storesSplit
    rw [(PortRecord.imageStored_scan _ _).2.2.2.2]
    exact Iff.rfl
  · rw [State.tookBlock_port_ne e]

end

end Sys2Proof.Machine
end

/-! The obligation about IMAGEs: stored, split over a new block, or answered PAUSE. -/
section
namespace Sys2Proof.Machine

section
variable {s : State} {p : Port} {g : Slot} {b : Nat} {rest : List Nat} {m : Memory} {n : BitVec 8} {y : PortRecord}

theorem length_le_map {l : List Nat} (nodup : l.Nodup) (range : ∀ b ∈ l, inMap b) : l.length ≤ 896 := by
  have sub : l.toFinset ⊆ Finset.Icc 1 896 := fun b h => Finset.mem_Icc.mpr (range b (List.mem_toFinset.mp h))
  have card := Finset.card_le_card sub
  rw [List.toFinset_card_of_nodup nodup, Nat.card_Icc] at card
  omega

theorem State.structured.spareRange (h : s.structured) : s.spare.Nodup ∧ ∀ b ∈ s.spare, inMap b := by
  obtain ⟨-, -, -, ⟨nodup, spare, -⟩, -⟩ := h
  refine ⟨nodup, fun b hb => State.mark_range (s := s) ?_⟩
  rw [(spare b).mp hb]
  exact fun k => BlockMark.noConfusion k

theorem State.tookBlock_job : (s.tookBlock p g b rest m n y).job g = { s.job g with resultChain := (s.job g).resultChain ++ [b] } :=
  State.job_updateJob s g fun j => { j with resultChain := j.resultChain ++ [b] }

theorem State.tookBlock_slotsKept : s.slotsKept (s.tookBlock p g b rest m n y) [g] :=
  State.updateJob_slotsKept (s := s) (g := g) fun j => { j with resultChain := j.resultChain ++ [b] }

theorem State.tookBlock_mark (hb : inMap b) (a : Nat) :
    (s.tookBlock p g b rest m n y).mark a = if a = b then .result else s.mark a := by
  show (s.setMark b .result).mark a = _
  split
  · next e => rw [e]; exact s.mark_setMark hb _
  · next e => exact s.mark_setMark_ne e _

theorem takeNotices_of (old : BitVec 8) (low : Nat) (rest : List Nat) : old ||| takeNotices low rest.length =
    old ||| (if low ≠ 0 ∧ low < rest.length + 1 ∧ rest.length ≤ low then 0x04 else 0) ||| (if rest = [] then 0x08 else 0) := by
  unfold takeNotices
  rw [BitVec.or_assoc]
  cases rest <;> rfl

/-- The forms of an IMAGE whose bytes have room in the current block. -/
theorem image_stored_here {data : List Byte} (wf : s.wellFormed) (serves : (s.port p).state = .serving)
    (scanner : (s.portConfig p).cls = .scanner) (job : (s.port p).job = some g)
    (taking : (s.port p).scan.phase = .taking ∨ (s.port p).scan.phase = .starved) (one : 1 ≤ data.length)
    (most : data.length ≤ 120) (current : (s.port p).scan.current = some b) (hb : inMap b) {due : Nat}
    (dueIs : s.bytesDue p g data.length = due) (room : (s.port p).scan.fill + due ≤ 120) (some : 1 ≤ due) :
    ∃ t, exec (.imageFrame p data) s = .next t ∧
      (∀ i (h : i < data.length), i < due → readByte t.mem (blockAddress b + 8 + (s.port p).scan.fill + i) = data[i]) ∧
      readLength t.mem b = (s.port p).scan.fill + due ∧ readLink t.mem b = 0 ∧
      (s.memoryKept t fun a => within (blockAddress b) 4 a ∨ within (blockAddress b + 8 + (s.port p).scan.fill) due a) ∧
      (t.port p).scan.fill = (s.port p).scan.fill + due ∧ (t.port p).scan.current = Option.some b ∧
      (s.port p).answers (t.port p) due (s.job g).maxBytes ∧ s.portsKept t [p] ∧ t = { s with ports := t.ports, mem := t.mem } := by
  have small : due ≤ data.length := by rw [← dueIs]; exact Nat.min_le_left _ _
  have run := exec_image_room serves scanner job taking one most current (by rw [dueIs]; exact room)
  rw [dueIs] at run
  have size : (data.take due).length = due := by rw [List.length_take, Nat.min_eq_left small]
  rw [size] at run
  have own (y : PortRecord) (m : Memory) : (({ s with mem := m } : State).setPort p y).port p = y := State.port_setPort _ _ _
  obtain ⟨-, fill, cur, -, -⟩ := ((s.port p).hunts.filled due).imageStored_scan (s.job g).maxBytes
  obtain ⟨length, link⟩ := filledMem_fields (m := s.mem) (fill := (s.port p).scan.fill) (data := data.take due) hb wf.memory
    (fun e => by rw [e] at size; exact absurd size (by simp; omega)) (by omega)
  refine ⟨_, run, fun i h below => ?_, by rw [size] at length; exact length, link, fun a ha => ?_, ?_, ?_, ?_, fun r hr => ?_, rfl⟩
  · have data := filledMem_data hb (data.take due) s.mem (s.port p).scan.fill wf.memory (by omega) i (by omega)
    rw [List.getElem_take] at data
    exact data
  · have kept := (filledMem_writes b (data.take due) s.mem (s.port p).scan.fill).kept wf.memory a
    rw [size] at kept
    exact kept ha
  · rw [own]
    exact fill
  · rw [own]
    exact cur.trans current
  · rw [own]
    exact PortRecord.imageStored_answers _ rfl rfl rfl
  · exact State.port_setPort_ne _ (fun e => hr (List.mem_singleton.mpr e)) _

/-- The forms of an IMAGE that takes a block of the spare chain. -/
theorem image_stored_split {data : List Byte} (wf : s.wellFormed) (serves : (s.port p).state = .serving)
    (scanner : (s.portConfig p).cls = .scanner) (job : (s.port p).job = some g)
    (taking : (s.port p).scan.phase = .taking ∨ (s.port p).scan.phase = .starved) (one : 1 ≤ data.length)
    (most : data.length ≤ 120) {due : Nat} (dueIs : s.bytesDue p g data.length = due) (holds : s.structured) (spare : s.spare = b :: rest)
    (some : 1 ≤ due) (cur : ∀ c, (s.port p).scan.current = Option.some c →
      1 ≤ c ∧ c ≤ 896 ∧ c ∉ s.spare ∧ (s.port p).scan.fill ≤ 120 ∧ 120 < (s.port p).scan.fill + due) {here : Nat}
    (hereIs : here = if (s.port p).scan.current = none then 0 else 120 - (s.port p).scan.fill) :
    ∃ t, exec (.imageFrame p data) s = .next t ∧ t.spare = rest ∧
      t.job g = { s.job g with resultChain := (s.job g).resultChain ++ [b] } ∧
      (∀ a, t.mark a = if a = b then .result else s.mark a) ∧
      (∀ i (h : i < data.length), here ≤ i → i < due → readByte t.mem (blockAddress b + 8 + (i - here)) = data[i]) ∧
      readLength t.mem b = due - here ∧ readLink t.mem b = 0 ∧ t.word (blockAddress b + 4) = 0 ∧
      (∀ c, (s.port p).scan.current = Option.some c → readLink t.mem c = b ∧ (1 ≤ here → readLength t.mem c = 120) ∧
        ∀ i (h : i < data.length), i < here →
          readByte t.mem (blockAddress c + 8 + (s.port p).scan.fill + i) = data[i]) ∧
      field (t.word 0x10) 0 16 = rest.headD 0 ∧ field (t.word 0x10) 16 16 = rest.getLastD 0 ∧
      field (t.word 0x14) 0 16 = rest.length ∧
      (let low := s.ctl.work.lowWater;
        t.notice = s.notice ||| (if low ≠ 0 ∧ low < s.spare.length ∧ rest.length ≤ low then 0x04 else 0) |||
          (if rest = [] then 0x08 else 0)) ∧
      (t.port p).scan.fill = due - here ∧ (t.port p).scan.current = Option.some b ∧
      (s.port p).answers (t.port p) due (s.job g).maxBytes ∧
      (s.memoryKept t fun a => within 0x10 8 a ∨ within (blockAddress b) (8 + (due - here)) a ∨
        ∃ c, (s.port p).scan.current = Option.some c ∧
          (within (blockAddress c) 4 a ∨ within (blockAddress c + 8 + (s.port p).scan.fill) here a)) ∧
      s.portsKept t [p] ∧ s.slotsKept t [g] ∧ t.queues = s.queues ∧ t.stations = s.stations ∧
      t.ctl = { s.ctl with messagesSent := t.ctl.messagesSent } := by
  have small : due ≤ data.length := by rw [← dueIs]; exact Nat.min_le_left _ _
  have size : (data.take due).length = due := by rw [List.length_take, Nat.min_eq_left small]
  have below : here < due ∧ ∀ c, (s.port p).scan.current = Option.some c → (s.port p).scan.fill + here = 120 := by
    cases current : (s.port p).scan.current with
    | none => exact ⟨by rw [hereIs, current, if_pos rfl]; omega, fun c h => by cases h⟩
    | some c =>
      have := cur c current
      rw [current, if_neg (by simp)] at hereIs
      exact ⟨by omega, fun _ _ => by omega⟩
  obtain ⟨below, full⟩ := below
  obtain ⟨first, hfirst⟩ : ∃ l, l = (data.take due).take here := ⟨_, rfl⟩
  obtain ⟨second, hsecond⟩ : ∃ l, l = (data.take due).drop here := ⟨_, rfl⟩
  have sizeFirst : first.length = here := by rw [hfirst, List.length_take, size]; omega
  have sizeSecond : second.length = due - here := by rw [hsecond, List.length_drop, size]
  have more : second ≠ [] := fun e => by rw [e] at sizeSecond; simp at sizeSecond; omega
  have run := exec_image_split serves scanner job taking one most spare (first := first) (second := second)
    (by rw [dueIs, hfirst, hsecond, List.take_append_drop]) more (fun c h => by rw [sizeFirst]; exact full c h)
    (fun h => by rw [h, if_pos rfl] at hereIs; exact List.length_eq_zero_iff.mp (by omega))
  obtain ⟨nodup, range⟩ := holds.spareRange
  have hb : inMap b := range b (by rw [spare]; exact List.mem_cons_self)
  have rests : ∀ c ∈ rest, inMap c := fun c h => range c (by rw [spare]; exact List.mem_cons_of_mem b h)
  have before : FillsBefore (s.port p).scan.current (s.port p).scan.fill b first.length :=
    ⟨fun c h => ⟨(cur c h).1, (cur c h).2.1⟩,
      fun c h e => (cur c h).2.2.1 (by rw [spare, e]; exact List.mem_cons_self), fun c h => by rw [sizeFirst]; exact full c h⟩
  obtain ⟨length, link, flag, bytes⟩ := splitMem_block (rest := rest) wf.memory hb before more (by omega)
  obtain ⟨head, last, count⟩ := splitMem_mirrors (current := (s.port p).scan.current) (fill := (s.port p).scan.fill) (first := first)
    (second := second) wf.memory hb rests (length_le_map (List.nodup_cons.mp (spare ▸ nodup)).2 rests)
  rw [settleInterrupt_eq] at run
  have own := State.tookBlock_port (s := s) (p := p) (g := g) (b := b) (rest := rest) (m := s.mem) (n := s.notice)
    (y := (s.port p).hunts.storesSplit b first.length second.length (s.job g).maxBytes)
  obtain ⟨-, fill, current, -, -⟩ :=
    ((((s.port p).hunts.filled first.length).takes b).filled second.length).imageStored_scan (s.job g).maxBytes
  refine ⟨_, run, rfl, State.tookBlock_job (p := p) (rest := rest) (m := s.mem) (n := s.notice) (y := s.port p),
    State.tookBlock_mark (p := p) (g := g) (rest := rest) (m := s.mem) (n := s.notice) (y := s.port p) hb, fun i h above under => ?_, length.trans sizeSecond, link, flag,
    fun c hc => ?_, head, last, count, ?_, ?_, ?_, ?_, fun a ha => ?_, fun r hr => ?_,
    State.tookBlock_slotsKept (p := p) (rest := rest) (m := s.mem) (n := s.notice) (y := s.port p), rfl, rfl, rfl⟩
  · have byte := bytes (i - here) (by omega)
    have same : second[i - here]'(by omega) = data[i] := by
      subst hsecond
      rw [List.getElem_drop, List.getElem_take]
      congr 1
      omega
    exact byte.trans same
  · obtain ⟨linked, filled, kept⟩ := splitMem_before (rest := rest) (second := second) wf.memory hb before (by omega) hc
    refine ⟨linked, fun one => filled fun e => ?_, fun i h under => ?_⟩
    · rw [e] at sizeFirst
      simp at sizeFirst
      omega
    · have same : first[i]'(by omega) = data[i] := by
        subst hfirst
        rw [List.getElem_take, List.getElem_take]
      exact (kept i (by omega)).trans same
  · rw [spare]
    exact takeNotices_of _ _ _
  · refine (congrArg (fun y => y.scan.fill) own).trans (fill.trans ?_)
    show 0 + _ = _
    omega
  · exact (congrArg (fun y => y.scan.current) own).trans current
  · have answers : (s.port p).answers ((s.port p).hunts.storesSplit b first.length second.length (s.job g).maxBytes) due
        (s.job g).maxBytes := by
      refine PortRecord.imageStored_answers _ ?_ rfl rfl
      show (s.port p).scan.stored + first.length + second.length = (s.port p).scan.stored + due
      omega
    exact own.symm ▸ answers
  · refine (splitMem_writes s.mem (s.port p).scan.current (s.port p).scan.fill b rest first second).kept wf.memory a ?_
    rw [sizeFirst, sizeSecond]
    exact ha
  · exact State.tookBlock_port_ne (m := s.mem) (n := s.notice) fun e => hr (List.mem_singleton.mpr e)

/-- Settles O56: the port's record and the memory of each form in closed form. -/
theorem imageIsStoredOrPaused : Obligations.ImageIsStoredOrPaused := by
  intro s p data wf listens one most
  dsimp only
  refine ⟨exec_image_discards listens one most, fun g serves scanner job taking => ⟨fun room => ?_, ?_, ?_⟩⟩
  · exact exec_image_pauses serves scanner job taking one most (by rw [scanRoom_eq]; exact room)
  · intro b current low high room some
    exact image_stored_here wf serves scanner job taking one most current ⟨low, high⟩ rfl room some
  · intro b rest holds spare some cur
    exact image_stored_split wf serves scanner job taking one most rfl holds spare some cur rfl

end

end Sys2Proof.Machine
end

/-! SUPPORT. The touch router reads neither the receiver nor the capability of its panel, nor the count of messages (R162, R167). -/
section
namespace Sys2Proof.Machine

section
variable {s : State} {p : Port} {i : Fin 10} {recv : Receiver} {cap n : Nat}

/-- A port with another receiver and another capability. -/
def PortRecord.dressed (x : PortRecord) (recv : Receiver) (cap : Nat) : PortRecord :=
  { x with receiver := recv, capability := cap }

/-- The state with another receiver and capability at one port, and another count of messages. -/
def State.dressed (s : State) (p : Port) (recv : Receiver) (cap n : Nat) : State :=
  { (s.setPort p ((s.port p).dressed recv cap)) with ctl := { s.ctl with messagesSent := n } }

theorem State.dressed_port : (s.dressed p recv cap n).port p = (s.port p).dressed recv cap := State.port_setPort s p _

theorem State.dressed_port_ne {r : Port} (h : r ≠ p) : (s.dressed p recv cap n).port r = s.port r := State.port_setPort_ne s h _

theorem State.dressed_contact : (s.dressed p recv cap n).contact p i = s.contact p i := by
  unfold State.contact
  rw [State.dressed_port]
  rfl

theorem State.dressed_congr {t : State} (ports : t.ports = s.ports) (ctl : t.ctl = s.ctl) : t.dressed p recv cap n =
    { t with ports := (s.dressed p recv cap n).ports, ctl := (s.dressed p recv cap n).ctl } := by
  unfold State.dressed State.setPort State.port
  rw [ports, ctl]

theorem State.mailboxWrite_dressed (st : Station) (k : Fin 4) (new : Bool) (m : MailReport) :
    (s.dressed p recv cap n).mailboxWrite st k new m = (s.mailboxWrite st k new m).dressed p recv cap n := by
  rw [State.dressed_congr (s.mailboxWrite_ports st k new m) (s.mailboxWrite_ctl st k new m)]
  unfold State.mailboxWrite
  dsimp only
  by_cases h : (gains (s.mailbox st k).events (s.replaces st k new) m.phase && (s.sample st).notify) = true
  · refine Eq.trans (if_pos h) ?_
    rw [if_pos h]
    rfl
  · refine Eq.trans (if_neg h) ?_
    rw [if_neg h]
    rfl

theorem State.setContact_dressed (c : Contact) : (s.dressed p recv cap n).setContact p i c = (s.setContact p i c).dressed p recv cap n := by
  have own : (s.setContact p i c).port p = { s.port p with contacts := (s.port p).contacts.set i.val c } := State.port_setPort s p _
  unfold State.setContact State.modifyPort
  rw [State.dressed_port]
  unfold State.dressed
  rw [State.port_setPort, State.setPort_setPort]
  exact State.setPort_setPort ({ s with ctl := { s.ctl with messagesSent := n } } : State) p _ _

theorem State.updateJob_dressed (g : Slot) (f : JobRecord → JobRecord) :
    (s.dressed p recv cap n).updateJob g f = (s.updateJob g f).dressed p recv cap n := rfl

theorem State.updateCounters_dressed (st : Station) (pair : CounterPair) (f : StationCounters → StationCounters) :
    (s.dressed p recv cap n).updateCounters st pair f = (s.updateCounters st pair f).dressed p recv cap n := rfl

theorem State.updateDiscards_form (f : Discards → Discards) : s.updateDiscards p f =
    (let m := rewriteWords s.mem (discardAddress p) (discardWords (s.port p).discards) (discardWords (f (s.port p).discards))
    ({ s with mem := m } : State).setPort p { s.port p with discards := f (s.port p).discards }) := rfl

theorem State.updateDiscards_dressed (f : Discards → Discards) :
    (s.dressed p recv cap n).updateDiscards p f = (s.updateDiscards p f).dressed p recv cap n := by
  have twice (m : Memory) (y z : PortRecord) : ({ (({ s with mem := m } : State).setPort p y) with
      ctl := { s.ctl with messagesSent := n } } : State).setPort p z =
      ({ s with mem := m, ctl := { s.ctl with messagesSent := n } } : State).setPort p z :=
    State.setPort_setPort ({ s with mem := m, ctl := { s.ctl with messagesSent := n } } : State) p y z
  rw [State.updateDiscards_form, State.updateDiscards_form, State.dressed_port]
  unfold State.dressed
  dsimp only
  rw [State.port_setPort, State.setPort_setPort]
  exact twice _ _ _

theorem State.chooseRecord_dressed (st : Station) (k : Port × Fin 10) :
    (s.dressed p recv cap n).chooseRecord st k = s.chooseRecord st k := rfl

theorem State.deliver_dressed (st : Station) (zone : Nat) (holder : Option Slot) (synthetic : Bool) (x y pressure : Nat) :
    (s.dressed p recv cap n).deliver p i st zone holder synthetic x y pressure =
      (s.deliver p i st zone holder synthetic x y pressure).dressed p recv cap n := by
  unfold State.deliver
  rw [State.chooseRecord_dressed]
  cases s.chooseRecord st (p, i) with
  | none => 
    dsimp only
    rw [State.setContact_dressed, State.updateCounters_dressed]
  | some found =>
    dsimp only
    cases holder with
    | none =>
      dsimp only
      rw [State.mailboxWrite_dressed, State.setContact_dressed]
    | some g =>
      dsimp only
      rw [State.mailboxWrite_dressed, State.setContact_dressed, State.updateJob_dressed]

theorem State.holdOf_dressed : (s.dressed p recv cap n).holdOf p = s.holdOf p := by
  unfold State.holdOf
  rw [State.dressed_port]
  rfl

theorem State.newContact_dressed (synthetic : Bool) (x y pressure : Nat) :
    (s.dressed p recv cap n).newContact p i synthetic x y pressure =
      (s.newContact p i synthetic x y pressure).dressed p recv cap n := by
  unfold State.newContact
  rw [State.holdOf_dressed, State.dressed_port]
  cases s.holdOf p with
  | some g => exact State.deliver_dressed _ _ _ _ _ _ _
  | none =>
    have zones : ((s.port p).dressed recv cap).zones = (s.port p).zones := rfl
    dsimp only
    rw [zones]
    cases zoneAt (s.port p).zones.toList x y 0 with
    | none => exact State.updateDiscards_dressed _
    | some found =>
      have sample : (s.dressed p recv cap n).sample found.2 = s.sample found.2 := rfl
      dsimp only
      rw [sample]
      by_cases closed : (s.sample found.2).state = .closed
      · rw [if_pos closed, if_pos closed]
        exact State.updateDiscards_dressed _
      · rw [if_neg closed, if_neg closed]
        exact State.deliver_dressed _ _ _ _ _ _ _

theorem State.capturedReport_dressed (c : Capture) (rebuild : Capture → Contact) (phase : TouchPhase) (x y pressure : Nat) :
    (s.dressed p recv cap n).capturedReport p i c rebuild phase x y pressure =
      (s.capturedReport p i c rebuild phase x y pressure).dressed p recv cap n := by
  cases phase <;> unfold State.capturedReport <;> dsimp only
  case down =>
    unfold State.syntheticUp
    rw [State.mailboxWrite_dressed, State.setContact_dressed, State.newContact_dressed]
  all_goals rw [State.mailboxWrite_dressed, State.setContact_dressed]

theorem State.touch_dressed (phase : TouchPhase) (x y pressure : Nat) :
    (s.dressed p recv cap n).touch p i phase x y pressure = (s.touch p i phase x y pressure).dressed p recv cap n := by
  unfold State.touch
  rw [State.dressed_contact]
  cases s.contact p i with
  | none =>
    cases phase with
    | down => exact State.newContact_dressed _ _ _ _
    | move => exact State.newContact_dressed _ _ _ _
    | up => exact State.updateDiscards_dressed _
  | zone c => exact State.capturedReport_dressed _ _ _ _ _ _
  | hold c => exact State.capturedReport_dressed _ _ _ _ _ _
  | orphan | dropped =>
    cases phase with
    | down =>
      dsimp only
      rw [State.setContact_dressed, State.newContact_dressed]
    | move => rfl
    | up => exact State.setContact_dressed _

/-- A report is judged by the capability, which the receiver and the messages do not change. -/
theorem State.takeReport_dressed (own : (s.port p).capability = cap) (r : ContactReport) :
    State.takeReport p (s.dressed p recv cap n) r = (State.takeReport p s r).dressed p recv cap n := by
  unfold State.takeReport
  cases touchPhaseOfCode r.phase.toNat with
  | none => exact State.updateDiscards_dressed _
  | some phase =>
    dsimp only
    by_cases known : r.id.toNat < 10
    · have same : ((s.dressed p recv cap n).port p).capability = (s.port p).capability := by
        rw [State.dressed_port, own]
        rfl
      rw [dif_pos known, dif_pos known, same, State.dressed_contact]
      by_cases absent : (s.port p).capability ≤ r.id.toNat ∧ s.contact p ⟨r.id.toNat, known⟩ = .none
      · rw [if_pos absent, if_pos absent]
        exact State.updateDiscards_dressed _
      · rw [if_neg absent, if_neg absent]
        exact State.touch_dressed _ _ _ _
    · rw [dif_neg known, dif_neg known]
      exact State.updateDiscards_dressed _

/-! ### What a report leaves as it is -/

/-- A report changes its panel's contacts and discard counts only. -/
structure Touched (p : Port) (s t : State) : Prop where
  ports : s.portsKept t [p]
  port : t.port p = { s.port p with contacts := (t.port p).contacts, discards := (t.port p).discards }
  ctl : t.ctl = s.ctl
  notice : t.notice = s.notice

theorem Touched.trans {t u : State} (h : Touched p s t) (k : Touched p t u) : Touched p s u where
  ports r hr := (k.ports r hr).trans (h.ports r hr)
  port := by rw [k.port, h.port]
  ctl := k.ctl.trans h.ctl
  notice := k.notice.trans h.notice

theorem Touched.of_ports {t : State} (ports : t.ports = s.ports) (ctl : t.ctl = s.ctl) (notice : t.notice = s.notice) :
    Touched p s t := by
  have same (r : Port) : t.port r = s.port r := by
    unfold State.port
    rw [ports]
  exact ⟨fun r _ => same r, by rw [same], ctl, notice⟩

theorem Touched.refl (s : State) : Touched p s s := Touched.of_ports rfl rfl rfl

theorem State.setContact_touched (s : State) (p : Port) (i : Fin 10) (c : Contact) : Touched p s (s.setContact p i c) where
  ports r hr := State.port_modifyPort_ne s (fun e => hr (List.mem_singleton.mpr e)) _
  port := by
    have own : (s.setContact p i c).port p = { s.port p with contacts := (s.port p).contacts.set i.val c } := State.port_setPort s p _
    rw [own]
  ctl := rfl
  notice := rfl

theorem State.updateDiscards_touched (s : State) (p : Port) (f : Discards → Discards) : Touched p s (s.updateDiscards p f) where
  ports r hr := State.port_setPort_ne s (fun e => hr (List.mem_singleton.mpr e)) _
  port := by
    have own : (s.updateDiscards p f).port p = { s.port p with discards := f (s.port p).discards } := State.port_setPort s p _
    rw [own]
  ctl := rfl
  notice := rfl

theorem State.mailboxWrite_touched (s : State) (p : Port) (st : Station) (k : Fin 4) (new : Bool) (m : MailReport) :
    Touched p s (s.mailboxWrite st k new m) := .of_ports (by simp) (by simp) (by simp)

theorem State.deliver_touched (s : State) (p : Port) (i : Fin 10) (st : Station) (zone : Nat) (holder : Option Slot)
    (synthetic : Bool) (x y pressure : Nat) : Touched p s (s.deliver p i st zone holder synthetic x y pressure) := by
  unfold State.deliver
  cases s.chooseRecord st (p, i) with
  | none => exact (s.setContact_touched p i .dropped).trans (.of_ports rfl rfl rfl)
  | some found =>
    have written := s.mailboxWrite_touched p st found.1 found.2
      { key := (p, i), zone, phase := .down, synthetic, x, y, pressure }
    cases holder with
    | none => exact written.trans (State.setContact_touched _ p i _)
    | some g => exact (written.trans (State.setContact_touched _ p i _)).trans (.of_ports rfl rfl rfl)

theorem State.newContact_touched (s : State) (p : Port) (i : Fin 10) (synthetic : Bool) (x y pressure : Nat) :
    Touched p s (s.newContact p i synthetic x y pressure) := by
  unfold State.newContact
  cases s.holdOf p with
  | some g => exact s.deliver_touched ..
  | none =>
    dsimp only
    cases zoneAt (s.port p).zones.toList x y 0 with
    | none => exact s.updateDiscards_touched p _
    | some found =>
      dsimp only
      split
      · exact s.updateDiscards_touched p _
      · exact s.deliver_touched ..

theorem State.capturedReport_touched (s : State) (p : Port) (i : Fin 10) (c : Capture) (rebuild : Capture → Contact)
    (phase : TouchPhase) (x y pressure : Nat) : Touched p s (s.capturedReport p i c rebuild phase x y pressure) := by
  cases phase with
  | down =>
    exact ((s.mailboxWrite_touched p _ _ _ _).trans (State.setContact_touched _ p i _)).trans (State.newContact_touched ..)
  | move => exact (s.mailboxWrite_touched p _ _ _ _).trans (State.setContact_touched _ p i _)
  | up => exact (s.mailboxWrite_touched p _ _ _ _).trans (State.setContact_touched _ p i _)

theorem State.touch_touched (s : State) (p : Port) (i : Fin 10) (phase : TouchPhase) (x y pressure : Nat) :
    Touched p s (s.touch p i phase x y pressure) := by
  unfold State.touch
  cases s.contact p i with
  | none =>
    cases phase with
    | down => exact s.newContact_touched ..
    | move => exact s.newContact_touched ..
    | up => exact s.updateDiscards_touched p _
  | zone c => exact s.capturedReport_touched ..
  | hold c => exact s.capturedReport_touched ..
  | orphan | dropped =>
    cases phase with
    | down => exact (s.setContact_touched p i .none).trans (State.newContact_touched ..)
    | move => exact .refl s
    | up => exact s.setContact_touched p i .none

theorem State.takeReport_touched (s : State) (p : Port) (r : ContactReport) : Touched p s (State.takeReport p s r) := by
  unfold State.takeReport
  split
  · exact s.updateDiscards_touched p _
  · split
    · split
      · exact s.updateDiscards_touched p _
      · exact s.touch_touched ..
    · exact s.updateDiscards_touched p _

end

end Sys2Proof.Machine
end

/-! SUPPORT. The event of a CONTACT frame (R105, R162). -/
section
namespace Sys2Proof.Machine

section
variable {s : State} {p : Port} {i : Fin 10} {recv : Receiver} {cap n : Nat} {reports : List ContactReport}

theorem frameEvent_contact (listens : (s.port p).state ≠ .offline) (one : 1 ≤ reports.length) (most : reports.length ≤ 10) :
    s.frameEvent p (.contact reports) = (s.setPort p (s.port p).hunts).contactTaken p reports := by
  have good : goodFrame (s.portConfig p).cls (.contact reports) = true := decide_eq_true ⟨one, most⟩
  unfold State.frameEvent
  rw [if_pos (State.listening_of listens)]
  exact if_pos good

/-- A CONTACT where no panel takes it is discarded (R105, R162). -/
theorem exec_contact_discards (listens : (s.port p).state ≠ .offline) (one : 1 ≤ reports.length) (most : reports.length ≤ 10)
    (h : ¬ ((s.portConfig p).cls = .panel ∧ ((s.port p).state = .free ∨ (s.port p).state = .serving) ∧ s.ctl.engine = .running)) :
    exec (.contactFrame p reports) s = .next (s.setPort p (s.port p).hunts) := by
  have rests : (s.setPort p (s.port p).hunts).contactTaken p reports = s.setPort p (s.port p).hunts := by
    unfold State.contactTaken
    rw [State.port_setPort]
    exact if_neg h
  show Host.Outcome.next (closeEvent s (s.frameEvent p (.contact reports))) = _
  rw [frameEvent_contact listens one most, rests]
  exact congrArg Host.Outcome.next (closeEvent_setPort rfl)

theorem exec_contact_offline (h : (s.port p).state = .offline) : exec (.contactFrame p reports) s = .next s := by
  have deaf : s.frameEvent p (.contact reports) = s := by
    unfold State.frameEvent State.listening
    rw [h]
    rfl
  show Host.Outcome.next (closeEvent s (s.frameEvent p (.contact reports))) = _
  rw [deaf, closeEvent_self]

/-! ### The reports of one frame -/

theorem State.dressed_dressed {recv' : Receiver} {cap' n' : Nat} :
    (s.dressed p recv cap n).dressed p recv' cap' n' = s.dressed p recv' cap' n' := by
  unfold State.dressed
  exact (congrArg (fun y => State.setPort ({ (s.setPort p ((s.port p).dressed recv cap)) with
    ctl := { s.ctl with messagesSent := n' } } : State) p (y.dressed recv' cap')) (State.port_setPort s p _)).trans
    (State.setPort_setPort ({ s with ctl := { s.ctl with messagesSent := n' } } : State) p _ _)

theorem takeReports_touched (reports : List ContactReport) (s : State) : Touched p s (reports.foldl (State.takeReport p) s) := by
  induction reports generalizing s with
  | nil => exact .refl s
  | cons r rest ih => exact (s.takeReport_touched p r).trans (ih _)

theorem takeReports_dressed (reports : List ContactReport) {s : State} (own : (s.port p).capability = cap) :
    reports.foldl (State.takeReport p) (s.dressed p recv cap n) = (reports.foldl (State.takeReport p) s).dressed p recv cap n := by
  induction reports generalizing s with
  | nil => rfl
  | cons r rest ih =>
    have same : ((State.takeReport p s r).port p).capability = cap := by
      rw [(s.takeReport_touched p r).port]
      exact own
    rw [List.foldl_cons, List.foldl_cons, State.takeReport_dressed own, ih same]

/-- The reports of a frame act one behind the other; then the message of the frame is due (R7, R162). -/
theorem exec_contact_takes (panel : (s.portConfig p).cls = .panel) (state : (s.port p).state = .free ∨ (s.port p).state = .serving)
    (running : s.ctl.engine = .running) (one : 1 ≤ reports.length) (most : reports.length ≤ 10) :
    exec (.contactFrame p reports) s = .next ((reports.foldl (State.takeReport p) s).dressed p .hunting (s.port p).capability
      (s.ctl.messagesSent + messageDue s (reports.foldl (State.takeReport p) s))) := by
  have listens : (s.port p).state ≠ .offline := by
    rcases state with h | h <;> rw [h] <;> exact PortState.noConfusion
  have hears : s.setPort p (s.port p).hunts = s.dressed p .hunting (s.port p).capability s.ctl.messagesSent := rfl
  have touched := takeReports_touched (p := p) reports s
  have taken : (s.setPort p (s.port p).hunts).contactTaken p reports =
      (reports.foldl (State.takeReport p) s).dressed p .hunting (s.port p).capability s.ctl.messagesSent := by
    unfold State.contactTaken
    rw [State.port_setPort]
    refine (if_pos ⟨panel, state, running⟩).trans ?_
    rw [hears, takeReports_dressed reports rfl]
  show Host.Outcome.next (closeEvent s (s.frameEvent p (.contact reports))) = _
  rw [frameEvent_contact listens one most, taken]
  generalize reports.foldl (State.takeReport p) s = u at touched
  have engine : (u.dressed p .hunting (s.port p).capability s.ctl.messagesSent).ctl.engine ≠ .draining := by
    show u.ctl.engine ≠ _
    rw [touched.ctl, running]
    exact fun k => Engine.noConfusion k
  rw [closeEvent_of_not_draining _ _ engine]
  rfl

/-- The reports of a frame act as so many frames of one report each would, but for the messages (R162). -/
theorem exec_contact_cons (s : State) (p : Port) (r : ContactReport) (rest : List ContactReport) (one : 1 ≤ rest.length)
    (most : rest.length ≤ 9) : ∃ t u v, exec (.contactFrame p [r]) s = .next t ∧ exec (.contactFrame p rest) t = .next u ∧
      exec (.contactFrame p (r :: rest)) s = .next v ∧ v = { u with ctl := { u.ctl with messagesSent := v.ctl.messagesSent } } := by
  by_cases offline : (s.port p).state = .offline
  · exact ⟨s, s, s, exec_contact_offline offline, exec_contact_offline offline, exec_contact_offline offline, rfl⟩
  by_cases takes : (s.portConfig p).cls = .panel ∧ ((s.port p).state = .free ∨ (s.port p).state = .serving) ∧ s.ctl.engine = .running
  · obtain ⟨panel, state, running⟩ := takes
    have first := exec_contact_takes (reports := [r]) panel state running (by simp) (by simp)
    have whole := exec_contact_takes (reports := r :: rest) panel state running (by simp) (by simp; omega)
    have touched := s.takeReport_touched p r
    rw [List.foldl_cons, List.foldl_nil] at first
    rw [List.foldl_cons] at whole
    generalize State.takeReport p s r = w at first whole touched
    generalize s.ctl.messagesSent + messageDue s w = m at first
    have port : (w.dressed p .hunting (s.port p).capability m).port p = (w.port p).dressed .hunting (s.port p).capability :=
      State.dressed_port
    have same : (w.port p).capability = (s.port p).capability := by rw [touched.port]
    have held : (w.port p).state = (s.port p).state := by rw [touched.port]
    have second := exec_contact_takes (s := w.dressed p .hunting (s.port p).capability m) (p := p) (reports := rest)
      (by show ((w.ctl.work.ports[p.val]).cls) = _; rw [touched.ctl]; exact panel) (by rw [port]; show (w.port p).state = _ ∨ (w.port p).state = _; rw [held]; exact state)
      (by show w.ctl.engine = _; rw [touched.ctl]; exact running) one (by omega)
    rw [port, takeReports_dressed rest same, State.dressed_dressed] at second
    exact ⟨_, _, _, first, second, whole, rfl⟩
  · have again : (s.setPort p (s.port p).hunts).port p = (s.port p).hunts := State.port_setPort _ _ _
    refine ⟨_, _, _, exec_contact_discards offline (by simp) (by simp) takes, exec_contact_discards (by rw [again]; exact offline) one
      (by omega) (by rw [again]; exact takes), exec_contact_discards offline (by simp) (by simp; omega) takes, ?_⟩
    rw [again, State.setPort_setPort]
    rfl

end

end Sys2Proof.Machine
end

/-! SUPPORT. The discard counts of a panel with their mirrors, and the zone search (R162, R163, R165). -/
section
namespace Sys2Proof.Machine

section
variable {s : State} {p : Port} {i : Fin 10} {f : Discards → Discards}

/-! ### Discard counts (R163) -/

theorem discardWords_fields {d : Discards} (h : d.inRange) :
    field (place d.unrouted 0 16 ||| place d.closed 16 16) 0 16 = d.unrouted ∧
      field (place d.unrouted 0 16 ||| place d.closed 16 16) 16 16 = d.closed ∧
      field (place d.stray 0 16 ||| place d.malformed 16 16) 0 16 = d.stray ∧
      field (place d.stray 0 16 ||| place d.malformed 16 16) 16 16 = d.malformed := by
  obtain ⟨h0, h1, h2, h3⟩ := h
  rw [field_or_left (field_place_apart _ (by omega)), field_or_right (field_place_apart _ (by omega)),
    field_or_left (field_place_apart _ (by omega)), field_or_right (field_place_apart _ (by omega)),
    field_place_same _ (by omega), field_place_same _ (by omega), field_place_same _ (by omega), field_place_same _ (by omega)]
  omega

theorem State.updateDiscards_port : (s.updateDiscards p f).port p = { s.port p with discards := f (s.port p).discards } :=
  State.port_setPort s p _

/-- A word of discard counts that changes is read as the new counts give it. -/
theorem State.updateDiscards_word (w : Memory.wf s.mem = true) {o v : Nat × Word}
    (h : (o, v) ∈ (discardWords (s.port p).discards).zip (discardWords (f (s.port p).discards))) (ne : o.2 ≠ v.2) :
    (s.updateDiscards p f).word (0x40 + p.val * 8 + v.1) = v.2 := by
  refine readWord_rewriteWords w ?_ ?_ h ne
  · simp [discardWords]
  · intro v hv
    simp only [discardWords, List.mem_cons, List.not_mem_nil, or_false] at hv
    unfold discardAddress
    have := p.isLt
    rcases hv with rfl | rfl <;> dsimp only <;> omega

/-- The mirror of a count that changes shows it (R163). -/
theorem State.updateDiscards_shown (wf : s.wellFormed) (range : (f (s.port p).discards).inRange) :
    s.discardsShown (s.updateDiscards p f) p := by
  have old := (wf.port p).discards
  obtain ⟨o0, o1, o2, o3⟩ := discardWords_fields old
  obtain ⟨n0, n1, n2, n3⟩ := discardWords_fields range
  have first := State.updateDiscards_word (s := s) (p := p) (f := f) wf.memory (o := (0, _)) (v := (0, _)) (List.mem_cons_self)
  have second := State.updateDiscards_word (s := s) (p := p) (f := f) wf.memory (o := (4, _)) (v := (4, _))
    (List.mem_cons_of_mem _ List.mem_cons_self)
  unfold State.discardsShown
  dsimp only
  rw [State.updateDiscards_port]
  refine ⟨fun ne => ?_, fun ne => ?_, fun ne => ?_, fun ne => ?_⟩
  · rw [first fun e => ne (n0.symm.trans ((congrArg (field · 0 16) e.symm).trans o0))]
    exact n0
  · rw [first fun e => ne (n1.symm.trans ((congrArg (field · 16 16) e.symm).trans o1))]
    exact n1
  · rw [second fun e => ne (n2.symm.trans ((congrArg (field · 0 16) e.symm).trans o2))]
    exact n2
  · rw [second fun e => ne (n3.symm.trans ((congrArg (field · 16 16) e.symm).trans o3))]
    exact n3

/-- A change of no count writes nothing. -/
theorem State.updateDiscards_same (h : f (s.port p).discards = (s.port p).discards) : s.updateDiscards p f = s := by
  rw [State.updateDiscards_form, h]
  have words : rewriteWords s.mem (discardAddress p) (discardWords (s.port p).discards) (discardWords (s.port p).discards) = s.mem := by
    unfold rewriteWords discardWords rewriteWord
    simp
  rw [words]
  exact s.setPort_self p

/-! ### Malformed reports (R162, R163) -/

/-- A report that a panel counts as malformed. -/
def State.malforms (s : State) (p : Port) (r : ContactReport) : Prop :=
  r.phase.toNat ∉ [1, 2, 3] ∨ 10 ≤ r.id.toNat ∨
    ∃ h : r.id.toNat < 10, (s.port p).capability ≤ r.id.toNat ∧ s.contact p ⟨r.id.toNat, h⟩ = .none

theorem touchPhaseOfCode_none (n : Nat) : touchPhaseOfCode n = none ↔ n ∉ [1, 2, 3] := by
  match n with
  | 0 => exact ⟨fun _ => by decide, fun _ => rfl⟩
  | 1 => exact ⟨fun h => (Option.some_ne_none _ h).elim, fun h => absurd (by decide) h⟩
  | 2 => exact ⟨fun h => (Option.some_ne_none _ h).elim, fun h => absurd (by decide) h⟩
  | 3 => exact ⟨fun h => (Option.some_ne_none _ h).elim, fun h => absurd (by decide) h⟩
  | n + 4 => exact ⟨fun _ => by simp, fun _ => rfl⟩

theorem State.takeReport_malformed {r : ContactReport} (h : s.malforms p r) : State.takeReport p s r = s.countMalformed p := by
  unfold State.takeReport
  cases phase : touchPhaseOfCode r.phase.toNat with
  | none => rfl
  | some ph =>
    dsimp only
    rcases h with h | h | ⟨known, absent⟩
    · rw [(touchPhaseOfCode_none _).mpr h] at phase
      cases phase
    · exact dif_neg (by omega)
    · rw [dif_pos known]
      exact if_pos absent

/-- A panel's count of malformed reports raised. -/
def Discards.malformedBy (d : Discards) (n : Nat) : Discards := { d with malformed := min 65535 (d.malformed + n) }

theorem State.countMalformed_malforms {r : ContactReport} (h : s.malforms p r) : (s.countMalformed p).malforms p r := by
  have port : (s.countMalformed p).port p = _ := State.updateDiscards_port
  unfold State.malforms State.contact at *
  rw [port]
  exact h

/-- What malformed reports leave: the count risen, and its mirror where it rises. -/
structure MalformedBy (p : Port) (s t : State) (n : Nat) : Prop where
  state : t = { (s.setPort p { s.port p with discards := (s.port p).discards.malformedBy n }) with mem := t.mem }
  shown : (t.port p).discards.malformed ≠ (s.port p).discards.malformed →
    field (t.word (0x40 + p.val * 8 + 4)) 16 16 = (t.port p).discards.malformed
  same : (t.port p).discards.malformed = (s.port p).discards.malformed → t.mem = s.mem
  writes : Writes (within (0x40 + p.val * 8) 8) s.mem t.mem

theorem MalformedBy.port {t : State} {n : Nat} (h : MalformedBy p s t n) :
    t.port p = { s.port p with discards := (s.port p).discards.malformedBy n } := by
  rw [h.state]
  exact State.port_setPort s p _

theorem malformedReports (reports : List ContactReport) : ∀ {s : State}, s.wellFormed → (∀ r ∈ reports, s.malforms p r) →
    MalformedBy p s (reports.foldl (State.takeReport p) s) reports.length := by
  induction reports with
  | nil =>
    intro s wf _
    have range := (wf.port p).discards.malformed
    have none : { s.port p with discards := (s.port p).discards.malformedBy 0 } = s.port p := by
      unfold Discards.malformedBy
      rw [Nat.add_zero, Nat.min_eq_right range]
    refine ⟨?_, fun h => absurd rfl h, fun _ => rfl, .refl _ _⟩
    show s = { (s.setPort p { s.port p with discards := (s.port p).discards.malformedBy 0 }) with mem := s.mem }
    rw [none, State.setPort_self]
  | cons r rest ih =>
    intro s wf malformed
    have first := State.takeReport_malformed (malformed r List.mem_cons_self)
    have wf1 : (s.countMalformed p).wellFormed := by
      rw [← first]
      exact (s.takeReport_kept p r).data wf
    have counted : (s.countMalformed p).port p = { s.port p with discards := (s.port p).discards.malformedBy 1 } :=
      State.updateDiscards_port
    have shown := State.updateDiscards_shown (s := s) (p := p)
      (f := fun d => { d with malformed := saturate max16 d.malformed 1 }) wf (by
        have := (wf1.port p).discards
        rw [counted] at this
        exact this)
    have step : MalformedBy p (s.countMalformed p) ((r :: rest).foldl (State.takeReport p) s) rest.length := by
      rw [List.foldl_cons, first]
      exact ih wf1 fun x hx => State.countMalformed_malforms (malformed x (List.mem_cons_of_mem r hx))
    generalize (r :: rest).foldl (State.takeReport p) s = t at step
    have port := step.port
    have start : (s.port p).discards.malformed ≤ 65535 := (wf.port p).discards.malformed
    have twice : ((s.port p).discards.malformedBy 1).malformedBy rest.length =
        (s.port p).discards.malformedBy (r :: rest).length := by
      unfold Discards.malformedBy
      rw [List.length_cons]
      simp only [Discards.mk.injEq, true_and]
      omega
    rw [counted] at port
    dsimp only at port
    rw [twice] at port
    refine ⟨?_, fun ne => ?_, fun e => ?_, (s.updateDiscards_writes p _).trans step.writes⟩
    · have state := step.state
      rw [counted] at state
      dsimp only at state
      rw [twice] at state
      rw [state]
      exact congrArg (fun u : State => { u with mem := t.mem }) (State.setPort_setPort s p
        { s.port p with discards := (s.port p).discards.malformedBy 1 } _)
    · by_cases later : (t.port p).discards.malformed = ((s.countMalformed p).port p).discards.malformed
      · have kept := step.same later
        have now := shown.2.2.2 (fun e => ne (later.trans e))
        unfold State.word at now ⊢
        rw [kept, later]
        exact now
      · exact step.shown later
    · have still : ((s.countMalformed p).port p).discards.malformed = (s.port p).discards.malformed := by
        rw [port] at e
        rw [counted]
        show min 65535 ((s.port p).discards.malformed + 1) = _
        have : min 65535 ((s.port p).discards.malformed + (rest.length + 1)) = (s.port p).discards.malformed := e
        omega
      have same : s.countMalformed p = s := by
        refine State.updateDiscards_same ?_
        rw [counted] at still
        exact congrArg (fun n => { (s.port p).discards with malformed := n }) still
      exact (step.same (e.trans still.symm)).trans (congrArg State.mem same)

/-! ### The zone search (R165) -/

theorem zoneAt_none {l : List Zone} {x y : Nat} (h : ∀ z ∈ l, zoneContains z x y = false) : ∀ n, zoneAt l x y n = none := by
  induction l with
  | nil => exact fun _ => rfl
  | cons z rest ih =>
    intro n
    unfold zoneAt
    dsimp only
    rw [if_neg (by rw [h z List.mem_cons_self]; exact Bool.noConfusion)]
    exact ih (fun w hw => h w (List.mem_cons_of_mem z hw)) (n + 1)

theorem zoneAt_some {l : List Zone} {x y : Nat} {st : Station} : ∀ (k : Nat) (hk : k < l.length) (n : Nat),
    zoneContains l[k] x y = true → l[k].station = st.val → (∀ j (h : j < k), zoneContains (l[j]'(by omega)) x y = false) →
    zoneAt l x y n = some (n + k, st) := by
  induction l with
  | nil => exact fun k hk => absurd hk (by simp)
  | cons z rest ih =>
    intro k hk n contains station before
    unfold zoneAt
    dsimp only
    cases k with
    | zero =>
      rw [if_pos (by exact contains)]
      have : st.val ≤ 31 := by omega
      refine congrArg some (Prod.ext rfl (Fin.ext ?_))
      show min 31 z.station = st.val
      rw [show z.station = st.val from station]
      omega
    | succ k =>
      rw [if_neg (by rw [show zoneContains z x y = false from before 0 (by omega)]; exact Bool.noConfusion)]
      have later := ih k (by simpa using hk) (n + 1) contains station fun j h => before (j + 1) (by omega)
      rw [later, show n + 1 + k = n + (k + 1) by omega]

theorem zoneContains_iff (z : Zone) (x y : Nat) : zoneContains z x y = true ↔
    z.enabled = true ∧ z.station ≤ 31 ∧ z.x0 ≤ x ∧ x ≤ z.x1 ∧ z.y0 ≤ y ∧ y ≤ z.y1 := by
  unfold zoneContains
  rw [Bool.and_eq_true, Bool.and_eq_true, decide_eq_true_iff, decide_eq_true_iff, and_assoc]

end

end Sys2Proof.Machine
end

/-! SUPPORT. The effects of one contact report (R165 to R174). -/
section
namespace Sys2Proof.Machine

/-- What a record shows of a report that is written (R170, R171). -/
def Recorded (s t : State) (p : Port) (i : Fin 10) (st : Station) (k : Fin 4) (zone x y pressure : Nat) : Prop :=
  (t.mailbox st k).key = some (p, i) ∧ (t.mailbox st k).seq = (s.mailbox st k).seq + 2 ∧
    t.word (mailboxAddress st k) = ((s.mailbox st k).seq + 2).setWidth 32 ∧
    field (t.word (mailboxAddress st k + 0x08)) 0 4 = i.val ∧ field (t.word (mailboxAddress st k + 0x08)) 4 4 = p.val ∧
    field (t.word (mailboxAddress st k + 0x08)) 16 8 = zone % 256 ∧
    field (t.word (mailboxAddress st k + 0x0C)) 0 12 = x ∧ field (t.word (mailboxAddress st k + 0x0C)) 12 12 = y ∧
    field (t.word (mailboxAddress st k + 0x0C)) 24 8 = pressure

section
variable {s t u : State} {p : Port} {i : Fin 10} {st : Station} {k : Fin 4} {new : Bool} {zone x y pressure : Nat}

theorem Recorded.congr (h : Recorded s t p i st k zone x y pressure) (mailboxes : u.mailboxes = t.mailboxes) (mem : u.mem = t.mem) :
    Recorded s u p i st k zone x y pressure := by
  unfold Recorded State.word State.mailbox at *
  rw [mailboxes, mem]
  exact h

theorem State.mailboxWrite_recorded (wf : s.wellFormed) {m : MailReport} (key : m.key = (p, i)) (hx : m.x ≤ 4095) (hy : m.y ≤ 4095)
    (hp : m.pressure ≤ 255) : Recorded s (s.mailboxWrite st k new m) p i st k m.zone m.x m.y m.pressure := by
  obtain ⟨seq, holds, -, -, -, -, -, -, -, word, -, position, contact, port, zone, -⟩ := mailboxWritesKeepTheAck.1 s st k new m wf
  obtain ⟨fx, fy, fp⟩ := position hx hy hp
  rw [key] at holds contact port
  exact ⟨holds, seq, word, contact, port, zone, fx, fy, fp⟩

/-! ### A new contact with its record (R168) -/

/-- What a record shows of a contact that it takes. -/
def Landed (s t : State) (p : Port) (i : Fin 10) (st : Station) (k : Fin 4) (new synthetic : Bool) (zone x y pressure : Nat) : Prop :=
  Recorded s t p i st k zone x y pressure ∧ (t.mailbox st k).lifted = false ∧ (t.mailbox st k).events.down = true ∧
    (synthetic = true → (t.mailbox st k).synthetic = true) ∧
    (synthetic = false → new = true → (t.mailbox st k).synthetic = false) ∧ t.stations = s.stations ∧
    s.memoryKept t fun a => mailboxBytes st a

theorem Landed.congr {synthetic : Bool} (h : Landed s t p i st k new synthetic zone x y pressure) (mailboxes : u.mailboxes = t.mailboxes)
    (mem : u.mem = t.mem) (stations : u.stations = t.stations) : Landed s u p i st k new synthetic zone x y pressure := by
  obtain ⟨recorded, lifted, down, set, clear, counters, kept⟩ := h
  unfold State.mailbox at lifted down set clear
  rw [← mailboxes] at lifted down set clear
  exact ⟨recorded.congr mailboxes mem, lifted, down, set, clear, stations.trans counters, fun a ha => by rw [mem]; exact kept a ha⟩

/-- The report of a new contact, as its record takes it. -/
def downReport (p : Port) (i : Fin 10) (zone : Nat) (synthetic : Bool) (x y pressure : Nat) : MailReport :=
  { key := (p, i), zone, phase := .down, synthetic, x, y, pressure }

theorem State.mailboxWrite_lands {synthetic : Bool} (wf : s.wellFormed) (hx : x ≤ 4095) (hy : y ≤ 4095) (hp : pressure ≤ 255) :
    Landed s (s.mailboxWrite st k new (downReport p i zone synthetic x y pressure)) p i st k new synthetic zone x y pressure := by
  obtain ⟨-, -, -, lifted, -, down, -, -, syn, -⟩ :=
    mailboxWritesKeepTheAck.1 s st k new (downReport p i zone synthetic x y pressure) wf
  refine ⟨State.mailboxWrite_recorded wf rfl hx hy hp, lifted rfl, down.mpr (.inl rfl), fun set => syn.mpr (.inl set), fun clear fresh => ?_,
    by simp, fun a ha => (s.mailboxWrite_writes st k new _).kept wf.memory a ha⟩
  rw [← Bool.not_eq_true]
  intro h
  rcases syn.mp h with h | ⟨old, -⟩
  · exact Bool.noConfusion (clear.symm.trans h)
  · exact old (.inl fresh)

theorem State.deliver_zone {synthetic : Bool} (chosen : s.chooseRecord st (p, i) = some (k, new)) :
    s.deliver p i st zone none synthetic x y pressure = (s.mailboxWrite st k new (downReport p i zone synthetic x y pressure)).setContact p i
      (.zone { station := st, zone, record := k, x, y, pressure }) := by
  unfold State.deliver
  rw [chosen]
  rfl

theorem State.deliver_hold {synthetic : Bool} {g : Slot} (chosen : s.chooseRecord st (p, i) = some (k, new)) :
    s.deliver p i st zone (some g) synthetic x y pressure =
      ((s.mailboxWrite st k new (downReport p i zone synthetic x y pressure)).setContact p i
        (.hold { station := st, zone, record := k, x, y, pressure })).updateJob g fun j =>
          { j with contactsDelivered := saturate max16 j.contactsDelivered 1 } := by
  unfold State.deliver
  rw [chosen]
  rfl

/-- A contact without a record is DROPPED (R172). -/
def State.drops (s : State) (p : Port) (i : Fin 10) (st : Station) : State :=
  (s.setContact p i .dropped).updateCounters st .scores fun c => { c with overflow := saturate max16 c.overflow 1 }

theorem State.deliver_drops {synthetic : Bool} {holder : Option Slot} (full : s.chooseRecord st (p, i) = none) :
    s.deliver p i st zone holder synthetic x y pressure = s.drops p i st := by
  unfold State.deliver
  rw [full]
  rfl

theorem State.contact_setContact (s : State) (p : Port) (i : Fin 10) (c : Contact) : (s.setContact p i c).contact p i = c := by
  have own : (s.setContact p i c).port p = { s.port p with contacts := (s.port p).contacts.set i.val c } := State.port_setPort s p _
  unfold State.contact
  rw [own]
  exact Vector.getElem_set_self i.isLt

theorem State.drops_counters : ((s.drops p i st).counters st) =
    { s.counters st with overflow := saturate max16 (s.counters st).overflow 1 } := State.counters_updateCounters _ st _ _

theorem State.drops_shown (wf : s.wellFormed) : (s.drops p i st).scoresShown st := by
  have dropped : (s.setContact p i .dropped).wellFormed := (s.setContact_kept p i .dropped).data wf
  have later : (s.drops p i st).wellFormed := (State.updateCounters_kept (s.setContact p i .dropped) st .scores
    (fun c => { c with overflow := saturate max16 c.overflow 1 }) fun _ h => { h with overflow := saturate_le _ _ _ }).data dropped
  refine State.scoresShown_of (later.counters st) ?_
  have := stationAddress_bounds st
  have memory : Memory.wf ((s.setContact p i .dropped).setCounters st
      { s.counters st with overflow := saturate max16 (s.counters st).overflow 1 }).mem = true := wf.memory
  have word := State.word_putWord memory (a := stationAddress st + 0x0C) (by omega)
    (scoreWord { s.counters st with overflow := saturate max16 (s.counters st).overflow 1 })
  rw [State.drops_counters]
  exact word

theorem State.drops_stationsKept : s.stationsKept (s.drops p i st) [st] :=
  fun r hr => State.counters_updateCounters_ne _ (fun e => hr (List.mem_singleton.mpr e)) _ _

end

/-! ### One report at a panel that takes it (R167) -/

section
variable {s : State} {p : Port} {i : Fin 10} {r : ContactReport} {phase : TouchPhase} {st : Station} {k : Fin 4} {new : Bool}
  {c : Capture} {g : Slot}

/-- A panel that takes a report of a contact id: one below its contact count, or of a known contact (R162). -/
structure Takes (s : State) (p : Port) (i : Fin 10) (r : ContactReport) : Prop where
  panel : (s.portConfig p).cls = .panel
  state : (s.port p).state = .free ∨ (s.port p).state = .serving
  running : s.ctl.engine = .running
  id : r.id.toNat = i.val
  known : i.val < (s.port p).capability ∨ s.contact p i ≠ .none

theorem Takes.acts (h : Takes s p i r) (code : touchPhaseOfCode r.phase.toNat = some phase) :
    State.takeReport p s r = s.touch p i phase (min 4095 r.x.toNat) (min 4095 r.y.toNat) r.pressure.toNat := by
  have id := h.id
  have low : r.id.toNat < 10 := by omega
  have same : (⟨r.id.toNat, low⟩ : Fin 10) = i := Fin.ext id
  unfold State.takeReport
  rw [code]
  dsimp only
  rw [dif_pos low, same]
  refine if_neg fun k => ?_
  rcases h.known with below | held
  · omega
  · exact held k.2

/-- The report acts on the contact table; its panel hunts for the next frame, and the message of the event is due. -/
theorem Takes.exec (h : Takes s p i r) (code : touchPhaseOfCode r.phase.toNat = some phase) :
    exec (.contactFrame p [r]) s = .next
      ((s.touch p i phase (min 4095 r.x.toNat) (min 4095 r.y.toNat) r.pressure.toNat).dressed p .hunting (s.port p).capability
        (s.ctl.messagesSent + messageDue s (s.touch p i phase (min 4095 r.x.toNat) (min 4095 r.y.toNat) r.pressure.toNat))) := by
  have run := exec_contact_takes (reports := [r]) h.panel h.state h.running (by simp) (by simp)
  rw [List.foldl_cons, List.foldl_nil, h.acts code] at run
  exact run

/-- A report that raises a discard count alone. -/
theorem Takes.discards (h : Takes s p i r) (code : touchPhaseOfCode r.phase.toNat = some phase) (wf : s.wellFormed)
    {f : Discards → Discards} (act : s.touch p i phase (min 4095 r.x.toNat) (min 4095 r.y.toNat) r.pressure.toNat = s.updateDiscards p f) :
    ∃ t, Machine.exec (.contactFrame p [r]) s = .next t ∧
      t = { (s.setPort p { s.port p with receiver := .hunting, discards := f (s.port p).discards }) with mem := t.mem } ∧
      s.discardsShown t p ∧ s.memoryKept t fun a => within (0x40 + p.val * 8) 8 a := by
  have run := h.exec code
  have range : (f (s.port p).discards).inRange := by
    have kept := ((s.takeReport_kept p r).data wf).port p
    rw [h.acts code, act, State.updateDiscards_port] at kept
    exact kept.discards
  rw [act] at run
  have due : messageDue s (s.updateDiscards p f) = 0 := messageDue_self _ _ (request_congr rfl rfl rfl)
  rw [due] at run
  have port : ((s.updateDiscards p f).dressed p .hunting (s.port p).capability (s.ctl.messagesSent + 0)).port p =
      ((s.updateDiscards p f).port p).dressed .hunting (s.port p).capability := State.dressed_port
  have twice (y z : PortRecord) (m : Memory) : ({ s with mem := m } : State).setPort p z =
      (({ s with mem := m } : State).setPort p y).setPort p z := (State.setPort_setPort _ p y z).symm
  refine ⟨_, run, ?_, ?_, (s.updateDiscards_writes p f).kept wf.memory⟩
  · refine Eq.trans ?_ (twice { s.port p with discards := f (s.port p).discards } _ (s.updateDiscards p f).mem).symm
    unfold State.dressed
    rw [State.updateDiscards_port]
    rfl
  · have shown := State.updateDiscards_shown wf range
    unfold State.discardsShown at shown ⊢
    rw [port]
    exact shown

end

end Sys2Proof.Machine
end

/-! The obligation about contact reports, entry by entry and phase by phase. -/
section
namespace Sys2Proof.Machine

section
variable {s : State} {p : Port} {i : Fin 10} {r : ContactReport} {phase : TouchPhase} {st : Station} {k : Fin 4} {new : Bool}
  {c : Capture} {g : Slot}

/-- The state behind an event is that of the touch router but for the receiver and the messages. -/
structure Follows (p : Port) (s w t : State) : Prop where
  mailboxes : t.mailboxes = w.mailboxes
  mem : t.mem = w.mem
  slots : t.slots = w.slots
  stations : t.stations = w.stations
  queues : t.queues = w.queues
  stationNotice : t.stationNotice = w.stationNotice
  contact : ∀ j, t.contact p j = w.contact p j
  notice : t.notice = s.notice
  portsKept : s.portsKept t [p]

theorem Takes.follows (h : Takes s p i r) (code : touchPhaseOfCode r.phase.toNat = some phase) : ∃ t,
    Machine.exec (.contactFrame p [r]) s = .next t ∧
      Follows p s (s.touch p i phase (min 4095 r.x.toNat) (min 4095 r.y.toNat) r.pressure.toNat) t := by
  have touched := s.touch_touched p i phase (min 4095 r.x.toNat) (min 4095 r.y.toNat) r.pressure.toNat
  refine ⟨_, h.exec code, rfl, rfl, rfl, rfl, rfl, rfl, fun j => State.dressed_contact, touched.notice, fun x hx => ?_⟩
  exact (State.dressed_port_ne fun e => hx (List.mem_singleton.mpr e)).trans (touched.ports x hx)

/-- A MOVE of no contact acts as a DOWN that was lost (R167). -/
theorem newContact_of_phase (h : r.phase = 1 ∨ r.phase = 2) (absent : s.contact p i = .none) : ∃ phase synthetic,
    touchPhaseOfCode r.phase.toNat = some phase ∧ (r.phase = 2 → synthetic = true) ∧ (r.phase = 1 → synthetic = false) ∧
      ∀ x y pressure, s.touch p i phase x y pressure = s.newContact p i synthetic x y pressure := by
  rcases h with h | h
  · refine ⟨.down, false, by rw [h]; rfl, fun k => absurd (h.symm.trans k) (by decide), fun _ => rfl, fun x y pressure => ?_⟩
    unfold State.touch
    rw [absent]
  · refine ⟨.move, true, by rw [h]; rfl, fun _ => rfl, fun k => absurd (h.symm.trans k) (by decide), fun x y pressure => ?_⟩
    unfold State.touch
    rw [absent]

/-! ### At a FREE panel (R165) -/

theorem State.holdOf_free (free : (s.port p).state = .free) : s.holdOf p = none :=
  if_neg fun k => by rw [free] at k; exact PortState.noConfusion k.1

theorem State.newContact_unrouted {synthetic : Bool} {x y pressure : Nat} (free : (s.port p).state = .free)
    (outside : ∀ z : Fin 16, zoneContains (s.port p).zones[z.val] x y = false) :
    s.newContact p i synthetic x y pressure = s.countUnrouted p := by
  unfold State.newContact
  rw [State.holdOf_free free]
  dsimp only
  rw [zoneAt_none fun z hz => ?_]
  obtain ⟨n, hn, e⟩ := List.getElem_of_mem hz
  rw [← e]
  exact outside ⟨n, by simpa using hn⟩

theorem State.newContact_zone {synthetic : Bool} {x y pressure : Nat} {z : Fin 16} (free : (s.port p).state = .free)
    (contains : zoneContains (s.port p).zones[z.val] x y = true) (station : (s.port p).zones[z.val].station = st.val)
    (first : ∀ w, w < z → zoneContains (s.port p).zones[w.val] x y = false) :
    s.newContact p i synthetic x y pressure = if (s.sample st).state = .closed then s.countClosed p
      else s.deliver p i st z.val none synthetic x y pressure := by
  unfold State.newContact
  rw [State.holdOf_free free]
  dsimp only
  have found := zoneAt_some (l := (s.port p).zones.toList) (x := x) (y := y) (st := st) z.val (by simp) 0 (by simpa using contains)
    (by simpa using station) fun j hj => by simpa using first ⟨j, by omega⟩ hj
  rw [found, Nat.zero_add]

theorem State.newContact_held {synthetic : Bool} {x y pressure : Nat} (serves : (s.port p).state = .serving)
    (panel : (s.portConfig p).cls = .panel) (job : (s.port p).job = some g) :
    s.newContact p i synthetic x y pressure = s.deliver p i (stationOf g) 255 (some g) synthetic x y pressure := by
  have hold : s.holdOf p = some g := (if_pos ⟨serves, panel⟩).trans job
  unfold State.newContact
  rw [hold]

/-- A contact that has no record becomes DROPPED, and the overflow is counted (R172). -/
theorem Takes.drops (h : Takes s p i r) (wf : s.wellFormed) (code : touchPhaseOfCode r.phase.toNat = some phase)
    (act : s.touch p i phase (min 4095 r.x.toNat) (min 4095 r.y.toNat) r.pressure.toNat = s.drops p i st) : ∃ t,
    Machine.exec (.contactFrame p [r]) s = .next t ∧ t.contact p i = .dropped ∧ t.mailboxes = s.mailboxes ∧ t.slots = s.slots ∧
      t.queues = s.queues ∧ t.notice = s.notice ∧ (t.counters st).overflow = min 65535 ((s.counters st).overflow + 1) ∧
      t.scoresShown st ∧ s.stationsKept t [st] ∧ s.portsKept t [p] := by
  obtain ⟨t, run, follows⟩ := h.follows code
  rw [act] at follows
  have counters (x : Station) : t.counters x = (s.drops p i st).counters x := by
    unfold State.counters
    rw [follows.stations]
  refine ⟨t, run, (follows.contact i).trans (s.contact_setContact p i _), follows.mailboxes, follows.slots, follows.queues, follows.notice, ?_,
    ?_, fun x hx => (counters x).trans (State.drops_stationsKept x hx), follows.portsKept⟩
  · rw [counters, State.drops_counters]
    rfl
  · refine (State.drops_shown wf (p := p) (i := i)).congr (counters st) ?_
    unfold State.word
    rw [follows.mem]

/-- A contact that takes a record of a station (R168). -/
theorem Takes.lands (h : Takes s p i r) (wf : s.wellFormed) {synthetic : Bool} {zone : Nat} (code : touchPhaseOfCode r.phase.toNat = some phase)
    {w : State} {entry : Contact} (act : s.touch p i phase (min 4095 r.x.toNat) (min 4095 r.y.toNat) r.pressure.toNat = w)
    (mailboxes : w.mailboxes = (s.mailboxWrite st k new
      (downReport p i zone synthetic (min 4095 r.x.toNat) (min 4095 r.y.toNat) r.pressure.toNat)).mailboxes)
    (mem : w.mem = (s.mailboxWrite st k new
      (downReport p i zone synthetic (min 4095 r.x.toNat) (min 4095 r.y.toNat) r.pressure.toNat)).mem)
    (stations : w.stations = s.stations) (contact : w.contact p i = entry) : ∃ t,
    Machine.exec (.contactFrame p [r]) s = .next t ∧ t.contact p i = entry ∧
      Landed s t p i st k new synthetic zone (min 4095 r.x.toNat) (min 4095 r.y.toNat) r.pressure.toNat ∧
      t.slots = w.slots ∧ t.queues = w.queues ∧ t.notice = s.notice ∧ s.portsKept t [p] := by
  obtain ⟨t, run, follows⟩ := h.follows code
  rw [act] at follows
  have bound : r.pressure.toNat ≤ 255 := by have := r.pressure.isLt; omega
  have landed := State.mailboxWrite_lands (s := s) (p := p) (i := i) (st := st) (k := k) (new := new) (zone := zone)
    (synthetic := synthetic) wf (Nat.min_le_left 4095 r.x.toNat) (Nat.min_le_left 4095 r.y.toNat) bound
  exact ⟨t, run, (follows.contact i).trans contact, landed.congr (follows.mailboxes.trans mailboxes) (follows.mem.trans mem)
    ((follows.stations.trans stations).trans (by simp)), follows.slots, follows.queues, follows.notice, follows.portsKept⟩

end

end Sys2Proof.Machine
end

/-! The obligation about contact reports, entry by entry and phase by phase. -/
section
namespace Sys2Proof.Machine

section
variable {s : State} {p : Port} {i : Fin 10} {r : ContactReport} {phase : TouchPhase} {st : Station} {k : Fin 4} {new : Bool}
  {c : Capture} {g : Slot}

/-! ### Captured contacts (R167, R169) -/

/-- How a captured contact is kept with another position. -/
def Contact.movedTo (entry : Contact) (c : Capture) : Contact :=
  match entry with
  | .hold _ => .hold c
  | _ => .zone c

/-- The report of a captured contact, as its record takes it. -/
def capturedMail (p : Port) (i : Fin 10) (c : Capture) (phase : TouchPhase) (x y pressure : Nat) : MailReport :=
  { key := (p, i), zone := c.zone, phase, synthetic := false, x, y, pressure }

theorem State.touch_up {x y pressure : Nat} (h : s.contact p i = .zone c ∨ s.contact p i = .hold c) :
    s.touch p i .up x y pressure =
      (s.mailboxWrite c.station c.record false (capturedMail p i c .up x y pressure)).setContact p i .none := by
  unfold State.touch
  rcases h with h | h <;> rw [h] <;> rfl

theorem State.touch_move {x y pressure : Nat} (h : s.contact p i = .zone c ∨ s.contact p i = .hold c) :
    s.touch p i .move x y pressure =
      (s.mailboxWrite c.station c.record false (capturedMail p i c .move x y pressure)).setContact p i
        ((s.contact p i).movedTo { c with x, y, pressure }) := by
  unfold State.touch
  rcases h with h | h <;> rw [h] <;> rfl

theorem State.touch_again {x y pressure : Nat} (h : s.contact p i = .zone c ∨ s.contact p i = .hold c) :
    s.touch p i .down x y pressure = ((s.syntheticUp p i c).setContact p i .none).newContact p i false x y pressure := by
  unfold State.touch
  rcases h with h | h <;> rw [h] <;> rfl

theorem State.touch_lost {x y pressure : Nat} (h : s.contact p i = .orphan ∨ s.contact p i = .dropped) :
    s.touch p i .down x y pressure = (s.setContact p i .none).newContact p i false x y pressure ∧
      s.touch p i .move x y pressure = s ∧ s.touch p i .up x y pressure = s.setContact p i .none := by
  unfold State.touch
  rcases h with h | h <;> rw [h] <;> exact ⟨rfl, rfl, rfl⟩

/-- The record and the bytes of a report of a captured contact. -/
theorem Takes.written (h : Takes s p i r) (wf : s.wellFormed) (code : touchPhaseOfCode r.phase.toNat = some phase) {entry : Contact}
    (act : s.touch p i phase (min 4095 r.x.toNat) (min 4095 r.y.toNat) r.pressure.toNat = (s.mailboxWrite c.station c.record false
      (capturedMail p i c phase (min 4095 r.x.toNat) (min 4095 r.y.toNat) r.pressure.toNat)).setContact p i entry) : ∃ t,
    Machine.exec (.contactFrame p [r]) s = .next t ∧ t.contact p i = entry ∧
      Recorded s t p i c.station c.record c.zone (min 4095 r.x.toNat) (min 4095 r.y.toNat) r.pressure.toNat ∧
      (phase = .up → (t.mailbox c.station c.record).lifted = true ∧ (t.mailbox c.station c.record).events.up = true) ∧
      (phase = .move → (t.mailbox c.station c.record).events.moved = true ∧
        (t.mailbox c.station c.record).lifted = (s.mailbox c.station c.record).lifted ∧ t.stationNotice = s.stationNotice) ∧
      t.slots = s.slots ∧ s.portsKept t [p] ∧ s.memoryKept t fun a => mailboxBytes c.station a := by
  obtain ⟨t, run, follows⟩ := h.follows code
  rw [act] at follows
  obtain ⟨m, hm⟩ : ∃ m, m = capturedMail p i c phase (min 4095 r.x.toNat) (min 4095 r.y.toNat) r.pressure.toNat := ⟨_, rfl⟩
  have bound : r.pressure.toNat ≤ 255 := by have := r.pressure.isLt; omega
  have recorded := State.mailboxWrite_recorded (s := s) (p := p) (i := i) (st := c.station) (k := c.record) (new := false) wf (m := m)
    (by rw [hm]; rfl) (by rw [hm]; exact Nat.min_le_left _ _) (by rw [hm]; exact Nat.min_le_left _ _) (by rw [hm]; exact bound)
  obtain ⟨-, -, up, -, move, -, moved, upped, -⟩ := mailboxWritesKeepTheAck.1 s c.station c.record false m wf
  have box : t.mailbox c.station c.record = (s.mailboxWrite c.station c.record false m).mailbox c.station c.record := by
    unfold State.mailbox
    rw [follows.mailboxes, hm]
    rfl
  have mem : t.mem = (s.mailboxWrite c.station c.record false m).mem := by rw [follows.mem, hm]; rfl
  have mailboxes : t.mailboxes = (s.mailboxWrite c.station c.record false m).mailboxes := by rw [follows.mailboxes, hm]; rfl
  have phaseIs : m.phase = phase := by rw [hm]; rfl
  have shown : Recorded s t p i c.station c.record m.zone m.x m.y m.pressure := recorded.congr mailboxes mem
  rw [phaseIs] at up move moved upped
  refine ⟨t, run, (follows.contact i).trans (State.contact_setContact _ p i entry), by rw [hm] at shown; exact shown,
    fun e => ⟨by rw [box]; exact up e, by rw [box]; exact upped.mpr (.inl e)⟩, fun e => ⟨by rw [box]; exact moved.mpr (.inl e),
      by rw [box]; exact move e, ?_⟩, follows.slots.trans (by simp), follows.portsKept, fun a ha => ?_⟩
  · have quiet : (s.mailboxWrite c.station c.record false m).stationNotice = s.stationNotice := by
      rw [State.mailboxWrite_stationNotice, phaseIs, e]
      exact if_neg fun k => Bool.noConfusion k.1
    rw [follows.stationNotice, ← hm]
    exact quiet
  · rw [mem]
    exact (s.mailboxWrite_writes c.station c.record false m).kept wf.memory a ha

/-! ### A repeated DOWN (R167) -/

theorem State.dressed_receiver (x : State) (p : Port) (cap n : Nat) : ({ (x.setPort p { x.port p with capability := cap }) with
    ctl := { x.ctl with messagesSent := n } } : State) = x.dressed p (x.port p).receiver cap n := rfl

/-- A state is dressed anew by its capability and its messages. -/
theorem State.dressed_restored (w : State) (p : Port) (cap cap' n n' : Nat) : w.dressed p .hunting cap' n' =
    { ((w.dressed p .hunting cap n).setPort p { (w.dressed p .hunting cap n).port p with capability := cap' }) with
      ctl := { (w.dressed p .hunting cap n).ctl with messagesSent := n' } } := by
  have receiver : ((w.dressed p .hunting cap n).port p).receiver = .hunting := by rw [State.dressed_port]; rfl
  rw [State.dressed_receiver, receiver, State.dressed_dressed]

/-- A repeated DOWN acts as the end of the old contact, and then as a new contact's DOWN. -/
theorem Takes.repeats (h : Takes s p i r) (one : r.phase = 1) {before : State}
    (act : ∀ x y pressure, s.touch p i .down x y pressure = (before.setContact p i .none).newContact p i false x y pressure)
    (touched : Touched p s before) (contacts : before.ports = s.ports) : ∃ t u,
    Machine.exec (.contactFrame p [r]) s = .next t ∧
      Machine.exec (.contactFrame p [r]) (before.setPort p { s.port p with
        contacts := (s.port p).contacts.set i.val .none, capability := 10 }) = .next u ∧
      t = { (u.setPort p { u.port p with capability := (s.port p).capability }) with
        ctl := { u.ctl with messagesSent := t.ctl.messagesSent } } := by
  have code : touchPhaseOfCode r.phase.toNat = some .down := by rw [one]; rfl
  have port : before.port p = s.port p := by
    unfold State.port
    rw [contacts]
  obtain ⟨b, hb⟩ : ∃ b, b = before.setContact p i .none := ⟨_, rfl⟩
  have own : b.port p = { s.port p with contacts := (s.port p).contacts.set i.val .none } := by
    rw [hb]
    unfold State.setContact State.modifyPort
    rw [State.port_setPort, port]
  have ended : before.setPort p { s.port p with contacts := (s.port p).contacts.set i.val .none, capability := 10 } =
      b.dressed p (s.port p).receiver 10 b.ctl.messagesSent := by
    unfold State.dressed
    rw [own, hb]
    unfold State.setContact State.modifyPort
    refine Eq.symm ?_
    exact State.setPort_setPort before p _ _
  have again : Takes (b.dressed p (s.port p).receiver 10 b.ctl.messagesSent) p i r := by
    have ctl : b.ctl = s.ctl := by rw [hb]; exact touched.ctl
    refine ⟨?_, ?_, ?_, h.id, .inl ?_⟩
    · show (b.ctl.work.ports[p.val]).cls = _
      rw [ctl]
      exact h.panel
    · rw [State.dressed_port, own]
      exact h.state
    · show b.ctl.engine = _
      rw [ctl]
      exact h.running
    · rw [State.dressed_port]
      exact i.isLt
  have absent : b.contact p i = .none := by rw [hb]; exact before.contact_setContact p i .none
  have run := h.exec code
  have rerun := again.exec code
  have fresh (x y pressure : Nat) : b.touch p i .down x y pressure = b.newContact p i false x y pressure := by
    unfold State.touch
    rw [absent]
  rw [State.touch_dressed, fresh] at rerun
  rw [act, ← hb] at run
  rw [ended]
  refine ⟨_, _, run, rerun, ?_⟩
  rw [State.dressed_dressed]
  generalize b.newContact p i false (min 4095 r.x.toNat) (min 4095 r.y.toNat) r.pressure.toNat = w
  exact w.dressed_restored p _ _ _ _

end

end Sys2Proof.Machine
end

/-! The obligation about contact reports, entry by entry and phase by phase. -/
section
namespace Sys2Proof.Machine

section
variable {s : State} {p : Port} {i : Fin 10} {r : ContactReport} {reports : List ContactReport}

/-- Malformed reports are counted, and do nothing else (R162, R163). -/
theorem exec_malformed (wf : s.wellFormed) (one : 1 ≤ reports.length) (most : reports.length ≤ 10)
    (panel : (s.portConfig p).cls = .panel) (state : (s.port p).state = .free ∨ (s.port p).state = .serving)
    (running : s.ctl.engine = .running) (malformed : ∀ x ∈ reports, s.malforms p x) : ∃ t,
    exec (.contactFrame p reports) s = .next t ∧
      t = { (s.setPort p { s.port p with
        receiver := .hunting
        discards := { (s.port p).discards with malformed := min 65535 ((s.port p).discards.malformed + reports.length) } }) with
        mem := t.mem } ∧
      s.discardsShown t p ∧ s.memoryKept t fun a => within (0x40 + p.val * 8) 8 a := by
  have run := exec_contact_takes panel state running one most
  have counts := malformedReports (p := p) reports wf malformed
  generalize reports.foldl (State.takeReport p) s = u at run counts
  have due : messageDue s u = 0 := messageDue_self s u (by rw [counts.state]; rfl)
  rw [due, Nat.add_zero] at run
  have port : (u.dressed p .hunting (s.port p).capability s.ctl.messagesSent).port p =
      (u.port p).dressed .hunting (s.port p).capability := State.dressed_port
  have twice (y z : PortRecord) (m : Memory) : ({ (s.setPort p y) with mem := m } : State).setPort p z =
      ({ s with mem := m } : State).setPort p z := State.setPort_setPort ({ s with mem := m } : State) p y z
  refine ⟨_, run, ?_, ?_, fun a ha => counts.writes.kept wf.memory a ha⟩
  · have own := counts.port
    have state := counts.state
    generalize u.mem = m at state
    subst state
    unfold State.dressed
    rw [own]
    exact twice { s.port p with discards := (s.port p).discards.malformedBy reports.length } _ m
  · unfold State.discardsShown
    dsimp only
    rw [port]
    have own := counts.port
    refine ⟨fun ne => ?_, fun ne => ?_, fun ne => ?_, counts.shown⟩ <;> exact absurd (by
      show _ = _
      rw [own]
      rfl) ne

/-- A new contact of a FREE panel in a zone of a station that is not CLOSED (R165, R168). -/
theorem Takes.zone {z : Fin 16} {st : Station} (h : Takes s p i r) (wf : s.wellFormed) (free : (s.port p).state = .free)
    (phases : r.phase = 1 ∨ r.phase = 2) (absent : s.contact p i = .none)
    (routed : ∀ synthetic, s.newContact p i synthetic (min 4095 r.x.toNat) (min 4095 r.y.toNat) r.pressure.toNat =
      s.deliver p i st z.val none synthetic (min 4095 r.x.toNat) (min 4095 r.y.toNat) r.pressure.toNat) : ∃ t,
    Machine.exec (.contactFrame p [r]) s = .next t ∧
      (∀ k new, s.chooseRecord st (p, i) = some (k, new) →
        t.contact p i = .zone {
          station := st, zone := z.val, record := k, x := min 4095 r.x.toNat, y := min 4095 r.y.toNat, pressure := r.pressure.toNat } ∧
        ∃ synthetic, (r.phase = 2 → synthetic = true) ∧ (r.phase = 1 → synthetic = false) ∧
          Landed s t p i st k new synthetic z.val (min 4095 r.x.toNat) (min 4095 r.y.toNat) r.pressure.toNat) ∧
      (s.chooseRecord st (p, i) = none → t.contact p i = .dropped ∧ t.mailboxes = s.mailboxes ∧
        (t.counters st).overflow = min 65535 ((s.counters st).overflow + 1) ∧ t.scoresShown st) ∧
      s.portsKept t [p] ∧ t.slots = s.slots ∧ t.queues = s.queues ∧ t.notice = s.notice := by
  obtain ⟨phase, synthetic, code, set, clear, act⟩ := newContact_of_phase phases absent
  have acts := (act (min 4095 r.x.toNat) (min 4095 r.y.toNat) r.pressure.toNat).trans (routed synthetic)
  cases chosen : s.chooseRecord st (p, i) with
  | none =>
    rw [State.deliver_drops chosen] at acts
    obtain ⟨t, run, contact, mailboxes, slots, queues, notice, overflow, shown, -, ports⟩ := h.drops wf code acts
    refine ⟨t, run, fun k new e => ?_, fun _ => ⟨contact, mailboxes, overflow, shown⟩, ports, slots, queues, notice⟩
    cases e
  | some found =>
    rw [State.deliver_zone chosen] at acts
    obtain ⟨t, run, contact, landed, slots, queues, notice, ports⟩ := h.lands wf code acts rfl rfl (State.mailboxWrite_stations ..)
      (State.contact_setContact _ p i _)
    refine ⟨t, run, fun k new e => ?_, fun e => by (cases e), ports, slots.trans (State.mailboxWrite_slots ..),
      queues.trans (State.mailboxWrite_queues ..), notice⟩
    cases e
    exact ⟨contact, synthetic, set, clear, landed⟩

/-- A new contact of a panel that serves a hold goes to the holder (R168). -/
theorem Takes.hold {g : Slot} {k : Fin 4} {new : Bool} (h : Takes s p i r) (wf : s.wellFormed) (serves : (s.port p).state = .serving)
    (job : (s.port p).job = some g) (phases : r.phase = 1 ∨ r.phase = 2) (absent : s.contact p i = .none)
    (chosen : s.chooseRecord (stationOf g) (p, i) = some (k, new)) : ∃ t synthetic, Machine.exec (.contactFrame p [r]) s = .next t ∧
      (r.phase = 2 → synthetic = true) ∧ (r.phase = 1 → synthetic = false) ∧
      t.contact p i = .hold {
        station := stationOf g, zone := 255, record := k, x := min 4095 r.x.toNat, y := min 4095 r.y.toNat, pressure := r.pressure.toNat } ∧
      Landed s t p i (stationOf g) k new synthetic 255 (min 4095 r.x.toNat) (min 4095 r.y.toNat) r.pressure.toNat ∧
      t.job g = { s.job g with contactsDelivered := min 65535 ((s.job g).contactsDelivered + 1) } ∧
      s.slotsKept t [g] ∧ s.portsKept t [p] := by
  obtain ⟨phase, synthetic, code, set, clear, act⟩ := newContact_of_phase phases absent
  have acts := (act (min 4095 r.x.toNat) (min 4095 r.y.toNat) r.pressure.toNat).trans (State.newContact_held serves h.panel job)
  rw [State.deliver_hold chosen] at acts
  obtain ⟨t, run, contact, landed, slots, -, -, ports⟩ := h.lands wf code acts rfl rfl (State.mailboxWrite_stations ..)
    (State.contact_setContact _ p i _)
  have written := s.mailboxWrite_slots (stationOf g) k new
    (downReport p i 255 synthetic (min 4095 r.x.toNat) (min 4095 r.y.toNat) r.pressure.toNat)
  have same : t.slots = (s.updateJob g fun j => { j with contactsDelivered := saturate max16 j.contactsDelivered 1 }).slots := by
    rw [slots]
    unfold State.updateJob State.setSlot State.job State.slot
    dsimp only
    rw [State.setContact_slots, written]
  have slot (x : Slot) : t.slot x = (s.updateJob g fun j => { j with contactsDelivered := saturate max16 j.contactsDelivered 1 }).slot x := by
    unfold State.slot
    rw [same]
  refine ⟨t, synthetic, run, set, clear, contact, landed, ?_, fun x hx => ?_, ports⟩
  · unfold State.job
    rw [slot]
    exact State.job_updateJob s g fun j => { j with contactsDelivered := saturate max16 j.contactsDelivered 1 }
  · exact (slot x).trans (State.updateJob_slotsKept _ x hx)

/-- Settles O58: each report in closed form by its contact's entry and its phase. -/
theorem contactReportsAreRouted : Obligations.ContactReportsAreRouted := by
  refine ⟨?_, exec_contact_cons, ?_⟩
  · intro s p reports wf listens one most
    refine ⟨fun h => exec_contact_discards listens one most ?_, exec_malformed wf one most⟩
    rintro ⟨panel, state, running⟩
    rcases h with h | ⟨free, serving⟩ | h
    · exact h panel
    · exact state.elim free serving
    · exact h running
  · intro s p r i wf panel state running id known
    have takes : Takes s p i r := ⟨panel, state, running, id, known⟩
    dsimp only
    refine ⟨?_, ?_, ?_, ?_, ?_, ?_, ?_, ?_, ?_⟩
    · intro three absent
      exact takes.discards (phase := .up) (by rw [three]; rfl) wf (f := fun d => { d with stray := saturate max16 d.stray 1 }) (by
        unfold State.touch
        rw [absent]
        rfl)
    · intro free phases absent
      obtain ⟨phase, synthetic, code, -, -, act⟩ := newContact_of_phase phases absent
      have out (z : Fin 16) (h : ¬ _) := Bool.eq_false_iff.mpr (mt (zoneContains_iff (s.port p).zones[z.val] (min 4095 r.x.toNat)
        (min 4095 r.y.toNat)).mp h)
      refine ⟨fun outside => ?_, fun z st first => ?_⟩
      · exact takes.discards code wf ((act _ _ _).trans (State.newContact_unrouted free fun z => out z (outside z)))
      · obtain ⟨contains, station, before⟩ := first
        have routed (synthetic : Bool) := State.newContact_zone (s := s) (p := p) (i := i) (synthetic := synthetic)
          (pressure := r.pressure.toNat) free ((zoneContains_iff _ _ _).mpr contains) station fun w hw => out w (before w hw)
        refine ⟨fun closed => ?_, fun opened => ?_⟩
        · exact takes.discards code wf ((act _ _ _).trans ((routed synthetic).trans (if_pos closed)))
        · obtain ⟨t, run, lands, drops, kept⟩ := takes.zone wf free phases absent fun synthetic =>
            (routed synthetic).trans (if_neg opened)
          refine ⟨t, run, fun k new chosen => ?_, drops, kept⟩
          obtain ⟨contact, synthetic, set, clear, recorded, lifted, down, marked, plain, stations, bytes⟩ := lands k new chosen
          exact ⟨contact, recorded, lifted, down, fun h => marked (set h), fun h fresh => plain (clear h) fresh, stations, bytes⟩
    · intro g k new serves job phases absent chosen
      obtain ⟨t, synthetic, run, set, clear, contact, ⟨recorded, lifted, down, marked, plain, stations, bytes⟩, kept⟩ :=
        takes.hold wf serves job phases absent chosen
      exact ⟨t, run, contact, ⟨recorded, lifted, down, fun h => marked (set h), fun h fresh => plain (clear h) fresh, stations, bytes⟩, kept⟩
    · intro g serves job phases absent full
      obtain ⟨phase, synthetic, code, -, -, act⟩ := newContact_of_phase phases absent
      obtain ⟨t, run, contact, mailboxes, slots, -, notice, overflow, shown, stations, ports⟩ := takes.drops wf code
        ((act _ _ _).trans ((State.newContact_held serves panel job).trans (State.deliver_drops full)))
      exact ⟨t, run, contact, mailboxes, slots, notice, overflow, shown, stations, ports⟩
    · intro c three held
      obtain ⟨t, run, contact, recorded, up, -, slots, ports, bytes⟩ := takes.written (phase := .up) wf (by rw [three]; rfl)
        (State.touch_up held)
      exact ⟨t, run, contact, recorded, (up rfl).1, (up rfl).2, slots, ports, bytes⟩
    · intro c two held
      obtain ⟨t, run, contact, recorded, -, moved, slots, ports, bytes⟩ := takes.written (phase := .move) wf (by rw [two]; rfl)
        (State.touch_move held)
      obtain ⟨event, lifted, notice⟩ := moved rfl
      exact ⟨t, run, contact, recorded, event, lifted, slots, ports, notice, bytes⟩
    · rintro before one (⟨c, held, rfl⟩ | ⟨lost, rfl⟩)
      · exact takes.repeats one (fun x y pressure => State.touch_again held) (s.mailboxWrite_touched p _ _ _ _)
          (State.mailboxWrite_ports ..)
      · exact takes.repeats one (fun x y pressure => (State.touch_lost lost).1) (.refl _) rfl
    · intro two lost
      have run := takes.exec (phase := .move) (by rw [two]; rfl)
      rw [(State.touch_lost lost).2.1, messageDue_self s s rfl] at run
      exact run
    · intro three lost
      have run := takes.exec (phase := .up) (by rw [three]; rfl)
      rw [(State.touch_lost lost).2.2, messageDue_self s (s.setContact p i .none) (request_congr rfl rfl rfl)] at run
      refine run.trans (congrArg Host.Outcome.next ?_)
      unfold State.setContact State.modifyPort State.dressed
      rw [State.port_setPort]
      exact State.setPort_setPort s p _ _

end

end Sys2Proof.Machine
end

/-! SUPPORT. The queued jobs that a STOP finishes (R19). -/
section
namespace Sys2Proof.Machine

/-- A fold that does something at each entry of a list and leaves the other entries as they are. -/
theorem foldl_each {α : Type} {f : State → α → State} {Inv : State → Prop} {Ready Done : α → State → Prop}
    (own : ∀ t x, Inv t → Ready x t → Inv (f t x) ∧ Done x (f t x))
    (other : ∀ t x y, Inv t → Ready x t → y ≠ x → (Ready y t → Ready y (f t x)) ∧ (Done y t → Done y (f t x))) :
    ∀ (l : List α), l.Nodup → ∀ t, Inv t → (∀ x ∈ l, Ready x t) →
      Inv (l.foldl f t) ∧ (∀ x ∈ l, Done x (l.foldl f t)) ∧ ∀ x, x ∉ l → Done x t → Done x (l.foldl f t)
  | [], _, t, inv, _ => ⟨inv, fun x h => absurd h List.not_mem_nil, fun _ _ h => h⟩
  | x :: rest, nodup, t, inv, ready => by
    obtain ⟨fresh, nodup⟩ := List.nodup_cons.mp nodup
    have here := ready x List.mem_cons_self
    obtain ⟨inv', done⟩ := own t x inv here
    obtain ⟨last, all, keeps⟩ := foldl_each own other rest nodup (f t x) inv' fun y hy =>
      (other t x y inv here fun e => fresh (e ▸ hy)).1 (ready y (List.mem_cons_of_mem x hy))
    refine ⟨last, fun y hy => ?_, fun y hy old => ?_⟩
    · rcases List.mem_cons.mp hy with rfl | hy
      · exact keeps y fresh done
      · exact all y hy
    · refine keeps y (fun k => hy (List.mem_cons_of_mem x k)) ((other t x y inv here fun e => ?_).2 old)
      exact hy (e ▸ List.mem_cons_self)

section
variable {s t u : State} {g h : Slot} {o : JobOutcome} {d : Detail}

theorem State.finishQueued_writes : Writes (fun a => a = poolAddress (s.job g).pool + 3 ∨ finishBytes g a ∨ stationMirrors (stationOf g) a)
    s.mem (s.finishQueued g o d).mem :=
  ((s.unqueued_writes g).mono fun _ => .inl).trans (State.finish_writes.mono fun _ => .inr)

theorem State.finishQueued_queue (q : Pool) : (s.finishQueued g o d).queue q =
    if q = (s.job g).pool then (s.queue q).erase g else s.queue q := by
  have queues : (s.finishQueued g o d).queues = (s.unqueued g).queues := State.finish_queues _ _ _ _ _
  unfold State.queue
  rw [queues]
  exact s.unqueued_queue g q

theorem State.finishQueued_deadlines : (s.finishQueued g o d).deadlines = s.deadlines.erase g := State.finish_deadlines _ _ _ _ _

theorem State.finishQueued_hasResult (w : Memory.wf s.mem = true) : (s.finishQueued g o d).hasResult g o d :=
  State.finish_hasResult ((s.unqueued_writes g).wf w)

theorem State.finishQueued_slot_ne (ne : h ≠ g) : (s.finishQueued g o d).slot h = s.slot h :=
  State.finish_slotsKept (s := s.unqueued g) h fun k => ne (List.mem_singleton.mp k)

theorem State.finishQueued_shown (w : Memory.wf s.mem = true) : (s.finishQueued g o d).queueShown (s.job g).pool := by
  have queues : (s.finishQueued g o d).queues = (s.unqueued g).queues := State.finish_queues _ _ _ _ _
  have hq := poolAddress_bounds (s.job g).pool
  refine (s.unqueued_shown g w).congr ?_ (State.finish_word_apart ((s.unqueued_writes g).wf w) (by omega))
  unfold State.queue
  rw [queues]

/-- The words of another slot are kept. -/
theorem State.finishQueued_slotWord (w : Memory.wf s.mem = true) (ne : h ≠ g) {x : Nat} (hx : x ≤ 60) :
    (s.finishQueued g o d).word (slotAddress h + x) = s.word (slotAddress h + x) :=
  State.finishQueued_writes.word w fun b hb hk => by
    have := slotAddress_bounds h
    have := slotAddress_bounds g
    have := poolAddress_bounds (s.job g).pool
    have := stationAddress_bounds (stationOf g)
    have := slotAddress_apart ne
    unfold finishBytes stationMirrors within at *
    omega

end

/-! ### The fold over the slots (R19) -/

section
variable {s t : State} {g : Slot}

/-- The part while a STOP finishes its queued jobs. -/
structure StopsQueued (s t : State) : Prop where
  wf : t.wellFormed
  ctl : t.ctl = s.ctl
  notice : t.notice = s.notice
  ports : t.ports = s.ports
  mailboxes : t.mailboxes = s.mailboxes
  queues : ∀ q, (t.queue q).Sublist (s.queue q)
  shown : ∀ q, t.queue q ≠ s.queue q → t.queueShown q
  deadlines : t.deadlines.Sublist s.deadlines

/-- A slot behind the STOP: a queued job is finished, and in no list; the other slots stay. -/
def StoppedSlot (s : State) (g : Slot) (t : State) : Prop :=
  ((s.slot g).state = .queued → t.hasResult g .cancelled .engineStop ∧ g ∉ t.queue (s.job g).pool ∧ g ∉ t.deadlines) ∧
    ((s.slot g).state ≠ .queued → t.slot g = s.slot g)

theorem State.stopQueued_own (holds : s.queuesHold) (list : s.deadlinesHold) (inv : StopsQueued s t) (ready : t.slot g = s.slot g) :
    StopsQueued s (t.stopQueued g) ∧ StoppedSlot s g (t.stopQueued g) := by
  have job : t.job g = s.job g := by unfold State.job; rw [ready]
  unfold State.stopQueued
  rw [ready]
  by_cases queued : (s.slot g).state = .queued
  · rw [if_pos queued]
    refine ⟨⟨(t.finishQueued_kept g .cancelled .engineStop).data inv.wf, (State.finish_ctl _ _ _ _ _).trans inv.ctl, (State.finish_notice _ _ _ _ _).trans inv.notice,
      (State.finish_ports _ _ _ _ _).trans inv.ports, (State.finish_mailboxes _ _ _ _ _).trans inv.mailboxes, fun q => ?_, fun q ne => ?_, ?_⟩,
      fun _ => ⟨State.finishQueued_hasResult inv.wf.memory, ?_, ?_⟩, fun k => absurd queued k⟩
    · rw [State.finishQueued_queue]
      split
      · exact List.erase_sublist.trans (inv.queues q)
      · exact inv.queues q
    · by_cases e : q = (t.job g).pool
      · rw [e]
        exact State.finishQueued_shown inv.wf.memory
      · have same : (t.finishQueued g .cancelled .engineStop).queue q = t.queue q := by rw [State.finishQueued_queue, if_neg e]
        refine (inv.shown q (by rw [← same]; exact ne)).congr same (State.finishQueued_writes.word inv.wf.memory fun b hb hk => ?_)
        have := poolAddress_bounds q
        have := poolAddress_bounds (t.job g).pool
        have := slotAddress_bounds g
        have := stationAddress_bounds (stationOf g)
        have apart : q.val ≠ (t.job g).pool.val := fun k => e (Fin.ext k)
        unfold finishBytes stationMirrors within poolAddress at *
        omega
    · rw [State.finishQueued_deadlines]
      exact List.erase_sublist.trans inv.deadlines
    · rw [State.finishQueued_queue, if_pos (by rw [job])]
      exact ((holds _).1.sublist (inv.queues _)).not_mem_erase
    · rw [State.finishQueued_deadlines]
      exact (list.1.sublist inv.deadlines).not_mem_erase
  · rw [if_neg queued]
    exact ⟨inv, fun k => absurd k queued, fun _ => ready⟩

theorem State.stopQueued_other {h : Slot} (inv : StopsQueued s t) (ready : t.slot g = s.slot g) (ne : h ≠ g) :
    (t.slot h = s.slot h → (t.stopQueued g).slot h = s.slot h) ∧ (StoppedSlot s h t → StoppedSlot s h (t.stopQueued g)) := by
  unfold State.stopQueued
  by_cases queued : (t.slot g).state = .queued
  · rw [if_pos queued]
    have slot : (t.finishQueued g .cancelled .engineStop).slot h = t.slot h := State.finishQueued_slot_ne ne
    refine ⟨fun same => slot.trans same, fun done => ⟨fun q => ?_, fun q => slot.trans (done.2 q)⟩⟩
    obtain ⟨result, out, off⟩ := done.1 q
    refine ⟨result.congr slot (State.finishQueued_slotWord inv.wf.memory ne (x := 0) (by omega))
      (State.finishQueued_slotWord inv.wf.memory ne (by omega)) (t.finishQueued_kept g .cancelled .engineStop).stationNotice, fun k => out ?_, fun k => off ?_⟩
    · rw [State.finishQueued_queue] at k
      split at k
      · exact List.mem_of_mem_erase k
      · exact k
    · rw [State.finishQueued_deadlines] at k
      exact List.mem_of_mem_erase k
  · rw [if_neg queued]
    exact ⟨id, id⟩

/-- A STOP finishes every queued job, and empties the queues and the deadline list. -/
theorem State.stopQueued_all (wf : s.wellFormed) (holds : s.queuesHold) (list : s.deadlinesHold) :
    StopsQueued s (allSlots.foldl State.stopQueued s) ∧ ∀ g, StoppedSlot s g (allSlots.foldl State.stopQueued s) := by
  obtain ⟨inv, all, -⟩ := foldl_each (f := State.stopQueued) (Inv := StopsQueued s) (Ready := fun g t => t.slot g = s.slot g)
    (Done := fun g t => StoppedSlot s g t) (fun t g inv ready => State.stopQueued_own holds list inv ready)
    (fun t g h inv ready ne => State.stopQueued_other inv ready ne) allSlots (List.nodup_finRange 128) s
    ⟨wf, rfl, rfl, rfl, rfl, fun q => List.Sublist.refl _, fun q k => absurd rfl k, List.Sublist.refl _⟩ fun g _ => rfl
  exact ⟨inv, fun g => all g (List.mem_finRange g)⟩

theorem State.stopQueued_empties (wf : s.wellFormed) (holds : s.queuesHold) (list : s.deadlinesHold) :
    (∀ q, (allSlots.foldl State.stopQueued s).queue q = []) ∧ (allSlots.foldl State.stopQueued s).deadlines = [] := by
  obtain ⟨inv, all⟩ := State.stopQueued_all wf holds list
  refine ⟨fun q => List.eq_nil_iff_forall_not_mem.mpr fun g hg => ?_, List.eq_nil_iff_forall_not_mem.mpr fun g hg => ?_⟩
  · obtain ⟨queued, pool⟩ := ((holds q).2 g).mp ((inv.queues q).subset hg)
    subst pool
    exact ((all g).1 queued).2.1 hg
  · obtain ⟨queued, -⟩ := (list.2 g).mp (inv.deadlines.subset hg)
    exact ((all g).1 queued).2.2 hg

end

end Sys2Proof.Machine
end

/-! SUPPORT. The contacts that a STOP lifts, and the services that it ends (R19, R158, R174, R178). -/
section
namespace Sys2Proof.Machine

/-! ### Touch routing stops (R174) -/

section
variable {s t : State} {p : Port}

/-- One panel at a STOP. -/
def State.stopPanel (s : State) (p : Port) : State := (s.liftEntries p true true .none).clearContacts p

theorem State.stopTouch_eq : s.stopTouch = allPorts.foldl State.stopPanel s := rfl

theorem State.stopPanel_port : (s.stopPanel p).port p = { s.port p with contacts := Vector.replicate 10 .none } := by
  unfold State.stopPanel State.clearContacts
  rw [State.port_modifyPort, s.liftEntries_port]

theorem State.stopPanel_port_ne {r : Port} (h : r ≠ p) : (s.stopPanel p).port r = s.port r := by
  unfold State.stopPanel State.clearContacts
  rw [State.port_modifyPort_ne _ h, s.liftEntries_port_ne p _ _ _ h]

theorem State.stopPanel_lifts : Lifts s (s.stopPanel p) (s.liftedContacts p true true tenIndices) := by
  have lifts := (s.liftEntries_lifts p true true .none).trans (m := [])
    (Lifts.nil (t := s.stopPanel p) (State.clearContacts_mem _ p) (State.clearContacts_mailboxes _ p))
  rw [List.append_nil] at lifts
  exact lifts

theorem State.stopPanels_lifts {l : List Port} (nodup : l.Nodup) {t : State} (same : ∀ p ∈ l, t.port p = s.port p) :
    Lifts t (l.foldl State.stopPanel t) (l.flatMap fun p => s.liftedContacts p true true tenIndices) := by
  induction l generalizing t with
  | nil => exact .nil rfl rfl
  | cons p rest ih =>
    obtain ⟨fresh, nodup⟩ := List.nodup_cons.mp nodup
    have own : t.liftedContacts p true true tenIndices = s.liftedContacts p true true tenIndices := by
      unfold State.liftedContacts State.contact
      rw [same p List.mem_cons_self]
    have first := State.stopPanel_lifts (s := t) (p := p)
    rw [own] at first
    rw [List.flatMap_cons, List.foldl_cons]
    exact first.trans (ih nodup fun r hr =>
      (State.stopPanel_port_ne fun e : r = p => fresh (e ▸ hr)).trans (same r (List.mem_cons_of_mem p hr)))

theorem State.stopTouch_port (s : State) (p : Port) : s.stopTouch.port p = { s.port p with contacts := Vector.replicate 10 .none } :=
  State.port_foldl_allPorts (f := State.stopPanel) (change := fun _ x => { x with contacts := Vector.replicate 10 .none })
    (seen := fun _ => True) (fun _ _ _ => trivial) (fun t p _ => State.stopPanel_port) (fun t p r h => State.stopPanel_port_ne h) s
    trivial p

theorem State.stopTouch_contact (s : State) (p : Port) (i : Fin 10) : s.stopTouch.contact p i = .none := by
  unfold State.contact
  rw [s.stopTouch_port]
  exact Vector.getElem_replicate _

/-- Every captured contact is lifted (R174). -/
theorem State.stopTouch_written (w : Memory.wf s.mem = true) : s.liftsWritten s.stopTouch allPorts Contact.captured := by
  rw [← Contact.taken_both]
  refine (State.stopPanels_lifts (s := s) (l := allPorts) (List.nodup_finRange 12) fun _ _ => rfl).written ?_ w fun x => ?_
  · refine List.nodup_flatMap.mpr ⟨fun p _ => State.liftedContacts_nodup tenIndices_nodup, (List.nodup_finRange 12).imp fun {p r} ne => ?_⟩
    intro x hp hr
    exact ne ((State.mem_liftedContacts.mp hp).1.symm.trans (State.mem_liftedContacts.mp hr).1)
  · rw [List.mem_flatMap]
    constructor
    · rintro ⟨p, hp, h⟩
      obtain ⟨rfl, -, taken⟩ := State.mem_liftedContacts.mp h
      exact ⟨hp, taken⟩
    · rintro ⟨hp, taken⟩
      exact ⟨x.1.1, hp, State.mem_liftedContacts.mpr ⟨rfl, mem_tenIndices _, taken⟩⟩

end

/-! ### Scans and holds end (R19, R158, R178) -/

section
variable {s t : State} {p : Port} {g : Slot}

/-- A scan or a hold that a port serves, before its job is finished. -/
def State.serviceClosed (s : State) (p : Port) (g : Slot) : State :=
  if (s.portConfig p).cls = .scanner then s.scanClosed p else s.keepHold g (s.holdLeft p)

/-- A class whose service a STOP ends at once. -/
def PortClass.stops (cls : PortClass) : Prop := cls = .scanner ∨ cls = .panel

theorem State.stopService_ends (serves : (s.port p).state = .serving) (stops : (s.portConfig p).cls.stops)
    (job : (s.port p).job = some g) : s.stopService p = (s.serviceClosed p g).finishScan p g .doneShort .engineStop none := by
  unfold State.stopService State.serviceClosed
  rw [serves, job]
  rcases stops with cls | cls
  · rw [cls, if_pos rfl]
    exact State.endScan_eq
  · rw [cls, if_neg (by decide)]
    rfl

theorem State.stopService_stays (h : (s.port p).state ≠ .serving ∨ ¬ (s.portConfig p).cls.stops ∨ (s.port p).job = none) :
    s.stopService p = s := by
  unfold State.stopService
  split
  · next serves cls job =>
    rcases h with h | h | h
    · exact absurd serves h
    · exact absurd (.inl cls) h
    · rw [job] at h
      cases h
  · next serves cls job =>
    rcases h with h | h | h
    · exact absurd serves h
    · exact absurd (.inr cls) h
    · rw [job] at h
      cases h
  · rfl

theorem State.serviceClosed_kept (wf : s.wellFormed) (p : Port) (g : Slot) : (s.serviceClosed p g).wellFormed := by
  unfold State.serviceClosed
  split
  · exact State.scanClosed_wellFormed wf
  · exact (s.keepHold_kept g _).data wf

/-- The frames of a scan end by its phase (R158). -/
def State.stoppedTransmitter (s : State) (p : Port) : Transmitter :=
  if (s.portConfig p).cls = .scanner then (s.port p).scanEnded else (s.port p).transmitter

theorem State.serviceClosed_port : (s.serviceClosed p g).port p = { s.port p with transmitter := s.stoppedTransmitter p } := by
  unfold State.serviceClosed State.stoppedTransmitter
  split
  · exact State.scanClosed_port
  · rfl

theorem State.serviceClosed_port_ne {r : Port} (h : r ≠ p) : (s.serviceClosed p g).port r = s.port r := by
  unfold State.serviceClosed
  split
  · exact State.scanClosed_port_ne h
  · rfl

theorem State.serviceClosed_slot_ne {h : Slot} (ne : h ≠ g) : (s.serviceClosed p g).slot h = s.slot h := by
  unfold State.serviceClosed
  split
  · rfl
  · exact s.slot_setSlot_ne ne _

theorem State.serviceClosed_chain : ((s.serviceClosed p g).job g).resultChain = (s.job g).resultChain := by
  unfold State.serviceClosed
  split
  · rfl
  · unfold State.keepHold
    rw [State.job_updateJob]

/-- What a service's end leaves as it is. -/
theorem State.serviceClosed_same {β : Type} (view : State → β) (port : ∀ t p y, view (State.setPort t p y) = view t)
    (job : ∀ t g f, view (State.updateJob t g f) = view t) : view (s.serviceClosed p g) = view s := by
  unfold State.serviceClosed
  split
  · exact port _ _ _
  · exact job _ _ _

/-- The bytes that the ends of services write. -/
def stopBytes (s : State) (a : Nat) : Prop :=
  (∃ p g, (s.port p).job = some g ∧ finishBytes g a) ∨ (∃ st, stationMirrors st a) ∨ ∃ p, portMirror p a

/-- The part while a STOP ends its scans and holds. -/
structure StopsServices (s t : State) : Prop where
  wf : t.wellFormed
  ctl : t.ctl = s.ctl
  notice : t.notice = s.notice
  stationNotice : s.stationNotice ||| t.stationNotice = t.stationNotice
  mailboxes : t.mailboxes = s.mailboxes
  queues : t.queues = s.queues
  deadlines : t.deadlines = s.deadlines
  writes : Writes (stopBytes s) s.mem t.mem
  slots : ∀ g, (∀ p, (s.port p).job ≠ some g) → t.slot g = s.slot g

/-- A port and its job that a STOP has still to look at. -/
def WaitsAtStop (s : State) (p : Port) (t : State) : Prop :=
  t.port p = s.port p ∧ ∀ g, (s.port p).job = some g → t.slot g = s.slot g

/-- A port at which a STOP has ended a scan or a hold, or which it leaves. -/
def StoppedPort (s : State) (p : Port) (t : State) : Prop :=
  (∀ g, (s.port p).job = some g → (s.portConfig p).cls.stops →
    t.hasResult g .doneShort .engineStop ∧ (t.job g).resultChain = (s.job g).resultChain ∧ t.portShown p ∧
      t.port p = { (s.port p).ended with transmitter := s.stoppedTransmitter p }) ∧
    ((s.port p).job = none ∨ ¬ (s.portConfig p).cls.stops → WaitsAtStop s p t)

theorem State.stopService_own (pair : s.servicesPair) (inv : StopsServices s t) (ready : WaitsAtStop s p t) :
    StopsServices s (t.stopService p) ∧ StoppedPort s p (t.stopService p) := by
  obtain ⟨port, slots⟩ := ready
  have config : t.portConfig p = s.portConfig p := by unfold State.portConfig; rw [inv.ctl]
  by_cases h : (s.port p).job = none ∨ ¬ (s.portConfig p).cls.stops
  · have stays : t.stopService p = t := by
      refine State.stopService_stays ?_
      rw [port, config]
      rcases h with h | h
      · exact .inr (.inr h)
      · exact .inr (.inl h)
    rw [stays]
    refine ⟨inv, fun g job stops => ?_, fun _ => ⟨port, slots⟩⟩
    rcases h with h | h
    · rw [job] at h
      cases h
    · exact absurd stops h
  · obtain ⟨g, job⟩ := Option.ne_none_iff_exists'.mp (not_or.mp h).1
    have stops : (s.portConfig p).cls.stops := not_not.mp (not_or.mp h).2
    have serves : (s.port p).state = .serving := (pair.1 p).mpr (not_or.mp h).1
    have ends := State.stopService_ends (s := t) (p := p) (by rw [port]; exact serves) (by rw [config]; exact stops)
      (by rw [port]; exact job)
    have closed := State.serviceClosed_kept inv.wf p g
    have kept : Kept (t.serviceClosed p g) ((t.serviceClosed p g).finishScan p g .doneShort .engineStop none) :=
      ((t.serviceClosed p g).finish_kept _ _ _ _).trans (State.releasePort_kept _ p)
    rw [ends]
    refine ⟨⟨kept.data closed, ?_, ?_, ?_, ?_, ?_, ?_, ?_, fun h out => ?_⟩, fun k same _ => ?_, fun k => absurd k h⟩
    · rw [State.finishScan_ctl, t.serviceClosed_same State.ctl (fun _ _ _ => rfl) fun _ _ _ => rfl, inv.ctl]
    · rw [State.finishScan_notice, t.serviceClosed_same State.notice (fun _ _ _ => rfl) fun _ _ _ => rfl, inv.notice]
    · have later := kept.stationNotice
      rw [t.serviceClosed_same State.stationNotice (fun _ _ _ => rfl) fun _ _ _ => rfl] at later
      rw [← later, ← BitVec.or_assoc, inv.stationNotice]
    · rw [State.finishScan_mailboxes, t.serviceClosed_same State.mailboxes (fun _ _ _ => rfl) fun _ _ _ => rfl, inv.mailboxes]
    · rw [State.finishScan_queues, t.serviceClosed_same State.queues (fun _ _ _ => rfl) fun _ _ _ => rfl, inv.queues]
    · rw [State.finishScan_deadlines, t.serviceClosed_same State.deadlines (fun _ _ _ => rfl) fun _ _ _ => rfl, inv.deadlines]
    · have mem : (t.serviceClosed p g).mem = t.mem := t.serviceClosed_same State.mem (fun _ _ _ => rfl) fun _ _ _ => rfl
      have wrote := State.finishScan_writes (s := t.serviceClosed p g) (p := p) (g := g) (o := .doneShort) (d := .engineStop)
        (reported := none)
      rw [mem] at wrote
      refine inv.writes.trans (wrote.mono fun a h => ?_)
      rcases h with h | h | h
      · exact .inl ⟨p, g, job, h⟩
      · exact .inr (.inl ⟨_, h⟩)
      · exact .inr (.inr ⟨p, h⟩)
    · have ne : h ≠ g := fun e => out p (e ▸ job)
      exact ((State.finishScan_slotsKept h fun k => ne (List.mem_singleton.mp k)).trans (State.serviceClosed_slot_ne ne)).trans (inv.slots h out)
    · obtain rfl : g = k := Option.some.inj (job.symm.trans same)
      refine ⟨State.finishScan_hasResult closed.memory, ?_, State.finishScan_shown closed, ?_⟩
      · rw [State.finishScan_job, State.serviceClosed_chain]
        unfold State.job
        rw [slots g job]
      · rw [State.finishScan_port, State.serviceClosed_port]
        unfold State.stoppedTransmitter
        rw [port, config]
        rfl

/-- The words of a slot that no port serves, and of the other ports' mirrors, are kept. -/
theorem State.stopService_other {r : Port} (pair : s.servicesPair) (inv : StopsServices s t) (ready : WaitsAtStop s p t) (ne : r ≠ p) :
    (WaitsAtStop s r t → WaitsAtStop s r (t.stopService p)) ∧ (StoppedPort s r t → StoppedPort s r (t.stopService p)) := by
  obtain ⟨port, -⟩ := ready
  by_cases stays : t.stopService p = t
  · rw [stays]
    exact ⟨id, id⟩
  · obtain ⟨serves, stops, g, job⟩ : (t.port p).state = .serving ∧ (t.portConfig p).cls.stops ∧ ∃ g, (t.port p).job = some g := by
      by_contra no
      refine stays (State.stopService_stays ?_)
      by_contra yes
      rw [not_or, not_or, not_not, not_not] at yes
      exact no ⟨yes.1, yes.2.1, Option.ne_none_iff_exists'.mp yes.2.2⟩
    have other (k : Slot) (h : (s.port r).job = some k) : k ≠ g := by
      rintro rfl
      rw [port] at job
      have first := (pair.2.1 p k job).2.1
      have second := (pair.2.1 r k h).2.1
      rw [first] at second
      exact ne (Option.some.inj second).symm
    rw [State.stopService_ends serves stops job]
    have closed := State.serviceClosed_kept inv.wf p g
    have portKept : ((t.serviceClosed p g).finishScan p g .doneShort .engineStop none).port r = t.port r :=
      (State.finishScan_portsKept r fun k => ne (List.mem_singleton.mp k)).trans (State.serviceClosed_port_ne ne)
    have slotKept (k : Slot) (h : (s.port r).job = some k) :
        ((t.serviceClosed p g).finishScan p g .doneShort .engineStop none).slot k = t.slot k :=
      (State.finishScan_slotsKept k fun m => other k h (List.mem_singleton.mp m)).trans (State.serviceClosed_slot_ne (other k h))
    have mem : (t.serviceClosed p g).mem = t.mem := t.serviceClosed_same State.mem (fun _ _ _ => rfl) fun _ _ _ => rfl
    have wrote := State.finishScan_writes (s := t.serviceClosed p g) (p := p) (g := g) (o := .doneShort) (d := .engineStop)
      (reported := none)
    have waits : WaitsAtStop s r t → WaitsAtStop s r ((t.serviceClosed p g).finishScan p g .doneShort .engineStop none) :=
      fun ⟨same, slots⟩ => ⟨portKept.trans same, fun k h => (slotKept k h).trans (slots k h)⟩
    have slotWord (k : Slot) (h : (s.port r).job = some k) {x : Nat} (hx : x ≤ 60) :
        ((t.serviceClosed p g).finishScan p g .doneShort .engineStop none).word (slotAddress k + x) = t.word (slotAddress k + x) := by
      have kept := wrote.word closed.memory (a := slotAddress k + x) fun b hb hk => by
        have := slotAddress_bounds k
        have := stationAddress_bounds (stationOf g)
        have := portAddress_bounds p
        have := slotAddress_apart (other k h)
        unfold finishBytes stationMirrors portMirror within at *
        omega
      rw [mem] at kept
      exact kept
    refine ⟨waits, fun done => ⟨fun k h stops => ?_, fun h => waits (done.2 h)⟩⟩
    obtain ⟨result, chain, shown, record⟩ := done.1 k h stops
    have notice := ((t.serviceClosed p g).finish_kept g .doneShort .engineStop none).trans (State.releasePort_kept _ p)
    have noticed := notice.stationNotice
    rw [t.serviceClosed_same State.stationNotice (fun _ _ _ => rfl) fun _ _ _ => rfl] at noticed
    refine ⟨result.congr (slotKept k h) (slotWord k h (x := 0) (by omega)) (slotWord k h (by omega)) noticed, ?_, ?_, portKept.trans record⟩
    · unfold State.job
      rw [slotKept k h]
      exact chain
    · refine shown.congr portKept ?_
      have kept := wrote.word closed.memory (a := portAddress r + 8) fun b hb hk => by
        have := portAddress_bounds r
        have := slotAddress_bounds g
        have := stationAddress_bounds (stationOf g)
        have := portAddress_bounds p
        have := portAddress_apart ne
        unfold finishBytes stationMirrors portMirror within at *
        omega
      rw [mem] at kept
      exact kept

/-- A STOP ends the scans and holds that are served, and leaves the prints. -/
theorem State.stopServices_all (wf : s.wellFormed) (pair : s.servicesPair) :
    StopsServices s (allPorts.foldl State.stopService s) ∧ ∀ p, StoppedPort s p (allPorts.foldl State.stopService s) := by
  obtain ⟨inv, all, -⟩ := foldl_each (f := State.stopService) (Inv := StopsServices s) (Ready := fun p t => WaitsAtStop s p t)
    (Done := fun p t => StoppedPort s p t) (fun t p inv ready => State.stopService_own pair inv ready)
    (fun t p r inv ready ne => State.stopService_other pair inv ready ne) allPorts (List.nodup_finRange 12) s
    ⟨wf, rfl, rfl, BitVec.or_self, rfl, rfl, rfl, .refl _ _, fun g _ => rfl⟩ fun p _ => ⟨rfl, fun g _ => rfl⟩
  exact ⟨inv, fun p => all p (List.mem_finRange p)⟩

end

end Sys2Proof.Machine
end

/-! The obligation about STOP: what it ends, finishes, lifts and leaves. -/
section
namespace Sys2Proof.Machine

section
variable {s t : State} {p : Port} {g : Slot}

/-! ### The three folds of a STOP (R19) -/

/-- The state of a STOP before any of its work. -/
def State.stopping (s : State) : State :=
  s.setControl fun c => { recordCommand .stop .accepted .none c with engine := .draining }

/-- The state of a STOP with its queued jobs finished. -/
def State.dequeued (s : State) : State := allSlots.foldl State.stopQueued s.stopping

theorem State.drained_eq (s : State) : s.drained = allPorts.foldl State.stopService s.dequeued.stopTouch := rfl

theorem State.dequeued_kept (s : State) : Kept s.stopping s.dequeued := Kept.foldl State.stopQueued_kept _ _

/-- A STOP in RUNNING acts as the STOP does, and sends the message that is due. -/
theorem exec_stop_running (running : s.ctl.engine = .running) : exec .stop s = .next (settleInterrupt s s.drain) := by
  have accepted : s.control .stop = s.drain := by
    unfold State.control
    rw [running]
    show (if s.ctl.engine = .draining then _ else s.drain) = _
    rw [running]
    exact if_neg fun k => Engine.noConfusion k
  show Host.Outcome.next (closeEvent s (s.control .stop)) = _
  rw [accepted]
  refine congrArg Host.Outcome.next ?_
  unfold closeEvent drainEnd
  rw [if_neg]
  rintro ⟨draining, -, idle⟩
  rw [State.drain_eq] at draining idle
  by_cases serving : s.drained.anyServing = true
  · rw [if_pos serving] at idle
    rw [idle] at serving
    cases serving
  · rw [if_neg serving, State.enterStopped_ctl] at draining
    exact Engine.noConfusion draining

/-! ### The ports of a STOP -/

/-- A port after the services have ended. -/
def PortRecord.stopped (x : PortRecord) (cls : PortClass) : PortRecord :=
  if x.state = .serving ∧ (cls = .scanner ∨ cls = .panel) ∧ x.job ≠ none then
    { x.ended with transmitter := if cls = .scanner then x.scanEnded else x.transmitter }
  else x

theorem State.stopService_port : (s.stopService p).port p = (s.port p).stopped (s.portConfig p).cls := by
  unfold PortRecord.stopped
  by_cases h : (s.port p).state = .serving ∧ (s.portConfig p).cls.stops ∧ (s.port p).job ≠ none
  · obtain ⟨serves, stops, job⟩ := h
    obtain ⟨g, job⟩ := Option.ne_none_iff_exists'.mp job
    rw [State.stopService_ends serves stops job, State.finishScan_port, State.serviceClosed_port, if_pos]
    · rfl
    · exact ⟨serves, stops, by rw [job]; exact Option.some_ne_none g⟩
  · rw [State.stopService_stays (by rw [not_and_or, not_and_or, not_not] at h; exact h)]
    exact (if_neg h).symm

theorem State.stopService_port_ne {r : Port} (ne : r ≠ p) : (s.stopService p).port r = s.port r := by
  by_cases h : (s.port p).state = .serving ∧ (s.portConfig p).cls.stops ∧ (s.port p).job ≠ none
  · obtain ⟨serves, stops, job⟩ := h
    obtain ⟨g, job⟩ := Option.ne_none_iff_exists'.mp job
    rw [State.stopService_ends serves stops job]
    exact (State.finishScan_portsKept r fun k => ne (List.mem_singleton.mp k)).trans (State.serviceClosed_port_ne ne)
  · rw [State.stopService_stays]
    rw [not_and_or, not_and_or, not_not] at h
    exact h

theorem State.dequeued_port (s : State) (p : Port) : s.dequeued.port p = s.port p := by
  have one (t : State) (g : Slot) : (t.stopQueued g).ports = t.ports := by
    unfold State.stopQueued
    split
    · exact State.finish_ports _ _ _ _ _
    · rfl
  have ports : s.dequeued.ports = s.stopping.ports := State.foldl_same State.ports one allSlots s.stopping
  unfold State.port
  rw [ports]
  rfl

theorem State.drained_port (s : State) (p : Port) : s.drained.port p =
    ({ s.port p with contacts := Vector.replicate 10 .none } : PortRecord).stopped (s.portConfig p).cls := by
  have config (t : State) (h : t.ctl = s.stopping.ctl) (r : Port) : t.portConfig r = s.portConfig r := by
    unfold State.portConfig
    rw [h]
    rfl
  have fold := State.port_foldl_allPorts (f := State.stopService) (change := fun r x => x.stopped (s.portConfig r).cls)
    (seen := fun t => t.ctl = s.stopping.ctl) (fun t r h => (t.stopService_kept r).ctl.trans h)
    (fun t r h => by rw [State.stopService_port, config t h]) (fun t r q h => State.stopService_port_ne h) s.dequeued.stopTouch
    ((s.dequeued_kept.trans (State.stopTouch_kept _)).ctl) p
  rw [State.drained_eq]
  rw [fold, State.stopTouch_port, State.dequeued_port]

theorem PortRecord.stopped_contacts (x : PortRecord) (cls : PortClass) : (x.stopped cls).contacts = x.contacts := by
  unfold PortRecord.stopped
  split <;> rfl

theorem State.drain_contact (s : State) (p : Port) (i : Fin 10) : s.drain.contact p i = .none := by
  have contacts : (s.drain.port p).contacts = Vector.replicate 10 .none := by
    rw [State.drain_eq]
    split
    · rw [State.drained_port, PortRecord.stopped_contacts]
    · rw [State.enterStopped_port, State.drained_port]
      exact PortRecord.stopped_contacts _ _
  unfold State.contact
  rw [contacts]
  exact Vector.getElem_replicate _

/-! ### The slots of a STOP -/

theorem State.stopQueued_finishes (g h : Slot) : ((t.slot h).state = .finished → ((t.stopQueued g).slot h).state = .finished) ∧
    ((t.slot h).state = .queued → ((t.stopQueued g).slot h).state = .queued ∨ ((t.stopQueued g).slot h).state = .finished) ∧
    ((t.slot g).state = .queued → ((t.stopQueued g).slot g).state = .finished) := by
  unfold State.stopQueued
  by_cases queued : (t.slot g).state = .queued
  · rw [if_pos queued]
    have own : ((t.finishQueued g .cancelled .engineStop).slot g).state = .finished := by
      rw [State.finishQueued_eq, State.finish_slot]
    by_cases e : h = g
    · subst e
      exact ⟨fun _ => own, fun _ => .inr own, fun _ => own⟩
    · rw [State.finishQueued_slot_ne e]
      exact ⟨id, .inl, fun _ => own⟩
  · rw [if_neg queued]
    exact ⟨id, .inl, fun k => absurd k queued⟩

theorem State.stopService_finished (h : Slot) (done : (t.slot h).state = .finished) : ((t.stopService p).slot h).state = .finished := by
  by_cases k : (t.port p).state = .serving ∧ (t.portConfig p).cls.stops ∧ (t.port p).job ≠ none
  · obtain ⟨serves, stops, job⟩ := k
    obtain ⟨g, job⟩ := Option.ne_none_iff_exists'.mp job
    rw [State.stopService_ends serves stops job]
    by_cases e : h = g
    · subst e
      rw [State.finishScan_slot]
    · rw [State.finishScan_slotsKept h fun k => e (List.mem_singleton.mp k), State.serviceClosed_slot_ne e]
      exact done
  · rw [State.stopService_stays]
    · exact done
    · rw [not_and_or, not_and_or, not_not] at k
      exact k

theorem State.dequeued_finishes (queued : (s.slot g).state = .queued) : (s.dequeued.slot g).state = .finished := by
  have fold := foldl_each (f := State.stopQueued) (Inv := fun _ => True)
    (Ready := fun h t => (t.slot h).state = .queued ∨ (t.slot h).state = .finished ∨ h ≠ g)
    (Done := fun h t => h = g → (t.slot h).state = .finished)
    (fun t h _ ready => ⟨trivial, fun e => by
      rcases ready with ready | ready | ne
      · exact (State.stopQueued_finishes h h).2.2 ready
      · exact (State.stopQueued_finishes h h).1 ready
      · exact absurd e ne⟩)
    (fun t h k _ _ ne => ⟨fun ready => by
      rcases ready with ready | ready | out
      · exact ((State.stopQueued_finishes h k).2.1 ready).imp id .inl
      · exact .inr (.inl ((State.stopQueued_finishes h k).1 ready))
      · exact .inr (.inr out), fun done e => (State.stopQueued_finishes h k).1 (done e)⟩) allSlots (List.nodup_finRange 128) s.stopping
    trivial fun h _ => by
      by_cases e : h = g
      · subst e
        exact .inl queued
      · exact .inr (.inr e)
  exact fold.2.1 g (List.mem_finRange g) rfl

theorem State.drained_finishes (queued : (s.slot g).state = .queued) : (s.drained.slot g).state = .finished := by
  have touch : (s.dequeued.stopTouch.slot g).state = .finished := by
    have one (t : State) (p : Port) : (t.stopPanel p).slots = t.slots := by
      unfold State.stopPanel
      rw [State.clearContacts_slots, State.liftEntries_slots]
    have slots : s.dequeued.stopTouch.slots = s.dequeued.slots := State.foldl_same State.slots one allPorts s.dequeued
    unfold State.slot
    rw [slots]
    exact State.dequeued_finishes queued
  rw [State.drained_eq]
  revert touch
  generalize s.dequeued.stopTouch = t
  generalize allPorts = l
  intro touch
  induction l generalizing t with
  | nil => exact touch
  | cons p rest ih => exact ih _ (State.stopService_finished g touch)

end

end Sys2Proof.Machine
end

/-! The obligation about STOP: what it ends, finishes, lifts and leaves. -/
section
namespace Sys2Proof.Machine

section
variable {s t : State} {p : Port} {g : Slot} {o : JobOutcome} {d : Detail}

/-! ### The entry to STOPPED behind a STOP (R19, R20) -/

theorem State.drain_same {β : Type} (view : State → β) (ports : ∀ t p, view (State.updatePort t p (offlinePort p)) = view t)
    (control : ∀ t f, view (State.setControl t f) = view t) (notice : ∀ t b, view (State.setNotice t b) = view t) (s : State) :
    view s.drain = view s.drained := by
  rw [State.drain_eq]
  split
  · rfl
  · exact State.enterStopped_same view ports control notice _

theorem State.drain_hasResult (m : Memory.wf s.drained.mem = true) (h : s.drained.hasResult g o d) : s.drain.hasResult g o d := by
  rw [State.drain_eq]
  split
  · exact h
  · exact State.enterStopped_hasResult m h

theorem State.drain_word (m : Memory.wf s.drained.mem = true) {a : Nat} (ha : ∀ r, a + 4 ≤ portAddress r + 8 ∨ portAddress r + 12 ≤ a) :
    s.drain.word a = s.drained.word a := by
  rw [State.drain_eq]
  split
  · rfl
  · exact (State.enterStopped_writes s.drained).word m fun b hb ⟨r, k⟩ => by
      have := ha r
      unfold portMirror within at *
      omega

theorem State.drain_portShown (wf : s.drained.wellFormed) (h : s.drained.portShown p) : s.drain.portShown p := by
  rw [State.drain_eq]
  split
  · exact h
  · exact State.enterStopped_shown wf p

/-! ### The part's records at the three folds -/

theorem State.dequeued_all (wf : s.wellFormed) (holds : s.structured) :
    StopsQueued s.stopping s.dequeued ∧ (∀ g, StoppedSlot s.stopping g s.dequeued) ∧ (∀ q, s.dequeued.queue q = []) ∧
      s.dequeued.deadlines = [] := by
  obtain ⟨queues, deadlines, -⟩ := holds
  have start : s.stopping.wellFormed := State.setControl_wellFormed wf _ rfl
  obtain ⟨inv, slots⟩ := State.stopQueued_all start queues deadlines
  exact ⟨inv, slots, State.stopQueued_empties start queues deadlines⟩

theorem State.touchStopped_slots (s : State) : s.stopTouch.slots = s.slots := by
  have one (t : State) (p : Port) : (t.stopPanel p).slots = t.slots := by
    unfold State.stopPanel
    rw [State.clearContacts_slots, State.liftEntries_slots]
  exact State.foldl_same State.slots one allPorts s

theorem State.touchStopped_queues (s : State) : s.stopTouch.queues = s.queues ∧ s.stopTouch.deadlines = s.deadlines := by
  have one (t : State) (p : Port) : (t.stopPanel p).queues = t.queues := by
    unfold State.stopPanel
    rw [State.clearContacts_queues, State.liftEntries_queues]
  have two (t : State) (p : Port) : (t.stopPanel p).deadlines = t.deadlines := by
    unfold State.stopPanel
    rw [State.clearContacts_deadlines, State.liftEntries_deadlines]
  exact ⟨State.foldl_same State.queues one allPorts s, State.foldl_same State.deadlines two allPorts s⟩

theorem State.stopPanel_writes (s : State) (p : Port) : Writes (fun a => ∃ st, mailboxBytes st a) s.mem (s.stopPanel p).mem := by
  unfold State.stopPanel
  rw [State.clearContacts_mem]
  exact s.liftEntries_only p true true .none

theorem State.touchStopped_writes (s : State) : Writes (fun a => ∃ st, mailboxBytes st a) s.mem s.stopTouch.mem := by
  rw [State.stopTouch_eq]
  exact Writes.foldl State.stopPanel_writes allPorts s

/-- A slot that is not QUEUED is as it was when the touch router has stopped. -/
theorem State.touchStopped_slot (wf : s.wellFormed) (holds : s.structured) (idle : (s.slot g).state ≠ .queued) :
    s.dequeued.stopTouch.slot g = s.slot g := by
  obtain ⟨-, slots, -⟩ := State.dequeued_all wf holds
  have same : s.dequeued.stopTouch.slot g = s.dequeued.slot g := by
    unfold State.slot
    rw [State.touchStopped_slots]
  exact same.trans ((slots g).2 idle)

theorem State.touchStopped_port (s : State) (p : Port) :
    s.dequeued.stopTouch.port p = { s.port p with contacts := Vector.replicate 10 .none } := by
  rw [State.stopTouch_port, State.dequeued_port]

theorem State.touchStopped_pair (wf : s.wellFormed) (holds : s.structured) : s.dequeued.stopTouch.servicesPair := by
  obtain ⟨serving, paired, served⟩ := holds.2.2.1
  have job (g : Slot) (idle : (s.slot g).state ≠ .queued) : s.dequeued.stopTouch.job g = s.job g := by
    unfold State.job
    rw [State.touchStopped_slot wf holds idle]
  refine ⟨fun p => ?_, fun p g h => ?_, fun g h => ?_⟩
  · rw [State.touchStopped_port]
    exact serving p
  · rw [State.touchStopped_port] at h
    have old := paired p g h
    have idle : (s.slot g).state ≠ .queued := by rw [old.1]; exact SlotState.noConfusion
    rw [State.touchStopped_slot wf holds idle, job g idle]
    exact old
  · have same : s.dequeued.stopTouch.slot g = s.dequeued.slot g := by
      unfold State.slot
      rw [State.touchStopped_slots]
    have idle : (s.slot g).state ≠ .queued := fun k => by
      rw [same, State.dequeued_finishes k] at h
      exact SlotState.noConfusion h
    rw [State.touchStopped_slot wf holds idle] at h
    obtain ⟨p, hp⟩ := served g h
    refine ⟨p, ?_⟩
    rw [State.touchStopped_port]
    exact hp

/-- The services of a part whose records agree, as a STOP ends them. -/
theorem State.drained_services (wf : s.wellFormed) (holds : s.structured) :
    StopsServices s.dequeued.stopTouch s.drained ∧ ∀ p, StoppedPort s.dequeued.stopTouch p s.drained := by
  have wf' : s.dequeued.stopTouch.wellFormed := (State.stopTouch_kept _).data (State.dequeued_all wf holds).1.wf
  exact State.stopServices_all wf' (State.touchStopped_pair wf holds)

/-- A queued job is finished by a STOP. -/
theorem State.drained_queued (wf : s.wellFormed) (holds : s.structured) (queued : (s.slot g).state = .queued) :
    s.drained.hasResult g .cancelled .engineStop := by
  obtain ⟨inv, slots, -⟩ := State.dequeued_all wf holds
  obtain ⟨services, -⟩ := State.drained_services wf holds
  have wf' : s.dequeued.stopTouch.wellFormed := (State.stopTouch_kept _).data inv.wf
  have idle (p : Port) : (s.dequeued.stopTouch.port p).job ≠ some g := fun h => by
    rw [State.touchStopped_port] at h
    have := (holds.2.2.1.2.1 p g h).1
    rw [queued] at this
    exact SlotState.noConfusion this
  have touched : s.dequeued.stopTouch.hasResult g .cancelled .engineStop := by
    have word {x : Nat} (hx : x ≤ 60) : s.dequeued.stopTouch.word (slotAddress g + x) = s.dequeued.word (slotAddress g + x) :=
      (State.touchStopped_writes s.dequeued).word inv.wf.memory fun b hb ⟨st, r, k⟩ => by
        have := slotAddress_bounds g
        have := mailboxAddress_bounds st r
        unfold within at *
        omega
    refine ((slots g).1 queued).1.congr ?_ (word (x := 0) (by omega)) (word (by omega)) (State.stopTouch_kept _).stationNotice
    unfold State.slot
    rw [State.touchStopped_slots]
  have word {x : Nat} (hx : x ≤ 60) : s.drained.word (slotAddress g + x) = s.dequeued.stopTouch.word (slotAddress g + x) :=
    services.writes.word wf'.memory fun b hb k => by
      have := slotAddress_bounds g
      rcases k with ⟨p, h, job, k⟩ | ⟨st, k⟩ | ⟨p, k⟩
      · have := slotAddress_bounds h
        have := stationAddress_bounds (stationOf h)
        have := slotAddress_apart (g := g) (h := h) fun e => idle p (e ▸ job)
        unfold finishBytes within at *
        omega
      · have := stationAddress_bounds st
        unfold stationMirrors within at *
        omega
      · have := portAddress_bounds p
        unfold portMirror within at *
        omega
  exact touched.congr (services.slots g idle) (word (x := 0) (by omega)) (word (by omega)) services.stationNotice

/-- The lists are empty, and the length of each queue that was not shows in its mirror. -/
theorem State.drained_queues (wf : s.wellFormed) (holds : s.structured) (q : Pool) :
    s.drained.queue q = [] ∧ (s.queue q ≠ [] → s.drained.queueShown q) ∧ s.drained.deadlines = [] := by
  obtain ⟨inv, -, empty, list⟩ := State.dequeued_all wf holds
  obtain ⟨services, -⟩ := State.drained_services wf holds
  have wf' : s.dequeued.stopTouch.wellFormed := (State.stopTouch_kept _).data inv.wf
  have queue : s.drained.queue q = s.dequeued.queue q := by
    unfold State.queue
    rw [services.queues, (State.touchStopped_queues _).1]
  refine ⟨queue.trans (empty q), fun full => ?_, ?_⟩
  · have shown := inv.shown q fun e => full (e.symm.trans (empty q))
    refine shown.congr queue ?_
    have bounds := poolAddress_bounds q
    have first : s.dequeued.stopTouch.word (poolAddress q) = s.dequeued.word (poolAddress q) :=
      (State.touchStopped_writes s.dequeued).word inv.wf.memory fun b hb ⟨st, r, k⟩ => by
        have := mailboxAddress_bounds st r
        unfold within at *
        omega
    refine Eq.trans (services.writes.word wf'.memory fun b hb k => ?_) first
    rcases k with ⟨p, h, job, k⟩ | ⟨st, k⟩ | ⟨p, k⟩
    · have := slotAddress_bounds h
      have := stationAddress_bounds (stationOf h)
      unfold finishBytes within at *
      omega
    · have := stationAddress_bounds st
      unfold stationMirrors within at *
      omega
    · have := portAddress_bounds p
      unfold portMirror within at *
      omega
  · rw [services.deadlines, (State.touchStopped_queues _).2, list]

/-- The contacts that were captured are lifted (R174). -/
theorem State.drained_written (wf : s.wellFormed) (holds : s.structured) : s.liftsWritten s.drained allPorts Contact.captured := by
  obtain ⟨inv, -⟩ := State.dequeued_all wf holds
  obtain ⟨services, -⟩ := State.drained_services wf holds
  have wf' : s.dequeued.stopTouch.wellFormed := (State.stopTouch_kept _).data inv.wf
  refine (State.stopTouch_written inv.wf.memory).congr (fun p _ i => ?_) inv.mailboxes.symm services.mailboxes fun st r x hx => ?_
  · unfold State.contact
    rw [State.dequeued_port]
  · refine services.writes.word wf'.memory fun b hb k => ?_
    have := mailboxAddress_bounds st r
    rcases k with ⟨p, h, job, k⟩ | ⟨st', k⟩ | ⟨p, k⟩
    · have := slotAddress_bounds h
      have := stationAddress_bounds (stationOf h)
      unfold finishBytes within at *
      omega
    · have := stationAddress_bounds st'
      unfold stationMirrors within at *
      omega
    · have := portAddress_bounds p
      unfold portMirror within at *
      omega

end

end Sys2Proof.Machine
end

/-! The obligation about STOP: what it ends, finishes, lifts and leaves. -/
section
namespace Sys2Proof.Machine

section
variable {s t : State} {p : Port} {g : Slot} {o : JobOutcome} {d : Detail}

/-- A STOP in DRAINING changes STATUS alone (R2). -/
theorem exec_stop_draining (draining : s.ctl.engine = .draining) : exec .stop s = .next { s with
    ctl := { s.ctl with lastCommand := .stop, lastOutcome := .accepted, refusalReason := .none } } := by
  have accepted : s.control .stop = s.setControl (recordCommand .stop .accepted .none) := by
    unfold State.control
    rw [draining]
    exact if_pos draining
  show Host.Outcome.next (closeEvent s (s.control .stop)) = _
  rw [accepted]
  refine congrArg Host.Outcome.next ?_
  have serves : (s.setControl (recordCommand .stop .accepted .none)).anyServing = s.anyServing := rfl
  have request : (s.setControl (recordCommand .stop .accepted .none)).request = s.request := request_congr rfl rfl rfl
  rw [closeEvent_settles fun _ => serves, settleInterrupt_of_eq _ _ request]
  rfl

/-! ### In any part (R19) -/

theorem or_and_self {n : Nat} (x m : BitVec n) : (x ||| m) &&& m = m := by
  ext i hi
  simp only [BitVec.getElem_and, BitVec.getElem_or]
  cases x[i] <;> cases m[i] <;> rfl

theorem PortRecord.stopped_state (x : PortRecord) {cls : PortClass} (h : cls = .scanner ∨ cls = .panel) (job : x.job ≠ none) :
    (x.stopped cls).state ≠ .serving := by
  unfold PortRecord.stopped
  by_cases serves : x.state = .serving
  · rw [if_pos ⟨serves, h, job⟩]
    exact PortState.noConfusion
  · rw [if_neg fun k => serves k.1]
    exact serves

theorem State.drain_slots (s : State) : s.drain.slots = s.drained.slots :=
  State.drain_same State.slots (fun t p => t.updatePort_slots p _) (fun _ _ => rfl) (fun _ _ => rfl) s

theorem State.drain_slot (s : State) (g : Slot) : s.drain.slot g = s.drained.slot g := by
  unfold State.slot
  rw [State.drain_slots]

theorem State.drain_stopped (stops : (s.portConfig p).cls = .scanner ∨ (s.portConfig p).cls = .panel) (job : (s.port p).job ≠ none) :
    (s.drain.port p).state ≠ .serving := by
  rw [State.drain_eq]
  split
  · rw [State.drained_port]
    exact PortRecord.stopped_state _ stops job
  · rw [State.enterStopped_port]
    exact PortState.noConfusion

/-- The engine behind a STOP in RUNNING (R19, R20). -/
theorem State.drain_engine (s : State) : s.drain.ctl.engine = .draining ∧ s.drain.anyServing = true ∨
    s.drain.ctl.engine = .stopped ∧ s.drain.notice &&& 0x02 = 0x02 ∧ ∀ p, (s.drain.port p).atRest := by
  rw [State.drain_eq]
  by_cases serving : s.drained.anyServing = true
  · rw [if_pos serving]
    exact .inl ⟨by rw [State.drained_ctl], serving⟩
  · rw [if_neg serving]
    refine .inr ⟨by rw [State.enterStopped_ctl]; rfl, ?_, fun p => ?_⟩
    · rw [State.enterStopped_notice]
      exact or_and_self _ _
    · rw [State.enterStopped_port]
      exact ⟨rfl, rfl, rfl⟩

theorem State.drain_control (s : State) : s.drain.ctl.lastCommand = .stop ∧ s.drain.ctl.lastOutcome = .accepted ∧
    s.drain.ctl.refusalReason = .none ∧ s.drain.ctl.work = s.ctl.work ∧ s.drain.ctl.samples = s.ctl.samples ∧
    s.drain.ctl.clock = s.ctl.clock ∧ s.drain.ctl.mask = s.ctl.mask := by
  rw [State.drain_eq]
  split
  · rw [State.drained_ctl]
    exact ⟨rfl, rfl, rfl, rfl, rfl, rfl, rfl⟩
  · rw [State.enterStopped_ctl, State.drained_ctl]
    exact ⟨rfl, rfl, rfl, rfl, rfl, rfl, rfl⟩

/-! ### In a part whose records agree (R19) -/

/-- A scan or a hold that a port serves is finished by a STOP, and its port freed. -/
theorem State.drain_service (wf : s.wellFormed) (holds : s.structured) (job : (s.port p).job = some g)
    (stops : (s.portConfig p).cls = .scanner ∨ (s.portConfig p).cls = .panel) :
    s.drain.hasResult g .doneShort .engineStop ∧ (s.drain.port p).job = none ∧
      (s.drain.job g).resultChain = (s.job g).resultChain ∧ s.drain.portShown p ∧
      (s.drain.ctl.engine = .draining → s.drain.port p = { (s.port p).ended with
        transmitter := if (s.portConfig p).cls = .scanner then (s.port p).scanEnded else (s.port p).transmitter
        contacts := (s.drain.port p).contacts }) := by
  obtain ⟨services, ports⟩ := State.drained_services wf holds
  have config : s.dequeued.stopTouch.portConfig p = s.portConfig p := by
    unfold State.portConfig
    rw [(s.dequeued_kept.trans (State.stopTouch_kept _)).ctl]
    rfl
  obtain ⟨result, chain, shown, record⟩ := (ports p).1 g (by rw [State.touchStopped_port]; exact job) (by rw [config]; exact stops)
  have idle : (s.slot g).state ≠ .queued := by
    rw [(holds.2.2.1.2.1 p g job).1]
    exact SlotState.noConfusion
  have slot := State.touchStopped_slot wf holds idle
  refine ⟨State.drain_hasResult services.wf.memory result, ?_, ?_, State.drain_portShown services.wf shown, fun draining => ?_⟩
  · rw [State.drain_eq]
    split
    · rw [record]
      rfl
    · rw [State.enterStopped_port, record]
      rfl
  · have same : s.drain.job g = s.drained.job g := by
      unfold State.job
      rw [State.drain_slot]
    rw [same, chain]
    unfold State.job
    rw [slot]
  · have serving : s.drain = s.drained := by
      rw [State.drain_eq] at draining ⊢
      split at draining
      · next h => rw [if_pos h]
      · rw [State.enterStopped_ctl] at draining
        exact Engine.noConfusion draining
    rw [serving, record]
    unfold State.stoppedTransmitter
    rw [config, State.touchStopped_port]
    rfl

/-- A serving print goes on through a STOP. -/
theorem State.drain_print (wf : s.wellFormed) (holds : s.structured) (job : (s.port p).job = some g)
    (printer : (s.portConfig p).cls = .printer) : s.drain.slot g = s.slot g ∧ (s.drain.port p).print = (s.port p).print ∧
      (s.drain.port p).state = .serving ∧ (s.drain.port p).transmitter = (s.port p).transmitter ∧ s.drain.ctl.engine = .draining := by
  obtain ⟨-, ports⟩ := State.drained_services wf holds
  have config : s.dequeued.stopTouch.portConfig p = s.portConfig p := by
    unfold State.portConfig
    rw [(s.dequeued_kept.trans (State.stopTouch_kept _)).ctl]
    rfl
  have stays : ¬ (s.dequeued.stopTouch.portConfig p).cls.stops := by
    rw [config, printer]
    rintro (h | h) <;> cases h
  obtain ⟨record, slots⟩ := (ports p).2 (.inr stays)
  have serves : (s.port p).state = .serving := (holds.2.2.1.1 p).mpr (by rw [job]; exact Option.some_ne_none g)
  rw [State.touchStopped_port] at record
  have going : s.drain = s.drained := by
    rw [State.drain_eq]
    refine if_pos ((State.anyServing_iff _).mpr ⟨p, ?_⟩)
    rw [record]
    exact serves
  have idle : (s.slot g).state ≠ .queued := by
    rw [(holds.2.2.1.2.1 p g job).1]
    exact SlotState.noConfusion
  rw [going, record]
  refine ⟨(slots g (by rw [State.touchStopped_port]; exact job)).trans (State.touchStopped_slot wf holds idle), rfl, serves, rfl, ?_⟩
  rw [State.drained_ctl]

/-- Settles O15: the three folds of a STOP, each of which does its work once at each slot, panel and port. -/
theorem stopEndsTheWork : Obligations.StopEndsTheWork := by
  refine ⟨fun s draining => exec_stop_draining draining, fun s running => ?_, fun s wf holds running => ?_⟩
  · have run := exec_stop_running running
    obtain ⟨command, outcome, reason, work, samples, clock, mask⟩ := s.drain_control
    have finishes (g : Slot) (queued : (s.slot g).state = .queued) : (s.drain.slot g).state = .finished := by
      rw [s.drain_slot]
      exact State.drained_finishes queued
    have contacts := s.drain_contact
    have stopped (p : Port) := State.drain_stopped (s := s) (p := p)
    have engine := s.drain_engine
    rw [settleInterrupt_eq] at run
    generalize s.drain = u at *
    exact ⟨_, run, command, outcome, reason, work, samples, clock, mask, finishes, contacts, stopped, engine⟩
  · obtain ⟨services, ports⟩ := State.drained_services wf holds
    have memory := services.wf.memory
    have run := exec_stop_running running
    have results (g : Slot) (queued : (s.slot g).state = .queued) : s.drain.hasResult g .cancelled .engineStop :=
      State.drain_hasResult memory (State.drained_queued wf holds queued)
    have boxes : s.drain.mailboxes = s.drained.mailboxes :=
      State.drain_same State.mailboxes (fun t p => t.updatePort_mailboxes p _) (fun _ _ => rfl) (fun _ _ => rfl) s
    have lists : s.drain.queues = s.drained.queues ∧ s.drain.deadlines = s.drained.deadlines :=
      ⟨State.drain_same State.queues (fun t p => t.updatePort_queues p _) (fun _ _ => rfl) (fun _ _ => rfl) s,
        State.drain_same State.deadlines (fun t p => t.updatePort_deadlines p _) (fun _ _ => rfl) (fun _ _ => rfl) s⟩
    have word (a : Nat) (ha : 0x0280 ≤ a) : s.drain.word a = s.drained.word a :=
      State.drain_word memory fun r => by have := portAddress_bounds r; omega
    have lifted : s.liftsWritten s.drain allPorts Contact.captured :=
      (State.drained_written wf holds).congr (fun _ _ _ => rfl) rfl boxes fun st r x _ => word _ (by
        have := mailboxAddress_bounds st r
        omega)
    have queue (q : Pool) : s.drain.queue q = s.drained.queue q := by
      unfold State.queue
      rw [lists.1]
    have queues (q : Pool) : s.drain.queue q = [] ∧ (s.queue q ≠ [] → s.drain.queueShown q) := by
      obtain ⟨empty, shown, -⟩ := State.drained_queues wf holds q
      exact ⟨(queue q).trans empty, fun full => (shown full).congr (queue q) (word _ (by have := poolAddress_bounds q; omega))⟩
    have deadlines : s.drain.deadlines = [] := lists.2.trans (State.drained_queues wf holds 0).2.2
    have ended (p : Port) (g : Slot) := State.drain_service (p := p) (g := g) wf holds
    have prints (p : Port) (g : Slot) := State.drain_print (p := p) (g := g) wf holds
    have others (g : Slot) (idle : (s.slot g).state ≠ .queued) (away : (s.slot g).state ≠ .serving) : s.drain.slot g = s.slot g := by
      rw [s.drain_slot, services.slots g fun p h => ?_, State.touchStopped_slot wf holds idle]
      rw [State.touchStopped_port] at h
      exact away (holds.2.2.1.2.1 p g h).1
    rw [settleInterrupt_eq] at run
    generalize s.drain = u at *
    exact ⟨_, run, results, lifted, queues, deadlines, ended, prints, others⟩

end

end Sys2Proof.Machine
end

/-! The obligation about START's completion: samples, mailboxes, contacts, ports and timers. -/
section
namespace Sys2Proof.Machine

section
variable {s t u : State} {p : Port} {st : Station} {r : Fin 4}

/-! ### What the completion leaves (R17) -/

/-- One port at entry to RUNNING. -/
def State.startPort (s : State) (p : Port) : State := (s.clearContacts p).openPort p

/-- The entry to RUNNING with the zones sampled. -/
def State.entered (s : State) : State := (s.setControl (startedControl s.mem)).sampleAllZones

theorem State.completeStart_eq (s : State) :
    s.completeStart = (allPorts.foldl State.startPort (allStations.foldl State.openStation s.entered)).setNotice .engine := rfl

theorem State.sampleZones_same {β : Type} (view : State → β) (port : ∀ t p y, view (State.setPort t p y) = view t) (s : State) (p : Port) :
    view (s.sampleZones p) = view s := by
  unfold State.sampleZones
  split
  · exact port _ _ _
  · rfl

theorem State.openMailbox_same {β : Type} (view : State → β) (word : ∀ t a v, view (State.putWord t a v) = view t)
    (box : ∀ t st r b, view (State.setMailbox t st r b) = view t) (s : State) (st : Station) (r : Fin 4) :
    view (s.openMailbox st r) = view s := by
  unfold State.openMailbox State.clearMailbox State.writeMailWords
  dsimp only
  rw [box, word, word, word, word, box]

theorem State.openStation_same {β : Type} (view : State → β) (word : ∀ t a v, view (State.putWord t a v) = view t)
    (box : ∀ t st r b, view (State.setMailbox t st r b) = view t) (s : State) (st : Station) : view (s.openStation st) = view s := by
  unfold State.openStation
  exact State.foldl_same view (fun t r => t.openMailbox_same view word box st r) fourIndices s

theorem State.startPort_same {β : Type} (view : State → β) (port : ∀ t p y, view (State.setPort t p y) = view t)
    (word : ∀ t a v, view (State.putWord t a v) = view t) (s : State) (p : Port) : view (s.startPort p) = view s := by
  have updated (t : State) (f : PortRecord → PortRecord) : view (t.updatePort p f) = view t := (word _ _ _).trans (port _ _ _)
  unfold State.startPort State.openPort
  dsimp only
  split
  · exact (updated _ _).trans (port _ _ _)
  · exact (port _ _ _).trans ((updated _ _).trans (port _ _ _))

theorem State.entered_same {β : Type} (view : State → β) (control : ∀ t f, view (State.setControl t f) = view t)
    (port : ∀ t p y, view (State.setPort t p y) = view t) (s : State) : view s.entered = view s := by
  unfold State.entered State.sampleAllZones
  rw [State.foldl_same view (fun t p => t.sampleZones_same view port p), control]

/-- A record of the part that the completion does not touch. -/
theorem State.completeStart_same {β : Type} (view : State → β) (control : ∀ t f, view (State.setControl t f) = view t)
    (port : ∀ t p y, view (State.setPort t p y) = view t) (word : ∀ t a v, view (State.putWord t a v) = view t)
    (box : ∀ t st r b, view (State.setMailbox t st r b) = view t) (notice : ∀ t b, view (State.setNotice t b) = view t) (s : State) :
    view s.completeStart = view s := by
  rw [State.completeStart_eq, notice, State.foldl_same view (fun t p => t.startPort_same view port word p) allPorts,
    State.foldl_same view (fun t st => t.openStation_same view word box st) allStations, s.entered_same view control port]

/-! ### The mailboxes (R17, R170) -/

/-- The next even value of a record's seq as memory holds it (R17). -/
def State.evenSeq (s : State) (st : Station) (r : Fin 4) : Half :=
  if ((s.word (mailboxAddress st r)).extractLsb' 0 16).toNat % 2 = 1 then (s.word (mailboxAddress st r)).extractLsb' 0 16 + 1
  else (s.word (mailboxAddress st r)).extractLsb' 0 16

/-- A mailbox record that has been written free. -/
def OpenedMailbox (s : State) (st : Station) (r : Fin 4) (t : State) : Prop :=
  t.mailbox st r = { seq := s.evenSeq st r + 2 } ∧ t.word (mailboxAddress st r) = (s.evenSeq st r + 2).setWidth 32 ∧
    t.word (mailboxAddress st r + 0x08) = 0 ∧ t.word (mailboxAddress st r + 0x0C) = 0

theorem State.openMailbox_mem : (s.openMailbox st r).mem = (s.writeMailWords st r (s.evenSeq st r) 0 0).mem := by
  unfold State.openMailbox State.clearMailbox
  dsimp only
  rw [State.mailbox_setMailbox]
  rfl

theorem State.openMailbox_only : Writes (mailWords st r) s.mem (s.openMailbox st r).mem := by
  rw [State.openMailbox_mem]
  exact State.writeMailWords_only

theorem State.openMailbox_opens (w : Memory.wf s.mem = true) : OpenedMailbox s st r (s.openMailbox st r) := by
  have words := State.writeMailWords_words (st := st) (r := r) (seq := s.evenSeq st r) (events := 0) (position := 0) w
  unfold State.word at words
  rw [← State.openMailbox_mem] at words
  refine ⟨?_, words⟩
  unfold State.openMailbox State.clearMailbox
  dsimp only
  rw [State.mailbox_setMailbox, State.mailbox_setMailbox]
  rfl

theorem State.openMailbox_other {st' : Station} {r' : Fin 4} (w : Memory.wf s.mem = true) (ne : (st', r') ≠ (st, r)) :
    (s.openMailbox st r).mailbox st' r' = s.mailbox st' r' ∧
      ∀ x, x ∈ [0, 8, 12] → (s.openMailbox st r).word (mailboxAddress st' r' + x) = s.word (mailboxAddress st' r' + x) := by
  refine ⟨?_, fun x hx => State.openMailbox_only.word w fun b hb => mailWords_apart (st' := st') (r' := r') (fun e => ne ?_) ?_⟩
  · unfold State.openMailbox State.clearMailbox
    dsimp only
    rw [State.mailbox_setMailbox_ne _ ne]
    exact State.mailbox_setMailbox_ne _ ne _
  · rw [e.1, e.2]
  · unfold mailWords within at *
    simp only [List.mem_cons, List.not_mem_nil, or_false] at hx
    omega

theorem OpenedMailbox.other {st' : Station} {r' : Fin 4} (w : Memory.wf t.mem = true) (ne : (st', r') ≠ (st, r)) :
    (t.word (mailboxAddress st' r') = s.word (mailboxAddress st' r') →
      (t.openMailbox st r).word (mailboxAddress st' r') = s.word (mailboxAddress st' r')) ∧
    (OpenedMailbox s st' r' t → OpenedMailbox s st' r' (t.openMailbox st r)) := by
  obtain ⟨box, words⟩ := State.openMailbox_other (s := t) w ne
  have zero := words 0 (by simp)
  rw [Nat.add_zero] at zero
  refine ⟨fun h => zero.trans h, fun ⟨record, seq, key, position⟩ => ⟨box.trans record, zero.trans seq, ?_, ?_⟩⟩
  · exact (words 8 (by simp)).trans key
  · exact (words 12 (by simp)).trans position

/-- All the records of all stations, in the order in which they are opened. -/
def allMailboxes : List (Station × Fin 4) := allStations.flatMap fun st => fourIndices.map fun r => (st, r)

theorem State.openStations_eq (s : State) : allStations.foldl State.openStation s =
    allMailboxes.foldl (fun s x => s.openMailbox x.1 x.2) s := by
  unfold allMailboxes
  generalize allStations = l
  induction l generalizing s with
  | nil => rfl
  | cons st rest ih =>
    rw [List.flatMap_cons, List.foldl_append, List.foldl_cons, List.foldl_map, ih]
    rfl

theorem State.openStations_opens (w : Memory.wf s.mem = true) (st : Station) (r : Fin 4) :
    OpenedMailbox s st r (allStations.foldl State.openStation s) := by
  rw [State.openStations_eq]
  obtain ⟨-, all, -⟩ := foldl_each (f := fun s (x : Station × Fin 4) => s.openMailbox x.1 x.2) (Inv := fun t => Memory.wf t.mem = true)
    (Ready := fun x t => t.word (mailboxAddress x.1 x.2) = s.word (mailboxAddress x.1 x.2))
    (Done := fun x t => OpenedMailbox s x.1 x.2 t)
    (fun t x w ready => ⟨State.openMailbox_only.wf w, by
      have opened := State.openMailbox_opens (s := t) (st := x.1) (r := x.2) w
      unfold OpenedMailbox State.evenSeq at opened ⊢
      rw [ready] at opened
      exact opened⟩)
    (fun t x y w _ ne => OpenedMailbox.other (st := x.1) (r := x.2) (st' := y.1) (r' := y.2) w ne)
    allMailboxes (by
      refine List.nodup_flatMap.mpr ⟨fun st _ => (List.nodup_finRange 4).map fun a b e => (Prod.mk.inj e).2, ?_⟩
      refine (List.nodup_finRange 32).imp fun {a b} ne x ha hb => ne ?_
      obtain ⟨_, -, rfl⟩ := List.mem_map.mp ha
      obtain ⟨_, -, e⟩ := List.mem_map.mp hb
      exact (Prod.mk.inj e).1.symm) s w fun _ _ => rfl
  exact all (st, r) (List.mem_flatMap.mpr ⟨st, List.mem_finRange st, List.mem_map.mpr ⟨r, List.mem_finRange r, rfl⟩⟩)

end

end Sys2Proof.Machine
end

/-! The obligation about START's completion: samples, mailboxes, contacts, ports and timers. -/
section
namespace Sys2Proof.Machine

section
variable {s t u : State} {p : Port} {st : Station} {r : Fin 4}

/-! ### The ports (R17, R114, R164) -/

/-- A port with its contacts clear, and the probe of its class begun. -/
def PortRecord.started (x : PortRecord) (cls : PortClass) : PortRecord :=
  let y := probingPort cls { x with contacts := Vector.replicate 10 .none }
  if cls = .none then y else { y with transmitter := offer { frame := .ask, owner := .probe } y.transmitter }

/-- A port with its zones sampled. -/
def PortRecord.zonesSampled (x : PortRecord) (cls : PortClass) (m : Memory) (p : Port) : PortRecord :=
  if cls = .panel then { x with zones := Vector.ofFn fun z => readZone m p z.val } else x

theorem State.startPort_port : (s.startPort p).port p = (s.port p).started (s.portConfig p).cls := by
  have clear : (s.clearContacts p).port p = { s.port p with contacts := Vector.replicate 10 .none } := State.port_modifyPort s p _
  have config : (s.clearContacts p).portConfig p = s.portConfig p := rfl
  unfold State.startPort State.openPort PortRecord.started
  dsimp only
  rw [config]
  by_cases none : (s.portConfig p).cls = .none
  · rw [if_pos none, if_pos none, State.port_updatePort, clear]
  · rw [if_neg none, if_neg none]
    unfold State.offerAsk State.transmit
    rw [State.port_modifyPort, State.port_updatePort, clear]

theorem State.startPort_port_ne {q : Port} (ne : q ≠ p) : (s.startPort p).port q = s.port q := by
  have clear : (s.clearContacts p).port q = s.port q := State.port_modifyPort_ne s ne _
  unfold State.startPort State.openPort
  dsimp only
  split
  · rw [State.port_updatePort_ne _ ne, clear]
  · unfold State.offerAsk State.transmit
    rw [State.port_modifyPort_ne _ ne, State.port_updatePort_ne _ ne, clear]

theorem State.sampleZones_port : (s.sampleZones p).port p = (s.port p).zonesSampled (s.portConfig p).cls s.mem p := by
  unfold State.sampleZones PortRecord.zonesSampled
  split
  · exact State.port_modifyPort s p _
  · rfl

theorem State.sampleZones_port_ne {q : Port} (ne : q ≠ p) : (s.sampleZones p).port q = s.port q := by
  unfold State.sampleZones
  split
  · exact State.port_modifyPort_ne s ne _
  · rfl

theorem State.entered_port (s : State) (p : Port) : s.entered.port p = (s.port p).zonesSampled (s.portConfig p).cls s.mem p := by
  unfold State.entered State.sampleAllZones
  have fold := State.port_foldl_allPorts (f := State.sampleZones) (change := fun p x => x.zonesSampled (s.portConfig p).cls s.mem p)
    (seen := fun t => t.ctl.work = s.ctl.work ∧ t.mem = s.mem)
    (fun t p h => ⟨(congrArg Control.work (t.sampleZones_same State.ctl (fun _ _ _ => rfl) p)).trans h.1,
      (t.sampleZones_same State.mem (fun _ _ _ => rfl) p).trans h.2⟩)
    (fun t p h => by
      rw [State.sampleZones_port, h.2]
      unfold State.portConfig
      rw [h.1])
    (fun t p q h => State.sampleZones_port_ne h) (s.setControl (startedControl s.mem)) ⟨rfl, rfl⟩ p
  rw [fold]
  rfl

theorem State.completeStart_port (s : State) (p : Port) :
    s.completeStart.port p = ((s.port p).zonesSampled (s.portConfig p).cls s.mem p).started (s.portConfig p).cls := by
  have work : s.entered.ctl.work = s.ctl.work := by
    have kept : s.entered.ctl = (s.setControl (startedControl s.mem)).ctl := (State.sampleAllZones_kept _).ctl
    rw [kept]
    rfl
  have ports : (allStations.foldl State.openStation s.entered).ports = s.entered.ports :=
    State.foldl_same State.ports (fun t st => t.openStation_same State.ports (fun _ _ _ => rfl) (fun _ _ _ _ => rfl) st) allStations _
  have control : (allStations.foldl State.openStation s.entered).ctl = s.entered.ctl :=
    State.foldl_same State.ctl (fun t st => t.openStation_same State.ctl (fun _ _ _ => rfl) (fun _ _ _ _ => rfl) st) allStations _
  have opened : (allStations.foldl State.openStation s.entered).port p = s.entered.port p := by
    unfold State.port
    rw [ports]
  have notice (t : State) : (t.setNotice .engine).port p = t.port p := rfl
  rw [State.completeStart_eq, notice, State.port_foldl_allPorts (f := State.startPort)
    (change := fun p x => x.started (s.portConfig p).cls) (seen := fun t => t.ctl.work = s.ctl.work)
    (fun t p h => (congrArg Control.work (t.startPort_same State.ctl (fun _ _ _ => rfl) (fun _ _ _ => rfl) p)).trans h)
    (fun t p h => by
      rw [State.startPort_port]
      unfold State.portConfig
      rw [h])
    (fun t p q h => State.startPort_port_ne h) _ (by rw [control, work]) p, opened, State.entered_port]

/-! ### Exchange memory (R17, R113) -/

theorem State.openMailbox_bytes (s : State) (st : Station) (r : Fin 4) :
    Writes (fun a => ∃ st, mailboxBytes st a) s.mem (s.openMailbox st r).mem :=
  State.openMailbox_only.mono fun _ h => ⟨st, mailWords_bytes h⟩

theorem State.startPort_writes (s : State) (p : Port) : Writes (fun a => ∃ p, portMirror p a) s.mem (s.startPort p).mem := by
  have update (f : PortRecord → PortRecord) := ((s.clearContacts p).updatePort_writes p f).mono (C := fun a => ∃ p, portMirror p a)
    fun _ h => ⟨p, h⟩
  unfold State.startPort State.openPort
  dsimp only
  split
  · exact update _
  · exact update _

theorem State.entered_mem (s : State) : s.entered.mem = s.mem :=
  s.entered_same State.mem (fun _ _ => rfl) fun _ _ _ => rfl

theorem State.openedStations_writes (s : State) : Writes (fun a => ∃ st, mailboxBytes st a) s.mem (allStations.foldl State.openStation s.entered).mem := by
  rw [State.openStations_eq, ← State.entered_mem]
  exact Writes.foldl (f := fun s (x : Station × Fin 4) => s.openMailbox x.1 x.2) (fun t x => t.openMailbox_bytes x.1 x.2) allMailboxes _

theorem State.startPorts_writes (s : State) : Writes (fun a => ∃ p, portMirror p a) s.mem (allPorts.foldl State.startPort s).mem :=
  Writes.foldl State.startPort_writes allPorts s

/-- The mailboxes behind the completion. -/
theorem State.completeStart_opens (w : Memory.wf s.mem = true) (st : Station) (r : Fin 4) : OpenedMailbox s st r s.completeStart := by
  have start : Memory.wf s.entered.mem = true := by rw [State.entered_mem]; exact w
  obtain ⟨record, seq, key, position⟩ := State.openStations_opens start st r
  have even : s.entered.evenSeq st r = s.evenSeq st r := by
    unfold State.evenSeq State.word
    rw [State.entered_mem]
  rw [even] at record seq
  have w2 : Memory.wf (allStations.foldl State.openStation s.entered).mem = true := (State.openedStations_writes s).wf w
  have bounds := mailboxAddress_bounds st r
  have word (x : Nat) (hx : x ≤ 12) : s.completeStart.word (mailboxAddress st r + x) =
      (allStations.foldl State.openStation s.entered).word (mailboxAddress st r + x) := by
    unfold State.word
    rw [State.completeStart_eq, State.setNotice_mem]
    exact (State.startPorts_writes _).word w2 fun b hb ⟨p, hp⟩ => by
      have := portAddress_bounds p
      unfold portMirror within at *
      omega
  have boxes : s.completeStart.mailbox st r = (allStations.foldl State.openStation s.entered).mailbox st r := by
    rw [State.completeStart_eq]
    have same := State.foldl_same State.mailboxes (fun t p => t.startPort_same State.mailboxes (fun _ _ _ => rfl) (fun _ _ _ => rfl) p)
      allPorts (allStations.foldl State.openStation s.entered)
    unfold State.mailbox
    rw [State.setNotice_mailboxes, same]
  refine ⟨boxes.trans record, ?_, (word 8 (by omega)).trans key, (word 12 (by omega)).trans position⟩
  exact (word 0 (by omega)).trans seq

theorem State.completeStart_writes (w : Memory.wf s.mem = true) :
    s.memoryKept s.completeStart (fun a => (∃ st, mailboxBytes st a) ∨ ∃ p, portMirror p a) := by
  have both : Writes (fun a => (∃ st, mailboxBytes st a) ∨ ∃ p, portMirror p a) s.mem s.completeStart.mem := by
    rw [State.completeStart_eq, State.setNotice_mem]
    exact ((State.openedStations_writes s).mono fun _ => .inl).trans ((State.startPorts_writes _).mono fun _ => .inr)
  exact both.kept w

theorem State.completeStart_notice (s : State) : s.completeStart.notice = s.notice ||| 0x02 := by
  rw [State.completeStart_eq]
  have same := State.foldl_same State.notice (fun t p => t.startPort_same State.notice (fun _ _ _ => rfl) (fun _ _ _ => rfl) p)
    allPorts (allStations.foldl State.openStation s.entered)
  have opened := State.foldl_same State.notice (fun t st => t.openStation_same State.notice (fun _ _ _ => rfl) (fun _ _ _ _ => rfl) st)
    allStations s.entered
  have first := s.entered_same State.notice (fun _ _ => rfl) fun _ _ _ => rfl
  have set (t : State) : (t.setNotice .engine).notice = t.notice ||| 0x02 := rfl
  rw [set, same, opened, first]

end

end Sys2Proof.Machine
end

/-! The obligation about START's completion: samples, mailboxes, contacts, ports and timers. -/
section
namespace Sys2Proof.Machine

section
variable {s u : State} {p : Port} {cls : PortClass} {x : PortRecord}

/-- The port that START opens: PROBING with its ASK being sent. -/
theorem PortRecord.started_probing (rest : x.atRest) (h : cls ≠ .none) :
    (x.started cls).state = .probing ∧ (x.started cls).receiver = .hunting ∧ (x.started cls).probeTimer = none ∧
      (x.started cls).transmitter = {
        sending := .outstanding
        outstanding := some { offered := { frame := .ask, owner := .probe }, sends := 1, phase := .beingSent } } := by
  obtain ⟨-, transmitter, probe⟩ := rest
  unfold PortRecord.started probingPort
  dsimp only
  rw [if_neg h, if_neg h]
  refine ⟨rfl, rfl, probe, ?_⟩
  dsimp only
  rw [transmitter]
  rfl

theorem PortRecord.level_rest {y : PortRecord} (h : y.output = []) (time : Nat) : y.level time = true := by
  unfold PortRecord.level
  rw [h]
  rfl

/-- A port of class NONE stays at rest, its line high (R97, R114). -/
theorem PortRecord.started_none (rest : x.atRest) :
    (x.started .none).atRest ∧ (x.started .none).output = [] ∧ ∀ time, (x.started .none).level time = true := by
  obtain ⟨state, transmitter, probe⟩ := rest
  have output : (x.started .none).output = [] := by
    show (none : Option (Byte × Bool)).toList ++ wireCharacters x.transmitter = []
    rw [transmitter]
    rfl
  exact ⟨⟨state, transmitter, probe⟩, output, PortRecord.level_rest output⟩

theorem PortRecord.started_clear (x : PortRecord) (cls : PortClass) : (x.started cls).condition = .none ∧
    (x.started cls).capability = 0 ∧ (x.started cls).contacts = Vector.replicate 10 .none ∧ (x.started cls).zones = x.zones := by
  unfold PortRecord.started probingPort
  dsimp only
  by_cases h : cls = .none
  · rw [if_pos h, if_pos h]
    exact ⟨rfl, rfl, rfl, rfl⟩
  · rw [if_neg h, if_neg h]
    exact ⟨rfl, rfl, rfl, rfl⟩

theorem PortRecord.zonesSampled_atRest {m : Memory} (rest : x.atRest) : (x.zonesSampled cls m p).atRest := by
  unfold PortRecord.zonesSampled
  split <;> exact rest

/-- Settles O22: the completion behind the slots that the rebuild had left. -/
theorem startCompletes : Obligations.StartCompletes := by
  intro s next wf starting phase rest
  dsimp only
  obtain ⟨u, hu⟩ : ∃ u, u = s.rebuildSlots (allSlots.drop next) := ⟨_, rfl⟩
  have run : exec .startCompletion s = .next (settleInterrupt s u.completeStart) := by
    have event : exec .startCompletion s = .next (closeEvent s (s.rebuildSlots (allSlots.drop next)).completeStart) := by
      show execStartCompletion s = _
      unfold execStartCompletion
      rw [starting, phase]
    rw [event, ← hu]
    refine congrArg Host.Outcome.next (closeEvent_settles fun k => ?_)
    rw [State.completeStart_ctl] at k
    exact Engine.noConfusion k
  have memory : Memory.wf u.mem = true := by rw [hu]; exact ((s.rebuildSlots_kept _).data wf).memory
  have ctl : u.ctl = s.ctl := by rw [hu, State.rebuildSlots_ctl]
  have resting (p : Port) : (u.port p).atRest := by
    have ports : u.ports = s.ports := by rw [hu, State.rebuildSlots_ports]
    unfold State.port
    rw [ports]
    exact (rest (by rw [starting]; rfl)).2.2.2.2.2.2 p
  rw [← hu]
  have config (p : Port) : u.portConfig p = s.portConfig p := by unfold State.portConfig; rw [ctl]
  have control := u.completeStart_ctl
  have port := u.completeStart_port
  have opens := State.completeStart_opens memory
  have writes := State.completeStart_writes memory
  have notice := u.completeStart_notice
  have same {β : Type} (view : State → β) (a : ∀ t f, view (State.setControl t f) = view t)
    (b : ∀ t p y, view (State.setPort t p y) = view t) (c : ∀ t x v, view (State.putWord t x v) = view t)
    (d : ∀ t st r y, view (State.setMailbox t st r y) = view t) (e : ∀ t n, view (State.setNotice t n) = view t) :=
    State.completeStart_same view a b c d e u
  have stationNotice := same State.stationNotice (fun _ _ => rfl) (fun _ _ _ => rfl) (fun _ _ _ => rfl) (fun _ _ _ _ => rfl) fun _ _ => rfl
  have slots := same State.slots (fun _ _ => rfl) (fun _ _ _ => rfl) (fun _ _ _ => rfl) (fun _ _ _ _ => rfl) fun _ _ => rfl
  have queues := same State.queues (fun _ _ => rfl) (fun _ _ _ => rfl) (fun _ _ _ => rfl) (fun _ _ _ _ => rfl) fun _ _ => rfl
  have deadlines := same State.deadlines (fun _ _ => rfl) (fun _ _ _ => rfl) (fun _ _ _ => rfl) (fun _ _ _ _ => rfl) fun _ _ => rfl
  have stats := same State.stats (fun _ _ => rfl) (fun _ _ _ => rfl) (fun _ _ _ => rfl) (fun _ _ _ _ => rfl) fun _ _ => rfl
  have stations := same State.stations (fun _ _ => rfl) (fun _ _ _ => rfl) (fun _ _ _ => rfl) (fun _ _ _ _ => rfl) fun _ _ => rfl
  have marks := same State.marks (fun _ _ => rfl) (fun _ _ _ => rfl) (fun _ _ _ => rfl) (fun _ _ _ _ => rfl) fun _ _ => rfl
  have spare := same State.spare (fun _ _ => rfl) (fun _ _ _ => rfl) (fun _ _ _ => rfl) (fun _ _ _ _ => rfl) fun _ _ => rfl
  have free := same State.free (fun _ _ => rfl) (fun _ _ _ => rfl) (fun _ _ _ => rfl) (fun _ _ _ _ => rfl) fun _ _ => rfl
  have pending := same State.pending (fun _ _ => rfl) (fun _ _ _ => rfl) (fun _ _ _ => rfl) (fun _ _ _ _ => rfl) fun _ _ => rfl
  rw [settleInterrupt_eq] at run
  generalize u.completeStart = t at *
  have queuesKept : u.queues = s.queues := by rw [hu, State.rebuildSlots_queues]
  have deadlinesKept : u.deadlines = s.deadlines := by rw [hu, State.rebuildSlots_deadlines]
  have statsKept : u.stats = s.stats := by rw [hu, State.rebuildSlots_stats]
  have spareKept : u.spare = s.spare := by rw [hu, State.rebuildSlots_spare]
  have freeKept : u.free = s.free := by rw [hu, State.rebuildSlots_free]
  have pendingKept : u.pending = s.pending := by rw [hu, State.rebuildSlots_pending]
  refine ⟨_, run, ?_, notice, stationNotice, fun p => ?_, fun p h => ?_, fun p h => ?_, fun p z h => ?_, fun st r => opens st r, writes,
    slots, queues.trans queuesKept, deadlines.trans deadlinesKept, stats.trans statsKept, stations, marks, spare.trans spareKept,
    free.trans freeKept, pending.trans pendingKept⟩
  · dsimp only
    rw [control, ctl]
    rfl
  · obtain ⟨condition, capability, contacts, -⟩ := PortRecord.started_clear ((u.port p).zonesSampled (u.portConfig p).cls u.mem p)
      (u.portConfig p).cls
    rw [← port p] at condition capability contacts
    refine ⟨condition, capability, fun i => ?_⟩
    show (t.port p).contacts[i.val] = _
    rw [contacts]
    exact Vector.getElem_replicate _
  · show (t.port p).state = _ ∧ (t.port p).receiver = _ ∧ (t.port p).probeTimer = _ ∧ (t.port p).transmitter = _
    rw [port, config]
    exact PortRecord.started_probing (PortRecord.zonesSampled_atRest (resting p)) h
  · show (t.port p).atRest ∧ (t.port p).output = [] ∧ ∀ time, (t.port p).level time = true
    rw [port, config, h]
    exact PortRecord.started_none (PortRecord.zonesSampled_atRest (resting p))
  · show (t.port p).zones[z.val] = _
    have sampled : ((u.port p).zonesSampled (u.portConfig p).cls u.mem p).zones = Vector.ofFn fun z : Fin 16 => readZone u.mem p z.val := by
      unfold PortRecord.zonesSampled
      rw [if_pos (by rw [config]; exact h)]
    have zones := (PortRecord.started_clear ((u.port p).zonesSampled (u.portConfig p).cls u.mem p) (u.portConfig p).cls).2.2.2.trans sampled
    rw [← port p] at zones
    rw [zones]
    exact Vector.getElem_ofFn z.isLt

end

end Sys2Proof.Machine
end

/-! SUPPORT. The rebuild of one slot, and the walk of its result chain (R16). -/
section
namespace Sys2Proof.Machine

section
variable {s t : State} {g h : Slot} {b : Nat} {blocks : List Nat}

/-! ### Blocks that join a result chain (R16, R139) -/

/-- A block marked RESULT at the end of a slot's result chain. -/
def State.chainBlock (s : State) (g : Slot) (b : Nat) : State :=
  (s.setMark b .result).updateJob g fun j => { j with resultChain := j.resultChain ++ [b] }

/-- Blocks marked RESULT at the end of a slot's result chain, in their order. -/
def State.chained (s : State) (g : Slot) (blocks : List Nat) : State := blocks.foldl (fun s b => s.chainBlock g b) s

theorem State.chainBlock_same {β : Type} (view : State → β) (mark : ∀ t b m, view (State.setMark t b m) = view t)
    (job : ∀ t g f, view (State.updateJob t g f) = view t) : view (s.chainBlock g b) = view s := (job _ _ _).trans (mark _ _ _)

theorem State.chained_same {β : Type} (view : State → β) (mark : ∀ t b m, view (State.setMark t b m) = view t)
    (job : ∀ t g f, view (State.updateJob t g f) = view t) : view (s.chained g blocks) = view s :=
  State.foldl_same view (fun _ _ => State.chainBlock_same view mark job) blocks s

theorem State.chainBlock_slot : (s.chainBlock g b).slot g =
    { s.slot g with job := { s.job g with resultChain := (s.job g).resultChain ++ [b] } } := by
  have slots : (s.setMark b .result).slots = s.slots := State.setMark_slots s b .result
  have slot : (s.setMark b .result).slot g = s.slot g := by
    unfold State.slot
    rw [slots]
  unfold State.chainBlock State.updateJob
  rw [State.slot_setSlot]
  unfold State.job
  rw [slot]

theorem State.chainBlock_slot_ne (ne : h ≠ g) : (s.chainBlock g b).slot h = s.slot h := by
  have slots : (s.setMark b .result).slots = s.slots := State.setMark_slots s b .result
  unfold State.chainBlock State.updateJob
  rw [State.slot_setSlot_ne _ ne]
  unfold State.slot
  rw [slots]

theorem State.chained_slot (blocks : List Nat) : ∀ s : State, (s.chained g blocks).slot g =
    { s.slot g with job := { s.job g with resultChain := (s.job g).resultChain ++ blocks } } := by
  induction blocks with
  | nil =>
    intro s
    rw [List.append_nil]
    rfl
  | cons b rest ih =>
    intro s
    have next := ih (s.chainBlock g b)
    unfold State.job at next
    rw [State.chainBlock_slot] at next
    refine next.trans ?_
    dsimp only
    rw [List.append_assoc]
    rfl

theorem State.chained_slot_ne (ne : h ≠ g) (blocks : List Nat) : ∀ s : State, (s.chained g blocks).slot h = s.slot h := by
  induction blocks with
  | nil => exact fun _ => rfl
  | cons b rest ih => exact fun s => (ih (s.chainBlock g b)).trans (State.chainBlock_slot_ne ne)

theorem State.chainBlock_mark (hb : inMap b) (a : Nat) : (s.chainBlock g b).mark a = if a = b then .result else s.mark a := by
  show (s.setMark b .result).mark a = _
  split
  · next e => rw [e]; exact s.mark_setMark hb _
  · next e => exact s.mark_setMark_ne e _

theorem State.chained_mark (blocks : List Nat) : ∀ s : State, (∀ b ∈ blocks, inMap b) → ∀ a,
    (s.chained g blocks).mark a = if a ∈ blocks then .result else s.mark a := by
  induction blocks with
  | nil => exact fun s _ a => (if_neg List.not_mem_nil).symm
  | cons b rest ih =>
    intro s range a
    have next := ih (s.chainBlock g b) (fun c hc => range c (List.mem_cons_of_mem b hc)) a
    refine next.trans ?_
    rw [State.chainBlock_mark (range b List.mem_cons_self)]
    by_cases later : a ∈ rest
    · rw [if_pos later, if_pos (List.mem_cons_of_mem b later)]
    · rw [if_neg later]
      by_cases e : a = b
      · rw [if_pos e, if_pos (by rw [e]; exact List.mem_cons_self)]
      · rw [if_neg e, if_neg fun k => (List.mem_cons.mp k).elim e later]

/-- Blocks that a walk may take: of the map, OUTSIDE, each once. -/
structure State.takesChain (s : State) (blocks : List Nat) : Prop where
  nodup : blocks.Nodup
  range : ∀ b ∈ blocks, inMap b
  outside : ∀ b ∈ blocks, s.mark b = .outside

theorem State.takesChain.nil : s.takesChain [] :=
  ⟨List.nodup_nil, fun _ h => absurd h List.not_mem_nil, fun _ h => absurd h List.not_mem_nil⟩

theorem isBlock_iff (b : Nat) : isBlock b = true ↔ inMap b := by
  unfold isBlock inMap Config.blocks
  simp

/-! ### The walk (R16) -/

/-- A walk marks and records blocks that it may take, and counts at most one handover fault. -/
theorem State.rebuildWalk_spec (n : Nat) : ∀ (b : Nat) (s : State), ∃ blocks, s.takesChain blocks ∧
    (State.rebuildWalk g n b s = s.chained g blocks ∨ State.rebuildWalk g n b s = (s.chained g blocks).rebuildFault g) := by
  induction n with
  | zero =>
    intro b s
    refine ⟨[], .nil, ?_⟩
    unfold State.rebuildWalk
    by_cases zero : b = 0
    · rw [if_pos zero]
      exact .inl rfl
    · rw [if_neg zero]
      by_cases good : (isBlock b && s.mark b == .outside) = true
      · rw [if_pos good]
        exact .inl rfl
      · rw [if_neg good]
        exact .inr rfl
  | succ n ih =>
    intro b s
    unfold State.rebuildWalk
    by_cases zero : b = 0
    · rw [if_pos zero]
      exact ⟨[], .nil, .inl rfl⟩
    · rw [if_neg zero]
      by_cases good : (isBlock b && s.mark b == .outside) = true
      · rw [if_pos good]
        rw [Bool.and_eq_true, beq_iff_eq, isBlock_iff] at good
        obtain ⟨rest, takes, walks⟩ := ih (readLink s.mem b) (s.chainBlock g b)
        have marked (c : Nat) (hc : c ∈ rest) : c ≠ b ∧ s.mark c = .outside := by
          have out := takes.outside c hc
          rw [State.chainBlock_mark good.1] at out
          by_cases e : c = b
          · rw [if_pos e] at out
            cases out
          · rw [if_neg e] at out
            exact ⟨e, out⟩
        refine ⟨b :: rest, ⟨List.nodup_cons.mpr ⟨fun k => (marked b k).1 rfl, takes.nodup⟩, fun c hc => ?_, fun c hc => ?_⟩, walks⟩
        · rcases List.mem_cons.mp hc with rfl | hc
          · exact good.1
          · exact takes.range c hc
        · rcases List.mem_cons.mp hc with rfl | hc
          · exact good.2
          · exact (marked c hc).2
      · rw [if_neg good]
        exact ⟨[], .nil, .inr rfl⟩

/-- A walk over blocks that it may take, to an index that ends it. -/
theorem State.rebuildWalk_takes (n : Nat) : ∀ (first : Nat) (s : State) (blocks : List Nat) (last : Nat), s.takesChain blocks →
    blocks.length ≤ n → first :: blocks.map (readLink s.mem) = blocks ++ [last] →
    (last = 0 ∨ 896 < last ∨ s.mark last ≠ .outside ∨ last ∈ blocks) →
    State.rebuildWalk g n first s = if last = 0 then s.chained g blocks else (s.chained g blocks).rebuildFault g := by
  induction n with
  | zero =>
    intro first s blocks last _ short walk stops
    obtain rfl : blocks = [] := List.length_eq_zero_iff.mp (by omega)
    obtain rfl : first = last := by simpa using walk
    unfold State.rebuildWalk
    by_cases zero : first = 0
    · rw [if_pos zero, if_pos zero]
      rfl
    · rw [if_neg zero, if_neg zero, if_neg]
      · rfl
      · rw [Bool.and_eq_true, beq_iff_eq, isBlock_iff]
        rintro ⟨range, out⟩
        unfold inMap at range
        rcases stops with k | k | k | k
        · exact zero k
        · omega
        · exact k out
        · exact absurd k List.not_mem_nil
  | succ n ih =>
    intro first s blocks last takes short walk stops
    unfold State.rebuildWalk
    cases blocks with
    | nil =>
      obtain rfl : first = last := by simpa using walk
      by_cases zero : first = 0
      · rw [if_pos zero, if_pos zero]
        rfl
      · rw [if_neg zero, if_neg zero, if_neg]
        · rfl
        · rw [Bool.and_eq_true, beq_iff_eq, isBlock_iff]
          rintro ⟨range, out⟩
          unfold inMap at range
          rcases stops with k | k | k | k
          · exact zero k
          · omega
          · exact k out
          · exact absurd k List.not_mem_nil
    | cons b rest =>
      rw [List.map_cons, List.cons_append] at walk
      obtain ⟨rfl, walk⟩ := List.cons.inj walk
      have range := takes.range first List.mem_cons_self
      have out := takes.outside first List.mem_cons_self
      obtain ⟨fresh, nodup⟩ := List.nodup_cons.mp takes.nodup
      have good : (isBlock first && s.mark first == .outside) = true := by
        rw [Bool.and_eq_true, beq_iff_eq, isBlock_iff]
        exact ⟨range, out⟩
      rw [if_neg (by unfold inMap at range; omega), if_pos good]
      have mem : (s.chainBlock g first).mem = s.mem :=
        State.chainBlock_same State.mem (fun t b m => State.setMark_mem t b m) fun _ _ _ => rfl
      refine ih (readLink s.mem first) (s.chainBlock g first) rest last ⟨nodup, fun c hc => takes.range c (List.mem_cons_of_mem _ hc),
        fun c hc => ?_⟩ (by simp at short; omega) (by rw [mem]; exact walk) ?_
      · rw [State.chainBlock_mark range, if_neg fun e : c = first => fresh (e ▸ hc)]
        exact takes.outside c (List.mem_cons_of_mem _ hc)
      · rcases stops with k | k | k | k
        · exact .inl k
        · exact .inr (.inl k)
        · refine .inr (.inr (.inl ?_))
          rw [State.chainBlock_mark range]
          split
          · exact fun e => BlockMark.noConfusion e
          · exact k
        · rcases List.mem_cons.mp k with e | k
          · refine .inr (.inr (.inl ?_))
            rw [State.chainBlock_mark range, if_pos e]
            exact fun e => BlockMark.noConfusion e
          · exact .inr (.inr (.inr k))

end

end Sys2Proof.Machine
end

/-! SUPPORT. What the rebuild of one slot leaves (R16). -/
section
namespace Sys2Proof.Machine

section
variable {s t u : State} {g h : Slot} {b : Nat} {blocks : List Nat}

/-- What the rebuild of a slot keeps: the other slots, the other stations, the scores, every byte but the slot's and the tallies',
and the marks that are RESULT; the tallies' mirror stays exact. -/
structure Rebuilds (g : Slot) (s t : State) : Prop where
  writes : Writes (fun a => within (slotAddress g) 64 a ∨ within (stationAddress (stationOf g) + 8) 4 a) s.mem t.mem
  slots : ∀ h, h ≠ g → t.slot h = s.slot h
  stations : ∀ st, st ≠ stationOf g → t.counters st = s.counters st
  scores : (t.counters (stationOf g)).usage = (s.counters (stationOf g)).usage ∧
    (t.counters (stationOf g)).overflow = (s.counters (stationOf g)).overflow
  tally : Memory.wf s.mem = true → s.word (stationAddress (stationOf g) + 8) = tallyWord (s.counters (stationOf g)) →
    t.word (stationAddress (stationOf g) + 8) = tallyWord (t.counters (stationOf g))
  marks : ∀ b, t.mark b = s.mark b ∨ t.mark b = .result

theorem Rebuilds.trans (a : Rebuilds g s t) (b : Rebuilds g t u) : Rebuilds g s u where
  writes := a.writes.trans b.writes
  slots h ne := (b.slots h ne).trans (a.slots h ne)
  stations st ne := (b.stations st ne).trans (a.stations st ne)
  scores := ⟨b.scores.1.trans a.scores.1, b.scores.2.trans a.scores.2⟩
  tally w shown := b.tally (a.writes.wf w) (a.tally w shown)
  marks c := (b.marks c).elim (fun e => e ▸ a.marks c) .inr

/-- A change of a slot's shadow alone. -/
theorem Rebuilds.shadow (mem : t.mem = s.mem) (slots : ∀ h, h ≠ g → t.slot h = s.slot h) (stations : t.stations = s.stations)
    (marks : ∀ b, t.mark b = s.mark b ∨ t.mark b = .result) : Rebuilds g s t where
  writes := .of_eq mem
  slots := slots
  stations st _ := by unfold State.counters; rw [stations]
  scores := by
    unfold State.counters
    rw [stations]
    exact ⟨rfl, rfl⟩
  tally _ shown := by
    unfold State.word State.counters at *
    rw [mem, stations]
    exact shown
  marks := marks

theorem State.mark_congr (marks : t.marks = s.marks) (b : Nat) : t.mark b = s.mark b := by
  unfold State.mark
  rw [marks]

theorem setShadow_rebuilds (x : SlotState) : Rebuilds g s (s.setShadow g x) :=
  .shadow rfl (fun h ne => s.slot_setSlot_ne ne _) rfl fun _ => .inl rfl

theorem chained_rebuilds (range : ∀ b ∈ blocks, inMap b) : Rebuilds g s (s.chained g blocks) := by
  have mem : (s.chained g blocks).mem = s.mem := State.chained_same State.mem (fun t b m => State.setMark_mem t b m) fun _ _ _ => rfl
  have stations : (s.chained g blocks).stations = s.stations :=
    State.chained_same State.stations (fun t b m => State.setMark_stations t b m) fun _ _ _ => rfl
  refine .shadow mem (fun h ne => State.chained_slot_ne ne blocks s) stations fun b => ?_
  rw [State.chained_mark blocks s range]
  split
  · exact .inr rfl
  · exact .inl rfl

theorem State.rebuildFault_counters : (s.rebuildFault g).counters (stationOf g) =
    { s.counters (stationOf g) with handoverFaults := min 65535 ((s.counters (stationOf g)).handoverFaults + 1) } :=
  State.counters_updateCounters s (stationOf g) .tallies fun c => { c with handoverFaults := min 65535 (c.handoverFaults + 1) }

theorem rebuildFault_rebuilds : Rebuilds g s (s.rebuildFault g) where
  writes := (writeWord_writes s.mem (stationAddress (stationOf g) + 8) _).mono fun _ => .inr
  slots _ _ := rfl
  stations st ne := State.counters_updateCounters_ne s ne .tallies fun c => { c with handoverFaults := min 65535 (c.handoverFaults + 1) }
  scores := by
    rw [State.rebuildFault_counters]
    exact ⟨rfl, rfl⟩
  tally w _ := by
    rw [State.rebuildFault_counters]
    exact State.updateCounters_word w (stationOf g) .tallies fun c => { c with handoverFaults := min 65535 (c.handoverFaults + 1) }
  marks _ := .inl rfl

theorem closeFinish_rebuilds {o : JobOutcome} {d : Detail} : Rebuilds g s (s.closeFinish g o d) where
  writes := by
    rw [State.closeFinish_mem]
    refine ((writeWord_writes s.mem (slotAddress g) 4).mono fun a ha => .inl ⟨ha.1, by unfold within at ha; omega⟩).trans ?_
    exact (writeWord_writes _ _ _).mono fun _ => .inr
  slots h ne := State.closeFinish_slot_ne s g o d ne
  stations st ne := State.closeFinish_counters_ne s g o d ne
  scores := by
    rw [State.closeFinish_counters]
    exact ⟨rfl, rfl⟩
  tally w _ := State.closeFinish_tally w
  marks _ := .inl rfl

theorem slotWord_rebuilds {x : Nat} (hx : x ≤ 60) (v : Word) : Rebuilds g s (s.putWord (slotAddress g + x) v) where
  writes := (s.putWord_writes _ v).mono fun a ha => .inl ⟨by unfold within at ha; omega, by unfold within at ha; omega⟩
  slots _ _ := rfl
  stations _ _ := rfl
  scores := ⟨rfl, rfl⟩
  tally w shown := by
    have hg := slotAddress_bounds g
    have hs := stationAddress_bounds (stationOf g)
    rw [State.word_putWord_ne w (by omega)]
    exact shown
  marks _ := .inl rfl

theorem handSlot_rebuilds (x : SlotState) : Rebuilds g s (s.handSlot g x) :=
  (setShadow_rebuilds x).trans (slotWord_rebuilds (x := 0) (by omega) (ownerCode x))

/-! ### The rebuild by the owner code (R16) -/

theorem State.rebuildSlot_closed (owner : readOwner s.mem g = some .queued ∨ readOwner s.mem g = some .serving) : s.rebuildSlot g =
    (s.putWord (slotAddress g + 0x18) (rebuiltWord (s.word (slotAddress g + 0x18)))).closeFinish g .cancelled .reset := by
  unfold State.rebuildSlot
  rcases owner with e | e <;> rw [e]

theorem State.rebuildSlot_undefined (owner : readOwner s.mem g = none) : s.rebuildSlot g = (s.handSlot g .empty).rebuildFault g := by
  unfold State.rebuildSlot
  rw [owner]

theorem State.rebuildSlot_finished (owner : readOwner s.mem g = some .finished) : s.rebuildSlot g =
    if holdsResultChain s.mem g then State.rebuildWalk g 896 (readFirstResult s.mem g) (s.setShadow g .finished) else s.setShadow g .finished := by
  unfold State.rebuildSlot
  rw [owner]
  rfl

theorem State.rebuildSlot_unheld (owner : readOwner s.mem g = some .finished) (none : holdsResultChain s.mem g = false) :
    s.rebuildSlot g = s.setShadow g .finished := by
  rw [State.rebuildSlot_finished owner, none]
  rfl

/-- The walk of a FINISHED slot takes blocks, and counts at most one handover fault. -/
theorem State.rebuildSlot_walked (owner : readOwner s.mem g = some .finished) : ∃ blocks, (∀ b ∈ blocks, inMap b) ∧
    (s.rebuildSlot g = (s.setShadow g .finished).chained g blocks ∨
      s.rebuildSlot g = ((s.setShadow g .finished).chained g blocks).rebuildFault g) := by
  rw [State.rebuildSlot_finished owner]
  split
  · obtain ⟨blocks, takes, walks⟩ := State.rebuildWalk_spec (g := g) 896 (readFirstResult s.mem g) (s.setShadow g .finished)
    exact ⟨blocks, takes.range, walks⟩
  · exact ⟨[], fun _ k => absurd k List.not_mem_nil, .inl rfl⟩

/-- The state of a slot that the rebuild reads from its owner code (R16). -/
def rebuiltState : Option SlotState → SlotState
  | some .empty => .empty
  | some .posted => .posted
  | some .queued => .finished
  | some .serving => .finished
  | some .finished => .finished
  | none => .empty

/-- The slots that the rebuild finishes (R16). -/
def State.foundAtWork (s : State) (g : Slot) : Prop := readOwner s.mem g = some .queued ∨ readOwner s.mem g = some .serving

/-- The rebuild of a slot in one of its forms. -/
inductive RebuildForm (s : State) (g : Slot) : State → Prop
  | closed (work : s.foundAtWork g) : RebuildForm s g
      ((s.putWord (slotAddress g + 0x18) (rebuiltWord (s.word (slotAddress g + 0x18)))).closeFinish g .cancelled .reset)
  | undefined (owner : readOwner s.mem g = none) : RebuildForm s g ((s.handSlot g .empty).rebuildFault g)
  | plain (x : SlotState) (owner : readOwner s.mem g = some x) (rest : ¬ s.foundAtWork g) : RebuildForm s g (s.setShadow g x)
  | walked (owner : readOwner s.mem g = some .finished) (holds : holdsResultChain s.mem g = true) (blocks : List Nat)
      (range : ∀ b ∈ blocks, inMap b) : RebuildForm s g ((s.setShadow g .finished).chained g blocks)
  | failed (owner : readOwner s.mem g = some .finished) (holds : holdsResultChain s.mem g = true) (blocks : List Nat)
      (range : ∀ b ∈ blocks, inMap b) : RebuildForm s g (((s.setShadow g .finished).chained g blocks).rebuildFault g)

theorem State.not_foundAtWork {x : SlotState} (owner : readOwner s.mem g = some x) (q : x ≠ .queued) (r : x ≠ .serving) : ¬ s.foundAtWork g := by
  rintro (e | e)
  · exact q (Option.some.inj (owner.symm.trans e))
  · exact r (Option.some.inj (owner.symm.trans e))

theorem State.rebuildSlot_form (s : State) (g : Slot) : RebuildForm s g (s.rebuildSlot g) := by
  cases owner : readOwner s.mem g with
  | none =>
    rw [State.rebuildSlot_undefined owner]
    exact .undefined owner
  | some x =>
    cases x with
    | empty =>
      have e : s.rebuildSlot g = s.setShadow g .empty := by
        unfold State.rebuildSlot
        rw [owner]
      rw [e]
      exact .plain .empty owner (State.not_foundAtWork owner (fun k => by cases k) fun k => by cases k)
    | posted =>
      have e : s.rebuildSlot g = s.setShadow g .posted := by
        unfold State.rebuildSlot
        rw [owner]
      rw [e]
      exact .plain .posted owner (State.not_foundAtWork owner (fun k => by cases k) fun k => by cases k)
    | queued =>
      rw [State.rebuildSlot_closed (.inl owner)]
      exact .closed (.inl owner)
    | serving =>
      rw [State.rebuildSlot_closed (.inr owner)]
      exact .closed (.inr owner)
    | finished =>
      cases holds : holdsResultChain s.mem g with
      | false =>
        rw [State.rebuildSlot_unheld owner holds]
        exact .plain .finished owner (State.not_foundAtWork owner (fun k => by cases k) fun k => by cases k)
      | true =>
        rw [State.rebuildSlot_finished owner, if_pos holds]
        obtain ⟨blocks, takes, walks⟩ := State.rebuildWalk_spec (g := g) 896 (readFirstResult s.mem g) (s.setShadow g .finished)
        rcases walks with e | e <;> rw [e]
        · exact .walked owner holds blocks takes.range
        · exact .failed owner holds blocks takes.range

theorem State.rebuildSlot_rebuilds (s : State) (g : Slot) : Rebuilds g s (s.rebuildSlot g) := by
  have form := s.rebuildSlot_form g
  generalize s.rebuildSlot g = t at form ⊢
  cases form with
  | closed work => exact (slotWord_rebuilds (by omega) _).trans closeFinish_rebuilds
  | undefined owner => exact (handSlot_rebuilds .empty).trans rebuildFault_rebuilds
  | plain x owner rest => exact setShadow_rebuilds x
  | walked owner holds blocks range => exact (setShadow_rebuilds .finished).trans (chained_rebuilds range)
  | failed owner holds blocks range => exact ((setShadow_rebuilds .finished).trans (chained_rebuilds range)).trans rebuildFault_rebuilds

end

end Sys2Proof.Machine
end

/-! SUPPORT. A rebuilt slot, and the counts of its station (R16). -/
section
namespace Sys2Proof.Machine

section
variable {s t u c : State} {g h : Slot} {b : Nat} {blocks : List Nat}

/-! ### A slot that is rebuilt (R16, R184) -/

/-- A slot as the rebuild leaves it, by what was read of it. -/
structure RebuiltSlot (s t : State) (g : Slot) : Prop where
  state : (t.slot g).state = rebuiltState (readOwner s.mem g)
  result : s.foundAtWork g → t.hasResult g .cancelled .reset ∧
    field (t.word (slotAddress g + 0x18)) 16 5 = field (s.word (slotAddress g + 0x18)) 16 5 ∧
    field (t.word (slotAddress g + 0x18)) 24 8 = 1
  handed : readOwner s.mem g = none → t.word (slotAddress g) = 0
  job : t.job g = { s.job g with resultChain := (t.job g).resultChain }
  unheld : readOwner s.mem g ≠ some .finished ∨ holdsResultChain s.mem g = false → t.job g = s.job g

theorem RebuiltSlot.job_of_same (e : t.job g = s.job g) : t.job g = { s.job g with resultChain := (t.job g).resultChain } := by
  rw [e]

theorem rebuiltWord_fields (w : Word) : field (rebuiltWord w) 16 5 = field w 16 5 ∧ field (rebuiltWord w) 24 8 = 1 := by
  have small : field w 16 5 < 32 := field_lt w 16 5
  have table : ∀ n : Fin 32, field (resultWord (outcomePair .cancelled .reset) n { accept := true }) 24 8 = 1 := by decide
  exact ⟨resultWord_clamps _ _ small, table ⟨_, small⟩⟩

theorem RebuiltSlot.closed (w : Memory.wf s.mem = true) (work : s.foundAtWork g) : RebuiltSlot s
    ((s.putWord (slotAddress g + 0x18) (rebuiltWord (s.word (slotAddress g + 0x18)))).closeFinish g .cancelled .reset) g := by
  have hg := slotAddress_bounds g
  have word := State.word_putWord w (a := slotAddress g + 0x18) (by omega) (rebuiltWord (s.word (slotAddress g + 0x18)))
  have w' := State.putWord_wf w (slotAddress g + 0x18) (rebuiltWord (s.word (slotAddress g + 0x18)))
  have result := (State.closeFinish_word (g := g) (o := .cancelled) (d := .reset) w' (x := 0x18) (by omega)).trans word
  have shadow := State.closeFinish_slot (s.putWord (slotAddress g + 0x18) (rebuiltWord (s.word (slotAddress g + 0x18)))) g .cancelled .reset
  have job := congrArg SlotShadow.job shadow
  refine ⟨?_, fun _ => ⟨State.closeFinish_hasResult w' word, ?_, ?_⟩, fun none => ?_, ?_, fun _ => job⟩
  · rw [shadow]
    rcases work with e | e <;> rw [e] <;> rfl
  · rw [result]
    exact (rebuiltWord_fields _).1
  · rw [result]
    exact (rebuiltWord_fields _).2
  · rcases work with e | e <;> cases none.symm.trans e
  · exact RebuiltSlot.job_of_same job

theorem RebuiltSlot.undefined (w : Memory.wf s.mem = true) (owner : readOwner s.mem g = none) :
    RebuiltSlot s ((s.handSlot g .empty).rebuildFault g) g := by
  have hg := slotAddress_bounds g
  have hs := stationAddress_bounds (stationOf g)
  have shadow : ((s.handSlot g .empty).rebuildFault g).slot g = { s.slot g with state := .empty } := s.slot_setSlot g _
  have job := congrArg SlotShadow.job shadow
  refine ⟨?_, ?_, fun _ => ?_, ?_, fun _ => job⟩
  · rw [shadow, owner]
    rfl
  · rintro (e | e) <;> cases owner.symm.trans e
  · have w' : Memory.wf (s.setShadow g .empty).mem = true := w
    have apart := State.word_putWord_ne (s := s.handSlot g .empty) (State.putWord_wf w' (slotAddress g) 0)
      (a := stationAddress (stationOf g) + 8) (x := slotAddress g) (by omega)
    exact (apart _).trans (State.word_putWord w' (by omega) 0)
  · exact RebuiltSlot.job_of_same job

theorem RebuiltSlot.plain {x : SlotState} (owner : readOwner s.mem g = some x) (rest : ¬ s.foundAtWork g) :
    RebuiltSlot s (s.setShadow g x) g := by
  have shadow : (s.setShadow g x).slot g = { s.slot g with state := x } := s.slot_setSlot g _
  have job := congrArg SlotShadow.job shadow
  refine ⟨?_, fun work => absurd work rest, fun none => (by cases owner.symm.trans none), ?_, fun _ => job⟩
  · rw [shadow, owner]
    cases x with
    | queued => exact absurd (.inl owner) rest
    | serving => exact absurd (.inr owner) rest
    | empty => rfl
    | posted => rfl
    | finished => rfl
  · exact RebuiltSlot.job_of_same job

theorem RebuiltSlot.walked (owner : readOwner s.mem g = some .finished) (holds : holdsResultChain s.mem g = true)
    (shadow : t.slot g = ((s.setShadow g .finished).chained g blocks).slot g) : RebuiltSlot s t g := by
  have set : (s.setShadow g .finished).slot g = { s.slot g with state := .finished } := s.slot_setSlot g _
  have whole := shadow.trans (State.chained_slot blocks (s.setShadow g .finished))
  have kept : (s.setShadow g .finished).job g = s.job g := by
    unfold State.job
    rw [set]
  refine ⟨?_, fun work => ?_, fun none => (by cases owner.symm.trans none), ?_, fun k => ?_⟩
  · rw [whole, owner, set]
    rfl
  · rcases work with e | e <;> cases owner.symm.trans e
  · have job := congrArg SlotShadow.job whole
    dsimp only at job
    rw [kept] at job
    unfold State.job at *
    rw [job]
  · rcases k with k | k
    · exact absurd owner k
    · cases holds.symm.trans k

theorem State.rebuildSlot_rebuilt (w : Memory.wf s.mem = true) (g : Slot) : RebuiltSlot s (s.rebuildSlot g) g := by
  have form := s.rebuildSlot_form g
  generalize s.rebuildSlot g = t at form ⊢
  cases form with
  | closed work => exact .closed w work
  | undefined owner => exact .undefined w owner
  | plain x owner rest => exact .plain owner rest
  | walked owner holds blocks range => exact .walked owner holds rfl
  | failed owner holds blocks range => exact .walked owner holds rfl

/-! ### The count of the finished slots (R16, R188) -/

/-- The slots that the rebuild finishes, as a test. -/
def State.worksAt (s : State) (g : Slot) : Bool := decide (readOwner s.mem g = some .queued ∨ readOwner s.mem g = some .serving)

theorem State.worksAt_iff : s.worksAt g = true ↔ s.foundAtWork g := decide_eq_true_iff

theorem State.rebuildSlot_finishes (s : State) (g : Slot) : ((s.rebuildSlot g).counters (stationOf g)).jobsFinished =
    if s.worksAt g then min 65535 ((s.counters (stationOf g)).jobsFinished + 1) else (s.counters (stationOf g)).jobsFinished := by
  have form := s.rebuildSlot_form g
  generalize s.rebuildSlot g = t at form ⊢
  have walk (blocks : List Nat) : ((s.setShadow g .finished).chained g blocks).stations = s.stations :=
    State.chained_same State.stations (fun t b m => State.setMark_stations t b m) fun _ _ _ => rfl
  cases form with
  | closed work =>
    rw [if_pos (State.worksAt_iff.mpr work), State.closeFinish_counters]
    rfl
  | undefined owner =>
    have rest : ¬ s.foundAtWork g := by rintro (e | e) <;> cases owner.symm.trans e
    rw [if_neg fun k => rest (State.worksAt_iff.mp k), State.rebuildFault_counters]
    rfl
  | plain x owner rest =>
    rw [if_neg fun k => rest (State.worksAt_iff.mp k)]
    rfl
  | walked owner holds blocks range =>
    rw [if_neg fun k => State.not_foundAtWork owner (fun k => by cases k) (fun k => by cases k) (State.worksAt_iff.mp k)]
    unfold State.counters
    rw [walk]
  | failed owner holds blocks range =>
    rw [if_neg fun k => State.not_foundAtWork owner (fun k => by cases k) (fun k => by cases k) (State.worksAt_iff.mp k), State.rebuildFault_counters]
    unfold State.counters
    rw [walk]

/-! ### Slots that wait for the rebuild -/

/-- A slot is as it was, and so is what memory says of it. -/
def State.awaits (s : State) (g : Slot) (t : State) : Prop :=
  t.slot g = s.slot g ∧ ∀ x, x ≤ 60 → t.word (slotAddress g + x) = s.word (slotAddress g + x)

theorem State.awaits.owner (k : s.awaits g t) : readOwner t.mem g = readOwner s.mem g :=
  congrArg ownerState (k.2 0 (by omega))

theorem State.awaits.work (k : s.awaits g t) : t.foundAtWork g ↔ s.foundAtWork g := by
  unfold State.foundAtWork
  rw [k.owner]

theorem State.awaits.holds (k : s.awaits g t) : holdsResultChain t.mem g = holdsResultChain s.mem g := by
  have cls := k.2 0x04 (by omega)
  have result := k.2 0x18 (by omega)
  unfold State.word at cls result
  unfold holdsResultChain
  rw [cls, result]

/-- A slot is rebuilt from what is still there of it. -/
theorem State.awaits.rebuilt (k : s.awaits g t) (r : RebuiltSlot t u g) : RebuiltSlot s u g := by
  have job : t.job g = s.job g := congrArg SlotShadow.job k.1
  refine ⟨k.owner ▸ r.state, fun work => ?_, fun none => r.handed (k.owner.trans none), job ▸ r.job, fun bare => ?_⟩
  · rw [← k.2 0x18 (by omega)]
    exact r.result (k.work.mpr work)
  · rw [← k.owner, ← k.holds] at bare
    exact (r.unheld bare).trans job

theorem Rebuilds.slotWord (r : Rebuilds g s t) (w : Memory.wf s.mem = true) (ne : h ≠ g) {x : Nat} (hx : x ≤ 60) :
    t.word (slotAddress h + x) = s.word (slotAddress h + x) :=
  r.writes.word w fun b hb k => by
    have hh := slotAddress_bounds h
    have hs := stationAddress_bounds (stationOf g)
    have apart := slotAddress_apart ne
    unfold within at hb k
    omega

theorem Rebuilds.awaits (r : Rebuilds g t u) (w : Memory.wf t.mem = true) (ne : h ≠ g) (k : s.awaits h t) : s.awaits h u :=
  ⟨(r.slots h ne).trans k.1, fun x hx => (r.slotWord w ne hx).trans (k.2 x hx)⟩

theorem Rebuilds.rebuilt (r : Rebuilds g t u) (w : Memory.wf t.mem = true) (ne : h ≠ g)
    (notice : t.stationNotice ||| u.stationNotice = u.stationNotice) (k : RebuiltSlot s t h) : RebuiltSlot s u h := by
  have slot := r.slots h ne
  have job : u.job h = t.job h := congrArg SlotShadow.job slot
  have owner : u.word (slotAddress h) = t.word (slotAddress h) := r.slotWord w ne (x := 0) (by omega)
  have result := r.slotWord w ne (x := 0x18) (by omega)
  refine ⟨slot ▸ k.state, fun work => ?_, fun none => owner.trans (k.handed none), job ▸ k.job, fun bare => job.trans (k.unheld bare)⟩
  obtain ⟨has, clamps, flags⟩ := k.result work
  exact ⟨has.congr slot owner result notice, result ▸ clamps, result ▸ flags⟩

end

end Sys2Proof.Machine
end

/-! SUPPORT. The records that the rebuild clears, with the zeros of their mirrors (R16, R163, R196). -/
section
namespace Sys2Proof.Machine

section
variable {s t u c : State} {g h : Slot}

/-! ### The records by kind -/

/-- The slots, the marks, the deadline list and the spare chain, cleared. -/
def State.recordsEmptied (s : State) : State :=
  { s with
    marks := Vector.replicate 896 .outside
    slots := s.slots.map clearShadow
    deadlines := []
    spare := [] }

def State.recordsCleared (s : State) : State := s.recordsEmptied.mirrorSpare

def State.poolCleared (s : State) (q : Pool) : State := (s.setQueue q []).clearStats q

def State.portCleared (s : State) (p : Port) : State := (s.clearLineCounters p).clearDiscards p

def State.stationsCleared (s : State) : State := allStations.foldl State.clearCounters s

def State.poolsCleared (s : State) : State := allPools.foldl State.poolCleared s

def State.portsCleared (s : State) : State := allPorts.foldl State.portCleared s

theorem State.rebuildClear_eq : s.rebuildClear = s.recordsCleared.stationsCleared.poolsCleared.portsCleared := rfl

/-- What no clearing changes. -/
theorem State.cleared_same {β : Type} (view : State → β) (station : ∀ t st, view (State.clearCounters t st) = view t)
    (pool : ∀ t q, view (State.poolCleared t q) = view t) (port : ∀ t p, view (State.portCleared t p) = view t) :
    view s.rebuildClear = view s.recordsCleared := by
  rw [State.rebuildClear_eq]
  refine (State.foldl_same view port _ _).trans ?_
  exact (State.foldl_same view pool _ _).trans (State.foldl_same view station _ _)

/-! ### What each clearing writes -/

theorem State.recordsCleared_writes : Writes (within 0x10 8) s.mem s.recordsCleared.mem := s.recordsEmptied.mirrorSpare_writes

theorem State.stationsCleared_writes : Writes (within 0x380 0x400) s.mem s.stationsCleared.mem :=
  Writes.foldl (fun t st => (t.clearCounters_writes st).mono fun a ha => by
    have := stationAddress_bounds st
    unfold stationMirrors within at *
    omega) _ _

theorem State.poolsCleared_writes : Writes (within 0x280 0x100) s.mem s.poolsCleared.mem :=
  Writes.foldl (fun t q => ((t.setQueue_mirrors q []).trans ((t.setQueue q []).clearStats_writes q)).mono fun a ha => by
    have := poolAddress_bounds q
    unfold poolMirrors within at *
    omega) _ _

theorem State.portsCleared_writes : Writes (within 0x40 0x240) s.mem s.portsCleared.mem :=
  Writes.foldl (fun t p => ((t.clearLineCounters_writes p).andThen ((t.clearLineCounters p).clearDiscards_writes p)).mono fun a ha => by
    have := portAddress_bounds p
    have := p.isLt
    unfold lineMirrors within at *
    omega) _ _

/-- The words that the last clearings leave. -/
theorem State.cleared_word (w : Memory.wf t.mem = true) {a : Nat} (ha : a + 4 ≤ 0x40 ∨ 0x380 ≤ a) :
    t.poolsCleared.portsCleared.word a = t.word a := by
  have ports := (State.portsCleared_writes (s := t.poolsCleared)).word ((State.poolsCleared_writes (s := t)).wf w) (a := a)
    fun b hb k => by unfold within at *; omega
  exact ports.trans (State.poolsCleared_writes.word w fun b hb k => by unfold within at *; omega)

/-! ### What each clearing leaves -/

theorem State.recordsCleared_wf (w : Memory.wf s.mem = true) : Memory.wf s.recordsCleared.mem = true := State.recordsCleared_writes.wf w

/-- A station without counts, with the zeros in its entry. -/
def State.stationClear (t : State) (st : Station) : Prop :=
  t.counters st = {} ∧ t.word (stationAddress st + 0x08) = 0 ∧ t.word (stationAddress st + 0x0C) = 0

theorem State.clearCounters_clear (w : Memory.wf t.mem = true) (st : Station) : (t.clearCounters st).stationClear st := by
  have hs := stationAddress_bounds st
  have first := State.putWord_wf w (s := t.setCounters st {}) (stationAddress st + 0x08) 0
  refine ⟨t.counters_clearCounters st, ?_, State.word_putWord first (by omega) 0⟩
  exact (State.word_putWord_ne first (by omega) 0).trans (State.word_putWord w (s := t.setCounters st {}) (by omega) 0)

theorem State.clearCounters_keeps {st x : Station} (w : Memory.wf t.mem = true) (ne : x ≠ st) (k : t.stationClear x) :
    (t.clearCounters st).stationClear x := by
  have hs : stationAddress st = 0x380 + st.val * 32 := rfl
  have hx : stationAddress x = 0x380 + x.val * 32 := rfl
  have apart : st.val ≠ x.val := fun e => ne (Fin.ext e.symm)
  have word (a : Nat) (ha : a = stationAddress x + 8 ∨ a = stationAddress x + 12) : (t.clearCounters st).word a = t.word a :=
    (t.clearCounters_writes st).word w fun b hb k => by
      unfold stationMirrors within at *
      omega
  exact ⟨(t.counters_setCounters_ne ne _).trans k.1, (word _ (.inl rfl)).trans k.2.1, (word _ (.inr rfl)).trans k.2.2⟩

theorem State.stationsCleared_clear (w : Memory.wf t.mem = true) (st : Station) : t.stationsCleared.stationClear st := by
  obtain ⟨-, all, -⟩ := foldl_each (f := State.clearCounters) (Inv := fun t => Memory.wf t.mem = true) (Ready := fun _ _ => True)
    (Done := fun st t => t.stationClear st)
    (fun t st w _ => ⟨(t.clearCounters_writes st).wf w, State.clearCounters_clear w st⟩)
    (fun t st x w _ ne => ⟨fun _ => trivial, State.clearCounters_keeps w ne⟩) allStations (List.nodup_finRange 32) t w fun _ _ => trivial
  exact all st (List.mem_finRange st)

theorem State.poolsCleared_clear (q : Pool) : t.poolsCleared.queue q = [] ∧ t.poolsCleared.poolStats q = {} := by
  obtain ⟨-, all, -⟩ := foldl_each (f := State.poolCleared) (Inv := fun _ => True) (Ready := fun _ _ => True)
    (Done := fun q t => t.queue q = [] ∧ t.poolStats q = {})
    (fun t q _ _ => ⟨trivial, t.queue_setQueue q [], State.poolStats_clearStats _ q⟩)
    (fun t q x _ _ ne => ⟨fun _ => trivial, fun k => ⟨(t.queue_setQueue_ne ne []).trans k.1,
      ((t.setQueue q []).poolStats_clearStats_ne ne).trans k.2⟩⟩) allPools (List.nodup_finRange 8) t trivial fun _ _ => trivial
  exact all q (List.mem_finRange q)

theorem State.portCleared_port (p : Port) : (t.portCleared p).port p = { t.port p with counters := {}, discards := {} } := by
  unfold State.portCleared
  rw [State.port_clearDiscards, State.port_clearLineCounters]

theorem State.portCleared_port_ne {p r : Port} (ne : r ≠ p) : (t.portCleared p).port r = t.port r :=
  ((t.clearLineCounters p).port_clearDiscards_ne ne).trans (t.port_clearLineCounters_ne ne)

theorem State.portsCleared_port (p : Port) : t.portsCleared.port p = { t.port p with counters := {}, discards := {} } :=
  State.port_foldl_allPorts (seen := fun _ => True) (change := fun _ x => { x with counters := {}, discards := {} }) (fun _ _ _ => trivial)
    (fun t p _ => t.portCleared_port p) (fun t p _ ne => t.portCleared_port_ne ne) t trivial p

/-! ### The cleared part (R16) -/

theorem State.rebuildClear_slot (g : Slot) : s.rebuildClear.slot g = clearShadow (s.slot g) := by
  have slots : s.rebuildClear.slots = s.slots.map clearShadow := State.cleared_same State.slots (fun _ _ => rfl) (fun _ _ => rfl) fun _ _ => rfl
  unfold State.slot
  rw [slots, Vector.getElem_map]

theorem State.rebuildClear_job (g : Slot) : s.rebuildClear.job g = {} := by
  unfold State.job
  rw [State.rebuildClear_slot]
  rfl

theorem State.rebuildClear_mark (b : Nat) : s.rebuildClear.mark b = .outside := by
  have marks : s.rebuildClear.marks = Vector.replicate 896 .outside :=
    State.cleared_same State.marks (fun _ _ => rfl) (fun _ _ => rfl) fun _ _ => rfl
  unfold State.mark
  rw [marks]
  split
  · exact Vector.getElem_replicate _
  · rfl

theorem State.recordsCleared_spare : s.recordsCleared.spare = [] := rfl

theorem State.rebuildClear_spare : s.rebuildClear.spare = [] :=
  (State.cleared_same State.spare (fun _ _ => rfl) (fun _ _ => rfl) fun _ _ => rfl).trans State.recordsCleared_spare

theorem State.rebuildClear_deadlines : s.rebuildClear.deadlines = [] :=
  State.cleared_same State.deadlines (fun _ _ => rfl) (fun _ _ => rfl) fun _ _ => rfl

theorem State.rebuildClear_pool (q : Pool) : s.rebuildClear.queue q = [] ∧ s.rebuildClear.poolStats q = {} := by
  rw [State.rebuildClear_eq]
  have queues : ∀ t : State, t.portsCleared.queues = t.queues :=
    fun t => State.foldl_same (f := State.portCleared) State.queues (fun _ _ => rfl) _ t
  have stats : ∀ t : State, t.portsCleared.stats = t.stats :=
    fun t => State.foldl_same (f := State.portCleared) State.stats (fun _ _ => rfl) _ t
  obtain ⟨queue, count⟩ := State.poolsCleared_clear (t := s.recordsCleared.stationsCleared) q
  unfold State.queue State.poolStats at *
  rw [queues, stats]
  exact ⟨queue, count⟩

theorem State.rebuildClear_port (p : Port) : s.rebuildClear.port p = { s.port p with counters := {}, discards := {} } := by
  rw [State.rebuildClear_eq, State.portsCleared_port]
  have ports : s.recordsCleared.stationsCleared.poolsCleared.ports = s.ports :=
    (State.foldl_same State.ports (f := State.poolCleared) (fun _ _ => rfl) _ _).trans
      (State.foldl_same State.ports (f := State.clearCounters) (fun _ _ => rfl) _ _)
  unfold State.port
  rw [ports]

theorem State.rebuildClear_writes : Writes (fun a => a < 0x2000) s.mem s.rebuildClear.mem := by
  rw [State.rebuildClear_eq]
  have low {n k : Nat} (h : n + k ≤ 0x2000) (a : Nat) (ha : within n k a) : a < 0x2000 := by
    unfold within at ha
    omega
  exact ((State.recordsCleared_writes.mono (low (by omega))).trans (State.stationsCleared_writes.mono (low (by omega)))).trans
    ((State.poolsCleared_writes.mono (low (by omega))).trans (State.portsCleared_writes.mono (low (by omega))))

theorem State.rebuildClear_station (w : Memory.wf s.mem = true) (st : Station) : s.rebuildClear.stationClear st := by
  rw [State.rebuildClear_eq]
  have w1 := State.recordsCleared_wf w
  have w2 := (State.stationsCleared_writes (s := s.recordsCleared)).wf w1
  have hs := stationAddress_bounds st
  obtain ⟨counts, tally, score⟩ := State.stationsCleared_clear w1 st
  have stations : s.recordsCleared.stationsCleared.poolsCleared.portsCleared.stations = s.recordsCleared.stationsCleared.stations :=
    (State.foldl_same State.stations (f := State.portCleared) (fun _ _ => rfl) _ _).trans
      (State.foldl_same State.stations (f := State.poolCleared) (fun _ _ => rfl) _ _)
  refine ⟨?_, (State.cleared_word w2 (by omega)).trans tally, (State.cleared_word w2 (by omega)).trans score⟩
  unfold State.counters at *
  rw [stations]
  exact counts

theorem State.rebuildClear_spareWords (w : Memory.wf s.mem = true) : s.rebuildClear.word 0x10 = 0 ∧ s.rebuildClear.word 0x14 = 0 := by
  rw [State.rebuildClear_eq]
  have w1 := State.recordsCleared_wf w
  have w2 := (State.stationsCleared_writes (s := s.recordsCleared)).wf w1
  have word (a : Nat) (ha : a + 4 ≤ 0x40) : s.recordsCleared.stationsCleared.poolsCleared.portsCleared.word a = s.recordsCleared.word a :=
    (State.cleared_word w2 (.inl ha)).trans (State.stationsCleared_writes.word w1 fun b hb k => by unfold within at *; omega)
  obtain ⟨ends, count⟩ := spareMirrors_words w []
  rw [word 0x10 (by omega), word 0x14 (by omega)]
  exact ⟨ends, count⟩

theorem State.rebuildClear_slotWord (w : Memory.wf s.mem = true) (g : Slot) {x : Nat} (hx : x ≤ 60) :
    s.rebuildClear.word (slotAddress g + x) = s.word (slotAddress g + x) :=
  State.rebuildClear_writes.word w fun b hb k => by
    have := slotAddress_bounds g
    unfold within at hb
    omega

end

end Sys2Proof.Machine
end

/-! SUPPORT. The rebuild of all slots, and the statement about it (R16). -/
section
namespace Sys2Proof.Machine

section
variable {s t u : State} {g h : Slot} {st : Station}

/-! ### The slots in their order -/

/-- What stands while the rebuild goes through the slots. -/
structure State.Rebuilding (t : State) : Prop where
  wf : Memory.wf t.mem = true
  scores : ∀ st, (t.counters st).usage = 0 ∧ (t.counters st).overflow = 0 ∧ t.word (stationAddress st + 0x0C) = 0
  tallies : ∀ st, t.word (stationAddress st + 0x08) = tallyWord (t.counters st)
  marks : ∀ b, t.mark b = .outside ∨ t.mark b = .result
  spare : t.word 0x10 = 0 ∧ t.word 0x14 = 0

theorem State.rebuildClear_rebuilding (w : Memory.wf s.mem = true) : s.rebuildClear.Rebuilding where
  wf := State.rebuildClear_writes.wf w
  scores st := by
    obtain ⟨counts, -, score⟩ := State.rebuildClear_station w st
    rw [counts]
    exact ⟨rfl, rfl, score⟩
  tallies st := by
    obtain ⟨counts, tally, -⟩ := State.rebuildClear_station w st
    rw [counts, tally]
    rfl
  marks b := .inl (State.rebuildClear_mark b)
  spare := State.rebuildClear_spareWords w

/-- Words of no slot and of no tally of the slot's station are kept. -/
theorem Rebuilds.low (r : Rebuilds g s t) (w : Memory.wf s.mem = true) {a : Nat} (below : a + 4 ≤ 0x2000)
    (apart : a + 4 ≤ stationAddress (stationOf g) + 8 ∨ stationAddress (stationOf g) + 12 ≤ a) : t.word a = s.word a :=
  r.writes.word w fun b hb k => by
    have hg := slotAddress_bounds g
    unfold within at hb k
    omega

theorem State.Rebuilding.next (k : t.Rebuilding) (r : Rebuilds g t u) : u.Rebuilding where
  wf := r.writes.wf k.wf
  scores st := by
    have hs : stationAddress st = 0x380 + st.val * 32 := rfl
    have hx : stationAddress (stationOf g) = 0x380 + (stationOf g).val * 32 := rfl
    have word := r.low k.wf (a := stationAddress st + 0x0C) (by have := st.isLt; omega)
      (by have := (stationOf g).isLt; omega)
    obtain ⟨usage, overflow, score⟩ := k.scores st
    by_cases own : st = stationOf g
    · obtain ⟨keepU, keepO⟩ := r.scores
      subst own
      exact ⟨keepU.trans usage, keepO.trans overflow, word.trans score⟩
    · rw [r.stations st own]
      exact ⟨usage, overflow, word.trans score⟩
  tallies st := by
    by_cases own : st = stationOf g
    · subst own
      exact r.tally k.wf (k.tallies _)
    · have hs : stationAddress st = 0x380 + st.val * 32 := rfl
      have hx : stationAddress (stationOf g) = 0x380 + (stationOf g).val * 32 := rfl
      have apart : st.val ≠ (stationOf g).val := fun e => own (Fin.ext e)
      have word := r.low k.wf (a := stationAddress st + 0x08) (by have := st.isLt; omega) (by omega)
      rw [r.stations st own]
      exact word.trans (k.tallies st)
  marks b := (r.marks b).elim (fun e => e ▸ k.marks b) .inr
  spare := by
    have hx := stationAddress_bounds (stationOf g)
    exact ⟨(r.low k.wf (by omega) (by omega)).trans k.spare.1, (r.low k.wf (by omega) (by omega)).trans k.spare.2⟩

/-- The rebuild of the slots of a list, from what is still there of each. -/
theorem State.rebuildSlots_all {l : List Slot} (nodup : l.Nodup) (k : t.Rebuilding) (ready : ∀ g ∈ l, s.awaits g t) :
    (t.rebuildSlots l).Rebuilding ∧ ∀ g ∈ l, RebuiltSlot s (t.rebuildSlots l) g := by
  obtain ⟨inv, all, -⟩ := foldl_each (f := State.rebuildSlot) (Inv := State.Rebuilding) (Ready := fun g t => s.awaits g t)
    (Done := fun g t => RebuiltSlot s t g)
    (fun t g k ready => ⟨k.next (t.rebuildSlot_rebuilds g), ready.rebuilt (State.rebuildSlot_rebuilt k.wf g)⟩)
    (fun t g h k _ ne => ⟨(t.rebuildSlot_rebuilds g).awaits k.wf ne,
      (t.rebuildSlot_rebuilds g).rebuilt k.wf ne (t.rebuildSlot_kept g).stationNotice⟩) l nodup t k ready
  exact ⟨inv, all⟩

theorem min_succ_add {a n limit : Nat} : min limit (min limit (a + 1) + n) = min limit (a + (n + 1)) := by omega

/-- The jobs-finished count of a station rises by the slots of it that are finished. -/
theorem State.rebuildSlots_finishes (st : Station) (l : List Slot) : ∀ t : State, l.Nodup → Memory.wf t.mem = true →
    (∀ g ∈ l, s.awaits g t) → (t.counters st).jobsFinished ≤ 65535 → ((t.rebuildSlots l).counters st).jobsFinished =
      min 65535 ((t.counters st).jobsFinished + l.countP fun g => s.worksAt g && decide (stationOf g = st)) := by
  induction l with
  | nil => exact fun t _ _ _ limit => (Nat.min_eq_right limit).symm
  | cons g rest ih =>
    intro t nodup w ready limit
    obtain ⟨fresh, nodup⟩ := List.nodup_cons.mp nodup
    have r := t.rebuildSlot_rebuilds g
    have here := ready g List.mem_cons_self
    have count := t.rebuildSlot_finishes g
    have test : t.worksAt g = s.worksAt g := Bool.eq_iff_iff.mpr (State.worksAt_iff.trans (here.work.trans State.worksAt_iff.symm))
    have later := ih (t.rebuildSlot g) nodup (r.writes.wf w)
      (fun h hh => r.awaits w (fun e => fresh (e ▸ hh)) (ready h (List.mem_cons_of_mem g hh)))
    rw [List.countP_cons]
    by_cases own : stationOf g = st
    · subst own
      rw [test] at count
      rw [decide_eq_true rfl, Bool.and_true]
      cases works : s.worksAt g with
      | false =>
        rw [works, if_neg Bool.false_ne_true] at count
        rw [if_neg Bool.false_ne_true]
        rw [count] at later
        exact later limit
      | true =>
        rw [works, if_pos rfl] at count
        rw [if_pos rfl]
        rw [count] at later
        exact (later (Nat.min_le_left _ _)).trans min_succ_add
    · have same := r.stations st (Ne.symm own)
      rw [same] at later
      rw [decide_eq_false own, Bool.and_false, if_neg Bool.false_ne_true]
      exact later limit

/-- The slots of a station, by their indices. -/
theorem filter_stationOf (st : Station) : (allSlots.filter fun g => decide (stationOf g = st)).Perm (fourIndices.map (slotOf st)) := by
  refine (List.perm_ext_iff_of_nodup ((List.nodup_finRange 128).filter _) ((List.nodup_finRange 4).map fun i j e => ?_)).mpr fun g => ?_
  · have val := congrArg Fin.val e
    unfold slotOf at val
    exact Fin.ext (by dsimp only at val; omega)
  · rw [List.mem_filter, List.mem_map, decide_eq_true_iff]
    constructor
    · rintro ⟨-, own⟩
      have val := congrArg Fin.val own
      unfold stationOf at val
      refine ⟨⟨g.val % 4, by omega⟩, List.mem_finRange _, Fin.ext ?_⟩
      unfold slotOf
      dsimp only at val ⊢
      omega
    · rintro ⟨i, -, rfl⟩
      refine ⟨List.mem_finRange _, Fin.ext ?_⟩
      unfold slotOf stationOf
      dsimp only
      omega

theorem countP_station (test : Slot → Bool) (st : Station) :
    allSlots.countP (fun g => test g && decide (stationOf g = st)) = (fourIndices.filter fun i => test (slotOf st i)).length := by
  rw [← List.countP_filter, (filter_stationOf st).countP_eq, List.countP_map, List.countP_eq_length_filter]
  rfl

/-! ### The whole rebuild (R16) -/

theorem State.rebuildClear_owner (w : Memory.wf s.mem = true) (g : Slot) : readOwner s.rebuildClear.mem g = readOwner s.mem g :=
  congrArg ownerState (State.rebuildClear_slotWord w g (x := 0) (by omega))

theorem State.rebuildClear_holds (w : Memory.wf s.mem = true) (g : Slot) : holdsResultChain s.rebuildClear.mem g = holdsResultChain s.mem g := by
  have cls := State.rebuildClear_slotWord w g (x := 0x04) (by omega)
  have result := State.rebuildClear_slotWord w g (x := 0x18) (by omega)
  unfold State.word at cls result
  unfold holdsResultChain
  rw [cls, result]

theorem State.rebuild_all (w : Memory.wf s.mem = true) : s.rebuild.Rebuilding ∧ ∀ g, RebuiltSlot s.rebuildClear s.rebuild g := by
  obtain ⟨inv, all⟩ := State.rebuildSlots_all (s := s.rebuildClear) (t := s.rebuildClear) (List.nodup_finRange 128)
    (State.rebuildClear_rebuilding w) fun g _ => ⟨rfl, fun _ _ => rfl⟩
  exact ⟨inv, fun g => all g (List.mem_finRange g)⟩

theorem State.rebuild_finishes (w : Memory.wf s.mem = true) (st : Station) : (s.rebuild.counters st).jobsFinished =
    (fourIndices.filter fun i => s.worksAt (slotOf st i)).length := by
  have count := State.rebuildSlots_finishes (s := s.rebuildClear) st allSlots s.rebuildClear (List.nodup_finRange 128)
    (State.rebuildClear_writes.wf w) (fun g _ => ⟨rfl, fun _ _ => rfl⟩)
  rw [(State.rebuildClear_station w st).1] at count
  have test : s.rebuildClear.worksAt = s.worksAt := by
    funext g
    unfold State.worksAt
    rw [State.rebuildClear_owner w]
  have few : (fourIndices.filter fun i => s.worksAt (slotOf st i)).length ≤ 4 := List.length_filter_le _ _
  rw [test, countP_station] at count
  refine (count (Nat.zero_le _)).trans ?_
  show min 65535 (0 + _) = _
  omega

theorem State.rebuild_wellFormed (w : s.wellFormed) : s.rebuild.wellFormed :=
  (State.rebuildSlots_kept (s := s.rebuildClear) allSlots).data (s.rebuildClear_moves.data w)

theorem State.rebuild_slots (wf : s.wellFormed) (g : Slot) : (s.rebuild.slot g).state = rebuiltState (readOwner s.mem g) ∧
    (s.foundAtWork g → s.rebuild.hasResult g .cancelled .reset ∧
      field (s.rebuild.word (slotAddress g + 0x18)) 16 5 = field (s.word (slotAddress g + 0x18)) 16 5 ∧
      field (s.rebuild.word (slotAddress g + 0x18)) 24 8 = 1) ∧
    (readOwner s.mem g = none → s.rebuild.word (slotAddress g) = 0) ∧
    s.rebuild.job g = { resultChain := (s.rebuild.job g).resultChain } ∧
    (readOwner s.mem g ≠ some .finished ∨ holdsResultChain s.mem g = false → s.rebuild.job g = {}) := by
  have r := (State.rebuild_all wf.memory).2 g
  have owner := State.rebuildClear_owner wf.memory g
  have clear := State.rebuildClear_job (s := s) g
  refine ⟨owner ▸ r.state, fun work => ?_, fun none => r.handed (owner.trans none), ?_, fun bare => ?_⟩
  · rw [← State.rebuildClear_slotWord wf.memory g (x := 0x18) (by omega)]
    refine r.result ?_
    unfold State.foundAtWork
    rw [owner]
    exact work
  · have job := r.job
    rw [clear] at job
    exact job
  · rw [← owner, ← State.rebuildClear_holds wf.memory] at bare
    exact (r.unheld bare).trans clear

theorem State.rebuild_stations (wf : s.wellFormed) (st : Station) :
    (s.rebuild.counters st).usage = 0 ∧ (s.rebuild.counters st).overflow = 0 ∧
      (s.rebuild.counters st).jobsFinished = (fourIndices.filter fun i => s.worksAt (slotOf st i)).length ∧
      field (s.rebuild.word (stationAddress st + 0x08)) 0 16 = (s.rebuild.counters st).handoverFaults ∧
      field (s.rebuild.word (stationAddress st + 0x08)) 16 16 = (s.rebuild.counters st).jobsFinished ∧
      s.rebuild.word (stationAddress st + 0x0C) = 0 := by
  have r := (State.rebuild_all wf.memory).1
  obtain ⟨usage, overflow, score⟩ := r.scores st
  obtain ⟨faults, jobs⟩ := tallyWord_fields ((State.rebuild_wellFormed wf).counters st)
  rw [r.tallies]
  exact ⟨usage, overflow, State.rebuild_finishes wf.memory st, faults, jobs, score⟩

theorem State.rebuild_ports (p : Port) : (s.rebuild.port p).counters = {} ∧ (s.rebuild.port p).discards = {} ∧
    (s.rebuild.port p).state = (s.port p).state := by
  have port : s.rebuild.port p = s.rebuildClear.port p := by
    unfold State.port State.rebuild
    rw [State.rebuildSlots_ports]
  rw [port, State.rebuildClear_port]
  exact ⟨rfl, rfl, rfl⟩

theorem State.rebuild_pools (q : Pool) : s.rebuild.queue q = [] ∧ s.rebuild.poolStats q = {} := by
  unfold State.queue State.poolStats State.rebuild
  rw [State.rebuildSlots_queues, State.rebuildSlots_stats]
  exact State.rebuildClear_pool q

theorem State.rebuild_kept : s.rebuild.spare = [] ∧ s.rebuild.deadlines = [] ∧ s.rebuild.ctl = s.ctl ∧ s.rebuild.mailboxes = s.mailboxes := by
  unfold State.rebuild
  rw [State.rebuildSlots_spare, State.rebuildSlots_deadlines, State.rebuildSlots_ctl, State.rebuildSlots_mailboxes]
  exact ⟨State.rebuildClear_spare, State.rebuildClear_deadlines, State.rebuildClear_ctl s, State.rebuildClear_mailboxes s⟩

end

end Sys2Proof.Machine
end

/-! SUPPORT. The statement about the rebuild (R16). -/
section
namespace Sys2Proof.Machine

section
variable {s t u : State} {g h : Slot} {blocks : List Nat} {last : Nat}

/-! ### A result chain that is walked (R16) -/

/-- A handover fault that is counted at a slot's station (R16). -/
def State.faultCounted (s t : State) (g : Slot) : Prop :=
  t.counters (stationOf g) = { s.counters (stationOf g) with handoverFaults := min 65535 ((s.counters (stationOf g)).handoverFaults + 1) } ∧
    t.notice = s.notice ||| 0x80 ∧ t.stationNotice = s.stationNotice ||| stationMask (stationOf g)

theorem State.rebuildFault_counted (stations : t.stations = s.stations) (notice : t.notice = s.notice)
    (stationNotice : t.stationNotice = s.stationNotice) : s.faultCounted (t.rebuildFault g) g := by
  refine ⟨?_, congrArg (· ||| 0x80) notice, congrArg (· ||| stationMask (stationOf g)) stationNotice⟩
  rw [State.rebuildFault_counters]
  unfold State.counters
  rw [stations]

theorem State.rebuildSlot_faulted (owner : readOwner s.mem g = none) : s.faultCounted (s.rebuildSlot g) g ∧
    ((s.rebuildSlot g).slot g).state = .empty ∧ (s.rebuildSlot g).marks = s.marks := by
  rw [State.rebuildSlot_undefined owner]
  have shadow : ((s.handSlot g .empty).rebuildFault g).slot g = { s.slot g with state := .empty } := s.slot_setSlot g _
  exact ⟨State.rebuildFault_counted rfl rfl rfl, congrArg SlotShadow.state shadow, rfl⟩

/-- A walk over blocks that may join, from the first result block of the slot. -/
structure State.walksOver (s : State) (g : Slot) (blocks : List Nat) (last : Nat) : Prop where
  owner : readOwner s.mem g = some .finished
  holds : holdsResultChain s.mem g = true
  takes : s.takesChain blocks
  walk : readFirstResult s.mem g :: blocks.map (readLink s.mem) = blocks ++ [last]
  stops : last = 0 ∨ 896 < last ∨ s.mark last ≠ .outside ∨ last ∈ blocks

theorem State.walksOver.rebuilds (k : s.walksOver g blocks last) : s.rebuildSlot g =
    if last = 0 then (s.setShadow g .finished).chained g blocks else ((s.setShadow g .finished).chained g blocks).rebuildFault g := by
  rw [State.rebuildSlot_finished k.owner, if_pos k.holds]
  exact State.rebuildWalk_takes 896 _ (s.setShadow g .finished) blocks last ⟨k.takes.nodup, k.takes.range, k.takes.outside⟩
    (length_le_of_inMap k.takes.nodup k.takes.range) k.walk k.stops

theorem State.chained_form (s : State) (g : Slot) (blocks : List Nat) :
    s.chained g blocks = { s with slots := (s.chained g blocks).slots, marks := (s.chained g blocks).marks } := by
  induction blocks generalizing s with
  | nil => rfl
  | cons b rest ih =>
    have block : s.chainBlock g b = { s with slots := (s.chainBlock g b).slots, marks := (s.chainBlock g b).marks } := by
      unfold State.chainBlock State.setMark
      split <;> rfl
    have next := ih (s.chainBlock g b)
    have unfolds : s.chained g (b :: rest) = (s.chainBlock g b).chained g rest := rfl
    rw [unfolds]
    generalize (s.chainBlock g b).chained g rest = v at next ⊢
    rw [block] at next
    exact next

/-- What a walk leaves, also where it ends by a handover fault. -/
theorem State.walked_slots (range : ∀ b ∈ blocks, inMap b) (slots : t.slots = ((s.setShadow g .finished).chained g blocks).slots)
    (marks : t.marks = ((s.setShadow g .finished).chained g blocks).marks) : (t.slot g).state = .finished ∧
      t.job g = { s.job g with resultChain := (s.job g).resultChain ++ blocks } ∧
      (∀ b, t.mark b = if b ∈ blocks then .result else s.mark b) ∧ s.slotsKept t [g] := by
  have slot (h : Slot) : t.slot h = ((s.setShadow g .finished).chained g blocks).slot h := by
    unfold State.slot
    rw [slots]
  have set : (s.setShadow g .finished).slot g = { s.slot g with state := .finished } := s.slot_setSlot g _
  have kept : (s.setShadow g .finished).job g = s.job g := by
    unfold State.job
    rw [set]
  have whole := (slot g).trans (State.chained_slot blocks _)
  refine ⟨?_, ?_, fun b => ?_, fun h hh => ?_⟩
  · rw [whole, set]
  · have job := congrArg SlotShadow.job whole
    dsimp only at job
    rw [kept] at job
    exact job
  · exact (State.mark_congr marks b).trans (State.chained_mark blocks (s.setShadow g .finished) range b)
  · have ne : h ≠ g := fun e => hh (List.mem_singleton.mpr e)
    exact (slot h).trans ((State.chained_slot_ne ne blocks _).trans (s.slot_setSlot_ne ne _))

theorem State.walksOver.leaves (k : s.walksOver g blocks last) : ((s.rebuildSlot g).slot g).state = .finished ∧
    (s.rebuildSlot g).job g = { s.job g with resultChain := (s.job g).resultChain ++ blocks } ∧
    (∀ b, (s.rebuildSlot g).mark b = if b ∈ blocks then .result else s.mark b) ∧ s.slotsKept (s.rebuildSlot g) [g] ∧
    (last = 0 → s.rebuildSlot g = { s with slots := (s.rebuildSlot g).slots, marks := (s.rebuildSlot g).marks }) ∧
    (last ≠ 0 → s.faultCounted (s.rebuildSlot g) g) := by
  have form := (s.setShadow g .finished).chained_form g blocks
  have walk := k.rebuilds
  by_cases zero : last = 0
  · rw [if_pos zero] at walk
    rw [walk]
    obtain ⟨state, job, mark, kept⟩ := State.walked_slots (s := s) (g := g) k.takes.range rfl rfl
    exact ⟨state, job, mark, kept, fun _ => form, fun ne => absurd zero ne⟩
  · rw [if_neg zero] at walk
    rw [walk]
    obtain ⟨state, job, mark, kept⟩ := State.walked_slots (s := s) (t := ((s.setShadow g .finished).chained g blocks).rebuildFault g)
      k.takes.range rfl rfl
    refine ⟨state, job, mark, kept, fun e => absurd e zero, fun _ => State.rebuildFault_counted ?_ ?_ ?_⟩
    · rw [form]
      rfl
    · rw [form]
      rfl
    · rw [form]
      rfl

end

/-- Settles O21: the slots in their order after the cleared records, and the walk of one slot. -/
theorem rebuildReadsTheMirrors : Obligations.RebuildReadsTheMirrors := by
  unfold Obligations.RebuildReadsTheMirrors
  refine ⟨fun s wf => ?_, fun s g wf => ?_⟩
  · obtain ⟨spare, deadlines, ctl, mailboxes⟩ := State.rebuild_kept (s := s)
    have all := (State.rebuild_all wf.memory).1
    refine ⟨fun g => ?_, fun g => (State.rebuild_slots wf g).2.1, fun g => (State.rebuild_slots wf g).2.2.1, spare, all.spare.1,
      all.spare.2, deadlines, State.rebuild_pools, fun g => (State.rebuild_slots wf g).2.2.2, State.rebuild_stations wf,
      State.rebuild_ports, all.marks, ctl, mailboxes, rfl, fun n => s.rebuild_split n⟩
    rw [(State.rebuild_slots wf g).1]
    unfold rebuiltState
    rcases readOwner s.mem g with _ | x
    · rfl
    · cases x <;> rfl
  · refine ⟨fun owner => State.rebuildSlot_faulted owner, fun owner holds => State.rebuildSlot_unheld owner holds, ?_⟩
    intro blocks last owner holds nodup each walk stops
    exact State.walksOver.leaves ⟨owner, holds, ⟨nodup, fun b hb => ⟨(each b hb).1, (each b hb).2.1⟩, fun b hb => (each b hb).2.2⟩, walk, stops⟩

end Sys2Proof.Machine
end

/-! SUPPORT. The close of a station at one of its slots (R45). -/
section
namespace Sys2Proof.Machine

section
variable {s t u : State} {g h : Slot} {p r : Port}

/-- A scan or a hold that a close ends, before its job is finished (R158, R178). -/
def State.serviceShut (s : State) (p : Port) (g : Slot) : State :=
  if (s.job g).cls = some .scan then s.scanClosed p
  else (s.keepHold g (s.holdLeft p)).modifyPort p fun x => { x with contacts := x.contacts.map orphanHold }

/-- A job whose service a close ends at once (R45). -/
def State.endsAtClose (s : State) (g : Slot) : Prop :=
  (s.slot g).state = .serving ∧ ((s.job g).cls = some .scan ∨ (s.job g).cls = some .hold)

/-- A print that is served (R45). -/
def State.printsAtClose (s : State) (g : Slot) : Prop := (s.slot g).state = .serving ∧ (s.job g).cls = some .print

/-- The close at a slot in one of its forms (R45). -/
inductive CloseForm (s : State) (g : Slot) : State → Prop
  | queued (state : (s.slot g).state = .queued) : CloseForm s g (s.finishQueued g .cancelled .stationClosed)
  | latched (print : s.printsAtClose g) : CloseForm s g (s.updateJob g fun j => { j with closeLatch := true })
  | ended (p : Port) (ends : s.endsAtClose g) (port : (s.job g).port = some p) : CloseForm s g
      ((s.serviceShut p g).finishScan p g .cancelled .stationClosed none)
  | stays (queued : (s.slot g).state ≠ .queued) (print : ¬ s.printsAtClose g) (ends : s.endsAtClose g → (s.job g).port = none) :
      CloseForm s g s

theorem State.closeSlot_queued (state : (s.slot g).state = .queued) : s.closeSlot g = s.finishQueued g .cancelled .stationClosed := by
  unfold State.closeSlot
  rw [state]

theorem State.closeSlot_latched (print : s.printsAtClose g) : s.closeSlot g = s.updateJob g fun j => { j with closeLatch := true } := by
  obtain ⟨state, cls⟩ := print
  unfold State.closeSlot
  rw [state, cls] <;> cases (s.job g).port <;> rfl

theorem State.closeSlot_ended (ends : s.endsAtClose g) (port : (s.job g).port = some p) :
    s.closeSlot g = (s.serviceShut p g).finishScan p g .cancelled .stationClosed none := by
  obtain ⟨state, cls⟩ := ends
  unfold State.closeSlot State.serviceShut
  rw [state]
  rcases cls with cls | cls
  · rw [cls, port, if_pos rfl, ← State.endScan_eq] <;> rfl
  · rw [cls, port, if_neg (by decide)] <;> rfl

theorem State.closeSlot_form (s : State) (g : Slot) : CloseForm s g (s.closeSlot g) := by
  by_cases queued : (s.slot g).state = .queued
  · rw [State.closeSlot_queued queued]
    exact .queued queued
  · by_cases print : s.printsAtClose g
    · rw [State.closeSlot_latched print]
      exact .latched print
    · by_cases ends : s.endsAtClose g ∧ ∃ p, (s.job g).port = some p
      · obtain ⟨ends, p, port⟩ := ends
        rw [State.closeSlot_ended ends port]
        exact .ended p ends port
      · have rest (e : s.endsAtClose g) : (s.job g).port = none := Option.not_isSome_iff_eq_none.mp fun some =>
          ends ⟨e, Option.isSome_iff_exists.mp some⟩
        have same : s.closeSlot g = s := by
          unfold State.closeSlot
          cases state : (s.slot g).state with
          | queued => exact absurd state queued
          | serving =>
            cases cls : (s.job g).cls with
            | none => cases (s.job g).port <;> rfl
            | some k =>
              cases k with
              | print => exact absurd ⟨state, cls⟩ print
              | scan =>
                rw [rest ⟨state, .inl cls⟩]
              | hold =>
                rw [rest ⟨state, .inr cls⟩]
          | empty => rfl
          | posted => rfl
          | finished => rfl
        rw [same]
        exact .stays queued print rest

/-! ### A service that is shut -/

theorem State.serviceShut_kept (wf : s.wellFormed) (p : Port) (g : Slot) : (s.serviceShut p g).wellFormed := by
  unfold State.serviceShut
  split
  · exact State.scanClosed_wellFormed wf
  · exact (State.modifyPort_kept _ p _ fun w => { w.port p with }).data ((s.keepHold_kept g _).data wf)

/-- What a service's end leaves as it is. -/
theorem State.serviceShut_same {β : Type} (view : State → β) (port : ∀ t p y, view (State.setPort t p y) = view t)
    (job : ∀ t g f, view (State.updateJob t g f) = view t) : view (s.serviceShut p g) = view s := by
  unfold State.serviceShut
  split
  · exact port _ _ _
  · exact (port _ _ _).trans (job _ _ _)

theorem State.serviceShut_port_ne (ne : r ≠ p) : (s.serviceShut p g).port r = s.port r := by
  unfold State.serviceShut
  split
  · exact State.scanClosed_port_ne ne
  · exact (State.port_modifyPort_ne _ ne _).trans rfl

theorem State.serviceShut_slot_ne (ne : h ≠ g) : (s.serviceShut p g).slot h = s.slot h := by
  unfold State.serviceShut
  split
  · rfl
  · exact s.slot_setSlot_ne ne _

theorem State.serviceShut_chain : ((s.serviceShut p g).job g).resultChain = (s.job g).resultChain := by
  unfold State.serviceShut
  split
  · rfl
  · have job : ((s.keepHold g (s.holdLeft p)).job g) = { s.job g with holdRemaining := s.holdLeft p } := State.job_updateJob _ _ _
    show ((s.keepHold g (s.holdLeft p)).job g).resultChain = _
    rw [job]

/-- The port of a shut service: its frames by the phase of a scan, its HOLD entries ORPHAN. -/
theorem State.serviceShut_port : (s.serviceShut p g).port p = { s.port p with
    transmitter := if (s.job g).cls = some .scan then (s.port p).scanEnded else (s.port p).transmitter
    contacts := ((s.serviceShut p g).port p).contacts } := by
  unfold State.serviceShut
  split
  · rw [State.scanClosed_port]
  · rw [State.port_modifyPort]
    rfl

/-- A contact that a hold's end may touch. -/
def Contact.shut (x y : Contact) : Prop := y = x ∨ ((∃ c, x = .hold c) ∧ y = .orphan)

theorem orphanHold_shut (x : Contact) : x.shut (orphanHold x) := by
  cases x with
  | hold c => exact .inr ⟨⟨c, rfl⟩, rfl⟩
  | none => exact .inl rfl
  | zone c => exact .inl rfl
  | orphan => exact .inl rfl
  | dropped => exact .inl rfl

theorem Contact.shut.trans {x y z : Contact} (a : x.shut y) (b : y.shut z) : x.shut z := by
  rcases b with e | ⟨⟨c, e⟩, o⟩
  · rw [e]
    exact a
  · rcases a with k | ⟨-, k⟩
    · exact .inr ⟨⟨c, k ▸ e⟩, o⟩
    · cases k.symm.trans e

theorem State.serviceShut_contacts : ((s.serviceShut p g).port p).contacts =
    if (s.job g).cls = some .scan then (s.port p).contacts else (s.port p).contacts.map orphanHold := by
  unfold State.serviceShut
  split
  · rw [State.scanClosed_port]
  · rw [State.port_modifyPort]
    rfl

theorem State.serviceShut_contact (q : Port) (i : Fin 10) : (s.contact q i).shut ((s.serviceShut p g).contact q i) := by
  by_cases own : q = p
  · subst own
    unfold State.contact
    rw [State.serviceShut_contacts]
    split
    · exact .inl rfl
    · rw [Vector.getElem_map]
      exact orphanHold_shut _
  · refine .inl ?_
    unfold State.contact
    rw [State.serviceShut_port_ne own]

/-! ### What the close at a slot writes -/

/-- The bytes that the close at a slot may write. -/
def closeBytes (s : State) (g : Slot) (a : Nat) : Prop :=
  a = poolAddress (s.job g).pool + 3 ∨ finishBytes g a ∨ stationMirrors (stationOf g) a ∨
    (s.endsAtClose g ∧ ∃ p, (s.job g).port = some p ∧ portMirror p a)

theorem State.closeSlot_writes : Writes (closeBytes s g) s.mem (s.closeSlot g).mem := by
  have form := s.closeSlot_form g
  generalize s.closeSlot g = t at form ⊢
  cases form with
  | queued state =>
    refine State.finishQueued_writes.mono fun a h => ?_
    rcases h with h | h | h
    · exact .inl h
    · exact .inr (.inl h)
    · exact .inr (.inr (.inl h))
  | latched print => exact .of_eq rfl
  | ended p ends port =>
    have mem : (s.serviceShut p g).mem = s.mem := State.serviceShut_same State.mem (fun _ _ _ => rfl) fun _ _ _ => rfl
    have wrote := State.finishScan_writes (s := s.serviceShut p g) (p := p) (g := g) (o := .cancelled) (d := .stationClosed) (reported := none)
    rw [mem] at wrote
    refine wrote.mono fun a h => ?_
    rcases h with h | h | h
    · exact .inr (.inl h)
    · exact .inr (.inr (.inl h))
    · exact .inr (.inr (.inr ⟨ends, p, port, h⟩))
  | stays queued print ends => exact .refl _ _

theorem State.closeSlot_slotWord (w : Memory.wf s.mem = true) (ne : h ≠ g) {x : Nat} (hx : x ≤ 60) :
    (s.closeSlot g).word (slotAddress h + x) = s.word (slotAddress h + x) :=
  State.closeSlot_writes.word w fun b hb hk => by
    have := slotAddress_bounds h
    have := slotAddress_bounds g
    have := poolAddress_bounds (s.job g).pool
    have := stationAddress_bounds (stationOf g)
    have := slotAddress_apart ne
    rcases hk with hk | hk | hk | ⟨-, p, -, hk⟩
    · unfold within at hb
      omega
    · unfold finishBytes within at *
      omega
    · unfold stationMirrors within at *
      omega
    · have := portAddress_bounds p
      unfold portMirror within at *
      omega

theorem State.closeSlot_slot_ne (ne : h ≠ g) : (s.closeSlot g).slot h = s.slot h := by
  have form := s.closeSlot_form g
  generalize s.closeSlot g = t at form ⊢
  cases form with
  | queued state => exact State.finishQueued_slot_ne ne
  | latched print => exact s.slot_setSlot_ne ne _
  | ended p ends port => exact (State.finishScan_slotsKept h fun k => ne (List.mem_singleton.mp k)).trans (State.serviceShut_slot_ne ne)
  | stays queued print ends => rfl

theorem State.closeSlot_port_ne (apart : s.endsAtClose g → (s.job g).port ≠ some r) : (s.closeSlot g).port r = s.port r := by
  have form := s.closeSlot_form g
  generalize s.closeSlot g = t at form ⊢
  cases form with
  | queued state =>
    have ports : (s.finishQueued g .cancelled .stationClosed).ports = s.ports := State.finish_ports _ _ _ _ _
    unfold State.port
    rw [ports]
  | latched print => rfl
  | ended p ends port =>
    have ne : r ≠ p := fun e => apart ends (e ▸ port)
    exact (State.finishScan_portsKept r fun k => ne (List.mem_singleton.mp k)).trans (State.serviceShut_port_ne ne)
  | stays queued print ends => rfl

theorem State.closeSlot_contact (q : Port) (i : Fin 10) : (s.contact q i).shut ((s.closeSlot g).contact q i) := by
  have form := s.closeSlot_form g
  generalize s.closeSlot g = t at form ⊢
  cases form with
  | queued state =>
    have ports : (s.finishQueued g .cancelled .stationClosed).ports = s.ports := State.finish_ports _ _ _ _ _
    refine .inl ?_
    unfold State.contact State.port
    rw [ports]
  | latched print => exact .inl rfl
  | ended p ends port =>
    refine (State.serviceShut_contact (p := p) (g := g) q i).trans (.inl ?_)
    unfold State.contact
    by_cases own : q = p
    · rw [own, State.finishScan_port]
      rfl
    · rw [State.finishScan_portsKept q fun k => own (List.mem_singleton.mp k)]
  | stays queued print ends => exact .inl rfl

theorem State.closeSlot_queue (q : Pool) : (s.closeSlot g).queue q =
    if (s.slot g).state = .queued ∧ q = (s.job g).pool then (s.queue q).erase g else s.queue q := by
  have form := s.closeSlot_form g
  generalize s.closeSlot g = t at form ⊢
  have serves (h : (s.slot g).state = .serving) : ¬ ((s.slot g).state = .queued ∧ q = (s.job g).pool) := fun k => by cases k.1.symm.trans h
  cases form with
  | queued state =>
    rw [State.finishQueued_queue]
    by_cases e : q = (s.job g).pool
    · rw [if_pos e, if_pos ⟨state, e⟩]
    · rw [if_neg e, if_neg fun k => e k.2]
  | latched print =>
    rw [if_neg (serves print.1)]
    rfl
  | ended p ends port =>
    rw [if_neg (serves ends.1)]
    have queues : (s.serviceShut p g).queues = s.queues := State.serviceShut_same State.queues (fun _ _ _ => rfl) fun _ _ _ => rfl
    unfold State.queue
    rw [State.finishScan_queues, queues]
  | stays queued print ends => rw [if_neg fun k => queued k.1]

theorem State.closeSlot_deadlines : (s.closeSlot g).deadlines =
    if (s.slot g).state = .queued then s.deadlines.erase g else s.deadlines := by
  have form := s.closeSlot_form g
  have serves (h : (s.slot g).state = .serving) : (s.slot g).state ≠ .queued := fun k => by cases k.symm.trans h
  generalize s.closeSlot g = t at form ⊢
  cases form with
  | queued state => rw [State.finishQueued_deadlines, if_pos state]
  | latched print =>
    rw [if_neg (serves print.1)]
    rfl
  | ended p ends port =>
    rw [if_neg (serves ends.1), State.finishScan_deadlines]
    exact State.serviceShut_same State.deadlines (fun _ _ _ => rfl) fun _ _ _ => rfl
  | stays queued print ends => rw [if_neg queued]

theorem State.closeSlot_same {β : Type} (view : State → β) (finish : ∀ t g o d rep, view (State.finish t g o d rep) = view t)
    (port : ∀ t p y, view (State.setPort t p y) = view t) (job : ∀ t g f, view (State.updateJob t g f) = view t)
    (release : ∀ t p, view (State.releasePort t p) = view t) (unqueued : ∀ t g, view (State.unqueued t g) = view t) :
    view (s.closeSlot g) = view s := by
  have form := s.closeSlot_form g
  generalize s.closeSlot g = t at form ⊢
  cases form with
  | queued state => exact (finish _ _ _ _ _).trans (unqueued _ _)
  | latched print => exact job _ _ _
  | ended p ends port' => exact (release _ _).trans ((finish _ _ _ _ _).trans (State.serviceShut_same view port job))
  | stays queued print ends => rfl

end

end Sys2Proof.Machine
end

/-! SUPPORT. The close of a station at its four slots (R45). -/
section
namespace Sys2Proof.Machine

section
variable {s t u : State} {g h : Slot} {p r : Port} {st : Station}

/-- A served job is that of one port. -/
theorem State.servicesPair.unique (pair : s.servicesPair) (first : (s.slot g).state = .serving) (second : (s.slot h).state = .serving)
    (a : (s.job g).port = some p) (b : (s.job h).port = some p) : g = h := by
  obtain ⟨q, hq⟩ := pair.2.2 g first
  obtain ⟨r, hr⟩ := pair.2.2 h second
  obtain rfl : q = p := Option.some.inj ((pair.2.1 q g hq).2.1.symm.trans a)
  obtain rfl : r = q := Option.some.inj ((pair.2.1 r h hr).2.1.symm.trans b)
  exact Option.some.inj (hq.symm.trans hr)

/-- The part while a close goes through the slots of its station. -/
structure ClosesSlots (st : Station) (s t : State) : Prop where
  wf : t.wellFormed
  ctl : t.ctl = s.ctl
  notice : t.notice = s.notice
  spare : t.spare = s.spare
  stats : t.stats = s.stats
  mailboxes : t.mailboxes = s.mailboxes
  contacts : ∀ p i, (s.contact p i).shut (t.contact p i)
  queues : ∀ q, (t.queue q).Sublist (s.queue q)
  waits : ∀ q g, stationOf g ≠ st → g ∈ s.queue q → g ∈ t.queue q
  shown : ∀ q, t.queue q ≠ s.queue q → t.queueShown q
  deadlines : t.deadlines.Sublist s.deadlines
  listed : ∀ g, stationOf g ≠ st → g ∈ s.deadlines → g ∈ t.deadlines
  others : ∀ g, stationOf g ≠ st → t.slot g = s.slot g

/-- A slot of the station that the close has still to look at, with the port of its service. -/
def WaitsAtClose (st : Station) (s : State) (g : Slot) (t : State) : Prop :=
  stationOf g = st ∧ t.slot g = s.slot g ∧ ∀ p, s.endsAtClose g → (s.job g).port = some p → t.port p = s.port p

/-- A port whose service a close has ended. -/
def PortRecord.closed (x y : PortRecord) (scan : Prop) [Decidable scan] : Prop :=
  y = { x.ended with transmitter := if scan then x.scanEnded else x.transmitter, contacts := y.contacts }

/-- A slot behind the close (R45). -/
structure ClosedSlot (s : State) (g : Slot) (t : State) : Prop where
  queued : (s.slot g).state = .queued → t.hasResult g .cancelled .stationClosed ∧ g ∉ t.queue (s.job g).pool ∧ g ∉ t.deadlines ∧
    t.talliesShown (stationOf g)
  print : s.printsAtClose g → t.slot g = { s.slot g with job := { s.job g with closeLatch := true } }
  ended : ∀ p, s.endsAtClose g → (s.job g).port = some p → t.hasResult g .cancelled .stationClosed ∧
    (s.port p).closed (t.port p) ((s.job g).cls = some .scan) ∧ t.portShown p ∧ (t.job g).resultChain = (s.job g).resultChain
  idle : (s.slot g).state ≠ .queued → (s.slot g).state ≠ .serving → t.slot g = s.slot g

/-! ### The close at one slot -/

theorem ne_of_station (ne : stationOf h ≠ st) (own : stationOf g = st) : h ≠ g := by
  rintro rfl
  exact ne own

/-- The queue lengths that a close at a slot changes show in their mirrors. -/
theorem State.closeSlot_shown (wf : t.wellFormed) (q : Pool) (before : t.queue q ≠ s.queue q → t.queueShown q)
    (ne : (t.closeSlot g).queue q ≠ s.queue q) : (t.closeSlot g).queueShown q := by
  by_cases own : (t.slot g).state = .queued ∧ q = (t.job g).pool
  · obtain ⟨queued, rfl⟩ := own
    rw [State.closeSlot_queued queued]
    exact State.finishQueued_shown wf.memory
  · have same : (t.closeSlot g).queue q = t.queue q := by rw [State.closeSlot_queue, if_neg own]
    refine (before (by rw [← same]; exact ne)).congr same ?_
    have form := t.closeSlot_form g
    generalize t.closeSlot g = u at form
    have hq := poolAddress_bounds q
    have hg := slotAddress_bounds g
    have hs := stationAddress_bounds (stationOf g)
    cases form with
    | queued state =>
      have apart : q.val ≠ (t.job g).pool.val := fun e => own ⟨state, Fin.ext e⟩
      refine State.finishQueued_writes.word wf.memory fun b hb hk => ?_
      unfold finishBytes stationMirrors within poolAddress at *
      omega
    | latched print => rfl
    | ended p ends port =>
      have mem : (t.serviceShut p g).mem = t.mem := State.serviceShut_same State.mem (fun _ _ _ => rfl) fun _ _ _ => rfl
      have wrote := State.finishScan_writes (s := t.serviceShut p g) (p := p) (g := g) (o := .cancelled) (d := .stationClosed) (reported := none)
      rw [mem] at wrote
      refine wrote.word wf.memory fun b hb hk => ?_
      have hp := portAddress_bounds p
      unfold finishBytes stationMirrors portMirror within at *
      omega
    | stays queued print ends => rfl

/-- A close at a slot keeps the tallies of its station shown. -/
theorem State.closeSlot_tallies (wf : t.wellFormed) (shown : t.talliesShown (stationOf g)) : (t.closeSlot g).talliesShown (stationOf g) := by
  have form := t.closeSlot_form g
  generalize t.closeSlot g = u at form
  cases form with
  | queued state => exact State.finish_talliesShown ((t.unqueued_kept g).data wf)
  | latched print => exact shown
  | ended p ends port => exact State.finishScan_talliesShown (State.serviceShut_kept wf p g)
  | stays queued print ends => exact shown

theorem State.closeSlot_closes (inv : ClosesSlots st s t) (own : stationOf g = st) : ClosesSlots st s (t.closeSlot g) where
  wf := (t.closeSlot_kept g).data inv.wf
  ctl := (t.closeSlot_kept g).ctl.trans inv.ctl
  notice := (State.closeSlot_same State.notice State.finish_notice (fun _ _ _ => rfl) (fun _ _ _ => rfl) (fun _ _ => rfl) fun _ _ => rfl).trans inv.notice
  spare := (State.closeSlot_same State.spare State.finish_spare (fun _ _ _ => rfl) (fun _ _ _ => rfl) (fun _ _ => rfl) fun _ _ => rfl).trans inv.spare
  stats := (State.closeSlot_same State.stats State.finish_stats (fun _ _ _ => rfl) (fun _ _ _ => rfl) (fun _ _ => rfl) fun _ _ => rfl).trans inv.stats
  mailboxes := (State.closeSlot_same State.mailboxes State.finish_mailboxes (fun _ _ _ => rfl) (fun _ _ _ => rfl) (fun _ _ => rfl)
    fun _ _ => rfl).trans inv.mailboxes
  contacts p i := (inv.contacts p i).trans (State.closeSlot_contact p i)
  queues q := by
    rw [State.closeSlot_queue]
    split
    · exact List.erase_sublist.trans (inv.queues q)
    · exact inv.queues q
  waits q h ne hq := by
    rw [State.closeSlot_queue]
    have keeps := inv.waits q h ne hq
    split
    · exact (List.mem_erase_of_ne (ne_of_station ne own)).mpr keeps
    · exact keeps
  shown q ne := State.closeSlot_shown inv.wf q (inv.shown q) ne
  deadlines := by
    rw [State.closeSlot_deadlines]
    split
    · exact List.erase_sublist.trans inv.deadlines
    · exact inv.deadlines
  listed h ne hl := by
    rw [State.closeSlot_deadlines]
    have keeps := inv.listed h ne hl
    split
    · exact (List.mem_erase_of_ne (ne_of_station ne own)).mpr keeps
    · exact keeps
  others h ne := (State.closeSlot_slot_ne (ne_of_station ne own)).trans (inv.others h ne)

theorem State.serviceShut_closed (wf : t.wellFormed) : (t.port p).closed
    (((t.serviceShut p g).finishScan p g .cancelled .stationClosed none).port p) ((t.job g).cls = some .scan) := by
  unfold PortRecord.closed
  rw [State.finishScan_port, State.serviceShut_port]
  rfl

theorem State.closeSlot_closed (holds : s.queuesHold) (list : s.deadlinesHold) (inv : ClosesSlots st s t) (ready : WaitsAtClose st s g t) :
    ClosedSlot s g (t.closeSlot g) := by
  obtain ⟨own, slot, ports⟩ := ready
  have job : t.job g = s.job g := by
    unfold State.job
    rw [slot]
  have printsIff : t.printsAtClose g ↔ s.printsAtClose g := by unfold State.printsAtClose; rw [slot, job]
  have endsIff : t.endsAtClose g ↔ s.endsAtClose g := by unfold State.endsAtClose; rw [slot, job]
  refine ⟨fun queued => ?_, fun print => ?_, fun p ends port => ?_, fun queued serving => ?_⟩
  · rw [State.closeSlot_queued (by rw [slot]; exact queued)]
    refine ⟨State.finishQueued_hasResult inv.wf.memory, ?_, ?_, State.finish_talliesShown ((t.unqueued_kept g).data inv.wf)⟩
    · rw [State.finishQueued_queue, if_pos (by rw [job])]
      exact ((holds _).1.sublist (inv.queues _)).not_mem_erase
    · rw [State.finishQueued_deadlines]
      exact (list.1.sublist inv.deadlines).not_mem_erase
  · rw [State.closeSlot_latched (printsIff.mpr print)]
    unfold State.updateJob
    rw [State.slot_setSlot, slot, job]
  · rw [State.closeSlot_ended (endsIff.mpr ends) (by rw [job]; exact port)]
    have closed := State.serviceShut_kept inv.wf p g
    refine ⟨State.finishScan_hasResult closed.memory, ?_, State.finishScan_shown closed, ?_⟩
    · have record := State.serviceShut_closed (p := p) (g := g) inv.wf
      rw [ports p ends port, job] at record
      exact record
    · rw [State.finishScan_job, State.serviceShut_chain, job]
  · have form := t.closeSlot_form g
    generalize t.closeSlot g = u at form
    cases form with
    | queued state => exact absurd (slot ▸ state) queued
    | latched print => exact absurd (slot ▸ print.1) serving
    | ended p ends port => exact absurd (slot ▸ ends.1) serving
    | stays queued' print ends => exact slot

/-- The close at a slot leaves the ports of the other slots' services. -/
theorem State.closeSlot_port_other (pair : s.servicesPair) (ready : WaitsAtClose st s g t) (ne : h ≠ g) (ends : s.endsAtClose h)
    (port : (s.job h).port = some r) : (t.closeSlot g).port r = t.port r := by
  obtain ⟨-, slot, -⟩ := ready
  have job : t.job g = s.job g := by
    unfold State.job
    rw [slot]
  refine State.closeSlot_port_ne fun mine at_r => ne ?_
  rw [job] at at_r
  have serving : (s.slot g).state = .serving := slot ▸ mine.1
  exact pair.unique ends.1 serving port at_r

theorem State.closeSlot_other (pair : s.servicesPair) (inv : ClosesSlots st s t) (ready : WaitsAtClose st s g t) (ne : h ≠ g) :
    (WaitsAtClose st s h t → WaitsAtClose st s h (t.closeSlot g)) ∧
      (stationOf h = st ∧ ClosedSlot s h t → stationOf h = st ∧ ClosedSlot s h (t.closeSlot g)) := by
  have slot : (t.closeSlot g).slot h = t.slot h := State.closeSlot_slot_ne ne
  have notice := (t.closeSlot_kept g).stationNotice
  have owner := State.closeSlot_slotWord inv.wf.memory ne (x := 0) (by omega)
  have result := State.closeSlot_slotWord inv.wf.memory ne (x := 0x18) (by omega)
  refine ⟨fun ⟨station, same, ports⟩ => ⟨station, slot.trans same, fun p ends port => ?_⟩, fun ⟨station, done⟩ => ⟨station, ?_⟩⟩
  · exact (State.closeSlot_port_other pair ready ne ends port).trans (ports p ends port)
  · refine ⟨fun queued => ?_, fun print => slot.trans (done.print print), fun p ends port => ?_, fun a b => slot.trans (done.idle a b)⟩
    · obtain ⟨has, out, off, shown⟩ := done.queued queued
      refine ⟨has.congr slot owner result notice, fun k => out ?_, fun k => off ?_, ?_⟩
      · rw [State.closeSlot_queue] at k
        split at k
        · exact List.mem_of_mem_erase k
        · exact k
      · rw [State.closeSlot_deadlines] at k
        split at k
        · exact List.mem_of_mem_erase k
        · exact k
      · rw [station, ← ready.1] at shown ⊢
        exact State.closeSlot_tallies inv.wf shown
    · obtain ⟨has, record, shown, chain⟩ := done.ended p ends port
      have kept := State.closeSlot_port_other pair ready ne ends port
      refine ⟨has.congr slot owner result notice, kept ▸ record, shown.congr kept ?_, ?_⟩
      · refine State.closeSlot_writes.word inv.wf.memory fun b hb hk => ?_
        have := portAddress_bounds p
        have := slotAddress_bounds g
        have := stationAddress_bounds (stationOf g)
        have := poolAddress_bounds (t.job g).pool
        rcases hk with hk | hk | hk | ⟨mine, r, at_r, hk⟩
        · unfold within at hb
          omega
        · unfold finishBytes within at *
          omega
        · unfold stationMirrors within at *
          omega
        · have apart : p ≠ r := by
            rintro rfl
            have job : t.job g = s.job g := by
              unfold State.job
              rw [ready.2.1]
            rw [job] at at_r
            have serving : (s.slot g).state = .serving := ready.2.1 ▸ mine.1
            exact ne (pair.unique ends.1 serving port at_r)
          have := portAddress_apart apart
          unfold portMirror within at *
          omega
      · unfold State.job at *
        rw [slot]
        exact chain

/-- The close of a station at its slots (R45). -/
theorem State.closeSlots_all (wf : s.wellFormed) (holds : s.structured) (st : Station) :
    ClosesSlots st s ((slotsOf st).foldl State.closeSlot s) ∧ ∀ g, stationOf g = st → ClosedSlot s g ((slotsOf st).foldl State.closeSlot s) := by
  obtain ⟨queues, list, pair, -⟩ := holds
  have stations (g : Slot) (hg : g ∈ slotsOf st) : stationOf g = st := by
    obtain ⟨i, -, rfl⟩ := List.mem_map.mp hg
    unfold slotOf stationOf
    exact Fin.ext (by dsimp only; omega)
  have nodup : (slotsOf st).Nodup := (List.nodup_finRange 4).map fun i j e => by
    have val := congrArg Fin.val e
    unfold slotOf at val
    exact Fin.ext (by dsimp only at val; omega)
  obtain ⟨inv, all, -⟩ := foldl_each (f := State.closeSlot) (Inv := ClosesSlots st s) (Ready := fun g t => WaitsAtClose st s g t)
    (Done := fun g t => stationOf g = st ∧ ClosedSlot s g t)
    (fun t g inv ready => ⟨State.closeSlot_closes inv ready.1, ready.1, State.closeSlot_closed queues list inv ready⟩)
    (fun t g h inv ready ne => State.closeSlot_other pair inv ready ne) (slotsOf st) nodup s
    { wf := wf, ctl := rfl, notice := rfl, spare := rfl, stats := rfl, mailboxes := rfl, contacts := fun _ _ => .inl rfl, queues := fun _ => .refl _,
      waits := fun _ _ _ h => h, shown := fun _ k => absurd rfl k, deadlines := .refl _, listed := fun _ _ h => h, others := fun _ _ => rfl }
    fun g hg => ⟨stations g hg, rfl, fun _ _ _ => rfl⟩
  refine ⟨inv, fun g own => (all g ?_).2⟩
  have index := (filter_stationOf st).mem_iff.mp (List.mem_filter.mpr ⟨List.mem_finRange g, decide_eq_true own⟩)
  exact index

/-- A sublist that keeps what passes a test, and nothing else, is the filtered list. -/
theorem eq_filter_of_sublist {α : Type} {l k : List α} {test : α → Bool} (nodup : l.Nodup) (sub : k.Sublist l)
    (iff : ∀ a ∈ l, a ∈ k ↔ test a = true) : k = l.filter test := by
  have inner : k.Sublist (l.filter test) := by
    have filtered := sub.filter test
    rwa [List.filter_eq_self.mpr fun a ha => (iff a (sub.subset ha)).mp ha] at filtered
  refine inner.eq_of_length ?_
  refine ((List.perm_ext_iff_of_nodup (nodup.sublist sub) (nodup.filter test)).mpr fun a => ⟨fun h => inner.subset h, fun h => ?_⟩).length_eq
  obtain ⟨mem, passes⟩ := List.mem_filter.mp h
  exact (iff a mem).mpr passes

end

end Sys2Proof.Machine
end

/-! SUPPORT. The touch router at the close of a station (R46). -/
section
namespace Sys2Proof.Machine

section
variable {s t u : State} {g h : Slot} {p : Port} {st : Station} {r : Fin 4}

/-! ### One mailbox record that is cleared -/

/-- A mailbox record that a close has cleared. -/
def ClearedMailbox (s : State) (st : Station) (r : Fin 4) (t : State) : Prop :=
  t.mailbox st r = { seq := (s.mailbox st r).seq + 2 } ∧
    t.word (mailboxAddress st r) = ((s.mailbox st r).seq + 2).setWidth 32 ∧
    t.word (mailboxAddress st r + 0x08) = 0 ∧ t.word (mailboxAddress st r + 0x0C) = 0

theorem State.clearMailbox_mem : (s.clearMailbox st r).mem = (s.writeMailWords st r (s.mailbox st r).seq 0 0).mem := rfl

theorem State.clearMailbox_only : Writes (mailWords st r) s.mem (s.clearMailbox st r).mem := by
  rw [State.clearMailbox_mem]
  exact State.writeMailWords_only

theorem State.clearMailbox_clears (w : Memory.wf s.mem = true) : ClearedMailbox s st r (s.clearMailbox st r) := by
  have words := State.writeMailWords_words (st := st) (r := r) (seq := (s.mailbox st r).seq) (events := 0) (position := 0) w
  unfold State.word at words
  rw [← State.clearMailbox_mem] at words
  exact ⟨State.mailbox_setMailbox _ st r _, words⟩

theorem State.clearMailbox_other {r' : Fin 4} (w : Memory.wf s.mem = true) (ne : r' ≠ r) :
    (s.clearMailbox st r).mailbox st r' = s.mailbox st r' ∧
      ∀ x, x ∈ [0, 8, 12] → (s.clearMailbox st r).word (mailboxAddress st r' + x) = s.word (mailboxAddress st r' + x) := by
  refine ⟨State.mailbox_setMailbox_ne _ (fun e => ne (Prod.mk.inj e).2) _, fun x hx => ?_⟩
  refine State.clearMailbox_only.word w fun b hb => mailWords_apart (st' := st) (r' := r') (fun e => ne e.2) ?_
  unfold mailWords
  unfold within at *
  simp only [List.mem_cons, List.not_mem_nil, or_false] at hx
  omega

theorem State.clearMailboxes_all (w : Memory.wf s.mem = true) (r : Fin 4) :
    ClearedMailbox s st r (fourIndices.foldl (fun s r => s.clearMailbox st r) s) := by
  obtain ⟨-, all, -⟩ := foldl_each (f := fun s r => s.clearMailbox st r) (Inv := fun t => Memory.wf t.mem = true)
    (Ready := fun r t => t.mailbox st r = s.mailbox st r) (Done := fun r t => ClearedMailbox s st r t)
    (fun t r w ready => ⟨State.clearMailbox_only.wf w, by
      have cleared := State.clearMailbox_clears (s := t) (st := st) (r := r) w
      unfold ClearedMailbox at cleared ⊢
      rw [ready] at cleared
      exact cleared⟩)
    (fun t r r' w ready ne => by
      obtain ⟨box, words⟩ := State.clearMailbox_other (s := t) (st := st) w ne
      have zero := words 0 (by simp)
      rw [Nat.add_zero] at zero
      exact ⟨fun k => box.trans k, fun ⟨record, seq, key, position⟩ => ⟨box.trans record, zero.trans seq, (words 8 (by simp)).trans key,
        (words 12 (by simp)).trans position⟩⟩) fourIndices (List.nodup_finRange 4) s w fun _ _ => rfl
  exact all r (List.mem_finRange r)

/-! ### The touch router (R46) -/

/-- The contacts of a station ORPHAN on every panel. -/
def State.orphaned (s : State) (st : Station) : State :=
  allPorts.foldl (fun s p => s.modifyPort p fun x => { x with contacts := x.contacts.map (orphanOf st) }) s

theorem State.closeTouch_eq : s.closeTouch st = fourIndices.foldl (fun s r => s.clearMailbox st r) (s.orphaned st) := rfl

theorem State.orphaned_same {β : Type} (view : State → β) (port : ∀ t p y, view (State.setPort t p y) = view t) : view (s.orphaned st) = view s :=
  State.foldl_same view (fun _ _ => port _ _ _) allPorts s

theorem State.clearMailbox_same {β : Type} (view : State → β) (word : ∀ t a v, view (State.putWord t a v) = view t)
    (box : ∀ t st r b, view (State.setMailbox t st r b) = view t) : view (s.clearMailbox st r) = view s := by
  unfold State.clearMailbox State.writeMailWords
  dsimp only
  rw [box, word, word, word, word]

theorem State.closeTouch_same {β : Type} (view : State → β) (port : ∀ t p y, view (State.setPort t p y) = view t)
    (word : ∀ t a v, view (State.putWord t a v) = view t) (box : ∀ t st r b, view (State.setMailbox t st r b) = view t) :
    view (s.closeTouch st) = view s := by
  rw [State.closeTouch_eq]
  exact (State.foldl_same view (fun _ _ => State.clearMailbox_same view word box) fourIndices _).trans (State.orphaned_same view port)

theorem State.orphaned_port (p : Port) : (s.orphaned st).port p = { s.port p with contacts := (s.port p).contacts.map (orphanOf st) } :=
  State.port_foldl_allPorts (seen := fun _ => True) (change := fun _ x => { x with contacts := x.contacts.map (orphanOf st) })
    (fun _ _ _ => trivial) (fun t p _ => t.port_modifyPort p _) (fun t p _ ne => t.port_modifyPort_ne ne _) s trivial p

theorem State.closeTouch_port (p : Port) : (s.closeTouch st).port p = { s.port p with contacts := (s.port p).contacts.map (orphanOf st) } := by
  rw [← State.orphaned_port, State.closeTouch_eq]
  have ports : (fourIndices.foldl (fun s r => s.clearMailbox st r) (s.orphaned st)).ports = (s.orphaned st).ports :=
    State.foldl_same State.ports (fun _ _ => State.clearMailbox_same State.ports (fun _ _ _ => rfl) fun _ _ _ _ => rfl) fourIndices _
  unfold State.port
  rw [ports]

theorem State.closeTouch_contact (p : Port) (i : Fin 10) : (s.closeTouch st).contact p i = orphanOf st (s.contact p i) := by
  unfold State.contact
  rw [State.closeTouch_port]
  exact Vector.getElem_map _ _

theorem State.closeTouch_writes : Writes (mailboxBytes st) s.mem (s.closeTouch st).mem := by
  have mem : (s.orphaned st).mem = s.mem := State.orphaned_same State.mem fun _ _ _ => rfl
  have wrote := Writes.foldl (fun (t : State) r => t.clearMailbox_writes st r) fourIndices (s.orphaned st)
  rw [mem] at wrote
  exact wrote

theorem State.closeTouch_word (w : Memory.wf s.mem = true) {a : Nat} (ha : a + 4 ≤ 0x0D80 ∨ 0x1580 ≤ a) : (s.closeTouch st).word a = s.word a :=
  State.closeTouch_writes.word w fun b hb hk => by
    obtain ⟨r, hk⟩ := hk
    have := mailboxAddress_bounds st r
    unfold within at hb hk
    omega

theorem State.closeTouch_mailbox (w : Memory.wf s.mem = true) (r : Fin 4) : ClearedMailbox s st r (s.closeTouch st) := by
  have mem : (s.orphaned st).mem = s.mem := State.orphaned_same State.mem fun _ _ _ => rfl
  have boxes : (s.orphaned st).mailboxes = s.mailboxes := State.orphaned_same State.mailboxes fun _ _ _ => rfl
  have cleared := State.clearMailboxes_all (s := s.orphaned st) (st := st) (by rw [mem]; exact w) r
  unfold ClearedMailbox State.mailbox at *
  rw [boxes] at cleared
  exact cleared

theorem State.closeTouch_mailbox_ne {st' : Station} (ne : st' ≠ st) (r : Fin 4) : (s.closeTouch st).mailbox st' r = s.mailbox st' r := by
  have boxes : (s.orphaned st).mailboxes = s.mailboxes := State.orphaned_same State.mailboxes fun _ _ _ => rfl
  have kept := State.foldl_same (f := fun s r => s.clearMailbox st r) (fun t => t.mailbox st' r)
    (fun t r' => State.mailbox_setMailbox_ne _ (fun e => ne (Prod.mk.inj e).1) _) fourIndices (s.orphaned st)
  rw [State.closeTouch_eq]
  refine kept.trans ?_
  unfold State.mailbox
  rw [boxes]

end

end Sys2Proof.Machine
end

/-! SUPPORT. The statement about quiet visits, closes and reopenings (R24, R44 to R46). -/
section
namespace Sys2Proof.Machine

section
variable {s t u : State} {g h : Slot} {p : Port} {st : Station} {r : Fin 4}

/-! ### The close up to its reviews (R45, R46) -/

/-- A station's close before the reviews that it brings. -/
def State.stationShut (s : State) (st : Station) : State := ((slotsOf st).foldl State.closeSlot s).closeTouch st

/-- The reviews of the pools of ports, by the configuration that stands before them. -/
theorem State.reviewPorts_eq (l : List Port) : ∀ t : State, t.ctl = s.ctl →
    l.foldl (fun v p => v.review (v.portConfig p).pool) t = l.foldl (fun v p => v.review (s.portConfig p).pool) t := by
  induction l with
  | nil => exact fun _ _ => rfl
  | cons p rest ih =>
    intro t ctl
    have config : t.portConfig p = s.portConfig p := by
      unfold State.portConfig
      rw [ctl]
    rw [List.foldl_cons, List.foldl_cons, config]
    exact ih _ ((t.review_kept _).ctl.trans ctl)

theorem State.closedPort_eq (s : State) (g : Slot) : s.closedPort g =
    if (s.slot g).state = .serving ∧ ((s.job g).cls = some .scan ∨ (s.job g).cls = some .hold) then (s.job g).port else none := by
  unfold State.closedPort
  split
  · next state cls => exact (if_pos ⟨state, .inl cls⟩).symm
  · next state cls => exact (if_pos ⟨state, .inr cls⟩).symm
  · next scan hold =>
    refine (if_neg ?_).symm
    rintro ⟨state, cls | cls⟩
    · exact scan state cls
    · exact hold state cls

theorem State.stationShut_kept (s : State) (st : Station) : Kept s (s.stationShut st) :=
  (Kept.foldl State.closeSlot_kept _ _).trans (State.closeTouch_kept _ st)

theorem State.closeStation_eq (s : State) (st : Station) : s.closeStation st =
    ((slotsOf st).filterMap s.closedPort).foldl (fun v p => v.review (s.portConfig p).pool) (s.stationShut st) :=
  State.reviewPorts_eq _ _ (s.stationShut_kept st).ctl

/-- What the touch router leaves of the records. -/
theorem State.closeTouch_slot (g : Slot) : (t.closeTouch st).slot g = t.slot g := by
  have slots : (t.closeTouch st).slots = t.slots := State.closeTouch_same State.slots (fun _ _ _ => rfl) (fun _ _ _ => rfl) fun _ _ _ _ => rfl
  unfold State.slot
  rw [slots]

theorem State.closeTouch_hasResult {o : JobOutcome} {d : Detail} (w : Memory.wf t.mem = true) (h : t.hasResult g o d) :
    (t.closeTouch st).hasResult g o d := by
  have hg := slotAddress_bounds g
  exact h.congr (State.closeTouch_slot g) (State.closeTouch_word w (by omega)) (State.closeTouch_word w (by omega))
    (t.closeTouch_kept st).stationNotice

theorem State.closeTouch_closed {x : PortRecord} {scan : Prop} [Decidable scan] (h : x.closed (t.port p) scan) :
    x.closed ((t.closeTouch st).port p) scan := by
  unfold PortRecord.closed at *
  rw [State.closeTouch_port, h]

theorem State.closeTouch_portShown (w : Memory.wf t.mem = true) (h : t.portShown p) : (t.closeTouch st).portShown p := by
  have hp := portAddress_bounds p
  unfold State.portShown at *
  rw [State.closeTouch_word w (by omega), State.closeTouch_port]
  exact h

theorem State.closeTouch_queues (q : Pool) : (t.closeTouch st).queue q = t.queue q := by
  have queues : (t.closeTouch st).queues = t.queues := State.closeTouch_same State.queues (fun _ _ _ => rfl) (fun _ _ _ => rfl) fun _ _ _ _ => rfl
  unfold State.queue
  rw [queues]

theorem State.closeTouch_deadlines : (t.closeTouch st).deadlines = t.deadlines :=
  State.closeTouch_same State.deadlines (fun _ _ _ => rfl) (fun _ _ _ => rfl) fun _ _ _ _ => rfl

/-- A slot behind the close of its station (R45). -/
theorem State.stationShut_slot (wf : s.wellFormed) (holds : s.structured) (own : stationOf g = st) : ClosedSlot s g (s.stationShut st) := by
  obtain ⟨inv, all⟩ := State.closeSlots_all wf holds st
  have done := all g own
  have w := inv.wf.memory
  have hs := stationAddress_bounds (stationOf g)
  unfold State.stationShut
  generalize (slotsOf st).foldl State.closeSlot s = t at *
  refine ⟨fun queued => ?_, fun print => (State.closeTouch_slot g).trans (done.print print), fun p ends port => ?_,
    fun a b => (State.closeTouch_slot g).trans (done.idle a b)⟩
  · obtain ⟨has, out, off, shown⟩ := done.queued queued
    have stations : (t.closeTouch st).stations = t.stations :=
      State.closeTouch_same State.stations (fun _ _ _ => rfl) (fun _ _ _ => rfl) fun _ _ _ _ => rfl
    refine ⟨State.closeTouch_hasResult w has, by rw [State.closeTouch_queues]; exact out, by rw [State.closeTouch_deadlines]; exact off,
      shown.congr ?_ (State.closeTouch_word w (by omega))⟩
    unfold State.counters
    rw [stations]
  · obtain ⟨has, record, shown, chain⟩ := done.ended p ends port
    refine ⟨State.closeTouch_hasResult w has, State.closeTouch_closed record, State.closeTouch_portShown w shown, ?_⟩
    unfold State.job at *
    rw [State.closeTouch_slot]
    exact chain

/-- The queues without the jobs of a closed station. -/
theorem State.stationShut_queue (wf : s.wellFormed) (holds : s.structured) (q : Pool) :
    (s.stationShut st).queue q = (s.queue q).filter fun g => stationOf g ≠ st := by
  obtain ⟨inv, all⟩ := State.closeSlots_all wf holds st
  refine (State.closeTouch_queues q).trans (eq_filter_of_sublist (holds.1 q).1 (inv.queues q) fun g hg => ?_)
  rw [decide_eq_true_iff]
  constructor
  · intro stays own
    obtain ⟨queued, pool⟩ := ((holds.1 q).2 g).mp hg
    subst pool
    exact ((all g own).queued queued).2.1 stays
  · exact fun ne => inv.waits q g ne hg

theorem State.stationShut_deadlines (wf : s.wellFormed) (holds : s.structured) :
    (s.stationShut st).deadlines = s.deadlines.filter fun g => stationOf g ≠ st := by
  obtain ⟨inv, all⟩ := State.closeSlots_all wf holds st
  refine State.closeTouch_deadlines.trans (eq_filter_of_sublist holds.2.1.1 inv.deadlines fun g hg => ?_)
  rw [decide_eq_true_iff]
  constructor
  · intro stays own
    exact ((all g own).queued ((holds.2.1.2 g).mp hg).1).2.2.1 stays
  · exact fun ne => inv.listed g ne hg

theorem State.stationShut_shown (wf : s.wellFormed) (holds : s.structured) (q : Pool) (ne : (s.stationShut st).queue q ≠ s.queue q) :
    (s.stationShut st).queueShown q := by
  obtain ⟨inv, -⟩ := State.closeSlots_all wf holds st
  have same : (s.stationShut st).queue q = ((slotsOf st).foldl State.closeSlot s).queue q := State.closeTouch_queues q
  have hq := poolAddress_bounds q
  rw [same] at ne
  exact (inv.shown q ne).congr same (State.closeTouch_word inv.wf.memory (by omega))

/-- The contacts at a close (R46). -/
theorem State.stationShut_contact (wf : s.wellFormed) (holds : s.structured) (p : Port) (i : Fin 10) :
    (∀ c, s.contact p i = .zone c → (s.stationShut st).contact p i = if c.station = st then .orphan else .zone c) ∧
      (∀ c, s.contact p i = .hold c → c.station = st → (s.stationShut st).contact p i = .orphan) ∧
      (s.contact p i = .none ∨ s.contact p i = .orphan ∨ s.contact p i = .dropped → (s.stationShut st).contact p i = s.contact p i) := by
  obtain ⟨inv, -⟩ := State.closeSlots_all wf holds st
  have shut := inv.contacts p i
  unfold State.stationShut
  rw [State.closeTouch_contact]
  generalize ((slotsOf st).foldl State.closeSlot s).contact p i = y at shut
  generalize s.contact p i = x at shut
  refine ⟨fun c e => ?_, fun c e own => ?_, fun rest => ?_⟩
  · subst e
    rcases shut with e | ⟨⟨c, k⟩, -⟩
    · rw [e]
      rfl
    · cases k
  · subst e
    rcases shut with e | ⟨-, e⟩
    · rw [e]
      exact if_pos own
    · rw [e]
      rfl
  · rcases shut with e | ⟨⟨c, k⟩, -⟩
    · rw [e]
      rcases rest with k | k | k <;> rw [k] <;> rfl
    · subst k
      rcases rest with k | k | k <;> cases k

theorem State.stationShut_mailbox (wf : s.wellFormed) (holds : s.structured) (r : Fin 4) : ClearedMailbox s st r (s.stationShut st) := by
  obtain ⟨inv, -⟩ := State.closeSlots_all wf holds st
  have cleared := State.closeTouch_mailbox (st := st) inv.wf.memory r
  unfold ClearedMailbox State.mailbox at *
  rw [inv.mailboxes] at cleared
  exact cleared

theorem State.stationShut_mailbox_ne (wf : s.wellFormed) (holds : s.structured) {st' : Station} (ne : st' ≠ st) (r : Fin 4) :
    (s.stationShut st).mailbox st' r = s.mailbox st' r := by
  obtain ⟨inv, -⟩ := State.closeSlots_all wf holds st
  refine (State.closeTouch_mailbox_ne ne r).trans ?_
  unfold State.mailbox
  rw [inv.mailboxes]

theorem State.stationShut_records (wf : s.wellFormed) (holds : s.structured) :
    (s.stationShut st).notice = s.notice ∧ (s.stationShut st).spare = s.spare ∧ (s.stationShut st).stats = s.stats := by
  obtain ⟨inv, -⟩ := State.closeSlots_all wf holds st
  exact ⟨(State.closeTouch_same State.notice (fun _ _ _ => rfl) (fun _ _ _ => rfl) fun _ _ _ _ => rfl).trans inv.notice,
    (State.closeTouch_same State.spare (fun _ _ _ => rfl) (fun _ _ _ => rfl) fun _ _ _ _ => rfl).trans inv.spare,
    (State.closeTouch_same State.stats (fun _ _ _ => rfl) (fun _ _ _ => rfl) fun _ _ _ _ => rfl).trans inv.stats⟩

theorem mem_slotsOf {g : Slot} {st : Station} : g ∈ slotsOf st ↔ stationOf g = st := by
  have index := (filter_stationOf st).mem_iff (a := g)
  rw [List.mem_filter, decide_eq_true_iff] at index
  exact ⟨fun h => (index.mpr h).2, fun own => index.mp ⟨List.mem_finRange g, own⟩⟩

/-- A close of a station without queued and served jobs sets no notice. -/
theorem State.stationShut_quiet (idle : ∀ g, stationOf g = st → (s.slot g).state ≠ .queued ∧ (s.slot g).state ≠ .serving) :
    (s.stationShut st).stationNotice = s.stationNotice := by
  have still (g : Slot) (hg : g ∈ slotsOf st) : s.closeSlot g = s := by
    obtain ⟨queued, serving⟩ := idle g (mem_slotsOf.mp hg)
    have form := s.closeSlot_form g
    generalize s.closeSlot g = t at form
    cases form with
    | queued state => exact absurd state queued
    | latched print => exact absurd print.1 serving
    | ended p ends port => exact absurd ends.1 serving
    | stays queued print ends => rfl
  have fold (l : List Slot) (h : ∀ g ∈ l, s.closeSlot g = s) : l.foldl State.closeSlot s = s := by
    induction l with
    | nil => rfl
    | cons g rest ih =>
      rw [List.foldl_cons, h g List.mem_cons_self]
      exact ih fun k hk => h k (List.mem_cons_of_mem g hk)
  unfold State.stationShut
  rw [fold _ still]
  exact State.closeTouch_same State.stationNotice (fun _ _ _ => rfl) (fun _ _ _ => rfl) fun _ _ _ _ => rfl

end

end Sys2Proof.Machine
end

/-! The obligation about quiet visits, the close and the reopening of a station. -/
section
namespace Sys2Proof.Machine

section
variable {s t : State} {g : Slot} {st : Station}

/-! ### A quiet visit (R24, R26) -/

/-- A slot at which an examination finds nothing to do (R26). -/
structure State.quietSlot (s : State) (g : Slot) : Prop where
  owner : readOwner s.mem g = some (s.slot g).state
  posted : (s.slot g).state ≠ .posted
  cancel : (s.slot g).state = .queued ∨ (s.slot g).state = .serving → readCancel s.mem g = 0

theorem State.quietSlot.examine (quiet : s.quietSlot g) : s.examine g = s := by
  have owner := quiet.owner
  have cancel := quiet.cancel
  have posted := quiet.posted
  unfold State.examine
  cases state : (s.slot g).state with
  | posted => exact absurd state posted
  | empty =>
    rw [state] at owner
    rw [owner] <;> rfl
  | queued =>
    rw [state] at owner
    rw [owner]
    exact if_neg fun k => k (cancel (.inl state))
  | serving =>
    rw [state] at owner
    rw [owner]
    exact if_neg fun k => k (cancel (.inr state))
  | finished =>
    rw [state] at owner
    rw [owner] <;> rfl

theorem State.examine_quiet (l : List Slot) (quiet : ∀ g ∈ l, s.quietSlot g) : l.foldl State.examine s = s := by
  induction l with
  | nil => rfl
  | cons g rest ih =>
    rw [List.foldl_cons, (quiet g List.mem_cons_self).examine]
    exact ih fun h hh => quiet h (List.mem_cons_of_mem g hh)

/-- A visit that finds nothing to do replaces the sample alone. -/
theorem State.makeVisit_quiet
    (rests : (s.sample st).state = .closed ∨ (s.sample st).state = (readSample s.mem st).state ∨
      ((s.sample st).state = .opened ∧ (readSample s.mem st).state = .suspended))
    (quiet : ∀ i, s.quietSlot (slotOf st i)) : s.makeVisit st = s.setControl (beginVisit s.mem st) := by
  unfold State.makeVisit
  dsimp only
  rw [sample_beginVisit, State.changeStation_rests _ _ rests]
  refine State.examine_quiet _ fun g hg => ?_
  obtain ⟨i, -, rfl⟩ := List.mem_map.mp hg
  exact ⟨(quiet i).owner, (quiet i).posted, (quiet i).cancel⟩

/-! ### The slots by their number -/

theorem State.reopenStation_eq (s : State) (st : Station) : s.reopenStation st = allPools.foldl
    (fun u q => if ∃ g ∈ u.queue q, stationOf g = st then u.review q else u) s := by
  unfold State.reopenStation
  refine congrArg (fun f => allPools.foldl f s) (funext fun u => funext fun q => ?_)
  have iff : ((u.queue q).any fun g => stationOf g == st) = true ↔ ∃ g ∈ u.queue q, stationOf g = st := by
    rw [List.any_eq_true]
    exact ⟨fun ⟨g, hg, e⟩ => ⟨g, hg, beq_iff_eq.mp e⟩, fun ⟨g, hg, e⟩ => ⟨g, hg, beq_iff_eq.mpr e⟩⟩
  by_cases k : ∃ g ∈ u.queue q, stationOf g = st
  · rw [if_pos k, if_pos (iff.mpr k)]
  · rw [if_neg k, if_neg fun e => k (iff.mp e)]

end

/-- Settles O25: a quiet visit by its slots, a close by its slots and the touch router before the reviews, a reopening by its
definition. -/
theorem quietVisitTouchesNoSlot : Obligations.QuietVisitTouchesNoSlot := by
  unfold Obligations.QuietVisitTouchesNoSlot
  refine ⟨fun s st due rests slots => ?_, fun s st wf holds => ?_, State.reopenStation_eq⟩
  · have quiet := State.makeVisit_quiet rests fun i => ⟨(slots i).1, (slots i).2.1, (slots i).2.2⟩
    have run := exec_visit_due due
    rw [quiet, closeEvent_same s (s.setControl (beginVisit s.mem st)) rfl rfl rfl rfl] at run
    exact ⟨_, run, rfl, rfl, rfl, rfl, rfl⟩
  · refine ⟨s.stationShut st, ?_, fun g own => ?_, fun g out => ?_, State.stationShut_queue wf holds, State.stationShut_shown wf holds,
      fun ⟨g, own, queued⟩ => ?_, State.stationShut_deadlines wf holds, fun p i => (State.stationShut_contact wf holds p i).1,
      fun p i => (State.stationShut_contact wf holds p i).2.1, fun p i => (State.stationShut_contact wf holds p i).2.2,
      State.stationShut_mailbox wf holds, fun st' r ne => State.stationShut_mailbox_ne wf holds ne r, (s.stationShut_kept st).ctl,
      (State.stationShut_records wf holds).1, (State.stationShut_records wf holds).2.1, (State.stationShut_records wf holds).2.2,
      State.stationShut_quiet⟩
    · rw [State.closeStation_eq, show s.closedPort = _ from funext s.closedPort_eq]
      rfl
    · have done := State.stationShut_slot wf holds own
      refine ⟨fun queued => (done.queued queued).1, fun serving print => done.print ⟨serving, print⟩, fun p serving cls port => ?_, done.idle⟩
      obtain ⟨has, record, shown, chain⟩ := done.ended p ⟨serving, cls⟩ port
      exact ⟨has, record, shown, chain⟩
    · obtain ⟨inv, -⟩ := State.closeSlots_all wf holds st
      exact (State.closeTouch_slot g).trans (inv.others g out)
    · subst own
      have done := State.stationShut_slot wf holds (g := g) rfl
      exact (done.queued queued).2.2.2

end Sys2Proof.Machine
end

/-! SUPPORT. What the invariants of the records read of a state: the frames that the operations keep of it (R12, R52, R61, R74,
R142). -/
section
namespace Sys2Proof.Machine

/-! ### Records that agree in what the invariants read -/

/-- What the invariants of the records read of a job's record. -/
structure JobRecord.alike (j k : JobRecord) : Prop where
  cls : k.cls = j.cls
  pool : k.pool = j.pool
  firstGrant : k.firstGrant = j.firstGrant
  expiry : k.expiry = j.expiry
  acceptStamp : k.acceptStamp = j.acceptStamp
  port : k.port = j.port
  chain : k.chain = j.chain
  resultChain : k.resultChain = j.resultChain

theorem JobRecord.alike.refl (j : JobRecord) : j.alike j := ⟨rfl, rfl, rfl, rfl, rfl, rfl, rfl, rfl⟩

theorem JobRecord.alike.trans {j k l : JobRecord} (a : j.alike k) (b : k.alike l) : j.alike l where
  cls := b.cls.trans a.cls
  pool := b.pool.trans a.pool
  firstGrant := b.firstGrant.trans a.firstGrant
  expiry := b.expiry.trans a.expiry
  acceptStamp := b.acceptStamp.trans a.acceptStamp
  port := b.port.trans a.port
  chain := b.chain.trans a.chain
  resultChain := b.resultChain.trans a.resultChain

/-- Two shadows that agree in what the invariants read; one without records stays as it is. -/
structure SlotShadow.alike (x y : SlotShadow) : Prop where
  state : y.state = x.state
  job : x.job.alike y.job
  clear : x.state = .empty ∨ x.state = .posted → y.job = x.job

theorem SlotShadow.alike.refl (x : SlotShadow) : x.alike x := ⟨rfl, .refl _, fun _ => rfl⟩

theorem SlotShadow.alike.trans {x y z : SlotShadow} (a : x.alike y) (b : y.alike z) : x.alike z where
  state := b.state.trans a.state
  job := a.job.trans b.job
  clear k := (b.clear (by rw [a.state]; exact k)).trans (a.clear k)

/-- Two ports that serve alike. -/
structure PortRecord.alike (x y : PortRecord) : Prop where
  job : y.job = x.job
  serves : y.state = .serving ↔ x.state = .serving

theorem PortRecord.alike.refl (x : PortRecord) : x.alike x := ⟨rfl, Iff.rfl⟩

theorem PortRecord.alike.trans {x y z : PortRecord} (a : x.alike y) (b : y.alike z) : x.alike z :=
  ⟨b.job.trans a.job, b.serves.trans a.serves⟩

theorem PortRecord.alike.of_eq {x y : PortRecord} (job : y.job = x.job) (state : y.state = x.state) : x.alike y := ⟨job, by rw [state]⟩

/-- A change of some slots and ports alone, at a standing engine and clock. -/
structure Frame (s t : State) (gs : List Slot) (ps : List Port) : Prop where
  engine : t.ctl.engine = s.ctl.engine
  phase : t.ctl.startPhase = s.ctl.startPhase
  clock : t.ctl.clock = s.ctl.clock
  slots : ∀ g, g ∉ gs → (s.slot g).alike (t.slot g)
  ports : ∀ p, p ∉ ps → (s.port p).alike (t.port p)

/-- A change that the invariants of the records do not see. -/
structure Quiet (s t : State) : Prop extends Frame s t [] [] where
  queues : t.queues = s.queues
  deadlines : t.deadlines = s.deadlines
  spare : t.spare = s.spare
  marks : t.marks = s.marks

section
variable {s t u : State} {gs hs : List Slot} {ps rs : List Port} {g h : Slot} {p r : Port}

theorem Frame.refl (s : State) (gs : List Slot) (ps : List Port) : Frame s s gs ps := ⟨rfl, rfl, rfl, fun _ _ => .refl _, fun _ _ => .refl _⟩

theorem Frame.trans (a : Frame s t gs ps) (b : Frame t u gs ps) : Frame s u gs ps where
  engine := b.engine.trans a.engine
  phase := b.phase.trans a.phase
  clock := b.clock.trans a.clock
  slots g k := (a.slots g k).trans (b.slots g k)
  ports p k := (a.ports p k).trans (b.ports p k)

theorem Frame.mono (a : Frame s t gs ps) (slots : gs ⊆ hs) (ports : ps ⊆ rs) : Frame s t hs rs :=
  { a with slots := fun g k => a.slots g fun m => k (slots m), ports := fun p k => a.ports p fun m => k (ports m) }

theorem Quiet.refl (s : State) : Quiet s s := ⟨.refl s [] [], rfl, rfl, rfl, rfl⟩

theorem Quiet.trans (a : Quiet s t) (b : Quiet t u) : Quiet s u :=
  ⟨a.toFrame.trans b.toFrame, b.queues.trans a.queues, b.deadlines.trans a.deadlines, b.spare.trans a.spare, b.marks.trans a.marks⟩

theorem Quiet.foldl {α : Type} {f : State → α → State} (h : ∀ s a, Quiet s (f s a)) (l : List α) : ∀ s, Quiet s (l.foldl f s) := by
  induction l with
  | nil => exact fun s => .refl s
  | cons a rest ih => exact fun s => (h s a).trans (ih _)

theorem Quiet.ite {c : Prop} [Decidable c] {a b : State} (h : Quiet s a) (k : Quiet s b) : Quiet s (if c then a else b) := by
  split
  · exact h
  · exact k

theorem Frame.slot (a : Frame s t gs ps) (k : g ∉ gs) : (s.slot g).alike (t.slot g) := a.slots g k

theorem Frame.job (a : Frame s t gs ps) (k : g ∉ gs) : (s.job g).alike (t.job g) := (a.slots g k).job

/-- A state that differs in none of the records that the invariants read. -/
theorem Quiet.of_eq (ctl : t.ctl = s.ctl) (slots : t.slots = s.slots) (ports : t.ports = s.ports) (queues : t.queues = s.queues)
    (deadlines : t.deadlines = s.deadlines) (spare : t.spare = s.spare) (marks : t.marks = s.marks) : Quiet s t where
  engine := by rw [ctl]
  phase := by rw [ctl]
  clock := by rw [ctl]
  slots g _ := by
    unfold State.slot
    rw [slots]
    exact .refl _
  ports p _ := by
    unfold State.port
    rw [ports]
    exact .refl _
  queues := queues
  deadlines := deadlines
  spare := spare
  marks := marks

/-- A change of a port's record that keeps what it serves. -/
theorem State.setPort_quiet {x : PortRecord} (h : (s.port p).alike x) : Quiet s (s.setPort p x) where
  engine := rfl
  phase := rfl
  clock := rfl
  slots _ _ := .refl _
  ports r _ := by
    by_cases e : r = p
    · subst e
      rw [State.port_setPort]
      exact h
    · rw [State.port_setPort_ne _ e]
      exact .refl _
  queues := rfl
  deadlines := rfl
  spare := rfl
  marks := rfl

theorem State.modifyPort_quiet {f : PortRecord → PortRecord} (h : (s.port p).alike (f (s.port p))) : Quiet s (s.modifyPort p f) :=
  State.setPort_quiet h

/-- A change of a job's record that keeps what the invariants read of it. -/
theorem State.setSlot_quiet {x : SlotShadow} (h : (s.slot g).alike x) : Quiet s (s.setSlot g x) where
  engine := rfl
  phase := rfl
  clock := rfl
  slots k _ := by
    by_cases e : k = g
    · subst e
      rw [State.slot_setSlot]
      exact h
    · rw [State.slot_setSlot_ne _ e]
      exact .refl _
  ports _ _ := .refl _
  queues := rfl
  deadlines := rfl
  spare := rfl
  marks := rfl

/-- A slot in work. -/
theorem State.updateJob_quiet {f : JobRecord → JobRecord} (h : (s.job g).alike (f (s.job g)))
    (work : (s.slot g).state ≠ .empty ∧ (s.slot g).state ≠ .posted) : Quiet s (s.updateJob g f) :=
  State.setSlot_quiet ⟨rfl, h, fun k => k.elim (fun e => absurd e work.1) fun e => absurd e work.2⟩

theorem State.setControl_quiet {f : Control → Control} (engine : (f s.ctl).engine = s.ctl.engine)
    (phase : (f s.ctl).startPhase = s.ctl.startPhase) (clock : (f s.ctl).clock = s.ctl.clock) : Quiet s (s.setControl f) where
  engine := engine
  phase := phase
  clock := clock
  slots _ _ := .refl _
  ports _ _ := .refl _
  queues := rfl
  deadlines := rfl
  spare := rfl
  marks := rfl

end

/-! ### What the invariants need of a change of one slot and some ports -/

section
variable {s t : State} {g : Slot} {p : Port} {ps : List Port}

/-- The queues after a change of one slot. -/
theorem Frame.queuesHold (a : Frame s t [g] ps) (holds : s.queuesHold) (nodup : ∀ q, (t.queue q).Nodup)
    (others : ∀ q h, h ≠ g → (h ∈ t.queue q ↔ h ∈ s.queue q))
    (own : ∀ q, g ∈ t.queue q ↔ (t.slot g).state = .queued ∧ (t.job g).pool = q) : t.queuesHold := by
  refine fun q => ⟨nodup q, fun h => ?_⟩
  by_cases e : h = g
  · subst e
    exact own q
  · have same := a.slots h fun k => e (List.mem_singleton.mp k)
    rw [others q h e, (holds q).2 h]
    unfold State.job
    rw [same.state, same.job.pool]

/-- The deadline list after a change of one slot. -/
theorem Frame.deadlinesHold (a : Frame s t [g] ps) (holds : s.deadlinesHold) (nodup : t.deadlines.Nodup)
    (others : ∀ h, h ≠ g → (h ∈ t.deadlines ↔ h ∈ s.deadlines))
    (own : g ∈ t.deadlines ↔ (t.slot g).state = .queued ∧ (t.job g).firstGrant = none ∧ (t.job g).expiry ≠ none) : t.deadlinesHold := by
  refine ⟨nodup, fun h => ?_⟩
  by_cases e : h = g
  · subst e
    exact own
  · have same := a.slots h fun k => e (List.mem_singleton.mp k)
    rw [others h e, holds.2 h]
    unfold State.job
    rw [same.state, same.job.firstGrant, same.job.expiry]

/-- The pairing after a change of a slot that is served neither before nor after it. -/
theorem Frame.pair_unserved (a : Frame s t [g] []) (holds : s.servicesPair) (before : (s.slot g).state ≠ .serving)
    (after : (t.slot g).state ≠ .serving) : t.servicesPair := by
  have port (r : Port) := a.ports r List.not_mem_nil
  have other (r : Port) (h : Slot) (job : (s.port r).job = some h) : h ≠ g := by
    rintro rfl
    exact before (holds.2.1 r h job).1
  refine ⟨fun r => ?_, fun r h job => ?_, fun h state => ?_⟩
  · rw [(port r).serves, (port r).job]
    exact holds.1 r
  · rw [(port r).job] at job
    have same := a.slots h fun k => other r h job (List.mem_singleton.mp k)
    obtain ⟨state, at_r, granted⟩ := holds.2.1 r h job
    unfold State.job at *
    rw [same.state, same.job.port, same.job.firstGrant]
    exact ⟨state, at_r, granted⟩
  · have ne : h ≠ g := by
      rintro rfl
      exact after state
    have same := a.slots h fun k => ne (List.mem_singleton.mp k)
    obtain ⟨r, job⟩ := holds.2.2 h (same.state ▸ state)
    exact ⟨r, (port r).job.trans job⟩

/-- The pairing after a port has given up its job. -/
theorem Frame.pair_released (a : Frame s t [g] [p]) (holds : s.servicesPair) (job : (s.port p).job = some g)
    (after : (t.slot g).state ≠ .serving) (free : (t.port p).job = none) (rests : (t.port p).state ≠ .serving) : t.servicesPair := by
  have port (r : Port) (ne : r ≠ p) := a.ports r fun k => ne (List.mem_singleton.mp k)
  have slot (h : Slot) (ne : h ≠ g) := a.slots h fun k => ne (List.mem_singleton.mp k)
  refine ⟨fun r => ?_, fun r h at_r => ?_, fun h state => ?_⟩
  · by_cases e : r = p
    · subst e
      exact ⟨fun k => absurd k rests, fun k => absurd free k⟩
    · rw [(port r e).serves, (port r e).job]
      exact holds.1 r
  · have apart : r ≠ p := by
      rintro rfl
      cases free.symm.trans at_r
    rw [(port r apart).job] at at_r
    obtain ⟨state, mine, granted⟩ := holds.2.1 r h at_r
    have ne : h ≠ g := by
      rintro rfl
      exact apart (Option.some.inj (mine.symm.trans (holds.2.1 p h job).2.1))
    unfold State.job at *
    rw [(slot h ne).state, (slot h ne).job.port, (slot h ne).job.firstGrant]
    exact ⟨state, mine, granted⟩
  · have ne : h ≠ g := by
      rintro rfl
      exact after state
    obtain ⟨r, at_r⟩ := holds.2.2 h ((slot h ne).state ▸ state)
    have apart : r ≠ p := by
      rintro rfl
      exact ne (Option.some.inj (at_r.symm.trans job))
    exact ⟨r, (port r apart).job.trans at_r⟩

/-- The pairing after a port has taken a job. -/
theorem Frame.pair_granted (a : Frame s t [g] [p]) (holds : s.servicesPair) (idle : (s.port p).job = none)
    (before : (s.slot g).state ≠ .serving) (after : (t.slot g).state = .serving) (job : (t.port p).job = some g)
    (serves : (t.port p).state = .serving) (mine : (t.job g).port = some p) (granted : (t.job g).firstGrant ≠ none) : t.servicesPair := by
  have port (r : Port) (ne : r ≠ p) := a.ports r fun k => ne (List.mem_singleton.mp k)
  have slot (h : Slot) (ne : h ≠ g) := a.slots h fun k => ne (List.mem_singleton.mp k)
  refine ⟨fun r => ?_, fun r h at_r => ?_, fun h state => ?_⟩
  · by_cases e : r = p
    · subst e
      exact ⟨fun _ k => Option.some_ne_none g (job.symm.trans k), fun _ => serves⟩
    · rw [(port r e).serves, (port r e).job]
      exact holds.1 r
  · by_cases e : r = p
    · subst e
      obtain rfl : g = h := Option.some.inj (job.symm.trans at_r)
      exact ⟨after, mine, granted⟩
    · rw [(port r e).job] at at_r
      obtain ⟨state, its, has⟩ := holds.2.1 r h at_r
      have ne : h ≠ g := by
        rintro rfl
        exact before state
      unfold State.job at *
      rw [(slot h ne).state, (slot h ne).job.port, (slot h ne).job.firstGrant]
      exact ⟨state, its, has⟩
  · by_cases e : h = g
    · subst e
      exact ⟨p, job⟩
    · obtain ⟨r, at_r⟩ := holds.2.2 h ((slot h e).state ▸ state)
      have apart : r ≠ p := by
        rintro rfl
        cases idle.symm.trans at_r
      exact ⟨r, (port r apart).job.trans at_r⟩

end

end Sys2Proof.Machine
end

/-! SUPPORT. What a sound change keeps: the records' agreement, the loans, the order of the lists (R12, R52, R61, R62, R141). -/
section
namespace Sys2Proof.Machine

/-- Every job in work has waited less than the clock can show at the next tick (R62). -/
def State.waitsShort (s : State) : Prop := ∀ g, s.inWork g → s.waits g + 1 < 2 ^ 32

/-- No expiry stamp of the deadline list is reached. -/
def State.expiriesAhead (s : State) : Prop := ∀ g ∈ s.deadlines, 1 ≤ s.expiresIn g

/-- A change that keeps the invariants of the records, of a part whose records agree. -/
structure Sound (s t : State) : Prop where
  clock : t.ctl.clock = s.ctl.clock
  structured : s.structured → t.structured
  loans : s.structured → s.loansHold → t.loansHold
  ordered : s.structured → s.ordered → t.ordered
  waits : s.structured → s.waitsShort → t.waitsShort
  ahead : s.structured → s.expiriesAhead → t.expiriesAhead

section
variable {s t u : State} {g h : Slot} {p : Port} {ps : List Port} {gs : List Slot}

theorem Sound.refl (s : State) : Sound s s := ⟨rfl, id, fun _ => id, fun _ => id, fun _ => id, fun _ => id⟩

theorem Sound.trans (a : Sound s t) (b : Sound t u) : Sound s u where
  clock := b.clock.trans a.clock
  structured k := b.structured (a.structured k)
  loans k l := b.loans (a.structured k) (a.loans k l)
  ordered k l := b.ordered (a.structured k) (a.ordered k l)
  waits k l := b.waits (a.structured k) (a.waits k l)
  ahead k l := b.ahead (a.structured k) (a.ahead k l)

/-- A change whose parts are sound where the records agree. -/
theorem Sound.of_structured (clock : t.ctl.clock = s.ctl.clock) (h : s.structured → Sound s t) : Sound s t where
  clock := clock
  structured k := (h k).structured k
  loans k := (h k).loans k
  ordered k := (h k).ordered k
  waits k := (h k).waits k
  ahead k := (h k).ahead k

theorem Sound.ite {c : Prop} [Decidable c] {a b : State} (h : c → Sound s a) (k : ¬ c → Sound s b) : Sound s (if c then a else b) := by
  split
  · next hc => exact h hc
  · next hc => exact k hc

theorem Sound.foldl {α : Type} {f : State → α → State} (h : ∀ s a, Sound s (f s a)) (l : List α) : ∀ s, Sound s (l.foldl f s) := by
  induction l with
  | nil => exact fun s => .refl s
  | cons a rest ih => exact fun s => (h s a).trans (ih _)

/-! ### The law of the engine states and the cleared records (R12, R22) -/

theorem State.lawHolds.of_running (running : t.ctl.engine = .running) : t.lawHolds :=
  ⟨fun k => by rw [running] at k; exact absurd k (by decide), fun k => by rw [running] at k; exact absurd k (by decide)⟩

/-- The law where nothing more waits and nothing more is served. -/
theorem State.lawHolds.fewer (law : s.lawHolds) (engine : t.ctl.engine = s.ctl.engine) (queues : ∀ q, (t.queue q).Sublist (s.queue q))
    (deadlines : t.deadlines.Sublist s.deadlines) (queued : ∀ g, (t.slot g).state = .queued → (s.slot g).state = .queued)
    (serving : sweeping s.ctl.engine = false → ∀ g, (t.slot g).state = .serving → (s.slot g).state = .serving) : t.lawHolds := by
  have empty (list : ∀ q, s.queue q = []) (q : Pool) : t.queue q = [] := List.sublist_nil.mp (list q ▸ queues q)
  have none (list : s.deadlines = []) : t.deadlines = [] := List.sublist_nil.mp (list ▸ deadlines)
  refine ⟨fun k => ?_, fun k => ?_⟩
  · rw [engine] at k
    obtain ⟨list, dead, states⟩ := law.1 k
    exact ⟨empty list, none dead, fun g => ⟨fun e => (states g).1 (queued g e), fun e => (states g).2 (serving k g e)⟩⟩
  · rw [engine] at k
    obtain ⟨list, dead, states⟩ := law.2 k
    exact ⟨empty list, none dead, fun g e => states g (queued g e)⟩

/-- A slot in work is one of a part that sweeps (R12). -/
theorem State.structured.sweeps (holds : s.structured) (work : s.inWork g) : sweeping s.ctl.engine = true := by
  obtain ⟨-, -, -, -, law, -⟩ := holds
  by_contra no
  obtain ⟨queued, serving⟩ := (law.1 (Bool.eq_false_iff.mpr no)).2.2 g
  exact work.elim queued serving

theorem sweeping_not_starting {e : Engine} (h : sweeping e = true) : e ≠ .starting := by
  rintro rfl
  cases h

theorem Frame.recordsClear (a : Frame s t [g] ps) (holds : s.recordsClear) (engine : s.ctl.engine ≠ .starting)
    (own : (t.slot g).state = .empty ∨ (t.slot g).state = .posted → t.job g = {}) : t.recordsClear := by
  refine ⟨fun h k => ?_, fun _ _ e => absurd (a.engine.symm.trans e) engine⟩
  by_cases e : h = g
  · subst e
    exact own k
  · have same := a.slots h fun m => e (List.mem_singleton.mp m)
    rw [same.state] at k
    exact (same.clear k).trans (holds.1 h k)

/-! ### Blocks (R139, R142) -/

/-- Marks that differ in loans alone. -/
def loansOnly (s t : State) : Prop :=
  ∀ b, (t.mark b = .spare ↔ s.mark b = .spare) ∧ (t.mark b = .result ↔ s.mark b = .result)

theorem loansOnly.of_eq (marks : t.marks = s.marks) : loansOnly s t := fun b => by
  rw [State.mark_congr marks b]
  exact ⟨Iff.rfl, Iff.rfl⟩

theorem State.blocksHold.kept (holds : s.blocksHold) (spare : t.spare = s.spare) (marks : loansOnly s t)
    (chains : ∀ g, (t.job g).resultChain = (s.job g).resultChain) : t.blocksHold := by
  obtain ⟨nodup, spares, each, apart, results⟩ := holds
  refine ⟨spare ▸ nodup, fun b => ?_, fun g => ?_, fun g h b => ?_, fun b => ?_⟩
  · rw [spare, (marks b).1]
    exact spares b
  · rw [chains]
    exact each g
  · rw [chains, chains]
    exact apart g h b
  · rw [(marks b).2, results b]
    exact exists_congr fun g => by rw [chains]

/-! ### The order where nothing joins (R52, R62) -/

/-- A change in which no list grows, no job comes into work, and no stamp changes. -/
structure Fewer (s t : State) : Prop where
  clock : t.ctl.clock = s.ctl.clock
  queues : ∀ q, (t.queue q).Sublist (s.queue q)
  deadlines : t.deadlines.Sublist s.deadlines
  stamps : ∀ g, t.inWork g → s.inWork g ∧ (t.job g).acceptStamp = (s.job g).acceptStamp
  queueStamps : ∀ q, ∀ g ∈ t.queue q, (t.job g).acceptStamp = (s.job g).acceptStamp
  expiries : ∀ g ∈ t.deadlines, (t.job g).expiry = (s.job g).expiry

theorem State.waits_eq (clock : t.ctl.clock = s.ctl.clock) (stamp : (t.job g).acceptStamp = (s.job g).acceptStamp) :
    t.waits g = s.waits g := by
  unfold State.waits
  rw [clock, stamp]

theorem State.expiresIn_eq (clock : t.ctl.clock = s.ctl.clock) (expiry : (t.job g).expiry = (s.job g).expiry) :
    t.expiresIn g = s.expiresIn g := by
  unfold State.expiresIn
  rw [clock, expiry]

theorem State.stands_eq (a : t.waits g = s.waits g) (b : t.waits h = s.waits h) : t.stands g h ↔ s.stands g h := by
  unfold State.stands
  rw [a, b]

theorem State.expiresFirst_eq (a : t.expiresIn g = s.expiresIn g) (b : t.expiresIn h = s.expiresIn h) :
    t.expiresFirst g h ↔ s.expiresFirst g h := by
  unfold State.expiresFirst
  rw [a, b]

theorem Fewer.ordered (f : Fewer s t) (o : s.ordered) : t.ordered where
  queues q := by
    refine ((o.queues q).sublist (f.queues q)).imp_of_mem fun ha hb k => ?_
    exact (State.stands_eq (State.waits_eq f.clock (f.queueStamps q _ ha)) (State.waits_eq f.clock (f.queueStamps q _ hb))).mpr k
  deadlines := by
    refine (o.deadlines.sublist f.deadlines).imp_of_mem fun ha hb k => ?_
    exact (State.expiresFirst_eq (State.expiresIn_eq f.clock (f.expiries _ ha)) (State.expiresIn_eq f.clock (f.expiries _ hb))).mpr k
  ahead g hg := by
    rw [State.expiresIn_eq f.clock (f.expiries g hg)]
    exact o.ahead g (f.deadlines.subset hg)

theorem Fewer.waits (f : Fewer s t) (o : s.waitsShort) : t.waitsShort := fun g work => by
  obtain ⟨before, stamp⟩ := f.stamps g work
  rw [State.waits_eq f.clock stamp]
  exact o g before

theorem Fewer.ahead (f : Fewer s t) (o : s.expiriesAhead) : t.expiriesAhead := fun g hg => by
  rw [State.expiresIn_eq f.clock (f.expiries g hg)]
  exact o g (f.deadlines.subset hg)

/-- A change in which nothing joins is sound if it keeps the agreement and the loans. -/
theorem Fewer.sound (f : Fewer s t) (structured : s.structured → t.structured) (loans : s.structured → s.loansHold → t.loansHold) :
    Sound s t := ⟨f.clock, structured, loans, fun _ => f.ordered, fun _ => f.waits, fun _ => f.ahead⟩

/-! ### The loans of a slot (R141) -/

/-- The loans of all slots of a block. -/
def State.loansOf (s : State) (b : Nat) : Nat := (allSlots.map fun g => (s.slot g).loans b).sum

theorem State.loansHold_iff : s.loansHold ↔ ∀ b, (∀ n, s.mark b = .loaned n → n = s.loansOf b ∧ 1 ≤ n) ∧
    ((∀ n, s.mark b ≠ .loaned n) → s.loansOf b = 0) := Iff.rfl

theorem SlotShadow.alike.loans {x y : SlotShadow} (a : x.alike y) (b : Nat) : y.loans b = x.loans b := by
  unfold SlotShadow.loans
  rw [a.state, a.job.cls, a.job.chain]

theorem sum_map_of_ne {f k : Slot → Nat} {g : Slot} {l : List Slot} (out : g ∉ l) (same : ∀ h, h ≠ g → k h = f h) :
    (l.map k).sum = (l.map f).sum := by
  rw [List.map_congr_left fun h hh => same h fun e => out (e ▸ hh)]

/-- A sum over the slots of which one changes. -/
theorem sum_map_slot {f k : Slot → Nat} {g : Slot} (same : ∀ h, h ≠ g → k h = f h) :
    (allSlots.map k).sum + f g = (allSlots.map f).sum + k g := by
  obtain ⟨front, back, split⟩ := List.append_of_mem (List.mem_finRange g)
  have nodup : (front ++ g :: back).Nodup := split ▸ List.nodup_finRange 128
  have out : g ∉ front ∧ g ∉ back := by
    rw [List.nodup_append] at nodup
    exact ⟨fun k => nodup.2.2 g k g List.mem_cons_self rfl, (List.nodup_cons.mp nodup.2.1).1⟩
  unfold allSlots
  rw [split, List.map_append, List.map_append, List.map_cons, List.map_cons, List.sum_append, List.sum_append, List.sum_cons, List.sum_cons,
    sum_map_of_ne out.1 same, sum_map_of_ne out.2 same]
  omega

/-- The loans of all slots after a change of one. -/
theorem Frame.loansOf (a : Frame s t [g] ps) (b : Nat) : t.loansOf b + (s.slot g).loans b = s.loansOf b + (t.slot g).loans b :=
  sum_map_slot fun h ne => (a.slots h fun k => ne (List.mem_singleton.mp k)).loans b

/-- The loans where the marks and the slot's loans stay. -/
theorem Frame.loansHold_kept (a : Frame s t [g] ps) (holds : s.loansHold) (marks : ∀ b n, t.mark b = .loaned n ↔ s.mark b = .loaned n)
    (own : ∀ b, (t.slot g).loans b = (s.slot g).loans b) : t.loansHold := fun b => by
  have sum : t.loansOf b = s.loansOf b := by
    have k := a.loansOf b
    rw [own] at k
    omega
  refine ⟨fun n e => ?_, fun none => ?_⟩
  · show n = t.loansOf b ∧ 1 ≤ n
    rw [sum]
    exact (holds b).1 n ((marks b n).mp e)
  · show t.loansOf b = 0
    rw [sum]
    exact (holds b).2 fun n e => none n ((marks b n).mpr e)

/-! ### A quiet change is sound -/

theorem Quiet.slot (a : Quiet s t) (g : Slot) : (s.slot g).alike (t.slot g) := a.slots g List.not_mem_nil

theorem Quiet.job (a : Quiet s t) (g : Slot) : (s.job g).alike (t.job g) := (a.slot g).job

theorem Quiet.port (a : Quiet s t) (p : Port) : (s.port p).alike (t.port p) := a.ports p List.not_mem_nil

theorem Quiet.queue (a : Quiet s t) (q : Pool) : t.queue q = s.queue q := by
  unfold State.queue
  rw [a.queues]

theorem Quiet.mark (a : Quiet s t) (b : Nat) : t.mark b = s.mark b := State.mark_congr a.marks b

theorem Quiet.structured (a : Quiet s t) (holds : s.structured) : t.structured := by
  obtain ⟨queues, list, pair, blocks, law, clear⟩ := holds
  have frame : Frame s t [0] [] := a.toFrame.mono (List.nil_subset _) (List.nil_subset _)
  have state (g : Slot) := (a.slot g).state
  refine ⟨fun q => ?_, ?_, ?_, blocks.kept a.spare (.of_eq a.marks) fun g => (a.job g).resultChain, ?_, ?_⟩
  · rw [a.queue]
    refine ⟨(queues q).1, fun g => ?_⟩
    rw [state, (a.job g).pool]
    exact (queues q).2 g
  · refine ⟨a.deadlines ▸ list.1, fun g => ?_⟩
    rw [a.deadlines, state, (a.job g).firstGrant, (a.job g).expiry]
    exact list.2 g
  · refine ⟨fun p => ?_, fun p g job => ?_, fun g serves => ?_⟩
    · rw [(a.port p).serves, (a.port p).job]
      exact pair.1 p
    · rw [(a.port p).job] at job
      rw [state, (a.job g).port, (a.job g).firstGrant]
      exact pair.2.1 p g job
    · rw [state] at serves
      obtain ⟨p, job⟩ := pair.2.2 g serves
      exact ⟨p, (a.port p).job.trans job⟩
  · refine law.fewer a.engine (fun q => ?_) (a.deadlines ▸ .refl _) (fun g k => (state g).symm.trans k) fun _ g k => (state g).symm.trans k
    rw [a.queue]
  · refine ⟨fun g k => ?_, fun next g engine phase le => ?_⟩
    · rw [state] at k
      exact ((a.slot g).clear k).trans (clear.1 g k)
    · rw [a.engine] at engine
      rw [a.phase] at phase
      obtain ⟨empty, job⟩ := clear.2 next g engine phase le
      exact ⟨(state g).trans empty, ((a.slot g).clear (.inl empty)).trans job⟩

theorem Quiet.sound (a : Quiet s t) : Sound s t := by
  have frame : Frame s t [0] [] := a.toFrame.mono (List.nil_subset _) (List.nil_subset _)
  refine Fewer.sound ⟨a.clock, fun q => by rw [a.queue], a.deadlines ▸ .refl _, fun g work => ⟨?_, (a.job g).acceptStamp⟩,
    fun _ g _ => (a.job g).acceptStamp, fun g _ => (a.job g).expiry⟩ a.structured fun _ holds => ?_
  · unfold State.inWork at *
    rw [(a.slot g).state] at work
    exact work
  · exact frame.loansHold_kept holds (fun b n => by rw [a.mark]) fun b => (a.slot 0).loans b

end

end Sys2Proof.Machine
end

/-! SUPPORT. The sound changes of one slot in work: a job that is finished, granted or re-queued (R61, R74, R90, R91, R182). -/
section
namespace Sys2Proof.Machine

/-- The marks after the loans of a slot's print have been given back (R141). -/
def State.unlent (s t : State) (g : Slot) : Prop :=
  ∀ b, t.mark b = if (s.job g).cls = some .print then (s.unlendAll (s.job g).chain).mark b else s.mark b

section
variable {s t u : State} {g h : Slot} {p : Port} {ps : List Port}

theorem mark_not_loaned {m : BlockMark} (h : ∀ n, m ≠ .loaned n) : m = .outside ∨ m = .spare ∨ m = .result := by
  cases m with
  | outside => exact .inl rfl
  | loaned n => exact absurd rfl (h n)
  | spare => exact .inr (.inl rfl)
  | result => exact .inr (.inr rfl)

/-- Giving a loan back changes no SPARE and no RESULT mark. -/
theorem State.unlend_only (s : State) (c b : Nat) : ((s.unlend c).mark b = .spare ↔ s.mark b = .spare) ∧
    ((s.unlend c).mark b = .result ↔ s.mark b = .result) := by
  unfold State.unlend
  split
  · next n old =>
    have range := State.mark_range (s := s) (b := c) (by rw [old]; exact BlockMark.noConfusion)
    by_cases e : b = c
    · subst e
      rw [s.mark_setMark range, old]
      split <;> exact ⟨⟨fun k => (by cases k), fun k => (by cases k)⟩, ⟨fun k => (by cases k), fun k => (by cases k)⟩⟩
    · rw [s.mark_setMark_ne e]
      exact ⟨Iff.rfl, Iff.rfl⟩
  all_goals exact ⟨Iff.rfl, Iff.rfl⟩

theorem State.unlendAll_only (chain : List ChainEntry) : ∀ (s : State) (b : Nat), ((s.unlendAll chain).mark b = .spare ↔ s.mark b = .spare) ∧
    ((s.unlendAll chain).mark b = .result ↔ s.mark b = .result) := by
  induction chain with
  | nil => exact fun s b => ⟨Iff.rfl, Iff.rfl⟩
  | cons e rest ih =>
    intro s b
    obtain ⟨spare, result⟩ := ih (s.unlend e.block) b
    obtain ⟨spare', result'⟩ := s.unlend_only e.block b
    exact ⟨spare.trans spare', result.trans result'⟩

theorem State.unlent.only (h : s.unlent t g) : loansOnly s t := fun b => by
  rw [h b]
  split
  · exact State.unlendAll_only _ s b
  · exact ⟨Iff.rfl, Iff.rfl⟩

/-- The loans of one slot are among those of all. -/
theorem State.loans_le (s : State) (g : Slot) (b : Nat) : (s.slot g).loans b ≤ s.loansOf b :=
  List.le_sum_of_mem (List.mem_map.mpr ⟨g, List.mem_finRange g, rfl⟩)

theorem SlotShadow.loans_print {x : SlotShadow} (work : x.state = .queued ∨ x.state = .serving) (cls : x.job.cls = some .print) (b : Nat) :
    x.loans b = (x.job.chain.map ChainEntry.block).count b := if_pos ⟨work, cls⟩

theorem SlotShadow.loans_idle {x : SlotShadow} (queued : x.state ≠ .queued) (serving : x.state ≠ .serving) (b : Nat) : x.loans b = 0 :=
  if_neg fun k => k.1.elim queued serving

theorem SlotShadow.loans_other {x : SlotShadow} (cls : x.job.cls ≠ some .print) (b : Nat) : x.loans b = 0 := if_neg fun k => cls k.2

/-- The loans after a job in work has given its own back. -/
theorem Frame.loansHold_unlent (a : Frame s t [g] ps) (work : s.inWork g) (marks : s.unlent t g) (gone : ∀ b, (t.slot g).loans b = 0)
    (holds : s.loansHold) : t.loansHold := by
  by_cases print : (s.job g).cls = some .print
  · intro b
    have own := SlotShadow.loans_print (x := s.slot g) work print b
    have sum := a.loansOf b
    have le := s.loans_le g b
    have mark := marks b
    rw [if_pos print] at mark
    rw [gone b] at sum
    obtain ⟨loaned, free⟩ := holds b
    show (∀ n, t.mark b = .loaned n → n = t.loansOf b ∧ 1 ≤ n) ∧ ((∀ n, t.mark b ≠ .loaned n) → t.loansOf b = 0)
    by_cases any : ∃ n, s.mark b = .loaned n
    · obtain ⟨n, old⟩ := any
      obtain ⟨count, one⟩ := loaned n old
      have total : n = s.loansOf b := count
      rw [State.unlendAll_mark_loaned _ old one (by unfold State.job; omega)] at mark
      rw [mark]
      unfold State.job at *
      split
      · exact ⟨fun m e => (by cases e), fun _ => by omega⟩
      · refine ⟨fun m e => ?_, fun k => absurd rfl (k _)⟩
        have same := BlockMark.loaned.inj e
        omega
    · have none (n : Nat) : s.mark b ≠ .loaned n := fun e => any ⟨n, e⟩
      have zero : s.loansOf b = 0 := free none
      rw [State.unlendAll_mark_other _ none] at mark
      rw [mark]
      exact ⟨fun n e => absurd e (none n), fun _ => by omega⟩
  · refine a.loansHold_kept holds (fun b n => ?_) fun b => ?_
    · rw [marks b, if_neg print]
    · rw [gone b, SlotShadow.loans_other (x := s.slot g) print]

/-! ### A queued job leaves its lists and is finished (R19, R36, R45, R56) -/

/-- A slot whose job is FINISHED in its place, with its loans given back. -/
structure Finishes (s t : State) (g : Slot) (ps : List Port) : Prop extends Frame s t [g] ps where
  finished : (t.slot g).state = .finished
  own : (s.job g).alike (t.job g)
  spare : t.spare = s.spare
  marks : s.unlent t g

theorem Finishes.job (f : Finishes s t g ps) (h : Slot) : (s.job h).alike (t.job h) := by
  by_cases e : h = g
  · subst e
    exact f.own
  · exact f.toFrame.job fun k => e (List.mem_singleton.mp k)

theorem Finishes.state (f : Finishes s t g ps) (h : Slot) : (t.slot h).state = .finished ∨ (t.slot h).state = (s.slot h).state := by
  by_cases e : h = g
  · subst e
    exact .inl f.finished
  · exact .inr (f.slots h fun k => e (List.mem_singleton.mp k)).state

theorem Finishes.kept (f : Finishes s t g ps) (h : Slot) {x : SlotState} (ne : x ≠ .finished) (e : (t.slot h).state = x) : (s.slot h).state = x := by
  rcases f.state h with k | k
  · exact absurd (e.symm.trans k) ne
  · exact k.symm.trans e

theorem Finishes.work (f : Finishes s t g ps) (h : Slot) (work : t.inWork h) : s.inWork h :=
  work.imp (f.kept h (by decide)) (f.kept h (by decide))

theorem Finishes.blocks (f : Finishes s t g ps) (holds : s.blocksHold) : t.blocksHold :=
  holds.kept f.spare f.marks.only fun h => (f.job h).resultChain

theorem Finishes.loans (f : Finishes s t g ps) (work : s.inWork g) (holds : s.loansHold) : t.loansHold :=
  f.toFrame.loansHold_unlent work f.marks (SlotShadow.loans_idle (by rw [f.finished]; decide) (by rw [f.finished]; decide)) holds

theorem Finishes.clear (f : Finishes s t g ps) (engine : s.ctl.engine ≠ .starting) (holds : s.recordsClear) : t.recordsClear :=
  f.toFrame.recordsClear holds engine fun k => by
    rw [f.finished] at k
    rcases k with k | k <;> cases k

theorem erase_sublist_if {q r : Pool} {l : List Slot} : (if q = r then l.erase g else l).Sublist l := by
  split
  · exact List.erase_sublist
  · exact .refl _

/-- A queued job that leaves its lists and is finished. -/
theorem Finishes.dequeued (f : Finishes s t g []) (queued : (s.slot g).state = .queued)
    (queues : ∀ q, t.queue q = if q = (s.job g).pool then (s.queue q).erase g else s.queue q)
    (deadlines : t.deadlines = s.deadlines.erase g) : Sound s t := by
  have sub (q : Pool) : (t.queue q).Sublist (s.queue q) := queues q ▸ erase_sublist_if
  have less : t.deadlines.Sublist s.deadlines := deadlines ▸ List.erase_sublist
  refine Fewer.sound ⟨f.clock, sub, less, fun h work => ⟨f.work h work, (f.job h).acceptStamp⟩, fun _ h _ => (f.job h).acceptStamp,
    fun h _ => (f.job h).expiry⟩ (fun holds => ?_) fun _ => f.loans (.inl queued)
  have sweeps := holds.sweeps (g := g) (.inl queued)
  obtain ⟨lists, list, pair, blocks, law, clear⟩ := holds
  refine ⟨f.toFrame.queuesHold lists (fun q => (lists q).1.sublist (sub q)) (fun q h ne => ?_) (fun q => ?_),
    f.toFrame.deadlinesHold list (list.1.sublist less) (fun h ne => ?_) ?_,
    f.toFrame.pair_unserved pair (by rw [queued]; decide) (by rw [f.finished]; decide), f.blocks blocks, ?_,
    f.clear (sweeping_not_starting sweeps) clear⟩
  · rw [queues q]
    split
    · exact List.mem_erase_of_ne ne
    · exact Iff.rfl
  · rw [f.finished, queues q]
    refine ⟨fun k => ?_, fun k => (by cases k.1)⟩
    split at k
    · exact absurd k (lists q).1.not_mem_erase
    · next ne => exact absurd (((lists q).2 g).mp k).2.symm ne
  · rw [deadlines]
    exact List.mem_erase_of_ne ne
  · rw [f.finished, deadlines]
    exact ⟨fun k => absurd k list.1.not_mem_erase, fun k => (by cases k.1)⟩
  · exact law.fewer f.engine sub less (fun h => f.kept h (by decide)) fun _ h => f.kept h (by decide)

/-- A served job that is finished, its port left. -/
theorem Finishes.released (f : Finishes s t g [p]) (job : (s.port p).job = some g) (free : (t.port p).job = none)
    (rests : (t.port p).state ≠ .serving) (queues : t.queues = s.queues) (deadlines : t.deadlines = s.deadlines) : Sound s t := by
  have queue (q : Pool) : t.queue q = s.queue q := by
    unfold State.queue
    rw [queues]
  refine Sound.of_structured f.clock fun whole => ?_
  have serving : (s.slot g).state = .serving := (whole.2.2.1.2.1 p g job).1
  refine Fewer.sound ⟨f.clock, fun q => queue q ▸ .refl _, deadlines ▸ .refl _, fun h work => ⟨f.work h work, (f.job h).acceptStamp⟩,
    fun _ h _ => (f.job h).acceptStamp, fun h _ => (f.job h).expiry⟩ (fun holds => ?_) fun _ => f.loans (.inr serving)
  have sweeps := holds.sweeps (g := g) (.inr serving)
  obtain ⟨lists, list, pair, blocks, law, clear⟩ := holds
  refine ⟨f.toFrame.queuesHold lists (fun q => queue q ▸ (lists q).1) (fun q h _ => by rw [queue]) (fun q => ?_),
    f.toFrame.deadlinesHold list (deadlines ▸ list.1) (fun h _ => by rw [deadlines]) ?_,
    f.toFrame.pair_released pair job (by rw [f.finished]; decide) free rests, f.blocks blocks, ?_,
    f.clear (sweeping_not_starting sweeps) clear⟩
  · rw [f.finished, queue, (lists q).2 g, serving]
    exact ⟨fun k => (by cases k.1), fun k => (by cases k.1)⟩
  · rw [f.finished, deadlines, list.2 g, serving]
    exact ⟨fun k => (by cases k.1), fun k => (by cases k.1)⟩
  · exact law.fewer f.engine (fun q => queue q ▸ .refl _) (deadlines ▸ .refl _) (fun h => f.kept h (by decide)) fun _ h => f.kept h (by decide)

/-! ### A join keeps the order (R53, R62) -/

/-- An order that an insertion can follow. -/
structure Orders (before : Slot → Slot → Prop) : Prop where
  trans : ∀ {a b c}, before a b → before b c → before a c
  total : ∀ {a b}, a ≠ b → ¬ before a b → before b a

theorem insertBefore_pairwise {precedes : Slot → Slot → Bool} {before : Slot → Slot → Prop} (orders : Orders before)
    (iff : ∀ x, precedes g x = true ↔ before g x) : ∀ {l : List Slot}, g ∉ l → l.Pairwise before → (insertBefore precedes g l).Pairwise before
  | [], _, _ => List.pairwise_singleton _ _
  | x :: rest, out, sorted => by
    obtain ⟨ne, out⟩ : g ≠ x ∧ g ∉ rest := ⟨fun e => out (e ▸ List.mem_cons_self), fun k => out (List.mem_cons_of_mem x k)⟩
    obtain ⟨first, sorted⟩ := List.pairwise_cons.mp sorted
    unfold insertBefore
    split
    · next k =>
      have here := (iff x).mp k
      refine List.pairwise_cons.mpr ⟨fun y hy => ?_, List.pairwise_cons.mpr ⟨first, sorted⟩⟩
      rcases List.mem_cons.mp hy with rfl | hy
      · exact here
      · exact orders.trans here (first y hy)
    · next k =>
      have here := orders.total ne fun b => k ((iff x).mpr b)
      refine List.pairwise_cons.mpr ⟨fun y hy => ?_, insertBefore_pairwise orders iff out sorted⟩
      rcases mem_insertBefore.mp hy with rfl | hy
      · exact here
      · exact first y hy

theorem State.stands_orders (s : State) : Orders s.stands where
  trans {a b c} ab bc := by
    unfold State.stands at *
    rw [Fin.lt_def] at *
    omega
  total {a b} ne k := by
    have apart := Fin.val_ne_of_ne ne
    unfold State.stands at *
    rw [Fin.lt_def] at *
    omega

theorem State.expiresFirst_orders (s : State) : Orders s.expiresFirst where
  trans {a b c} ab bc := by
    unfold State.expiresFirst at *
    rw [Fin.lt_def] at *
    omega
  total {a b} ne k := by
    have apart := Fin.val_ne_of_ne ne
    unfold State.expiresFirst at *
    rw [Fin.lt_def] at *
    omega

/-- A queue that a slot has joined by its wait. -/
theorem State.ordered.joins {q : Pool} {precedes : Slot → Slot → Bool} (o : s.ordered) (clock : t.ctl.clock = s.ctl.clock)
    (stamps : ∀ h ∈ s.queue q, (t.job h).acceptStamp = (s.job h).acceptStamp) (out : g ∉ s.queue q)
    (iff : ∀ x, precedes g x = true ↔ t.stands g x) : (insertBefore precedes g (s.queue q)).Pairwise t.stands := by
  refine insertBefore_pairwise t.stands_orders iff out ((o.queues q).imp_of_mem fun ha hb k => ?_)
  exact (State.stands_eq (State.waits_eq clock (stamps _ ha)) (State.waits_eq clock (stamps _ hb))).mpr k

end

end Sys2Proof.Machine
end

/-! SUPPORT. The sound changes of a job that comes into a queue or leaves it for a port (R35, R73, R74, R90, R91). -/
section
namespace Sys2Proof.Machine

section
variable {s t u : State} {g h : Slot} {p : Port} {ps : List Port}

/-! ### A served job is queued again (R90, R91) -/

/-- A served job that is QUEUED again at the place of its wait, its port left. -/
structure Requeues (s t : State) (g : Slot) (p : Port) : Prop extends Frame s t [g] [p] where
  queued : (t.slot g).state = .queued
  own : (s.job g).alike (t.job g)
  free : (t.port p).job = none
  rests : (t.port p).state ≠ .serving
  joins : ∃ precedes : Slot → Slot → Bool, (∀ x, precedes g x = true ↔ t.stands g x) ∧
    ∀ q, t.queue q = if q = (s.job g).pool then insertBefore precedes g (s.queue q) else s.queue q
  deadlines : t.deadlines = s.deadlines
  spare : t.spare = s.spare
  marks : t.marks = s.marks

theorem Requeues.job (f : Requeues s t g p) (h : Slot) : (s.job h).alike (t.job h) := by
  by_cases e : h = g
  · subst e
    exact f.own
  · exact f.toFrame.job fun k => e (List.mem_singleton.mp k)

theorem Requeues.state (f : Requeues s t g p) {h : Slot} (ne : h ≠ g) : (t.slot h).state = (s.slot h).state :=
  (f.slots h fun k => ne (List.mem_singleton.mp k)).state

theorem Requeues.sound (f : Requeues s t g p) (running : s.ctl.engine = .running) (job : (s.port p).job = some g) : Sound s t := by
  obtain ⟨precedes, iff, queues⟩ := f.joins
  have unqueued (holds : s.structured) : (s.slot g).state = .serving ∧ (s.job g).firstGrant ≠ none ∧ ∀ q, g ∉ s.queue q := by
    obtain ⟨lists, -, pair, -⟩ := holds
    obtain ⟨serving, -, granted⟩ := pair.2.1 p g job
    exact ⟨serving, granted, fun q k => by cases serving.symm.trans (((lists q).2 g).mp k).1⟩
  have work (holds : s.structured) (h : Slot) (k : t.inWork h) : s.inWork h := by
    by_cases e : h = g
    · exact .inr (e ▸ (unqueued holds).1)
    · unfold State.inWork at *
      rw [f.state e] at k
      exact k
  have others (q : Pool) (h : Slot) (ne : h ≠ g) : h ∈ t.queue q ↔ h ∈ s.queue q := by
    rw [queues q]
    split
    · rw [mem_insertBefore]
      exact or_iff_right ne
    · exact Iff.rfl
  refine ⟨f.clock, fun holds => ?_, fun holds loans => ?_, fun holds o => ?_, fun holds o h k => ?_, fun holds o h hh => ?_⟩
  · obtain ⟨serving, granted, out⟩ := unqueued holds
    obtain ⟨lists, list, pair, blocks, law, clear⟩ := holds
    refine ⟨f.toFrame.queuesHold lists (fun q => ?_) others (fun q => ?_),
      f.toFrame.deadlinesHold list (f.deadlines ▸ list.1) (fun h _ => by rw [f.deadlines]) ?_,
      f.toFrame.pair_released pair job (by rw [f.queued]; decide) f.free f.rests,
      blocks.kept f.spare (.of_eq f.marks) fun h => (f.job h).resultChain, .of_running (f.engine.trans running), ?_⟩
    · rw [queues q]
      split
      · exact nodup_insertBefore.mpr ⟨out q, (lists q).1⟩
      · exact (lists q).1
    · rw [queues q, f.queued, f.own.pool]
      split
      · next e => exact ⟨fun _ => ⟨rfl, e.symm⟩, fun _ => mem_insertBefore.mpr (.inl rfl)⟩
      · next e => exact ⟨fun k => absurd k (out q), fun k => absurd k.2.symm e⟩
    · rw [f.deadlines, list.2 g, f.own.firstGrant]
      exact ⟨fun k => absurd k.2.1 granted, fun k => absurd k.2.1 granted⟩
    · refine f.toFrame.recordsClear clear (by rw [running]; decide) fun k => ?_
      rw [f.queued] at k
      rcases k with k | k <;> cases k
  · obtain ⟨serving, -, -⟩ := unqueued holds
    refine f.toFrame.loansHold_kept loans (fun b n => by rw [State.mark_congr f.marks]) fun b => ?_
    have cls := f.own.cls
    have chain := f.own.chain
    unfold State.job at cls chain
    unfold SlotShadow.loans
    rw [f.queued, serving, cls, chain]
    exact if_congr ⟨fun k => ⟨.inr rfl, k.2⟩, fun k => ⟨.inl rfl, k.2⟩⟩ rfl rfl
  · obtain ⟨-, -, out⟩ := unqueued holds
    refine ⟨fun q => ?_, ?_, ?_⟩
    · rw [queues q]
      split
      · exact o.joins f.clock (fun h _ => (f.job h).acceptStamp) (out q) iff
      · refine (o.queues q).imp fun {a b} k => ?_
        exact (State.stands_eq (State.waits_eq f.clock (f.job a).acceptStamp) (State.waits_eq f.clock (f.job b).acceptStamp)).mpr k
    · rw [f.deadlines]
      refine o.deadlines.imp fun {a b} k => ?_
      exact (State.expiresFirst_eq (State.expiresIn_eq f.clock (f.job a).expiry) (State.expiresIn_eq f.clock (f.job b).expiry)).mpr k
    · intro h hh
      rw [f.deadlines] at hh
      rw [State.expiresIn_eq f.clock (f.job h).expiry]
      exact o.ahead h hh
  · rw [State.waits_eq f.clock (f.job h).acceptStamp]
    exact o h (work holds h k)
  · rw [f.deadlines] at hh
    rw [State.expiresIn_eq f.clock (f.job h).expiry]
    exact o h hh

/-! ### A queued job is granted (R73, R74) -/

/-- A queued job that leaves its lists and is SERVING at a port. -/
structure Grants (s t : State) (g : Slot) (p : Port) : Prop extends Frame s t [g] [p] where
  serving : (t.slot g).state = .serving
  cls : (t.job g).cls = (s.job g).cls
  chain : (t.job g).chain = (s.job g).chain
  resultChain : (t.job g).resultChain = (s.job g).resultChain
  acceptStamp : (t.job g).acceptStamp = (s.job g).acceptStamp
  mine : (t.job g).port = some p
  granted : (t.job g).firstGrant ≠ none
  job : (t.port p).job = some g
  serves : (t.port p).state = .serving
  queues : ∀ q, t.queue q = if q = (s.job g).pool then (s.queue q).erase g else s.queue q
  deadlines : t.deadlines = s.deadlines.erase g
  spare : t.spare = s.spare
  marks : t.marks = s.marks

theorem Grants.sound (f : Grants s t g p) (queued : (s.slot g).state = .queued) (idle : (s.port p).state ≠ .serving)
    (running : s.ctl.engine = .running) : Sound s t := by
  have sub (q : Pool) : (t.queue q).Sublist (s.queue q) := f.queues q ▸ erase_sublist_if
  have less : t.deadlines.Sublist s.deadlines := f.deadlines ▸ List.erase_sublist
  have other {h : Slot} (ne : h ≠ g) := f.slots h fun k => ne (List.mem_singleton.mp k)
  have stamp (h : Slot) : (t.job h).acceptStamp = (s.job h).acceptStamp := by
    by_cases e : h = g
    · subst e
      exact f.acceptStamp
    · exact (other e).job.acceptStamp
  refine Sound.of_structured f.clock fun whole => ?_
  have off : g ∉ t.deadlines := f.deadlines ▸ whole.2.1.1.not_mem_erase
  refine Fewer.sound ⟨f.clock, sub, less, fun h work => ⟨?_, stamp h⟩, fun _ h _ => stamp h, fun h hh => ?_⟩ (fun holds => ?_) fun _ loans => ?_
  · by_cases e : h = g
    · exact .inl (e ▸ queued)
    · unfold State.inWork at *
      rw [(other e).state] at work
      exact work
  · exact (other fun e => off (e ▸ hh)).job.expiry
  · obtain ⟨lists, list, pair, blocks, law, clear⟩ := holds
    have free : (s.port p).job = none := by
      by_contra some
      exact idle ((pair.1 p).mpr some)
    refine ⟨f.toFrame.queuesHold lists (fun q => (lists q).1.sublist (sub q)) (fun q h ne => ?_) (fun q => ?_),
      f.toFrame.deadlinesHold list (list.1.sublist less) (fun h ne => ?_) ?_,
      f.toFrame.pair_granted pair free (by rw [queued]; decide) f.serving f.job f.serves f.mine f.granted,
      blocks.kept f.spare (.of_eq f.marks) fun h => ?_, .of_running (f.engine.trans running), ?_⟩
    · rw [f.queues q]
      split
      · exact List.mem_erase_of_ne ne
      · exact Iff.rfl
    · rw [f.serving, f.queues q]
      refine ⟨fun k => ?_, fun k => (by cases k.1)⟩
      split at k
      · exact absurd k (lists q).1.not_mem_erase
      · next ne => exact absurd (((lists q).2 g).mp k).2.symm ne
    · rw [f.deadlines]
      exact List.mem_erase_of_ne ne
    · rw [f.serving]
      exact ⟨fun k => absurd k off, fun k => (by cases k.1)⟩
    · by_cases e : h = g
      · subst e
        exact f.resultChain
      · exact (other e).job.resultChain
    · refine f.toFrame.recordsClear clear (by rw [running]; decide) fun k => ?_
      rw [f.serving] at k
      rcases k with k | k <;> cases k
  · refine f.toFrame.loansHold_kept loans (fun b n => by rw [State.mark_congr f.marks]) fun b => ?_
    have cls := f.cls
    have chain := f.chain
    unfold State.job at cls chain
    unfold SlotShadow.loans
    rw [f.serving, queued, cls, chain]
    exact if_congr ⟨fun k => ⟨.inl rfl, k.2⟩, fun k => ⟨.inr rfl, k.2⟩⟩ rfl rfl

/-! ### A request is accepted or finished at once (R31, R34, R35) -/

/-- A slot without records that is FINISHED at once: a refusal, or a cancel before acceptance. -/
structure Refuses (s t : State) (g : Slot) : Prop extends Frame s t [g] [] where
  finished : (t.slot g).state = .finished
  job : t.job g = s.job g
  queues : t.queues = s.queues
  deadlines : t.deadlines = s.deadlines
  spare : t.spare = s.spare
  marks : t.marks = s.marks

theorem Refuses.sound (f : Refuses s t g) (fresh : (s.slot g).state = .empty ∨ (s.slot g).state = .posted) (running : s.ctl.engine = .running) :
    Sound s t := by
  have queue (q : Pool) : t.queue q = s.queue q := by
    unfold State.queue
    rw [f.queues]
  have other {h : Slot} (ne : h ≠ g) := f.slots h fun k => ne (List.mem_singleton.mp k)
  have job (h : Slot) : (s.job h).alike (t.job h) := by
    by_cases e : h = g
    · subst e
      rw [f.job]
      exact .refl _
    · exact (other e).job
  have idle : (s.slot g).state ≠ .queued ∧ (s.slot g).state ≠ .serving := by
    rcases fresh with e | e <;> rw [e] <;> exact ⟨by decide, by decide⟩
  refine Fewer.sound ⟨f.clock, fun q => queue q ▸ .refl _, f.deadlines ▸ .refl _, fun h work => ⟨?_, (job h).acceptStamp⟩,
    fun _ h _ => (job h).acceptStamp, fun h _ => (job h).expiry⟩ (fun holds => ?_) fun _ loans => ?_
  · have ne : h ≠ g := by
      rintro rfl
      unfold State.inWork at work
      rw [f.finished] at work
      rcases work with k | k <;> cases k
    unfold State.inWork at *
    rw [(other ne).state] at work
    exact work
  · obtain ⟨lists, list, pair, blocks, law, clear⟩ := holds
    refine ⟨f.toFrame.queuesHold lists (fun q => queue q ▸ (lists q).1) (fun q h _ => by rw [queue]) (fun q => ?_),
      f.toFrame.deadlinesHold list (f.deadlines ▸ list.1) (fun h _ => by rw [f.deadlines]) ?_,
      f.toFrame.pair_unserved pair idle.2 (by rw [f.finished]; decide),
      blocks.kept f.spare (.of_eq f.marks) fun h => (job h).resultChain, .of_running (f.engine.trans running), ?_⟩
    · rw [f.finished, queue, (lists q).2 g]
      exact ⟨fun k => absurd k.1 idle.1, fun k => (by cases k.1)⟩
    · rw [f.finished, f.deadlines, list.2 g]
      exact ⟨fun k => absurd k.1 idle.1, fun k => (by cases k.1)⟩
    · refine f.toFrame.recordsClear clear (by rw [running]; decide) fun k => ?_
      rw [f.finished] at k
      rcases k with k | k <;> cases k
  · refine f.toFrame.loansHold_kept loans (fun b n => by rw [State.mark_congr f.marks]) fun b => ?_
    rw [SlotShadow.loans_idle (by rw [f.finished]; decide) (by rw [f.finished]; decide), SlotShadow.loans_idle idle.1 idle.2]

/-- A slot without records that becomes QUEUED with a fresh record. -/
structure Accepts (s t : State) (g : Slot) : Prop extends Frame s t [g] [] where
  queued : (t.slot g).state = .queued
  stamp : (t.job g).acceptStamp = s.ctl.clock
  fresh : (t.job g).firstGrant = none
  empty : (t.job g).resultChain = []
  expiry : ∀ e, (t.job g).expiry = some e → 1 ≤ (e - s.ctl.clock).toInt ∧ (e - s.ctl.clock).toInt ≤ 6553500
  joins : ∃ precedes : Slot → Slot → Bool, (∀ x, precedes g x = true ↔ t.stands g x) ∧
    ∀ q, t.queue q = if q = (t.job g).pool then insertBefore precedes g (s.queue q) else s.queue q
  lists : ∃ precedes : Slot → Slot → Bool, (∀ x, precedes g x = true ↔ t.expiresFirst g x) ∧
    t.deadlines = if (t.job g).expiry = none then s.deadlines else insertBefore precedes g s.deadlines
  spare : t.spare = s.spare
  marks : ∀ b, t.mark b = if (t.job g).cls = some .print then (s.lendAll (t.job g).chain).mark b else s.mark b
  range : ∀ e ∈ (t.job g).chain, inMap e.block
  lends : (t.job g).cls = some .print → ∀ e ∈ (t.job g).chain, s.mark e.block ≠ .spare ∧ s.mark e.block ≠ .result

end

end Sys2Proof.Machine
end

/-! SUPPORT. The sound changes of a slot that is accepted, and of the blocks (R35, R142 to R147). -/
section
namespace Sys2Proof.Machine

section
variable {s t u : State} {g h : Slot} {p : Port} {ps : List Port} {b : Nat}

/-! ### Loans are taken (R141) -/

/-- A loan changes no SPARE and no RESULT mark. -/
theorem State.lendAll_mark_owned (chain : List ChainEntry) {s : State} (owned : s.mark b = .spare ∨ s.mark b = .result) :
    (s.lendAll chain).mark b = s.mark b := by
  induction chain generalizing s with
  | nil => rfl
  | cons e rest ih =>
    have same : (s.lend e.block).mark b = s.mark b := by
      by_cases at_b : b = e.block
      · unfold State.lend
        rw [← at_b]
        rcases owned with k | k <;> rw [k] <;> exact k
      · exact s.lend_mark_ne at_b
    exact (ih (same ▸ owned)).trans same

theorem State.lendAll_only (chain : List ChainEntry) (range : ∀ e ∈ chain, inMap e.block) : loansOnly s (s.lendAll chain) := fun b => by
  cases old : s.mark b with
  | outside =>
    rw [State.lendAll_mark_outside chain old range]
    split <;> exact ⟨⟨fun k => (by cases k), fun k => (by cases k)⟩, ⟨fun k => (by cases k), fun k => (by cases k)⟩⟩
  | loaned n =>
    rw [State.lendAll_mark_loaned chain old]
    exact ⟨⟨fun k => (by cases k), fun k => (by cases k)⟩, ⟨fun k => (by cases k), fun k => (by cases k)⟩⟩
  | spare => rw [State.lendAll_mark_owned chain (.inl old), old]; exact ⟨Iff.rfl, Iff.rfl⟩
  | result => rw [State.lendAll_mark_owned chain (.inr old), old]; exact ⟨Iff.rfl, Iff.rfl⟩

theorem Accepts.only (f : Accepts s t g) : loansOnly s t := fun b => by
  rw [f.marks b]
  split
  · exact State.lendAll_only _ f.range b
  · exact ⟨Iff.rfl, Iff.rfl⟩

theorem Accepts.loans (f : Accepts s t g) (idle : (s.slot g).state ≠ .queued ∧ (s.slot g).state ≠ .serving) (holds : s.loansHold) : t.loansHold := by
  by_cases print : (t.job g).cls = some .print
  · intro b
    have before := SlotShadow.loans_idle idle.1 idle.2 b
    have after := SlotShadow.loans_print (x := t.slot g) (.inl f.queued) print b
    have sum := f.toFrame.loansOf b
    have mark := f.marks b
    rw [if_pos print] at mark
    rw [before, after] at sum
    obtain ⟨loaned, free⟩ := holds b
    show (∀ n, t.mark b = .loaned n → n = t.loansOf b ∧ 1 ≤ n) ∧ ((∀ n, t.mark b ≠ .loaned n) → t.loansOf b = 0)
    rw [mark]
    by_cases any : ∃ n, s.mark b = .loaned n
    · obtain ⟨n, old⟩ := any
      obtain ⟨count, one⟩ := loaned n old
      have total : n = s.loansOf b := count
      rw [State.lendAll_mark_loaned _ old]
      refine ⟨fun m e => ?_, fun k => absurd rfl (k _)⟩
      have same := BlockMark.loaned.inj e
      unfold State.job at same
      omega
    · have none (n : Nat) : s.mark b ≠ .loaned n := fun e => any ⟨n, e⟩
      have zero : s.loansOf b = 0 := free none
      rcases mark_not_loaned none with old | old
      · rw [State.lendAll_mark_outside _ old f.range]
        unfold State.job
        split
        · exact ⟨fun m e => (by cases e), fun _ => by omega⟩
        · refine ⟨fun m e => ?_, fun k => absurd rfl (k _)⟩
          have same := BlockMark.loaned.inj e
          omega
      · rw [State.lendAll_mark_owned _ old]
        have out : ((t.slot g).job.chain.map ChainEntry.block).count b = 0 := by
          refine List.count_eq_zero.mpr fun mem => ?_
          obtain ⟨e, he, rfl⟩ := List.mem_map.mp mem
          obtain ⟨noSpare, noResult⟩ := f.lends print e he
          exact old.elim noSpare noResult
        exact ⟨fun n e => absurd e (none n), fun _ => by omega⟩
  · refine f.toFrame.loansHold_kept holds (fun b n => ?_) fun b => ?_
    · rw [f.marks b, if_neg print]
    · rw [SlotShadow.loans_other (x := t.slot g) print, SlotShadow.loans_idle idle.1 idle.2]

/-! ### The acceptance is sound (R35) -/

theorem Accepts.other (f : Accepts s t g) {h : Slot} (ne : h ≠ g) : (s.slot h).alike (t.slot h) :=
  f.slots h fun k => ne (List.mem_singleton.mp k)

theorem Accepts.structured (f : Accepts s t g) (fresh : (s.slot g).state = .empty ∨ (s.slot g).state = .posted)
    (running : s.ctl.engine = .running) (holds : s.structured) : t.structured := by
  obtain ⟨lists, list, pair, blocks, law, clear⟩ := holds
  obtain ⟨precedes, -, queues⟩ := f.joins
  obtain ⟨expires, -, deadlines⟩ := f.lists
  have idle : (s.slot g).state ≠ .queued ∧ (s.slot g).state ≠ .serving := by
    rcases fresh with e | e <;> rw [e] <;> exact ⟨by decide, by decide⟩
  have out (q : Pool) : g ∉ s.queue q := fun k => idle.1 (((lists q).2 g).mp k).1
  have off : g ∉ s.deadlines := fun k => idle.1 ((list.2 g).mp k).1
  have chain (h : Slot) : (t.job h).resultChain = (s.job h).resultChain := by
    by_cases e : h = g
    · subst e
      rw [f.empty, clear.1 h fresh]
    · exact (f.other e).job.resultChain
  refine ⟨f.toFrame.queuesHold lists (fun q => ?_) (fun q h ne => ?_) (fun q => ?_), f.toFrame.deadlinesHold list ?_ (fun h ne => ?_) ?_,
    f.toFrame.pair_unserved pair idle.2 (by rw [f.queued]; decide), blocks.kept f.spare f.only chain,
    .of_running (f.engine.trans running), f.toFrame.recordsClear clear (by rw [running]; decide) fun k => ?_⟩
  · rw [queues q]
    split
    · exact nodup_insertBefore.mpr ⟨out q, (lists q).1⟩
    · exact (lists q).1
  · rw [queues q]
    split
    · rw [mem_insertBefore]
      exact or_iff_right ne
    · exact Iff.rfl
  · rw [queues q, f.queued]
    split
    · next e => exact ⟨fun _ => ⟨rfl, e.symm⟩, fun _ => mem_insertBefore.mpr (.inl rfl)⟩
    · next e => exact ⟨fun k => absurd k (out q), fun k => absurd k.2.symm e⟩
  · rw [deadlines]
    split
    · exact list.1
    · exact nodup_insertBefore.mpr ⟨off, list.1⟩
  · rw [deadlines]
    split
    · exact Iff.rfl
    · rw [mem_insertBefore]
      exact or_iff_right ne
  · rw [deadlines, f.queued, f.fresh]
    split
    · next none => exact ⟨fun k => absurd k off, fun k => absurd none k.2.2⟩
    · next some => exact ⟨fun _ => ⟨rfl, rfl, some⟩, fun _ => mem_insertBefore.mpr (.inl rfl)⟩
  · rw [f.queued] at k
    rcases k with k | k <;> cases k

theorem Accepts.ordered (f : Accepts s t g) (out : ∀ q, g ∉ s.queue q) (off : g ∉ s.deadlines) (o : s.ordered) : t.ordered := by
  obtain ⟨precedes, before, queues⟩ := f.joins
  obtain ⟨expires, first, deadlines⟩ := f.lists
  have waits {h : Slot} (ne : h ≠ g) := State.waits_eq f.clock (f.other ne).job.acceptStamp
  have expiry {h : Slot} (ne : h ≠ g) := State.expiresIn_eq f.clock (f.other ne).job.expiry
  have old : s.deadlines.Pairwise t.expiresFirst := o.deadlines.imp_of_mem fun ha hb k =>
    (State.expiresFirst_eq (expiry fun e => off (e ▸ ha)) (expiry fun e => off (e ▸ hb))).mpr k
  have ahead (h : Slot) (hh : h ∈ s.deadlines) : 0 ≤ t.expiresIn h ∧ t.expiresIn h ≤ 6553500 := by
    rw [expiry fun e => off (e ▸ hh)]
    exact o.ahead h hh
  refine ⟨fun q => ?_, ?_, fun h hh => ?_⟩
  · rw [queues q]
    split
    · exact o.joins f.clock (fun h hh => (f.other fun e => out q (e ▸ hh)).job.acceptStamp) (out q) before
    · refine (o.queues q).imp_of_mem fun ha hb k => ?_
      exact (State.stands_eq (waits fun e => out q (e ▸ ha)) (waits fun e => out q (e ▸ hb))).mpr k
  · rw [deadlines]
    split
    · exact old
    · exact insertBefore_pairwise t.expiresFirst_orders first off old
  · rw [deadlines] at hh
    split at hh
    · exact ahead h hh
    · next some =>
      rcases mem_insertBefore.mp hh with rfl | hh
      · obtain ⟨e, at_e⟩ := Option.ne_none_iff_exists'.mp some
        obtain ⟨low, high⟩ := f.expiry e at_e
        unfold State.expiresIn
        rw [at_e, f.clock]
        exact ⟨by dsimp only; omega, high⟩
      · exact ahead h hh

theorem Accepts.sound (f : Accepts s t g) (fresh : (s.slot g).state = .empty ∨ (s.slot g).state = .posted)
    (running : s.ctl.engine = .running) : Sound s t := by
  have idle : (s.slot g).state ≠ .queued ∧ (s.slot g).state ≠ .serving := by
    rcases fresh with e | e <;> rw [e] <;> exact ⟨by decide, by decide⟩
  refine ⟨f.clock, f.structured fresh running, fun _ => f.loans idle,
    fun holds => f.ordered (fun q k => idle.1 (((holds.1 q).2 g).mp k).1) fun k => idle.1 ((holds.2.1.2 g).mp k).1, fun _ o h work => ?_,
    fun holds o h hh => ?_⟩
  · by_cases e : h = g
    · subst e
      unfold State.waits
      rw [f.clock, f.stamp, BitVec.sub_self]
      decide
    · rw [State.waits_eq f.clock (f.other e).job.acceptStamp]
      refine o h ?_
      unfold State.inWork at *
      rw [(f.other e).state] at work
      exact work
  · obtain ⟨expires, first, deadlines⟩ := f.lists
    have ahead (h : Slot) (hh : h ∈ s.deadlines) : 1 ≤ t.expiresIn h := by
      have ne : h ≠ g := by
        rintro rfl
        exact idle.1 ((holds.2.1.2 h).mp hh).1
      rw [State.expiresIn_eq f.clock (f.other ne).job.expiry]
      exact o h hh
    rw [deadlines] at hh
    split at hh
    · exact ahead h hh
    · next some =>
      rcases mem_insertBefore.mp hh with rfl | hh
      · obtain ⟨e, at_e⟩ := Option.ne_none_iff_exists'.mp some
        unfold State.expiresIn
        rw [at_e, f.clock]
        exact (f.expiry e at_e).1
      · exact ahead h hh

end

end Sys2Proof.Machine
end

/-! SUPPORT. The sound changes of the blocks: returns, takes, releases and the refill splice (R142 to R147). -/
section
namespace Sys2Proof.Machine

section
variable {s t u : State} {g h : Slot} {p : Port} {b : Nat} {blocks : List Nat}

/-! ### Blocks change hands -/

/-- A slot's shadow after a change of its result chain record alone, as far as the invariants read it. -/
structure SlotShadow.rechained (x y : SlotShadow) : Prop where
  state : y.state = x.state
  job : ({ x.job with resultChain := y.job.resultChain } : JobRecord).alike y.job
  clear : x.state = .empty ∨ x.state = .posted → y.job = x.job

theorem SlotShadow.alike.rechained {x y : SlotShadow} (a : x.alike y) : x.rechained y :=
  ⟨a.state, ⟨a.job.cls, a.job.pool, a.job.firstGrant, a.job.expiry, a.job.acceptStamp, a.job.port, a.job.chain, rfl⟩, a.clear⟩

theorem SlotShadow.rechained.loans {x y : SlotShadow} (a : x.rechained y) (b : Nat) : y.loans b = x.loans b := by
  unfold SlotShadow.loans
  rw [a.state, a.job.cls, a.job.chain]

/-- A change of the spare chain, the result chain records and the marks that are no loans. -/
structure Rechains (s t : State) : Prop where
  engine : t.ctl.engine = s.ctl.engine
  phase : t.ctl.startPhase = s.ctl.startPhase
  clock : t.ctl.clock = s.ctl.clock
  slots : ∀ g, (s.slot g).rechained (t.slot g)
  ports : ∀ p, (s.port p).alike (t.port p)
  queues : t.queues = s.queues
  deadlines : t.deadlines = s.deadlines
  loaned : ∀ b n, t.mark b = .loaned n ↔ s.mark b = .loaned n

theorem Rechains.state (a : Rechains s t) (g : Slot) : (t.slot g).state = (s.slot g).state := (a.slots g).state

theorem Rechains.queue (a : Rechains s t) (q : Pool) : t.queue q = s.queue q := by
  unfold State.queue
  rw [a.queues]

theorem Rechains.structured (a : Rechains s t) (holds : s.structured) (blocks : t.blocksHold) : t.structured := by
  obtain ⟨queues, list, pair, -, law, clear⟩ := holds
  have job (g : Slot) := (a.slots g).job
  refine ⟨fun q => ?_, ?_, ?_, blocks, ?_, ?_⟩
  · rw [a.queue]
    refine ⟨(queues q).1, fun g => ?_⟩
    have pool : (t.job g).pool = (s.job g).pool := (job g).pool
    rw [a.state, pool]
    exact (queues q).2 g
  · refine ⟨a.deadlines ▸ list.1, fun g => ?_⟩
    have first : (t.job g).firstGrant = (s.job g).firstGrant := (job g).firstGrant
    have expiry : (t.job g).expiry = (s.job g).expiry := (job g).expiry
    rw [a.deadlines, a.state, first, expiry]
    exact list.2 g
  · refine ⟨fun p => ?_, fun p g at_p => ?_, fun g serves => ?_⟩
    · rw [(a.ports p).serves, (a.ports p).job]
      exact pair.1 p
    · have first : (t.job g).firstGrant = (s.job g).firstGrant := (job g).firstGrant
      have port : (t.job g).port = (s.job g).port := (job g).port
      rw [(a.ports p).job] at at_p
      rw [a.state, port, first]
      exact pair.2.1 p g at_p
    · rw [a.state] at serves
      obtain ⟨p, at_p⟩ := pair.2.2 g serves
      exact ⟨p, (a.ports p).job.trans at_p⟩
  · exact law.fewer a.engine (fun q => a.queue q ▸ .refl _) (a.deadlines ▸ .refl _) (fun g k => (a.state g).symm.trans k)
      fun _ g k => (a.state g).symm.trans k
  · refine ⟨fun g k => ?_, fun next g engine phase le => ?_⟩
    · rw [a.state] at k
      exact ((a.slots g).clear k).trans (clear.1 g k)
    · rw [a.engine] at engine
      rw [a.phase] at phase
      obtain ⟨empty, job⟩ := clear.2 next g engine phase le
      exact ⟨(a.state g).trans empty, ((a.slots g).clear (.inl empty)).trans job⟩

/-- Blocks change hands soundly where the chains still agree with the marks. -/
theorem Rechains.sound (a : Rechains s t) (blocks : s.structured → t.blocksHold) : Sound s t := by
  have stamp (g : Slot) : (t.job g).acceptStamp = (s.job g).acceptStamp := (a.slots g).job.acceptStamp
  refine Fewer.sound ⟨a.clock, fun q => a.queue q ▸ .refl _, a.deadlines ▸ .refl _, fun g work => ⟨?_, stamp g⟩, fun _ g _ => stamp g,
    fun g _ => (a.slots g).job.expiry⟩ (fun holds => a.structured holds (blocks holds)) fun _ holds b => ?_
  · unfold State.inWork at *
    rw [a.state] at work
    exact work
  · have sum : t.loansOf b = s.loansOf b := by
      unfold State.loansOf
      rw [List.map_congr_left fun g _ => (a.slots g).loans b]
    obtain ⟨some, none⟩ := holds b
    show (∀ n, t.mark b = .loaned n → n = t.loansOf b ∧ 1 ≤ n) ∧ ((∀ n, t.mark b ≠ .loaned n) → t.loansOf b = 0)
    rw [sum]
    exact ⟨fun n e => some n ((a.loaned b n).mp e), fun k => none fun n e => k n ((a.loaned b n).mpr e)⟩

theorem Quiet.rechains (a : Quiet s t) : Rechains s t where
  engine := a.engine
  phase := a.phase
  clock := a.clock
  slots g := (a.slot g).rechained
  ports := a.port
  queues := a.queues
  deadlines := a.deadlines
  loaned b n := by rw [a.mark]

/-! ### The chains after a change of hands (R142 to R145) -/

/-- Blocks of none join the spare tail. -/
theorem State.blocksHold.joins (holds : s.blocksHold) (nodup : blocks.Nodup) (free : ∀ b ∈ blocks, s.mark b = .outside)
    (spare : t.spare = s.spare ++ blocks) (marks : ∀ b, t.mark b = if b ∈ blocks then .spare else s.mark b)
    (chains : ∀ g, (t.job g).resultChain = (s.job g).resultChain) : t.blocksHold := by
  obtain ⟨spareNodup, spares, each, apart, results⟩ := holds
  have out {b : Nat} (hb : b ∈ blocks) : b ∉ s.spare := fun k => by cases (free b hb).symm.trans ((spares b).mp k)
  refine ⟨?_, fun b => ?_, fun g => chains g ▸ each g, fun g k b => by rw [chains, chains]; exact apart g k b, fun b => ?_⟩
  · rw [spare]
    exact List.nodup_append.mpr ⟨spareNodup, nodup, fun a ha b hb e => out (e ▸ hb) ha⟩
  · rw [spare, List.mem_append, marks b]
    split
    · next hb => exact ⟨fun _ => rfl, fun _ => .inr hb⟩
    · next hb => exact (or_iff_left hb).trans (spares b)
  · rw [marks b]
    simp only [chains]
    split
    · next hb =>
      refine ⟨fun k => (by cases k), fun k => ?_⟩
      cases (free b hb).symm.trans ((results b).mpr k)
    · exact results b

/-- A slot's result chain joins the spare tail. -/
theorem State.blocksHold.returns (holds : s.blocksHold) (spare : t.spare = s.spare ++ (s.job g).resultChain)
    (marks : ∀ b, t.mark b = if b ∈ (s.job g).resultChain then .spare else s.mark b) (own : (t.job g).resultChain = [])
    (others : ∀ h, h ≠ g → (t.job h).resultChain = (s.job h).resultChain) : t.blocksHold := by
  obtain ⟨spareNodup, spares, each, apart, results⟩ := holds
  have mine {b : Nat} (hb : b ∈ (s.job g).resultChain) : s.mark b = .result := (results b).mpr ⟨g, hb⟩
  have sub {h : Slot} {b : Nat} (hb : b ∈ (t.job h).resultChain) : h ≠ g ∧ b ∈ (s.job h).resultChain := by
    have ne : h ≠ g := by
      rintro rfl
      rw [own] at hb
      cases hb
    exact ⟨ne, others h ne ▸ hb⟩
  refine ⟨?_, fun b => ?_, fun h => ?_, fun h k b hb kb => apart h k b (sub hb).2 (sub kb).2, fun b => ?_⟩
  · rw [spare]
    refine List.nodup_append.mpr ⟨spareNodup, each g, fun a ha b hb e => ?_⟩
    cases ((spares a).mp ha).symm.trans (mine (e ▸ hb))
  · rw [spare, List.mem_append, marks b]
    split
    · next hb => exact ⟨fun _ => rfl, fun _ => .inr hb⟩
    · next hb => exact (or_iff_left hb).trans (spares b)
  · by_cases e : h = g
    · rw [e, own]
      exact .nil
    · rw [others h e]
      exact each h
  · rw [marks b]
    split
    · next hb =>
      refine ⟨fun k => (by cases k), fun ⟨h, hh⟩ => ?_⟩
      obtain ⟨ne, old⟩ := sub hh
      exact absurd (apart h g b old hb) ne
    · next hb =>
      refine (results b).trans ⟨fun ⟨h, hh⟩ => ⟨h, ?_⟩, fun ⟨h, hh⟩ => ⟨h, (sub hh).2⟩⟩
      rw [others h fun e => hb (e ▸ hh)]
      exact hh

/-- A slot's result chain goes OUTSIDE. -/
theorem State.blocksHold.releases (holds : s.blocksHold) (spare : t.spare = s.spare)
    (marks : ∀ b, t.mark b = if b ∈ (s.job g).resultChain then .outside else s.mark b) (own : (t.job g).resultChain = [])
    (others : ∀ h, h ≠ g → (t.job h).resultChain = (s.job h).resultChain) : t.blocksHold := by
  obtain ⟨spareNodup, spares, each, apart, results⟩ := holds
  have mine {b : Nat} (hb : b ∈ (s.job g).resultChain) : s.mark b = .result := (results b).mpr ⟨g, hb⟩
  have sub {h : Slot} {b : Nat} (hb : b ∈ (t.job h).resultChain) : h ≠ g ∧ b ∈ (s.job h).resultChain := by
    have ne : h ≠ g := by
      rintro rfl
      rw [own] at hb
      cases hb
    exact ⟨ne, others h ne ▸ hb⟩
  refine ⟨spare ▸ spareNodup, fun b => ?_, fun h => ?_, fun h k b hb kb => apart h k b (sub hb).2 (sub kb).2, fun b => ?_⟩
  · rw [spare, marks b]
    split
    · next hb =>
      refine ⟨fun k => ?_, fun k => (by cases k)⟩
      cases ((spares b).mp k).symm.trans (mine hb)
    · exact spares b
  · by_cases e : h = g
    · rw [e, own]
      exact .nil
    · rw [others h e]
      exact each h
  · rw [marks b]
    split
    · next hb =>
      refine ⟨fun k => (by cases k), fun ⟨h, hh⟩ => ?_⟩
      obtain ⟨ne, old⟩ := sub hh
      exact absurd (apart h g b old hb) ne
    · next hb =>
      refine (results b).trans ⟨fun ⟨h, hh⟩ => ⟨h, ?_⟩, fun ⟨h, hh⟩ => ⟨h, (sub hh).2⟩⟩
      rw [others h fun e => hb (e ▸ hh)]
      exact hh

/-- The head of the spare chain becomes the last block of a slot's result chain. -/
theorem State.blocksHold.takes {rest : List Nat} (holds : s.blocksHold) (head : s.spare = b :: rest) (spare : t.spare = rest)
    (marks : ∀ c, t.mark c = if c = b then .result else s.mark c) (own : (t.job g).resultChain = (s.job g).resultChain ++ [b])
    (others : ∀ h, h ≠ g → (t.job h).resultChain = (s.job h).resultChain) : t.blocksHold := by
  obtain ⟨spareNodup, spares, each, apart, results⟩ := holds
  rw [head] at spareNodup spares
  obtain ⟨out, restNodup⟩ := List.nodup_cons.mp spareNodup
  have free : s.mark b = .spare := (spares b).mp List.mem_cons_self
  have unheld (h : Slot) : b ∉ (s.job h).resultChain := fun k => by cases free.symm.trans ((results b).mpr ⟨h, k⟩)
  have mem {h : Slot} {c : Nat} : c ∈ (t.job h).resultChain ↔ c ∈ (s.job h).resultChain ∨ h = g ∧ c = b := by
    by_cases e : h = g
    · subst e
      rw [own, List.mem_append, List.mem_singleton]
      exact or_congr Iff.rfl (and_iff_right rfl).symm
    · rw [others h e]
      exact (or_iff_left fun k => e k.1).symm
  refine ⟨spare ▸ restNodup, fun c => ?_, fun h => ?_, fun h k c hh hk => ?_, fun c => ?_⟩
  · rw [spare, marks c]
    split
    · next e =>
      refine ⟨fun k => absurd (e ▸ k) out, fun k => (by cases k)⟩
    · next e => exact (List.mem_cons.trans (or_iff_right e)).symm.trans (spares c)
  · by_cases e : h = g
    · subst e
      rw [own]
      exact List.nodup_append.mpr ⟨each h, List.nodup_singleton b, fun a ha c hc e => unheld h (List.mem_singleton.mp hc ▸ e ▸ ha)⟩
    · rw [others h e]
      exact each h
  · rcases mem.mp hh with hh | ⟨rfl, rfl⟩ <;> rcases mem.mp hk with hk | ⟨rfl, e⟩
    · exact apart h k c hh hk
    · exact absurd (e ▸ hh) (unheld h)
    · exact absurd hk (unheld k)
    · rfl
  · rw [marks c]
    simp only [mem]
    split
    · next e => exact ⟨fun _ => ⟨g, .inr ⟨rfl, e⟩⟩, fun _ => rfl⟩
    · next e => exact (results c).trans (exists_congr fun h => (or_iff_left fun k => e k.2).symm)

end

end Sys2Proof.Machine
end

/-! SUPPORT. The operations of the block map are sound (R142 to R149, R154). -/
section
namespace Sys2Proof.Machine

section
variable {s t u : State} {g h : Slot} {p : Port} {b : Nat} {blocks : List Nat}

/-! ### The GO test (R154) -/

theorem PortRecord.goTested_alike (x : PortRecord) (n : Nat) : x.alike (x.goTested n) := by
  refine .of_eq ?_ (x.goTested_state n)
  unfold PortRecord.goTested
  dsimp only
  rw [apply_ite PortRecord.job]
  exact ite_self _

theorem State.goTest_quiet (s : State) : Quiet s s.goTest :=
  Quiet.foldl (fun t p => by rw [t.goTestAt_eq]; exact State.setPort_quiet ((t.port p).goTested_alike _)) _ s

/-! ### Blocks join the spare tail (R142) -/

theorem State.joinSpare_mark {first : Nat} {rest : List Nat} (range : ∀ b ∈ first :: rest, inMap b) (b : Nat) :
    (s.joinSpare (first :: rest)).mark b = if b ∈ first :: rest then .spare else s.mark b := by
  rw [← State.markAll_mark (s := s) (first :: rest) fun k => .inl (range b k)]
  exact State.mark_congr (by rw [State.joinSpare_eq]) b

theorem State.joinSpare_spare {first : Nat} {rest : List Nat} : (s.joinSpare (first :: rest)).spare = s.spare ++ first :: rest := by
  rw [State.joinSpare_eq]

/-- Blocks that are not loaned join the spare tail. -/
theorem State.joinSpare_rechains {first : Nat} {rest : List Nat} (range : ∀ b ∈ first :: rest, inMap b)
    (free : ∀ b ∈ first :: rest, ∀ n, s.mark b ≠ .loaned n) : Rechains s (s.joinSpare (first :: rest)) where
  engine := by rw [State.joinSpare_ctl]
  phase := by rw [State.joinSpare_ctl]
  clock := by rw [State.joinSpare_ctl]
  slots g := by
    unfold State.slot
    rw [State.joinSpare_slots]
    exact SlotShadow.alike.rechained (.refl _)
  ports p := by
    unfold State.port
    rw [State.joinSpare_ports]
    exact .refl _
  queues := State.joinSpare_queues _ _
  deadlines := State.joinSpare_deadlines _ _
  loaned b n := by
    rw [State.joinSpare_mark range]
    split
    · next hb => exact ⟨fun k => (by cases k), fun k => absurd k (free b hb n)⟩
    · exact Iff.rfl

theorem State.joinSpare_jobs (s : State) (l : List Nat) (h : Slot) : (s.joinSpare l).job h = s.job h := by
  unfold State.job State.slot
  rw [State.joinSpare_slots]

/-- Blocks of none join the spare tail soundly. -/
theorem State.joinSpare_sound (nodup : blocks.Nodup) (free : ∀ b ∈ blocks, inMap b ∧ s.mark b = .outside) : Sound s (s.joinSpare blocks) := by
  cases blocks with
  | nil => exact .refl s
  | cons first rest =>
    have range (b : Nat) (hb : b ∈ first :: rest) := (free b hb).1
    refine (State.joinSpare_rechains range fun b hb n e => ?_).sound fun holds => ?_
    · cases (free b hb).2.symm.trans e
    · obtain ⟨-, -, -, chains, -⟩ := holds
      exact chains.joins nodup (fun b hb => (free b hb).2) State.joinSpare_spare (State.joinSpare_mark range) fun h => by
        rw [State.joinSpare_jobs]

/-! ### A re-queued scan gives its blocks back (R144) -/

/-- A change of a job's result chain record, as a change of hands. -/
theorem State.rechain_slot (s : State) (g : Slot) (chain : List Nat) (held : (s.slot g).state ≠ .empty ∧ (s.slot g).state ≠ .posted) (h : Slot) :
    (s.slot h).rechained ((s.updateJob g fun j => { j with resultChain := chain }).slot h) := by
  by_cases e : h = g
  · subst e
    rw [State.updateJob, State.slot_setSlot]
    exact ⟨rfl, .refl _, fun k => k.elim (fun e => absurd e held.1) fun e => absurd e held.2⟩
  · rw [State.updateJob, State.slot_setSlot_ne _ e]
    exact SlotShadow.alike.rechained (.refl _)

/-- The state of a return before the GO test. -/
def State.givenBack (s : State) (g : Slot) : State :=
  (s.joinSpare (s.job g).resultChain).updateJob g fun j => { j with resultChain := [] }

theorem State.givenBack_nil (chain : (s.job g).resultChain = []) : s.givenBack g = s := by
  have own : ({ s.slot g with job := { s.job g with resultChain := [] } } : SlotShadow) = s.slot g := by
    rw [← chain]
    rfl
  have slots : (s.updateJob g fun j => { j with resultChain := [] }).slots = s.slots := by
    show s.slots.set g.val _ = _
    rw [own]
    exact Vector.set_getElem_self _
  rw [State.givenBack, chain]
  exact State.ext_of rfl rfl rfl rfl slots rfl rfl rfl rfl rfl rfl rfl rfl rfl rfl

theorem State.returnResults_quiet (s : State) (g : Slot) : Quiet (s.givenBack g) (s.returnResults g) := by
  cases chain : (s.job g).resultChain with
  | nil => rw [State.givenBack_nil chain, State.returnResults_nil chain]; exact .refl s
  | cons first rest =>
    have same : s.returnResults g = (s.givenBack g).goTest := by rw [State.returnResults_eq chain, State.givenBack, chain]
    rw [same]
    exact State.goTest_quiet _

theorem State.givenBack_sound (s : State) (g : Slot) : Sound s (s.givenBack g) := by
  cases chain : (s.job g).resultChain with
  | nil => rw [State.givenBack_nil chain]; exact .refl s
  | cons first rest =>
    have clock : (s.givenBack g).ctl = s.ctl := State.joinSpare_ctl s _
    refine Sound.of_structured (by rw [clock]) fun holds => ?_
    obtain ⟨-, -, -, blocks, -, clear⟩ := holds
    have mine (b : Nat) (hb : b ∈ first :: rest) : s.mark b = .result := (blocks.2.2.2.2 b).mpr ⟨g, chain ▸ hb⟩
    have range (b : Nat) (hb : b ∈ first :: rest) : inMap b := State.mark_range (by rw [mine b hb]; exact BlockMark.noConfusion)
    have held : (s.slot g).state ≠ .empty ∧ (s.slot g).state ≠ .posted := by
      refine ⟨fun e => ?_, fun e => ?_⟩
      · cases chain.symm.trans (by rw [clear.1 g (.inl e)])
      · cases chain.symm.trans (by rw [clear.1 g (.inr e)])
    have joins := State.joinSpare_rechains (s := s) range fun b hb n e => by cases (mine b hb).symm.trans e
    have slot (h : Slot) : (s.joinSpare (first :: rest)).slot h = s.slot h := by
      unfold State.slot
      rw [State.joinSpare_slots]
    have own := (s.joinSpare (first :: rest)).rechain_slot g [] (by rw [slot]; exact held)
    simp only [slot] at own
    rw [State.givenBack, chain]
    refine Rechains.sound (t := (s.joinSpare (first :: rest)).updateJob g fun j => { j with resultChain := [] })
      { joins with slots := own } fun _ => ?_
    refine blocks.returns (g := g) (by rw [chain]; exact State.joinSpare_spare)
      (fun b => by rw [chain]; exact State.joinSpare_mark range b) (by rw [State.job_updateJob]) fun h ne => ?_
    rw [State.job_updateJob_ne _ ne, State.joinSpare_jobs]

/-! ### A take (R143) -/

theorem State.takenMarks_mark {rest : List Nat} (range : inMap b) (c : Nat) :
    (s.takenMarks g b rest).mark c = if c = b then .result else s.mark c := by
  have same : (s.takenMarks g b rest).mark c = (s.setMark b .result).mark c := State.mark_congr rfl c
  rw [same]
  split
  · next e => rw [e, s.mark_setMark range]
  · next e => rw [s.mark_setMark_ne e]

theorem State.takenMarks_rechains {rest : List Nat} (range : inMap b) (free : ∀ n, s.mark b ≠ .loaned n)
    (held : (s.slot g).state ≠ .empty ∧ (s.slot g).state ≠ .posted) : Rechains s (s.takenMarks g b rest) where
  engine := rfl
  phase := rfl
  clock := rfl
  slots := s.rechain_slot g ((s.job g).resultChain ++ [b]) held
  ports _ := .refl _
  queues := rfl
  deadlines := rfl
  loaned c n := by
    rw [State.takenMarks_mark range]
    split
    · next e => exact ⟨fun k => (by cases k), fun k => absurd (e ▸ k) (free n)⟩
    · exact Iff.rfl

theorem State.takenMarks_sound {rest : List Nat} (spare : s.spare = b :: rest)
    (held : (s.slot g).state ≠ .empty ∧ (s.slot g).state ≠ .posted) : Sound s (s.takenMarks g b rest) := by
  refine Sound.of_structured rfl fun holds => ?_
  obtain ⟨-, -, -, blocks, -⟩ := holds
  have mine : s.mark b = .spare := (blocks.2.1 b).mp (spare ▸ List.mem_cons_self)
  have range : inMap b := State.mark_range (by rw [mine]; exact BlockMark.noConfusion)
  refine (State.takenMarks_rechains range (fun n e => by cases mine.symm.trans e) held).sound fun _ => ?_
  exact blocks.takes (g := g) spare rfl (State.takenMarks_mark range)
    (congrArg JobRecord.resultChain (s.job_updateJob g fun j => { j with resultChain := j.resultChain ++ [b] })) fun h ne => by
    show ((s.updateJob g fun j => { j with resultChain := j.resultChain ++ [b] }).job h).resultChain = _
    rw [State.job_updateJob_ne _ ne]

theorem PortRecord.takes_alike (x : PortRecord) (b : Nat) : x.alike (x.takes b) := .of_eq rfl rfl

theorem State.take_sound (s : State) (p : Port) (g : Slot) (held : (s.slot g).state ≠ .empty ∧ (s.slot g).state ≠ .posted) :
    Sound s (s.take p g) := by
  cases spare : s.spare with
  | nil =>
    have none : s.take p g = s := by
      unfold State.take
      rw [spare]
    rw [none]
    exact .refl s
  | cons b rest =>
    have port := State.setPort_quiet (s := s.takenMarks g b rest) (p := p) ((s.port p).takes_alike b)
    refine (State.takenMarks_sound spare held).trans ((port.trans (t := (s.takenMarks g b rest).setPort p ((s.port p).takes b)) ?_).sound)
    rw [State.take_eq spare]
    exact .of_eq rfl rfl rfl rfl rfl rfl rfl

/-! ### A release (R145) -/

theorem State.releaseResults_rechains (held : (s.slot g).state ≠ .empty ∧ (s.slot g).state ≠ .posted)
    (mine : ∀ b ∈ (s.job g).resultChain, s.mark b = .result) : Rechains s (s.releaseResults g) := by
  have marked := s.markAll_eq (s.job g).resultChain .outside
  have slot (h : Slot) : (s.markAll (s.job g).resultChain .outside).slot h = s.slot h := by rw [marked]; rfl
  have own := (s.markAll (s.job g).resultChain .outside).rechain_slot g [] (by rw [slot]; exact held)
  simp only [slot] at own
  unfold State.releaseResults
  refine ⟨?_, ?_, ?_, own, fun p => ?_, ?_, ?_, fun b n => ?_⟩
  · show (s.markAll (s.job g).resultChain .outside).ctl.engine = _
    rw [marked]
  · show (s.markAll (s.job g).resultChain .outside).ctl.startPhase = _
    rw [marked]
  · show (s.markAll (s.job g).resultChain .outside).ctl.clock = _
    rw [marked]
  · show (s.port p).alike ((s.markAll (s.job g).resultChain .outside).port p)
    rw [marked]
    exact .refl _
  · show (s.markAll (s.job g).resultChain .outside).queues = _
    rw [marked]
  · show (s.markAll (s.job g).resultChain .outside).deadlines = _
    rw [marked]
  · show (s.markAll (s.job g).resultChain .outside).mark b = _ ↔ _
    rw [State.markAll_mark (s := s) _ fun _ => .inr rfl]
    split
    · next hb => exact ⟨fun k => (by cases k), fun k => (by cases (mine b hb).symm.trans k)⟩
    · exact Iff.rfl

theorem State.releaseResults_ctl (s : State) (g : Slot) : (s.releaseResults g).ctl = s.ctl := by
  show (s.markAll (s.job g).resultChain .outside).ctl = _
  rw [s.markAll_eq (s.job g).resultChain .outside]

theorem State.releaseResults_job (s : State) (g : Slot) : ((s.releaseResults g).job g).resultChain = [] := by
  rw [State.releaseResults, State.job_updateJob]

theorem State.releaseResults_slot_ne (ne : h ≠ g) : (s.releaseResults g).slot h = s.slot h := by
  rw [State.releaseResults, State.updateJob, State.slot_setSlot_ne _ ne, s.markAll_eq (s.job g).resultChain .outside]
  rfl

theorem State.releaseResults_sound (s : State) (held : (s.slot g).state ≠ .empty ∧ (s.slot g).state ≠ .posted) :
    Sound s (s.releaseResults g) := by
  refine Sound.of_structured (by rw [State.releaseResults_ctl]) fun holds => ?_
  obtain ⟨-, -, -, blocks, -⟩ := holds
  refine (State.releaseResults_rechains held fun b hb => (blocks.2.2.2.2 b).mpr ⟨g, hb⟩).sound fun _ => ?_
  refine blocks.releases (g := g) ?_ (fun b => ?_) (s.releaseResults_job g) fun h ne => ?_
  · show (s.markAll (s.job g).resultChain .outside).spare = _
    rw [s.markAll_eq (s.job g).resultChain .outside]
  · exact State.markAll_mark (s := s) _ fun _ => .inr rfl
  · unfold State.job
    rw [State.releaseResults_slot_ne ne]

end

end Sys2Proof.Machine
end

/-! SUPPORT. A release and a refill are sound (R145 to R149). -/
section
namespace Sys2Proof.Machine

section
variable {s t u : State} {g h : Slot} {p : Port} {b : Nat} {blocks : List Nat}

/-! ### A finished slot is cleared (R29) -/

/-- A finished slot without a result chain that becomes EMPTY without records. -/
structure Clears (s t : State) (g : Slot) : Prop extends Frame s t [g] [] where
  finished : (s.slot g).state = .finished
  unheld : (s.job g).resultChain = []
  empty : (t.slot g).state = .empty
  job : t.job g = {}
  queues : t.queues = s.queues
  deadlines : t.deadlines = s.deadlines
  spare : t.spare = s.spare
  marks : t.marks = s.marks

theorem Clears.other (f : Clears s t g) {h : Slot} (ne : h ≠ g) : (s.slot h).alike (t.slot h) :=
  f.slots h fun k => ne (List.mem_singleton.mp k)

theorem Clears.sound (f : Clears s t g) (engine : s.ctl.engine ≠ .starting) : Sound s t := by
  have queue (q : Pool) : t.queue q = s.queue q := by
    unfold State.queue
    rw [f.queues]
  have kept (h : Slot) {x : SlotState} (ne : x ≠ .empty) (e : (t.slot h).state = x) : h ≠ g ∧ (s.slot h).state = x := by
    have apart : h ≠ g := by
      rintro rfl
      exact ne (e.symm.trans f.empty)
    exact ⟨apart, (f.other apart).state.symm.trans e⟩
  refine Sound.of_structured f.clock fun whole => ?_
  have queued {h : Slot} {q : Pool} (hh : h ∈ s.queue q) : h ≠ g := by
    rintro rfl
    cases f.finished.symm.trans (((whole.1 q).2 h).mp hh).1
  have listed {h : Slot} (hh : h ∈ s.deadlines) : h ≠ g := by
    rintro rfl
    cases f.finished.symm.trans ((whole.2.1.2 h).mp hh).1
  refine Fewer.sound ⟨f.clock, fun q => queue q ▸ .refl _, f.deadlines ▸ .refl _, fun h work => ?_,
    fun q h hh => (f.other (queued (queue q ▸ hh))).job.acceptStamp, fun h hh => (f.other (listed (f.deadlines ▸ hh))).job.expiry⟩
    (fun holds => ?_) fun _ loans => ?_
  · rcases work with k | k
    · obtain ⟨ne, old⟩ := kept h (by decide) k
      exact ⟨.inl old, (f.other ne).job.acceptStamp⟩
    · obtain ⟨ne, old⟩ := kept h (by decide) k
      exact ⟨.inr old, (f.other ne).job.acceptStamp⟩
  · obtain ⟨lists, list, pair, blocks, law, clear⟩ := holds
    refine ⟨f.toFrame.queuesHold lists (fun q => queue q ▸ (lists q).1) (fun q h _ => by rw [queue]) (fun q => ?_),
      f.toFrame.deadlinesHold list (f.deadlines ▸ list.1) (fun h _ => by rw [f.deadlines]) ?_,
      f.toFrame.pair_unserved pair (by rw [f.finished]; decide) (by rw [f.empty]; decide),
      blocks.kept f.spare (.of_eq f.marks) fun h => ?_, ?_, f.toFrame.recordsClear clear engine fun _ => f.job⟩
    · rw [f.empty, queue, (lists q).2 g, f.finished]
      exact ⟨fun k => (by cases k.1), fun k => (by cases k.1)⟩
    · rw [f.empty, f.deadlines, list.2 g, f.finished]
      exact ⟨fun k => (by cases k.1), fun k => (by cases k.1)⟩
    · by_cases e : h = g
      · rw [e, f.job, f.unheld]
      · exact (f.other e).job.resultChain
    · exact law.fewer f.engine (fun q => queue q ▸ .refl _) (f.deadlines ▸ .refl _) (fun h k => (kept h (by decide) k).2)
        fun _ h k => (kept h (by decide) k).2
  · refine f.toFrame.loansHold_kept loans (fun b n => by rw [State.mark_congr f.marks]) fun b => ?_
    rw [SlotShadow.loans_idle (by rw [f.empty]; decide) (by rw [f.empty]; decide),
      SlotShadow.loans_idle (by rw [f.finished]; decide) (by rw [f.finished]; decide)]

theorem State.releaseResults_state (s : State) (g h : Slot) : ((s.releaseResults g).slot h).state = (s.slot h).state := by
  by_cases e : h = g
  · subst e
    rw [State.releaseResults, State.updateJob, State.slot_setSlot, s.markAll_eq (s.job h).resultChain .outside]
    rfl
  · rw [State.releaseResults_slot_ne e]

theorem State.release_sound (finished : (s.slot g).state = .finished) (engine : s.ctl.engine ≠ .starting) : Sound s (s.release g) := by
  refine (State.releaseResults_sound s (g := g) (by rw [finished]; exact ⟨by decide, by decide⟩)).trans
    (Clears.sound (g := g) ?_ (by rw [State.releaseResults_ctl]; exact engine))
  exact
    { engine := rfl
      phase := rfl
      clock := rfl
      slots := fun h ne => by
        rw [State.release, State.slot_setSlot_ne _ fun e => ne (List.mem_singleton.mpr e)]
        exact .refl _
      ports := fun _ _ => .refl _
      finished := (s.releaseResults_state g g).trans finished
      unheld := s.releaseResults_job g
      empty := congrArg SlotShadow.state State.release_slot
      job := congrArg SlotShadow.job State.release_slot
      queues := rfl
      deadlines := rfl
      spare := rfl
      marks := rfl }

/-! ### The blocks of a refill (R147) -/

/-- The blocks that the refill walk has still to pass, each linked to the next, the last to 0. -/
inductive Linked (f : Nat → Nat) : List Nat → Prop
  | last {x : Nat} (zero : f x = 0) : Linked f [x]
  | cons {x y : Nat} {rest : List Nat} (next : f x = y) (some : y ≠ 0) (tail : Linked f (y :: rest)) : Linked f (x :: y :: rest)

theorem Linked.unique {f : Nat → Nat} {l : List Nat} (a : Linked f l) : ∀ {k : List Nat}, Linked f k → k.head? = l.head? → k = l := by
  induction a with
  | last zero =>
    intro k b head
    cases b with
    | last => rw [Option.some.inj head]
    | cons next some => rw [Option.some.inj head] at next; exact absurd (next.symm.trans zero) some
  | cons next some tail ih =>
    intro k b head
    cases b with
    | last zero => rw [Option.some.inj head] at zero; exact absurd (next.symm.trans zero) some
    | cons next' some' tail' =>
      rw [Option.some.inj head] at next' ⊢
      rw [ih tail' (by rw [← next', ← next]; rfl)]

theorem Linked.suffix {f : Nat → Nat} {front back : List Nat} (a : Linked f (front ++ back)) (ne : back ≠ []) : Linked f back := by
  induction front with
  | nil => exact a
  | cons x rest ih =>
    have nonempty : rest ++ back ≠ [] := fun e => ne (List.append_eq_nil_iff.mp e).2
    revert a
    rw [List.cons_append]
    generalize rest ++ back = l at ih nonempty
    intro a
    cases a with
    | last => exact absurd rfl nonempty
    | cons _ _ tail => exact ih tail

/-- A walk by links that ends meets no block twice. -/
theorem Linked.nodup {f : Nat → Nat} {l : List Nat} (a : Linked f l) : l.Nodup := by
  induction a with
  | last => exact List.nodup_singleton _
  | @cons b c rest next some tail ih =>
    refine List.nodup_cons.mpr ⟨fun hb => ?_, ih⟩
    obtain ⟨front, back, split⟩ := List.append_of_mem hb
    have again : Linked f (b :: back) := Linked.suffix (split ▸ tail) (List.cons_ne_nil _ _)
    have same := (Linked.cons next some tail).unique again rfl
    have lengths := congrArg List.length same
    have parts := congrArg List.length split
    simp only [List.length_cons, List.length_append] at lengths parts
    omega

/-- What a refill walk that ends has passed (R147). -/
theorem refillWalk_passed {n : Nat} : ∀ {b : Nat} {passed blocks : List Nat}, b ≠ 0 →
    refillWalk s n b passed = { passed := blocks, failure := none } → ∃ l, blocks = passed ++ l ∧ l.head? = some b ∧
      Linked (readLink s.mem) l ∧ ∀ c ∈ l, inMap c ∧ s.mark c = .outside := by
  induction n with
  | zero =>
    intro b passed blocks _ h
    unfold refillWalk at h
    split at h
    · cases congrArg RefillWalk.failure h
    · cases congrArg RefillWalk.failure h
  | succ n ih =>
    intro b passed blocks nonzero h
    by_cases range : inMap b
    · by_cases mark : s.mark b = .outside
      · rw [refillWalk_step range mark] at h
        split at h
        · next zero =>
          refine ⟨[b], (congrArg RefillWalk.passed h).symm, rfl, .last zero, fun c hc => ?_⟩
          rw [List.mem_singleton.mp hc]
          exact ⟨range, mark⟩
        · next link =>
          obtain ⟨l, rfl, head, linked, good⟩ := ih link h
          cases l with
          | nil => cases head
          | cons c rest =>
            obtain rfl := Option.some.inj head
            refine ⟨b :: readLink s.mem b :: rest, by rw [List.append_assoc]; rfl, rfl, .cons rfl link linked, fun c hc => ?_⟩
            rcases List.mem_cons.mp hc with rfl | hc
            · exact ⟨range, mark⟩
            · exact good c hc
      · rw [refillWalk_duplicate range.2 mark] at h
        cases congrArg RefillWalk.failure h
    · rw [refillWalk_badIndex (by unfold inMap at range; omega)] at h
      cases congrArg RefillWalk.failure h

theorem State.closeSplice_quiet (s : State) (w : Word) : Quiet s (s.closeSplice w) := .of_eq rfl rfl rfl rfl rfl rfl rfl

theorem State.spliceRefill_sound (s : State) : Sound s s.spliceRefill := by
  unfold State.spliceRefill
  dsimp only
  split
  · exact .refl s
  · next word =>
    split
    · exact (s.closeSplice_quiet _).sound
    · next passes =>
      have nonzero : (s.word 0x08).toNat ≠ 0 := fun e => word (BitVec.eq_of_toNat_eq e)
      have walk : refillWalk s Config.blocks (s.word 0x08).toNat [] =
          { passed := (refillWalk s Config.blocks (s.word 0x08).toNat []).passed, failure := none } := by rw [← passes]
      obtain ⟨l, blocks, -, linked, good⟩ := refillWalk_passed nonzero walk
      have joins : Sound s (s.joinSpare (refillWalk s Config.blocks (s.word 0x08).toNat []).passed) := by
        rw [blocks]
        exact State.joinSpare_sound linked.nodup good
      exact joins.trans ((State.closeSplice_quiet _ _).trans (State.goTest_quiet _)).sound

end

end Sys2Proof.Machine
end

/-! SUPPORT. The operations that the invariants of the records do not see: transmitters, contacts, mirrors and counts. -/
section
namespace Sys2Proof.Machine

section
variable {s t u : State} {g h : Slot} {p r : Port} {b : Nat}

/-- A change of the ports that keeps what they serve, with memory, notices and counters. -/
theorem Quiet.of_ports (ctl : t.ctl = s.ctl) (slots : t.slots = s.slots) (queues : t.queues = s.queues) (deadlines : t.deadlines = s.deadlines)
    (spare : t.spare = s.spare) (marks : t.marks = s.marks) (ports : ∀ p, (s.port p).alike (t.port p)) : Quiet s t where
  engine := by rw [ctl]
  phase := by rw [ctl]
  clock := by rw [ctl]
  slots g _ := by
    unfold State.slot
    rw [slots]
    exact .refl _
  ports p _ := ports p
  queues := queues
  deadlines := deadlines
  spare := spare
  marks := marks

variable (s) (p)

/-! ### Memory, mirrors and notices -/

theorem State.putWord_quiet (a : Nat) (w : Word) : Quiet s (s.putWord a w) := .of_eq rfl rfl rfl rfl rfl rfl rfl

theorem State.setNotice_quiet (n : NoticeBit) : Quiet s (s.setNotice n) := .of_eq rfl rfl rfl rfl rfl rfl rfl

theorem State.updateCounters_quiet (st : Station) (pair : CounterPair) (f : StationCounters → StationCounters) :
    Quiet s (s.updateCounters st pair f) := .of_eq rfl rfl rfl rfl rfl rfl rfl

theorem State.updateStats_quiet (q : Pool) (f : PoolStats → PoolStats) : Quiet s (s.updateStats q f) := .of_eq rfl rfl rfl rfl rfl rfl rfl

theorem State.handoverFault_quiet (g : Slot) : Quiet s (s.handoverFault g) := .of_eq rfl rfl rfl rfl rfl rfl rfl

theorem State.halveUsage_quiet (st : Station) : Quiet s (s.halveUsage st) := by
  unfold State.halveUsage
  exact .ite (.refl s) (s.updateCounters_quiet st _ _)

/-! ### One port's record -/

theorem State.updatePort_quiet {f : PortRecord → PortRecord} (h : (s.port p).alike (f (s.port p))) : Quiet s (s.updatePort p f) :=
  (State.modifyPort_quiet h).trans (.of_eq rfl rfl rfl rfl rfl rfl rfl)

theorem State.notePort_quiet {f : PortRecord → PortRecord} (h : (s.port p).alike (f (s.port p))) : Quiet s (s.notePort p f) :=
  (State.modifyPort_quiet h).trans (.of_eq rfl rfl rfl rfl rfl rfl rfl)

theorem State.updateLineCounters_quiet (f : LineCounters → LineCounters) : Quiet s (s.updateLineCounters p f) :=
  (State.modifyPort_quiet (f := fun x => { x with counters := f (s.port p).counters }) (.of_eq rfl rfl)).trans
    (.of_eq rfl rfl rfl rfl rfl rfl rfl)

theorem State.updateDiscards_quiet (f : Discards → Discards) : Quiet s (s.updateDiscards p f) :=
  (State.modifyPort_quiet (f := fun x => { x with discards := f (s.port p).discards }) (.of_eq rfl rfl)).trans
    (.of_eq rfl rfl rfl rfl rfl rfl rfl)

theorem State.transmit_quiet (f : Transmitter → Transmitter) : Quiet s (s.transmit p f) := State.modifyPort_quiet (.of_eq rfl rfl)

theorem State.offerFrame_quiet (f : AnswerFrame) : Quiet s (s.offerFrame p f) := s.transmit_quiet p _

theorem State.offerAsk_quiet : Quiet s (s.offerAsk p) := s.transmit_quiet p _

theorem State.reply_quiet (k : ReplyKind) : Quiet s (s.reply p k) := s.transmit_quiet p _

theorem State.modifyScan_quiet (f : ScanService → ScanService) : Quiet s (s.modifyScan p f) := State.modifyPort_quiet (.of_eq rfl rfl)

theorem State.modifyPrint_quiet (f : PrintService → PrintService) : Quiet s (s.modifyPrint p f) := State.modifyPort_quiet (.of_eq rfl rfl)

theorem State.setReceiver_quiet (r : Receiver) : Quiet s (s.setReceiver p r) := State.modifyPort_quiet (.of_eq rfl rfl)

theorem State.setContact_quiet (i : Fin 10) (c : Contact) : Quiet s (s.setContact p i c) := State.modifyPort_quiet (.of_eq rfl rfl)

theorem State.askYield_quiet : Quiet s (s.askYield p) := State.modifyPort_quiet (.of_eq rfl rfl)

theorem State.sampleZones_quiet : Quiet s (s.sampleZones p) := by
  unfold State.sampleZones
  exact .ite (State.modifyPort_quiet (.of_eq rfl rfl)) (.refl s)

theorem State.closeScanFrames_quiet : Quiet s (s.closeScanFrames p) := by
  unfold State.closeScanFrames
  split
  · exact (s.transmit_quiet p _).trans (State.offerFrame_quiet _ p _)
  · exact s.offerFrame_quiet p _
  · exact s.offerFrame_quiet p _
  · exact .refl s
  · exact .refl s

theorem State.clearContacts_quiet : Quiet s (s.clearContacts p) := State.modifyPort_quiet (.of_eq rfl rfl)

/-! ### Contacts and mailboxes (R162 to R174) -/

theorem State.mailboxWrite_quiet (st : Station) (r : Fin 4) (taken : Bool) (m : MailReport) : Quiet s (s.mailboxWrite st r taken m) := by
  unfold State.mailboxWrite
  dsimp only
  split
  · exact .of_eq rfl rfl rfl rfl rfl rfl rfl
  · exact .of_eq rfl rfl rfl rfl rfl rfl rfl

theorem State.clearMailbox_quiet (st : Station) (r : Fin 4) : Quiet s (s.clearMailbox st r) := .of_eq rfl rfl rfl rfl rfl rfl rfl

theorem State.liftEntry_quiet (zones holds : Bool) (after : Contact) (i : Fin 10) : Quiet s (State.liftEntry zones holds p after s i) := by
  have lift (c : Capture) : Quiet s ((s.syntheticUp p i c).setContact p i after) :=
    (s.mailboxWrite_quiet _ _ _ _).trans (State.setContact_quiet _ p i _)
  unfold State.liftEntry
  split
  · exact .ite (lift _) (.refl s)
  · exact .ite (lift _) (.refl s)
  · exact .refl s
  · exact .refl s
  · exact .refl s

theorem State.liftEntries_quiet (zones holds : Bool) (after : Contact) : Quiet s (s.liftEntries p zones holds after) :=
  Quiet.foldl (fun t i => t.liftEntry_quiet p zones holds after i) _ s

theorem State.closeTouch_quiet (st : Station) : Quiet s (s.closeTouch st) :=
  (Quiet.foldl (fun _ _ => State.modifyPort_quiet (.of_eq rfl rfl)) _ s).trans (Quiet.foldl (fun t r => t.clearMailbox_quiet st r) _ _)

theorem State.stopTouch_quiet : Quiet s s.stopTouch :=
  Quiet.foldl (fun t p => (t.liftEntries_quiet p true true .none).trans (State.clearContacts_quiet _ p)) _ s

theorem State.sampleAllZones_quiet : Quiet s s.sampleAllZones := Quiet.foldl State.sampleZones_quiet _ s

/-! ### A served job's record -/

variable {s p}

/-- A port serves a job that is SERVING (R74). -/
theorem State.structured.served (holds : s.structured) (job : (s.port p).job = some g) : (s.slot g).state = .serving :=
  (holds.2.2.1.2.1 p g job).1

theorem SlotState.held_of_work {x : SlotState} (h : x = .queued ∨ x = .serving) : x ≠ .empty ∧ x ≠ .posted := by
  rcases h with rfl | rfl <;> exact ⟨by decide, by decide⟩

/-- A change of a job in work that the invariants do not read. -/
theorem State.updateJob_sound {f : JobRecord → JobRecord} (alike : (s.job g).alike (f (s.job g))) (work : s.structured → s.inWork g) :
    Sound s (s.updateJob g f) :=
  Sound.of_structured rfl fun holds => (State.updateJob_quiet alike (SlotState.held_of_work (work holds))).sound

theorem State.deliver_sound (i : Fin 10) (st : Station) (zone : Nat) (holder : Option Slot) (synthetic : Bool) (x y pressure : Nat)
    (served : ∀ g, holder = some g → (s.port p).job = some g) : Sound s (s.deliver p i st zone holder synthetic x y pressure) := by
  unfold State.deliver
  split
  · next r taken _ =>
    have written := s.mailboxWrite_quiet st r taken { key := (p, i), zone, phase := .down, synthetic, x, y, pressure }
    dsimp only
    split
    · next g =>
      have set := written.trans (State.setContact_quiet _ p i (.hold { station := st, zone, record := r, x, y, pressure }))
      refine set.sound.trans (State.updateJob_sound (g := g) (f := fun j => { j with contactsDelivered := _ }) ⟨rfl, rfl, rfl, rfl, rfl, rfl, rfl, rfl⟩ fun holds => .inr ?_)
      exact holds.served (p := p) ((set.port p).job.trans (served g rfl))
    · exact (written.trans (State.setContact_quiet _ p i _)).sound
  · exact ((s.setContact_quiet p i _).trans (State.updateCounters_quiet _ st _ _)).sound

theorem State.holdOf_job (h : s.holdOf p = some g) : (s.port p).job = some g := by
  unfold State.holdOf at h
  split at h
  · exact h
  · cases h

theorem State.newContact_sound (i : Fin 10) (synthetic : Bool) (x y pressure : Nat) : Sound s (s.newContact p i synthetic x y pressure) := by
  unfold State.newContact
  split
  · next g hold => exact State.deliver_sound i _ _ _ _ _ _ _ fun k e => Option.some.inj e ▸ State.holdOf_job hold
  · split
    · exact .ite (fun _ => (s.updateDiscards_quiet p _).sound) fun _ => State.deliver_sound i _ _ _ _ _ _ _ fun k e => (by cases e)
    · exact (s.updateDiscards_quiet p _).sound

theorem State.capturedReport_sound (i : Fin 10) (c : Capture) (rebuild : Capture → Contact) (phase : TouchPhase) (x y pressure : Nat) :
    Sound s (s.capturedReport p i c rebuild phase x y pressure) := by
  unfold State.capturedReport
  split
  · exact ((s.mailboxWrite_quiet _ _ _ _).trans (State.setContact_quiet _ p i _)).sound.trans (State.newContact_sound i _ _ _ _)
  · exact ((s.mailboxWrite_quiet _ _ _ _).trans (State.setContact_quiet _ p i _)).sound
  · exact ((s.mailboxWrite_quiet _ _ _ _).trans (State.setContact_quiet _ p i _)).sound

theorem State.touch_sound (i : Fin 10) (phase : TouchPhase) (x y pressure : Nat) : Sound s (s.touch p i phase x y pressure) := by
  have forgets : Sound s ((s.setContact p i .none).newContact p i false x y pressure) :=
    (s.setContact_quiet p i _).sound.trans (State.newContact_sound i _ _ _ _)
  unfold State.touch
  split
  · cases phase with
    | down => exact State.newContact_sound i _ _ _ _
    | move => exact State.newContact_sound i _ _ _ _
    | up => exact (s.updateDiscards_quiet p _).sound
  · exact State.capturedReport_sound i _ _ _ _ _ _
  · exact State.capturedReport_sound i _ _ _ _ _ _
  · cases phase with
    | down => exact forgets
    | move => exact .refl s
    | up => exact (s.setContact_quiet p i _).sound
  · cases phase with
    | down => exact forgets
    | move => exact .refl s
    | up => exact (s.setContact_quiet p i _).sound

theorem State.takeReport_sound (s : State) (p : Port) (report : ContactReport) : Sound s (State.takeReport p s report) := by
  unfold State.takeReport
  split
  · exact (s.updateDiscards_quiet p _).sound
  · split
    · exact .ite (fun _ => (s.updateDiscards_quiet p _).sound) fun _ => State.touch_sound _ _ _ _ _
    · exact (s.updateDiscards_quiet p _).sound

end

end Sys2Proof.Machine
end

/-! SUPPORT. A job that is finished, from its queue or from its port, is finished soundly (R19, R36, R37, R56, R93, R155 to R158, R177). -/
section
namespace Sys2Proof.Machine

section
variable {s t u v : State} {g h : Slot} {p r : Port} {o : JobOutcome} {d : Detail} {reported : Option Word} {ps : List Port}

/-! ### The finish as the invariants see it (R182) -/

theorem State.finish_unlent : s.unlent (s.finish g o d reported) g := fun b => by
  split
  · next print => exact State.finish_marks_print print b
  · next print => rw [State.mark_congr (State.finish_marks print)]

theorem State.finish_finishes : Finishes s (s.finish g o d reported) g [] where
  engine := by rw [State.finish_ctl]
  phase := by rw [State.finish_ctl]
  clock := by rw [State.finish_ctl]
  slots h ne := by
    rw [State.finish_slot_ne fun e => ne (List.mem_singleton.mpr e)]
    exact .refl _
  ports r _ := by
    rw [State.finish_port]
    exact .refl _
  finished := congrArg SlotShadow.state State.finish_slot
  own := by
    rw [State.finish_job]
    exact .refl _
  spare := State.finish_spare _ _ _ _ _
  marks := State.finish_unlent

/-- What a port's record does not change. -/
theorem Finishes.at_port (f : Finishes s t g []) (ctl : u.ctl = t.ctl) (slots : u.slots = t.slots) (spare : u.spare = t.spare)
    (marks : u.marks = t.marks) (ports : ∀ r, r ≠ p → (t.port r).alike (u.port r)) : Finishes s u g [p] where
  engine := by rw [ctl]; exact f.engine
  phase := by rw [ctl]; exact f.phase
  clock := by rw [ctl]; exact f.clock
  slots h ne := by
    unfold State.slot
    rw [slots]
    exact f.slots h ne
  ports r ne := (f.ports r List.not_mem_nil).trans (ports r fun e => ne (List.mem_singleton.mpr e))
  finished := by
    unfold State.slot
    rw [slots]
    exact f.finished
  own := by
    unfold State.job State.slot
    rw [slots]
    exact f.own
  spare := spare.trans f.spare
  marks b := by
    rw [State.mark_congr marks]
    exact f.marks b

/-- A job that is finished and leaves its port FREE. -/
theorem State.finishScan_sound (job : (s.port p).job = some g) : Sound s (s.finishScan p g o d reported) := by
  have free : ((s.finishScan p g o d reported).port p) = (s.port p).ended := State.finishScan_port
  have f : Finishes s (s.finishScan p g o d reported) g [p] :=
    (State.finish_finishes (o := o) (d := d) (reported := reported)).at_port rfl rfl rfl rfl fun r ne => by
      rw [State.finishScan, State.releasePort_port_ne _ ne]
      exact .refl _
  exact f.released job (by rw [free]; rfl) (by rw [free]; exact PortState.noConfusion) State.finishScan_queues State.finishScan_deadlines

theorem Quiet.finishScan (q : Quiet s t) (job : (s.port p).job = some g) : Sound s (t.finishScan p g o d reported) :=
  q.sound.trans (State.finishScan_sound ((q.port p).job.trans job))

theorem State.unlent.congr (k : v.unlent t g) (marks : v.marks = s.marks) (job : v.job g = s.job g) : s.unlent t g := fun b => by
  rw [k b, job, State.mark_congr marks, State.mark_congr (State.unlendAll_marks_congr _ marks)]

/-! ### A queued job (R19, R36, R45, R56) -/

theorem State.finishQueued_sound (queued : (s.slot g).state = .queued) : Sound s (s.finishQueued g o d) := by
  have f : Finishes (s.unqueued g) (s.finishQueued g o d) g [] := State.finish_finishes
  exact Finishes.dequeued (s := s) ⟨⟨f.engine, f.phase, f.clock, f.slots, f.ports⟩, f.finished, f.own, f.spare, f.marks.congr rfl rfl⟩ queued
    State.finishQueued_queue State.finishQueued_deadlines

/-- The state of an expiry before the finish. -/
def State.expiryCounted (s : State) (g : Slot) : State :=
  (s.unqueued g).updateStats (s.job g).pool fun x => { x with expiries := saturate max32 x.expiries 1 }

theorem State.expireJob_sound (queued : (s.slot g).state = .queued) : Sound s (s.expireJob g) := by
  have f : Finishes (s.expiryCounted g) (s.expireJob g) g [] := State.finish_finishes
  have queue (q : Pool) : (s.expireJob g).queue q = (s.unqueued g).queue q := by
    unfold State.queue
    rw [show (s.expireJob g).queues = (s.expiryCounted g).queues from State.finish_queues _ _ _ _ _]
    rfl
  exact Finishes.dequeued (s := s) ⟨⟨f.engine, f.phase, f.clock, f.slots, f.ports⟩, f.finished, f.own, f.spare, f.marks.congr rfl rfl⟩ queued
    (fun q => (queue q).trans (s.unqueued_queue g q)) (State.finish_deadlines _ _ _ _ _)

theorem State.deadlineEvent_sound (s : State) : Sound s s.deadlineEvent := by
  unfold State.deadlineEvent
  split
  · next g head =>
    have clock : (s.expireJob g).ctl = s.ctl := by
      show ((s.expiryCounted g).finish g .expired .notGranted none).ctl = s.ctl
      rw [State.finish_ctl]
      rfl
    refine Sound.of_structured (by rw [clock]) fun holds => State.expireJob_sound ?_
    have mem : g ∈ s.deadlines := by
      unfold State.expiredHead at head
      split at head
      · next l eq =>
        split at head
        · split at head
          · exact eq ▸ Option.some.inj head ▸ List.mem_cons_self
          · cases head
        · cases head
      · cases head
    exact ((holds.2.1.2 g).mp mem).1
  · exact .refl s

/-! ### Services that end (R155 to R158, R177, R178) -/

/-- A change of a job's remaining hold time. -/
theorem State.keepHold_sound (job : (s.port p).job = some g) (ms : Nat) : Sound s (s.keepHold g ms) :=
  State.updateJob_sound ⟨rfl, rfl, rfl, rfl, rfl, rfl, rfl, rfl⟩ fun holds => .inr (holds.served job)

theorem State.endScan_sound (job : (s.port p).job = some g) : Sound s (s.endScan p g o d) :=
  (s.closeScanFrames_quiet p).finishScan job

theorem State.starveOut_sound (job : (s.port p).job = some g) : Sound s (s.starveOut p g) :=
  (s.offerFrame_quiet p _).finishScan job

theorem State.imageEndTaken_sound (job : (s.port p).job = some g) (total : Word) : Sound s (s.imageEndTaken p g total) := by
  unfold State.imageEndTaken
  refine .ite (fun _ => .ite (fun _ => ?_) fun _ => ?_) fun _ => .refl s
  · exact (s.reply_quiet p _).finishScan job
  · exact (s.reply_quiet p _).finishScan job

theorem State.holdExpired_sound (job : (s.port p).job = some g) : Sound s (s.holdExpired p g) :=
  (State.keepHold_sound job 0).trans ((State.liftEntries_quiet _ p false true .orphan).finishScan job)

theorem State.holdCancelled_sound (job : (s.port p).job = some g) : Sound s (s.holdCancelled p g) :=
  (State.keepHold_sound job (s.holdLeft p)).trans ((State.liftEntries_quiet _ p false true .orphan).finishScan job)

theorem State.holdClosed_sound (job : (s.port p).job = some g) : Sound s (s.holdClosed p g) := by
  have orphaned : Quiet (s.keepHold g (s.holdLeft p))
      ((s.keepHold g (s.holdLeft p)).modifyPort p fun x => { x with contacts := x.contacts.map orphanHold }) :=
    State.modifyPort_quiet (.of_eq rfl rfl)
  exact (State.keepHold_sound job (s.holdLeft p)).trans (orphaned.finishScan job)

theorem State.holdStopped_sound (job : (s.port p).job = some g) : Sound s (s.holdStopped p g) :=
  (State.keepHold_sound job (s.holdLeft p)).trans (State.finishScan_sound job)

end

end Sys2Proof.Machine
end

/-! SUPPORT. A job that is queued again is queued soundly, and so is what follows of a print's step (R85, R90 to R93, R127, R132). -/
section
namespace Sys2Proof.Machine

section
variable {s t u v : State} {g h : Slot} {p r : Port} {o : JobOutcome} {d : Detail} {c : Option Condition}

theorem State.slot_congr (slots : t.slots = s.slots) (g : Slot) : t.slot g = s.slot g := by
  unfold State.slot
  rw [slots]

theorem State.job_congr (slots : t.slots = s.slots) (g : Slot) : t.job g = s.job g := congrArg SlotShadow.job (State.slot_congr slots g)

theorem State.queue_congr (queues : t.queues = s.queues) (q : Pool) : t.queue q = s.queue q := by
  unfold State.queue
  rw [queues]

/-! ### Back into the queue (R62, R90, R91) -/

theorem State.rejoined_queues (s : State) (g : Slot) (q : Pool) : (s.rejoined g).queue q =
    if q = (s.job g).pool then insertBefore (s.handSlot g .queued).precedes g (s.queue q) else s.queue q := by
  have pool : ((s.handSlot g .queued).job g).pool = (s.job g).pool := by rw [State.handSlot_job]
  split
  · next e =>
    rw [e, ← pool]
    exact State.queue_joinQueue _ g
  · next e => exact State.queue_joinQueue_ne _ (by rw [pool]; exact e)

/-- The place in a queue that a re-queue gives is that of the wait. -/
theorem State.rejoined_joins (ctl : t.ctl = s.ctl) (stamps : ∀ x, (t.job x).acceptStamp = (s.job x).acceptStamp)
    (queues : ∀ q, t.queue q = (s.rejoined g).queue q) : ∃ precedes : Slot → Slot → Bool, (∀ x, precedes g x = true ↔ t.stands g x) ∧
      ∀ q, t.queue q = if q = (s.job g).pool then insertBefore precedes g (s.queue q) else s.queue q := by
  refine ⟨(s.handSlot g .queued).precedes, fun x => ?_, fun q => (queues q).trans (s.rejoined_queues g q)⟩
  have waits (y : Slot) : (s.handSlot g .queued).waits y = t.waits y :=
    State.waits_eq (by rw [State.handSlot_ctl, ctl]) (by rw [State.handSlot_job, stamps])
  rw [State.precedes_iff]
  exact State.stands_eq (waits g) (waits x)

/-- A change of a record that a re-queue makes. -/
structure RequeueForm (f : JobRecord → JobRecord) : Prop where
  alike : ∀ j : JobRecord, j.alike (f j)

theorem RequeueForm.interrupted : RequeueForm JobRecord.interrupted := ⟨fun _ => ⟨rfl, rfl, rfl, rfl, rfl, rfl, rfl, rfl⟩⟩

theorem RequeueForm.faulted : RequeueForm JobRecord.faulted := ⟨fun _ => ⟨rfl, rfl, rfl, rfl, rfl, rfl, rfl, rfl⟩⟩

section
variable {f : JobRecord → JobRecord} {k : PoolStats → PoolStats}

theorem State.requeuedWith_alike (form : RequeueForm f) (h : Slot) : (s.job h).alike ((s.requeuedWith g f k).job h) := by
  by_cases e : h = g
  · subst e
    rw [State.requeuedWith_job]
    exact form.alike _
  · unfold State.job
    rw [State.requeuedWith_slotsKept h fun m => e (List.mem_singleton.mp m)]
    exact .refl _

theorem State.requeuedWith_state : ((s.requeuedWith g f k).slot g).state = .queued := by rw [State.requeuedWith_slot]

/-- A re-queue whose port becomes FREE. -/
theorem State.requeuedWith_releases (form : RequeueForm f) : Requeues s ((s.requeuedWith g f k).releasePort p) g p where
  engine := by rw [State.releasePort_ctl, State.requeuedWith_ctl]
  phase := by rw [State.releasePort_ctl, State.requeuedWith_ctl]
  clock := by rw [State.releasePort_ctl, State.requeuedWith_ctl]
  slots h ne := by
    rw [State.slot_congr (State.releasePort_slots _ p), State.requeuedWith_slotsKept h ne]
    exact .refl _
  ports r ne := by
    rw [State.releasePort_port_ne _ fun e => ne (List.mem_singleton.mpr e), State.requeuedWith_port]
    exact .refl _
  queued := by rw [State.slot_congr (State.releasePort_slots _ p), State.requeuedWith_state]
  own := by
    rw [State.job_congr (State.releasePort_slots _ p)]
    exact State.requeuedWith_alike form g
  free := by
    rw [State.releasePort_port]
    rfl
  rests := by
    rw [State.releasePort_port]
    exact PortState.noConfusion
  joins := by
    refine State.rejoined_joins (by rw [State.releasePort_ctl, State.requeuedWith_ctl]) (fun x => ?_) fun q => ?_
    · rw [State.job_congr (State.releasePort_slots _ p)]
      exact (State.requeuedWith_alike form x).acceptStamp
    · rw [State.queue_congr (State.releasePort_queues _ p), State.requeuedWith_queue]
  deadlines := by rw [State.releasePort_deadlines, State.requeuedWith_deadlines]
  spare := by rw [State.releasePort_spare, State.requeuedWith_spare]
  marks := by rw [State.releasePort_marks, State.requeuedWith_marks]

end

/-- A part that serves, and does not drain, runs. -/
theorem State.structured.running (holds : s.structured) (job : (s.port p).job = some g) (engine : s.ctl.engine ≠ .draining) :
    s.ctl.engine = .running := by
  have sweeps := holds.sweeps (g := g) (.inr (holds.served job))
  cases e : s.ctl.engine with
  | running => rfl
  | draining => exact absurd e engine
  | wiping => rw [e] at sweeps; cases sweeps
  | stopped => rw [e] at sweeps; cases sweeps
  | starting => rw [e] at sweeps; cases sweeps

theorem State.requeuePreempted_releases_sound (job : (s.port p).job = some g) (engine : s.ctl.engine ≠ .draining) :
    Sound s ((s.requeuePreempted g).releasePort p) := by
  have f : Requeues s ((s.requeuePreempted g).releasePort p) g p := State.requeuedWith_releases .interrupted
  exact Sound.of_structured f.clock fun holds => f.sound (holds.running job engine) job

theorem State.holdPreempted_sound (job : (s.port p).job = some g) (engine : s.ctl.engine ≠ .draining) : Sound s (s.holdPreempted p g) := by
  have lifted := State.liftEntries_quiet (s.keepLeft p g) p false true .orphan
  refine (State.keepHold_sound job (max 1 (s.holdLeft p))).trans (lifted.sound.trans ?_)
  exact State.requeuePreempted_releases_sound ((lifted.port p).job.trans job) (by rw [lifted.engine]; exact engine)

/-! ### Back into the queue by a fault (R91, R144) -/

/-- What a fault end leaves of a service that is queued again. -/
def State.faultedAgain (s : State) (p : Port) (g : Slot) (c : Option Condition) : State := (s.requeueByFault p g).enterFaulted p c

/-- The state of a re-queue by fault before the return of the blocks. -/
def State.faultUnserved (s : State) (p : Port) (g : Slot) : State :=
  (s.requeuedWith g JobRecord.faulted PoolStats.requeued).modifyScan p fun _ => {}

theorem State.givenBack_ctl (s : State) (g : Slot) : (s.givenBack g).ctl = s.ctl := State.joinSpare_ctl s _

theorem State.givenBack_queues (s : State) (g : Slot) : (s.givenBack g).queues = s.queues := State.joinSpare_queues s _

theorem State.givenBack_deadlines (s : State) (g : Slot) : (s.givenBack g).deadlines = s.deadlines := State.joinSpare_deadlines s _

theorem State.givenBack_port (s : State) (g : Slot) (r : Port) : (s.givenBack g).port r = s.port r := by
  unfold State.port
  rw [show (s.givenBack g).ports = s.ports from State.joinSpare_ports s _]

theorem State.givenBack_slot (s : State) (g : Slot) : (s.givenBack g).slot g = { s.slot g with job := { s.job g with resultChain := [] } } := by
  rw [State.givenBack, State.updateJob, State.slot_setSlot, State.joinSpare_jobs]
  unfold State.slot
  rw [State.joinSpare_slots]

theorem State.givenBack_slot_ne (s : State) (ne : h ≠ g) : (s.givenBack g).slot h = s.slot h := by
  rw [State.givenBack, State.updateJob, State.slot_setSlot_ne _ ne]
  unfold State.slot
  rw [State.joinSpare_slots]

/-- Blocks given back look alike in parts of the same chains. -/
theorem State.joinSpare_alike (spare : t.spare = s.spare) (marks : t.marks = s.marks) (l : List Nat) :
    (t.joinSpare l).spare = (s.joinSpare l).spare ∧ (t.joinSpare l).marks = (s.joinSpare l).marks := by
  cases l with
  | nil => exact ⟨spare, marks⟩
  | cons first rest =>
    rw [State.joinSpare_eq, State.joinSpare_eq]
    exact ⟨congrArg (· ++ first :: rest) spare, State.markAll_marks_congr marks _ _⟩

theorem State.givenBack_blocks (spare : t.spare = s.spare) (marks : t.marks = s.marks)
    (chain : (t.job g).resultChain = (s.job g).resultChain) : (t.givenBack g).spare = (s.givenBack g).spare ∧
      (t.givenBack g).marks = (s.givenBack g).marks := by
  have same := State.joinSpare_alike spare marks (s.job g).resultChain
  unfold State.givenBack
  rw [chain]
  exact same

theorem State.faultUnserved_port_ne (ne : r ≠ p) : (s.faultUnserved p g).port r = s.port r := by
  rw [State.faultUnserved, State.modifyScan, State.port_modifyPort_ne _ ne, State.requeuedWith_port]

theorem State.faultUnserved_slots : (s.faultUnserved p g).slots = (s.requeuedWith g JobRecord.faulted PoolStats.requeued).slots :=
  State.modifyScan_slots _ p _

theorem State.faultUnserved_slot : (s.faultUnserved p g).slot g = { s.slot g with state := .queued, job := (s.job g).faulted } := by
  rw [State.slot_congr State.faultUnserved_slots, State.requeuedWith_slot]

theorem State.faultUnserved_slot_ne (ne : h ≠ g) : (s.faultUnserved p g).slot h = s.slot h := by
  rw [State.slot_congr State.faultUnserved_slots, State.requeuedWith_slotsKept h fun m => ne (List.mem_singleton.mp m)]

/-- The state before the entry to FAULTED, up to what the invariants do not read. -/
theorem State.requeueByFault_quiet : Quiet ((s.faultUnserved p g).givenBack g) (s.requeueByFault p g) :=
  State.returnResults_quiet _ g

theorem State.enterFaulted_unserved : ((s.enterFaulted p c).port p).job = none := by
  obtain ⟨cut, port⟩ := State.enterFaulted_port (s := s) (p := p) (c := c)
  rw [port]
  rfl

/-! What a re-queue by fault comes to, behind the return of the blocks. -/

theorem State.faultUnserved_ctl : (s.faultUnserved p g).ctl = s.ctl :=
  (State.modifyScan_ctl _ p _).trans State.requeuedWith_ctl

theorem State.faultUnserved_back : ((s.faultUnserved p g).givenBack g).slot g =
    { s.slot g with state := .queued, job := { (s.job g).faulted with resultChain := [] } } := by
  rw [State.givenBack_slot, State.job, State.faultUnserved_slot]

theorem State.faultUnserved_back_ne (ne : h ≠ g) : ((s.faultUnserved p g).givenBack g).slot h = s.slot h := by
  rw [State.givenBack_slot_ne _ ne, State.faultUnserved_slot_ne ne]

theorem State.faultUnserved_blocks : ((s.faultUnserved p g).givenBack g).spare = (s.givenBack g).spare ∧
    ((s.faultUnserved p g).givenBack g).marks = (s.givenBack g).marks := by
  refine State.givenBack_blocks ((State.modifyScan_spare _ p _).trans State.requeuedWith_spare)
    ((State.modifyScan_marks _ p _).trans State.requeuedWith_marks) ?_
  rw [State.job, State.faultUnserved_slot]
  rfl

theorem State.faultedAgain_slot (h : Slot) : (s.faultedAgain p g c).slot h = (s.requeueByFault p g).slot h :=
  State.slot_congr (State.enterFaulted_slots _ p c) h

theorem State.faultedAgain_alike (h : Slot) : ((s.givenBack g).job h).alike ((s.faultedAgain p g c).job h) := by
  have last := ((State.requeueByFault_quiet (s := s) (p := p) (g := g)).slot h).job
  rw [← State.faultedAgain_slot (c := c) h] at last
  refine JobRecord.alike.trans ?_ last
  by_cases e : h = g
  · subst e
    rw [State.job, State.faultUnserved_back, State.givenBack_slot]
    exact ⟨rfl, rfl, rfl, rfl, rfl, rfl, rfl, rfl⟩
  · rw [State.job, State.faultUnserved_back_ne e, State.givenBack_slot_ne _ e]
    exact .refl _

theorem State.faultedAgain_ctl : (s.faultedAgain p g c).ctl.engine = s.ctl.engine ∧
    (s.faultedAgain p g c).ctl.startPhase = s.ctl.startPhase ∧ (s.faultedAgain p g c).ctl.clock = s.ctl.clock := by
  have q := State.requeueByFault_quiet (s := s) (p := p) (g := g)
  rw [State.faultedAgain, State.enterFaulted_ctl, q.engine, q.phase, q.clock, State.givenBack_ctl, State.faultUnserved_ctl]
  exact ⟨rfl, rfl, rfl⟩

theorem State.faultUnserved_queues : (s.faultUnserved p g).queues = (s.requeuedWith g JobRecord.faulted PoolStats.requeued).queues :=
  State.modifyScan_queues _ p _

theorem State.faultedAgain_queues : (s.faultedAgain p g c).queues = (s.requeueByFault p g).queues := State.enterFaulted_queues _ p c

theorem State.faultUnserved_queue (q : Pool) : (s.faultUnserved p g).queue q = (s.rejoined g).queue q := by
  rw [State.queue_congr State.faultUnserved_queues, State.requeuedWith_queue]

theorem State.faultedAgain_queue (q : Pool) : (s.faultedAgain p g c).queue q = (s.rejoined g).queue q := by
  rw [State.queue_congr State.faultedAgain_queues, (State.requeueByFault_quiet (s := s) (p := p) (g := g)).queue,
    State.queue_congr (State.givenBack_queues _ g), State.faultUnserved_queue]

theorem State.faultedAgain_deadlines : (s.faultedAgain p g c).deadlines = (s.givenBack g).deadlines := by
  rw [State.faultedAgain, State.enterFaulted_deadlines, (State.requeueByFault_quiet (s := s) (p := p) (g := g)).deadlines,
    State.givenBack_deadlines, State.givenBack_deadlines]
  exact (State.modifyScan_deadlines _ p _).trans State.requeuedWith_deadlines

theorem State.givenBack_job_stamp (h : Slot) : ((s.givenBack g).job h).acceptStamp = (s.job h).acceptStamp := by
  by_cases e : h = g
  · subst e
    rw [State.job, State.givenBack_slot]
  · rw [State.job, State.givenBack_slot_ne _ e]
    rfl

theorem State.faultedAgain_joins : ∃ precedes : Slot → Slot → Bool, (∀ x, precedes g x = true ↔ (s.faultedAgain p g c).stands g x) ∧
    ∀ q, (s.faultedAgain p g c).queue q =
      if q = ((s.givenBack g).job g).pool then insertBefore precedes g ((s.givenBack g).queue q) else (s.givenBack g).queue q := by
  have pool : ((s.givenBack g).job g).pool = (s.job g).pool := by rw [State.job, State.givenBack_slot]
  have waits (y : Slot) : (s.handSlot g .queued).waits y = (s.faultedAgain p g c).waits y :=
    State.waits_eq (by rw [State.handSlot_ctl, State.faultedAgain_ctl.2.2])
      (by rw [State.handSlot_job, (State.faultedAgain_alike y).acceptStamp, State.givenBack_job_stamp])
  refine ⟨(s.handSlot g .queued).precedes, fun x => ?_, fun q => ?_⟩
  · rw [State.precedes_iff]
    exact State.stands_eq (waits g) (waits x)
  · rw [State.faultedAgain_queue, State.rejoined_queues, pool, State.queue_congr (State.givenBack_queues s g)]

theorem State.faultedAgain_requeues : Requeues (s.givenBack g) (s.faultedAgain p g c) g p := by
  have q := State.requeueByFault_quiet (s := s) (p := p) (g := g)
  obtain ⟨engine, phase, clock⟩ := State.faultedAgain_ctl (s := s) (p := p) (g := g) (c := c)
  obtain ⟨spare, marks⟩ := State.faultUnserved_blocks (s := s) (p := p) (g := g)
  refine ⟨⟨?_, ?_, ?_, fun x ne => ?_, fun x ne => ?_⟩, ?_, State.faultedAgain_alike g, State.enterFaulted_unserved, ?_,
    State.faultedAgain_joins, State.faultedAgain_deadlines, ?_, ?_⟩
  · rw [engine, State.givenBack_ctl]
  · rw [phase, State.givenBack_ctl]
  · rw [clock, State.givenBack_ctl]
  · have ne : x ≠ g := fun e => ne (List.mem_singleton.mpr e)
    have slot := q.slot x
    rw [State.faultUnserved_back_ne ne, ← State.faultedAgain_slot (c := c)] at slot
    rw [State.givenBack_slot_ne _ ne]
    exact slot
  · have ne : x ≠ p := fun e => ne (List.mem_singleton.mpr e)
    have port := q.port x
    rw [State.givenBack_port, State.faultUnserved_port_ne ne] at port
    rw [State.faultedAgain, State.enterFaulted_port_ne ne, State.givenBack_port]
    exact port
  · rw [State.faultedAgain_slot, (q.slot g).state, State.faultUnserved_back]
  · rw [State.faultedAgain, State.enterFaulted_state]
    exact PortState.noConfusion
  · rw [State.faultedAgain, State.enterFaulted_spare, q.spare, spare]
  · rw [State.faultedAgain, State.enterFaulted_marks, q.marks, marks]

theorem State.faultedAgain_sound (job : (s.port p).job = some g) (engine : s.ctl.engine ≠ .draining) :
    Sound s (s.faultedAgain p g c) := by
  have back := s.givenBack_sound g
  have again : Sound (s.givenBack g) (s.faultedAgain p g c) := by
    have f := State.faultedAgain_requeues (s := s) (g := g) (p := p) (c := c)
    have at_p : ((s.givenBack g).port p).job = some g := by rw [State.givenBack_port]; exact job
    exact Sound.of_structured f.clock fun holds => f.sound (holds.running at_p (by rw [State.givenBack_ctl]; exact engine)) at_p
  exact back.trans again

end

end Sys2Proof.Machine
end

/-! SUPPORT. A review is sound, and so is a service's start and its end by fault (R65, R66, R73, R74, R91 to R93, R120, R121). -/
section
namespace Sys2Proof.Machine

section
variable {s t u v : State} {g h : Slot} {p r : Port} {q : Pool} {o : JobOutcome} {d : Detail} {c : Option Condition}

/-! ### What a print's step comes to (R127, R132) -/

theorem Worked.quiet (w : Worked s t p g) (holds : s.structured) (job : (s.port p).job = some g) : Quiet s t := by
  have rest := w.rest
  refine ⟨⟨by rw [rest], by rw [rest], by rw [rest], fun h _ => ?_, fun r _ => ?_⟩, by rw [rest], by rw [rest], by rw [rest], by rw [rest]⟩
  · by_cases known : h = g ∨ ∃ q, h ∈ s.queue q
    · obtain ⟨aged, done, slot, -⟩ := w.slot h
      have work : s.inWork h := by
        rcases known with rfl | ⟨q, mem⟩
        · exact .inr (holds.served job)
        · exact .inl (((holds.1 q).2 h).mp mem).1
      have held := SlotState.held_of_work work
      rw [slot]
      exact ⟨rfl, ⟨rfl, rfl, rfl, rfl, rfl, rfl, rfl, rfl⟩, fun k => k.elim (fun e => absurd e held.1) fun e => absurd e held.2⟩
    · rw [w.still h (fun e => known (.inl e)) fun q mem => known (.inr ⟨q, mem⟩)]
      exact .refl _
  · by_cases e : r = p
    · subst e
      obtain ⟨print, transmitter, port⟩ := w.port
      rw [port]
      exact .of_eq rfl rfl
    · rw [w.others r fun k => e (List.mem_singleton.mp k)]
      exact .refl _

theorem Worked.sound (w : Worked s t p g) (job : (s.port p).job = some g) : Sound s t :=
  Sound.of_structured (by rw [w.rest]) fun holds => (w.quiet holds job).sound

theorem Worked.job (w : Worked s t p g) : (t.port p).job = (s.port p).job := by
  obtain ⟨print, transmitter, port⟩ := w.port
  rw [port]

theorem State.resumeAt_sound (job : (s.port p).job = some g) (copy sheet : Nat) : Sound s (s.resumeAt g copy sheet) :=
  State.updateJob_sound ⟨rfl, rfl, rfl, rfl, rfl, rfl, rfl, rfl⟩ fun holds => .inr (holds.served job)

theorem PrintStep.sound (step : PrintStep s p g t) (job : (s.port p).job = some g) : Sound s t := by
  cases step with
  | works work => exact work.sound job
  | ends work o d => exact (work.sound job).trans (State.finishScan_sound (work.job.trans job))
  | @yields t work copy sheet _ engine =>
    have at_p : (t.port p).job = some g := work.job.trans job
    have ctl : t.ctl = s.ctl := by rw [work.rest]
    exact (work.sound job).trans ((State.resumeAt_sound at_p copy sheet).trans
      (State.requeuePreempted_releases_sound at_p (by rw [show (t.resumeAt g copy sheet).ctl = t.ctl from rfl, ctl]; exact engine)))

/-! ### A service starts (R74, R126, R151, R176) -/

theorem State.startScan_sound (job : (s.port p).job = some g) : Sound s (s.startScan p g) := by
  have flagged : Sound s (if (s.port p).capability < (s.job g).resolution then
      s.updateJob g fun j => { j with clamps := { j.clamps with resolution := true } } else s) :=
    .ite (fun _ => State.updateJob_sound ⟨rfl, rfl, rfl, rfl, rfl, rfl, rfl, rfl⟩ fun holds => .inr (holds.served job)) fun _ => .refl s
  exact flagged.trans ((State.modifyScan_quiet _ p _).trans (State.offerFrame_quiet _ p _)).sound

theorem State.startHold_sound : Sound s (s.startHold p g) :=
  ((State.modifyPort_quiet (.of_eq rfl rfl)).trans (State.liftEntries_quiet _ p true false .orphan)).sound

theorem State.startService_sound (job : (s.port p).job = some g) : Sound s (s.startService p g) := by
  unfold State.startService
  split
  · exact (s.startPrint_step p g).sound job
  · exact State.startScan_sound job
  · exact State.startHold_sound
  · exact .refl s
  · exact .refl s

/-! ### A grant (R73, R74) -/

theorem State.paired_grants (rank : Nat) : Grants s (s.paired g rank p) g p where
  engine := by rw [State.paired_ctl]
  phase := by rw [State.paired_ctl]
  clock := by rw [State.paired_ctl]
  slots h ne := by
    rw [State.paired_slotsKept h ne]
    exact .refl _
  ports r ne := by
    rw [State.paired_portsKept r ne]
    exact .refl _
  serving := congrArg SlotShadow.state State.paired_slot
  cls := by rw [State.paired_job]; rfl
  chain := by rw [State.paired_job]; rfl
  resultChain := by rw [State.paired_job]; rfl
  acceptStamp := by rw [State.paired_job]; rfl
  mine := congrArg JobRecord.port State.paired_job
  granted := by
    rw [State.paired_job]
    exact Option.some_ne_none _
  job := congrArg PortRecord.job State.paired_port
  serves := congrArg PortRecord.state State.paired_port
  queues := State.paired_queue
  deadlines := State.paired_deadlines
  spare := State.paired_spare
  marks := State.paired_marks

theorem State.grant_sound (queued : (s.slot g).state = .queued) (free : (s.port p).state = .free) (running : s.ctl.engine = .running)
    (rank : Nat) : Sound s (s.grant g rank p) := by
  have paired := (State.paired_grants (s := s) (g := g) (p := p) rank).sound queued (by rw [free]; exact PortState.noConfusion) running
  rw [State.grant_eq]
  exact paired.trans (State.startService_sound (congrArg PortRecord.job State.paired_port))

/-! ### A review (R65, R66) -/

theorem State.latchAged_sound (work : s.structured → s.inWork g) : Sound s (s.latchAged g) := by
  unfold State.latchAged
  dsimp only
  exact .ite (fun _ => State.updateJob_sound ⟨rfl, rfl, rfl, rfl, rfl, rfl, rfl, rfl⟩ work) fun _ => .refl s

theorem State.latchAll_sound (l : List Slot) : ∀ s : State, (s.structured → ∀ h ∈ l, s.inWork h) → Sound s (s.latchAll l) := by
  induction l with
  | nil => exact fun s _ => .refl s
  | cons g rest ih =>
    intro s work
    have first : Sound s (s.latchAged g) := State.latchAged_sound fun holds => work holds g List.mem_cons_self
    refine Sound.of_structured (by rw [State.latchAll_rest]) fun holds => first.trans (ih _ fun _ h hh => ?_)
    have mem := work holds h (List.mem_cons_of_mem g hh)
    obtain ⟨_, slot⟩ := s.latchAged_slot g h
    unfold State.inWork at *
    rw [slot]
    exact mem

theorem State.latchQueue_sound (s : State) (q : Pool) : Sound s (s.latchAll (s.queue q)) :=
  State.latchAll_sound _ s fun holds h hh => .inl (((holds.1 q).2 h).mp hh).1

theorem State.bestWaiting_mem {ranks : List (Slot × Nat)} {excluded : List Slot} (h : s.bestWaiting q ranks excluded = some g) :
    g ∈ s.queue q := (List.mem_filter.mp (firstBest_mem _ h)).1

theorem State.holdPreempted_queued : ((s.holdPreempted p g).slot g).state = .queued := by
  have slots : (s.holdPreempted p g).slots = (s.holdRequeued p g).slots := State.releasePort_slots _ p
  rw [State.slot_congr slots]
  exact State.requeuedWith_state

theorem State.reviewRounds_sound (ranks : List (Slot × Nat)) : ∀ (n : Nat) (excluded : List Slot) (s : State), s.ctl.engine = .running →
    s.structured → Sound s (State.reviewRounds q ranks n excluded s)
  | 0, _, s, _, _ => .refl s
  | n + 1, excluded, s, running, holds => by
    unfold State.reviewRounds
    split
    · exact .refl s
    · next g best =>
      split
      · next p found =>
        have queued := (((holds.1 q).2 g).mp (State.bestWaiting_mem best)).1
        have granted := State.grant_sound queued (State.freePort_free found) running (rankIn ranks g)
        exact granted.trans
          (State.reviewRounds_sound ranks n excluded _ (by rw [State.grant_ctl]; exact running) (granted.structured holds))
      · split
        · exact .refl s
        · exact (s.askYield_quiet _).sound
        · next p h ends =>
          have held := State.holdPreempted_sound (s := s) (State.preemption_endHold ends).2 (by rw [running]; exact Engine.noConfusion)
          have aged : Sound (s.holdPreempted p h) ((s.holdPreempted p h).latchAged h) :=
            State.latchAged_sound fun _ => .inl State.holdPreempted_queued
          exact (held.trans aged).trans (State.reviewRounds_sound ranks n _ _
            (by rw [State.latchAged_ctl, State.holdPreempted_ctl]; exact running) ((held.trans aged).structured holds))

theorem State.review_sound (s : State) (q : Pool) : Sound s (s.review q) := by
  refine Sound.of_structured (by rw [(s.review_tame q).ctl]) fun holds => ?_
  have latched := s.latchQueue_sound q
  unfold State.review
  split
  · next running =>
    exact latched.trans (State.reviewRounds_sound _ _ _ _ (by rw [State.latchAll_rest]; exact running) (latched.structured holds))
  · exact latched
  · exact .refl s
  · exact .refl s
  · exact .refl s

theorem State.reviewAll_sound (s : State) : Sound s s.reviewAll := Sound.foldl State.review_sound _ s

theorem State.reviewFreed_sound (s : State) (p : Port) : Sound s (s.reviewFreed p) := .ite (fun _ => s.review_sound _) fun _ => .refl s

theorem State.reviewEnded_sound (s before : State) (p : Port) : Sound s (s.reviewEnded before p) :=
  .ite (fun _ => s.reviewFreed_sound p) fun _ => .refl s

/-! ### Entries to FAULTED and FREE, and the end by fault (R91 to R93, R120, R121) -/

/-- A port that does not serve keeps that through a change of its state. -/
theorem State.structured.idle (holds : s.structured) (rests : (s.port p).state ≠ .serving) : (s.port p).job = none := by
  by_contra some
  exact rests ((holds.2.2.1.1 p).mpr some)

theorem State.enterFaulted_sound (rests : (s.port p).state ≠ .serving) : Sound s (s.enterFaulted p c) := by
  refine Sound.of_structured (by rw [State.enterFaulted_ctl]) fun holds => Quiet.sound ?_
  refine .of_ports (State.enterFaulted_ctl _ _ _) (State.enterFaulted_slots _ _ _) (State.enterFaulted_queues _ _ _)
    (State.enterFaulted_deadlines _ _ _) (State.enterFaulted_spare _ _ _) (State.enterFaulted_marks _ _ _) fun r => ?_
  by_cases e : r = p
  · subst e
    refine ⟨State.enterFaulted_unserved.trans (holds.idle rests).symm, fun k => ?_, fun k => absurd k rests⟩
    exact absurd k (by rw [State.enterFaulted_state]; exact PortState.noConfusion)
  · rw [State.enterFaulted_port_ne e]
    exact .refl _

theorem State.enterFree_sound (rests : (s.port p).state ≠ .serving) : Sound s (s.enterFree p) := by
  have free : Quiet s (s.updatePort p fun x => { x with state := .free, condition := .ready, probeTimer := none }) :=
    s.updatePort_quiet p ⟨rfl, fun k => (by cases k), fun k => absurd k rests⟩
  exact (free.trans (State.setNotice_quiet _ _)).sound.trans (State.review_sound _ _)

theorem State.finish_enterFaulted_sound (job : (s.port p).job = some g) : Sound s ((s.finish g o d none).enterFaulted p c) := by
  have f : Finishes s ((s.finish g o d none).enterFaulted p c) g [p] :=
    (State.finish_finishes (o := o) (d := d) (reported := none)).at_port (State.enterFaulted_ctl _ _ _) (State.enterFaulted_slots _ _ _)
      (State.enterFaulted_spare _ _ _) (State.enterFaulted_marks _ _ _) fun r ne => by
        rw [State.enterFaulted_port_ne ne]
        exact .refl _
  exact f.released job State.enterFaulted_unserved (by rw [State.enterFaulted_state]; exact PortState.noConfusion)
    (by rw [State.enterFaulted_queues, State.finish_queues]) (by rw [State.enterFaulted_deadlines, State.finish_deadlines])

theorem State.keepProgress_sound (job : (s.port p).job = some g) : Sound s (s.keepProgress p g) := by
  unfold State.keepProgress
  split
  · exact State.updateJob_sound ⟨rfl, rfl, rfl, rfl, rfl, rfl, rfl, rfl⟩ fun holds => .inr (holds.served job)
  · exact State.keepHold_sound job _
  · exact .refl s
  · exact .refl s
  · exact .refl s

theorem State.faultFinish_draining (h : s.faultFinish g = none) : s.ctl.engine ≠ .draining := by
  intro draining
  unfold State.faultFinish at h
  dsimp only at h
  split at h
  · cases h
  split at h
  · cases h
  split at h
  · cases h
  cases h

theorem State.keepProgress_same : (s.keepProgress p g).ctl = s.ctl ∧ (s.keepProgress p g).ports = s.ports := by
  unfold State.keepProgress
  split <;> exact ⟨rfl, rfl⟩

theorem State.faultEnd_sound (job : (s.port p).job = some g) : Sound s (s.faultEnd p g c) := by
  obtain ⟨ctl, ports⟩ := State.keepProgress_same (s := s) (p := p) (g := g)
  have at_p : ((s.keepProgress p g).port p).job = some g := by
    unfold State.port
    rw [ports]
    exact job
  unfold State.faultEnd
  dsimp only
  split
  · exact (State.keepProgress_sound job).trans (State.finish_enterFaulted_sound at_p)
  · next again =>
    refine (State.keepProgress_sound job).trans ((State.faultedAgain_sound at_p ?_).trans (State.review_sound _ _))
    rw [ctl]
    exact State.faultFinish_draining again

theorem State.faultAt_sound (s : State) (p : Port) (c : Condition) : Sound s (s.faultAt p c) := by
  unfold State.faultAt
  split
  · next e => exact State.enterFaulted_sound (by rw [e]; exact PortState.noConfusion)
  · next e => exact State.enterFaulted_sound (by rw [e]; exact PortState.noConfusion)
  · split
    · next g job => exact State.faultEnd_sound job
    · exact .refl s
  · exact (s.notePort_quiet p (.of_eq rfl rfl)).sound
  · exact .refl s

end

end Sys2Proof.Machine
end

/-! SUPPORT. The acceptance and the examination of a slot are sound, and so are the changes of a station's state (R26 to R38, R44 to
R46). -/
section
namespace Sys2Proof.Machine

section
variable {s t u v : State} {g h : Slot} {p r : Port} {q : Pool} {o : JobOutcome} {d : Detail} {c : Option Condition}

/-! ### A request finished at once (R31, R34) -/

theorem State.finishedAt_refuses {codes : ResultCodes} (slots : t.slots = s.slots.set g.val { s.slot g with state := .finished, codes := codes })
    (ctl : t.ctl = s.ctl) (ports : t.ports = s.ports) (queues : t.queues = s.queues) (deadlines : t.deadlines = s.deadlines)
    (spare : t.spare = s.spare) (marks : t.marks = s.marks) : Refuses s t g := by
  have own : t.slot g = { s.slot g with state := .finished, codes := codes } := by
    unfold State.slot
    rw [slots]
    exact Vector.getElem_set_self _
  refine ⟨⟨by rw [ctl], by rw [ctl], by rw [ctl], fun h ne => ?_, fun r _ => ?_⟩, by rw [own], ?_, queues, deadlines, spare, marks⟩
  · have same : t.slot h = s.slot h := by
      unfold State.slot
      rw [slots]
      exact Vector.getElem_set_ne _ _ fun e => ne (List.mem_singleton.mpr (Fin.ext e.symm))
    rw [same]
    exact .refl _
  · unfold State.port
    rw [ports]
    exact .refl _
  · rw [State.job, own]
    rfl

theorem State.refuse_refuses (cls : Option JobClass) (d : Detail) : Refuses s (s.refuse g cls d) g :=
  State.finishedAt_refuses State.refuse_slots (s.refuse_ctl _ _ _) (s.refuse_ports _ _ _) (s.refuse_queues _ _ _) (s.refuse_deadlines _ _ _)
    (s.refuse_spare _ _ _) (s.refuse_marks _ _ _)

theorem State.cancelBeforeAccept_slots (s : State) (g : Slot) (cls : Option JobClass) (clamps : ClampFlags) :
    (s.cancelBeforeAccept g cls clamps).slots =
      s.slots.set g.val { s.slot g with state := .finished, codes := { outcome := .cancelled, detail := .beforeAccept } } := by
  unfold State.cancelBeforeAccept
  rw [State.closeFinish_slots]
  unfold State.slot
  rw [State.putWord_slots, State.writeResults_slots]

theorem State.cancelBeforeAccept_refuses (cls : Option JobClass) (clamps : ClampFlags) : Refuses s (s.cancelBeforeAccept g cls clamps) g :=
  State.finishedAt_refuses (s.cancelBeforeAccept_slots _ _ _) (s.cancelBeforeAccept_ctl _ _ _) (s.cancelBeforeAccept_ports _ _ _)
    (s.cancelBeforeAccept_queues _ _ _) (s.cancelBeforeAccept_deadlines _ _ _) (s.cancelBeforeAccept_spare _ _ _)
    (s.cancelBeforeAccept_marks _ _ _)

/-! ### A request accepted (R35) -/

/-- A chain that passed the walk has no block of the part's own (R32). -/
theorem chainWalk_unowned {n b : Nat} {chain : List ChainEntry} (h : chainWalk s n b = .ok chain) :
    ∀ e ∈ chain, s.mark e.block ≠ .spare ∧ s.mark e.block ≠ .result := by
  induction n generalizing b chain with
  | zero => cases h
  | succ n ih =>
    unfold chainWalk at h
    dsimp only at h
    split at h
    · cases h
    split at h
    · cases h
    next unowned =>
      have here : s.mark b ≠ .spare ∧ s.mark b ≠ .result := by
        refine ⟨fun e => unowned ?_, fun e => unowned ?_⟩ <;> rw [e] <;> rfl
      split at h
      · cases h
        intro e he
        obtain rfl := List.mem_singleton.mp he
        exact here
      · split at h
        · next rest walk =>
          cases h
          intro e he
          rcases List.mem_cons.mp he with rfl | he
          · exact here
          · exact ih walk e he
        · cases h

theorem readRequest_deadline (m : Memory) (g : Slot) : (readRequest m g).deadline < 65536 := field_lt _ _ 16

/-- The time from the clock to an expiry stamp that the clock has just given (R52). -/
theorem expiry_distance (clock : Stamp) {n : Nat} (small : n < 65536) (some : n ≠ 0) :
    1 ≤ (clock + BitVec.ofNat 32 (n * 100) - clock).toInt ∧ (clock + BitVec.ofNat 32 (n * 100) - clock).toInt ≤ 6553500 := by
  have same : clock + BitVec.ofNat 32 (n * 100) - clock = BitVec.ofNat 32 (n * 100) := by
    rw [BitVec.add_comm, BitVec.add_sub_cancel]
  have value : (BitVec.ofNat 32 (n * 100)).toNat = n * 100 := by
    rw [BitVec.toNat_ofNat]
    exact Nat.mod_eq_of_lt (by omega)
  rw [same, BitVec.toInt_eq_toNat_of_lt (by omega), value]
  omega

section
variable {request : Request} {valid : Validated}

theorem State.enqueued_waits (x : Slot) : (s.enqueued g request valid).waits x = (s.acceptedSlot g request valid).waits x := by
  unfold State.waits
  rw [State.acceptedSlot_job, State.enqueued_ctl]
  rfl

theorem State.enqueued_expiresIn (w : State) (ctl : w.ctl = s.ctl) (job : ∀ x, w.job x = (s.enqueued g request valid).job x) (x : Slot) :
    w.expiresIn x = (s.enqueued g request valid).expiresIn x :=
  State.expiresIn_eq (by rw [ctl, State.enqueued_ctl]) (by rw [job])

theorem State.acceptedSlot_queue (q : Pool) : (s.acceptedSlot g request valid).queue q = s.queue q := rfl

theorem State.enqueued_joins : ∃ precedes : Slot → Slot → Bool, (∀ x, precedes g x = true ↔ (s.enqueued g request valid).stands g x) ∧
    ∀ q, (s.enqueued g request valid).queue q =
      if q = ((s.enqueued g request valid).job g).pool then insertBefore precedes g (s.queue q) else s.queue q := by
  have pool : ((s.acceptedSlot g request valid).job g).pool = ((s.enqueued g request valid).job g).pool := by rw [State.acceptedSlot_job]
  refine ⟨(s.acceptedSlot g request valid).precedes, fun x => ?_, fun q => ?_⟩
  · rw [State.precedes_iff]
    exact (State.stands_eq (State.enqueued_waits g) (State.enqueued_waits x)).symm
  · rw [State.enqueued_queue]
    split
    · next e =>
      rw [e, ← pool, State.queue_joinQueue]
      rfl
    · next e => rw [State.queue_joinQueue_ne _ (by rw [pool]; exact e)]; rfl

theorem State.enqueued_lists : ∃ precedes : Slot → Slot → Bool,
    (∀ x, precedes g x = true ↔ (s.enqueued g request valid).expiresFirst g x) ∧
      (s.enqueued g request valid).deadlines =
        if ((s.enqueued g request valid).job g).expiry = none then s.deadlines else insertBefore precedes g s.deadlines := by
  have expiry : ((s.enqueued g request valid).job g).expiry = (freshJob s.ctl.clock request valid).expiry := by rw [State.enqueued_job]
  have job (x : Slot) : ((s.acceptedSlot g request valid).joinQueue g).job x = (s.enqueued g request valid).job x :=
    s.acceptedSlot_job g request valid x
  have expiresIn := State.enqueued_expiresIn (s := s) (g := g) (request := request) (valid := valid)
    ((s.acceptedSlot g request valid).joinQueue g) rfl job
  refine ⟨((s.acceptedSlot g request valid).joinQueue g).expiresBefore, fun x => ?_, ?_⟩
  · rw [State.expiresBefore_iff]
    exact State.expiresFirst_eq (expiresIn g) (expiresIn x)
  · rw [expiry]
    unfold freshJob
    by_cases none : request.deadline = 0
    · rw [s.enqueued_deadlines_none g request valid none]
      simp [none]
    · rw [s.enqueued_deadlines g request valid none]
      simp only [none, if_false, reduceCtorEq]
      rfl

theorem State.enqueued_accepts (deadline : request.deadline < 65536) (passes : s.validateParameters request valid.cls = .ok valid.chain) :
    Accepts s (s.enqueued g request valid) g where
  engine := by rw [State.enqueued_ctl]
  phase := by rw [State.enqueued_ctl]
  clock := by rw [State.enqueued_ctl]
  slots h ne := by
    rw [s.enqueued_slot_ne g request valid fun e => ne (List.mem_singleton.mpr e)]
    exact .refl _
  ports r _ := by
    unfold State.port
    rw [State.enqueued_ports]
    exact .refl _
  queued := by rw [State.enqueued_slot]
  stamp := by rw [State.enqueued_job]; rfl
  fresh := by rw [State.enqueued_job]; rfl
  empty := by rw [State.enqueued_job]; rfl
  expiry e h := by
    rw [State.enqueued_job] at h
    unfold freshJob at h
    dsimp only at h
    split at h
    · cases h
    · next some =>
      rw [← Option.some.inj h]
      exact expiry_distance _ deadline some
  joins := State.enqueued_joins
  lists := State.enqueued_lists
  spare := s.enqueued_spare g request valid
  marks b := by
    have job : ((s.enqueued g request valid).job g).chain = valid.chain := by rw [State.enqueued_job]; rfl
    have cls : ((s.enqueued g request valid).job g).cls = some valid.cls := by rw [State.enqueued_job]; rfl
    rw [State.enqueued_mark, job, cls]
    split
    · rfl
    · next other =>
      rw [State.validateParameters_other passes fun e => other (congrArg some e)]
      rfl
  range e he := by
    have job : ((s.enqueued g request valid).job g).chain = valid.chain := by rw [State.enqueued_job]; rfl
    rw [job] at he
    by_cases print : valid.cls = .print
    · rw [print] at passes
      exact (State.validateParameters_print passes).2 e he
    · rw [State.validateParameters_other passes print] at he
      cases he
  lends print e he := by
    have job : ((s.enqueued g request valid).job g).chain = valid.chain := by rw [State.enqueued_job]; rfl
    have cls : ((s.enqueued g request valid).job g).cls = some valid.cls := by rw [State.enqueued_job]; rfl
    rw [job] at he
    rw [cls] at print
    rw [Option.some.inj print] at passes
    exact chainWalk_unowned (State.validateParameters_print passes).1 e he

end

theorem State.accept_sound (fresh : (s.slot g).state = .empty ∨ (s.slot g).state = .posted) (running : s.ctl.engine = .running) :
    Sound s (s.accept g) := by
  unfold State.accept
  dsimp only
  split
  · exact (State.refuse_refuses _ _).sound fresh running
  · next valid passes =>
    refine .ite (fun _ => (State.cancelBeforeAccept_refuses _ _).sound fresh running) fun _ => ?_
    rw [State.enqueue_eq]
    exact ((State.enqueued_accepts (readRequest_deadline _ _) (State.validated passes).2.2.2).sound fresh running).trans
      (State.review_sound _ _)

theorem State.acceptIfRunning_sound (fresh : (s.slot g).state = .empty ∨ (s.slot g).state = .posted) : Sound s (s.acceptIfRunning g) :=
  .ite (fun running => State.accept_sound fresh running) fun _ => .refl s

/-! ### An examination (R26 to R29, R36 to R38) -/

/-- A SERVING slot is served at the port that its record names (R74). -/
theorem State.structured.servedAt (holds : s.structured) (serving : (s.slot g).state = .serving) (port : (s.job g).port = some p) :
    (s.port p).job = some g := by
  obtain ⟨r, job⟩ := holds.2.2.1.2.2 g serving
  obtain ⟨-, mine, -⟩ := holds.2.2.1.2.1 r g job
  rw [Option.some.inj (port.symm.trans mine)]
  exact job

theorem State.updateJob_latch_sound {f : JobRecord → JobRecord} (alike : ∀ j : JobRecord, j.alike (f j)) (serving : (s.slot g).state = .serving) :
    Sound s (s.updateJob g f) :=
  State.updateJob_sound (alike _) fun _ => .inr serving

theorem State.cancelServing_sound (serving : (s.slot g).state = .serving) : Sound s (s.cancelServing g) := by
  refine Sound.of_structured (by rw [(s.cancelServing_tame g).ctl]) fun holds => ?_
  unfold State.cancelServing
  split
  · exact State.updateJob_latch_sound (fun _ => ⟨rfl, rfl, rfl, rfl, rfl, rfl, rfl, rfl⟩) serving
  · next p port _ => exact (State.endScan_sound (holds.servedAt serving port)).trans (State.reviewFreed_sound _ _)
  · next p port _ => exact (State.holdCancelled_sound (holds.servedAt serving port)).trans (State.reviewFreed_sound _ _)
  · exact .refl s

theorem State.release_state : ((s.release g).slot g).state = .empty := congrArg SlotShadow.state State.release_slot

theorem State.examine_sound (s : State) (g : Slot) (engine : s.ctl.engine ≠ .starting) : Sound s (s.examine g) := by
  unfold State.examine
  split
  · exact .refl s
  · next e _ => exact State.acceptIfRunning_sound (.inl e)
  · next e _ => exact State.acceptIfRunning_sound (.inr e)
  · next e _ => exact .ite (fun _ => State.finishQueued_sound e) fun _ => .refl s
  · next e _ => exact .ite (fun _ => State.cancelServing_sound e) fun _ => .refl s
  · exact .refl s
  · next e _ => exact State.release_sound e engine
  · next e _ => exact (State.release_sound e engine).trans (State.acceptIfRunning_sound (.inl State.release_state))
  · exact (s.handoverFault_quiet g).sound

/-! ### Station states (R44 to R46) -/

theorem State.closeSlot_sound (s : State) (g : Slot) : Sound s (s.closeSlot g) := by
  refine Sound.of_structured (by rw [(s.closeSlot_tame g).ctl]) fun holds => ?_
  unfold State.closeSlot
  split
  · next e => exact State.finishQueued_sound e
  · next serving =>
    split
    · exact State.updateJob_latch_sound (fun _ => ⟨rfl, rfl, rfl, rfl, rfl, rfl, rfl, rfl⟩) serving
    · next p port _ => exact State.endScan_sound (holds.servedAt serving port)
    · next p port _ => exact State.holdClosed_sound (holds.servedAt serving port)
    · exact .refl s
  · exact .refl s
  · exact .refl s
  · exact .refl s

theorem State.closeStation_sound (s : State) (st : Station) : Sound s (s.closeStation st) :=
  ((Sound.foldl State.closeSlot_sound _ s).trans (State.closeTouch_quiet _ st).sound).trans
    (Sound.foldl (fun t _ => t.review_sound _) _ _)

theorem State.reopenStation_sound (s : State) (st : Station) : Sound s (s.reopenStation st) :=
  Sound.foldl (fun t q => .ite (fun _ => t.review_sound q) fun _ => .refl t) _ s

theorem State.changeStation_sound (s : State) (st : Station) (before after : StationState) : Sound s (s.changeStation st before after) := by
  unfold State.changeStation
  split
  · exact s.closeStation_sound st
  · exact s.closeStation_sound st
  · exact s.reopenStation_sound st
  all_goals exact .refl s

/-- A visit is sound in a part that does not start (R24). -/
theorem State.makeVisit_sound (s : State) (st : Station) (engine : s.ctl.engine ≠ .starting) : Sound s (s.makeVisit st) := by
  have sampled : Quiet s (s.setControl (beginVisit s.mem st)) := State.setControl_quiet rfl rfl rfl
  have examined : ∀ (l : List Slot) (t : State), t.ctl.engine ≠ .starting → Sound t (l.foldl State.examine t) := by
    intro l
    induction l with
    | nil => exact fun t _ => .refl t
    | cons g rest ih =>
      exact fun t standing => (t.examine_sound g standing).trans (ih _ (by rw [(t.examine_tame g).ctl]; exact standing))
  unfold State.makeVisit
  dsimp only
  refine sampled.sound.trans ((State.changeStation_sound _ _ _ _).trans (examined _ _ ?_))
  rw [(State.changeStation_tame _ _ _ _).ctl]
  exact engine

end

end Sys2Proof.Machine
end

/-! SUPPORT. What arrives on a line and the expiries of timers are sound (R98 to R110, R115 to R119, R128 to R131, R152 to R159). -/
section
namespace Sys2Proof.Machine

section
variable {s t u v : State} {g h : Slot} {p r : Port} {q : Pool} {o : JobOutcome} {d : Detail}

/-! ### Storing (R152, R153, R157) -/

theorem State.take_job (s : State) (p : Port) (g : Slot) : ((s.take p g).port p).job = (s.port p).job := by
  cases spare : s.spare with
  | nil =>
    unfold State.take
    rw [spare]
  | cons b rest =>
    have port : (s.take p g).port p = (s.port p).takes b := by
      rw [State.take_eq spare]
      exact State.port_setPort (s.takenMarks g b rest) p _
    rw [port]
    rfl

theorem State.roomForByte_job (s : State) (p : Port) (g : Slot) : ((s.roomForByte p g).port p).job = (s.port p).job := by
  unfold State.roomForByte
  split
  · split
    · rfl
    · exact s.take_job p g
  · exact s.take_job p g

theorem State.roomForByte_sound (job : (s.port p).job = some g) : Sound s (s.roomForByte p g) := by
  have taken : Sound s (s.take p g) := Sound.of_structured (by rw [(s.take_tame p g).ctl]) fun holds =>
    s.take_sound p g (SlotState.held_of_work (.inr (holds.served job)))
  unfold State.roomForByte
  split
  · exact .ite (fun _ => .refl s) fun _ => taken
  · exact taken

/-- A byte written behind the room made for it. -/
theorem State.storeByte_after (s : State) (p : Port) (g : Slot) (b : Byte) : Quiet (s.roomForByte p g) (State.storeByte p g s b) := by
  unfold State.storeByte
  dsimp only
  split
  · exact .refl _
  · have written (c n : Nat) : Quiet (s.roomForByte p g) (((s.roomForByte p g).putByte (blockAddress c + 8 + n) b).writeLength c (n + 1)) :=
      .of_eq rfl rfl rfl rfl rfl rfl rfl
    exact (written _ _).trans (State.modifyScan_quiet _ p _)

theorem State.storeByte_job (s : State) (p : Port) (g : Slot) (b : Byte) : ((State.storeByte p g s b).port p).job = (s.port p).job :=
  ((s.storeByte_after p g b).port p).job.trans (s.roomForByte_job p g)

theorem State.storeByte_sound (job : (s.port p).job = some g) (b : Byte) : Sound s (State.storeByte p g s b) :=
  (State.roomForByte_sound job).trans (s.storeByte_after p g b).sound

theorem State.storeBytes_sound (data : List Byte) : ∀ s : State, (s.port p).job = some g → Sound s (data.foldl (State.storeByte p g) s) := by
  induction data with
  | nil => exact fun s _ => .refl s
  | cons b rest ih => exact fun s job => (State.storeByte_sound job b).trans (ih _ ((s.storeByte_job p g b).trans job))

theorem State.storeImage_sound (job : (s.port p).job = some g) (data : List Byte) : Sound s (s.storeImage p g data) := by
  have answered := ((State.modifyScan_quiet (data.foldl (State.storeByte p g) s) p fun x => { x with phase := .taking, starveTimer := none }).trans
    (State.reply_quiet _ p .ack)).sound
  unfold State.storeImage
  dsimp only
  refine ((State.storeBytes_sound data s job).trans answered).trans (.ite (fun _ => ?_) fun _ => .refl _)
  exact ((State.offerFrame_quiet _ p _).trans (State.modifyScan_quiet _ p _)).sound

theorem State.imageTaken_sound (job : (s.port p).job = some g) (data : List Byte) : Sound s (s.imageTaken p g data) :=
  .ite (fun _ => .ite (fun _ => State.storeImage_sound job _) fun _ => ((s.reply_quiet p _).trans (State.modifyScan_quiet _ p _)).sound)
    fun _ => .refl s

/-! ### Answers (R108, R109) -/

theorem State.tellService_sound (s : State) (p : Port) (f : Offered) : Sound s (s.tellService p f) := by
  unfold State.tellService
  split
  · next g _ job =>
    refine .ite (fun _ => ?_) fun _ => .refl s
    split
    · exact (s.feedAnswered_step p g).sound job
    · exact (s.modifyScan_quiet p _).sound
    · exact State.finishScan_sound job
    · exact .refl s
  · exact .refl s

theorem State.ackTaken_sound (s : State) (p : Port) : Sound s (s.ackTaken p) := by
  unfold State.ackTaken
  split
  · exact ((s.transmit_quiet p _).sound.trans (State.tellService_sound _ p _)).trans (State.reviewEnded_sound _ s p)
  · exact .refl s

theorem State.sendFailed_sound (s : State) (p : Port) (c : Condition) : Sound s (s.sendFailed p c) := by
  unfold State.sendFailed
  split
  · have failed := (s.transmit_quiet p abandonOutstanding).sound.trans (State.faultAt_sound _ p c)
    refine .ite (fun _ => ((s.updateLineCounters_quiet p _).trans (State.transmit_quiet _ p _)).sound) fun _ => ?_
    exact .ite (fun _ => failed) fun _ => failed.trans (State.transmit_quiet _ p _).sound
  · exact .refl s

theorem State.nakTaken_sound (s : State) (p : Port) : Sound s (s.nakTaken p) := by
  unfold State.nakTaken
  split
  · exact s.sendFailed_sound p _
  · exact .refl s

/-! ### STATE and the other frames (R105, R115 to R119) -/

theorem State.stateAnswers_quiet (s : State) (p : Port) (c : Condition) : Quiet s (s.stateAnswers p c) := by
  unfold State.stateAnswers
  split
  · exact .ite (s.transmit_quiet p _) (.refl s)
  · exact .ite (s.transmit_quiet p _) (.refl s)

theorem State.stateActs_sound (s : State) (p : Port) (c : Condition) : Sound s (s.stateActs p c) := by
  unfold State.stateActs
  split
  · exact .refl s
  · next e =>
    have rests : (s.port p).state ≠ .serving := by rw [e]; exact PortState.noConfusion
    exact .ite (fun _ => State.enterFree_sound rests) fun _ => State.enterFaulted_sound rests
  · next e => exact .ite (fun _ => .refl s) fun _ => State.enterFaulted_sound (by rw [e]; exact PortState.noConfusion)
  · split
    · next g job =>
      refine .ite (fun _ => .ite (fun _ => ?_) fun _ => .refl s) fun _ => State.faultEnd_sound job
      exact ((s.printCondition_step p g c).sound job).trans (State.reviewEnded_sound _ s p)
    · exact .refl s
  · next e => exact .ite (fun _ => State.enterFree_sound (by rw [e]; exact PortState.noConfusion)) fun _ => .refl s

theorem State.stateTaken_sound (s : State) (p : Port) (c : Condition) (capability : Byte) : Sound s (s.stateTaken p c capability) :=
  ((s.stateAnswers_quiet p c).trans (State.notePort_quiet _ p (.of_eq rfl rfl))).sound.trans (State.stateActs_sound _ p c)

theorem State.servedJob_job {cls : PortClass} (h : s.servedJob p cls = some g) : (s.port p).job = some g := by
  unfold State.servedJob at h
  split at h
  · exact h
  · cases h

theorem State.dispatch_sound (s : State) (p : Port) (f : PeripheralFrame) : Sound s (s.dispatch p f) := by
  unfold State.dispatch
  split
  · exact s.ackTaken_sound p
  · exact s.nakTaken_sound p
  · split
    · exact s.stateTaken_sound p _ _
    · exact .refl s
  · split
    · next g job => exact ((s.sheetTaken_step p g).sound (State.servedJob_job job)).trans (State.reviewEnded_sound _ s p)
    · exact .refl s
  · split
    · next g job => exact State.imageTaken_sound (State.servedJob_job job) _
    · exact .refl s
  · split
    · next g job => exact (State.imageEndTaken_sound (State.servedJob_job job) _).trans (State.reviewEnded_sound _ s p)
    · exact .refl s
  · exact .ite (fun _ => Sound.foldl (fun t r => t.takeReport_sound p r) _ s) fun _ => .refl s

/-! ### The receiver (R101 to R103) -/

theorem State.rejectCheck_quiet (s : State) (p : Port) (kind : Byte) : Quiet s (s.rejectCheck p kind) :=
  .ite ((s.updateLineCounters_quiet p _).trans (State.reply_quiet _ p _)) (s.updateLineCounters_quiet p _)

theorem State.frameComplete_sound (s : State) (p : Port) (kind : Byte) (payload : List Byte) (check : Byte) :
    Sound s (s.frameComplete p kind payload check) := by
  have hunting := s.setReceiver_quiet p .hunting
  unfold State.frameComplete
  refine .ite (fun _ => (hunting.trans (State.rejectCheck_quiet _ p kind)).sound) fun _ => ?_
  split
  · exact hunting.sound.trans (State.dispatch_sound _ p _)
  · exact (hunting.trans (State.updateLineCounters_quiet _ p _)).sound

theorem State.frameCharacter_sound (s : State) (p : Port) (b : Byte) : Sound s (s.frameCharacter p b) := by
  unfold State.frameCharacter
  split
  · exact .refl s
  · exact .refl s
  · exact (Quiet.ite ((s.setReceiver_quiet p _).trans (State.updateLineCounters_quiet _ p _))
      (.ite (s.setReceiver_quiet p _) (s.setReceiver_quiet p _))).sound
  · exact (Quiet.ite (s.setReceiver_quiet p _) (s.setReceiver_quiet p _)).sound
  · exact s.frameComplete_sound p _ _ _

theorem State.receive_sound (s : State) (p : Port) (c : Character) : Sound s (s.receive p c) := by
  unfold State.receive
  split
  · exact ((s.setReceiver_quiet p _).trans (State.updateLineCounters_quiet _ p _)).sound
  · exact ((s.setReceiver_quiet p _).trans (State.updateLineCounters_quiet _ p _)).sound
  · refine .ite (fun _ => ?_) fun _ => s.frameCharacter_sound p _
    split
    · exact (s.setReceiver_quiet p _).sound
    · exact (s.setReceiver_quiet p _).sound
    · exact ((s.updateLineCounters_quiet p _).trans (State.setReceiver_quiet _ p _)).sound

theorem State.characterEvent_sound (s : State) (p : Port) (c : LineCharacter) : Sound s (s.characterEvent p c) := by
  have wait : Sound s (s.endWait p) := (Quiet.ite (s.setReceiver_quiet p _) (.refl s)).sound
  unfold State.characterEvent
  refine .ite (fun _ => ?_) fun _ => .refl s
  split
  · next ch _ =>
    have received := State.receive_sound (s.endWait p) p ch
    exact wait.trans (.ite (fun _ => received.trans (State.setReceiver_quiet _ p _).sound) fun _ => received)
  · exact wait

theorem State.frameEvent_sound (s : State) (p : Port) (f : PeripheralFrame) : Sound s (s.frameEvent p f) :=
  .ite (fun _ => .ite (fun _ => (s.setReceiver_quiet p _).sound.trans (State.dispatch_sound _ p f))
    fun _ => ((s.setReceiver_quiet p _).trans (State.updateLineCounters_quiet _ p _)).sound) fun _ => .refl s

theorem State.rejectEvent_sound (s : State) (p : Port) (kind : Byte) (payload : List Byte) (check : Byte) :
    Sound s (s.rejectEvent p kind payload check) := by
  have hunting := s.setReceiver_quiet p .hunting
  unfold State.rejectEvent
  refine .ite (fun _ => .ite (fun _ => (hunting.trans (State.rejectCheck_quiet _ p kind)).sound) fun _ => ?_) fun _ => .refl s
  split
  · exact .refl s
  · exact (hunting.trans (State.updateLineCounters_quiet _ p _)).sound

theorem State.sentEvent_sound (s : State) (p : Port) : Sound s (s.sentEvent p) := by
  refine (State.modifyPort_quiet (.of_eq ?_ (portSent_state _ _ _))).sound
  unfold portSent
  split <;> rfl

/-! ### Expiries (R51, R58, R109, R119, R131, R155, R177) -/

theorem State.responseEvent_sound (s : State) (p : Port) : Sound s (s.responseEvent p) :=
  .ite (fun _ => (s.transmit_quiet p _).sound.trans (State.sendFailed_sound _ p _)) fun _ => .refl s

theorem State.probeEvent_sound (s : State) (p : Port) : Sound s (s.probeEvent p) := by
  have restarted : Quiet s (s.modifyPort p fun x =>
      { x with probeTimer := startTimer s.ctl.clock ((s.portConfig p).probeInterval * 1000) }) := State.modifyPort_quiet (.of_eq rfl rfl)
  exact .ite (fun _ => .ite (fun _ => (restarted.trans (State.offerAsk_quiet _ p)).sound) fun _ => restarted.sound) fun _ => .refl s

theorem State.sheetEvent_sound (s : State) (p : Port) : Sound s (s.sheetEvent p) := by
  unfold State.sheetEvent
  refine .ite (fun _ => ?_) fun _ => .refl s
  split
  · next g job => exact State.faultEnd_sound (State.servedJob_job job)
  · exact .refl s

theorem State.starveEvent_sound (s : State) (p : Port) : Sound s (s.starveEvent p) := by
  unfold State.starveEvent
  refine .ite (fun _ => ?_) fun _ => .refl s
  split
  · next g job => exact (State.starveOut_sound (State.servedJob_job job)).trans (State.reviewFreed_sound _ p)
  · exact .refl s

theorem State.holdEvent_sound (s : State) (p : Port) : Sound s (s.holdEvent p) := by
  unfold State.holdEvent
  refine .ite (fun _ => ?_) fun _ => .refl s
  split
  · next g job => exact (State.holdExpired_sound (State.servedJob_job job)).trans (State.reviewFreed_sound _ p)
  · exact .refl s

theorem State.decayEvent_sound (s : State) : Sound s s.decayEvent := by
  refine .ite (fun _ => ?_) fun _ => .refl s
  have restarted : Quiet s (s.setControl fun c => { c with decayTimer := startTimer c.clock (c.work.decayPeriod * 1000) }) :=
    State.setControl_quiet rfl rfl rfl
  exact (restarted.trans (Quiet.foldl State.halveUsage_quiet _ _)).sound.trans (State.reviewAll_sound _)

theorem startSweepIfDue_clock (c : Control) : (startSweepIfDue c).clock = c.clock := by
  unfold startSweepIfDue beginSweep
  split
  · split <;> rfl
  · rfl

theorem State.startSweepIfDue_quiet (s : State) : Quiet s (s.setControl startSweepIfDue) :=
  State.setControl_quiet (startSweepIfDue_engine _).1 (startSweepIfDue_engine _).2.1 (startSweepIfDue_clock _)

theorem expireSweepTimer_clock (c : Control) : (expireSweepTimer c).clock = c.clock := by
  unfold expireSweepTimer
  split
  · rfl
  · exact startSweepIfDue_clock _

theorem State.sweepTimerEvent_quiet (s : State) : Quiet s s.sweepTimerEvent :=
  .ite (State.setControl_quiet (expireSweepTimer_engine _).1 (expireSweepTimer_engine _).2.1 (expireSweepTimer_clock _)) (.refl s)

theorem endSweep_clock (w : Sweep) (c : Control) : (endSweep w c).clock = c.clock := by
  unfold endSweep
  split <;> rfl

theorem State.closeSweep_sound (s : State) (w : Sweep) : Sound s (s.closeSweep w) :=
  ((s.sampleAllZones_quiet.sound.trans (State.spliceRefill_sound _)).trans (State.reviewAll_sound _)).trans
    (State.setControl_quiet (endSweep_engine w _).1 (endSweep_engine w _).2.1 (endSweep_clock w _)).sound

end

end Sys2Proof.Machine
end

/-! SUPPORT. What closes an event, and what a STOP leaves, is sound (R7, R19, R20). -/
section
namespace Sys2Proof.Machine

section
variable {s t u : State} {g h : Slot} {p r : Port} {o : JobOutcome} {d : Detail} {reported : Option Word} {ps : List Port} {e : Engine}

/-! ### A change of the engine's state -/

/-- The state of the part with its engine in another state. -/
def State.inEngine (s : State) (e : Engine) : State := s.setControl fun c => { c with engine := e }

/-- The agreement of the records but for the law of the engine's states. -/
theorem State.structured.inEngine (holds : s.structured) (law : (s.inEngine e).lawHolds) (clear : e ≠ .starting) :
    (s.inEngine e).structured := by
  obtain ⟨queues, list, pair, blocks, -, records⟩ := holds
  exact ⟨queues, list, pair, blocks, law, records.1, fun _ _ k => absurd k clear⟩

theorem State.inEngine_sound (law : s.structured → (s.inEngine e).lawHolds) (clear : e ≠ .starting) : Sound s (s.inEngine e) :=
  Fewer.sound ⟨rfl, fun _ => .refl _, .refl _, fun _ work => ⟨work, rfl⟩, fun _ _ _ => rfl, fun _ _ => rfl⟩
    (fun holds => holds.inEngine (law holds) clear) fun _ => id

/-- Where nothing is queued and nothing is served the law holds in every state of the engine. -/
theorem State.structured.idleLaw (holds : s.structured) (queued : ∀ g, (s.slot g).state ≠ .queued)
    (serving : e ≠ .draining → ∀ g, (s.slot g).state ≠ .serving) : (s.inEngine e).lawHolds := by
  obtain ⟨queues, list, -⟩ := holds
  have empty (q : Pool) : s.queue q = [] := List.eq_nil_iff_forall_not_mem.mpr fun g hg => queued g (((queues q).2 g).mp hg).1
  have none : s.deadlines = [] := List.eq_nil_iff_forall_not_mem.mpr fun g hg => queued g ((list.2 g).mp hg).1
  refine ⟨fun k => ⟨empty, none, fun g => ⟨queued g, serving ?_ g⟩⟩, fun _ => ⟨empty, none, queued⟩⟩
  rintro rfl
  cases k

/-! ### The end of an event (R7, R20) -/

theorem State.allOffline_quiet (idle : s.anyServing = false) :
    Quiet s (allPorts.foldl (fun s p => s.updatePort p (offlinePort p)) s) where
  engine := by rw [s.allOffline_kept.ctl]
  phase := by rw [s.allOffline_kept.ctl]
  clock := by rw [s.allOffline_kept.ctl]
  slots g _ := by
    rw [State.slot_congr (State.foldl_same State.slots (fun t p => t.updatePort_slots p _) allPorts s)]
    exact .refl _
  ports p _ := by
    rw [State.port_foldl_update offlinePort allPorts (List.nodup_finRange 12), if_pos (mem_allPorts p)]
    exact ⟨rfl, fun k => PortState.noConfusion k, fun k => absurd k ((State.anyServing_eq_false_iff s).mp idle p)⟩
  queues := State.foldl_same State.queues (fun t p => t.updatePort_queues p _) allPorts s
  deadlines := State.foldl_same State.deadlines (fun t p => t.updatePort_deadlines p _) allPorts s
  spare := State.foldl_same State.spare (fun t p => t.updatePort_spare p _) allPorts s
  marks := State.foldl_same State.marks (fun t p => t.updatePort_marks p _) allPorts s

theorem State.stopped_sound (law : (s.inEngine .stopped).lawHolds) : Sound s ((s.setControl stoppedControl).setNotice .engine) := by
  have quiet : Quiet (s.inEngine .stopped) (s.setControl stoppedControl) := ⟨⟨rfl, rfl, rfl, fun _ _ => .refl _, fun _ _ => .refl _⟩, rfl, rfl, rfl, rfl⟩
  exact ((State.inEngine_sound (fun _ => law) (by decide)).trans quiet.sound).trans (State.setNotice_quiet _ .engine).sound

/-- The entry to STOPPED of a part that serves nothing (R20). -/
theorem State.enterStopped_sound (queued : s.structured → ∀ g, (s.slot g).state ≠ .queued) (idle : s.anyServing = false) :
    Sound s s.enterStopped := by
  have offline := State.allOffline_quiet idle
  refine Sound.of_structured (by rw [State.enterStopped_ctl]; rfl) fun holds => ?_
  have law := (offline.structured holds).idleLaw (e := .stopped) (fun g => ?queued) fun _ g => ?serving
  · exact offline.sound.trans (State.stopped_sound law)
  case queued =>
    rw [(offline.slot g).state]
    exact queued holds g
  case serving =>
    rw [(offline.slot g).state]
    intro serves
    obtain ⟨p, job⟩ := holds.2.2.1.2.2 g serves
    exact (State.anyServing_eq_false_iff s).mp idle p ((holds.2.2.1.1 p).mpr (by rw [job]; exact Option.some_ne_none g))

theorem settleInterrupt_quiet (s t : State) : Quiet t (settleInterrupt s t) := by
  rw [settleInterrupt_eq]
  exact State.setControl_quiet (f := fun c => { c with messagesSent := _ }) rfl rfl rfl

theorem closeEvent_sound (s t : State) : Sound t (closeEvent s t) := by
  have ended : Sound t (drainEnd s t) := by
    rcases drainEnd_cases s t with e | ⟨draining, -, idle, e⟩ <;> rw [e]
    · exact .refl t
    · exact State.enterStopped_sound (fun holds => (holds.2.2.2.2.1.2 draining).2.2) idle
  exact ended.trans (settleInterrupt_quiet s _).sound

/-! ### STOP in RUNNING (R19): its works, seen from RUNNING -/

theorem Frame.inEngine {gs : List Slot} (a : Frame s t gs ps) (e : Engine) : Frame (s.inEngine e) (t.inEngine e) gs ps :=
  ⟨rfl, a.phase, a.clock, a.slots, a.ports⟩

theorem Quiet.inEngine (a : Quiet s t) (e : Engine) : Quiet (s.inEngine e) (t.inEngine e) :=
  ⟨a.toFrame.inEngine e, a.queues, a.deadlines, a.spare, a.marks⟩

theorem Finishes.inEngine (a : Finishes s t g ps) (e : Engine) : Finishes (s.inEngine e) (t.inEngine e) g ps :=
  ⟨a.toFrame.inEngine e, a.finished, a.own, a.spare, a.marks.congr rfl rfl⟩

theorem State.stopQueued_running (s : State) (g : Slot) : Sound (s.inEngine .running) ((s.stopQueued g).inEngine .running) := by
  unfold State.stopQueued
  split
  · next queued =>
    have f : Finishes (s.unqueued g) (s.finishQueued g .cancelled .engineStop) g [] := State.finish_finishes
    have own : Finishes s (s.finishQueued g .cancelled .engineStop) g [] :=
      ⟨⟨f.engine, f.phase, f.clock, f.slots, f.ports⟩, f.finished, f.own, f.spare, f.marks.congr rfl rfl⟩
    exact (own.inEngine .running).dequeued queued (fun q => State.finishQueued_queue q) State.finishQueued_deadlines
  · exact .refl _

theorem State.finishScan_finishes : Finishes s (s.finishScan p g o d reported) g [p] :=
  (State.finish_finishes (o := o) (d := d) (reported := reported)).at_port rfl rfl rfl rfl fun r ne => by
    rw [State.finishScan, State.releasePort_port_ne _ ne]
    exact .refl _

theorem State.finishScan_running (job : (s.port p).job = some g) :
    Sound (s.inEngine .running) ((s.finishScan p g o d reported).inEngine .running) := by
  have free : ((s.finishScan p g o d reported).port p) = (s.port p).ended := State.finishScan_port
  exact (State.finishScan_finishes.inEngine .running).released job (congrArg PortRecord.job free)
    (fun k => PortState.noConfusion ((congrArg PortRecord.state free).symm.trans k)) (State.finishScan_queues (p := p)) (State.finishScan_deadlines (p := p))

theorem State.stopService_running (s : State) (p : Port) : Sound (s.inEngine .running) ((s.stopService p).inEngine .running) := by
  unfold State.stopService
  split
  · next job =>
    have closed := s.closeScanFrames_quiet p
    exact (closed.inEngine .running).sound.trans (State.finishScan_running ((closed.port p).job.trans job))
  · next g _ _ job =>
    have kept : Sound (s.inEngine .running) ((s.keepHold g (s.holdLeft p)).inEngine .running) :=
      State.keepHold_sound (s := s.inEngine .running) (p := p) job (s.holdLeft p)
    exact kept.trans (State.finishScan_running job)
  · exact .refl _

theorem State.drained_running (s : State) : Sound (s.inEngine .running) (s.drained.inEngine .running) := by
  have fold {α : Type} {f : State → α → State} (one : ∀ t a, Sound (t.inEngine .running) ((f t a).inEngine .running)) (l : List α) :
      ∀ t, Sound (t.inEngine .running) ((l.foldl f t).inEngine .running) := by
    induction l with
    | nil => exact fun t => .refl _
    | cons a rest ih => exact fun t => (one t a).trans (ih _)
  have recorded : Quiet (s.inEngine .running) (s.stopping.inEngine .running) :=
    ⟨⟨rfl, rfl, rfl, fun _ _ => .refl _, fun _ _ => .refl _⟩, rfl, rfl, rfl, rfl⟩
  exact ((recorded.sound.trans (fold State.stopQueued_running allSlots _)).trans
    (Quiet.inEngine (State.stopTouch_quiet _) .running).sound).trans (fold State.stopService_running allPorts _)

end

end Sys2Proof.Machine
end

/-! SUPPORT. A STOP in RUNNING is sound: it empties the queues and the deadline list (R19). -/
section
namespace Sys2Proof.Machine

section
variable {s t u : State} {g h : Slot} {p : Port}

/-- No slot has become QUEUED. -/
def State.noneQueued (s t : State) : Prop := ∀ h, (t.slot h).state = .queued → (s.slot h).state = .queued

theorem State.noneQueued.foldl {α : Type} {f : State → α → State} (one : ∀ t a, State.noneQueued t (f t a)) (l : List α) :
    ∀ t, State.noneQueued t (l.foldl f t) := by
  induction l with
  | nil => exact fun t h => id
  | cons a rest ih => exact fun t h k => one t a h (ih _ h k)

theorem Finishes.noneQueued {ps : List Port} (f : Finishes s t g ps) : State.noneQueued s t := fun h => f.kept h (by decide)

theorem Quiet.noneQueued (q : Quiet s t) : State.noneQueued s t := fun h k => (q.slot h).state.symm.trans k

theorem State.stopQueued_noneQueued (s : State) (g : Slot) : State.noneQueued s (s.stopQueued g) := by
  unfold State.stopQueued
  split
  · have f : Finishes (s.unqueued g) (s.finishQueued g .cancelled .engineStop) g [] := State.finish_finishes
    exact f.noneQueued
  · exact fun _ => id

theorem State.keepHold_noneQueued (s : State) (g : Slot) (ms : Nat) : State.noneQueued s (s.keepHold g ms) := fun h k => by
  unfold State.keepHold State.updateJob at k
  by_cases e : h = g
  · subst e
    rw [State.slot_setSlot] at k
    exact k
  · rw [State.slot_setSlot_ne _ e] at k
    exact k

theorem State.stopService_noneQueued (s : State) (p : Port) : State.noneQueued s (s.stopService p) := by
  unfold State.stopService
  split
  · exact fun h k => (s.closeScanFrames_quiet p).noneQueued h (State.finishScan_finishes.noneQueued h k)
  · next g _ _ _ => exact fun h k => (s.keepHold_noneQueued g _) h (State.finishScan_finishes.noneQueued h k)
  · exact fun _ => id

/-- After a STOP no slot is QUEUED. -/
theorem State.drained_unqueued (s : State) (g : Slot) : (s.drained.slot g).state ≠ .queued := by
  intro queued
  have touched := State.noneQueued.foldl State.stopService_noneQueued allPorts s.dequeued.stopTouch g queued
  have before := State.noneQueued.foldl State.stopQueued_noneQueued allSlots s.stopping g ((State.stopTouch_quiet _).noneQueued g touched)
  rw [State.drained_finishes (s := s) before] at queued
  cases queued

/-- A part without a queued job, seen from RUNNING and as it is in DRAINING. -/
theorem State.draining_sound (draining : t.ctl.engine = .draining) (unqueued : ∀ g, (t.slot g).state ≠ .queued) : Sound (t.inEngine .running) t := by
  refine Sound.of_structured rfl fun holds => ?_
  have law : ((t.inEngine .running).inEngine .draining).lawHolds := holds.idleLaw unqueued fun k => absurd rfl k
  have after : Quiet ((t.inEngine .running).inEngine .draining) t := ⟨⟨draining, rfl, rfl, fun _ _ => .refl _, fun _ _ => .refl _⟩, rfl, rfl, rfl, rfl⟩
  exact (State.inEngine_sound (fun _ => law) (by decide)).trans after.sound

theorem State.drained_sound (running : s.ctl.engine = .running) : Sound s s.drained := by
  have before : Quiet s (s.inEngine .running) := State.setControl_quiet running.symm rfl rfl
  exact (before.sound.trans s.drained_running).trans (State.draining_sound (by rw [State.drained_ctl]) s.drained_unqueued)

theorem State.drain_sound (running : s.ctl.engine = .running) : Sound s s.drain := by
  rw [State.drain_eq]
  refine .ite (fun _ => State.drained_sound running) fun idle => (State.drained_sound running).trans ?_
  exact State.enterStopped_sound (fun _ => s.drained_unqueued) (Bool.eq_false_iff.mpr idle)

/-- STATUS alone. -/
theorem State.recordCommand_quiet (s : State) (k : Command) (o : CommandOutcome) (r : RefusalReason) :
    Quiet s (s.setControl (recordCommand k o r)) := State.setControl_quiet rfl rfl rfl

end

end Sys2Proof.Machine
end

/-! SUPPORT. The rebuild keeps the agreement of the records, slot by slot (R16). -/
section
namespace Sys2Proof.Machine

section
variable {s t u : State} {g h : Slot} {p : Port} {blocks : List Nat} {todo : List Slot}

/-! ### The rebuild of one slot -/

/-- A slot taken by the rebuild, with the blocks that its walk has put into its result chain record. -/
structure Restores (s t : State) (g : Slot) (blocks : List Nat) : Prop where
  ctl : t.ctl = s.ctl
  slots : ∀ h, h ≠ g → t.slot h = s.slot h
  idle : (t.slot g).state ≠ .queued ∧ (t.slot g).state ≠ .serving
  job : t.job g = { s.job g with resultChain := (s.job g).resultChain ++ blocks }
  bare : (t.slot g).state = .empty ∨ (t.slot g).state = .posted → blocks = []
  ports : t.ports = s.ports
  queues : t.queues = s.queues
  deadlines : t.deadlines = s.deadlines
  spare : t.spare = s.spare
  marks : ∀ b, t.mark b = if b ∈ blocks then .result else s.mark b

/-- What follows a slot's rebuild and touches none of its records. -/
theorem Restores.followed (a : Restores s t g blocks) (ctl : u.ctl = t.ctl) (slots : u.slots = t.slots) (ports : u.ports = t.ports)
    (queues : u.queues = t.queues) (deadlines : u.deadlines = t.deadlines) (spare : u.spare = t.spare) (marks : u.marks = t.marks) :
    Restores s u g blocks where
  ctl := ctl.trans a.ctl
  slots h ne := (State.slot_congr slots h).trans (a.slots h ne)
  idle := by
    rw [State.slot_congr slots]
    exact a.idle
  job := (State.job_congr slots g).trans a.job
  bare k := a.bare (by rw [State.slot_congr slots] at k; exact k)
  ports := ports.trans a.ports
  queues := queues.trans a.queues
  deadlines := deadlines.trans a.deadlines
  spare := spare.trans a.spare
  marks b := (State.mark_congr marks b).trans (a.marks b)

/-- A slot whose state alone is set, or whose codes too. -/
theorem Restores.plain (ctl : t.ctl = s.ctl) (slots : ∀ h, h ≠ g → t.slot h = s.slot h)
    (idle : (t.slot g).state ≠ .queued ∧ (t.slot g).state ≠ .serving) (job : t.job g = s.job g) (ports : t.ports = s.ports)
    (queues : t.queues = s.queues) (deadlines : t.deadlines = s.deadlines) (spare : t.spare = s.spare) (marks : t.marks = s.marks) :
    Restores s t g [] where
  ctl := ctl
  slots := slots
  idle := idle
  job := by rw [job, List.append_nil]
  bare _ := rfl
  ports := ports
  queues := queues
  deadlines := deadlines
  spare := spare
  marks b := by rw [if_neg List.not_mem_nil, State.mark_congr marks]

theorem setShadow_restores {x : SlotState} (queued : x ≠ .queued) (serving : x ≠ .serving) : Restores s (s.setShadow g x) g [] := by
  have own : (s.setShadow g x).slot g = { s.slot g with state := x } := s.slot_setSlot g _
  have job : (s.setShadow g x).job g = s.job g := by
    unfold State.job
    rw [own]
  exact .plain rfl (fun h ne => s.slot_setSlot_ne ne _) (by rw [own]; exact ⟨queued, serving⟩) job rfl rfl rfl rfl rfl

theorem rebuildFault_restores (a : Restores s t g blocks) : Restores s (t.rebuildFault g) g blocks :=
  a.followed (State.rebuildFault_ctl t g) rfl (State.rebuildFault_ports t g) (State.rebuildFault_queues t g)
    (State.rebuildFault_deadlines t g) (State.rebuildFault_spare t g) rfl

theorem closeFinish_restores {o : JobOutcome} {d : Detail} : Restores s (s.closeFinish g o d) g [] := by
  have own := State.closeFinish_slot s g o d
  have job : (s.closeFinish g o d).job g = s.job g := by
    unfold State.job
    rw [own]
  refine .plain (State.closeFinish_ctl s g o d) (fun h ne => State.closeFinish_slot_ne s g o d ne) ?_ job
    (State.closeFinish_ports s g o d) (State.closeFinish_queues s g o d) (State.closeFinish_deadlines s g o d)
    (State.closeFinish_spare s g o d) (State.closeFinish_marks s g o d)
  rw [own]
  exact ⟨SlotState.noConfusion, SlotState.noConfusion⟩

theorem chained_restores (range : ∀ b ∈ blocks, inMap b) : Restores s ((s.setShadow g .finished).chained g blocks) g blocks := by
  have own : (s.setShadow g .finished).slot g = { s.slot g with state := .finished } := s.slot_setSlot g _
  have slot := State.chained_slot (g := g) blocks (s.setShadow g .finished)
  unfold State.job at slot
  rw [own] at slot
  have same {β : Type} (view : State → β) (mark : ∀ t b m, view (State.setMark t b m) = view t)
      (job : ∀ t g f, view (State.updateJob t g f) = view t) (shadow : view (s.setShadow g .finished) = view s) :
      view ((s.setShadow g .finished).chained g blocks) = view s := (State.chained_same view mark job).trans shadow
  exact {
    ctl := same State.ctl (fun t b m => State.setMark_ctl t b m) (fun _ _ _ => rfl) rfl
    slots := fun h ne => (State.chained_slot_ne ne blocks _).trans (s.slot_setSlot_ne ne _)
    idle := by
      rw [slot]
      exact ⟨SlotState.noConfusion, SlotState.noConfusion⟩
    job := congrArg SlotShadow.job slot
    bare := fun k => by
      rw [slot] at k
      rcases k with k | k <;> cases k
    ports := same State.ports (fun t b m => State.setMark_ports t b m) (fun _ _ _ => rfl) rfl
    queues := same State.queues (fun t b m => State.setMark_queues t b m) (fun _ _ _ => rfl) rfl
    deadlines := same State.deadlines (fun t b m => State.setMark_deadlines t b m) (fun _ _ _ => rfl) rfl
    spare := same State.spare (fun t b m => State.setMark_spare t b m) (fun _ _ _ => rfl) rfl
    marks := fun b => State.chained_mark blocks _ range b }

/-- The rebuild of a FINISHED slot, whose walk takes blocks that are OUTSIDE. -/
theorem State.rebuildFinished_restores (owner : readOwner s.mem g = some .finished) :
    ∃ blocks, s.takesChain blocks ∧ Restores s (s.rebuildSlot g) g blocks := by
  rw [State.rebuildSlot_finished owner]
  split
  · obtain ⟨blocks, takes, walks⟩ := State.rebuildWalk_spec (g := g) 896 (readFirstResult s.mem g) (s.setShadow g .finished)
    refine ⟨blocks, ⟨takes.nodup, takes.range, takes.outside⟩, ?_⟩
    rcases walks with e | e <;> rw [e]
    · exact chained_restores takes.range
    · exact rebuildFault_restores (chained_restores takes.range)
  · exact ⟨[], .nil, setShadow_restores (by decide) (by decide)⟩

theorem State.rebuildSlot_restores (s : State) (g : Slot) : ∃ blocks, s.takesChain blocks ∧ Restores s (s.rebuildSlot g) g blocks := by
  have form := s.rebuildSlot_form g
  by_cases finished : readOwner s.mem g = some .finished
  · exact State.rebuildFinished_restores finished
  · refine ⟨[], .nil, ?_⟩
    generalize s.rebuildSlot g = t at form ⊢
    cases form with
    | closed work =>
      have closed := closeFinish_restores (o := .cancelled) (d := .reset) (g := g)
        (s := s.putWord (slotAddress g + 0x18) (rebuiltWord (s.word (slotAddress g + 0x18))))
      exact ⟨closed.ctl, closed.slots, closed.idle, closed.job, closed.bare, closed.ports, closed.queues, closed.deadlines, closed.spare, closed.marks⟩
    | undefined owner =>
      have shadow : Restores s (s.setShadow g .empty) g [] := setShadow_restores (by decide) (by decide)
      exact rebuildFault_restores (shadow.followed rfl rfl rfl rfl rfl rfl rfl)
    | plain x owner rest =>
      exact setShadow_restores (fun e => rest (.inl (e ▸ owner))) fun e => rest (.inr (e ▸ owner))
    | walked owner => exact absurd owner finished
    | failed owner => exact absurd owner finished

/-! ### The part while the rebuild takes its slots -/

/-- The agreement of the records of a part that is being rebuilt: nothing is queued or served, and the slots yet to take are
EMPTY and have no records. -/
structure State.restored (s : State) (todo : List Slot) : Prop where
  queues : ∀ q, s.queue q = []
  deadlines : s.deadlines = []
  idle : ∀ g, (s.slot g).state ≠ .queued ∧ (s.slot g).state ≠ .serving
  unserved : ∀ p, (s.port p).state ≠ .serving ∧ (s.port p).job = none
  blocks : s.blocksHold
  clear : ∀ g, (s.slot g).state = .empty ∨ (s.slot g).state = .posted → s.job g = {}
  ahead : ∀ g ∈ todo, (s.slot g).state = .empty

/-- A chain of OUTSIDE blocks becomes a slot's result chain. -/
theorem State.blocksHold.restores (holds : s.blocksHold) (takes : s.takesChain blocks) (empty : (s.job g).resultChain = [])
    (a : Restores s t g blocks) : t.blocksHold := by
  obtain ⟨nodup, spares, each, apart, results⟩ := holds
  have own : (t.job g).resultChain = blocks := by rw [a.job, empty, List.nil_append]
  have others (h : Slot) (ne : h ≠ g) : (t.job h).resultChain = (s.job h).resultChain := by
    unfold State.job
    rw [a.slots h ne]
  have unheld {b : Nat} (hb : b ∈ blocks) (h : Slot) : b ∉ (s.job h).resultChain := fun k => by
    cases (takes.outside b hb).symm.trans ((results b).mpr ⟨h, k⟩)
  have mem {h : Slot} {b : Nat} : b ∈ (t.job h).resultChain ↔ b ∈ (s.job h).resultChain ∨ h = g ∧ b ∈ blocks := by
    by_cases e : h = g
    · subst e
      rw [own, empty]
      exact ⟨fun k => .inr ⟨rfl, k⟩, fun k => k.elim (fun k => absurd k List.not_mem_nil) fun k => k.2⟩
    · rw [others h e]
      exact (or_iff_left fun k => e k.1).symm
  refine ⟨a.spare ▸ nodup, fun b => ?_, fun h => ?_, fun h k b hh hk => ?_, fun b => ?_⟩
  · rw [a.spare, a.marks b, spares b]
    split
    · next hb => exact ⟨fun k => (by cases (takes.outside b hb).symm.trans k), fun k => (by cases k)⟩
    · rfl
  · by_cases e : h = g
    · subst e
      rw [own]
      exact takes.nodup
    · rw [others h e]
      exact each h
  · rcases mem.mp hh with hh | ⟨rfl, hb⟩ <;> rcases mem.mp hk with hk | ⟨rfl, hb'⟩
    · exact apart h k b hh hk
    · exact absurd hh (unheld hb' h)
    · exact absurd hk (unheld hb k)
    · rfl
  · rw [a.marks b]
    simp only [mem]
    split
    · next hb => exact ⟨fun _ => ⟨g, .inr ⟨rfl, hb⟩⟩, fun _ => rfl⟩
    · next hb => exact (results b).trans (exists_congr fun h => (or_iff_left fun k => hb k.2).symm)

theorem State.restored.next (holds : s.restored (g :: todo)) (fresh : g ∉ todo) : (s.rebuildSlot g).restored todo := by
  obtain ⟨blocks, takes, a⟩ := s.rebuildSlot_restores g
  have bare := holds.clear g (.inl (holds.ahead g List.mem_cons_self))
  exact {
    queues := fun q => (State.queue_congr a.queues q).trans (holds.queues q)
    deadlines := a.deadlines.trans holds.deadlines
    idle := fun h => by
      by_cases e : h = g
      · exact e ▸ a.idle
      · rw [a.slots h e]
        exact holds.idle h
    unserved := fun p => by
      unfold State.port
      rw [a.ports]
      exact holds.unserved p
    blocks := holds.blocks.restores takes (by rw [bare]) a
    clear := fun h k => by
      by_cases e : h = g
      · subst e
        rw [a.job, a.bare k, bare]
        rfl
      · unfold State.job
        rw [a.slots h e] at k ⊢
        exact holds.clear h k
    ahead := fun h hh => by
      rw [a.slots h fun e => fresh (e ▸ hh)]
      exact holds.ahead h (List.mem_cons_of_mem g hh) }

theorem State.restored.all {rest : List Slot} : ∀ {s : State}, s.restored (todo ++ rest) → (todo ++ rest).Nodup →
    (s.rebuildSlots todo).restored rest := by
  induction todo with
  | nil => exact fun holds _ => holds
  | cons g todo ih =>
    intro s holds nodup
    obtain ⟨fresh, nodup⟩ := List.nodup_cons.mp nodup
    exact ih (holds.next fresh) nodup

end

end Sys2Proof.Machine
end

/-! SUPPORT. The commands of the engine keep the agreement of the records: START, its steps, WIPE, RESET and the power-on
(R12 to R17, R21). -/
section
namespace Sys2Proof.Machine

section
variable {s t u : State} {g h : Slot} {p : Port} {blocks : List Nat} {todo : List Slot}

/-! ### A part in which nothing waits and nothing is served -/

/-- A change of the engine's state, or of nothing that the invariants see. -/
structure Lawful (s t : State) : Prop where
  structured : s.structured → t.structured
  loans : s.structured → s.loansHold → t.loansHold
  ordered : s.structured → s.ordered → s.waitsShort → t.ordered

theorem Sound.lawful (a : Sound s t) : Lawful s t := ⟨a.structured, a.loans, fun k o _ => a.ordered k o⟩

theorem Lawful.then (a : Lawful s t) (b : Sound t u) : Lawful s u :=
  ⟨fun k => b.structured (a.structured k), fun k l => b.loans (a.structured k) (a.loans k l),
    fun k o w => b.ordered (a.structured k) (a.ordered k o w)⟩

theorem Lawful.after (a : Sound s t) (b : Lawful t u) : Lawful s u :=
  ⟨fun k => b.structured (a.structured k), fun k l => b.loans (a.structured k) (a.loans k l),
    fun k o w => b.ordered (a.structured k) (a.ordered k o) (a.waits k w)⟩

theorem State.restored.structured (r : t.restored todo)
    (phase : ∀ next g, t.ctl.engine = .starting → t.ctl.startPhase = .rebuilding next → next ≤ g.val → g ∈ todo) : t.structured := by
  refine ⟨fun q => ?_, ?_, ⟨fun p => ?_, fun p g job => ?_, fun g serves => absurd serves (r.idle g).2⟩, r.blocks,
    ⟨fun _ => ⟨r.queues, r.deadlines, r.idle⟩, fun _ => ⟨r.queues, r.deadlines, fun g => (r.idle g).1⟩⟩, r.clear, fun next g engine rebuilding le => ?_⟩
  · rw [r.queues q]
    exact ⟨.nil, fun g => ⟨fun k => absurd k List.not_mem_nil, fun k => absurd k.1 (r.idle g).1⟩⟩
  · unfold State.deadlinesHold
    rw [r.deadlines]
    exact ⟨.nil, fun g => ⟨fun k => absurd k List.not_mem_nil, fun k => absurd k.1 (r.idle g).1⟩⟩
  · exact ⟨fun k => absurd k (r.unserved p).1, fun k => absurd (r.unserved p).2 k⟩
  · cases (r.unserved p).2.symm.trans job
  · have empty := r.ahead g (phase next g engine rebuilding le)
    exact ⟨empty, r.clear g (.inl empty)⟩

theorem State.restored.ordered (r : t.restored todo) : t.ordered where
  queues q := by
    rw [r.queues q]
    exact .nil
  deadlines := by
    rw [r.deadlines]
    exact .nil
  ahead g hg := by
    rw [r.deadlines] at hg
    cases hg

theorem State.restored.noLoans (r : t.restored todo) (b : Nat) : t.loansOf b = 0 := by
  unfold State.loansOf
  rw [List.map_congr_left (g := fun _ => 0) fun g _ => SlotShadow.loans_idle (r.idle g).1 (r.idle g).2 b]
  simp

theorem State.restored.loansHold (r : t.restored todo) (unloaned : ∀ b n, t.mark b ≠ .loaned n) : t.loansHold := fun b =>
  ⟨fun n e => absurd e (unloaned b n), fun _ => r.noLoans b⟩

theorem State.restored.unloaned (r : t.restored todo) (holds : t.loansHold) (b n : Nat) : t.mark b ≠ .loaned n := fun e => by
  obtain ⟨count, one⟩ := (holds b).1 n e
  have zero : n = 0 := count.trans (r.noLoans b)
  omega

/-- A change to a part in which nothing waits and nothing is served. -/
theorem Lawful.of_restored (r : s.structured → t.restored todo)
    (phase : ∀ next g, t.ctl.engine = .starting → t.ctl.startPhase = .rebuilding next → next ≤ g.val → g ∈ todo)
    (unloaned : s.structured → s.loansHold → ∀ b n, t.mark b ≠ .loaned n) : Lawful s t :=
  ⟨fun k => (r k).structured phase, fun k l => (r k).loansHold (unloaned k l), fun k _ _ => (r k).ordered⟩

/-- Outside RUNNING and DRAINING nothing waits and nothing is served (R12). -/
theorem State.structured.restored (holds : s.structured) (still : sweeping s.ctl.engine = false) : s.restored [] := by
  obtain ⟨-, -, pair, blocks, law, clear⟩ := holds
  obtain ⟨queues, deadlines, idle⟩ := law.1 still
  have unserved (p : Port) : (s.port p).job = none := Option.eq_none_iff_forall_ne_some.mpr fun g job => (idle g).2 (pair.2.1 p g job).1
  exact ⟨queues, deadlines, idle, fun p => ⟨fun k => absurd (unserved p) ((pair.1 p).mp k), unserved p⟩, blocks, clear.1,
    fun g k => absurd k List.not_mem_nil⟩

theorem State.structured.rebuilding {next : Nat} (holds : s.structured) (starting : s.ctl.engine = .starting)
    (phase : s.ctl.startPhase = .rebuilding next) : s.restored (allSlots.drop next) := by
  have still : sweeping s.ctl.engine = false := by
    rw [starting]
    rfl
  refine { holds.restored still with ahead := fun g hg => ?_ }
  obtain ⟨-, -, -, -, -, clear⟩ := holds
  refine (clear.2 next g starting phase ?_).1
  obtain ⟨i, hi, e⟩ := List.mem_iff_getElem.mp hg
  rw [List.getElem_drop] at e
  unfold allSlots at e
  rw [List.getElem_finRange] at e
  rw [← e]
  exact Nat.le_add_right next i

/-- A part with the records of another, at ports that serve nothing. -/
theorem State.restored.same (r : s.restored todo) (slots : t.slots = s.slots) (queues : t.queues = s.queues) (deadlines : t.deadlines = s.deadlines)
    (spare : t.spare = s.spare) (marks : t.marks = s.marks) (unserved : ∀ p, (t.port p).state ≠ .serving ∧ (t.port p).job = none) :
    t.restored todo where
  queues q := (State.queue_congr queues q).trans (r.queues q)
  deadlines := deadlines.trans r.deadlines
  idle g := by
    rw [State.slot_congr slots]
    exact r.idle g
  unserved := unserved
  blocks := r.blocks.kept spare (.of_eq marks) fun g => by rw [State.job_congr slots]
  clear g k := by
    rw [State.slot_congr slots] at k
    rw [State.job_congr slots]
    exact r.clear g k
  ahead g hg := by
    rw [State.slot_congr slots]
    exact r.ahead g hg

/-- A part that has been cleared of its records. -/
theorem State.restored.cleared (queues : ∀ q, t.queue q = []) (deadlines : t.deadlines = []) (spare : t.spare = [])
    (marks : ∀ b, t.mark b = .outside) (slots : ∀ g, (t.slot g).state = .empty ∧ t.job g = {})
    (unserved : ∀ p, (t.port p).state ≠ .serving ∧ (t.port p).job = none) (todo : List Slot) : t.restored todo where
  queues := queues
  deadlines := deadlines
  idle g := by
    rw [(slots g).1]
    exact ⟨SlotState.noConfusion, SlotState.noConfusion⟩
  unserved := unserved
  blocks := by
    refine ⟨spare ▸ .nil, fun b => ?_, fun g => ?_, fun g h b hb => ?_, fun b => ?_⟩
    · rw [spare, marks b]
      exact ⟨fun k => absurd k List.not_mem_nil, fun k => (by cases k)⟩
    · rw [(slots g).2]
      exact .nil
    · rw [(slots g).2] at hb
      exact absurd hb List.not_mem_nil
    · rw [marks b]
      refine ⟨fun k => (by cases k), fun ⟨g, hg⟩ => ?_⟩
      rw [(slots g).2] at hg
      exact absurd hg List.not_mem_nil
  clear g _ := (slots g).2
  ahead g _ := (slots g).1

/-! ### START, WIPE, RESET and the power-on (R13 to R15, R21) -/

theorem State.acceptStart_lawful (stopped : s.ctl.engine = .stopped) : Lawful s s.acceptStart := by
  have still : sweeping s.ctl.engine = false := by
    rw [stopped]
    rfl
  exact .of_restored (todo := []) (fun k => (k.restored still).same rfl rfl rfl rfl rfl (k.restored still).unserved)
    (fun next g _ phase => by cases phase) fun k l => (k.restored still).unloaned l

theorem State.failStart_lawful (starting : s.ctl.engine = .starting) (r : ConfigResult) (n : Nat) : Lawful s (s.failStart r n) := by
  have still : sweeping s.ctl.engine = false := by
    rw [starting]
    rfl
  exact .of_restored (todo := []) (fun k => (k.restored still).same rfl rfl rfl rfl rfl (k.restored still).unserved)
    (fun next g engine => by cases engine) fun k l => (k.restored still).unloaned l

theorem State.completeWipe_lawful (wiping : s.ctl.engine = .wiping) : Lawful s s.completeWipe := by
  have still : sweeping s.ctl.engine = false := by
    rw [wiping]
    rfl
  exact .of_restored (todo := []) (fun k => (k.restored still).same rfl rfl rfl rfl rfl (k.restored still).unserved)
    (fun next g engine => by cases engine) fun k l => (k.restored still).unloaned l

theorem State.mark_replicate (marks : t.marks = Vector.replicate 896 .outside) (b : Nat) : t.mark b = .outside := by
  unfold State.mark
  rw [marks]
  split
  · exact Vector.getElem_replicate _
  · rfl

theorem State.acceptWipe_lawful (stopped : s.ctl.engine = .stopped) : Lawful s s.acceptWipe := by
  have still : sweeping s.ctl.engine = false := by
    rw [stopped]
    rfl
  have slot (g : Slot) : s.acceptWipe.slot g = {} := Vector.getElem_replicate g.isLt
  have mark := State.mark_replicate (t := s.acceptWipe) rfl
  refine .of_restored (todo := []) (fun k => ?_) (fun next g engine => by cases engine) fun _ _ b n => by rw [mark]; exact BlockMark.noConfusion
  have r := k.restored still
  refine .cleared (t := s.acceptWipe) r.queues r.deadlines rfl mark (fun g => ?_) r.unserved []
  unfold State.job
  rw [slot]
  exact ⟨rfl, rfl⟩

theorem clearShadow_slot (slots : t.slots = s.slots.map clearShadow) (g : Slot) : (t.slot g).state = .empty ∧ t.job g = {} := by
  unfold State.job State.slot
  rw [slots, Vector.getElem_map]
  exact ⟨rfl, rfl⟩

theorem State.acceptReset_lawful (s : State) : Lawful s s.acceptReset := by
  have mark := State.mark_replicate (t := s.acceptReset) rfl
  have port (p : Port) : s.acceptReset.port p = { cut := cutFrame p (s.port p) } := Vector.getElem_ofFn p.isLt
  refine .of_restored (todo := []) (fun _ => .cleared (fun q => ?_) rfl rfl mark (clearShadow_slot rfl) (fun p => ?_) [])
    (fun next g engine => by cases engine) fun _ _ b n => by rw [mark]; exact BlockMark.noConfusion
  · exact Vector.getElem_replicate q.isLt
  · rw [port]
    exact ⟨PortState.noConfusion, rfl⟩

theorem State.powerOn_lawful (s : State) : Lawful s s.powerOn := by
  have mark := State.mark_replicate (t := s.powerOn) rfl
  refine .of_restored (todo := []) (fun _ => .cleared (fun q => ?_) rfl rfl mark (fun g => ?_) (fun p => ?_) [])
    (fun next g engine => by cases engine) fun _ _ b n => by rw [mark]; exact BlockMark.noConfusion
  · exact Vector.getElem_replicate q.isLt
  · have slot : s.powerOn.slot g = {} := Vector.getElem_replicate g.isLt
    unfold State.job
    rw [slot]
    exact ⟨rfl, rfl⟩
  · have port : s.powerOn.port p = {} := State.port_reset p
    rw [port]
    exact ⟨PortState.noConfusion, rfl⟩

/-! ### The rebuild and START's completion (R16, R17) -/

theorem State.rebuildClear_restored (holds : s.restored []) : s.rebuildClear.restored allSlots := by
  refine .cleared (fun q => (State.rebuildClear_pool q).1) State.rebuildClear_deadlines State.rebuildClear_spare State.rebuildClear_mark
    (fun g => ⟨?_, State.rebuildClear_job g⟩) (fun p => ?_) allSlots
  · rw [State.rebuildClear_slot]
    rfl
  · rw [State.rebuildClear_port]
    exact holds.unserved p

theorem State.rebuildSlots_unloaned (l : List Slot) : ∀ {s : State}, (∀ b n, s.mark b ≠ .loaned n) → ∀ b n, (s.rebuildSlots l).mark b ≠ .loaned n := by
  induction l with
  | nil => exact fun k => k
  | cons g rest ih =>
    intro s k
    refine ih (s := s.rebuildSlot g) fun b n => ?_
    rcases (s.rebuildSlot_rebuilds g).marks b with e | e <;> rw [e]
    · exact k b n
    · exact BlockMark.noConfusion

theorem mem_drop_allSlots {n : Nat} {g : Slot} (le : n ≤ g.val) : g ∈ allSlots.drop n := by
  refine List.mem_iff_getElem.mpr ⟨g.val - n, ?_, ?_⟩
  · rw [List.length_drop]
    unfold allSlots
    rw [List.length_finRange]
    omega
  · rw [List.getElem_drop]
    unfold allSlots
    rw [List.getElem_finRange]
    exact Fin.ext (by simp; omega)

theorem State.validateStart_lawful (starting : s.ctl.engine = .starting) : Lawful s s.validateStart := by
  have still : sweeping s.ctl.engine = false := by
    rw [starting]
    rfl
  unfold State.validateStart
  split
  · exact State.failStart_lawful starting _ _
  · have rebuilt (k : s.structured) : (s.rebuildClear.rebuildSlots (allSlots.take s.rebuildReach)).restored (allSlots.drop s.rebuildReach) := by
      have cleared := State.rebuildClear_restored (k.restored still)
      rw [← List.take_append_drop s.rebuildReach allSlots] at cleared
      refine cleared.all ?_
      rw [List.take_append_drop]
      exact List.nodup_finRange 128
    refine .of_restored (fun k => (rebuilt k).same rfl rfl rfl rfl rfl (rebuilt k).unserved) (fun next g _ phase le => ?_) fun _ _ => ?_
    · obtain rfl : s.rebuildReach = next := StartPhase.rebuilding.inj phase
      exact mem_drop_allSlots le
    · exact State.rebuildSlots_unloaned _ fun b n => by
        rw [State.rebuildClear_mark]
        exact BlockMark.noConfusion

theorem PortRecord.started_unserved {x : PortRecord} {cls : PortClass} (h : x.state ≠ .serving ∧ x.job = none) :
    (x.started cls).state ≠ .serving ∧ (x.started cls).job = none := by
  unfold PortRecord.started probingPort
  split
  · exact h
  · exact ⟨PortState.noConfusion, h.2⟩

theorem State.completeStart_restored (r : s.restored []) : s.completeStart.restored [] := by
  have same {β : Type} (view : State → β) (control : ∀ t f, view (State.setControl t f) = view t)
      (port : ∀ t p y, view (State.setPort t p y) = view t) (word : ∀ t a v, view (State.putWord t a v) = view t)
      (box : ∀ t st r b, view (State.setMailbox t st r b) = view t) (notice : ∀ t b, view (State.setNotice t b) = view t) :
      view s.completeStart = view s := State.completeStart_same view control port word box notice s
  refine r.same (same State.slots (fun _ _ => rfl) (fun _ _ _ => rfl) (fun _ _ _ => rfl) (fun _ _ _ _ => rfl) fun _ _ => rfl)
    (same State.queues (fun _ _ => rfl) (fun _ _ _ => rfl) (fun _ _ _ => rfl) (fun _ _ _ _ => rfl) fun _ _ => rfl)
    (same State.deadlines (fun _ _ => rfl) (fun _ _ _ => rfl) (fun _ _ _ => rfl) (fun _ _ _ _ => rfl) fun _ _ => rfl)
    (same State.spare (fun _ _ => rfl) (fun _ _ _ => rfl) (fun _ _ _ => rfl) (fun _ _ _ _ => rfl) fun _ _ => rfl)
    (same State.marks (fun _ _ => rfl) (fun _ _ _ => rfl) (fun _ _ _ => rfl) (fun _ _ _ _ => rfl) fun _ _ => rfl) fun p => ?_
  rw [State.completeStart_port]
  refine PortRecord.started_unserved ?_
  unfold PortRecord.zonesSampled
  split <;> exact r.unserved p

theorem State.startCompletion_lawful {next : Nat} (starting : s.ctl.engine = .starting) (phase : s.ctl.startPhase = .rebuilding next) :
    Lawful s (s.rebuildSlots (allSlots.drop next)).completeStart := by
  have still : sweeping s.ctl.engine = false := by
    rw [starting]
    rfl
  have rebuilt (k : s.structured) : (s.rebuildSlots (allSlots.drop next)).restored [] := by
    have taken := k.rebuilding starting phase
    rw [← List.append_nil (allSlots.drop next)] at taken
    refine taken.all ?_
    rw [List.append_nil]
    exact (List.nodup_finRange 128).sublist (List.drop_sublist _ _)
  have marks : (s.rebuildSlots (allSlots.drop next)).completeStart.marks = (s.rebuildSlots (allSlots.drop next)).marks :=
    State.completeStart_same State.marks (fun _ _ => rfl) (fun _ _ _ => rfl) (fun _ _ _ => rfl) (fun _ _ _ _ => rfl) (fun _ _ => rfl) _
  refine .of_restored (fun k => State.completeStart_restored (rebuilt k)) (fun _ g engine => ?_) fun k l b n => ?_
  · rw [State.completeStart_ctl] at engine
    cases engine
  · rw [State.mark_congr marks]
    exact State.rebuildSlots_unloaned _ ((k.restored still).unloaned l) b n

end

end Sys2Proof.Machine
end

/-! SUPPORT. A hall tick keeps the order of queues and deadline list: the expiries that are due are taken before the clock rises
(R48, R49, R52, R55). -/
section
namespace Sys2Proof.Machine

section
variable {s t u : State} {g h : Slot}

/-! ### The expiries of a clock value (R55) -/

theorem State.ownEvent_sound {f : State → State} (sound : ∀ s, Sound s (f s)) (s : State) : Sound s (s.ownEvent f) :=
  (sound s).trans (closeEvent_sound s (f s))

theorem State.portExpiries_sound (s : State) (p : Port) : Sound s (s.portExpiries p) :=
  ((((State.ownEvent_sound (fun t => t.responseEvent_sound p) s).trans (State.ownEvent_sound (fun t => t.probeEvent_sound p) _)).trans
    (State.ownEvent_sound (fun t => t.sheetEvent_sound p) _)).trans (State.ownEvent_sound (fun t => t.starveEvent_sound p) _)).trans
    (State.ownEvent_sound (fun t => t.holdEvent_sound p) _)

theorem State.deadlineExpiries_sound (n : Nat) : ∀ s, Sound s (State.deadlineExpiries n s) := by
  induction n with
  | zero => exact fun s => .refl s
  | succ n ih =>
    intro s
    unfold State.deadlineExpiries
    exact .ite (fun _ => (State.ownEvent_sound State.deadlineEvent_sound s).trans (ih _)) fun _ => .refl s

theorem closeEvent_deadlines (s t : State) : (closeEvent s t).deadlines = t.deadlines := by
  have ended : (drainEnd s t).deadlines = t.deadlines := by
    rcases drainEnd_cases s t with e | ⟨-, -, -, e⟩ <;> rw [e]
    rw [State.enterStopped_eq]
  unfold closeEvent
  rw [settleInterrupt_eq]
  exact ended

theorem State.expiredHead_mem (head : s.expiredHead = some g) : ∃ rest, s.deadlines = g :: rest := by
  unfold State.expiredHead at head
  split at head
  · next l eq =>
    split at head
    · split at head
      · exact ⟨l, Option.some.inj head ▸ eq⟩
      · cases head
    · cases head
  · cases head

/-- An expiry takes the head off the deadline list. -/
theorem State.expiry_deadlines (head : s.expiredHead = some g) : (s.ownEvent State.deadlineEvent).deadlines = s.deadlines.erase g := by
  unfold State.ownEvent State.deadlineEvent
  rw [closeEvent_deadlines, head]
  exact State.finish_deadlines _ _ _ _ _

/-- With an expiry for each entry of the list none stays due. -/
theorem State.deadlineExpiries_none (n : Nat) : ∀ s : State, s.deadlines.length ≤ n → (State.deadlineExpiries n s).expiredHead = none := by
  induction n with
  | zero =>
    intro s short
    unfold State.deadlineExpiries State.expiredHead
    rw [List.length_eq_zero_iff.mp (Nat.le_zero.mp short)]
  | succ n ih =>
    intro s short
    unfold State.deadlineExpiries
    split
    · next some =>
      obtain ⟨g, head⟩ := Option.isSome_iff_exists.mp some
      obtain ⟨rest, list⟩ := State.expiredHead_mem head
      refine ih _ ?_
      rw [State.expiry_deadlines head, list, List.erase_cons_head]
      rw [list, List.length_cons] at short
      omega
    · next none => exact Option.not_isSome_iff_eq_none.mp none

/-- Where the head is not reached, no entry of the list is. -/
theorem State.ordered.expiriesAhead (order : s.ordered) (holds : s.structured) (none : s.expiredHead = none) : s.expiriesAhead := by
  obtain ⟨-, list, -, -, law, -⟩ := holds
  intro g hg
  obtain ⟨first, rest, split⟩ := List.exists_cons_of_ne_nil (List.ne_nil_of_mem hg)
  have sweeps : sweeping s.ctl.engine = true := by
    by_contra still
    rw [(law.1 (Bool.eq_false_iff.mpr still)).2.1] at hg
    cases hg
  have head : 1 ≤ s.expiresIn first := by
    have mem : first ∈ s.deadlines := split ▸ List.mem_cons_self
    have low := (order.ahead first mem).1
    obtain ⟨e, expiry⟩ := Option.ne_none_iff_exists'.mp ((list.2 first).mp mem).2.2
    unfold State.expiredHead at none
    rw [split] at none
    simp only [expiry, sweeps, Bool.true_and] at none
    by_contra zero
    have now : s.expiresIn first = 0 := by omega
    unfold State.expiresIn at now
    rw [expiry] at now
    have same : e = s.ctl.clock := by
      have diff : e - s.ctl.clock = 0 := BitVec.eq_of_toInt_eq now
      bv_omega
    rw [same] at none
    unfold reached interval at none
    simp at none
  rcases List.mem_cons.mp (split ▸ hg) with rfl | later
  · exact head
  · have pairs := order.deadlines
    rw [split] at pairs
    rcases (List.pairwise_cons.mp pairs).1 g later with before | same
    · omega
    · omega

theorem State.takeExpiries_sound (s : State) : Sound s s.takeExpiries :=
  (((State.deadlineExpiries_sound _ s).trans (State.ownEvent_sound (fun t => t.sweepTimerEvent_quiet.sound) _)).trans
    (State.ownEvent_sound State.decayEvent_sound _)).trans (Sound.foldl State.portExpiries_sound _ _)

theorem State.takeExpiries_ahead (holds : s.structured) (order : s.ordered) : s.takeExpiries.expiriesAhead := by
  have first := State.deadlineExpiries_sound s.deadlines.length s
  have later : Sound (State.deadlineExpiries s.deadlines.length s) s.takeExpiries :=
    ((State.ownEvent_sound (fun t => t.sweepTimerEvent_quiet.sound) _).trans (State.ownEvent_sound State.decayEvent_sound _)).trans
      (Sound.foldl State.portExpiries_sound _ _)
  exact later.ahead (first.structured holds) ((first.ordered holds order).expiriesAhead (first.structured holds)
    (State.deadlineExpiries_none _ s (Nat.le_refl _)))

/-! ### The clock rises (R48) -/

theorem State.raiseClock_waits (short : s.waits g + 1 < 2 ^ 32) : s.raiseClock.waits g = s.waits g + 1 := by
  have own : s.raiseClock.waits g = (s.ctl.clock + 1 - (s.job g).acceptStamp).toNat := rfl
  unfold State.waits at *
  rw [own]
  bv_omega

theorem toInt_pred {x : Stamp} (pos : 1 ≤ x.toInt) : (x - 1).toInt = x.toInt - 1 := by
  rw [BitVec.toInt_eq_toNat_cond] at pos ⊢
  rw [BitVec.toInt_eq_toNat_cond]
  have lt := x.isLt
  have sub : (x - 1).toNat = (2 ^ 32 - 1 + x.toNat) % 2 ^ 32 := BitVec.toNat_sub x 1
  split at pos <;> split <;> omega

theorem State.raiseClock_expiresIn (pos : 1 ≤ s.expiresIn g) : s.raiseClock.expiresIn g = s.expiresIn g - 1 := by
  unfold State.expiresIn at *
  show (match (s.job g).expiry with | some e => (e - (s.ctl.clock + 1)).toInt | none => 0) = _
  cases expiry : (s.job g).expiry with
  | none =>
    rw [expiry] at pos
    exact absurd pos (by simp)
  | some e =>
    rw [expiry] at pos
    have next : e - (s.ctl.clock + 1) = e - s.ctl.clock - 1 := by bv_omega
    show (e - (s.ctl.clock + 1)).toInt = _
    rw [next]
    exact toInt_pred pos

theorem State.raiseClock_ordered (holds : s.structured) (order : s.ordered) (short : s.waitsShort) (ahead : s.expiriesAhead) :
    s.raiseClock.ordered where
  queues q := by
    refine (order.queues q).imp_of_mem fun {g h} hg hh k => ?_
    have one {g : Slot} (hg : g ∈ s.queue q) : s.raiseClock.waits g = s.waits g + 1 :=
      State.raiseClock_waits (short g (.inl (((holds.1 q).2 g).mp hg).1))
    unfold State.stands at *
    rw [one hg, one hh]
    exact k.imp (fun k => Nat.succ_lt_succ k) fun k => ⟨congrArg (· + 1) k.1, k.2⟩
  deadlines := by
    refine order.deadlines.imp_of_mem fun {g h} hg hh k => ?_
    unfold State.expiresFirst at *
    rw [State.raiseClock_expiresIn (ahead g hg), State.raiseClock_expiresIn (ahead h hh)]
    exact k.imp (fun k => by omega) fun k => ⟨by omega, k.2⟩
  ahead g hg := by
    rw [State.raiseClock_expiresIn (ahead g hg)]
    have low := ahead g hg
    have high := (order.ahead g hg).2
    omega

/-- The clock is none of the records. -/
theorem State.raiseClock_lawful (ahead : s.structured → s.ordered → s.expiriesAhead) : Lawful s s.raiseClock :=
  ⟨id, fun _ => id, fun holds order short => State.raiseClock_ordered holds order short (ahead holds order)⟩

theorem State.tick_lawful (s : State) : Lawful s s.tick := by
  unfold State.tick
  split
  · refine ⟨fun k => s.takeExpiries_sound.structured k, fun k l => s.takeExpiries_sound.loans k l, fun k o w => ?_⟩
    exact State.raiseClock_ordered (s.takeExpiries_sound.structured k) (s.takeExpiries_sound.ordered k o) (s.takeExpiries_sound.waits k w)
      (State.takeExpiries_ahead k o)
  · next quiet =>
    refine State.raiseClock_lawful fun k o => o.expiriesAhead k ?_
    unfold State.expiryDue at quiet
    simp only [Bool.or_eq_true, not_or] at quiet
    exact Option.not_isSome_iff_eq_none.mp quiet.1.1.1

end

end Sys2Proof.Machine
end

/-! The obligation about the order of queues and deadline list, and the agreement of the records under every command. -/
section
namespace Sys2Proof.Machine

section
variable {s t : State} {c : Instr}

/-- The engine states in which R2 accepts a command. -/
theorem accepted_stopped {k : Command} (which : k = .start ∨ k = .wipe) (accepted : judgeCommand k s.ctl.engine = none) :
    s.ctl.engine = .stopped := by
  by_contra other
  rcases which with rfl | rfl
  · cases accepted.symm.trans (judgeCommand_start other).choose_spec
  · cases accepted.symm.trans (judgeCommand_wipe other).choose_spec

theorem accepted_running (accepted : judgeCommand .stop s.ctl.engine = none) (draining : s.ctl.engine ≠ .draining) : s.ctl.engine = .running := by
  by_contra other
  cases accepted.symm.trans (judgeCommand_stop other draining).choose_spec

theorem State.control_lawful (s : State) (k : Command) : Lawful s (s.control k) := by
  unfold State.control
  cases accepted : judgeCommand k s.ctl.engine with
  | some r => exact (s.recordCommand_quiet k .refused r).sound.lawful
  | none =>
    cases k with
    | start => exact State.acceptStart_lawful (accepted_stopped (.inl rfl) accepted)
    | stop =>
      show Lawful s (if s.ctl.engine = .draining then s.setControl (recordCommand .stop .accepted .none) else s.drain)
      split
      · exact (s.recordCommand_quiet _ _ _).sound.lawful
      · next draining => exact (State.drain_sound (accepted_running accepted draining)).lawful
    | wipe => exact State.acceptWipe_lawful (accepted_stopped (.inr rfl) accepted)
    | reset => exact s.acceptReset_lawful
    | none => exact (Sound.refl s).lawful

theorem State.nudgeVisit_quiet (s : State) (st : Station) : Quiet s (s.nudgeVisit st) :=
  .ite (State.setControl_quiet rfl rfl rfl) (.refl s)

theorem State.nudgeSweep_quiet (s : State) : Quiet s s.nudgeSweep :=
  .ite (State.setControl_quiet rfl rfl rfl) (.refl s)

theorem State.writeNotice_quiet (s : State) (w : Word) : Quiet s (s.writeNotice w) := .of_eq rfl rfl rfl rfl rfl rfl rfl

theorem State.writeStationNotice_quiet (s : State) (w : Word) : Quiet s (s.writeStationNotice w) := .of_eq rfl rfl rfl rfl rfl rfl rfl

theorem State.registerWrite_lawful (s : State) (offset : Nat) (lanes : BitVec 4) (w : Word) : Lawful s (s.registerWrite offset lanes w) := by
  have same {t : State} (q : Quiet s t) : Lawful s t := q.sound.lawful
  unfold State.registerWrite
  split
  · exact same (.refl s)
  · split
    · unfold State.writeControl
      split
      · exact s.control_lawful _
      · exact same (.refl s)
    · unfold State.nudge
      split
      · exact same (s.nudgeVisit_quiet _)
      · split
        · exact same s.nudgeSweep_quiet
        · exact same (.refl s)
    · exact same (s.writeNotice_quiet w)
    · exact same (State.setControl_quiet rfl rfl rfl)
    · exact same (s.writeStationNotice_quiet w)
    · exact same (.refl s)

theorem State.visitDue_sweeps {st : Station} (due : s.ctl.visitDue = some st) : s.ctl.engine ≠ .starting := by
  intro starting
  unfold Control.visitDue at due
  rw [starting] at due
  cases due

theorem exec_lawful (h : exec c s = .next t) : Lawful s t := by
  have closes {u : State} (a : Lawful s u) : Lawful s (closeEvent s u) := a.then (closeEvent_sound s u)
  have event {u : State} (a : Sound s u) : Lawful s (closeEvent s u) := closes a.lawful
  have quiet {u : State} (a : Quiet s u) : Lawful s u := a.sound.lawful
  cases c
  case powerOnReset => cases h; exact s.powerOn_lawful
  case wipeCompletion =>
    simp only [exec, execWipeCompletion] at h
    split at h <;> cases h
    · next wiping => exact closes (State.completeWipe_lawful wiping)
    · exact quiet (.refl s)
  case start | stop | wipe | reset => cases h; exact closes (s.control_lawful _)
  case configurationValidation =>
    simp only [exec, execConfigurationValidation] at h
    split at h <;> cases h
    · next starting => exact closes (State.validateStart_lawful starting.1)
    · exact quiet (.refl s)
  case startCompletion =>
    simp only [exec, execStartCompletion] at h
    split at h <;> cases h
    · next next starting phase => exact closes (State.startCompletion_lawful starting phase)
    · exact quiet (.refl s)
  case nudgeVisit st => cases h; exact quiet (s.nudgeVisit_quiet st)
  case nudgeWholeSweep => cases h; exact quiet s.nudgeSweep_quiet
  case noticeWrite w =>
    cases h
    exact quiet ((s.writeNotice_quiet w).trans (settleInterrupt_quiet s _))
  case maskWrite w => cases h; exact quiet ((State.setControl_quiet rfl rfl rfl).trans (settleInterrupt_quiet s (s.writeMask w)))
  case stationNoticeWrite w =>
    cases h
    exact quiet ((s.writeStationNotice_quiet w).trans (settleInterrupt_quiet s _))
  case registerWriteIgnored offset lanes w =>
    simp only [exec, execRegisterWriteIgnored] at h
    split at h
    · cases h
    · split at h <;> cases h
      exact closes (s.registerWrite_lawful offset lanes w)
  case messagesEnabledChange b => cases h; exact quiet (State.setControl_quiet rfl rfl rfl)
  case hallTick => cases h; exact s.tick_lawful
  case deadlineExpiry => cases h; exact event s.deadlineEvent_sound
  case sweepTimerExpiry => cases h; exact event s.sweepTimerEvent_quiet.sound
  case wholeSweepStart => cases h; exact quiet s.startSweepIfDue_quiet
  case visit st =>
    simp only [exec, execVisit] at h
    split at h <;> cases h
    · next due => exact event (s.makeVisit_sound st (State.visitDue_sweeps due))
    · exact quiet (.refl s)
  case wholeSweepEnd =>
    simp only [exec, execWholeSweepEnd] at h
    split at h
    · split at h <;> cases h
      · exact event (s.closeSweep_sound _)
      · exact quiet (.refl s)
    · cases h; exact quiet (.refl s)
  case decayTimerExpiry => cases h; exact event s.decayEvent_sound
  case characterReceived p ch => cases h; exact event (s.characterEvent_sound p ch)
  case frameRejected p k l x => cases h; exact event (s.rejectEvent_sound p k l x)
  case frameSent p => cases h; exact (s.sentEvent_sound p).lawful
  case responseTimerExpiry p => cases h; exact event (s.responseEvent_sound p)
  case probeTimerExpiry p => cases h; exact event (s.probeEvent_sound p)
  case sheetTimerExpiry p => cases h; exact event (s.sheetEvent_sound p)
  case starveTimerExpiry p => cases h; exact event (s.starveEvent_sound p)
  case holdTimerExpiry p => cases h; exact event (s.holdEvent_sound p)
  case hostExchangeMemoryWrite offset lanes w =>
    simp only [exec, execHostExchangeMemoryWrite] at h
    split at h
    · cases h
    · split at h <;> cases h
      exact quiet (.ite (.of_eq rfl rfl rfl rfl rfl rfl rfl) (.refl s))
  case stateFrame | sheetFrame | imageFrame | imageEndFrame | contactFrame | ackFrame | nakFrame =>
    cases h; exact event (s.frameEvent_sound _ _)

/-- The commands that wait are none of the records. -/
theorem step_lawful (h : step s = .next t) : Lawful s t := by
  rcases step_cases h with rfl | ⟨c, rest, -, run⟩
  · exact (Sound.refl _).lawful
  · have quiet : Quiet s { s with pending := rest } := .of_eq rfl rfl rfl rfl rfl rfl rfl
    exact .after quiet.sound (exec_lawful run)

/-- Settles O7: every change of the records keeps the order (`Sound`), and the clock rises when no head is reached (`tick_lawful`). -/
theorem stepKeepsTheOrder : Obligations.StepKeepsTheOrder :=
  fun _ _ holds order short h => (step_lawful h).ordered holds order short

end

end Sys2Proof.Machine
end

/-! The obligation about the part at rest, the agreement of its records and the loans. -/
section
namespace Sys2Proof.Machine

section
variable {s t u : State} {c : Instr}

/-! ### Changes of a part at rest (R12, R20, R43) -/

theorem State.atRest.of_sweeping (sweeps : sweeping t.ctl.engine = true) : t.atRest := fun still => by
  rw [sweeps] at still
  cases still

/-- A change of a part at rest that touches none of its timers, sweeps and ports. -/
theorem State.atRest.same (rest : s.atRest) (still : sweeping s.ctl.engine = false) (sweep : t.ctl.sweep = s.ctl.sweep)
    (timer : t.ctl.sweepTimer = s.ctl.sweepTimer) (held : t.ctl.sweepHeld = s.ctl.sweepHeld) (decay : t.ctl.decayTimer = s.ctl.decayTimer)
    (visits : t.ctl.nudgeVisits = s.ctl.nudgeVisits) (nudged : t.ctl.nudgeSweep = s.ctl.nudgeSweep)
    (ports : ∀ p, (s.port p).atRest → (t.port p).atRest) : t.atRest := fun _ => by
  rw [sweep, timer, held, decay, visits, nudged]
  obtain ⟨h1, h2, h3, h4, h5, h6, h7⟩ := rest still
  exact ⟨h1, h2, h3, h4, h5, h6, fun p => ports p (h7 p)⟩

theorem State.atRest.of_eq (rest : s.atRest) (ctl : t.ctl = s.ctl) (ports : t.ports = s.ports) : t.atRest := by
  unfold State.atRest State.port at *
  rw [ctl, ports]
  exact rest

theorem State.enterStopped_rests (s : State) : s.enterStopped.atRest := by
  intro _
  rw [State.enterStopped_ctl]
  refine ⟨rfl, rfl, rfl, rfl, rfl, rfl, fun p => ?_⟩
  rw [State.enterStopped_port]
  exact ⟨rfl, rfl, rfl⟩

theorem settleInterrupt_rests (rest : t.atRest) : (settleInterrupt s t).atRest := by
  rw [settleInterrupt_eq]
  exact rest

/-- What closes an event of a part that sweeps, or does not. -/
theorem closeEvent_rests (rest : t.atRest) : (closeEvent s t).atRest := by
  refine settleInterrupt_rests ?_
  rcases drainEnd_cases s t with e | ⟨-, -, -, e⟩ <;> rw [e]
  · exact rest
  · exact t.enterStopped_rests

/-- An event that does nothing at rest and leaves the engine. -/
theorem event_rests (rest : s.atRest) (idle : sweeping s.ctl.engine = false → u = s) (engine : u.ctl.engine = s.ctl.engine) :
    (closeEvent s u).atRest := by
  refine closeEvent_rests ?_
  cases still : sweeping s.ctl.engine with
  | false => exact idle still ▸ rest
  | true => exact .of_sweeping (engine ▸ still)

/-! ### The hall tick (R48) -/

theorem State.ownEvent_rests {f : State → State} (idle : ∀ s, s.atRest → sweeping s.ctl.engine = false → f s = s)
    (kept : ∀ s, (f s).ctl.engine = s.ctl.engine) (s : State) (rest : s.atRest) : (s.ownEvent f).atRest :=
  event_rests rest (idle s rest) (kept s)

theorem State.portExpiries_rests (s : State) (rest : s.atRest) (p : Port) : (s.portExpiries p).atRest := by
  have response := State.ownEvent_rests (f := fun t => t.responseEvent p) (fun _ r k => State.responseEvent_atRest r k p)
    (fun t => by rw [(t.responseEvent_kept p).ctl]) s rest
  have probe := State.ownEvent_rests (f := fun t => t.probeEvent p) (fun _ r k => State.probeEvent_atRest r k p)
    (fun t => by rw [(t.probeEvent_kept p).ctl]) _ response
  have sheet := State.ownEvent_rests (f := fun t => t.sheetEvent p) (fun _ r k => State.sheetEvent_atRest r k p)
    (fun t => by rw [(t.sheetEvent_kept p).ctl]) _ probe
  have starve := State.ownEvent_rests (f := fun t => t.starveEvent p) (fun _ r k => State.starveEvent_atRest r k p)
    (fun t => by rw [(t.starveEvent_kept p).ctl]) _ sheet
  exact State.ownEvent_rests (f := fun t => t.holdEvent p) (fun _ r k => State.holdEvent_atRest r k p)
    (fun t => by rw [(t.holdEvent_kept p).ctl]) _ starve

theorem State.deadlineExpiries_rests (n : Nat) : ∀ s : State, s.atRest → (State.deadlineExpiries n s).atRest := by
  induction n with
  | zero => exact fun s rest => rest
  | succ n ih =>
    intro s rest
    unfold State.deadlineExpiries
    split
    · exact ih _ (State.ownEvent_rests (fun _ r k => State.deadlineEvent_atRest r k) (fun t => by rw [t.deadlineEvent_kept.ctl]) s rest)
    · exact rest

theorem State.takeExpiries_rests (rest : s.atRest) : s.takeExpiries.atRest := by
  have deadlines := State.deadlineExpiries_rests s.deadlines.length s rest
  have sweep := State.ownEvent_rests (f := State.sweepTimerEvent) (fun _ r k => State.sweepTimerEvent_atRest r k)
    (fun t => t.sweepTimerEvent_stays.engine) _ deadlines
  have decay := State.ownEvent_rests (f := State.decayEvent) (fun _ r k => State.decayEvent_atRest r k)
    (fun t => t.decayEvent_stays.engine) _ sweep
  have ports (l : List Port) : ∀ t : State, t.atRest → (l.foldl State.portExpiries t).atRest := by
    induction l with
    | nil => exact fun _ rest => rest
    | cons p l ih => exact fun t rest => ih _ (t.portExpiries_rests rest p)
  unfold State.takeExpiries
  exact ports allPorts _ decay

theorem State.tick_rests (rest : s.atRest) : s.tick.atRest := by
  have raised {t : State} (rest : t.atRest) : t.raiseClock.atRest := fun still => rest still
  unfold State.tick
  split
  · exact raised (State.takeExpiries_rests rest)
  · exact raised rest

/-! ### The commands of the engine -/

theorem State.acceptReset_rests (s : State) : s.acceptReset.atRest := by
  intro _
  refine ⟨rfl, rfl, rfl, rfl, rfl, rfl, fun p => ?_⟩
  have port : s.acceptReset.port p = { cut := cutFrame p (s.port p) } := Vector.getElem_ofFn p.isLt
  rw [port]
  exact ⟨rfl, rfl, rfl⟩

theorem State.powerOn_rests (s : State) : s.powerOn.atRest := by
  intro _
  refine ⟨rfl, rfl, rfl, rfl, rfl, rfl, fun p => ?_⟩
  have port : s.powerOn.port p = {} := State.port_reset p
  rw [port]
  exact ⟨rfl, rfl, rfl⟩

/-- STATUS alone, or the engine's state too. -/
theorem State.status_rests (rest : s.atRest) (k : Command) (o : CommandOutcome) (r : RefusalReason) : (s.setControl (recordCommand k o r)).atRest :=
  fun still => rest still

theorem State.drain_rests (s : State) : s.drain.atRest := by
  rw [State.drain_eq]
  split
  · exact .of_sweeping (by rw [State.drained_ctl]; rfl)
  · exact State.enterStopped_rests _

theorem State.control_rests (rest : s.atRest) (k : Command) : (s.control k).atRest := by
  unfold State.control
  cases accepted : judgeCommand k s.ctl.engine with
  | some r => exact State.status_rests rest k _ r
  | none =>
    cases k with
    | start =>
      have still : sweeping s.ctl.engine = false := by rw [accepted_stopped (.inl rfl) accepted]; rfl
      exact rest.same still rfl rfl rfl rfl rfl rfl fun _ => id
    | stop =>
      show State.atRest (if s.ctl.engine = .draining then s.setControl (recordCommand .stop .accepted .none) else s.drain)
      split
      · exact State.status_rests rest _ _ _
      · exact s.drain_rests
    | wipe =>
      have still : sweeping s.ctl.engine = false := by rw [accepted_stopped (.inr rfl) accepted]; rfl
      exact rest.same still rfl rfl rfl rfl rfl rfl fun _ => id
    | reset => exact s.acceptReset_rests
    | none => exact rest

theorem State.rebuildSlots_same (l : List Slot) : ∀ s : State, (s.rebuildSlots l).ctl = s.ctl ∧ (s.rebuildSlots l).ports = s.ports := by
  induction l with
  | nil => exact fun _ => ⟨rfl, rfl⟩
  | cons g rest ih =>
    intro s
    obtain ⟨blocks, -, a⟩ := s.rebuildSlot_restores g
    obtain ⟨ctl, ports⟩ := ih (s.rebuildSlot g)
    exact ⟨ctl.trans a.ctl, ports.trans a.ports⟩

theorem State.rebuilding_rests (rest : t.atRest) (n : StartPhase) : ((t.setControl fun c => { c with startPhase := n }).drawFree).atRest :=
  fun still => rest still

theorem State.validateStart_rests (rest : s.atRest) (starting : s.ctl.engine = .starting) : s.validateStart.atRest := by
  have still : sweeping s.ctl.engine = false := by rw [starting]; rfl
  unfold State.validateStart
  split
  · exact rest.same still rfl rfl rfl rfl rfl rfl fun _ => id
  · obtain ⟨ctl, ports⟩ := State.rebuildSlots_same (allSlots.take s.rebuildReach) s.rebuildClear
    have cleared : s.rebuildClear.atRest := by
      refine rest.same still ?_ ?_ ?_ ?_ ?_ ?_ fun p own => ?_
      case refine_7 =>
        rw [State.rebuildClear_port]
        exact own
      all_goals rw [State.rebuildClear_ctl]
    exact State.rebuilding_rests (cleared.of_eq ctl ports) _

theorem State.nudge_rests (rest : s.atRest) (w : Word) : (s.nudge w).atRest := by
  have nudged {f : Control → Control} (engine : (f s.ctl).engine = s.ctl.engine) :
      (if sweeping s.ctl.engine then s.setControl f else s).atRest := by
    split
    · next sweeps => exact .of_sweeping ((congrArg sweeping engine).trans sweeps)
    · exact rest
  unfold State.nudge
  split
  · exact nudged rfl
  · split
    · exact nudged rfl
    · exact rest

theorem State.registerWrite_rests (rest : s.atRest) (offset : Nat) (lanes : BitVec 4) (w : Word) : (s.registerWrite offset lanes w).atRest := by
  unfold State.registerWrite
  split
  · exact rest
  · split
    · unfold State.writeControl
      split
      · exact State.control_rests rest _
      · exact rest
    · exact State.nudge_rests rest w
    · exact rest.of_eq rfl rfl
    · exact fun still => rest still
    · exact rest.of_eq rfl rfl
    · exact rest

theorem exec_rests (rest : s.atRest) (h : exec c s = .next t) : t.atRest := by
  cases c
  case powerOnReset => cases h; exact s.powerOn_rests
  case wipeCompletion =>
    simp only [exec, execWipeCompletion] at h
    split at h <;> cases h
    · next wiping =>
      exact closeEvent_rests (rest.same (by rw [wiping]; rfl) rfl rfl rfl rfl rfl rfl fun _ => id)
    · exact rest
  case start | stop | wipe | reset => cases h; exact closeEvent_rests (State.control_rests rest _)
  case configurationValidation =>
    simp only [exec, execConfigurationValidation] at h
    split at h <;> cases h
    · next starting => exact closeEvent_rests (State.validateStart_rests rest starting.1)
    · exact rest
  case startCompletion =>
    simp only [exec, execStartCompletion] at h
    split at h <;> cases h
    · exact closeEvent_rests (.of_sweeping (by rw [State.completeStart_ctl]; rfl))
    · exact rest
  case nudgeVisit st =>
    cases h
    unfold State.nudgeVisit
    split
    · next sweeps => exact .of_sweeping sweeps
    · exact rest
  case nudgeWholeSweep =>
    cases h
    unfold State.nudgeSweep
    split
    · next sweeps => exact .of_sweeping sweeps
    · exact rest
  case noticeWrite w => cases h; exact settleInterrupt_rests (rest.of_eq rfl rfl)
  case maskWrite w => cases h; exact settleInterrupt_rests fun still => rest still
  case stationNoticeWrite w => cases h; exact settleInterrupt_rests (rest.of_eq rfl rfl)
  case registerWriteIgnored offset lanes w =>
    simp only [exec, execRegisterWriteIgnored] at h
    split at h
    · cases h
    · split at h <;> cases h
      exact closeEvent_rests (State.registerWrite_rests rest offset lanes w)
  case messagesEnabledChange b => cases h; exact fun still => rest still
  case hallTick => cases h; exact State.tick_rests rest
  case deadlineExpiry => cases h; exact event_rests rest (State.deadlineEvent_atRest rest) (by rw [s.deadlineEvent_kept.ctl])
  case sweepTimerExpiry => cases h; exact event_rests rest (State.sweepTimerEvent_atRest rest) s.sweepTimerEvent_stays.engine
  case wholeSweepStart =>
    cases h
    cases still : sweeping s.ctl.engine with
    | false =>
      rw [State.startSweep_atRest rest still]
      exact rest
    | true => exact .of_sweeping ((congrArg sweeping (startSweepIfDue_engine s.ctl).1).trans still)
  case visit st =>
    simp only [exec, execVisit] at h
    split at h <;> cases h
    · next due =>
      refine event_rests rest (fun still => ?_) (s.makeVisit_stays st).engine
      rw [State.visitDue_atRest rest still] at due
      cases due
    · exact rest
  case wholeSweepEnd =>
    simp only [exec, execWholeSweepEnd] at h
    split at h
    · next w sweep =>
      split at h <;> cases h
      · refine event_rests rest (fun still => ?_) (s.closeSweep_stays w).engine
        cases (rest still).1.symm.trans sweep
      · exact rest
    · cases h; exact rest
  case decayTimerExpiry => cases h; exact event_rests rest (State.decayEvent_atRest rest) s.decayEvent_stays.engine
  case characterReceived p ch =>
    cases h; exact event_rests rest (fun k => State.characterEvent_atRest rest k p ch) (by rw [(s.characterEvent_kept p ch).ctl])
  case frameRejected p k l x =>
    cases h; exact event_rests rest (fun e => State.rejectEvent_atRest rest e p k l x) (by rw [(s.rejectEvent_kept p k l x).ctl])
  case frameSent p =>
    cases h
    cases still : sweeping s.ctl.engine with
    | false =>
      rw [State.sentEvent_atRest rest still]
      exact rest
    | true => exact .of_sweeping still
  case responseTimerExpiry p =>
    cases h; exact event_rests rest (fun k => State.responseEvent_atRest rest k p) (by rw [(s.responseEvent_kept p).ctl])
  case probeTimerExpiry p =>
    cases h; exact event_rests rest (fun k => State.probeEvent_atRest rest k p) (by rw [(s.probeEvent_kept p).ctl])
  case sheetTimerExpiry p =>
    cases h; exact event_rests rest (fun k => State.sheetEvent_atRest rest k p) (by rw [(s.sheetEvent_kept p).ctl])
  case starveTimerExpiry p =>
    cases h; exact event_rests rest (fun k => State.starveEvent_atRest rest k p) (by rw [(s.starveEvent_kept p).ctl])
  case holdTimerExpiry p =>
    cases h; exact event_rests rest (fun k => State.holdEvent_atRest rest k p) (by rw [(s.holdEvent_kept p).ctl])
  case hostExchangeMemoryWrite offset lanes w =>
    simp only [exec, execHostExchangeMemoryWrite] at h
    split at h
    · cases h
    · split at h <;> cases h
      unfold State.hostWrite
      split
      · exact rest.of_eq rfl rfl
      · exact rest
  case stateFrame | sheetFrame | imageFrame | imageEndFrame | contactFrame | ackFrame | nakFrame =>
    cases h; exact event_rests rest (fun k => State.frameEvent_atRest rest k _ _) (by rw [(s.frameEvent_kept _ _).ctl])

theorem step_rests (rest : s.atRest) (h : step s = .next t) : t.atRest := by
  rcases step_cases h with rfl | ⟨c, l, -, run⟩
  · exact rest
  · exact exec_rests (s := { s with pending := l }) (rest.of_eq rfl rfl) run

/-- Settles O4: at rest no event acts but those of the engine's own commands (`exec_rests`), and every change of the records keeps
their agreement and the loans (`step_lawful`). -/
theorem stepKeepsAtRest : Obligations.StepKeepsAtRest :=
  ⟨fun _ _ rest h => step_rests rest h, fun _ _ holds h => (step_lawful h).structured holds,
    fun _ _ holds loans h => (step_lawful h).loans holds loans⟩

end

end Sys2Proof.Machine
end

/-! SUPPORT. The invariant of the services, slot by slot and port by port (R14, R33, R123 to R127, R150, R152, R175). -/
section
namespace Sys2Proof.Machine

/-! ### What a port and a slot meet -/

/-- The frames of a grant that a port's transmitter holds in its outstanding and its waiting place. -/
def PortRecord.framesOf (x : PortRecord) (n : Nat) : List AnswerFrame := x.transmitter.framesOf (.service n)

/-- The frames of the port's current grant. -/
def PortRecord.frames (x : PortRecord) : List AnswerFrame := x.framesOf x.grantNumber

/-- A port has no frames of a grant to come. -/
def PortRecord.unoffered (x : PortRecord) : Prop := ∀ n, x.grantNumber < n → x.framesOf n = []

/-- A port that serves nothing: its service engines are IDLE. -/
structure PortRecord.resting (x : PortRecord) : Prop where
  state : x.state ≠ .serving
  job : x.job = none
  print : x.print = {}
  scan : x.scan = {}
  hold : x.hold = {}

/-- The read position of a print at its port: an entry of the sheet at which the service stands (R125, R126). -/
structure PortRecord.placed (x : PortRecord) (j : JobRecord) : Prop where
  reaches : j.reaches x.print.copy x.print.sheet
  entry : x.print.entry < j.chain.length
  sheet : sheetsPerCopy (j.chain.take x.print.entry) + 1 = x.print.sheet

/-- A port that serves a print (R125). -/
structure PortRecord.printing (x : PortRecord) (j : JobRecord) : Prop where
  phase : x.print.phase ≠ .idle
  scan : x.scan = {}
  hold : x.hold = {}
  placed : x.placed j
  fed : x.print.phase = .feeding → ∃ data, x.frames = [.feed data]
  unfed : x.print.phase ≠ .feeding → x.frames = []

/-- The store of a scan at its port: the last block of its result chain, to its fill, behind blocks that are full (R150, R152). -/
structure PortRecord.storing (x : PortRecord) (j : JobRecord) : Prop where
  current : x.scan.current = j.resultChain.getLast?
  fill : x.scan.fill ≤ 120
  empty : x.scan.current = none → x.scan.fill = 0
  stored : x.scan.stored + (if x.scan.current = none then 0 else 120 - x.scan.fill) = 120 * j.resultChain.length
  limit : x.scan.stored ≤ j.maxBytes

/-- A port that serves a scan (R150). -/
structure PortRecord.scanning (x : PortRecord) (j : JobRecord) : Prop where
  phase : x.scan.phase ≠ .idle
  print : x.print = {}
  hold : x.hold = {}
  storing : x.storing j
  starved : x.scan.phase = .starved ↔ x.scan.starveTimer ≠ none
  opening : x.scan.phase = .opening → ∃ mode resolution, x.frames = [.openScan mode resolution]
  closing : x.scan.phase = .closing → x.frames = [.closeScan]
  others : x.scan.phase ≠ .opening → x.scan.phase ≠ .closing → x.frames = []

/-- A port that serves a hold, whose timer has at least a given time to go (R175). -/
structure PortRecord.holding (x : PortRecord) (clock : Stamp) (low : Nat) : Prop where
  phase : x.hold.phase ≠ .idle
  print : x.print = {}
  scan : x.scan = {}
  timer : ∃ e, x.hold.timer = some e ∧ low ≤ (e - clock).toNat ∧ (e - clock).toNat ≤ 3600000
  frames : x.frames = []

/-- A port that serves a job of a class. -/
def PortRecord.serves (x : PortRecord) (j : JobRecord) (clock : Stamp) (low : Nat) : JobClass → Prop
  | .print => x.printing j
  | .scan => x.scanning j
  | .hold => x.holding clock low

/-- A port that serves a job of its class and its pool. -/
structure PortRecord.engaged (x : PortRecord) (config : PortConfig) (g : Slot) (j : JobRecord) (clock : Stamp) (low : Nat) (cls : JobClass) :
    Prop where
  state : x.state = .serving
  job : x.job = some g
  ofClass : j.cls = some cls
  port : config.cls = servingClass cls
  pool : config.pool = j.pool
  serves : x.serves j clock low cls

/-- A port's part of the invariant; the timer of a hold has at least `low` ms to go. -/
def State.portFits (s : State) (low : Nat) (p : Port) : Prop :=
  (s.port p).unoffered ∧ ((s.port p).resting ∨ ∃ g cls, (s.port p).engaged (s.portConfig p) g (s.job g) s.ctl.clock low cls)

/-- The chain record and the copies of a print in work (R33, R123). -/
def JobRecord.chained (j : JobRecord) : Prop :=
  j.chain.length ≤ 896 ∧ j.chain.getLast?.map ChainEntry.sheetEnd = some true ∧ 1 ≤ j.copies ∧ j.copies ≤ 9

/-- The records of a job that waits in the queue of a pool of its class. -/
structure JobRecord.waiting (j : JobRecord) (poolClass : Pool → PortClass) (cls : JobClass) : Prop where
  ofClass : j.cls = some cls
  pool : poolClass j.pool = servingClass cls
  bare : j.resultChain = []
  print : cls = .print → j.chained ∧ j.reaches j.resumeCopy j.resumeSheet
  hold : cls = .hold → 1 ≤ j.holdRemaining

/-- The records of a job that is served. -/
structure JobRecord.inService (j : JobRecord) : Prop where
  print : j.cls = some .print → j.chained
  bare : j.cls ≠ some .scan → j.resultChain = []

/-- A slot's part of the invariant. -/
structure SlotShadow.fits (x : SlotShadow) (poolClass : Pool → PortClass) : Prop where
  sheets : x.job.sheetsDone ≤ 8064
  left : x.job.holdRemaining ≤ 3600000
  queued : x.state = .queued → ∃ cls, x.job.waiting poolClass cls
  serving : x.state = .serving → x.job.inService

def State.slotFits (s : State) (g : Slot) : Prop := (s.slot g).fits s.poolClass

/-- The classes of a configuration that has passed the validation (R14, R15). -/
def State.poolsFit (s : State) : Prop :=
  sweeping s.ctl.engine = true ∨ (∃ n, s.ctl.startPhase = .rebuilding n) →
    (∀ p, (s.portConfig p).cls ≠ .bad) ∧
      ∀ p r, (s.portConfig p).cls ≠ .none → (s.portConfig r).cls ≠ .none → (s.portConfig p).pool = (s.portConfig r).pool →
        (s.portConfig p).cls = (s.portConfig r).cls

/-- The invariant of the services, by slots and ports. -/
structure State.fits (s : State) (low : Port → Nat) : Prop where
  pools : s.poolsFit
  slots : ∀ g, s.slotFits g
  ports : ∀ p, s.portFits (low p) p

/-! ### The invariant as the statements have it -/

section
variable {s t : State} {p : Port} {g : Slot} {low : Port → Nat} {j : JobRecord} {x : PortRecord} {cls : JobClass}

theorem servingClass_ne (cls : JobClass) : servingClass cls ≠ .none ∧ servingClass cls ≠ .bad := by
  cases cls <;> exact ⟨PortClass.noConfusion, PortClass.noConfusion⟩

theorem servingClass_injective {a b : JobClass} (h : servingClass a = servingClass b) : a = b := by
  revert h
  cases a <;> cases b <;> decide

theorem State.fits.at_job (f : s.fits low) (job : (s.port p).job = some g) :
    ∃ cls, (s.port p).engaged (s.portConfig p) g (s.job g) s.ctl.clock (low p) cls := by
  rcases (f.ports p).2 with rest | ⟨h, cls, engaged⟩
  · cases rest.job.symm.trans job
  · obtain rfl := Option.some.inj (engaged.job.symm.trans job)
    exact ⟨cls, engaged⟩

theorem State.fits.classes (f : s.fits low) : s.classesFit where
  valid := f.pools
  queued g queued := by
    obtain ⟨cls, w⟩ := (f.slots g).queued queued
    exact ⟨cls, w.ofClass, w.pool⟩
  serving p g job := by
    obtain ⟨cls, e⟩ := f.at_job job
    exact ⟨cls, e.ofClass, e.port, e.pool⟩

/-- Which service engine of a port is not IDLE. -/
theorem State.portFits.engines (f : s.portFits n p) :
    (((s.port p).print.phase = .idle ↔ ¬ ((s.port p).state = .serving ∧ (s.portConfig p).cls = .printer)) ∧
      ((s.port p).print.phase = .idle → (s.port p).print = {})) ∧
    (((s.port p).scan.phase = .idle ↔ ¬ ((s.port p).state = .serving ∧ (s.portConfig p).cls = .scanner)) ∧
      ((s.port p).scan.phase = .idle → (s.port p).scan = {})) ∧
    (((s.port p).hold.phase = .idle ↔ ¬ ((s.port p).state = .serving ∧ (s.portConfig p).cls = .panel)) ∧
      ((s.port p).hold.phase = .idle → (s.port p).hold = {})) := by
  rcases f.2 with rest | ⟨g, cls, e⟩
  · rw [rest.print, rest.scan, rest.hold]
    simp [rest.state]
  · have state := e.state
    have port := e.port
    have serves := e.serves
    cases cls with
    | print => simp [state, port, servingClass, serves.phase, serves.scan, serves.hold]
    | scan => simp [state, port, servingClass, serves.phase, serves.print, serves.hold]
    | hold => simp [state, port, servingClass, serves.phase, serves.print, serves.scan]

theorem State.fits.prints (f : s.fits low) : s.printsHold where
  chain g work print := by
    rcases work with queued | serving
    · obtain ⟨cls, w⟩ := (f.slots g).queued queued
      exact (w.print (Option.some.inj (w.ofClass.symm.trans print))).1
    · exact ((f.slots g).serving serving).print print
  queued g queued print := by
    obtain ⟨cls, w⟩ := (f.slots g).queued queued
    exact (w.print (Option.some.inj (w.ofClass.symm.trans print))).2
  serving p g job print := by
    obtain ⟨cls, e⟩ := f.at_job job
    obtain rfl : cls = .print := Option.some.inj (e.ofClass.symm.trans print)
    have placed := PortRecord.printing.placed e.serves
    exact ⟨placed.reaches, placed.entry, placed.sheet⟩

theorem State.fits.scans (f : s.fits low) : s.scansHold where
  queued g queued := by
    obtain ⟨cls, w⟩ := (f.slots g).queued queued
    exact w.bare
  others g serving other := ((f.slots g).serving serving).bare other
  serving p g job scan := by
    obtain ⟨cls, e⟩ := f.at_job job
    obtain rfl : cls = .scan := Option.some.inj (e.ofClass.symm.trans scan)
    have serves : (s.port p).scanning (s.job g) := e.serves
    have store := serves.storing
    exact ⟨store.current, store.fill, store.empty, store.stored, store.limit, serves.starved⟩

theorem State.fits.holds (f : s.fits low) : s.holdsHold where
  queued g queued hold := by
    obtain ⟨cls, w⟩ := (f.slots g).queued queued
    exact w.hold (Option.some.inj (w.ofClass.symm.trans hold))
  serving p g job hold := by
    obtain ⟨cls, e⟩ := f.at_job job
    obtain rfl : cls = .hold := Option.some.inj (e.ofClass.symm.trans hold)
    obtain ⟨e, timer, -, bound⟩ := PortRecord.holding.timer e.serves
    exact ⟨e, timer, bound⟩

theorem State.fits.frames (f : s.fits low) (holds : s.structured) : s.framesFit where
  grants p n later := (f.ports p).1 n later
  serving p serving := by
    obtain ⟨g, job⟩ := Option.ne_none_iff_exists'.mp ((holds.2.2.1.1 p).mp serving)
    obtain ⟨cls, e⟩ := f.at_job job
    have serves := e.serves
    cases cls with
    | print =>
      have serves : (s.port p).printing (s.job g) := serves
      have idle : (s.port p).scan.phase = .idle := by rw [serves.scan]
      exact ⟨serves.fed, fun k => (by cases idle.symm.trans k), fun k => (by cases idle.symm.trans k), fun k _ _ => serves.unfed k⟩
    | scan =>
      have serves : (s.port p).scanning (s.job g) := serves
      have idle : (s.port p).print.phase = .idle := by rw [serves.print]
      exact ⟨fun k => (by cases idle.symm.trans k), serves.opening, serves.closing, fun _ k l => serves.others k l⟩
    | hold =>
      have serves : (s.port p).holding s.ctl.clock (low p) := serves
      have print : (s.port p).print.phase = .idle := by rw [serves.print]
      have scan : (s.port p).scan.phase = .idle := by rw [serves.scan]
      exact ⟨fun k => (by cases print.symm.trans k), fun k => (by cases scan.symm.trans k), fun k => (by cases scan.symm.trans k),
        fun _ _ _ => serves.frames⟩

/-- A list of blocks of the map, each once. -/
theorem length_le_blocks {l : List Nat} (nodup : l.Nodup) (range : ∀ b ∈ l, inMap b) : l.length ≤ 896 := by
  have sub : l ⊆ List.range' 1 896 := fun b hb => by
    have := range b hb
    unfold inMap at this
    rw [List.mem_range'_1]
    omega
  have le := (nodup.subperm sub).length_le
  rw [List.length_range'] at le
  exact le

theorem State.mark_inMap {b : Nat} {m : BlockMark} (mark : s.mark b = m) (ne : m ≠ .outside) : inMap b := by
  by_contra out
  unfold inMap at out
  unfold State.mark at mark
  rw [dif_neg out] at mark
  exact ne mark.symm

theorem State.structured.chain_length (holds : s.structured) (g : Slot) : (s.job g).resultChain.length ≤ 896 := by
  obtain ⟨-, -, -, ⟨-, -, each, -, results⟩, -⟩ := holds
  exact length_le_blocks (each g) fun b hb => State.mark_inMap ((results b).mpr ⟨g, hb⟩) BlockMark.noConfusion

theorem nodup_slots_length {l : List Slot} (nodup : l.Nodup) : l.length ≤ 128 := by
  have le := (nodup.subperm (l₂ := allSlots) fun g _ => List.mem_finRange g).length_le
  unfold allSlots at le
  rw [List.length_finRange] at le
  exact le

theorem PortRecord.engaged.store {n : Nat} {config : PortConfig} {clock : Stamp} (e : x.engaged config g j clock n cls)
    (chain : j.resultChain.length ≤ 896) : x.scan.fill ≤ 120 ∧ x.scan.stored ≤ 107520 := by
  have serves := e.serves
  cases cls with
  | print =>
    rw [PortRecord.printing.scan serves]
    exact ⟨Nat.zero_le _, Nat.zero_le _⟩
  | scan =>
    have store := PortRecord.scanning.storing serves
    have total := store.stored
    exact ⟨store.fill, by omega⟩
  | hold =>
    rw [PortRecord.holding.scan serves]
    exact ⟨Nat.zero_le _, Nat.zero_le _⟩

theorem State.fits.store (f : s.fits low) (holds : s.structured) (p : Port) : (s.port p).scan.fill ≤ 120 ∧ (s.port p).scan.stored ≤ 107520 := by
  rcases (f.ports p).2 with rest | ⟨g, cls, e⟩
  · rw [rest.scan]
    exact ⟨Nat.zero_le _, Nat.zero_le _⟩
  · exact e.store (holds.chain_length g)

theorem State.fits.servicesHold (f : s.fits low) (holds : s.structured) : s.servicesHold where
  classes := f.classes
  idle := ⟨fun p => (f.ports p).engines.1, fun p => (f.ports p).engines.2.1, fun p => (f.ports p).engines.2.2⟩
  prints := f.prints
  scans := f.scans
  holds := f.holds
  frames := f.frames holds
  measured := ⟨fun g => (f.slots g).sheets, fun g => (f.slots g).left, fun p => (f.store holds p).1, fun p => (f.store holds p).2,
    fun q => nodup_slots_length (holds.1 q).1⟩

/-! ### From the statements to slots and ports -/

theorem State.servicesHold.slotFits (h : s.servicesHold) (g : Slot) : s.slotFits g where
  sheets := h.measured.sheetsDone g
  left := h.measured.holdRemaining g
  queued queued := by
    obtain ⟨cls, ofClass, pool⟩ := h.classes.queued g queued
    have same {c : JobClass} (e : cls = c) : (s.job g).cls = some c := ofClass.trans (congrArg some e)
    exact ⟨cls, ofClass, pool, h.scans.queued g queued, fun e => ⟨h.prints.chain g (.inl queued) (same e), h.prints.queued g queued (same e)⟩,
      fun e => h.holds.queued g queued (same e)⟩
  serving serving := ⟨h.prints.chain g (.inr serving), h.scans.others g serving⟩

theorem State.servicesHold.resting (h : s.servicesHold) (holds : s.structured) (idle : (s.port p).job = none) : (s.port p).resting := by
  have state : (s.port p).state ≠ .serving := fun k => (holds.2.2.1.1 p).mp k idle
  exact ⟨state, idle, (h.idle.print p).2 ((h.idle.print p).1.mpr fun k => state k.1), (h.idle.scan p).2 ((h.idle.scan p).1.mpr fun k => state k.1),
    (h.idle.hold p).2 ((h.idle.hold p).1.mpr fun k => state k.1)⟩

theorem State.servicesHold.engaged (h : s.servicesHold) (holds : s.structured) (job : (s.port p).job = some g) :
    ∃ cls, (s.port p).engaged (s.portConfig p) g (s.job g) s.ctl.clock 0 cls := by
  have state : (s.port p).state = .serving := (holds.2.2.1.1 p).mpr (by rw [job]; exact Option.some_ne_none g)
  obtain ⟨cls, ofClass, port, pool⟩ := h.classes.serving p g job
  obtain ⟨fed, opening, closing, others⟩ := h.frames.serving p state
  have print (ne : servingClass cls ≠ .printer) : (s.port p).print = {} :=
    (h.idle.print p).2 ((h.idle.print p).1.mpr fun k => ne (port.symm.trans k.2))
  have scan (ne : servingClass cls ≠ .scanner) : (s.port p).scan = {} :=
    (h.idle.scan p).2 ((h.idle.scan p).1.mpr fun k => ne (port.symm.trans k.2))
  have hold (ne : servingClass cls ≠ .panel) : (s.port p).hold = {} :=
    (h.idle.hold p).2 ((h.idle.hold p).1.mpr fun k => ne (port.symm.trans k.2))
  refine ⟨cls, state, job, ofClass, port, pool, ?_⟩
  cases cls with
  | print =>
    obtain ⟨reaches, entry, sheet⟩ := h.prints.serving p g job ofClass
    have idle := scan PortClass.noConfusion
    exact ⟨fun k => (h.idle.print p).1.mp k ⟨state, port⟩, idle, hold PortClass.noConfusion, ⟨reaches, entry, sheet⟩, fed,
      fun k => others k (by rw [idle]; exact ScanPhase.noConfusion) (by rw [idle]; exact ScanPhase.noConfusion)⟩
  | scan =>
    obtain ⟨current, fill, empty, stored, limit, starved⟩ := h.scans.serving p g job ofClass
    have idle := print PortClass.noConfusion
    exact ⟨fun k => (h.idle.scan p).1.mp k ⟨state, port⟩, idle, hold PortClass.noConfusion, ⟨current, fill, empty, stored, limit⟩, starved,
      opening, closing, others (by rw [idle]; exact PrintPhase.noConfusion)⟩
  | hold =>
    obtain ⟨e, timer, bound⟩ := h.holds.serving p g job ofClass
    have idle := print PortClass.noConfusion
    have still := scan PortClass.noConfusion
    exact ⟨fun k => (h.idle.hold p).1.mp k ⟨state, port⟩, idle, still, ⟨e, timer, Nat.zero_le _, bound⟩,
      others (by rw [idle]; exact PrintPhase.noConfusion) (by rw [still]; exact ScanPhase.noConfusion) (by rw [still]; exact ScanPhase.noConfusion)⟩

theorem State.servicesHold.fits (h : s.servicesHold) (holds : s.structured) : s.fits fun _ => 0 where
  pools := h.classes.valid
  slots := h.slotFits
  ports p := by
    refine ⟨fun n later => h.frames.grants p n later, ?_⟩
    cases job : (s.port p).job with
    | none => exact .inl (h.resting holds job)
    | some g =>
      obtain ⟨cls, e⟩ := h.engaged holds job
      exact .inr ⟨g, cls, e⟩

end

end Sys2Proof.Machine
end

/-! SUPPORT. Changes of some slots and ports alone, as the invariant of the services sees them. -/
section
namespace Sys2Proof.Machine

/-! ### Records that agree in what the services' invariant reads -/

/-- Two jobs whose records of service agree. -/
structure JobRecord.served (j k : JobRecord) : Prop where
  cls : k.cls = j.cls
  pool : k.pool = j.pool
  chain : k.chain = j.chain
  copies : k.copies = j.copies
  sheetsDone : k.sheetsDone = j.sheetsDone
  maxBytes : k.maxBytes = j.maxBytes
  resultChain : k.resultChain = j.resultChain

/-- Two ports that serve alike. -/
structure PortRecord.served (x y : PortRecord) : Prop where
  state : y.state = x.state
  job : y.job = x.job
  grant : y.grantNumber = x.grantNumber
  print : y.print = x.print
  scan : y.scan = x.scan
  hold : y.hold = x.hold
  frames : ∀ n, y.framesOf n = x.framesOf n

section
variable {j k : JobRecord} {x y : PortRecord} {s t u : State} {g h : Slot} {p r : Port} {n : Nat} {cls : JobClass} {clock : Stamp}
  {config : PortConfig} {gs hs : List Slot} {ps rs : List Port}

theorem JobRecord.served.refl (j : JobRecord) : j.served j := ⟨rfl, rfl, rfl, rfl, rfl, rfl, rfl⟩

theorem PortRecord.served.refl (x : PortRecord) : x.served x := ⟨rfl, rfl, rfl, rfl, rfl, rfl, fun _ => rfl⟩

theorem JobRecord.served.reaches (a : j.served k) {copy sheet : Nat} (h : j.reaches copy sheet) : k.reaches copy sheet := by
  unfold JobRecord.reaches
  rw [a.copies, a.chain, a.sheetsDone]
  exact h

theorem PortRecord.served.unoffered (b : x.served y) (h : x.unoffered) : y.unoffered := fun n later => by
  rw [b.frames n]
  exact h n (b.grant ▸ later)

theorem PortRecord.served.resting (b : x.served y) (h : x.resting) : y.resting :=
  ⟨fun k => h.state (b.state.symm.trans k), b.job.trans h.job, b.print.trans h.print, b.scan.trans h.scan, b.hold.trans h.hold⟩

theorem PortRecord.served.current (b : x.served y) : y.frames = x.frames := by
  unfold PortRecord.frames
  rw [b.frames, b.grant]

theorem PortRecord.served.printing (b : x.served y) (a : j.served k) (h : x.printing j) : y.printing k where
  phase := b.print ▸ h.phase
  scan := b.scan.trans h.scan
  hold := b.hold.trans h.hold
  placed := by
    obtain ⟨reaches, entry, sheet⟩ := h.placed
    refine ⟨?_, ?_, ?_⟩ <;> rw [b.print]
    · exact a.reaches reaches
    · rw [a.chain]
      exact entry
    · rw [a.chain]
      exact sheet
  fed k := by
    rw [b.current]
    exact h.fed (b.print ▸ k)
  unfed k := by
    rw [b.current]
    exact h.unfed (b.print ▸ k)

theorem PortRecord.served.storing (b : x.served y) (a : j.served k) (h : x.storing j) : y.storing k := by
  obtain ⟨current, fill, empty, stored, limit⟩ := h
  refine ⟨?_, ?_, ?_, ?_, ?_⟩ <;> rw [b.scan]
  · rw [a.resultChain]
    exact current
  · exact fill
  · exact empty
  · rw [a.resultChain]
    exact stored
  · rw [a.maxBytes]
    exact limit

theorem PortRecord.served.scanning (b : x.served y) (a : j.served k) (h : x.scanning j) : y.scanning k where
  phase := b.scan ▸ h.phase
  print := b.print.trans h.print
  hold := b.hold.trans h.hold
  storing := b.storing a h.storing
  starved := b.scan ▸ h.starved
  opening := by
    rw [b.scan, b.current]
    exact h.opening
  closing := by
    rw [b.scan, b.current]
    exact h.closing
  others := by
    rw [b.scan, b.current]
    exact h.others

theorem PortRecord.served.holding (b : x.served y) (h : x.holding clock n) : y.holding clock n where
  phase := b.hold ▸ h.phase
  print := b.print.trans h.print
  scan := b.scan.trans h.scan
  timer := b.hold ▸ h.timer
  frames := b.current.trans h.frames

theorem PortRecord.served.engaged (b : x.served y) (a : j.served k) (h : x.engaged config g j clock n cls) :
    y.engaged config g k clock n cls where
  state := b.state.trans h.state
  job := b.job.trans h.job
  ofClass := a.cls.trans h.ofClass
  port := h.port
  pool := h.pool.trans a.pool.symm
  serves := by
    have serves := h.serves
    cases cls with
    | print => exact b.printing a serves
    | scan => exact b.scanning a serves
    | hold => exact b.holding serves

/-! ### Changes of some slots and ports alone -/

/-- A change that keeps the configuration and the clock, and the invariant's part of every slot and port but some. -/
structure Local (s t : State) (gs : List Slot) (ps : List Port) : Prop where
  work : t.ctl.work = s.ctl.work
  clock : t.ctl.clock = s.ctl.clock
  pools : s.poolsFit → t.poolsFit
  slots : ∀ g, g ∉ gs → s.slotFits g → t.slotFits g
  ports : ∀ p, p ∉ ps → ∀ n, s.portFits n p → t.portFits n p

theorem Local.refl (s : State) (gs : List Slot) (ps : List Port) : Local s s gs ps := ⟨rfl, rfl, id, fun _ _ => id, fun _ _ _ => id⟩

theorem Local.trans (a : Local s t gs ps) (b : Local t u gs ps) : Local s u gs ps where
  work := b.work.trans a.work
  clock := b.clock.trans a.clock
  pools k := b.pools (a.pools k)
  slots g out k := b.slots g out (a.slots g out k)
  ports p out n k := b.ports p out n (a.ports p out n k)

theorem Local.mono (a : Local s t gs ps) (slots : gs ⊆ hs) (ports : ps ⊆ rs) : Local s t hs rs :=
  { a with slots := fun g k => a.slots g fun m => k (slots m), ports := fun p k => a.ports p fun m => k (ports m) }

theorem Local.wide (a : Local s t [] []) (gs : List Slot) (ps : List Port) : Local s t gs ps := a.mono (List.nil_subset _) (List.nil_subset _)

theorem Local.foldl {α : Type} {f : State → α → State} (h : ∀ s a, Local s (f s a) gs ps) (l : List α) : ∀ s, Local s (l.foldl f s) gs ps := by
  induction l with
  | nil => exact fun s => .refl s gs ps
  | cons a rest ih => exact fun s => (h s a).trans (ih _)

theorem Local.ite {c : Prop} [Decidable c] {a b : State} (h : c → Local s a gs ps) (k : ¬ c → Local s b gs ps) :
    Local s (if c then a else b) gs ps := by
  split
  · next hc => exact h hc
  · next hc => exact k hc

theorem State.poolClass_congr (work : t.ctl.work = s.ctl.work) : t.poolClass = s.poolClass := by
  funext q
  unfold State.poolClass State.members State.portConfig
  rw [work]

theorem State.portConfig_work (work : t.ctl.work = s.ctl.work) (p : Port) : t.portConfig p = s.portConfig p := by
  unfold State.portConfig
  rw [work]

theorem Local.portConfig (a : Local s t gs ps) (p : Port) : t.portConfig p = s.portConfig p := State.portConfig_work a.work p

theorem Local.poolClass (a : Local s t gs ps) : t.poolClass = s.poolClass := State.poolClass_congr a.work

/-- A port that serves alike a job of which the records agree. -/
theorem State.portFits.served (f : s.portFits n p) (work : t.ctl.work = s.ctl.work) (clock : t.ctl.clock = s.ctl.clock)
    (b : (s.port p).served (t.port p)) (a : ∀ g, (s.port p).job = some g → (s.job g).served (t.job g)) : t.portFits n p := by
  refine ⟨b.unoffered f.1, f.2.imp b.resting fun ⟨g, cls, e⟩ => ⟨g, cls, ?_⟩⟩
  rw [State.portConfig_work work, clock]
  exact b.engaged (a g e.job) e

theorem State.poolsFit.congr (f : s.poolsFit) (work : t.ctl.work = s.ctl.work) (engine : t.ctl.engine = s.ctl.engine)
    (phase : t.ctl.startPhase = s.ctl.startPhase) : t.poolsFit := by
  unfold State.poolsFit State.portConfig at *
  rw [work, engine, phase]
  exact f

/-- A change of some slots' shadows and some ports' records at standing control registers. -/
theorem Local.of_records (work : t.ctl.work = s.ctl.work) (engine : t.ctl.engine = s.ctl.engine)
    (phase : t.ctl.startPhase = s.ctl.startPhase) (clock : t.ctl.clock = s.ctl.clock) (slots : ∀ g, g ∉ gs → s.slotFits g → t.slotFits g)
    (ports : ∀ p, p ∉ ps → (s.port p).served (t.port p)) (jobs : ∀ p g, p ∉ ps → (s.port p).job = some g → (s.job g).served (t.job g)) :
    Local s t gs ps :=
  ⟨work, clock, fun f => f.congr work engine phase, slots, fun p out _ f => f.served work clock (ports p out) fun g job => jobs p g out job⟩

/-- A change of none of the records that the services' invariant reads. -/
theorem Local.of_eq (ctl : t.ctl = s.ctl) (slots : t.slots = s.slots) (ports : t.ports = s.ports) : Local s t [] [] := by
  refine .of_records (by rw [ctl]) (by rw [ctl]) (by rw [ctl]) (by rw [ctl]) (fun g _ f => ?_) (fun p _ => ?_) fun p g _ _ => ?_
  · unfold State.slotFits
    rw [State.slot_congr slots, State.poolClass_congr (s := s) (t := t) (by rw [ctl])]
    exact f
  · unfold State.port
    rw [ports]
    exact .refl _
  · rw [State.job_congr slots]
    exact .refl _

/-- A change of control registers that are none of the configuration's. -/
theorem State.setControl_local {f : Control → Control} (work : (f s.ctl).work = s.ctl.work) (engine : (f s.ctl).engine = s.ctl.engine)
    (phase : (f s.ctl).startPhase = s.ctl.startPhase) (clock : (f s.ctl).clock = s.ctl.clock) : Local s (s.setControl f) [] [] := by
  refine .of_records work engine phase clock (fun g _ f => ?_) (fun p _ => .refl _) fun p g _ _ => .refl _
  unfold State.slotFits
  rw [State.poolClass_congr (t := s.setControl _) work]
  exact f

/-- A change of one port's record. -/
theorem State.setPort_local (s : State) (p : Port) (x : PortRecord) : Local s (s.setPort p x) [] [p] :=
  .of_records rfl rfl rfl rfl (fun _ _ f => f) (fun r out => by
    rw [State.port_setPort_ne _ fun e => out (List.mem_singleton.mpr e)]
    exact .refl _) fun _ _ _ _ => .refl _

theorem State.modifyPort_local (s : State) (p : Port) (f : PortRecord → PortRecord) : Local s (s.modifyPort p f) [] [p] := s.setPort_local p _

/-- A change of one port's record that the services do not see. -/
theorem State.setPort_still {x : PortRecord} (same : (s.port p).served x) : Local s (s.setPort p x) [] [] := by
  refine .of_records rfl rfl rfl rfl (fun _ _ f => f) (fun r _ => ?_) fun _ _ _ _ => .refl _
  by_cases e : r = p
  · subst e
    rw [State.port_setPort]
    exact same
  · rw [State.port_setPort_ne _ e]
    exact .refl _

theorem State.modifyPort_still {f : PortRecord → PortRecord} (same : (s.port p).served (f (s.port p))) : Local s (s.modifyPort p f) [] [] :=
  State.setPort_still same

/-- A change of one slot's shadow. -/
theorem State.setSlot_local {y : SlotShadow} (jobs : ∀ p, p ∉ ps → (s.port p).job = some g → (s.job g).served y.job) :
    Local s (s.setSlot g y) [g] ps := by
  refine .of_records rfl rfl rfl rfl (fun h out f => ?_) (fun _ _ => .refl _) fun p h out job => ?_
  · unfold State.slotFits
    rw [State.slot_setSlot_ne _ fun e => out (List.mem_singleton.mpr e)]
    exact f
  · by_cases e : h = g
    · subst e
      unfold State.job
      rw [State.slot_setSlot]
      exact jobs p out job
    · unfold State.job
      rw [State.slot_setSlot_ne _ e]
      exact .refl _

/-- A change of one slot's shadow that keeps the records of its service. -/
theorem State.setSlot_served {y : SlotShadow} (same : (s.job g).served y.job) : Local s (s.setSlot g y) [g] [] :=
  State.setSlot_local fun _ _ _ => same

theorem State.updateJob_served {f : JobRecord → JobRecord} (same : (s.job g).served (f (s.job g))) : Local s (s.updateJob g f) [g] [] :=
  State.setSlot_served same

/-- A slot whose state and records stay as the invariant reads them. -/
theorem SlotShadow.fits.congr {y z : SlotShadow} {pc : Pool → PortClass} (f : y.fits pc) (state : z.state = y.state) (job : y.job.served z.job)
    (copy : z.job.resumeCopy = y.job.resumeCopy) (sheet : z.job.resumeSheet = y.job.resumeSheet)
    (left : z.job.holdRemaining = y.job.holdRemaining) : z.fits pc where
  sheets := job.sheetsDone ▸ f.sheets
  left := left ▸ f.left
  queued k := by
    obtain ⟨cls, w⟩ := f.queued (state ▸ k)
    refine ⟨cls, job.cls.trans w.ofClass, job.pool ▸ w.pool, job.resultChain.trans w.bare, fun e => ?_, fun e => left ▸ w.hold e⟩
    obtain ⟨chained, reaches⟩ := w.print e
    unfold JobRecord.chained at *
    rw [job.chain, job.copies, copy, sheet]
    exact ⟨chained, job.reaches reaches⟩
  serving k := by
    have i := f.serving (state ▸ k)
    exact ⟨fun e => by
      unfold JobRecord.chained
      rw [job.chain, job.copies]
      exact i.print (job.cls ▸ e), fun e => job.resultChain.trans (i.bare (job.cls ▸ e))⟩

/-- A change of a job's records that the services do not see. -/
theorem State.updateJob_still {f : JobRecord → JobRecord} (same : (s.job g).served (f (s.job g)))
    (copy : (f (s.job g)).resumeCopy = (s.job g).resumeCopy) (sheet : (f (s.job g)).resumeSheet = (s.job g).resumeSheet)
    (left : (f (s.job g)).holdRemaining = (s.job g).holdRemaining) : Local s (s.updateJob g f) [] [] where
  work := rfl
  clock := rfl
  pools f := f
  slots h _ k := by
    unfold State.slotFits State.updateJob
    by_cases e : h = g
    · subst e
      rw [State.slot_setSlot]
      exact SlotShadow.fits.congr k rfl same copy sheet left
    · rw [State.slot_setSlot_ne _ e]
      exact k
  ports p _ n k := (State.updateJob_served same).ports p List.not_mem_nil n k

/-- The invariant after a change of some slots and ports. -/
theorem Local.fits {low : Port → Nat} (a : Local s t gs ps) (f : s.fits low) (slots : ∀ g ∈ gs, t.slotFits g)
    (ports : ∀ p ∈ ps, t.portFits (low p) p) : t.fits low where
  pools := a.pools f.pools
  slots g := by
    by_cases k : g ∈ gs
    · exact slots g k
    · exact a.slots g k (f.slots g)
  ports p := by
    by_cases k : p ∈ ps
    · exact ports p k
    · exact a.ports p k _ (f.ports p)

end

end Sys2Proof.Machine
end

/-! SUPPORT. The frames that a transmitter holds, through its operations (R106 to R111, R158). -/
section
namespace Sys2Proof.Machine

/-- The frames of the outstanding and the waiting place. -/
def Transmitter.places (t : Transmitter) : List Offered := (t.outstanding.map Outstanding.offered).toList ++ t.waiting.toList

section
variable {t u : Transmitter} {f : Offered} {o : Outstanding} {owner : FrameOwner} {s : State} {p : Port} {n : Nat} {x : PortRecord}

theorem Transmitter.framesOf_congr (h : u.places = t.places) (owner : FrameOwner) : u.framesOf owner = t.framesOf owner :=
  congrArg (List.filterMap fun f : Offered => if f.owner = owner then some f.frame else none) h

theorem Transmitter.framesOf_sublist (h : u.places.Sublist t.places) (owner : FrameOwner) : (u.framesOf owner).Sublist (t.framesOf owner) :=
  h.filterMap _

/-! ### Operations that leave the places as they are -/

theorem chooseNext_places (t : Transmitter) : (chooseNext t).places = t.places := by
  unfold chooseNext
  split
  · split
    · rfl
    · split
      · next o out =>
        split
        · unfold Transmitter.places
          rw [out]
          rfl
        · rfl
      · rfl
  · rfl

theorem placeReply_places (k : ReplyKind) (t : Transmitter) : (placeReply k t).places = t.places := by
  unfold placeReply
  split
  · exact chooseNext_places _
  · rfl

theorem moveUp_places (t : Transmitter) : (moveUp t).places = t.places := by
  unfold moveUp
  split
  · next out wait =>
    rw [chooseNext_places]
    unfold Transmitter.places
    rw [out, wait]
    rfl
  · rfl

theorem frameDone_places (clock : Stamp) (timeout : Nat) (t : Transmitter) : (frameDone clock timeout t).places = t.places := by
  unfold frameDone
  split
  · rfl
  · exact chooseNext_places _
  · exact chooseNext_places _
  · split
    · next o out =>
      rw [chooseNext_places]
      unfold Transmitter.places
      rw [out]
      rfl
    · exact chooseNext_places _

theorem resendFrame_places (out : t.outstanding = some o) : (resendFrame o t).places = t.places := by
  unfold resendFrame
  rw [chooseNext_places]
  unfold Transmitter.places
  rw [out]
  rfl

/-! ### Operations that change them -/

theorem offer_places (f : Offered) (t : Transmitter) :
    (offer f t).places = match t.outstanding with | none => f :: t.waiting.toList | some o => [o.offered, f] := by
  unfold offer
  cases out : t.outstanding with
  | none =>
    show (chooseNext _).places = _
    rw [chooseNext_places]
    rfl
  | some o =>
    rfl

theorem completeFrame_places (t : Transmitter) : (completeFrame t).places = t.waiting.toList := by
  unfold completeFrame
  rw [moveUp_places]
  rfl

theorem completeFrame_sublist (t : Transmitter) : (completeFrame t).places.Sublist t.places := by
  rw [completeFrame_places]
  exact List.sublist_append_right _ _

theorem abandonOutstanding_sublist (t : Transmitter) : (abandonOutstanding t).places.Sublist t.places :=
  List.sublist_append_right _ _

theorem completeUnsent_sublist (t : Transmitter) : (completeUnsent t).places.Sublist t.places := by
  unfold completeUnsent
  split
  · split
    · rw [completeFrame_places]
      exact List.sublist_append_right _ _
    · exact completeFrame_sublist t
  · exact .refl _

theorem withdrawOpenScan_sublist (grant : Nat) (t : Transmitter) : (withdrawOpenScan grant t).places.Sublist t.places := by
  have emptied (u : Transmitter) (out : u.outstanding = none) (wait : u.waiting = t.waiting) : (moveUp u).places.Sublist t.places := by
    rw [moveUp_places]
    unfold Transmitter.places
    rw [out, wait]
    exact List.sublist_append_right _ _
  unfold withdrawOpenScan
  split
  · split
    · split
      · exact emptied _ rfl rfl
      · exact emptied _ rfl rfl
      · exact emptied _ rfl rfl
    · split
      · split
        · unfold Transmitter.places
          exact (List.nil_sublist _).append_left _
        · exact .refl _
      · exact .refl _
  · exact .refl _

/-- Frames of another owner: an offer adds none, and may take the waiting one. -/
theorem offer_other (ne : f.owner ≠ owner) (t : Transmitter) : ((offer f t).framesOf owner).Sublist (t.framesOf owner) := by
  show ((offer f t).places.filterMap _).Sublist (t.places.filterMap _)
  rw [offer_places]
  unfold Transmitter.places
  cases t.outstanding with
  | none => simp [ne]
  | some o =>
    simp only [List.filterMap_cons, List.filterMap_nil, if_neg ne, Option.map_some, Option.toList_some, List.cons_append, List.nil_append]
    split <;> simp

/-- An owner without a frame has its own after an offer. -/
theorem offer_own (fresh : t.framesOf f.owner = []) : (offer f t).framesOf f.owner = [f.frame] := by
  have empty : t.places.filterMap (fun g => if g.owner = f.owner then some g.frame else none) = [] := fresh
  show (offer f t).places.filterMap _ = _
  rw [offer_places]
  unfold Transmitter.places at empty
  cases out : t.outstanding with
  | none =>
    rw [out] at empty
    simp only [List.filterMap_cons]
    simpa using empty
  | some o =>
    rw [out] at empty
    have gone : o.offered.owner ≠ f.owner := fun e => by simp [e] at empty
    simp [gone]

/-! ### Ports -/

theorem PortRecord.unoffered.less (h : x.unoffered) {y : PortRecord} (grant : y.grantNumber = x.grantNumber)
    (less : ∀ n, x.grantNumber < n → (y.framesOf n).Sublist (x.framesOf n)) : y.unoffered := fun n later => by
  rw [grant] at later
  exact List.sublist_nil.mp (h n later ▸ less n later)

/-- A port without a frame of a grant to come has none after its current grant has offered one. -/
theorem PortRecord.unoffered.offer (h : x.unoffered) (frame : AnswerFrame) :
    ({ x with transmitter := offer { frame, owner := .service x.grantNumber } x.transmitter } : PortRecord).unoffered :=
  h.less rfl fun n later => offer_other (fun e => by
    have := FrameOwner.service.inj e
    omega) x.transmitter

theorem PortRecord.served.transmit {u : Transmitter} (places : u.places = x.transmitter.places) : x.served { x with transmitter := u } :=
  ⟨rfl, rfl, rfl, rfl, rfl, rfl, fun _ => Transmitter.framesOf_congr places _⟩

theorem State.transmit_still {f : Transmitter → Transmitter} (places : (f (s.port p).transmitter).places = (s.port p).transmitter.places) :
    Local s (s.transmit p f) [] [] := State.modifyPort_still (.transmit places)

/-- Of a port that serves nothing only the frames of grants to come matter. -/
theorem State.transmit_resting {f : Transmitter → Transmitter} (rest : (s.port p).resting)
    (less : ∀ n, ((f (s.port p).transmitter).framesOf (.service n)).Sublist ((s.port p).transmitter.framesOf (.service n))) :
    Local s (s.transmit p f) [] [] := by
  have change := s.modifyPort_local p fun x => { x with transmitter := f x.transmitter }
  refine ⟨change.work, change.clock, change.pools, fun g out => change.slots g out, fun r _ n fits => ?_⟩
  by_cases e : r = p
  · subst e
    have port : (s.transmit r f).port r = { s.port r with transmitter := f (s.port r).transmitter } := s.port_modifyPort r _
    unfold State.portFits
    rw [port]
    exact ⟨fits.1.less rfl fun n _ => less n, .inl ⟨rest.state, rest.job, rest.print, rest.scan, rest.hold⟩⟩
  · exact change.ports r (fun m => e (List.mem_singleton.mp m)) n fits

end

end Sys2Proof.Machine
end

/-! SUPPORT. Changes that keep the invariants of the services and of the touch router, and those that neither sees. -/
section
namespace Sys2Proof.Machine

/-! ### Changes that keep the invariants -/

/-- A change that keeps the invariants of the services and of the touch router, of a part whose records agree. -/
structure Serves (s t : State) : Prop where
  sound : Sound s t
  fits : ∀ low, (∀ p, low p ≤ 1) → s.structured → s.fits low → t.fits low
  touch : s.structured → s.fits (fun _ => 0) → s.touchHolds → t.touchHolds

/-- A change of nothing that the touch router's law reads. -/
structure Routed (s t : State) : Prop where
  mailboxes : t.mailboxes = s.mailboxes
  work : t.ctl.work = s.ctl.work
  engine : t.ctl.engine = s.ctl.engine
  contacts : ∀ p, (t.port p).contacts = (s.port p).contacts
  jobs : ∀ p, (t.port p).job = (s.port p).job

/-- A change that none of the invariants sees. -/
structure Calm (s t : State) : Prop where
  quiet : Quiet s t
  still : Local s t [] []
  routed : Routed s t

section
variable {s t u : State} {g : Slot} {p : Port} {low : Port → Nat} {gs : List Slot} {ps : List Port}

theorem Serves.refl (s : State) : Serves s s := ⟨.refl s, fun _ _ _ => id, fun _ _ => id⟩

theorem Serves.trans (a : Serves s t) (b : Serves t u) : Serves s u where
  sound := a.sound.trans b.sound
  fits low le k f := b.fits low le (a.sound.structured k) (a.fits low le k f)
  touch k f h := b.touch (a.sound.structured k) (a.fits _ (fun _ => Nat.zero_le _) k f) (a.touch k f h)

theorem Serves.ite {c : Prop} [Decidable c] {a b : State} (h : c → Serves s a) (k : ¬ c → Serves s b) : Serves s (if c then a else b) := by
  split
  · next hc => exact h hc
  · next hc => exact k hc

theorem Serves.foldl {α : Type} {f : State → α → State} (h : ∀ s a, Serves s (f s a)) (l : List α) : ∀ s, Serves s (l.foldl f s) := by
  induction l with
  | nil => exact fun s => .refl s
  | cons a rest ih => exact fun s => (h s a).trans (ih _)

/-- A change whose parts serve where the records agree. -/
theorem Serves.of_structured (sound : Sound s t) (h : s.structured → Serves s t) : Serves s t :=
  ⟨sound, fun low le k => (h k).fits low le k, fun k => (h k).touch k⟩

theorem PortRecord.serves.lower {x : PortRecord} {j : JobRecord} {clock : Stamp} {n : Nat} {cls : JobClass} (h : x.serves j clock n cls) :
    x.serves j clock 0 cls := by
  cases cls with
  | print => exact h
  | scan => exact h
  | hold =>
    obtain ⟨phase, print, scan, ⟨e, timer, -, bound⟩, frames⟩ := h
    exact ⟨phase, print, scan, ⟨e, timer, Nat.zero_le _, bound⟩, frames⟩

/-- The invariant without its bounds on the hold timers. -/
theorem State.fits.lower (f : s.fits low) : s.fits fun _ => 0 where
  pools := f.pools
  slots := f.slots
  ports p := ⟨(f.ports p).1, (f.ports p).2.imp id fun ⟨g, cls, e⟩ =>
    ⟨g, cls, e.state, e.job, e.ofClass, e.port, e.pool, PortRecord.serves.lower e.serves⟩⟩

/-- A change that serves where the services meet their invariant. -/
theorem Serves.of_fits (sound : Sound s t) (h : s.structured → s.fits (fun _ => 0) → Serves s t) : Serves s t where
  sound := sound
  fits low le k f := (h k f.lower).fits low le k f
  touch k f := (h k f).touch k f

/-! ### The touch router's law through a change that it does not see -/

/-- The contacts and their records stay, and a HOLD entry's panel keeps its job. -/
theorem State.touchHolds.kept (h : s.touchHolds) (mailboxes : t.mailboxes = s.mailboxes) (work : t.ctl.work = s.ctl.work)
    (engine : t.ctl.engine ≠ .running → s.ctl.engine ≠ .running) (contacts : ∀ p, (t.port p).contacts = (s.port p).contacts)
    (jobs : ∀ p i c, s.contact p i = .hold c → (t.port p).job = (s.port p).job) : t.touchHolds := by
  have contact (p : Port) (i : Fin 10) : t.contact p i = s.contact p i := by
    unfold State.contact
    rw [contacts p]
  have mailbox (st : Station) (r : Fin 4) : t.mailbox st r = s.mailbox st r := by
    unfold State.mailbox
    rw [mailboxes]
  refine ⟨fun st r k => ?_, fun p i c k => ?_, fun p i c k => ?_, fun p i c k => ?_, fun st r => ?_, fun p i k => ?_, fun k p i => ?_⟩
  · rw [mailbox, mailbox]
    exact h.keys st r k
  · rw [contact] at k
    rw [mailbox]
    exact h.captured p i c k
  · rw [contact] at k
    exact h.zoned p i c k
  · rw [contact] at k
    obtain ⟨zone, g, job, station⟩ := h.held p i c k
    exact ⟨zone, g, (jobs p i c k).trans job, station⟩
  · rw [mailbox]
    exact h.even st r
  · rw [contact] at k
    rw [State.portConfig_work work]
    exact h.panels p i k
  · rw [contact]
    exact h.resting (engine k) p i

theorem Routed.refl (s : State) : Routed s s := ⟨rfl, rfl, rfl, fun _ => rfl, fun _ => rfl⟩

theorem Routed.trans (a : Routed s t) (b : Routed t u) : Routed s u :=
  ⟨b.mailboxes.trans a.mailboxes, b.work.trans a.work, b.engine.trans a.engine, fun p => (b.contacts p).trans (a.contacts p),
    fun p => (b.jobs p).trans (a.jobs p)⟩

theorem Routed.touch (a : Routed s t) (h : s.touchHolds) : t.touchHolds :=
  h.kept a.mailboxes a.work (fun k => a.engine ▸ k) a.contacts fun p _ _ _ => a.jobs p

theorem Routed.of_ports (mailboxes : t.mailboxes = s.mailboxes) (ctl : t.ctl = s.ctl) (ports : t.ports = s.ports) : Routed s t := by
  refine ⟨mailboxes, by rw [ctl], by rw [ctl], fun p => ?_, fun p => ?_⟩ <;>
  · unfold State.port
    rw [ports]

theorem State.setPort_routed {x : PortRecord} (contacts : x.contacts = (s.port p).contacts) (job : x.job = (s.port p).job) :
    Routed s (s.setPort p x) := by
  refine ⟨rfl, rfl, rfl, fun r => ?_, fun r => ?_⟩ <;>
  · by_cases e : r = p
    · subst e
      rw [State.port_setPort]
      assumption
    · rw [State.port_setPort_ne _ e]

theorem Routed.foldl {α : Type} {f : State → α → State} (h : ∀ s a, Routed s (f s a)) (l : List α) : ∀ s, Routed s (l.foldl f s) := by
  induction l with
  | nil => exact fun s => .refl s
  | cons a rest ih => exact fun s => (h s a).trans (ih _)

/-! ### Changes that none of the invariants sees -/

theorem Calm.refl (s : State) : Calm s s := ⟨.refl s, .refl s [] [], .refl s⟩

theorem Calm.trans (a : Calm s t) (b : Calm t u) : Calm s u := ⟨a.quiet.trans b.quiet, a.still.trans b.still, a.routed.trans b.routed⟩

theorem Calm.ite {c : Prop} [Decidable c] {a b : State} (h : c → Calm s a) (k : ¬ c → Calm s b) : Calm s (if c then a else b) := by
  split
  · next hc => exact h hc
  · next hc => exact k hc

theorem Calm.foldl {α : Type} {f : State → α → State} (h : ∀ s a, Calm s (f s a)) (l : List α) : ∀ s, Calm s (l.foldl f s) := by
  induction l with
  | nil => exact fun s => .refl s
  | cons a rest ih => exact fun s => (h s a).trans (ih _)

theorem Local.unseen (a : Local s t [] []) (f : s.fits low) : t.fits low :=
  a.fits f (fun _ k => absurd k List.not_mem_nil) fun _ k => absurd k List.not_mem_nil

theorem Calm.serves (a : Calm s t) : Serves s t := ⟨a.quiet.sound, fun _ _ _ => a.still.unseen, fun _ _ => a.routed.touch⟩

/-- Memory, notices, counters and statistics. -/
theorem Calm.of_eq (ctl : t.ctl = s.ctl) (slots : t.slots = s.slots) (ports : t.ports = s.ports) (queues : t.queues = s.queues)
    (deadlines : t.deadlines = s.deadlines) (spare : t.spare = s.spare) (marks : t.marks = s.marks) (mailboxes : t.mailboxes = s.mailboxes) :
    Calm s t := ⟨.of_eq ctl slots ports queues deadlines spare marks, .of_eq ctl slots ports, .of_ports mailboxes ctl ports⟩

theorem State.modifyPort_calm {f : PortRecord → PortRecord} (same : (s.port p).served (f (s.port p)))
    (contacts : (f (s.port p)).contacts = (s.port p).contacts) : Calm s (s.modifyPort p f) :=
  ⟨State.modifyPort_quiet (.of_eq same.job same.state), State.modifyPort_still same, State.setPort_routed contacts same.job⟩

theorem State.transmit_calm {f : Transmitter → Transmitter} (places : (f (s.port p).transmitter).places = (s.port p).transmitter.places) :
    Calm s (s.transmit p f) := State.modifyPort_calm (.transmit places) rfl

theorem State.setControl_calm {f : Control → Control} (work : (f s.ctl).work = s.ctl.work) (engine : (f s.ctl).engine = s.ctl.engine)
    (phase : (f s.ctl).startPhase = s.ctl.startPhase) (clock : (f s.ctl).clock = s.ctl.clock) : Calm s (s.setControl f) :=
  ⟨State.setControl_quiet engine phase clock, State.setControl_local work engine phase clock, ⟨rfl, work, engine, fun _ => rfl, fun _ => rfl⟩⟩

/-- A change of the record of a job in work that no invariant reads. -/
theorem State.updateJob_calm {f : JobRecord → JobRecord} (alike : (s.job g).alike (f (s.job g))) (same : (s.job g).served (f (s.job g)))
    (copy : (f (s.job g)).resumeCopy = (s.job g).resumeCopy) (sheet : (f (s.job g)).resumeSheet = (s.job g).resumeSheet)
    (left : (f (s.job g)).holdRemaining = (s.job g).holdRemaining) (work : s.inWork g) : Calm s (s.updateJob g f) :=
  ⟨State.updateJob_quiet alike (SlotState.held_of_work work), State.updateJob_still same copy sheet left, .of_ports rfl rfl rfl⟩

section
variable (s) (p)

theorem State.setNotice_calm (n : NoticeBit) : Calm s (s.setNotice n) := .of_eq rfl rfl rfl rfl rfl rfl rfl rfl

theorem State.updateCounters_calm (st : Station) (pair : CounterPair) (f : StationCounters → StationCounters) :
    Calm s (s.updateCounters st pair f) := .of_eq rfl rfl rfl rfl rfl rfl rfl rfl

theorem State.handoverFault_calm (g : Slot) : Calm s (s.handoverFault g) := .of_eq rfl rfl rfl rfl rfl rfl rfl rfl

theorem State.halveUsage_calm (st : Station) : Calm s (s.halveUsage st) := .ite (fun _ => .refl s) fun _ => s.updateCounters_calm st _ _

theorem PortRecord.served.of_eq {x y : PortRecord} (state : y.state = x.state) (job : y.job = x.job) (grant : y.grantNumber = x.grantNumber)
    (print : y.print = x.print) (scan : y.scan = x.scan) (hold : y.hold = x.hold) (transmitter : y.transmitter = x.transmitter) : x.served y :=
  ⟨state, job, grant, print, scan, hold, fun n => by
    unfold PortRecord.framesOf
    rw [transmitter]⟩

theorem State.notePort_calm {f : PortRecord → PortRecord} (same : (s.port p).served (f (s.port p)))
    (contacts : (f (s.port p)).contacts = (s.port p).contacts) : Calm s (s.notePort p f) :=
  (State.modifyPort_calm same contacts).trans (.of_eq rfl rfl rfl rfl rfl rfl rfl rfl)

theorem State.updateLineCounters_calm (f : LineCounters → LineCounters) : Calm s (s.updateLineCounters p f) :=
  (State.modifyPort_calm (f := fun x => { x with counters := f (s.port p).counters }) (.of_eq rfl rfl rfl rfl rfl rfl rfl) rfl).trans
    (.of_eq rfl rfl rfl rfl rfl rfl rfl rfl)

theorem State.updateDiscards_calm (f : Discards → Discards) : Calm s (s.updateDiscards p f) :=
  (State.modifyPort_calm (f := fun x => { x with discards := f (s.port p).discards }) (.of_eq rfl rfl rfl rfl rfl rfl rfl) rfl).trans
    (.of_eq rfl rfl rfl rfl rfl rfl rfl rfl)

theorem State.reply_calm (k : ReplyKind) : Calm s (s.reply p k) := State.transmit_calm (placeReply_places k _)

theorem State.setReceiver_calm (r : Receiver) : Calm s (s.setReceiver p r) :=
  State.modifyPort_calm (.of_eq rfl rfl rfl rfl rfl rfl rfl) rfl

theorem State.askYield_calm : Calm s (s.askYield p) := State.modifyPort_calm (.of_eq rfl rfl rfl rfl rfl rfl rfl) rfl

theorem State.sampleZones_calm : Calm s (s.sampleZones p) :=
  .ite (fun _ => State.modifyPort_calm (.of_eq rfl rfl rfl rfl rfl rfl rfl) rfl) fun _ => .refl s

theorem State.sampleAllZones_calm : Calm s s.sampleAllZones := Calm.foldl State.sampleZones_calm _ s

end

/-! ### Aged-out latches (R69) -/

theorem State.latchAged_calm (queued : (s.slot g).state = .queued) : Calm s (s.latchAged g) := by
  unfold State.latchAged
  exact .ite (fun _ => State.updateJob_calm ⟨rfl, rfl, rfl, rfl, rfl, rfl, rfl, rfl⟩ ⟨rfl, rfl, rfl, rfl, rfl, rfl, rfl⟩ rfl rfl rfl (.inl queued))
    fun _ => .refl s

theorem State.latchAll_calm (l : List Slot) : ∀ {s : State}, (∀ g ∈ l, (s.slot g).state = .queued) → Calm s (s.latchAll l) := by
  induction l with
  | nil => exact fun _ => .refl _
  | cons g rest ih =>
    intro s queued
    have first : Calm s (s.latchAged g) := State.latchAged_calm (queued g List.mem_cons_self)
    exact first.trans (ih fun h hh => (first.quiet.slot h).state.trans (queued h (List.mem_cons_of_mem g hh)))

end

end Sys2Proof.Machine
end

/-! SUPPORT. The touch router's law, contact by contact (R162 to R174). -/
section
namespace Sys2Proof.Machine

/-- An entry that the contact table may hold for a contact. -/
structure State.entryFits (s : State) (p : Port) (i : Fin 10) (e : Contact) : Prop where
  captured : ∀ c, e.captured = some c → (s.mailbox c.station c.record).key = some (p, i) ∧ (s.mailbox c.station c.record).lifted = false ∧
    c.x ≤ 4095 ∧ c.y ≤ 4095 ∧ c.pressure ≤ 255
  zoned : ∀ c, e = .zone c → c.zone < 16
  held : ∀ c, e = .hold c → c.zone = 255 ∧ ∃ g, (s.port p).job = some g ∧ stationOf g = c.station
  panel : e ≠ .none → (s.portConfig p).cls = .panel
  resting : s.ctl.engine ≠ .running → e = .none

/-- The touch router's law but for one entry. -/
structure State.touchBut (s : State) (p : Port) (i : Fin 10) : Prop where
  keys : ∀ st r k, (s.mailbox st r).key ≠ none → (s.mailbox st r).key = (s.mailbox st k).key → r = k
  even : ∀ st r, (s.mailbox st r).seq.toNat % 2 = 0
  entries : ∀ q j, (q, j) ≠ (p, i) → s.entryFits q j (s.contact q j)

/-- A record that a write for a contact takes: its own, or one that no contact uses. -/
def State.ownRecord (s : State) (p : Port) (i : Fin 10) (st : Station) (r : Fin 4) : Prop :=
  (s.mailbox st r).key = some (p, i) ∨
    (∀ k, (s.mailbox st k).key ≠ some (p, i)) ∧ ((s.mailbox st r).key = none ∨ (s.mailbox st r).lifted = true)

section
variable {s t : State} {p q : Port} {i j : Fin 10} {st : Station} {r : Fin 4} {e : Contact} {c : Capture} {taken : Bool} {m : MailReport}

theorem State.touchHolds.entry (h : s.touchHolds) (p : Port) (i : Fin 10) : s.entryFits p i (s.contact p i) :=
  ⟨h.captured p i, h.zoned p i, h.held p i, h.panels p i, fun k => h.resting k p i⟩

theorem State.touchHolds.but (h : s.touchHolds) (p : Port) (i : Fin 10) : s.touchBut p i := ⟨h.keys, h.even, fun q j _ => h.entry q j⟩

theorem State.touchHolds.of_entries (keys : ∀ st r k, (s.mailbox st r).key ≠ none → (s.mailbox st r).key = (s.mailbox st k).key → r = k)
    (even : ∀ st r, (s.mailbox st r).seq.toNat % 2 = 0) (entries : ∀ p i, s.entryFits p i (s.contact p i)) : s.touchHolds :=
  ⟨keys, fun p i => (entries p i).captured, fun p i => (entries p i).zoned, fun p i => (entries p i).held, even, fun p i => (entries p i).panel,
    fun k p i => (entries p i).resting k⟩

/-- An entry that is not captured, of a panel of a running part. -/
theorem State.entryFits.of_none (bare : e.captured = none) (panel : (s.portConfig p).cls = .panel) (running : s.ctl.engine = .running) :
    s.entryFits p i e where
  captured c k := by cases bare.symm.trans k
  zoned c k := by
    subst k
    cases bare
  held c k := by
    subst k
    cases bare
  panel _ := panel
  resting k := absurd running k

theorem State.entryFits.none (s : State) (p : Port) (i : Fin 10) : s.entryFits p i .none :=
  ⟨fun c k => (by cases k), fun c k => (by cases k), fun c k => (by cases k), fun k => absurd rfl k, fun _ => rfl⟩

/-- An entry that stays as its record, its port and its engine do. -/
theorem State.entryFits.kept (h : s.entryFits p i e) (boxes : ∀ c, e.captured = some c → t.mailbox c.station c.record = s.mailbox c.station c.record)
    (work : t.ctl.work = s.ctl.work) (engine : t.ctl.engine = s.ctl.engine) (job : (t.port p).job = (s.port p).job) : t.entryFits p i e where
  captured c k := by
    rw [boxes c k]
    exact h.captured c k
  zoned := h.zoned
  held c k := by
    rw [job]
    exact h.held c k
  panel k := by
    rw [State.portConfig_work work]
    exact h.panel k
  resting k := h.resting (engine ▸ k)

theorem State.contact_setContact_ne (s : State) (c : Contact) (ne : (q, j) ≠ (p, i)) : (s.setContact p i c).contact q j = s.contact q j := by
  unfold State.contact
  by_cases k : q = p
  · subst k
    have own : (s.setContact q i c).port q = { s.port q with contacts := (s.port q).contacts.set i.val c } := State.port_setPort s q _
    rw [own]
    exact Vector.getElem_set_ne i.isLt j.isLt fun h => ne (by rw [Fin.ext h])
  · rw [show (s.setContact p i c).port q = s.port q from State.port_setPort_ne _ k _]

theorem State.setContact_job (s : State) (c : Contact) : ((s.setContact p i c).port q).job = (s.port q).job := by
  by_cases k : q = p
  · subst k
    have own : (s.setContact q i c).port q = { s.port q with contacts := (s.port q).contacts.set i.val c } := State.port_setPort s q _
    rw [own]
  · rw [show (s.setContact p i c).port q = s.port q from State.port_setPort_ne _ k _]

/-- The law is whole again when the entry is set to one that fits. -/
theorem State.touchBut.setContact (h : s.touchBut p i) (fits : s.entryFits p i e) : (s.setContact p i e).touchHolds := by
  refine .of_entries h.keys h.even fun q j => ?_
  by_cases k : (q, j) = (p, i)
  · obtain ⟨rfl, rfl⟩ := Prod.mk.inj k
    rw [State.contact_setContact]
    exact fits.kept (fun _ _ => rfl) rfl rfl (s.setContact_job e)
  · rw [s.contact_setContact_ne e k]
    exact (h.entries q j k).kept (fun _ _ => rfl) rfl rfl (s.setContact_job e)

theorem seq_even {w : Half} (h : w.toNat % 2 = 0) : (w + 2).toNat % 2 = 0 := by
  have step : (w + 2).toNat = (w.toNat + 2) % 65536 := BitVec.toNat_add w 2
  omega

theorem State.mailboxWrite_key : ((s.mailboxWrite st r taken m).mailbox st r).key = some m.key := by
  rw [State.mailboxWrite_mailbox]
  rfl

theorem State.mailboxWrite_port : (s.mailboxWrite st r taken m).port p = s.port p := by
  unfold State.port
  rw [State.mailboxWrite_ports]

theorem State.mailboxWrite_contact : (s.mailboxWrite st r taken m).contact p i = s.contact p i := by
  unfold State.contact
  rw [State.mailboxWrite_port]

/-- No other contact uses a contact's record. -/
theorem State.touchBut.apart (h : s.touchBut p i) (own : s.ownRecord p i st r) (ne : (q, j) ≠ (p, i))
    (captured : (s.contact q j).captured = some c) : (c.station, c.record) ≠ (st, r) := by
  intro k
  obtain ⟨rfl, rfl⟩ := Prod.mk.inj k
  obtain ⟨key, lifted, -⟩ := (h.entries q j ne).captured c captured
  rcases own with mine | ⟨-, empty | free⟩
  · exact ne (Option.some.inj (key.symm.trans mine))
  · cases key.symm.trans empty
  · cases lifted.symm.trans free

/-- A write for a contact into its record. -/
theorem State.touchBut.mailboxWrite (h : s.touchBut p i) (own : s.ownRecord p i st r) (key : m.key = (p, i)) :
    (s.mailboxWrite st r taken m).touchBut p i where
  keys st' a b some same := by
    by_cases own' : st' = st
    · subst own'
      have unique (k : Fin 4) (ne : k ≠ r) : (s.mailbox st' k).key ≠ Option.some (p, i) := fun e => by
        rcases own with mine | ⟨none, -⟩
        · exact ne (h.keys st' k r (by rw [e]; exact Option.some_ne_none _) (e.trans mine.symm))
        · exact none k e
      have other (k : Fin 4) (ne : k ≠ r) : (s.mailboxWrite st' r taken m).mailbox st' k = s.mailbox st' k :=
        State.mailboxWrite_mailbox_ne fun e => ne (Prod.mk.inj e).2
      by_cases ha : a = r
      · by_cases hb : b = r
        · exact ha.trans hb.symm
        · rw [ha, State.mailboxWrite_key, key, other b hb] at same
          exact absurd same.symm (unique b hb)
      · by_cases hb : b = r
        · rw [hb, State.mailboxWrite_key, key, other a ha] at same
          exact absurd same (unique a ha)
        · rw [other a ha] at some same
          rw [other b hb] at same
          exact h.keys st' a b some same
    · have other (k : Fin 4) : (s.mailboxWrite st r taken m).mailbox st' k = s.mailbox st' k :=
        State.mailboxWrite_mailbox_ne fun e => own' (Prod.mk.inj e).1
      rw [other] at some same
      rw [other] at same
      exact h.keys st' a b some same
  even st' k := by
    by_cases e : (st', k) = (st, r)
    · obtain ⟨rfl, rfl⟩ := Prod.mk.inj e
      rw [State.mailboxWrite_mailbox]
      exact seq_even (h.even st' k)
    · rw [State.mailboxWrite_mailbox_ne e]
      exact h.even st' k
  entries q j ne := by
    rw [State.mailboxWrite_contact]
    exact (h.entries q j ne).kept (fun c k => State.mailboxWrite_mailbox_ne (h.apart own ne k)) (by rw [State.mailboxWrite_ctl])
      (by rw [State.mailboxWrite_ctl]) (by rw [State.mailboxWrite_port])

/-! ### Lifts -/

theorem State.touchHolds.own (h : s.touchHolds) (captured : (s.contact p i).captured = some c) : s.ownRecord p i c.station c.record :=
  .inl (h.captured p i c captured).1

/-- A panel with a contact belongs to a running part. -/
theorem State.touchHolds.running (h : s.touchHolds) (some : s.contact p i ≠ .none) : s.ctl.engine = .running :=
  by_contra fun k => some (h.resting k p i)

theorem Contact.ne_none_of_captured (captured : e.captured = some c) : e ≠ .none := fun k => by
  subst k
  cases captured

/-- A lifted contact. -/
theorem State.touchHolds.lifted (h : s.touchHolds) (captured : (s.contact p i).captured = some c) (bare : e.captured = none) :
    ((s.syntheticUp p i c).setContact p i e).touchHolds := by
  have some := Contact.ne_none_of_captured captured
  refine State.touchBut.setContact ((h.but p i).mailboxWrite (h.own captured) rfl) (.of_none bare ?_ ?_)
  · rw [State.portConfig_work (s := s) (by rw [State.syntheticUp_ctl])]
    exact h.panels p i some
  · rw [State.syntheticUp_ctl]
    exact h.running some

theorem Contact.captured_of_taken {zones holds : Bool} (h : e.taken zones holds = some c) : e.captured = some c := by
  cases e with
  | zone d =>
    simp only [Contact.taken, Option.ite_none_right_eq_some] at h
    exact h.2
  | hold d =>
    simp only [Contact.taken, Option.ite_none_right_eq_some] at h
    exact h.2
  | none => cases h
  | orphan => cases h
  | dropped => cases h

theorem State.touchHolds.liftEntry {zones holds : Bool} (h : s.touchHolds) (bare : e.captured = none) (i : Fin 10) :
    (State.liftEntry zones holds p e s i).touchHolds := by
  cases lifts : (s.contact p i).taken zones holds with
  | none =>
    rw [State.liftEntry_left lifts]
    exact h
  | some c =>
    rw [State.liftEntry_taken lifts]
    exact h.lifted (Contact.captured_of_taken lifts) bare

theorem State.touchHolds.foldl {α : Type} {f : State → α → State} (step : ∀ s a, s.touchHolds → (f s a).touchHolds) (l : List α) :
    ∀ s, s.touchHolds → (l.foldl f s).touchHolds := by
  induction l with
  | nil => exact fun s h => h
  | cons a rest ih => exact fun s h => ih _ (step s a h)

theorem State.touchHolds.liftEntries {zones holds : Bool} (h : s.touchHolds) (p : Port) (bare : e.captured = none) :
    (s.liftEntries p zones holds e).touchHolds :=
  State.touchHolds.foldl (fun _ i h => h.liftEntry bare i) _ s h

/-! ### Contacts that end without a write -/

/-- Contacts that become entries without a capture. -/
theorem State.touchHolds.released (h : s.touchHolds) (mailboxes : t.mailboxes = s.mailboxes) (work : t.ctl.work = s.ctl.work)
    (engine : t.ctl.engine = s.ctl.engine) (jobs : ∀ p, (t.port p).job = (s.port p).job)
    (contacts : ∀ p i, t.contact p i = s.contact p i ∨ t.contact p i = .none ∨ (t.contact p i).captured = none ∧ s.contact p i ≠ .none) :
    t.touchHolds := by
  have box (st : Station) (r : Fin 4) : t.mailbox st r = s.mailbox st r := by
    unfold State.mailbox
    rw [mailboxes]
  refine .of_entries (fun st r k => ?_) (fun st r => ?_) fun p i => ?_
  · rw [box, box]
    exact h.keys st r k
  · rw [box]
    exact h.even st r
  · rcases contacts p i with same | gone | ⟨bare, some⟩
    · rw [same]
      exact (h.entry p i).kept (fun c _ => box _ _) work engine (jobs p)
    · rw [gone]
      exact .none t p i
    · refine .of_none bare ?_ (engine.trans (h.running some))
      rw [State.portConfig_work work]
      exact h.panels p i some

end

end Sys2Proof.Machine
end

/-! SUPPORT. The services and the touch router's law through lifts, contact reports and the close of a station (R46, R162 to R174). -/
section
namespace Sys2Proof.Machine

section
variable {s t : State} {p q : Port} {i : Fin 10} {st : Station} {r : Fin 4} {e : Contact} {c : Capture} {g : Slot} {zone x y pressure : Nat}
  {synthetic : Bool}

/-! ### What the services see of the touch router: nothing -/

theorem State.mailboxWrite_local (s : State) (st : Station) (r : Fin 4) (taken : Bool) (m : MailReport) :
    Local s (s.mailboxWrite st r taken m) [] [] :=
  .of_eq (State.mailboxWrite_ctl ..) (State.mailboxWrite_slots ..) (State.mailboxWrite_ports ..)

theorem State.setContact_local (s : State) (p : Port) (i : Fin 10) (c : Contact) : Local s (s.setContact p i c) [] [] :=
  State.modifyPort_still (.of_eq rfl rfl rfl rfl rfl rfl rfl)

theorem State.liftEntry_local (zones holds : Bool) (s : State) (p : Port) (e : Contact) (i : Fin 10) :
    Local s (State.liftEntry zones holds p e s i) [] [] := by
  cases lifts : (s.contact p i).taken zones holds with
  | none =>
    rw [State.liftEntry_left lifts]
    exact .refl s [] []
  | some c =>
    rw [State.liftEntry_taken lifts]
    exact (s.mailboxWrite_local ..).trans (State.setContact_local _ p i e)

theorem State.liftEntries_local (s : State) (p : Port) (zones holds : Bool) (e : Contact) : Local s (s.liftEntries p zones holds e) [] [] :=
  Local.foldl (fun s i => s.liftEntry_local zones holds p e i) _ s

theorem State.clearContacts_local (s : State) (p : Port) : Local s (s.clearContacts p) [] [] :=
  State.modifyPort_still (.of_eq rfl rfl rfl rfl rfl rfl rfl)

theorem State.stopTouch_local (s : State) : Local s s.stopTouch [] [] :=
  Local.foldl (fun s p => (s.liftEntries_local p true true .none).trans (State.clearContacts_local _ p)) _ s

theorem State.clearMailbox_local (s : State) (st : Station) (r : Fin 4) : Local s (s.clearMailbox st r) [] [] :=
  .of_eq (State.clearMailbox_ctl ..) (State.clearMailbox_slots ..) (State.clearMailbox_ports ..)

theorem State.closeTouch_local (s : State) (st : Station) : Local s (s.closeTouch st) [] [] :=
  (Local.foldl (f := fun s p => s.modifyPort p fun x => { x with contacts := x.contacts.map (orphanOf st) })
    (fun _ _ => State.modifyPort_still (.of_eq rfl rfl rfl rfl rfl rfl rfl)) _ s).trans (Local.foldl (fun s r => s.clearMailbox_local st r) _ _)

theorem State.countDelivered_local (s : State) (g : Slot) (n : JobRecord → Nat) :
    Local s (s.updateJob g fun j => { j with contactsDelivered := n j }) [] [] :=
  State.updateJob_still ⟨rfl, rfl, rfl, rfl, rfl, rfl, rfl⟩ rfl rfl rfl

theorem State.deliver_local (s : State) (p : Port) (i : Fin 10) (st : Station) (zone : Nat) (holder : Option Slot)
    (synthetic : Bool) (x y pressure : Nat) : Local s (s.deliver p i st zone holder synthetic x y pressure) [] [] := by
  unfold State.deliver
  cases s.chooseRecord st (p, i) with
  | none => exact (s.setContact_local p i .dropped).trans (State.updateCounters_calm _ st _ _).still
  | some found =>
    have written := s.mailboxWrite_local st found.1 found.2 { key := (p, i), zone, phase := .down, synthetic, x, y, pressure }
    cases holder with
    | none => exact written.trans (State.setContact_local _ p i _)
    | some g => exact (written.trans (State.setContact_local _ p i _)).trans (State.countDelivered_local _ g _)

theorem State.newContact_local (s : State) (p : Port) (i : Fin 10) (synthetic : Bool) (x y pressure : Nat) :
    Local s (s.newContact p i synthetic x y pressure) [] [] := by
  unfold State.newContact
  cases s.holdOf p with
  | some g => exact s.deliver_local ..
  | none =>
    dsimp only
    cases zoneAt (s.port p).zones.toList x y 0 with
    | none => exact (s.updateDiscards_calm p _).still
    | some found => exact .ite (fun _ => (s.updateDiscards_calm p _).still) fun _ => s.deliver_local ..

theorem State.capturedReport_local (s : State) (p : Port) (i : Fin 10) (c : Capture) (rebuild : Capture → Contact)
    (phase : TouchPhase) (x y pressure : Nat) : Local s (s.capturedReport p i c rebuild phase x y pressure) [] [] := by
  cases phase with
  | down => exact ((s.mailboxWrite_local ..).trans (State.setContact_local _ p i _)).trans (State.newContact_local ..)
  | move => exact (s.mailboxWrite_local ..).trans (State.setContact_local _ p i _)
  | up => exact (s.mailboxWrite_local ..).trans (State.setContact_local _ p i _)

theorem State.touch_local (s : State) (p : Port) (i : Fin 10) (phase : TouchPhase) (x y pressure : Nat) :
    Local s (s.touch p i phase x y pressure) [] [] := by
  unfold State.touch
  cases s.contact p i with
  | none =>
    cases phase with
    | down => exact s.newContact_local ..
    | move => exact s.newContact_local ..
    | up => exact (s.updateDiscards_calm p _).still
  | zone c => exact s.capturedReport_local ..
  | hold c => exact s.capturedReport_local ..
  | orphan | dropped =>
    cases phase with
    | down => exact (s.setContact_local p i .none).trans (State.newContact_local ..)
    | move => exact .refl s [] []
    | up => exact s.setContact_local p i .none

theorem State.takeReport_local (s : State) (p : Port) (r : ContactReport) : Local s (State.takeReport p s r) [] [] := by
  unfold State.takeReport
  split
  · exact (s.updateDiscards_calm p _).still
  · split
    · exact .ite (fun _ => (s.updateDiscards_calm p _).still) fun _ => s.touch_local ..
    · exact (s.updateDiscards_calm p _).still

theorem State.updateJob_routed (s : State) (g : Slot) (f : JobRecord → JobRecord) : Routed s (s.updateJob g f) := .of_ports rfl rfl rfl

/-! ### New contacts (R165, R168, R172) -/

theorem zoneAt_lt {l : List Zone} : ∀ {n : Nat} {z : Nat}, zoneAt l x y n = some (z, st) → z < n + l.length := by
  induction l with
  | nil => exact fun h => by cases h
  | cons w rest ih =>
    intro n z h
    unfold zoneAt at h
    dsimp only at h
    rw [List.length_cons]
    split at h
    · obtain ⟨rfl, -⟩ := Prod.mk.inj (Option.some.inj h)
      omega
    · have := ih h
      omega

/-- The record that a new contact takes is its own or one that no contact uses. -/
theorem State.ownRecord_of_choose {new : Bool} (chosen : s.chooseRecord st (p, i) = some (r, new)) : s.ownRecord p i st r := by
  by_cases held : ∃ k, (s.mailbox st k).key = some (p, i)
  · obtain ⟨k, key⟩ := held
    obtain ⟨k', key', choose⟩ := State.chooseRecord_held key
    obtain ⟨rfl, -⟩ := Prod.mk.inj (Option.some.inj (choose.symm.trans chosen))
    exact .inl key'
  · have fresh (k : Fin 4) : (s.mailbox st k).key ≠ some (p, i) := fun e => held ⟨k, e⟩
    rw [State.chooseRecord_new fresh] at chosen
    obtain ⟨k, found, e⟩ := Option.map_eq_some_iff.mp chosen
    obtain ⟨rfl, -⟩ := Prod.mk.inj e
    have free : s.recordFree st k = true := List.find?_some found
    exact .inr ⟨fresh, (State.recordFree_iff k).mp free |>.imp id And.left⟩

/-- A report's position and pressure lie in their ranges. -/
def inReach (x y pressure : Nat) : Prop := x ≤ 4095 ∧ y ≤ 4095 ∧ pressure ≤ 255

theorem State.touchHolds.delivered (h : s.touchHolds) (panel : (s.portConfig p).cls = .panel) (running : s.ctl.engine = .running)
    (reach : inReach x y pressure) {holder : Option Slot} (zoned : holder = none → zone < 16)
    (held : ∀ g, holder = some g → zone = 255 ∧ (s.port p).job = some g ∧ stationOf g = st) :
    (s.deliver p i st zone holder synthetic x y pressure).touchHolds := by
  cases chosen : s.chooseRecord st (p, i) with
  | none =>
    rw [State.deliver_drops chosen]
    have dropped : (s.setContact p i .dropped).touchHolds := (h.but p i).setContact (.of_none rfl panel running)
    exact (State.updateCounters_calm _ st _ _).routed.touch dropped
  | some found =>
    obtain ⟨k, new⟩ := found
    have written := (h.but p i).mailboxWrite (taken := new) (m := downReport p i zone synthetic x y pressure)
      (State.ownRecord_of_choose chosen) rfl
    have record : ((s.mailboxWrite st k new (downReport p i zone synthetic x y pressure)).mailbox st k).key = some (p, i) ∧
        ((s.mailboxWrite st k new (downReport p i zone synthetic x y pressure)).mailbox st k).lifted = false := by
      rw [State.mailboxWrite_mailbox]
      exact ⟨rfl, rfl⟩
    have work : (s.mailboxWrite st k new (downReport p i zone synthetic x y pressure)).ctl = s.ctl := State.mailboxWrite_ctl ..
    have cls : ((s.mailboxWrite st k new (downReport p i zone synthetic x y pressure)).portConfig p).cls = .panel := by
      rw [State.portConfig_work (congrArg Control.work work)]
      exact panel
    have engine : (s.mailboxWrite st k new (downReport p i zone synthetic x y pressure)).ctl.engine = .running :=
      (congrArg Control.engine work).trans running
    cases holder with
    | none =>
      rw [State.deliver_zone chosen]
      refine written.setContact ⟨fun c k => ?_, fun c k => ?_, fun c k => (by cases k), fun _ => cls, fun k => absurd engine k⟩
      · obtain rfl := Option.some.inj k
        exact ⟨record.1, record.2, reach⟩
      · obtain rfl := Contact.zone.inj k
        exact zoned rfl
    | some g =>
      obtain ⟨whole, job, station⟩ := held g rfl
      rw [State.deliver_hold chosen]
      refine (State.updateJob_routed _ g _).touch (written.setContact (e := .hold { station := st, zone, record := k, x, y, pressure })
        ⟨fun c k => ?_, fun c k => (by cases k), fun c k => ?_, fun _ => cls, fun k => absurd engine k⟩)
      · obtain rfl := Option.some.inj k
        exact ⟨record.1, record.2, reach⟩
      · obtain rfl := Contact.hold.inj k
        refine ⟨whole, g, ?_, station⟩
        rw [State.mailboxWrite_port]
        exact job

theorem State.touchHolds.newContact (h : s.touchHolds) (panel : (s.portConfig p).cls = .panel) (running : s.ctl.engine = .running)
    (reach : inReach x y pressure) : (s.newContact p i synthetic x y pressure).touchHolds := by
  unfold State.newContact
  cases hold : s.holdOf p with
  | some g =>
    refine h.delivered panel running reach (fun k => by cases k) fun k e => ?_
    obtain rfl := Option.some.inj e
    exact ⟨rfl, State.holdOf_job hold, rfl⟩
  | none =>
    dsimp only
    cases search : zoneAt (s.port p).zones.toList x y 0 with
    | none => exact (s.updateDiscards_calm p _).routed.touch h
    | some found =>
      obtain ⟨z, st⟩ := found
      dsimp only
      split
      · exact (s.updateDiscards_calm p _).routed.touch h
      · refine h.delivered panel running reach (fun _ => ?_) fun k e => (by cases e)
        have := zoneAt_lt search
        rw [Vector.length_toList] at this
        omega

/-! ### Reports on a contact (R167, R169) -/

theorem State.touchHolds.capturedReport (h : s.touchHolds) {rebuild : Capture → Contact} (entry : s.contact p i = rebuild c)
    (kind : rebuild = .zone ∨ rebuild = .hold) (reach : inReach x y pressure) (phase : TouchPhase) :
    (s.capturedReport p i c rebuild phase x y pressure).touchHolds := by
  have captures (d : Capture) : (rebuild d).captured = some d := by
    rcases kind with rfl | rfl
    · rfl
    · rfl
  have captured : (s.contact p i).captured = some c := entry ▸ captures c
  have some := Contact.ne_none_of_captured captured
  have own := h.own captured
  have lifts {m : MailReport} (key : m.key = (p, i)) : ((s.mailboxWrite c.station c.record false m).setContact p i .none).touchHolds :=
    ((h.but p i).mailboxWrite own key).setContact (.none _ p i)
  cases phase with
  | down =>
    refine State.touchHolds.newContact (lifts rfl) ?_ ?_ reach
    · have same : (((s.syntheticUp p i c).setContact p i .none).portConfig p).cls = (s.portConfig p).cls := by
        rw [State.portConfig_work (s := s)]
        rw [State.setContact_ctl, State.syntheticUp_ctl]
      exact same.trans (h.panels p i some)
    · rw [State.setContact_ctl, State.syntheticUp_ctl]
      exact h.running some
  | up => exact lifts rfl
  | move =>
    obtain ⟨key, lifted, -⟩ := h.captured p i c captured
    refine State.touchBut.setContact ((h.but p i).mailboxWrite own rfl) ⟨fun d k => ?_, fun d k => ?_, fun d k => ?_, fun _ => ?_, fun k => ?_⟩
    · obtain rfl := Option.some.inj ((captures _).symm.trans k)
      rw [State.mailboxWrite_mailbox]
      exact ⟨rfl, lifted, reach⟩
    · rcases kind with rfl | rfl
      · obtain rfl := Contact.zone.inj k
        exact h.zoned p i c entry
      · cases k
    · rcases kind with rfl | rfl
      · cases k
      · obtain rfl := Contact.hold.inj k
        rw [State.mailboxWrite_port]
        exact h.held p i c entry
    · rw [State.portConfig_work (s := s) (by rw [State.mailboxWrite_ctl])]
      exact h.panels p i some
    · rw [State.mailboxWrite_ctl] at k
      exact absurd (h.running some) k

theorem State.touchHolds.touch (h : s.touchHolds) (panel : (s.portConfig p).cls = .panel) (running : s.ctl.engine = .running)
    (reach : inReach x y pressure) (phase : TouchPhase) : (s.touch p i phase x y pressure).touchHolds := by
  have ended : (s.setContact p i .none).touchHolds := (h.but p i).setContact (.none s p i)
  unfold State.touch
  split
  · cases phase with
    | down => exact h.newContact panel running reach
    | move => exact h.newContact panel running reach
    | up => exact (s.updateDiscards_calm p _).routed.touch h
  · next c entry => exact h.capturedReport entry (.inl rfl) reach phase
  · next c entry => exact h.capturedReport entry (.inr rfl) reach phase
  · cases phase with
    | down => exact ended.newContact panel running reach
    | move => exact h
    | up => exact ended
  · cases phase with
    | down => exact ended.newContact panel running reach
    | move => exact h
    | up => exact ended

theorem State.touchHolds.takeReport (h : s.touchHolds) (panel : (s.portConfig p).cls = .panel) (running : s.ctl.engine = .running)
    (report : ContactReport) : (State.takeReport p s report).touchHolds := by
  have reach : inReach (min 4095 report.x.toNat) (min 4095 report.y.toNat) report.pressure.toNat := by
    have := report.pressure.isLt
    unfold inReach
    omega
  unfold State.takeReport
  split
  · exact (s.updateDiscards_calm p _).routed.touch h
  · split
    · split
      · exact (s.updateDiscards_calm p _).routed.touch h
      · exact h.touch panel running reach _
    · exact (s.updateDiscards_calm p _).routed.touch h

theorem State.touchHolds.takeReports (h : s.touchHolds) (running : s.ctl.engine = .running) (panel : (s.portConfig p).cls = .panel)
    (reports : List ContactReport) : (reports.foldl (State.takeReport p) s).touchHolds := by
  induction reports generalizing s with
  | nil => exact h
  | cons r rest ih =>
    have ctl := (s.takeReport_touched p r).ctl
    refine ih (h.takeReport panel running r) ((congrArg Control.engine ctl).trans running) ?_
    rw [State.portConfig_work (congrArg Control.work ctl)]
    exact panel

theorem State.takeReports_serves (running : s.ctl.engine = .running) (panel : (s.portConfig p).cls = .panel) (reports : List ContactReport) :
    Serves s (reports.foldl (State.takeReport p) s) :=
  ⟨Sound.foldl (fun s r => s.takeReport_sound p r) reports s,
    fun _ _ _ => (Local.foldl (fun s r => s.takeReport_local p r) reports s).unseen, fun _ _ h => h.takeReports running panel reports⟩

theorem State.contactTaken_serves (s : State) (p : Port) (reports : List ContactReport) : Serves s (s.contactTaken p reports) := by
  unfold State.contactTaken
  exact .ite (fun ⟨panel, _, running⟩ => State.takeReports_serves running panel reports) fun _ => .refl s

/-! ### The close of a station (R46) -/

theorem orphanOf_captured {e : Contact} (h : (orphanOf st e).captured = some c) : c.station ≠ st := by
  cases e with
  | zone d =>
    by_cases own : d.station = st
    · rw [show orphanOf st (.zone d) = .orphan from if_pos own] at h
      cases h
    · rw [show orphanOf st (.zone d) = .zone d from if_neg own] at h
      obtain rfl := Option.some.inj h
      exact own
  | hold d =>
    by_cases own : d.station = st
    · rw [show orphanOf st (.hold d) = .orphan from if_pos own] at h
      cases h
    · rw [show orphanOf st (.hold d) = .hold d from if_neg own] at h
      obtain rfl := Option.some.inj h
      exact own
  | none => cases h
  | orphan => cases h
  | dropped => cases h

/-- An entry stays at the close of a station, or loses its capture. -/
theorem orphanOf_cases (st : Station) (e : Contact) : orphanOf st e = e ∨ (orphanOf st e).captured = none ∧ e ≠ .none := by
  cases e with
  | zone d =>
    by_cases own : d.station = st
    · rw [show orphanOf st (.zone d) = .orphan from if_pos own]
      exact .inr ⟨rfl, Contact.noConfusion⟩
    · exact .inl (if_neg own)
  | hold d =>
    by_cases own : d.station = st
    · rw [show orphanOf st (.hold d) = .orphan from if_pos own]
      exact .inr ⟨rfl, Contact.noConfusion⟩
    · exact .inl (if_neg own)
  | none => exact .inl rfl
  | orphan => exact .inl rfl
  | dropped => exact .inl rfl

theorem State.orphaned_contact (p : Port) (i : Fin 10) : (s.orphaned st).contact p i = orphanOf st (s.contact p i) := by
  unfold State.contact
  rw [State.orphaned_port]
  exact Vector.getElem_map _ _

theorem State.touchHolds.orphaned (h : s.touchHolds) : (s.orphaned st).touchHolds := by
  have ctl : (s.orphaned st).ctl = s.ctl := State.orphaned_same State.ctl fun _ _ _ => rfl
  refine h.released (State.orphaned_same State.mailboxes fun _ _ _ => rfl) (congrArg Control.work ctl) (congrArg Control.engine ctl)
    (fun p => by rw [State.orphaned_port]) fun p i => ?_
  rw [State.orphaned_contact]
  exact (orphanOf_cases st _).imp id .inr

theorem State.touchHolds.clearMailbox (h : s.touchHolds) (unused : ∀ p i c, (s.contact p i).captured = some c → c.station ≠ st) (r : Fin 4) :
    (s.clearMailbox st r).touchHolds := by
  have own : (s.clearMailbox st r).mailbox st r = { seq := (s.mailbox st r).seq + 2 } := State.mailbox_setMailbox _ _ _ _
  have other {st' : Station} {k : Fin 4} (ne : (st', k) ≠ (st, r)) : (s.clearMailbox st r).mailbox st' k = s.mailbox st' k :=
    State.mailbox_setMailbox_ne _ ne _
  refine .of_entries (fun st' a b some same => ?_) (fun st' k => ?_) fun p i => ?_
  · by_cases ha : (st', a) = (st, r)
    · obtain ⟨rfl, rfl⟩ := Prod.mk.inj ha
      rw [own] at some
      exact absurd rfl some
    · by_cases hb : (st', b) = (st, r)
      · obtain ⟨rfl, rfl⟩ := Prod.mk.inj hb
        rw [own] at same
        exact absurd same some
      · rw [other ha] at some same
        rw [other hb] at same
        exact h.keys st' a b some same
  · by_cases e : (st', k) = (st, r)
    · obtain ⟨rfl, rfl⟩ := Prod.mk.inj e
      rw [own]
      exact seq_even (h.even st' k)
    · rw [other e]
      exact h.even st' k
  · have port : (s.clearMailbox st r).port p = s.port p := by
      unfold State.port
      rw [State.clearMailbox_ports]
    have contact : (s.clearMailbox st r).contact p i = s.contact p i := by
      unfold State.contact
      rw [port]
    rw [contact]
    exact (h.entry p i).kept (fun c k => other fun e => unused p i c k (Prod.mk.inj e).1) (by rw [State.clearMailbox_ctl])
      (by rw [State.clearMailbox_ctl]) (by rw [port])

theorem State.touchHolds.closeTouch (h : s.touchHolds) (st : Station) : (s.closeTouch st).touchHolds := by
  have clears (l : List (Fin 4)) : ∀ t : State, t.touchHolds → (∀ p i c, (t.contact p i).captured = some c → c.station ≠ st) →
      (l.foldl (fun s r => s.clearMailbox st r) t).touchHolds := by
    induction l with
    | nil => exact fun t h _ => h
    | cons r rest ih =>
      intro t h unused
      refine ih _ (h.clearMailbox unused r) fun p i c => ?_
      have contact : (t.clearMailbox st r).contact p i = t.contact p i := by
        unfold State.contact State.port
        rw [State.clearMailbox_ports]
      rw [contact]
      exact unused p i c
  rw [State.closeTouch_eq]
  refine clears fourIndices _ h.orphaned fun p i c captured => ?_
  rw [State.orphaned_contact] at captured
  exact orphanOf_captured captured

theorem State.closeTouch_serves (s : State) (st : Station) : Serves s (s.closeTouch st) :=
  ⟨(s.closeTouch_quiet st).sound, fun _ _ _ => (s.closeTouch_local st).unseen, fun _ _ h => h.closeTouch st⟩

end

end Sys2Proof.Machine
end

/-! SUPPORT. Jobs that are finished or queued again, and ports that are released, as the invariants of the services and of the touch router see them
(R81, R90, R118, R155 to R158, R177 to R179, R182). -/
section
namespace Sys2Proof.Machine

section
variable {s t u : State} {g h : Slot} {p r : Port} {o : JobOutcome} {d : Detail} {reported : Option Word} {low : Port → Nat} {n : Nat}
  {gs : List Slot} {ps : List Port} {cls : JobClass} {f : JobRecord → JobRecord} {k : PoolStats → PoolStats} {x : SlotShadow}
  {pc : Pool → PortClass}

/-! ### Building blocks -/

/-- A change of some slots and ports alone, which keeps what the service of those slots' jobs reads. -/
theorem Local.of_kept (ctl : t.ctl = s.ctl) (slots : s.slotsKept t gs) (ports : s.portsKept t ps) (jobs : ∀ g ∈ gs, (s.job g).served (t.job g)) :
    Local s t gs ps := by
  refine .of_records (by rw [ctl]) (by rw [ctl]) (by rw [ctl]) (by rw [ctl]) (fun g out fits => ?_) (fun p out => ?_) fun p g _ _ => ?_
  · unfold State.slotFits
    rw [slots g out, State.poolClass_congr (s := s) (t := t) (by rw [ctl])]
    exact fits
  · rw [ports p out]
    exact .refl _
  · by_cases m : g ∈ gs
    · exact jobs g m
    · unfold State.job
      rw [slots g m]
      exact .refl _

/-- A slot that neither waits nor is served. -/
theorem SlotShadow.fits.idle (queued : x.state ≠ .queued) (serving : x.state ≠ .serving) (sheets : x.job.sheetsDone ≤ 8064)
    (left : x.job.holdRemaining ≤ 3600000) : x.fits pc := ⟨sheets, left, fun k => absurd k queued, fun k => absurd k serving⟩

/-- A slot whose job waits. -/
theorem SlotShadow.fits.waits (queued : x.state = .queued) (waiting : x.job.waiting pc cls) (sheets : x.job.sheetsDone ≤ 8064)
    (left : x.job.holdRemaining ≤ 3600000) : x.fits pc :=
  ⟨sheets, left, fun _ => ⟨cls, waiting⟩, fun e => by cases queued.symm.trans e⟩

/-- A slot whose job is served. -/
theorem SlotShadow.fits.serves (serving : x.state = .serving) (job : x.job.inService) (sheets : x.job.sheetsDone ≤ 8064)
    (left : x.job.holdRemaining ≤ 3600000) : x.fits pc := ⟨sheets, left, fun e => (by cases serving.symm.trans e), fun _ => job⟩

theorem State.slotFits.congr (fits : s.slotFits g) (slot : t.slot g = s.slot g) (work : t.ctl.work = s.ctl.work) : t.slotFits g := by
  unfold State.slotFits
  rw [slot, State.poolClass_congr work]
  exact fits

/-! ### The finish (R182) -/

theorem State.finish_local (s : State) (g : Slot) (o : JobOutcome) (d : Detail) (reported : Option Word) :
    Local s (s.finish g o d reported) [g] [] :=
  .of_kept (State.finish_ctl ..) State.finish_slotsKept (fun r _ => State.finish_port r) fun h m => by
    obtain rfl := List.mem_singleton.mp m
    rw [State.finish_job]
    exact .refl _

theorem State.slotFits.finish (fits : s.slotFits g) : (s.finish g o d reported).slotFits g := by
  unfold State.slotFits
  rw [State.finish_slot]
  exact .idle SlotState.noConfusion SlotState.noConfusion fits.sheets fits.left

theorem Routed.of_kept (mailboxes : t.mailboxes = s.mailboxes) (ctl : t.ctl = s.ctl) (ports : ∀ p, t.port p = s.port p) : Routed s t :=
  ⟨mailboxes, by rw [ctl], by rw [ctl], fun p => by rw [ports], fun p => by rw [ports]⟩

theorem State.finish_routed (s : State) (g : Slot) (o : JobOutcome) (d : Detail) (reported : Option Word) : Routed s (s.finish g o d reported) :=
  .of_kept (State.finish_mailboxes ..) (State.finish_ctl ..) State.finish_port

/-! ### The release of a port (R118) -/

theorem State.releasePort_local (s : State) (p : Port) : Local s (s.releasePort p) [] [p] :=
  .of_kept (State.releasePort_ctl _ p) (fun h _ => State.slot_congr (State.releasePort_slots _ p) h)
    (fun _ out => State.releasePort_port_ne s fun e => out (List.mem_singleton.mpr e)) fun _ m => absurd m List.not_mem_nil

theorem PortRecord.unoffered.free {x : PortRecord} (h : x.unoffered) : x.ended.unoffered := h

theorem PortRecord.ended_resting (x : PortRecord) : x.ended.resting := ⟨PortState.noConfusion, rfl, rfl, rfl, rfl⟩

theorem State.releasePort_fits (offers : (s.port p).unoffered) : (s.releasePort p).portFits n p := by
  unfold State.portFits
  rw [State.releasePort_port]
  exact ⟨offers.free, .inl (s.port p).ended_resting⟩

/-- The touch router's law where a port without HOLD entries is released. -/
theorem State.touchHolds.releasePort (h : s.touchHolds) (free : ∀ i c, s.contact p i ≠ .hold c) : (s.releasePort p).touchHolds := by
  have port (r : Port) : ((s.releasePort p).port r).contacts = (s.port r).contacts := by
    by_cases e : r = p
    · subst e
      rw [State.releasePort_port]
      rfl
    · rw [State.releasePort_port_ne s e]
  refine h.kept (State.releasePort_mailboxes _ p) (by rw [State.releasePort_ctl]) (fun k => by rwa [State.releasePort_ctl] at k) port fun r i c k => ?_
  have ne : r ≠ p := fun e => by
    subst e
    exact free i c k
  rw [State.releasePort_port_ne s ne]

/-- Only a panel has HOLD entries. -/
theorem State.touchHolds.unheld (h : s.touchHolds) (cls : (s.portConfig p).cls ≠ .panel) (i : Fin 10) (c : Capture) : s.contact p i ≠ .hold c :=
  fun k => cls (h.panels p i (by rw [k]; exact Contact.noConfusion))

/-! ### A finish that frees the port -/

theorem Local.finishScan (a : Local s u [g] [p]) (fits : s.fits low) (own : u.slotFits g) (offers : (u.port p).unoffered) :
    (u.finishScan p g o d reported).fits low := by
  have finish := (u.finish_local g o d reported).mono (List.Subset.refl _) (List.nil_subset [p])
  have change := (a.trans finish).trans ((State.releasePort_local _ p).mono (List.nil_subset [g]) (List.Subset.refl _))
  refine change.fits fits (fun h m => ?_) fun r m => ?_
  · obtain rfl := List.mem_singleton.mp m
    exact own.finish.congr (State.slot_congr (State.releasePort_slots _ p) h) (congrArg Control.work (State.releasePort_ctl _ p))
  · obtain rfl := List.mem_singleton.mp m
    refine State.releasePort_fits ?_
    rw [State.finish_port]
    exact offers

theorem State.touchHolds.finishScan (h : s.touchHolds) (free : ∀ i c, s.contact p i ≠ .hold c) : (s.finishScan p g o d reported).touchHolds :=
  State.touchHolds.releasePort ((s.finish_routed g o d reported).touch h) fun i c => by
    have contact : (s.finish g o d reported).contact p i = s.contact p i := by
      unfold State.contact
      rw [State.finish_port]
    rw [contact]
    exact free i c

/-! ### A job that is queued again (R90, R91) -/

theorem State.requeuedWith_local (same : (s.job g).served (f (s.job g))) : Local s (s.requeuedWith g f k) [g] [] :=
  .of_kept State.requeuedWith_ctl State.requeuedWith_slotsKept (fun r _ => State.requeuedWith_port r) fun h m => by
    obtain rfl := List.mem_singleton.mp m
    rw [State.requeuedWith_job]
    exact same

theorem State.requeuedWith_routed (s : State) (g : Slot) (f : JobRecord → JobRecord) (k : PoolStats → PoolStats) : Routed s (s.requeuedWith g f k) :=
  .of_kept State.requeuedWith_mailboxes State.requeuedWith_ctl State.requeuedWith_port

/-- A job that is queued again waits as it stood ready to. -/
theorem State.requeuedWith_slotFits (waiting : (f (s.job g)).waiting s.poolClass cls) (sheets : (f (s.job g)).sheetsDone ≤ 8064)
    (left : (f (s.job g)).holdRemaining ≤ 3600000) : (s.requeuedWith g f k).slotFits g := by
  unfold State.slotFits
  rw [State.requeuedWith_slot, State.poolClass_congr (s := s) (by rw [State.requeuedWith_ctl])]
  exact .waits rfl waiting sheets left

/-- A change of a job's counts alone keeps it waiting. -/
theorem JobRecord.waiting.congr {j l : JobRecord} (w : j.waiting pc cls) (same : j.served l) (copy : l.resumeCopy = j.resumeCopy)
    (sheet : l.resumeSheet = j.resumeSheet) (left : l.holdRemaining = j.holdRemaining) : l.waiting pc cls where
  ofClass := same.cls.trans w.ofClass
  pool := same.pool ▸ w.pool
  bare := same.resultChain.trans w.bare
  print e := by
    obtain ⟨chained, reaches⟩ := w.print e
    unfold JobRecord.chained at *
    rw [same.chain, same.copies, copy, sheet]
    exact ⟨chained, same.reaches reaches⟩
  hold e := left ▸ w.hold e

/-- A pool with a port of a class is of this class in a configuration that has passed the validation. -/
theorem State.poolsFit.poolClass (pools : s.poolsFit) (sweeps : sweeping s.ctl.engine = true) (some : (s.portConfig p).cls ≠ .none) :
    s.poolClass (s.portConfig p).pool = (s.portConfig p).cls := by
  have member {r : Port} {q : Pool} : r ∈ s.members q ↔ (s.portConfig r).pool = q ∧ (s.portConfig r).cls ≠ .none := by
    unfold State.members
    rw [List.mem_filter]
    have mem : r ∈ allPorts := List.mem_finRange r
    simp only [mem, true_and, Bool.and_eq_true, decide_eq_true_eq, ne_eq]
    exact and_comm
  unfold State.poolClass
  cases members : s.members (s.portConfig p).pool with
  | nil =>
    have := member.mpr ⟨rfl, some⟩
    rw [members] at this
    cases this
  | cons r rest =>
    have first : r ∈ s.members (s.portConfig p).pool := by
      rw [members]
      exact List.mem_cons_self
    obtain ⟨pool, cls⟩ := member.mp first
    exact (pools (.inl sweeps)).2 r p cls some pool

end

end Sys2Proof.Machine
end

/-! SUPPORT. Services that end, and holds that are preempted (R85, R155 to R158, R177 to R179). -/
section
namespace Sys2Proof.Machine

section
variable {s t u : State} {g h : Slot} {p r : Port} {o : JobOutcome} {d : Detail} {reported : Option Word} {low : Port → Nat} {n : Nat}
  {cls : JobClass}

/-! ### Transmitters -/

theorem State.transmit_local (s : State) (p : Port) (f : Transmitter → Transmitter) : Local s (s.transmit p f) [] [p] := s.modifyPort_local p _

theorem State.transmit_routed (s : State) (p : Port) (f : Transmitter → Transmitter) : Routed s (s.transmit p f) := State.setPort_routed rfl rfl

theorem State.transmit_port (s : State) (p : Port) (f : Transmitter → Transmitter) :
    (s.transmit p f).port p = { s.port p with transmitter := f (s.port p).transmitter } := s.port_modifyPort p _

theorem State.offerFrame_unoffered (offers : (s.port p).unoffered) (frame : AnswerFrame) : ((s.offerFrame p frame).port p).unoffered := by
  unfold State.offerFrame
  rw [State.transmit_port]
  exact offers.offer frame

theorem State.transmit_unoffered {f : Transmitter → Transmitter} (offers : (s.port p).unoffered)
    (less : (f (s.port p).transmitter).places.Sublist (s.port p).transmitter.places) : ((s.transmit p f).port p).unoffered := by
  rw [State.transmit_port]
  exact offers.less rfl fun n _ => Transmitter.framesOf_sublist less _

/-- A change of a port's transmitter that leaves it no frame of a grant to come. -/
structure Transmits (s t : State) (p : Port) : Prop where
  places : Local s t [] [p]
  routed : Routed s t
  offers : (s.port p).unoffered → (t.port p).unoffered

theorem Transmits.refl (s : State) (p : Port) : Transmits s s p := ⟨.refl s [] [p], .refl s, id⟩

theorem Transmits.trans (a : Transmits s t p) (b : Transmits t u p) : Transmits s u p :=
  ⟨a.places.trans b.places, a.routed.trans b.routed, fun k => b.offers (a.offers k)⟩

theorem State.offerFrame_transmits (s : State) (p : Port) (frame : AnswerFrame) : Transmits s (s.offerFrame p frame) p :=
  ⟨s.transmit_local p _, s.transmit_routed p _, fun k => State.offerFrame_unoffered k frame⟩

theorem State.transmit_transmits {f : Transmitter → Transmitter}
    (less : (f (s.port p).transmitter).places.Sublist (s.port p).transmitter.places) : Transmits s (s.transmit p f) p :=
  ⟨s.transmit_local p f, s.transmit_routed p f, fun k => State.transmit_unoffered k less⟩

theorem State.reply_transmits (s : State) (p : Port) (k : ReplyKind) : Transmits s (s.reply p k) p :=
  State.transmit_transmits (by rw [placeReply_places])

theorem State.closeScanFrames_transmits (s : State) (p : Port) : Transmits s (s.closeScanFrames p) p := by
  unfold State.closeScanFrames
  split
  · exact (State.transmit_transmits (withdrawOpenScan_sublist _ _)).trans (State.offerFrame_transmits _ p _)
  · exact s.offerFrame_transmits p _
  · exact s.offerFrame_transmits p _
  · exact .refl s p
  · exact .refl s p

/-! ### Scans that end (R155 to R158) -/

/-- A service without HOLD entries that ends with its frames. -/
theorem Transmits.finishScan (a : Transmits s u p) (sound : Sound s (u.finishScan p g o d reported)) (cls : (s.portConfig p).cls ≠ .panel) :
    Serves s (u.finishScan p g o d reported) where
  sound := sound
  fits low _ _ f := (a.places.mono (List.nil_subset [g]) (List.Subset.refl _)).finishScan f (a.places.slots g List.not_mem_nil (f.slots g))
    (a.offers (f.ports p).1)
  touch _ _ h := (a.routed.touch h).finishScan ((a.routed.touch h).unheld (by rw [State.portConfig_work a.routed.work]; exact cls))

section
variable (job : (s.port p).job = some g) (other : (s.portConfig p).cls ≠ .panel)
include job other

theorem State.endScan_serves : Serves s (s.endScan p g o d) := (s.closeScanFrames_transmits p).finishScan (State.endScan_sound job) other

theorem State.starveOut_serves : Serves s (s.starveOut p g) := (s.offerFrame_transmits p _).finishScan (State.starveOut_sound job) other

theorem State.imageEndTaken_serves (total : Word) : Serves s (s.imageEndTaken p g total) := by
  unfold State.imageEndTaken
  refine .ite (fun _ => .ite (fun _ => ?_) fun _ => ?_) fun _ => .refl s
  · exact (s.reply_transmits p _).finishScan ((s.reply_quiet p _).finishScan job) other
  · exact (s.reply_transmits p _).finishScan ((s.reply_quiet p _).finishScan job) other

end

/-! ### Holds that end (R177, R178) -/

theorem State.keepHold_local (s : State) (g : Slot) (ms : Nat) : Local s (s.keepHold g ms) [g] [] :=
  State.updateJob_served ⟨rfl, rfl, rfl, rfl, rfl, rfl, rfl⟩

theorem State.keepHold_routed (s : State) (g : Slot) (ms : Nat) : Routed s (s.keepHold g ms) := s.updateJob_routed g _

theorem State.keepHold_slot (s : State) (g : Slot) (ms : Nat) :
    (s.keepHold g ms).slot g = { s.slot g with job := { s.job g with holdRemaining := ms } } := State.slot_setSlot s g _

/-- A job in service keeps a remaining time. -/
theorem State.slotFits.keepHold (fits : s.slotFits g) (serving : (s.slot g).state = .serving) {ms : Nat} (bound : ms ≤ 3600000) :
    (s.keepHold g ms).slotFits g := by
  unfold State.slotFits
  rw [State.keepHold_slot]
  have job := fits.serving serving
  exact .serves serving ⟨job.print, job.bare⟩ fits.sheets bound

/-- The time that a hold's timer has left. -/
theorem State.fits.holdLeft (f : s.fits low) (p : Port) : s.holdLeft p ≤ 3600000 := by
  have idle (k : (s.port p).hold = {}) : s.holdLeft p ≤ 3600000 := by
    unfold State.holdLeft
    rw [k]
    exact Nat.zero_le _
  rcases (f.ports p).2 with rest | ⟨g, cls, e⟩
  · exact idle rest.hold
  · have serves := e.serves
    cases cls with
    | print => exact idle (PortRecord.printing.hold serves)
    | scan => exact idle (PortRecord.scanning.hold serves)
    | hold =>
      obtain ⟨x, timer, -, bound⟩ := PortRecord.holding.timer serves
      unfold State.holdLeft
      rw [timer]
      exact bound

/-- A change of a hold's contacts and of its remaining time before it ends. -/
structure HoldEnds (s u : State) (p : Port) (g : Slot) : Prop where
  change : Local s u [g] []
  port : (u.port p).transmitter = (s.port p).transmitter ∧ (u.port p).grantNumber = (s.port p).grantNumber
  touch : s.touchHolds → u.touchHolds ∧ ∀ i c, u.contact p i ≠ .hold c

theorem PortRecord.unoffered.same {x y : PortRecord} (h : x.unoffered)
    (same : y.transmitter = x.transmitter ∧ y.grantNumber = x.grantNumber) : y.unoffered := fun n later => by
  unfold PortRecord.framesOf
  rw [same.1]
  exact h n (same.2 ▸ later)

theorem HoldEnds.finishScan (a : HoldEnds s u p g) (sound : Sound s (u.finishScan p g o d reported))
    (own : s.structured → ∀ low, s.fits low → u.slotFits g) : Serves s (u.finishScan p g o d reported) where
  sound := sound
  fits low _ holds f := (a.change.mono (List.Subset.refl _) (List.nil_subset [p])).finishScan f (own holds low f) ((f.ports p).1.same a.port)
  touch _ _ h := (a.touch h).1.finishScan (a.touch h).2

theorem Contact.after_unheld (e : Contact) (c : Capture) : e.after false true .orphan ≠ .hold c := by
  cases e <;> exact Contact.noConfusion

/-- The HOLD entries of a panel lifted. -/
theorem State.keepHold_lifts (s : State) (p : Port) (g : Slot) (ms : Nat) :
    HoldEnds s ((s.keepHold g ms).liftEntries p false true .orphan) p g where
  change := (s.keepHold_local g ms).trans ((State.liftEntries_local _ p false true .orphan).wide [g] [])
  port := by
    rw [State.liftEntries_port]
    exact ⟨rfl, rfl⟩
  touch h := by
    refine ⟨((s.keepHold_routed g ms).touch h).liftEntries p rfl, fun i c => ?_⟩
    rw [State.liftEntries_contact]
    exact Contact.after_unheld _ c

theorem orphanHold_cases (e : Contact) : orphanHold e = e ∨ (orphanHold e).captured = none ∧ e ≠ .none := by
  cases e with
  | hold c => exact .inr ⟨rfl, Contact.noConfusion⟩
  | none => exact .inl rfl
  | zone c => exact .inl rfl
  | orphan => exact .inl rfl
  | dropped => exact .inl rfl

theorem orphanHold_unheld (e : Contact) (c : Capture) : orphanHold e ≠ .hold c := by
  cases e <;> exact Contact.noConfusion

/-- HOLD entries that become ORPHAN without a write. -/
theorem State.keepHold_orphans (s : State) (p : Port) (g : Slot) (ms : Nat) :
    HoldEnds s ((s.keepHold g ms).modifyPort p fun x => { x with contacts := x.contacts.map orphanHold }) p g where
  change := (s.keepHold_local g ms).trans ((State.modifyPort_still (.of_eq rfl rfl rfl rfl rfl rfl rfl)).wide [g] [])
  port := by
    rw [State.port_modifyPort]
    exact ⟨rfl, rfl⟩
  touch h := by
    have contact (q : Port) (i : Fin 10) : ((s.keepHold g ms).modifyPort p fun x => { x with contacts := x.contacts.map orphanHold }).contact q i =
        if q = p then orphanHold (s.contact q i) else s.contact q i := by
      unfold State.contact
      split
      · next e =>
        subst e
        rw [State.port_modifyPort]
        exact Vector.getElem_map _ _
      · next e =>
        rw [State.port_modifyPort_ne _ e]
        rfl
    refine ⟨h.released rfl rfl rfl (fun q => ?_) fun q i => ?_, fun i c => ?_⟩
    · by_cases e : q = p
      · subst e
        rw [State.port_modifyPort]
        rfl
      · rw [State.port_modifyPort_ne _ e]
        rfl
    · rw [contact]
      split
      · exact (orphanHold_cases _).imp id .inr
      · exact .inl rfl
    · rw [contact, if_pos rfl]
      exact orphanHold_unheld _ c

theorem State.slotFits.liftEntries {zones holds : Bool} {e : Contact} (fits : s.slotFits g) : (s.liftEntries p zones holds e).slotFits g :=
  fits.congr (State.slot_congr (State.liftEntries_slots _ p zones holds e) g) (by rw [State.liftEntries_ctl])

section
variable (job : (s.port p).job = some g)
include job

theorem State.holdExpired_serves : Serves s (s.holdExpired p g) :=
  (s.keepHold_lifts p g 0).finishScan (State.holdExpired_sound job) fun holds _ f =>
    ((f.slots g).keepHold (holds.served job) (Nat.zero_le _)).liftEntries

theorem State.holdCancelled_serves : Serves s (s.holdCancelled p g) :=
  (s.keepHold_lifts p g _).finishScan (State.holdCancelled_sound job) fun holds _ f =>
    ((f.slots g).keepHold (holds.served job) (f.holdLeft p)).liftEntries

theorem State.holdClosed_serves : Serves s (s.holdClosed p g) :=
  (s.keepHold_orphans p g _).finishScan (State.holdClosed_sound job) fun holds _ f =>
    ((f.slots g).keepHold (holds.served job) (f.holdLeft p)).congr rfl rfl

end

/-! ### A preempted hold (R85, R90, R179) -/

theorem Local.requeuePreempted (a : Local s u [g] [p]) (fits : s.fits low) (waiting : (u.job g).waiting u.poolClass cls)
    (sheets : (u.job g).sheetsDone ≤ 8064) (left : (u.job g).holdRemaining ≤ 3600000) (offers : (u.port p).unoffered) :
    ((u.requeuePreempted g).releasePort p).fits low := by
  have same : (u.job g).served (u.job g).interrupted := ⟨rfl, rfl, rfl, rfl, rfl, rfl, rfl⟩
  have requeue : Local u (u.requeuePreempted g) [g] [] := State.requeuedWith_local same
  have change := (a.trans (requeue.mono (List.Subset.refl _) (List.nil_subset [p]))).trans
    ((State.releasePort_local _ p).mono (List.nil_subset [g]) (List.Subset.refl _))
  have again : (u.requeuePreempted g).slotFits g :=
    State.requeuedWith_slotFits (waiting.congr same rfl rfl rfl) sheets left
  refine change.fits fits (fun h m => ?_) fun r m => ?_
  · obtain rfl := List.mem_singleton.mp m
    exact again.congr (State.slot_congr (State.releasePort_slots _ p) h) (congrArg Control.work (State.releasePort_ctl _ p))
  · obtain rfl := List.mem_singleton.mp m
    refine State.releasePort_fits ?_
    rw [State.requeuePreempted_eq, State.requeuedWith_port]
    exact offers

theorem State.touchHolds.requeuePreempted (h : s.touchHolds) (free : ∀ i c, s.contact p i ≠ .hold c) :
    ((s.requeuePreempted g).releasePort p).touchHolds :=
  State.touchHolds.releasePort ((s.requeuedWith_routed g _ _).touch h) fun i c => by
    have contact : (s.requeuePreempted g).contact p i = s.contact p i := by
      unfold State.contact
      rw [State.requeuePreempted_eq, State.requeuedWith_port]
    rw [contact]
    exact free i c

/-- A job in service stays of its pool's class. -/
theorem State.fits.ofPool (f : s.fits low) (sweeps : sweeping s.ctl.engine = true) (job : (s.port p).job = some g) :
    ∃ cls, (s.port p).engaged (s.portConfig p) g (s.job g) s.ctl.clock (low p) cls ∧ s.poolClass (s.job g).pool = servingClass cls := by
  obtain ⟨cls, e⟩ := f.at_job job
  refine ⟨cls, e, ?_⟩
  rw [← e.pool, ← e.port]
  exact f.pools.poolClass sweeps (by rw [e.port]; exact (servingClass_ne cls).1)

theorem State.structured.sweepsAt (holds : s.structured) (job : (s.port p).job = some g) : sweeping s.ctl.engine = true :=
  holds.sweeps (.inr (holds.served job))

theorem State.holdPreempted_serves (job : (s.port p).job = some g) (engine : s.ctl.engine ≠ .draining) (panel : (s.portConfig p).cls = .panel) :
    Serves s (s.holdPreempted p g) where
  sound := State.holdPreempted_sound job engine
  fits low _ holds f := by
    have ends := s.keepHold_lifts p g (max 1 (s.holdLeft p))
    obtain ⟨cls, e, pool⟩ := f.ofPool (holds.sweepsAt job) job
    obtain rfl : cls = .hold := servingClass_injective (e.port.symm.trans panel)
    have lifted : ((s.keepLeft p g).liftEntries p false true .orphan).job g = { s.job g with holdRemaining := max 1 (s.holdLeft p) } := by
      rw [State.job_congr (State.liftEntries_slots _ p false true .orphan)]
      exact congrArg SlotShadow.job (s.keepHold_slot g _)
    have bare := ((f.slots g).serving (holds.served job)).bare fun k => JobClass.noConfusion (Option.some.inj (e.ofClass.symm.trans k))
    have left := f.holdLeft p
    refine Local.requeuePreempted (ends.change.mono (List.Subset.refl _) (List.nil_subset [p])) f (cls := .hold) ?_ ?_ ?_
      ((f.ports p).1.same ends.port)
    · rw [lifted, show ((s.keepLeft p g).liftEntries p false true .orphan).poolClass = s.poolClass from ends.change.poolClass]
      exact ⟨e.ofClass, pool, bare, fun k => (by cases k), fun _ => le_max_left _ _⟩
    · rw [lifted]
      exact (f.slots g).sheets
    · rw [lifted]
      show max 1 (s.holdLeft p) ≤ 3600000
      omega
  touch _ _ h := by
    have ends := (s.keepHold_lifts p g (max 1 (s.holdLeft p))).touch h
    exact ends.1.requeuePreempted ends.2

end

end Sys2Proof.Machine
end

/-! SUPPORT. Slots that are finished, released, accepted or latched, as the invariants of the services and of the touch router see them (R29 to
R38, R45, R56). -/
section
namespace Sys2Proof.Machine

section
variable {s t u : State} {g h : Slot} {p r : Port} {o : JobOutcome} {d : Detail} {low : Port → Nat} {n : Nat}

/-! ### A change of one slot -/

/-- A change of one slot's shadow that keeps what the service of its job reads. -/
theorem Serves.of_slot (sound : Sound s t) (ctl : t.ctl = s.ctl) (ports : t.ports = s.ports) (mailboxes : t.mailboxes = s.mailboxes)
    (slots : s.slotsKept t [g]) (own : ∀ low, s.structured → s.fits low → t.slotFits g)
    (same : ∀ p, s.structured → (s.port p).job = some g → (s.job g).served (t.job g)) : Serves s t where
  sound := sound
  fits low _ holds f := by
    have port (p : Port) : t.port p = s.port p := by
      unfold State.port
      rw [ports]
    have change : Local s t [g] [] := by
      refine .of_records (by rw [ctl]) (by rw [ctl]) (by rw [ctl]) (by rw [ctl]) (fun h out fits => fits.congr (slots h out) (by rw [ctl]))
        (fun p _ => by rw [port]; exact .refl _) fun p h _ job => ?_
      by_cases e : h = g
      · subst e
        exact same p holds job
      · unfold State.job
        rw [slots h fun m => e (List.mem_singleton.mp m)]
        exact .refl _
    refine change.fits f (fun h m => ?_) fun _ m => absurd m List.not_mem_nil
    obtain rfl := List.mem_singleton.mp m
    exact own low holds f
  touch _ _ := (Routed.of_ports mailboxes ctl ports).touch

/-- A change of a slot that is not served. -/
theorem Serves.of_idle (idle : (s.slot g).state ≠ .serving) (sound : Sound s t) (ctl : t.ctl = s.ctl) (ports : t.ports = s.ports)
    (mailboxes : t.mailboxes = s.mailboxes) (slots : s.slotsKept t [g]) (own : ∀ low, s.structured → s.fits low → t.slotFits g) : Serves s t :=
  .of_slot sound ctl ports mailboxes slots own fun _ holds job => absurd (holds.served job) idle

/-- A slot that stands aside with a job whose counts were in range. -/
theorem State.fits.aside (f : s.fits low) (queued : (t.slot g).state ≠ .queued) (serving : (t.slot g).state ≠ .serving)
    (job : (t.slot g).job = s.job g) : t.slotFits g := by
  refine SlotShadow.fits.idle queued serving ?_ ?_
  · rw [job]
    exact (f.slots g).sheets
  · rw [job]
    exact (f.slots g).left

theorem slotsKept_of_set {x : SlotShadow} (slots : t.slots = s.slots.set g.val x) : s.slotsKept t [g] := fun h out => by
  unfold State.slot
  rw [slots]
  exact Vector.getElem_set_ne _ _ fun e => out (List.mem_singleton.mpr (Fin.ext e.symm))

theorem slot_of_set {x : SlotShadow} (slots : t.slots = s.slots.set g.val x) : t.slot g = x := by
  unfold State.slot
  rw [slots]
  exact Vector.getElem_set_self _

/-- A slot that is finished off its port. -/
theorem Serves.of_finish {codes : ResultCodes} (idle : (s.slot g).state ≠ .serving) (sound : Sound s t) (ctl : t.ctl = s.ctl)
    (ports : t.ports = s.ports) (mailboxes : t.mailboxes = s.mailboxes)
    (slots : t.slots = s.slots.set g.val { s.slot g with state := .finished, codes := codes }) : Serves s t := by
  have own := slot_of_set slots
  refine .of_idle idle sound ctl ports mailboxes (slotsKept_of_set slots) fun low _ f => f.aside ?_ ?_ ?_
  · rw [own]
    exact SlotState.noConfusion
  · rw [own]
    exact SlotState.noConfusion
  · rw [own]
    rfl

/-! ### Jobs that end in their queue (R19, R36, R45, R56) -/

theorem State.finishQueued_serves (queued : (s.slot g).state = .queued) : Serves s (s.finishQueued g o d) :=
  .of_finish (by rw [queued]; exact SlotState.noConfusion) (State.finishQueued_sound queued) (State.finish_ctl ..) (State.finish_ports ..)
    (State.finish_mailboxes ..) (State.finish_slots (s := s.unqueued g))

theorem State.expireJob_serves (queued : (s.slot g).state = .queued) : Serves s (s.expireJob g) :=
  .of_finish (by rw [queued]; exact SlotState.noConfusion) (State.expireJob_sound queued) (State.finish_ctl ..) (State.finish_ports ..)
    (State.finish_mailboxes ..) (State.finish_slots (s := s.expiryCounted g))

theorem State.expiredHead_queued (holds : s.structured) (head : s.expiredHead = some g) : (s.slot g).state = .queued := by
  refine ((holds.2.1.2 g).mp ?_).1
  unfold State.expiredHead at head
  split at head
  · next l eq =>
    split at head
    · split at head
      · exact eq ▸ Option.some.inj head ▸ List.mem_cons_self
      · cases head
    · cases head
  · cases head

theorem State.deadlineEvent_serves (s : State) : Serves s s.deadlineEvent := by
  refine Serves.of_structured s.deadlineEvent_sound fun holds => ?_
  unfold State.deadlineEvent
  split
  · next g head => exact State.expireJob_serves (State.expiredHead_queued holds head)
  · exact .refl s

/-! ### Acceptance (R31 to R35) -/

theorem chainWalk_bounded {n b : Nat} {chain : List ChainEntry} (h : chainWalk s n b = .ok chain) :
    chain.length ≤ n ∧ chain.getLast?.map ChainEntry.sheetEnd = some true := by
  induction n generalizing b chain with
  | zero => cases h
  | succ n ih =>
    unfold chainWalk at h
    dsimp only at h
    split at h
    · cases h
    split at h
    · cases h
    split at h
    · cases h
      exact ⟨Nat.succ_le_succ (Nat.zero_le n), rfl⟩
    · split at h
      · next rest walk =>
        obtain ⟨length, last⟩ := ih walk
        cases h
        refine ⟨Nat.succ_le_succ length, ?_⟩
        cases rest with
        | nil => cases last
        | cons e rest => exact last
      · cases h

/-- A chain record whose last entry is marked has a sheet. -/
theorem sheetsPerCopy_pos {chain : List ChainEntry} (last : chain.getLast?.map ChainEntry.sheetEnd = some true) : 1 ≤ sheetsPerCopy chain := by
  obtain ⟨e, found, marked⟩ := Option.map_eq_some_iff.mp last
  exact List.length_pos_of_mem (List.mem_filter.mpr ⟨List.mem_of_getLast? found, marked⟩)

theorem freshJob_waiting {request : Request} {valid : Validated} {clock : Stamp} {pc : Pool → PortClass}
    (pool : pc valid.pool = servingClass valid.cls) (passes : s.validateParameters request valid.cls = .ok valid.chain) :
    (freshJob clock request valid).waiting pc valid.cls where
  ofClass := rfl
  pool := pool
  bare := rfl
  print e := by
    have walk := (State.validateParameters_print (e ▸ passes)).1
    obtain ⟨length, last⟩ := chainWalk_bounded walk
    have sheets := sheetsPerCopy_pos last
    unfold freshJob JobRecord.chained JobRecord.reaches
    simp only [if_pos e]
    exact ⟨⟨length, last, by omega, by omega⟩, by omega, by omega, by omega, sheets, by omega⟩
  hold e := by
    unfold freshJob clampDuration
    simp only [if_pos e]
    omega

theorem freshJob_left (clock : Stamp) (request : Request) (valid : Validated) : (freshJob clock request valid).holdRemaining ≤ 3600000 := by
  unfold freshJob clampDuration
  dsimp only
  split <;> omega

theorem State.enqueued_serves (fresh : (s.slot g).state = .empty ∨ (s.slot g).state = .posted) (running : s.ctl.engine = .running)
    {request : Request} {valid : Validated} {st : Station} (deadline : request.deadline < 65536)
    (passes : s.validateRequest st request = .ok valid) : Serves s (s.enqueued g request valid) := by
  obtain ⟨-, -, pool, chain⟩ := State.validated passes
  refine .of_idle (g := g) ?_ ((State.enqueued_accepts deadline chain).sound fresh running) (State.enqueued_ctl ..) (State.enqueued_ports ..)
    (State.enqueued_mailboxes ..) (slotsKept_of_set (State.enqueued_slots ..)) fun low _ f => ?_
  · rcases fresh with e | e
    · rw [e]
      exact SlotState.noConfusion
    · rw [e]
      exact SlotState.noConfusion
  · unfold State.slotFits
    rw [State.enqueued_slot, State.poolClass_congr (s := s) (by rw [State.enqueued_ctl])]
    exact .waits rfl (freshJob_waiting pool chain) (Nat.zero_le _) (freshJob_left _ _ _)

section
variable (fresh : (s.slot g).state = .empty ∨ (s.slot g).state = .posted) (running : s.ctl.engine = .running)
include fresh running

theorem State.refuse_serves (cls : Option JobClass) : Serves s (s.refuse g cls d) := by
  refine .of_finish ?_ ((State.refuse_refuses _ _).sound fresh running) (s.refuse_ctl _ _ _) (s.refuse_ports _ _ _) ?_ State.refuse_slots
  · rcases fresh with e | e <;> rw [e] <;> exact SlotState.noConfusion
  · unfold State.refuse
    rw [State.closeFinish_mailboxes, State.writeResults_mailboxes]

theorem State.cancelBeforeAccept_serves (cls : Option JobClass) (clamps : ClampFlags) : Serves s (s.cancelBeforeAccept g cls clamps) := by
  refine .of_finish ?_ ((State.cancelBeforeAccept_refuses _ _).sound fresh running) (s.cancelBeforeAccept_ctl _ _ _)
    (s.cancelBeforeAccept_ports _ _ _) ?_ (State.cancelBeforeAccept_slots _ _ _ _)
  · rcases fresh with e | e <;> rw [e] <;> exact SlotState.noConfusion
  · unfold State.cancelBeforeAccept
    rw [State.closeFinish_mailboxes, State.putWord_mailboxes, State.writeResults_mailboxes]

end

/-! ### Release and latches (R29, R37, R45) -/

theorem State.release_serves (finished : (s.slot g).state = .finished) (engine : s.ctl.engine ≠ .starting) : Serves s (s.release g) := by
  refine .of_idle (by rw [finished]; exact SlotState.noConfusion) (State.release_sound finished engine) ?_ ?_ ?_
    (slotsKept_of_set State.release_slots) fun low _ f => ?_
  · rw [State.release_eq]
  · rw [State.release_eq]
  · rw [State.release_eq]
  unfold State.slotFits
  rw [State.release_slot]
  exact .idle SlotState.noConfusion SlotState.noConfusion (Nat.zero_le _) (Nat.zero_le _)

/-- A latch of a served job. -/
theorem State.latch_serves {f : JobRecord → JobRecord} (alike : ∀ j : JobRecord, j.alike (f j)) (same : ∀ j : JobRecord, j.served (f j))
    (copy : ∀ j, (f j).resumeCopy = j.resumeCopy) (sheet : ∀ j, (f j).resumeSheet = j.resumeSheet)
    (left : ∀ j, (f j).holdRemaining = j.holdRemaining) (serving : (s.slot g).state = .serving) : Serves s (s.updateJob g f) :=
  (State.updateJob_calm (alike _) (same _) (copy _) (sheet _) (left _) (.inr serving)).serves

theorem State.cancelLatch_serves (serving : (s.slot g).state = .serving) : Serves s (s.updateJob g fun j => { j with cancelLatch := true }) :=
  State.latch_serves (fun _ => ⟨rfl, rfl, rfl, rfl, rfl, rfl, rfl, rfl⟩) (fun _ => ⟨rfl, rfl, rfl, rfl, rfl, rfl, rfl⟩) (fun _ => rfl) (fun _ => rfl)
    (fun _ => rfl) serving

theorem State.closeLatch_serves (serving : (s.slot g).state = .serving) : Serves s (s.updateJob g fun j => { j with closeLatch := true }) :=
  State.latch_serves (fun _ => ⟨rfl, rfl, rfl, rfl, rfl, rfl, rfl, rfl⟩) (fun _ => ⟨rfl, rfl, rfl, rfl, rfl, rfl, rfl⟩) (fun _ => rfl) (fun _ => rfl)
    (fun _ => rfl) serving

end

end Sys2Proof.Machine
end

/-! SUPPORT. The GO test, the refill splice, the entry to FAULTED and the fault ends before their review, as the invariants of the services and
of the touch router see them (R91, R120, R133, R144, R146 to R148, R154, R159, R179). -/
section
namespace Sys2Proof.Machine

section
variable {s t u : State} {g h : Slot} {p r : Port} {o : JobOutcome} {d : Detail} {c : Option Condition} {low : Port → Nat} {n m : Nat}
  {cls : JobClass} {x : PortRecord} {j : JobRecord} {clock : Stamp} {config : PortConfig}

/-! ### The GO test (R154) -/

/-- A GO at a starved scan of which the reply list has room. -/
theorem PortRecord.goTested_cases (x : PortRecord) (n : Nat) : x.goTested n = x ∨ x.scan.phase = .starved ∧
    x.goTested n = { x with transmitter := placeReply .go x.transmitter, scan := { x.scan with phase := .taking, starveTimer := none } } := by
  by_cases go : x.scan.phase = .starved ∧
      x.scan.wanted ≤ (if x.scan.current = none then 0 else 120 - x.scan.fill) + 120 * n ∧ x.transmitter.replies.length < 4
  · exact .inr ⟨go.1, if_pos go⟩
  · exact .inl (if_neg go)

theorem PortRecord.goTested_frames (x : PortRecord) (n m : Nat) : (x.goTested n).framesOf m = x.framesOf m := by
  rcases x.goTested_cases n with same | ⟨-, go⟩
  · rw [same]
  · rw [go]
    exact Transmitter.framesOf_congr (placeReply_places .go x.transmitter) _

/-- A scan that starves and is answered GO takes frames again. -/
theorem PortRecord.scanning.taken (h : x.scanning j) (phase : x.scan.phase = .starved) {u : Transmitter} (places : u.places = x.transmitter.places) :
    ({ x with transmitter := u, scan := { x.scan with phase := .taking, starveTimer := none } } : PortRecord).scanning j where
  phase := ScanPhase.noConfusion
  print := h.print
  hold := h.hold
  storing := ⟨h.storing.current, h.storing.fill, h.storing.empty, h.storing.stored, h.storing.limit⟩
  starved := ⟨fun k => (by cases k), fun k => absurd rfl k⟩
  opening k := by cases k
  closing k := by cases k
  others _ _ := (Transmitter.framesOf_congr places _).trans
    (h.others (by rw [phase]; exact ScanPhase.noConfusion) (by rw [phase]; exact ScanPhase.noConfusion))

theorem PortRecord.engaged.goTested (h : x.engaged config g j clock m cls) (n : Nat) : (x.goTested n).engaged config g j clock m cls := by
  rcases x.goTested_cases n with same | ⟨phase, go⟩
  · rw [same]
    exact h
  · rw [go]
    refine ⟨h.state, h.job, h.ofClass, h.port, h.pool, ?_⟩
    have serves := h.serves
    cases cls with
    | print =>
      rw [PortRecord.printing.scan serves] at phase
      cases phase
    | scan => exact PortRecord.scanning.taken serves phase (placeReply_places .go x.transmitter)
    | hold =>
      rw [PortRecord.holding.scan serves] at phase
      cases phase

theorem PortRecord.resting.goTested (h : x.resting) (n : Nat) : (x.goTested n).resting := by
  rcases x.goTested_cases n with same | ⟨phase, -⟩
  · rw [same]
    exact h
  · rw [h.scan] at phase
    cases phase

theorem PortRecord.goTested_grant (x : PortRecord) (n : Nat) : (x.goTested n).grantNumber = x.grantNumber := by
  rcases x.goTested_cases n with same | ⟨-, go⟩
  · rw [same]
  · rw [go]

theorem State.portFits.goTested (fits : s.portFits n p) (work : t.ctl.work = s.ctl.work) (clock : t.ctl.clock = s.ctl.clock)
    (port : t.port p = (s.port p).goTested m) (jobs : ∀ g, t.job g = s.job g) : t.portFits n p := by
  unfold State.portFits
  rw [port, State.portConfig_work work, clock]
  refine ⟨fun k later => ?_, fits.2.imp (·.goTested m) fun ⟨g, cls, e⟩ => ⟨g, cls, ?_⟩⟩
  · rw [PortRecord.goTested_frames]
    exact fits.1 k (PortRecord.goTested_grant _ m ▸ later)
  · rw [jobs]
    exact e.goTested m

theorem State.goTest_local (s : State) : Local s s.goTest [] [] where
  work := by rw [State.goTest_ctl]
  clock := by rw [State.goTest_ctl]
  pools k := k.congr (by rw [State.goTest_ctl]) (by rw [State.goTest_ctl]) (by rw [State.goTest_ctl])
  slots g _ k := k.congr (State.slot_congr (State.goTest_slots s) g) (by rw [State.goTest_ctl])
  ports p _ n k := k.goTested (by rw [State.goTest_ctl]) (by rw [State.goTest_ctl]) (s.goTest_port p)
    fun g => State.job_congr (State.goTest_slots s) g

theorem PortRecord.goTested_routed (x : PortRecord) (n : Nat) : (x.goTested n).contacts = x.contacts ∧ (x.goTested n).job = x.job := by
  rcases x.goTested_cases n with same | ⟨-, go⟩
  · rw [same]
    exact ⟨rfl, rfl⟩
  · rw [go]
    exact ⟨rfl, rfl⟩

theorem State.goTest_routed (s : State) : Routed s s.goTest where
  mailboxes := State.goTest_mailboxes s
  work := by rw [State.goTest_ctl]
  engine := by rw [State.goTest_ctl]
  contacts p := by
    rw [State.goTest_port]
    exact (PortRecord.goTested_routed _ _).1
  jobs p := by
    rw [State.goTest_port]
    exact (PortRecord.goTested_routed _ _).2

/-! ### The refill splice (R146 to R148) -/

theorem State.joinSpare_local (s : State) (l : List Nat) : Local s (s.joinSpare l) [] [] :=
  .of_eq (State.joinSpare_ctl s l) (State.joinSpare_slots s l) (State.joinSpare_ports s l)

theorem State.joinSpare_routed (s : State) (l : List Nat) : Routed s (s.joinSpare l) :=
  .of_ports (State.joinSpare_mailboxes s l) (State.joinSpare_ctl s l) (State.joinSpare_ports s l)

theorem State.closeSplice_calm (s : State) (w : Word) : Calm s (s.closeSplice w) := .of_eq rfl rfl rfl rfl rfl rfl rfl rfl

theorem State.spliceRefill_unseen (s : State) : Local s s.spliceRefill [] [] ∧ Routed s s.spliceRefill := by
  unfold State.spliceRefill
  dsimp only
  split
  · exact ⟨.refl s [] [], .refl s⟩
  · split
    · exact ⟨(s.closeSplice_calm _).still, (s.closeSplice_calm _).routed⟩
    · exact ⟨((s.joinSpare_local _).trans (State.closeSplice_calm _ _).still).trans (State.goTest_local _),
        ((s.joinSpare_routed _).trans (State.closeSplice_calm _ _).routed).trans (State.goTest_routed _)⟩

theorem State.spliceRefill_serves (s : State) : Serves s s.spliceRefill :=
  ⟨s.spliceRefill_sound, fun _ _ _ => s.spliceRefill_unseen.1.unseen, fun _ _ => s.spliceRefill_unseen.2.touch⟩

/-! ### The entry to FAULTED (R120) -/

theorem State.enterFaulted_local (s : State) (p : Port) (c : Option Condition) : Local s (s.enterFaulted p c) [] [p] :=
  .of_kept (State.enterFaulted_ctl s p c) (fun h _ => State.slot_congr (State.enterFaulted_slots s p c) h)
    (fun _ out => State.enterFaulted_port_ne fun e => out (List.mem_singleton.mpr e)) fun _ k => absurd k List.not_mem_nil

theorem State.enterFaulted_fits (s : State) (p : Port) (c : Option Condition) (n : Nat) : (s.enterFaulted p c).portFits n p := by
  obtain ⟨cut, port⟩ := State.enterFaulted_port (s := s) (p := p) (c := c)
  unfold State.portFits
  rw [port]
  exact ⟨fun _ _ => rfl, .inl ⟨PortState.noConfusion, rfl, rfl, rfl, rfl⟩⟩

theorem State.enterFaulted_mailboxes (s : State) (p : Port) (c : Option Condition) :
    (s.enterFaulted p c).mailboxes = (s.liftEntries p true true .orphan).mailboxes := by
  unfold State.enterFaulted
  rw [State.setNotice_mailboxes, State.updatePort_mailboxes]

theorem Contact.after_uncaptured (e : Contact) (c : Capture) : e.after true true .orphan ≠ .hold c := by
  cases e <;> exact Contact.noConfusion

theorem State.touchHolds.enterFaulted (h : s.touchHolds) (p : Port) (c : Option Condition) : (s.enterFaulted p c).touchHolds := by
  have lifted : (s.liftEntries p true true .orphan).touchHolds := h.liftEntries p rfl
  have contacts (r : Port) : ((s.enterFaulted p c).port r).contacts = ((s.liftEntries p true true .orphan).port r).contacts := by
    by_cases e : r = p
    · subst e
      obtain ⟨cut, port⟩ := State.enterFaulted_port (s := s) (p := r) (c := c)
      rw [port, State.liftEntries_port]
    · rw [State.enterFaulted_port_ne e, State.liftEntries_port_ne _ _ _ _ _ e]
  refine lifted.kept (s.enterFaulted_mailboxes p c) (by rw [State.enterFaulted_ctl, State.liftEntries_ctl])
    (fun k => by rwa [State.enterFaulted_ctl, ← State.liftEntries_ctl s p true true .orphan] at k) contacts fun r i d k => ?_
  have ne : r ≠ p := fun e => by
    subst e
    rw [State.liftEntries_contact] at k
    exact Contact.after_uncaptured _ d k
  rw [State.enterFaulted_port_ne ne, State.liftEntries_port_ne _ _ _ _ _ ne]

/-- The entry to FAULTED after a change of some slots and of the port. -/
theorem Local.enterFaulted {gs : List Slot} (a : Local s u gs [p]) (f : s.fits low) (own : ∀ g ∈ gs, u.slotFits g) : (u.enterFaulted p c).fits low := by
  have change := a.trans ((u.enterFaulted_local p c).mono (List.nil_subset gs) (List.Subset.refl _))
  refine change.fits f (fun g k => ?_) fun r k => ?_
  · exact (own g k).congr (State.slot_congr (State.enterFaulted_slots u p c) g) (by rw [State.enterFaulted_ctl])
  · obtain rfl := List.mem_singleton.mp k
    exact u.enterFaulted_fits r c _

theorem State.enterFaulted_serves (rests : (s.port p).state ≠ .serving) : Serves s (s.enterFaulted p c) where
  sound := State.enterFaulted_sound rests
  fits _ _ _ f := (Local.refl s [] [p]).enterFaulted f fun _ k => absurd k List.not_mem_nil
  touch _ _ h := h.enterFaulted p c

/-! ### Progress that is kept (R133, R179) -/

theorem State.keepProgress_local (s : State) (p : Port) (g : Slot) : Local s (s.keepProgress p g) [g] [] := by
  unfold State.keepProgress
  split
  · exact State.updateJob_served ⟨rfl, rfl, rfl, rfl, rfl, rfl, rfl⟩
  · exact s.keepHold_local g _
  · exact .refl s _ _
  · exact .refl s _ _
  · exact .refl s _ _

theorem State.keepProgress_routed (s : State) (p : Port) (g : Slot) : Routed s (s.keepProgress p g) := by
  unfold State.keepProgress
  split
  · exact s.updateJob_routed g _
  · exact s.keepHold_routed g _
  · exact .refl s
  · exact .refl s
  · exact .refl s

/-- What a fault end finds in its job's record. -/
structure State.keeps (s : State) (p : Port) (g : Slot) (cls : JobClass) : Prop where
  ofClass : (s.job g).cls = some cls
  port : (s.portConfig p).cls = servingClass cls
  placed : cls = .print → (s.port p).placed (s.job g)
  slot : (s.slot g).fits s.poolClass
  serving : (s.slot g).state = .serving
  pool : s.poolClass (s.job g).pool = servingClass cls
  left : s.holdLeft p ≤ 3600000

theorem State.fits.keeps (f : s.fits low) (holds : s.structured) (job : (s.port p).job = some g) : ∃ cls, s.keeps p g cls := by
  obtain ⟨cls, e, pool⟩ := f.lower.ofPool (holds.sweepsAt job) job
  refine ⟨cls, e.ofClass, e.port, fun print => ?_, f.slots g, holds.served job, pool, f.holdLeft p⟩
  subst print
  exact PortRecord.printing.placed e.serves

/-- A change of the port's transmitter leaves the record as it is. -/
theorem State.keeps.transmit (k : s.keeps p g cls) (f : Transmitter → Transmitter) : (s.transmit p f).keeps p g cls := by
  have port := s.transmit_port p f
  refine ⟨k.ofClass, k.port, fun print => ?_, k.slot, k.serving, k.pool, ?_⟩
  · have placed := k.placed print
    rw [port]
    exact ⟨placed.reaches, placed.entry, placed.sheet⟩
  · unfold State.holdLeft
    rw [port]
    exact k.left

theorem State.keepProgress_print (k : s.keeps p g .print) : s.keepProgress p g = s.keepSheet p g := by
  unfold State.keepProgress
  rw [k.port]
  rfl

theorem State.keepProgress_scan (k : s.keeps p g .scan) : s.keepProgress p g = s := by
  unfold State.keepProgress
  rw [k.port]
  rfl

theorem State.keepProgress_hold (k : s.keeps p g .hold) : s.keepProgress p g = s.keepLeft p g := by
  unfold State.keepProgress
  rw [k.port]
  rfl

theorem State.keepSheet_slot (s : State) (p : Port) (g : Slot) : (s.keepSheet p g).slot g = { s.slot g with job :=
    { s.job g with resumeCopy := (s.port p).print.copy, resumeSheet := (s.port p).print.sheet } } := State.slot_setSlot s g _

/-- The job of a fault end in service still, and ready to wait once its result chain is given back. -/
theorem State.keeps.progress (k : s.keeps p g cls) : (s.keepProgress p g).slotFits g ∧
    ((s.keepProgress p g).job g).returned.waiting s.poolClass cls ∧ ((s.keepProgress p g).job g).sheetsDone ≤ 8064 ∧
      ((s.keepProgress p g).job g).holdRemaining ≤ 3600000 := by
  have sheets := k.slot.sheets
  have left := k.slot.left
  have job := k.slot.serving k.serving
  cases cls with
  | print =>
    rw [State.keepProgress_print k, State.job, State.slotFits, State.keepSheet_slot]
    have chained := job.print k.ofClass
    have placed := k.placed rfl
    exact ⟨.serves k.serving ⟨job.print, job.bare⟩ sheets left,
      ⟨k.ofClass, k.pool, rfl, fun _ => ⟨chained, placed.reaches⟩, fun e => (by cases e)⟩, sheets, left⟩
  | scan =>
    rw [State.keepProgress_scan k]
    exact ⟨k.slot, ⟨k.ofClass, k.pool, rfl, fun e => (by cases e), fun e => (by cases e)⟩, sheets, left⟩
  | hold =>
    have bound : max 1 (s.holdLeft p) ≤ 3600000 := by
      have := k.left
      omega
    rw [State.keepProgress_hold k, State.keepLeft, State.job, State.slotFits, State.keepHold_slot]
    exact ⟨.serves k.serving ⟨job.print, job.bare⟩ sheets bound,
      ⟨k.ofClass, k.pool, rfl, fun e => (by cases e), fun _ => le_max_left _ _⟩, sheets, bound⟩

/-! ### A service that a fault ends -/

/-- A job that a fault finishes, also where its port's transmitter has changed. -/
theorem State.faultFinished_serves (job : (s.port p).job = some g) (f : Transmitter → Transmitter) :
    Serves s ((((s.transmit p f).keepProgress p g).finish g o d none).enterFaulted p c) where
  sound := by
    have at_u : ((s.transmit p f).port p).job = some g := ((s.transmit_routed p f).jobs p).trans job
    have at_p : (((s.transmit p f).keepProgress p g).port p).job = some g := ((State.keepProgress_routed _ p g).jobs p).trans at_u
    exact (s.transmit_quiet p f).sound.trans ((State.keepProgress_sound at_u).trans (State.finish_enterFaulted_sound at_p))
  fits low _ holds fits := by
    obtain ⟨cls, k⟩ := fits.keeps holds job
    have change := (State.keepProgress_local (s.transmit p f) p g).trans (State.finish_local _ g o d none)
    refine Local.enterFaulted (((s.transmit_local p f).mono (List.nil_subset [g]) (List.Subset.refl _)).trans
      (change.mono (List.Subset.refl _) (List.nil_subset [p]))) fits fun h m => ?_
    obtain rfl := List.mem_singleton.mp m
    exact (k.transmit f).progress.1.finish
  touch _ _ h := ((((s.transmit_routed p f).trans (State.keepProgress_routed _ p g)).trans (State.finish_routed _ g o d none)).touch h).enterFaulted p c

/-- The return of a result chain, where no port but one serves the job. -/
theorem State.returnResults_local (only : ∀ r, r ≠ p → (s.port r).job ≠ some g) : Local s (s.returnResults g) [g] [p] := by
  rcases chain : (s.job g).resultChain with _ | ⟨first, rest⟩
  · rw [State.returnResults_nil chain]
    exact .refl s _ _
  · rw [State.returnResults_eq chain]
    have back : Local (s.joinSpare (first :: rest)) ((s.joinSpare (first :: rest)).updateJob g fun j => { j with resultChain := [] }) [g] [p] := by
      refine State.setSlot_local fun r out job => ?_
      unfold State.port at job
      rw [State.joinSpare_ports] at job
      exact absurd job (only r fun e => out (List.mem_singleton.mpr e))
    exact (((s.joinSpare_local (first :: rest)).wide [g] [p]).trans back).trans ((State.goTest_local _).wide [g] [p])

theorem State.returnResults_routed (s : State) (g : Slot) : Routed s (s.returnResults g) := by
  rcases chain : (s.job g).resultChain with _ | ⟨first, rest⟩
  · rw [State.returnResults_nil chain]
    exact .refl s
  · rw [State.returnResults_eq chain]
    exact ((s.joinSpare_routed _).trans (State.updateJob_routed _ g _)).trans (State.goTest_routed _)

theorem State.structured.alone (holds : s.structured) (job : (s.port p).job = some g) (r : Port) (ne : r ≠ p) : (s.port r).job ≠ some g := by
  intro other
  have own := (holds.2.2.1.2.1 p g job).2.1
  have same := (holds.2.2.1.2.1 r g other).2.1
  exact ne (Option.some.inj (same.symm.trans own))

theorem State.requeueByFault_routed (s : State) (p : Port) (g : Slot) : Routed s (s.requeueByFault p g) := by
  have cleared : Routed (s.requeueFaulted g) ((s.requeueFaulted g).modifyScan p fun _ => {}) := State.setPort_routed rfl rfl
  exact ((s.requeuedWith_routed g JobRecord.faulted PoolStats.requeued).trans cleared).trans (State.returnResults_routed _ g)

theorem State.requeueByFault_local (only : ∀ r, r ≠ p → (s.port r).job ≠ some g) : Local s (s.requeueByFault p g) [g] [p] := by
  have requeue : Local s (s.requeueFaulted g) [g] [] := State.requeuedWith_local ⟨rfl, rfl, rfl, rfl, rfl, rfl, rfl⟩
  have cleared : Local (s.requeueFaulted g) ((s.requeueFaulted g).modifyScan p fun _ => {}) [] [p] := State.modifyPort_local _ p _
  refine ((requeue.mono (List.Subset.refl _) (List.nil_subset [p])).trans (cleared.mono (List.nil_subset [g]) (List.Subset.refl _))).trans
    (State.returnResults_local fun r ne => ?_)
  rw [State.modifyScan, State.port_modifyPort_ne _ ne, State.requeueFaulted_eq, State.requeuedWith_port]
  exact only r ne

theorem State.requeueByFault_slot (s : State) (p : Port) (g : Slot) :
    (s.requeueByFault p g).slot g = { s.slot g with state := .queued, job := (s.job g).faulted.returned } := by
  unfold State.requeueByFault
  rw [State.returnResults_slot, State.job, State.slot_congr (State.modifyScan_slots _ p _), State.requeueFaulted_eq, State.requeuedWith_slot]

/-- A job that a fault queues again, before the review of its pool, also where its port's transmitter has changed. -/
theorem State.faultedAgain_serves (job : (s.port p).job = some g) (engine : s.ctl.engine ≠ .draining) (f : Transmitter → Transmitter) :
    Serves s (((s.transmit p f).keepProgress p g).faultedAgain p g c) where
  sound := by
    have routed := State.keepProgress_routed (s.transmit p f) p g
    have at_u : ((s.transmit p f).port p).job = some g := ((s.transmit_routed p f).jobs p).trans job
    exact (s.transmit_quiet p f).sound.trans ((State.keepProgress_sound at_u).trans
      (State.faultedAgain_sound ((routed.jobs p).trans at_u) (by rw [routed.engine]; exact engine)))
  fits low _ holds fits := by
    obtain ⟨cls, k⟩ := fits.keeps holds job
    obtain ⟨-, waiting, sheets, left⟩ := (k.transmit f).progress
    have routed := (s.transmit_routed p f).trans (State.keepProgress_routed (s.transmit p f) p g)
    have kept := ((s.transmit_local p f).mono (List.nil_subset [g]) (List.Subset.refl _)).trans
      ((State.keepProgress_local (s.transmit p f) p g).mono (List.Subset.refl _) (List.nil_subset [p]))
    have only (r : Port) (ne : r ≠ p) : (((s.transmit p f).keepProgress p g).port r).job ≠ some g := by
      rw [routed.jobs r]
      exact holds.alone job r ne
    have change := kept.trans (State.requeueByFault_local only)
    refine Local.enterFaulted change fits fun h m => ?_
    obtain rfl := List.mem_singleton.mp m
    have pools := change.poolClass
    unfold State.slotFits
    rw [State.requeueByFault_slot, pools]
    exact .waits rfl (waiting.congr ⟨rfl, rfl, rfl, rfl, rfl, rfl, rfl⟩ rfl rfl rfl) sheets left
  touch _ _ h := (((s.transmit_routed p f).trans ((State.keepProgress_routed _ p g).trans (State.requeueByFault_routed _ p g))).touch h).enterFaulted p c

end

end Sys2Proof.Machine
end

/-! SUPPORT. A scan that stores, starves and truncates, as the invariants of the services and of the touch router see it (R152, R153, R157). -/
section
namespace Sys2Proof.Machine

section
variable {s t u : State} {g : Slot} {p : Port} {x : PortRecord} {j : JobRecord} {k n : Nat} {b : Nat} {rest : List Nat}

/-! ### Storing (R152) -/

/-- A change of what a port's scan has stored, and of its job's result chain. -/
structure Stored (s t : State) (p : Port) (g : Slot) : Prop where
  change : (∀ r, r ≠ p → (s.port r).job ≠ some g) → Local s t [g] [p]
  routed : Routed s t
  port : ∃ scan, t.port p = { s.port p with scan := scan } ∧ scan.phase = (s.port p).scan.phase ∧ scan.starveTimer = (s.port p).scan.starveTimer
  slot : ∃ chain, t.slot g = { s.slot g with job := { s.job g with resultChain := chain } }

/-- The store of a port's scan has room for some bytes more, and its job takes them. -/
structure State.roomy (s : State) (p : Port) (g : Slot) (k : Nat) : Prop where
  storing : (s.port p).storing (s.job g)
  limit : (s.port p).scan.stored + k ≤ (s.job g).maxBytes
  room : k ≤ scanRoom (s.port p).scan s.spare.length

theorem Stored.refl (s : State) (p : Port) (g : Slot) : Stored s s p g :=
  ⟨fun _ => .refl s _ _, .refl s, ⟨_, rfl, rfl, rfl⟩, ⟨_, rfl⟩⟩

theorem Stored.jobs (a : Stored s t p g) (only : ∀ r, r ≠ p → (s.port r).job ≠ some g) (r : Port) (ne : r ≠ p) : (t.port r).job ≠ some g := by
  rw [a.routed.jobs r]
  exact only r ne

theorem Stored.trans (a : Stored s t p g) (b : Stored t u p g) : Stored s u p g := by
  obtain ⟨scan, port, phase, timer⟩ := a.port
  obtain ⟨scan', port', phase', timer'⟩ := b.port
  obtain ⟨chain, slot⟩ := a.slot
  obtain ⟨chain', slot'⟩ := b.slot
  refine ⟨fun only => (a.change only).trans (b.change (a.jobs only)), a.routed.trans b.routed, ⟨scan', ?_, ?_, ?_⟩, ⟨chain', ?_⟩⟩
  · rw [port', port]
  · rw [phase', port]
    exact phase
  · rw [timer', port]
    exact timer
  · rw [slot', State.job, slot]

theorem State.filled_stored (s : State) (p : Port) (g : Slot) (c : Nat) (data : List Byte) : Stored s (s.filled p c data) p g where
  change _ := .of_kept rfl (fun _ _ => rfl) (fun r out => State.port_setPort_ne _ (fun e => out (List.mem_singleton.mpr e)) _)
    fun h m => by
      obtain rfl := List.mem_singleton.mp m
      exact .refl _
  routed := by
    refine ⟨rfl, rfl, rfl, fun r => ?_, fun r => ?_⟩ <;>
    · by_cases e : r = p
      · subst e
        rw [State.filled_port]
        rfl
      · rw [show (s.filled p c data).port r = s.port r from State.port_setPort_ne _ e _]
  port := ⟨_, State.filled_port, rfl, rfl⟩
  slot := ⟨_, rfl⟩

theorem State.take_slot (spare : s.spare = b :: rest) :
    (s.take p g).slot g = { s.slot g with job := { s.job g with resultChain := (s.job g).resultChain ++ [b] } } := by
  rw [State.take_eq spare]
  exact State.slot_setSlot s g _

theorem State.take_port (spare : s.spare = b :: rest) : (s.take p g).port p = (s.port p).takes b := by
  rw [State.take_eq spare]
  exact State.port_setPort (s.takenMarks g b rest) p _

theorem State.take_port_ne (spare : s.spare = b :: rest) {r : Port} (ne : r ≠ p) : (s.take p g).port r = s.port r := by
  rw [State.take_eq spare]
  exact State.port_setPort_ne (s.takenMarks g b rest) ne _

theorem State.take_stored (spare : s.spare = b :: rest) : Stored s (s.take p g) p g where
  change only := by
    have ctl : (s.take p g).ctl = s.ctl := by
      rw [State.take_eq spare]
      rfl
    have slot {h : Slot} (ne : h ≠ g) : (s.take p g).slot h = s.slot h := by
      rw [State.take_eq spare]
      exact State.slot_setSlot_ne s ne _
    refine .of_records (by rw [ctl]) (by rw [ctl]) (by rw [ctl]) (by rw [ctl])
      (fun h out f => f.congr (slot fun e => out (List.mem_singleton.mpr e)) (by rw [ctl])) (fun r out => ?_) fun r h out job => ?_
    · rw [State.take_port_ne spare fun e => out (List.mem_singleton.mpr e)]
      exact .refl _
    · have ne : h ≠ g := fun e => only r (fun k => out (List.mem_singleton.mpr k)) (e ▸ job)
      unfold State.job
      rw [slot ne]
      exact .refl _
  routed := by
    have boxes : (s.take p g).mailboxes = s.mailboxes ∧ (s.take p g).ctl = s.ctl := by
      rw [State.take_eq spare]
      exact ⟨rfl, rfl⟩
    refine ⟨boxes.1, by rw [boxes.2], by rw [boxes.2], fun r => ?_, fun r => ?_⟩ <;>
    · by_cases e : r = p
      · subst e
        rw [State.take_port spare]
        rfl
      · rw [State.take_port_ne spare e]
  port := ⟨_, State.take_port spare, rfl, rfl⟩
  slot := ⟨_, State.take_slot spare⟩

theorem scanRoom_some {x : ScanService} {c : Nat} (current : x.current = some c) (n : Nat) : scanRoom x n = 120 - x.fill + 120 * n := by
  unfold scanRoom
  rw [current]
  rfl

theorem scanRoom_none {x : ScanService} (current : x.current = none) (n : Nat) : scanRoom x n = 120 * n := by
  unfold scanRoom
  rw [current]
  exact Nat.zero_add _

/-- A byte in the current block leaves room for one byte less. -/
theorem State.roomy.filled {c : Nat} (h : s.roomy p g (k + 1)) (current : (s.port p).scan.current = some c) (fill : (s.port p).scan.fill < 120)
    (b : Byte) : (s.filled p c [b]).roomy p g k := by
  have port : (s.filled p c [b]).port p = (s.port p).filled 1 := State.filled_port
  have job : (s.filled p c [b]).job g = s.job g := rfl
  have spare : (s.filled p c [b]).spare = s.spare := rfl
  have now : ((s.port p).filled 1).scan.current = some c := current
  obtain ⟨storing, limit, room⟩ := h
  have stored := storing.stored
  rw [current, if_neg (Option.some_ne_none c)] at stored
  rw [scanRoom_some current] at room
  refine ⟨?_, ?_, ?_⟩ <;> rw [port]
  · rw [job]
    refine ⟨storing.current, ?_, fun k => (by cases now.symm.trans k), ?_, ?_⟩
    · show (s.port p).scan.fill + 1 ≤ 120
      omega
    · rw [now, if_neg (Option.some_ne_none c)]
      show (s.port p).scan.stored + 1 + (120 - ((s.port p).scan.fill + 1)) = _
      omega
    · show (s.port p).scan.stored + 1 ≤ _
      omega
  · rw [job]
    show (s.port p).scan.stored + 1 + k ≤ _
    omega
  · rw [scanRoom_some now, spare]
    show k ≤ 120 - ((s.port p).scan.fill + 1) + 120 * s.spare.length
    omega

/-- A block taken when there is none with room. -/
theorem State.roomy.take (h : s.roomy p g (k + 1)) (spare : s.spare = b :: rest)
    (full : ∀ c, (s.port p).scan.current = some c → (s.port p).scan.fill = 120) : (s.take p g).roomy p g (k + 1) := by
  obtain ⟨storing, limit, room⟩ := h
  have after : (s.take p g).spare = rest := by
    rw [State.take_eq spare]
    rfl
  have job : (s.take p g).job g = { s.job g with resultChain := (s.job g).resultChain ++ [b] } := by
    rw [State.job, State.take_slot spare]
  have total : (s.port p).scan.stored = 120 * (s.job g).resultChain.length := by
    have stored := storing.stored
    cases current : (s.port p).scan.current with
    | none =>
      rw [if_pos current] at stored
      exact stored
    | some c =>
      rw [if_neg (by rw [current]; exact Option.some_ne_none c), full c current] at stored
      exact stored
  have space : k + 1 ≤ 120 * (rest.length + 1) := by
    rw [spare, List.length_cons] at room
    cases current : (s.port p).scan.current with
    | none => rwa [scanRoom_none current] at room
    | some c =>
      rw [scanRoom_some current, full c current] at room
      omega
  refine ⟨?_, ?_, ?_⟩ <;> rw [State.take_port spare]
  · rw [job]
    refine ⟨List.getLast?_concat.symm, Nat.zero_le _, fun _ => rfl, ?_, storing.limit⟩
    show (s.port p).scan.stored + (120 - 0) = 120 * ((s.job g).resultChain ++ [b]).length
    rw [List.length_append, total]
    show _ = 120 * (_ + 1)
    omega
  · rw [job]
    exact limit
  · rw [scanRoom_some (c := b) rfl, after]
    show k + 1 ≤ 120 - 0 + 120 * rest.length
    omega

/-- One byte is stored, in the current block or in a new one. -/
theorem State.roomy.storeByte (h : s.roomy p g (k + 1)) (x : Byte) :
    Stored s (State.storeByte p g s x) p g ∧ (State.storeByte p g s x).roomy p g k := by
  have here {t : State} (r : t.roomy p g (k + 1)) {c : Nat} (current : (t.port p).scan.current = some c) (fill : (t.port p).scan.fill < 120) :
      Stored t (State.storeByte p g t x) p g ∧ (State.storeByte p g t x).roomy p g k := by
    rw [State.storeByte_room current fill]
    exact ⟨t.filled_stored p g c [x], r.filled current fill x⟩
  by_cases room : ∃ c, (s.port p).scan.current = some c ∧ (s.port p).scan.fill < 120
  · obtain ⟨c, current, fill⟩ := room
    exact here h current fill
  · have full (c : Nat) (current : (s.port p).scan.current = some c) : (s.port p).scan.fill = 120 :=
      Nat.le_antisymm h.storing.fill (Nat.not_lt.mp fun fill => room ⟨c, current, fill⟩)
    have space := h.room
    cases spare : s.spare with
    | nil =>
      rw [spare, List.length_nil] at space
      cases current : (s.port p).scan.current with
      | none =>
        rw [scanRoom_none current] at space
        cases space
      | some c =>
        rw [scanRoom_some current, full c current] at space
        cases space
    | cons b rest =>
      rw [State.storeByte_takes spare full]
      have port := State.take_port (p := p) (g := g) spare
      obtain ⟨stored, after⟩ := here (h.take spare full) (c := b) (by rw [port]; rfl) (by rw [port]; show 0 < 120; omega)
      exact ⟨(State.take_stored spare).trans stored, after⟩

theorem State.roomy.storeBytes (data : List Byte) : ∀ {s : State}, s.roomy p g data.length →
    Stored s (data.foldl (State.storeByte p g) s) p g ∧ (data.foldl (State.storeByte p g) s).roomy p g 0 := by
  induction data with
  | nil => exact fun {s} h => ⟨.refl s p g, h⟩
  | cons x rest ih =>
    intro s h
    obtain ⟨first, room⟩ := State.roomy.storeByte h x
    obtain ⟨others, done⟩ := ih room
    exact ⟨first.trans others, done⟩

/-! ### The answer of a stored IMAGE (R152, R157) -/

theorem PortRecord.storing.rephase (h : x.storing j) {y : PortRecord} (current : y.scan.current = x.scan.current) (fill : y.scan.fill = x.scan.fill)
    (stored : y.scan.stored = x.scan.stored) : y.storing j := by
  refine ⟨?_, ?_, ?_, ?_, ?_⟩
  · rw [current]
    exact h.current
  · rw [fill]
    exact h.fill
  · rw [current, fill]
    exact h.empty
  · rw [current, fill, stored]
    exact h.stored
  · rw [stored]
    exact h.limit

/-- A scan that takes frames has none of its own on the line. -/
theorem PortRecord.scanning.unframed (h : x.scanning j) (takes : takesFrames x.scan = true) : x.frames = [] := by
  unfold takesFrames at takes
  simp only [Bool.or_eq_true, beq_iff_eq] at takes
  refine h.others (fun k => ?_) fun k => ?_
  · rcases takes with e | e <;> cases k.symm.trans e
  · rcases takes with e | e <;> cases k.symm.trans e

/-- A port whose scan has stored a frame. -/
structure PortRecord.acks (x : PortRecord) (j : JobRecord) : Prop where
  print : x.print = {}
  hold : x.hold = {}
  storing : x.storing j
  frames : x.frames = []

theorem PortRecord.acks.imageAcked (h : x.acks j) : x.imageAcked.scanning j := by
  have frames : x.imageAcked.frames = [] := (Transmitter.framesOf_congr (placeReply_places .ack x.transmitter) _).trans h.frames
  exact ⟨ScanPhase.noConfusion, h.print, h.hold, h.storing.rephase rfl rfl rfl, ⟨fun k => (by cases k), fun k => absurd rfl k⟩,
    fun k => (by cases k), fun k => (by cases k), fun _ _ => frames⟩

theorem PortRecord.acks.truncated (h : x.acks j) : x.imageAcked.truncated.scanning j := by
  have fresh : x.imageAcked.frames = [] := (Transmitter.framesOf_congr (placeReply_places .ack x.transmitter) _).trans h.frames
  have frames : x.imageAcked.truncated.frames = [.closeScan] :=
    offer_own (t := x.imageAcked.transmitter) (f := { frame := .closeScan, owner := .service x.grantNumber }) fresh
  exact ⟨ScanPhase.noConfusion, h.print, h.hold, h.storing.rephase rfl rfl rfl, ⟨fun k => (by cases k), fun k => absurd rfl k⟩,
    fun k => (by cases k), fun _ => frames, fun _ k => absurd rfl k⟩

theorem PortRecord.acks.imageStored (h : x.acks j) (n : Nat) : (x.imageStored n).scanning j := by
  unfold PortRecord.imageStored
  split
  · exact h.truncated
  · exact h.imageAcked

theorem PortRecord.unoffered.imageAcked (h : x.unoffered) : x.imageAcked.unoffered :=
  h.less rfl fun _ _ => Transmitter.framesOf_sublist (by
    show (placeReply .ack x.transmitter).places.Sublist _
    rw [placeReply_places]) _

theorem PortRecord.unoffered.imageStored (h : x.unoffered) (n : Nat) : (x.imageStored n).unoffered := by
  unfold PortRecord.imageStored
  split
  · exact h.imageAcked.offer .closeScan
  · exact h.imageAcked

theorem PortRecord.imageStored_same (x : PortRecord) (n : Nat) : (x.imageStored n).contacts = x.contacts ∧ (x.imageStored n).job = x.job ∧
    (x.imageStored n).state = x.state := by
  unfold PortRecord.imageStored
  split <;> exact ⟨rfl, rfl, rfl⟩

theorem State.fits.atScan {low : Port → Nat} (f : s.fits low) (job : (s.port p).job = some g) (scanner : (s.portConfig p).cls = .scanner) :
    (s.port p).engaged (s.portConfig p) g (s.job g) s.ctl.clock (low p) .scan := by
  obtain ⟨cls, e⟩ := f.at_job job
  obtain rfl : cls = .scan := servingClass_injective (e.port.symm.trans scanner)
  exact e

/-- The slot of a scan that has stored. -/
theorem Stored.slotFits (a : Stored s t p g) (fits : s.slotFits g) (serving : (s.slot g).state = .serving) (cls : (s.job g).cls = some .scan) :
    t.slotFits g := by
  obtain ⟨chain, slot⟩ := a.slot
  unfold State.slotFits
  rw [slot]
  exact .serves serving ⟨fun e => (by cases cls.symm.trans e), fun e => absurd cls e⟩ fits.sheets fits.left

/-- The port of a scan that starves. -/
theorem PortRecord.scanning.paused (h : x.scanning j) (takes : takesFrames x.scan = true) (clock : Stamp) (limit due : Nat) :
    (x.paused clock limit due).scanning j := by
  have frames : (x.paused clock limit due).frames = [] :=
    (Transmitter.framesOf_congr (placeReply_places .pause x.transmitter) _).trans (h.unframed takes)
  refine ⟨ScanPhase.noConfusion, h.print, h.hold, h.storing.rephase rfl rfl rfl, ⟨fun _ => ?_, fun _ => rfl⟩,
    fun k => (by cases k), fun k => (by cases k), fun _ _ => frames⟩
  show (if x.scan.phase = .starved then x.scan.starveTimer else some _) ≠ none
  split
  · next starved => exact h.starved.mp starved
  · exact Option.some_ne_none _

section
variable (job : (s.port p).job = some g) (scanner : (s.portConfig p).cls = .scanner)
include job scanner

theorem State.storeImage_serves (takes : takesFrames (s.port p).scan = true) {data : List Byte}
    (limit : (s.port p).scan.stored + data.length ≤ (s.job g).maxBytes) (room : data.length ≤ scanRoom (s.port p).scan s.spare.length) :
    Serves s (s.storeImage p g data) := by
  refine Serves.of_fits (State.storeImage_sound job data) fun holds f => ?_
  have e := f.atScan job scanner
  have scanning : (s.port p).scanning (s.job g) := e.serves
  obtain ⟨stored, after⟩ := State.roomy.storeBytes data ⟨scanning.storing, limit, room⟩
  obtain ⟨scan, port, phase, -⟩ := stored.port
  refine ⟨State.storeImage_sound job data, fun low _ _ f => ?_, fun _ _ h => ?_⟩ <;> rw [State.storeImage_eq] <;>
    generalize data.foldl (State.storeByte p g) s = t at stored after port
  · have change := stored.change (holds.alone job)
    have serving := holds.served job
    have acks : (t.port p).acks (t.job g) := by
      refine ⟨?_, ?_, after.storing, ?_⟩ <;> rw [port]
      · exact scanning.print
      · exact scanning.hold
      · exact scanning.unframed takes
    have records := f.atScan job scanner
    obtain ⟨chain, slot⟩ := stored.slot
    have own : t.job g = { s.job g with resultChain := chain } := by rw [State.job, slot]
    obtain ⟨contacts, atJob, state⟩ := (t.port p).imageStored_same (s.job g).maxBytes
    have offers : (t.port p).unoffered := by
      rw [port]
      exact (f.ports p).1
    refine (change.trans ((t.setPort_local p _).mono (List.nil_subset [g]) (List.Subset.refl _))).fits f (fun h m => ?_) fun r m => ?_
    · obtain rfl := List.mem_singleton.mp m
      exact (stored.slotFits (f.slots h) serving e.ofClass).congr rfl rfl
    · obtain rfl := List.mem_singleton.mp m
      unfold State.portFits
      rw [State.port_setPort]
      refine ⟨offers.imageStored _, .inr ⟨g, .scan, ?_⟩⟩
      refine ⟨state.trans ?_, atJob.trans ?_, ?_, ?_, ?_, acks.imageStored _⟩
      · rw [port]
        exact e.state
      · rw [port]
        exact e.job
      · show (t.job g).cls = _
        rw [own]
        exact e.ofClass
      · exact (congrArg PortConfig.cls (change.portConfig r)).trans e.port
      · show (t.portConfig r).pool = (t.job g).pool
        rw [change.portConfig, own]
        exact e.pool
  · obtain ⟨contacts, atJob, -⟩ := (t.port p).imageStored_same (s.job g).maxBytes
    exact (stored.routed.trans (State.setPort_routed contacts atJob)).touch h

theorem State.starve_serves (takes : takesFrames (s.port p).scan = true) (due : Nat) : Serves s (s.starve p due) := by
  have same : s.starve p due = s.setPort p ((s.port p).paused s.ctl.clock (s.portConfig p).starveLimit due) := by
    have := s.starve_setPort p (s.port p) due
    rwa [State.setPort_self] at this
  rw [same]
  have routed : Routed s (s.setPort p ((s.port p).paused s.ctl.clock (s.portConfig p).starveLimit due)) := State.setPort_routed rfl rfl
  have quiet : Quiet s (s.setPort p ((s.port p).paused s.ctl.clock (s.portConfig p).starveLimit due)) := State.setPort_quiet (.of_eq rfl rfl)
  refine ⟨quiet.sound, fun low _ _ f => ?_, fun _ _ => routed.touch⟩
  refine (s.setPort_local p _).fits f (fun _ m => absurd m List.not_mem_nil) fun r m => ?_
  obtain rfl := List.mem_singleton.mp m
  have e := f.atScan job scanner
  unfold State.portFits
  rw [State.port_setPort]
  refine ⟨(f.ports r).1.less rfl fun _ _ => Transmitter.framesOf_sublist ?_ _, .inr ⟨g, .scan, e.state, e.job, e.ofClass, e.port, e.pool, ?_⟩⟩
  · show (placeReply .pause (s.port r).transmitter).places.Sublist _
    rw [placeReply_places]
  · exact PortRecord.scanning.paused e.serves takes _ _ _

theorem State.imageTaken_serves (data : List Byte) : Serves s (s.imageTaken p g data) := by
  refine Serves.of_fits (State.imageTaken_sound job data) fun _ f => ?_
  have e := f.atScan job scanner
  have limit := (PortRecord.scanning.storing e.serves).limit
  unfold State.imageTaken
  dsimp only
  refine .ite (fun takes => .ite (fun room => ?_) fun _ => State.starve_serves job scanner takes _) fun _ => .refl s
  have short : (data.take (s.bytesDue p g data.length)).length = s.bytesDue p g data.length := by
    rw [List.length_take]
    unfold State.bytesDue
    omega
  refine State.storeImage_serves job scanner takes ?_ ?_
  · rw [short]
    unfold State.bytesDue
    omega
  · rw [short]
    exact room

end

end

end Sys2Proof.Machine
end

/-! SUPPORT. Where a print stands: sheets and entries of a chain record (R123, R124, R126, R132). -/
section
namespace Sys2Proof.Machine

section
variable {chain front rest : List ChainEntry} {e : ChainEntry} {n i copy sheet : Nat} {j : JobRecord}

theorem sheetsPerCopy_append (front rest : List ChainEntry) : sheetsPerCopy (front ++ rest) = sheetsPerCopy front + sheetsPerCopy rest := by
  unfold sheetsPerCopy
  rw [List.filter_append, List.length_append]

/-- A sheet starts behind the entries of those before it. -/
theorem sheetStart_place (chain : List ChainEntry) : ∀ n, n < sheetsPerCopy chain →
    sheetStart chain (n + 1) < chain.length ∧ sheetsPerCopy (chain.take (sheetStart chain (n + 1))) = n := by
  induction chain with
  | nil => exact fun n h => absurd h (Nat.not_lt_zero n)
  | cons e rest ih =>
    intro n h
    cases n with
    | zero => exact ⟨Nat.succ_pos _, rfl⟩
    | succ n =>
      have start : sheetStart (e :: rest) (n + 1 + 1) = 1 + sheetStart rest (if e.sheetEnd then n + 1 else n + 2) := rfl
      have sheets : sheetsPerCopy (e :: rest) = sheetsPerCopy rest + if e.sheetEnd then 1 else 0 := by
        unfold sheetsPerCopy
        cases marked : e.sheetEnd <;> simp [marked]
      have before (k : Nat) : sheetsPerCopy ((e :: rest).take (1 + k)) = sheetsPerCopy (rest.take k) + if e.sheetEnd then 1 else 0 := by
        rw [Nat.add_comm 1 k, List.take_succ_cons]
        unfold sheetsPerCopy
        cases marked : e.sheetEnd <;> simp [marked]
      rw [start, before, List.length_cons]
      cases marked : e.sheetEnd with
      | true =>
        rw [if_pos marked] at sheets
        obtain ⟨lt, place⟩ := ih n (by omega)
        rw [if_pos rfl, if_pos rfl, place]
        exact ⟨by omega, rfl⟩
      | false =>
        have unmarked : ¬ e.sheetEnd = true := fun k => by cases marked.symm.trans k
        rw [if_neg unmarked] at sheets
        obtain ⟨lt, place⟩ : sheetStart rest (n + 2) < rest.length ∧ sheetsPerCopy (rest.take (sheetStart rest (n + 2))) = n + 1 :=
          ih (n + 1) (by omega)
        rw [if_neg Bool.false_ne_true, if_neg Bool.false_ne_true, place]
        exact ⟨by omega, rfl⟩

/-- The sheet after the one that an entry ends starts at the next entry. -/
theorem sheetStart_after (chain : List ChainEntry) : ∀ i e, chain[i]? = some e → e.sheetEnd = true →
    sheetStart chain (sheetsPerCopy (chain.take i) + 2) = i + 1 := by
  induction chain with
  | nil => exact fun i e h => by cases h
  | cons x rest ih =>
    intro i e found marked
    cases i with
    | zero =>
      obtain rfl : x = e := Option.some.inj found
      have start : sheetStart (x :: rest) 2 = 1 + sheetStart rest (if x.sheetEnd then 1 else 2) := rfl
      show sheetStart (x :: rest) 2 = 1
      rw [start, if_pos marked]
      cases rest <;> rfl
    | succ i =>
      have later := ih i e found marked
      have before : sheetsPerCopy ((x :: rest).take (i + 1)) = sheetsPerCopy (rest.take i) + if x.sheetEnd then 1 else 0 := by
        rw [List.take_succ_cons]
        unfold sheetsPerCopy
        cases mark : x.sheetEnd <;> simp [mark]
      have start (n : Nat) : sheetStart (x :: rest) (n + 2) = 1 + sheetStart rest (if x.sheetEnd then n + 1 else n + 2) := rfl
      rw [before, start]
      cases mark : x.sheetEnd with
      | true =>
        simp only [if_true]
        rw [later]
        omega
      | false =>
        simp only [Bool.false_eq_true, if_false, Nat.add_zero]
        rw [later]
        omega

theorem take_succ_of_found (found : chain[i]? = some e) : chain.take (i + 1) = chain.take i ++ [e] := by
  rw [List.take_add_one, found]
  rfl

theorem sheetsPerCopy_step (found : chain[i]? = some e) : sheetsPerCopy (chain.take (i + 1)) = sheetsPerCopy (chain.take i) + if e.sheetEnd then 1 else 0 := by
  rw [take_succ_of_found found, sheetsPerCopy_append]
  unfold sheetsPerCopy
  cases marked : e.sheetEnd <;> simp [marked]

/-- An entry that ends no sheet is not the last. -/
theorem succ_lt_of_unmarked (last : chain.getLast?.map ChainEntry.sheetEnd = some true) (found : chain[i]? = some e) (unmarked : e.sheetEnd = false) :
    i + 1 < chain.length := by
  have lt := (List.getElem?_eq_some_iff.mp found).1
  by_contra beyond
  have end_ : i = chain.length - 1 := by omega
  rw [List.getLast?_eq_getElem?, ← end_, found] at last
  rw [show e.sheetEnd = true from Option.some.inj last] at unmarked
  cases unmarked

/-! ### Places in a print (R64, R132) -/

/-- A place in a print keeps its sheets done in their range. -/
theorem JobRecord.reaches.bound (h : j.reaches copy sheet) (chained : j.chained) : j.sheetsDone ≤ 8064 := by
  obtain ⟨one, most, first, last, done⟩ := h
  obtain ⟨length, -, -, nine⟩ := chained
  have sheets : sheetsPerCopy j.chain ≤ 896 := (sheetsPerCopy_le j.chain).trans length
  have before : (copy - 1) * sheetsPerCopy j.chain ≤ 8 * 896 := Nat.mul_le_mul (by omega) sheets
  omega

/-- A place after one sheet more. -/
theorem JobRecord.reaches.count (h : j.reaches copy sheet) (chained : j.chained) :
    j.sheetsDone + 1 ≤ 8064 ∧ ∀ copy' sheet', nextSheet j copy sheet = some (copy', sheet') →
      ({ j with sheetsDone := j.sheetsDone + 1 } : JobRecord).reaches copy' sheet' := by
  obtain ⟨one, most, first, last, done⟩ := h
  obtain ⟨length, -, -, nine⟩ := chained
  have sheets : sheetsPerCopy j.chain ≤ 896 := (sheetsPerCopy_le j.chain).trans length
  have before : (copy - 1) * sheetsPerCopy j.chain ≤ 8 * 896 := Nat.mul_le_mul (by omega) sheets
  refine ⟨by omega, fun copy' sheet' next => ?_⟩
  unfold nextSheet at next
  unfold JobRecord.reaches
  dsimp only
  split at next
  · obtain ⟨rfl, rfl⟩ := Prod.mk.inj (Option.some.inj next)
    exact ⟨one, most, by omega, by omega, by omega⟩
  · split at next
    · obtain ⟨rfl, rfl⟩ := Prod.mk.inj (Option.some.inj next)
      have step : (copy + 1 - 1) * sheetsPerCopy j.chain = (copy - 1) * sheetsPerCopy j.chain + sheetsPerCopy j.chain := by
        rw [← Nat.succ_mul]
        congr 1
        omega
      exact ⟨by omega, by omega, by omega, by omega, by omega⟩
    · cases next

/-- A place after a sheet that is not counted. -/
theorem JobRecord.reaches.next {copy' sheet' : Nat} (h : j.reaches copy sheet) (chained : j.chained)
    (next : nextSheet j copy sheet = some (copy', sheet')) : j.reaches copy' sheet' := by
  obtain ⟨one, most, first, last, done⟩ := (h.count chained).2 copy' sheet' next
  exact ⟨one, most, first, last, by
    have : j.sheetsDone + 1 ≤ (copy' - 1) * sheetsPerCopy j.chain + (sheet' - 1) := done
    omega⟩

/-- The entries that a print may reach still from an entry of a copy. -/
def JobRecord.ahead (j : JobRecord) (copy entry : Nat) : Nat := (j.copies - copy) * j.chain.length + (j.chain.length - entry)

theorem JobRecord.ahead_le (j : JobRecord) {copy entry : Nat} : j.ahead copy entry ≤ entryBound j := by
  have le : (j.copies - copy) * j.chain.length ≤ j.copies * j.chain.length := Nat.mul_le_mul_right _ (Nat.sub_le _ _)
  have bound : entryBound j = j.copies * j.chain.length + j.chain.length + 1 := by
    unfold entryBound
    rw [Nat.mul_comm, Nat.add_mul, Nat.one_mul]
  unfold JobRecord.ahead
  omega

/-- The next sheet starts nearer the end. -/
theorem JobRecord.ahead_next {copy' sheet' entry : Nat} (found : j.chain[entry]? = some e) (marked : e.sheetEnd = true)
    (stands : sheetsPerCopy (j.chain.take entry) + 1 = sheet) (next : nextSheet j copy sheet = some (copy', sheet')) : j.ahead copy' (sheetStart j.chain sheet') < j.ahead copy entry := by
  have lt := (List.getElem?_eq_some_iff.mp found).1
  unfold nextSheet at next
  unfold JobRecord.ahead
  split at next
  · obtain ⟨rfl, rfl⟩ := Prod.mk.inj (Option.some.inj next)
    have start := sheetStart_after j.chain entry e found marked
    rw [show sheetsPerCopy (j.chain.take entry) + 2 = sheet + 1 by omega] at start
    rw [start]
    omega
  · split at next
    · next more =>
      obtain ⟨rfl, rfl⟩ := Prod.mk.inj (Option.some.inj next)
      have step : (j.copies - copy) * j.chain.length = (j.copies - (copy + 1)) * j.chain.length + j.chain.length := by
        rw [← Nat.succ_mul]
        congr 1
        omega
      have start : sheetStart j.chain 1 = 0 := by cases j.chain <;> rfl
      rw [start, step]
      omega
    · cases next

end

end Sys2Proof.Machine
end

/-! SUPPORT. What a print's steps keep: its place, its frames and its counts (R125, R127, R132). -/
section
namespace Sys2Proof.Machine

/-- A print between two entries: its port holds no frame of it. -/
structure State.between (s : State) (p : Port) (g : Slot) : Prop where
  offers : (s.port p).unoffered
  chained : (s.job g).chained
  sheets : (s.job g).sheetsDone ≤ 8064
  scan : (s.port p).scan = {}
  hold : (s.port p).hold = {}
  frames : (s.port p).frames = []

/-- A print that stands at an entry of its sheet. -/
structure State.printsAt (s : State) (p : Port) (g : Slot) : Prop where
  rest : s.between p g
  placed : (s.port p).placed (s.job g)

/-- A print at work again. -/
structure State.printsOn (s : State) (p : Port) (g : Slot) : Prop where
  offers : (s.port p).unoffered
  chained : (s.job g).chained
  printing : (s.port p).printing (s.job g)

/-- What a print's step comes to, with the records that it leaves. -/
inductive PrintDone (s : State) (p : Port) (g : Slot) : State → Prop
  | works {t} (work : Worked s t p g) (on : t.printsOn p g) : PrintDone s p g t
  | ends {t} (work : Worked s t p g) (rest : t.between p g) (o d) : PrintDone s p g (t.finishScan p g o d none)
  | yields {t} (work : Worked s t p g) (rest : t.between p g) (copy sheet) (place : (t.job g).reaches copy sheet)
      (asked : (s.port p).yieldPending = true) (engine : s.ctl.engine ≠ .draining) :
      PrintDone s p g (((t.resumeAt g copy sheet).requeuePreempted g).releasePort p)

section
variable {s t u : State} {p : Port} {g : Slot} {next : Option (Nat × Nat)}

theorem PrintDone.step (h : PrintDone s p g t) : PrintStep s p g t := by
  cases h with
  | works work on => exact .works work
  | ends work rest o d => exact .ends work o d
  | yields work rest copy sheet place asked engine => exact .yields work copy sheet asked engine

theorem PrintDone.after (h : Worked s t p g) (k : PrintDone t p g u) : PrintDone s p g u := by
  cases k with
  | works work on => exact .works (h.trans work) on
  | ends work rest o d => exact .ends (h.trans work) rest o d
  | yields work rest copy sheet place asked engine =>
    obtain ⟨_, _, port⟩ := h.port
    exact .yields (h.trans work) rest copy sheet place (by rw [port] at asked; exact asked) (by rw [h.rest] at engine; exact engine)

/-! ### Records between two entries -/

theorem JobRecord.chained.congr {j k : JobRecord} (h : j.chained) (same : j.served k) : k.chained := by
  unfold JobRecord.chained
  rw [same.chain, same.copies]
  exact h

/-- A change of the port's print service alone. -/
theorem State.between.modifyPrint (h : s.between p g) (f : PrintService → PrintService) : (s.modifyPrint p f).between p g := by
  have port : (s.modifyPrint p f).port p = { s.port p with print := f (s.port p).print } := s.port_modifyPort p _
  refine ⟨?_, h.chained, h.sheets, ?_, ?_, ?_⟩ <;> rw [port]
  · exact h.offers
  · exact h.scan
  · exact h.hold
  · exact h.frames

/-- A change of jobs' records alone. -/
theorem State.between.served (h : s.between p g) (port : t.port p = s.port p) (job : (s.job g).served (t.job g)) : t.between p g := by
  refine ⟨?_, h.chained.congr job, job.sheetsDone ▸ h.sheets, ?_, ?_, ?_⟩ <;> rw [port]
  · exact h.offers
  · exact h.scan
  · exact h.hold
  · exact h.frames

theorem State.latchAll_served (l : List Slot) (s : State) (h : Slot) : (s.job h).served ((s.latchAll l).job h) := by
  obtain ⟨aged, slot⟩ := State.latchAll_slot l s h
  rw [State.job, State.job, slot]
  exact ⟨rfl, rfl, rfl, rfl, rfl, rfl, rfl⟩

theorem State.latchAll_port (l : List Slot) (s : State) (r : Port) : (s.latchAll l).port r = s.port r := by
  unfold State.port
  rw [State.latchAll_ports]

/-- A next sheet begins at its first entry. -/
theorem State.between.beginSheet (h : s.between p g) {copy sheet : Nat} (place : (s.job g).reaches copy sheet) :
    (s.beginSheet p g copy sheet).printsAt p g := by
  refine ⟨h.modifyPrint _, ?_⟩
  have port : ((s.beginSheet p g copy sheet).port p).print = { (s.port p).print with
      copy, sheet, entry := sheetStart (s.job g).chain sheet, fed := false
      sheetTimer := startTimer s.ctl.clock ((s.portConfig p).sheetTimeout * 1000) } := congrArg PortRecord.print (s.port_modifyPort p _)
  obtain ⟨one, most, first, last, done⟩ := place
  obtain ⟨lt, before⟩ := sheetStart_place (s.job g).chain (sheet - 1) (by omega)
  rw [Nat.sub_add_cancel first] at lt before
  refine ⟨?_, ?_, ?_⟩ <;> rw [port]
  · exact ⟨one, most, first, last, done⟩
  · exact lt
  · show sheetsPerCopy ((s.job g).chain.take (sheetStart (s.job g).chain sheet)) + 1 = sheet
    rw [before]
    omega

/-! ### A FEED falls due (R127) -/

theorem State.printsAt.feedDue (h : s.printsAt p g) (b n : Nat) : (s.feedDue p b n).printsOn p g := by
  obtain ⟨⟨offers, chained, -, scan, hold, frames⟩, ⟨reaches, entry, sheet⟩⟩ := h
  unfold State.feedDue
  split
  · have port : (s.modifyPrint p fun x => { x with early := false, phase := .stalled }).port p =
        { s.port p with print := { (s.port p).print with early := false, phase := .stalled } } := s.port_modifyPort p _
    refine ⟨?_, chained, ?_⟩ <;> rw [port]
    · exact offers
    · exact ⟨PrintPhase.noConfusion, scan, hold, ⟨reaches, entry, sheet⟩, fun k => (by cases k), fun _ => frames⟩
  · have port : ((s.modifyPrint p fun x => { x with early := false, phase := .feeding, fed := true }).offerFrame p
        (.feed (readData s.mem b n))).port p = { s.port p with
          print := { (s.port p).print with early := false, phase := .feeding, fed := true }
          transmitter := offer { frame := .feed (readData s.mem b n), owner := .service (s.port p).grantNumber } (s.port p).transmitter } := by
      unfold State.offerFrame State.modifyPrint
      rw [State.transmit_port, State.port_modifyPort]
    refine ⟨?_, chained, ?_⟩ <;> rw [port]
    · exact offers.offer _
    · exact ⟨PrintPhase.noConfusion, scan, hold, ⟨reaches, entry, sheet⟩, fun _ => ⟨_, offer_own (f := ⟨_, .service _⟩) frames⟩,
        fun k => absurd rfl k⟩

/-- A print that waits at an entry. -/
theorem State.printsAt.waits (h : s.printsAt p g) : (s.modifyPrint p fun x => { x with phase := .sheetWait }).printsOn p g := by
  obtain ⟨⟨offers, chained, -, scan, hold, frames⟩, ⟨reaches, entry, sheet⟩⟩ := h
  have port : (s.modifyPrint p fun x => { x with phase := .sheetWait }).port p =
      { s.port p with print := { (s.port p).print with phase := .sheetWait } } := s.port_modifyPort p _
  refine ⟨?_, chained, ?_⟩ <;> rw [port]
  · exact offers
  · exact ⟨PrintPhase.noConfusion, scan, hold, ⟨reaches, entry, sheet⟩, fun k => (by cases k), fun _ => frames⟩

/-! ### A sheet boundary (R132) -/

/-- What a boundary comes to: the step is over, or a next sheet has begun. -/
structure Closed (s : State) (p : Port) (g : Slot) (next : Option (Nat × Nat)) (r : State × Bool) : Prop where
  done : r.2 = false → PrintDone s p g r.1
  begun : r.2 = true → Worked s r.1 p g ∧ r.1.printsAt p g ∧ ∃ copy sheet, next = some (copy, sheet) ∧ (r.1.port p).print.copy = copy ∧
    (r.1.port p).print.entry = sheetStart (s.job g).chain sheet

/-- A place to go on at remains where the checks give one. -/
theorem State.boundaryCheck_remains {remaining : Bool} (h : s.boundaryCheck p g remaining = .requeue ∨ s.boundaryCheck p g remaining = .next) :
    remaining = true := by
  unfold State.boundaryCheck at h
  revert h
  cases remaining <;> simp
  split
  · simp
  split
  · simp
  split <;> simp

theorem State.between.closeSheet (h : s.between p g) (place : ∀ copy sheet, next = some (copy, sheet) → (s.job g).reaches copy sheet) :
    Closed s p g next (s.closeSheet p g next) := by
  unfold State.closeSheet
  have latched : Worked s (if s.asksOutrank p g next.isSome then s.latchAll (s.outrankJobs p g) else s) p g ∧
      (if s.asksOutrank p g next.isSome then s.latchAll (s.outrankJobs p g) else s).port p = s.port p ∧
      (s.job g).served ((if s.asksOutrank p g next.isSome then s.latchAll (s.outrankJobs p g) else s).job g) := by
    split
    · exact ⟨Worked.latchAll p g _ s fun h hh => ⟨_, (List.mem_filter.mp hh).1⟩, State.latchAll_port _ _ _, State.latchAll_served _ _ _⟩
    · exact ⟨Worked.refl s p g, rfl, .refl _⟩
  revert latched
  generalize (if s.asksOutrank p g next.isSome then s.latchAll (s.outrankJobs p g) else s) = t
  rintro ⟨latched, port, job⟩
  have rest : t.between p g := h.served port job
  cases check : s.boundaryCheck p g next.isSome with
  | finish o d => exact ⟨fun _ => .ends latched rest o d, fun k => Bool.noConfusion k⟩
  | requeue =>
    have remains := State.boundaryCheck_remains (.inl check)
    cases next with
    | none => cases remains
    | some at_ =>
      obtain ⟨asked, engine⟩ := State.boundaryCheck_requeue check
      exact ⟨fun _ => .yields latched rest at_.1 at_.2 (job.reaches (place _ _ rfl)) asked engine, fun k => Bool.noConfusion k⟩
  | next =>
    have remains := State.boundaryCheck_remains (.inr check)
    cases next with
    | none => cases remains
    | some at_ =>
      have at_print : ((t.beginSheet p g at_.1 at_.2).port p).print.copy = at_.1 ∧
          ((t.beginSheet p g at_.1 at_.2).port p).print.entry = sheetStart (t.job g).chain at_.2 := by
        unfold State.beginSheet State.modifyPrint
        rw [State.port_modifyPort]
        exact ⟨rfl, rfl⟩
      rw [job.chain] at at_print
      exact ⟨fun k => Bool.noConfusion k, fun _ => ⟨latched.trans (Worked.beginSheet t p g at_.1 at_.2),
        rest.beginSheet (job.reaches (place _ _ rfl)), at_.1, at_.2, rfl, at_print⟩⟩

/-- The count of a boundary. -/
theorem State.printsAt.countSheet (h : s.printsAt p g) (counted : Bool) :
    (s.countSheet p g counted).between p g ∧ (∀ copy sheet, nextSheet (s.job g) (s.port p).print.copy (s.port p).print.sheet = some (copy, sheet) →
      ((s.countSheet p g counted).job g).reaches copy sheet) ∧ ((s.countSheet p g counted).job g).chain = (s.job g).chain := by
  obtain ⟨more, after⟩ := h.placed.reaches.count h.rest.chained
  have rest := h.rest
  unfold State.countSheet
  cases counted with
  | true =>
    have job : (s.updateJob g fun j => { j with sheetsDone := j.sheetsDone + 1 }).job g = { s.job g with sheetsDone := (s.job g).sheetsDone + 1 } :=
      congrArg SlotShadow.job (s.slot_setSlot g _)
    have counts : (s.updateJob g fun j => { j with sheetsDone := j.sheetsDone + 1 }).between p g := by
      refine ⟨rest.offers, ?_, ?_, rest.scan, rest.hold, rest.frames⟩ <;> rw [job]
      · exact rest.chained
      · exact more
    refine ⟨counts.modifyPrint _, fun copy sheet e => ?_, ?_⟩
    · show ((s.updateJob g fun j => { j with sheetsDone := j.sheetsDone + 1 }).job g).reaches copy sheet
      rw [job]
      exact after copy sheet e
    · show ((s.updateJob g fun j => { j with sheetsDone := j.sheetsDone + 1 }).job g).chain = _
      rw [job]
  | false => exact ⟨rest.modifyPrint _, fun copy sheet e => h.placed.reaches.next rest.chained e, rfl⟩

theorem State.printsAt.sheetBoundary (h : s.printsAt p g) (counted : Bool) :
    Closed s p g (nextSheet (s.job g) (s.port p).print.copy (s.port p).print.sheet) (s.sheetBoundary p g counted) := by
  obtain ⟨rest, place, chain⟩ := h.countSheet counted
  have count := Worked.countSheet s p g counted
  obtain ⟨done, begun⟩ := rest.closeSheet place
  refine ⟨fun k => (done k).after count, fun k => ?_⟩
  obtain ⟨work, now, copy, sheet, e, at_copy, at_entry⟩ := begun k
  exact ⟨count.trans work, now, copy, sheet, e, at_copy, at_entry.trans (by rw [chain])⟩

/-! ### Entries (R127) -/

theorem Worked.record (w : Worked s t p g) : (t.job g).chain = (s.job g).chain ∧ (t.job g).copies = (s.job g).copies := by
  obtain ⟨_, _, slot, -⟩ := w.slot g
  rw [State.job, slot]
  exact ⟨rfl, rfl⟩

theorem Worked.ahead (w : Worked s t p g) (copy entry : Nat) : (t.job g).ahead copy entry = (s.job g).ahead copy entry := by
  unfold JobRecord.ahead
  rw [w.record.1, w.record.2]

/-- The next entry of the sheet. -/
theorem State.printsAt.nextEntry (h : s.printsAt p g) {e : ChainEntry} (found : (s.job g).chain[(s.port p).print.entry]? = some e)
    (unmarked : e.sheetEnd = false) : (s.nextEntry p).printsAt p g := by
  refine ⟨h.rest.modifyPrint _, ?_⟩
  have print : ((s.nextEntry p).port p).print = { (s.port p).print with entry := (s.port p).print.entry + 1 } :=
    congrArg PortRecord.print (s.port_modifyPort p _)
  obtain ⟨reaches, entry, sheet⟩ := h.placed
  refine ⟨?_, ?_, ?_⟩ <;> rw [print]
  · exact reaches
  · exact succ_lt_of_unmarked h.rest.chained.2.1 found unmarked
  · show sheetsPerCopy ((s.job g).chain.take ((s.port p).print.entry + 1)) + 1 = _
    rw [sheetsPerCopy_step found, unmarked]
    exact sheet

theorem State.printsAt.reachEntries (n : Nat) : ∀ {s : State}, s.printsAt p g →
    (s.job g).ahead (s.port p).print.copy (s.port p).print.entry ≤ n → PrintDone s p g (State.reachEntries p g n s) := by
  induction n with
  | zero =>
    intro s h enough
    have entry := h.placed.entry
    unfold JobRecord.ahead at enough
    omega
  | succ n ih =>
    intro s h enough
    have entry := h.placed.entry
    have found := List.getElem?_eq_getElem entry
    generalize (s.job g).chain[(s.port p).print.entry] = e at found
    unfold State.reachEntries
    rw [found]
    dsimp only
    split
    · exact .works (Worked.feedDue s p g _ _) (h.feedDue _ _)
    split
    · next unmarked =>
      have work : Worked s (s.nextEntry p) p g := Worked.modifyPrint s p g _
      have print : ((s.nextEntry p).port p).print = { (s.port p).print with entry := (s.port p).print.entry + 1 } :=
        congrArg PortRecord.print (s.port_modifyPort p _)
      refine (ih (h.nextEntry found (by simpa using unmarked)) ?_).after work
      rw [work.ahead, print]
      unfold JobRecord.ahead at *
      dsimp only
      omega
    split
    · exact .works (Worked.modifyPrint s p g _) h.waits
    · next marked _ =>
      obtain ⟨done, begun⟩ := h.sheetBoundary (s.port p).print.fed
      split
      · next t at_ =>
        rw [at_] at begun
        obtain ⟨work, now, copy, sheet, place, at_copy, at_entry⟩ := begun rfl
        have nearer := JobRecord.ahead_next found (by simpa using marked) h.placed.sheet place
        refine (ih now ?_).after work
        rw [work.ahead, at_copy, at_entry]
        omega
      · next t at_ =>
        rw [at_] at done
        exact done rfl

theorem State.printsAt.runPrint (h : s.printsAt p g) : PrintDone s p g (s.runPrint p g) := h.reachEntries _ (JobRecord.ahead_le _)

theorem State.printsAt.confirmSheet (h : s.printsAt p g) : PrintDone s p g (s.confirmSheet p g) := by
  unfold State.confirmSheet
  obtain ⟨done, begun⟩ := h.sheetBoundary true
  split
  · next t at_ =>
    rw [at_] at begun
    obtain ⟨work, now, -⟩ := begun rfl
    exact now.runPrint.after work
  · next t at_ =>
    rw [at_] at done
    exact done rfl

/-! ### The service's events (R126, R128 to R130) -/

/-- A print starts where its job's resume point is. -/
theorem State.between.startPrint (h : s.between p g) (place : (s.job g).reaches (s.job g).resumeCopy (s.job g).resumeSheet) :
    PrintDone s p g (s.startPrint p g) := by
  have cleared := h.modifyPrint fun _ => { busy := (s.port p).condition == .busy }
  exact (State.printsAt.runPrint (cleared.beginSheet place)).after ((Worked.modifyPrint s p g _).trans (Worked.beginSheet _ p g _ _))

/-- A print that is not FEEDING has no frame. -/
theorem State.printsOn.at_entry (h : s.printsOn p g) (unfed : (s.port p).print.phase ≠ .feeding) : s.printsAt p g :=
  ⟨⟨h.offers, h.chained, h.printing.placed.reaches.bound h.chained, h.printing.scan, h.printing.hold, h.printing.unfed unfed⟩, h.printing.placed⟩

/-- The answer to the FEED of a print, of which the port has no frame any more. -/
theorem State.printsAt.feedAnswered (h : s.printsAt p g) : PrintDone s p g (s.feedAnswered p g) := by
  have entry := h.placed.entry
  have found := List.getElem?_eq_getElem entry
  generalize (s.job g).chain[(s.port p).print.entry] = e at found
  unfold State.feedAnswered
  rw [found]
  dsimp only
  split
  · next unmarked => exact (h.nextEntry found (by simpa using unmarked)).runPrint.after (Worked.modifyPrint s p g _)
  split
  · exact h.confirmSheet
  · exact .works (Worked.modifyPrint s p g _) h.waits

/-- A change of a print's flags. -/
theorem State.printsOn.flags (h : s.printsOn p g) {f : PrintService → PrintService} (phase : (f (s.port p).print).phase = (s.port p).print.phase)
    (copy : (f (s.port p).print).copy = (s.port p).print.copy) (sheet : (f (s.port p).print).sheet = (s.port p).print.sheet)
    (entry : (f (s.port p).print).entry = (s.port p).print.entry) : (s.modifyPrint p f).printsOn p g := by
  have port : (s.modifyPrint p f).port p = { s.port p with print := f (s.port p).print } := s.port_modifyPort p _
  obtain ⟨some, scan, hold, ⟨reaches, lt, place⟩, fed, unfed⟩ := h.printing
  refine ⟨?_, h.chained, ?_⟩ <;> rw [port]
  · exact h.offers
  · refine ⟨?_, scan, hold, ⟨?_, ?_, ?_⟩, fun k => fed (phase ▸ k), fun k => unfed fun e => k (phase.trans e)⟩
    · show (f (s.port p).print).phase ≠ _
      rw [phase]
      exact some
    · show (s.job g).reaches (f (s.port p).print).copy (f (s.port p).print).sheet
      rw [copy, sheet]
      exact reaches
    · show (f (s.port p).print).entry < _
      rw [entry]
      exact lt
    · show sheetsPerCopy ((s.job g).chain.take (f (s.port p).print).entry) + 1 = (f (s.port p).print).sheet
      rw [entry, sheet]
      exact place

theorem State.printsOn.printCondition (h : s.printsOn p g) (c : Condition) : PrintDone s p g (s.printCondition p g c) := by
  unfold State.printCondition
  split
  · exact .works (Worked.modifyPrint s p g _) (h.flags rfl rfl rfl rfl)
  dsimp only
  have cleared : (s.modifyPrint p fun x => { x with busy := false }).printsOn p g := h.flags rfl rfl rfl rfl
  have print : ((s.modifyPrint p fun x => { x with busy := false }).port p).print = { (s.port p).print with busy := false } :=
    congrArg PortRecord.print (s.port_modifyPort p _)
  split
  · next stalled =>
    refine (cleared.at_entry ?_).runPrint.after (Worked.modifyPrint s p g _)
    rw [print]
    exact fun k => by cases stalled.symm.trans k
  · exact .works (Worked.modifyPrint s p g _) cleared

theorem State.printsOn.sheetTaken (h : s.printsOn p g) : PrintDone s p g (s.sheetTaken p g) := by
  unfold State.sheetTaken
  split
  · next waits => exact (h.at_entry fun k => by cases waits.symm.trans k).confirmSheet
  · split
    · exact .works (Worked.refl s p g) h
    · exact .works (Worked.modifyPrint s p g _) (h.flags rfl rfl rfl rfl)
  · exact .works (Worked.refl s p g) h
  · exact .works (Worked.refl s p g) h

end

end Sys2Proof.Machine
end

/-! SUPPORT. Prints at their port, as the invariants of the services and of the touch router see their steps (R125 to R132). -/
section
namespace Sys2Proof.Machine

/-- A job in service at a port, apart from what the service has come to. -/
structure State.onPort (s : State) (p : Port) (g : Slot) (cls : JobClass) : Prop where
  state : (s.port p).state = .serving
  job : (s.port p).job = some g
  ofClass : (s.job g).cls = some cls
  port : (s.portConfig p).cls = servingClass cls
  pool : (s.portConfig p).pool = (s.job g).pool
  ofPool : s.poolClass (s.job g).pool = servingClass cls
  serving : (s.slot g).state = .serving
  sheets : (s.job g).sheetsDone ≤ 8064
  left : (s.job g).holdRemaining ≤ 3600000
  bare : cls ≠ .scan → (s.job g).resultChain = []
  alone : ∀ r, r ≠ p → (s.port r).job ≠ some g

section
variable {s t u v : State} {p r : Port} {g h : Slot} {low : Port → Nat} {cls : JobClass} {o : JobOutcome} {d : Detail}

theorem State.fits.onPort (f : s.fits low) (holds : s.structured) (e : (s.port p).engaged (s.portConfig p) g (s.job g) s.ctl.clock (low p) cls) :
    s.onPort p g cls := by
  obtain ⟨cls', e', pool⟩ := f.ofPool (holds.sweepsAt e.job) e.job
  obtain rfl : cls' = cls := Option.some.inj (e'.ofClass.symm.trans e.ofClass)
  have serving := holds.served e.job
  exact ⟨e.state, e.job, e.ofClass, e.port, e.pool, pool, serving, (f.slots g).sheets, (f.slots g).left,
    fun other => ((f.slots g).serving serving).bare fun k => other (Option.some.inj (e.ofClass.symm.trans k)), holds.alone e.job⟩

/-! ### Work on a print (R127) -/

theorem Worked.local (w : Worked s t p g) (alone : ∀ r, r ≠ p → (s.port r).job ≠ some g) : Local s t [g] [p] := by
  have rest := w.rest
  refine .of_records (by rw [rest]) (by rw [rest]) (by rw [rest]) (by rw [rest]) (fun h out fits => ?_) (fun r out => ?_) fun r h out job => ?_
  · obtain ⟨aged, done, slot, same⟩ := w.slot h
    obtain rfl := same fun e => out (List.mem_singleton.mpr e)
    unfold State.slotFits
    rw [slot, State.poolClass_congr (s := s) (t := t) (by rw [rest])]
    exact SlotShadow.fits.congr fits rfl ⟨rfl, rfl, rfl, rfl, rfl, rfl, rfl⟩ rfl rfl rfl
  · rw [w.others r out]
    exact .refl _
  · obtain ⟨aged, done, slot, same⟩ := w.slot h
    obtain rfl := same fun e => alone r (fun k => out (List.mem_singleton.mpr k)) (e ▸ job)
    rw [State.job, State.job, slot]
    exact ⟨rfl, rfl, rfl, rfl, rfl, rfl, rfl⟩

theorem Worked.routed (w : Worked s t p g) : Routed s t := by
  have port (r : Port) : (t.port r).contacts = (s.port r).contacts ∧ (t.port r).job = (s.port r).job := by
    by_cases e : r = p
    · subst e
      obtain ⟨_, _, port⟩ := w.port
      rw [port]
      exact ⟨rfl, rfl⟩
    · rw [w.others r fun k => e (List.mem_singleton.mp k)]
      exact ⟨rfl, rfl⟩
  have rest := w.rest
  exact ⟨by rw [rest], by rw [rest], by rw [rest], fun r => (port r).1, fun r => (port r).2⟩

/-- Work on a print keeps the job at its port. -/
theorem State.onPort.worked (k : s.onPort p g cls) (w : Worked s t p g) (sheets : (t.job g).sheetsDone ≤ 8064) : t.onPort p g cls := by
  have rest := w.rest
  obtain ⟨aged, done, slot, -⟩ := w.slot g
  obtain ⟨_, _, port⟩ := w.port
  have job : t.job g = { s.job g with agedOut := aged, sheetsDone := done } := by rw [State.job, slot]
  have config : t.portConfig p = s.portConfig p := State.portConfig_work (by rw [rest]) p
  have pools : t.poolClass = s.poolClass := State.poolClass_congr (by rw [rest])
  refine ⟨?_, ?_, ?_, ?_, ?_, ?_, ?_, sheets, ?_, fun other => ?_, fun r ne => ?_⟩
  · rw [port]
    exact k.state
  · rw [port]
    exact k.job
  · rw [job]
    exact k.ofClass
  · rw [config]
    exact k.port
  · rw [config, job]
    exact k.pool
  · rw [pools, job]
    exact k.ofPool
  · rw [slot]
    exact k.serving
  · rw [job]
    exact k.left
  · rw [job]
    exact k.bare other
  · rw [w.others r fun m => ne (List.mem_singleton.mp m)]
    exact k.alone r ne

/-- The slot of a job at its port. -/
theorem State.onPort.slotFits (k : s.onPort p g cls) (print : cls = .print → (s.job g).chained) : s.slotFits g :=
  .serves k.serving ⟨fun e => print (Option.some.inj (k.ofClass.symm.trans e)), fun e => k.bare fun same => e (k.ofClass.trans (congrArg some same))⟩
    k.sheets k.left

/-! ### What a print's step keeps -/

theorem PrintDone.fits (done : PrintDone s p g u) (a : Local v s [g] [p]) (f : v.fits low) (k : s.onPort p g .print) : u.fits low := by
  cases done with
  | @works t work on =>
    have now := k.worked work (on.printing.placed.reaches.bound on.chained)
    refine (a.trans (work.local k.alone)).fits f (fun h m => ?_) fun r m => ?_
    · obtain rfl := List.mem_singleton.mp m
      exact now.slotFits fun _ => on.chained
    · obtain rfl := List.mem_singleton.mp m
      exact ⟨on.offers, .inr ⟨g, .print, now.state, now.job, now.ofClass, now.port, now.pool, on.printing⟩⟩
  | @ends t work rest o d =>
    have now := k.worked work rest.sheets
    exact (a.trans (work.local k.alone)).finishScan f (now.slotFits fun _ => rest.chained) rest.offers
  | @yields t work rest copy sheet place asked engine =>
    have now := k.worked work rest.sheets
    have resume : Local t (t.resumeAt g copy sheet) [g] [p] :=
      (State.updateJob_served ⟨rfl, rfl, rfl, rfl, rfl, rfl, rfl⟩).mono (List.Subset.refl _) (List.nil_subset [p])
    have job : (t.resumeAt g copy sheet).job g = { t.job g with resumeCopy := copy, resumeSheet := sheet } := State.job_updateJob _ _ _
    refine Local.requeuePreempted (cls := .print) ((a.trans (work.local k.alone)).trans resume) f ?_ ?_ ?_ rest.offers <;> rw [job]
    · exact ⟨now.ofClass, now.ofPool, now.bare JobClass.noConfusion, fun _ => ⟨rest.chained, place⟩, fun e => (by cases e)⟩
    · exact now.sheets
    · exact now.left

theorem PrintDone.touch (done : PrintDone s p g u) (cls : (s.portConfig p).cls ≠ .panel) (h : s.touchHolds) : u.touchHolds := by
  have unheld {t : State} (work : Worked s t p g) : ∀ i c, t.contact p i ≠ .hold c :=
    (work.routed.touch h).unheld (by rw [State.portConfig_work work.routed.work]; exact cls)
  cases done with
  | works work on => exact work.routed.touch h
  | ends work rest o d => exact (work.routed.touch h).finishScan (unheld work)
  | @yields t work rest copy sheet place asked engine =>
    have resume : (t.resumeAt g copy sheet).touchHolds := (t.updateJob_routed g _).touch (work.routed.touch h)
    exact resume.requeuePreempted fun i c => unheld work i c

theorem State.fits.printsOn (f : s.fits low) (holds : s.structured) (job : (s.port p).job = some g) (printer : (s.portConfig p).cls = .printer) :
    s.printsOn p g ∧ s.onPort p g .print := by
  obtain ⟨cls, e⟩ := f.at_job job
  obtain rfl : cls = .print := servingClass_injective (e.port.symm.trans printer)
  exact ⟨⟨(f.ports p).1, ((f.slots g).serving (holds.served job)).print e.ofClass, e.serves⟩, f.onPort holds e⟩

/-- A step of a serving print. -/
theorem PrintStep.serves (step : PrintStep s p g t) (job : (s.port p).job = some g) (printer : (s.portConfig p).cls = .printer)
    (done : s.printsOn p g → PrintDone s p g t) : Serves s t where
  sound := step.sound job
  fits low _ holds f := (done (f.printsOn holds job printer).1).fits (.refl s _ _) f (f.printsOn holds job printer).2
  touch holds f := (done (f.printsOn holds job printer).1).touch (by rw [printer]; exact PortClass.noConfusion)

theorem State.printCondition_serves (job : (s.port p).job = some g) (printer : (s.portConfig p).cls = .printer) (c : Condition) :
    Serves s (s.printCondition p g c) := (s.printCondition_step p g c).serves job printer (·.printCondition c)

theorem State.sheetTaken_serves (job : (s.port p).job = some g) (printer : (s.portConfig p).cls = .printer) :
    Serves s (s.sheetTaken p g) := (s.sheetTaken_step p g).serves job printer (·.sheetTaken)

end

end Sys2Proof.Machine
end

/-! SUPPORT. Grants and the start of each service, as the invariants of the services and of the touch router see them
(R73, R74, R126, R151, R174, R176). -/
section
namespace Sys2Proof.Machine

/-- A port that a service is to start at: its engines are IDLE. -/
structure State.startsAt (s : State) (p : Port) (g : Slot) (cls : JobClass) : Prop where
  on : s.onPort p g cls
  offers : (s.port p).unoffered
  frames : (s.port p).frames = []
  print : (s.port p).print = {}
  scan : (s.port p).scan = {}
  hold : (s.port p).hold = {}
  waiting : (s.job g).waiting s.poolClass cls

section
variable {s t u v : State} {p r : Port} {g h : Slot} {low : Port → Nat} {cls : JobClass} {q : Pool} {rank : Nat}

/-! ### The grant (R73, R74) -/

theorem State.paired_startsAt (f : s.fits low) (holds : s.structured) (queued : (s.slot g).state = .queued) (free : (s.port p).state = .free)
    (sweeps : sweeping s.ctl.engine = true) (pool : (s.portConfig p).pool = (s.job g).pool) (some : (s.portConfig p).cls ≠ .none) :
    ∃ cls, (s.paired g rank p).startsAt p g cls := by
  obtain ⟨cls, waiting⟩ := (f.slots g).queued queued
  have rest : (s.port p).resting := (f.ports p).2.resolve_right fun ⟨h, c, e⟩ => by cases free.symm.trans e.state
  have work : (s.paired g rank p).ctl.work = s.ctl.work := by rw [State.paired_ctl]
  have config := State.portConfig_work work p
  have pools := State.poolClass_congr work
  have ofPort : (s.portConfig p).cls = servingClass cls := by
    rw [← f.pools.poolClass sweeps some, pool]
    exact waiting.pool
  have frames : ((s.paired g rank p).port p).frames = [] := by
    rw [State.paired_port]
    exact (f.ports p).1 _ (Nat.lt_succ_self _)
  refine ⟨cls, ⟨?_, ?_, ?_, ?_, ?_, ?_, ?_, (f.slots g).sheets.trans_eq' (by rw [State.paired_job]; rfl), ?_, fun _ => ?_, fun r ne => ?_⟩,
    fun n later => ?_, frames, ?_, ?_, ?_, ?_⟩
  · exact congrArg PortRecord.state State.paired_port
  · exact congrArg PortRecord.job State.paired_port
  · rw [State.paired_job]
    exact waiting.ofClass
  · rw [config]
    exact ofPort
  · rw [config, State.paired_job]
    exact pool
  · rw [pools, State.paired_job]
    exact waiting.pool
  · exact congrArg SlotShadow.state State.paired_slot
  · rw [State.paired_job]
    exact (f.slots g).left
  · rw [State.paired_job]
    exact waiting.bare
  · rw [State.paired_portsKept r fun m => ne (List.mem_singleton.mp m)]
    exact fun job => by cases queued.symm.trans (holds.served job)
  · rw [State.paired_port] at later ⊢
    exact (f.ports p).1 n (Nat.lt_of_succ_lt later)
  · rw [State.paired_port]
    exact rest.print
  · rw [State.paired_port]
    exact rest.scan
  · rw [State.paired_port]
    exact rest.hold
  · rw [pools, State.paired_job]
    exact waiting.congr ⟨rfl, rfl, rfl, rfl, rfl, rfl, rfl⟩ rfl rfl rfl

theorem State.paired_local : Local s (s.paired g rank p) [g] [p] :=
  .of_kept State.paired_ctl State.paired_slotsKept State.paired_portsKept fun h m => by
    obtain rfl := List.mem_singleton.mp m
    rw [State.paired_job]
    exact ⟨rfl, rfl, rfl, rfl, rfl, rfl, rfl⟩

theorem State.paired_touch (h : s.touchHolds) (idle : (s.port p).job = none) : (s.paired g rank p).touchHolds := by
  refine h.kept State.paired_mailboxes (by rw [State.paired_ctl]) (fun k => by rwa [State.paired_ctl] at k) (fun r => ?_) fun r i c k => ?_
  · by_cases e : r = p
    · subst e
      rw [State.paired_port]
      rfl
    · rw [State.paired_portsKept r fun m => e (List.mem_singleton.mp m)]
  · have ne : r ≠ p := fun e => by
      subst e
      obtain ⟨-, h, job, -⟩ := h.held r i c k
      cases idle.symm.trans job
    rw [State.paired_portsKept r fun m => ne (List.mem_singleton.mp m)]

/-! ### A print starts (R126) -/

theorem State.startsAt.print_done (k : s.startsAt p g .print) : PrintDone s p g (s.startPrint p g) := by
  obtain ⟨chained, place⟩ := k.waiting.print rfl
  exact State.between.startPrint ⟨k.offers, chained, k.on.sheets, k.scan, k.hold, k.frames⟩ place

/-! ### A scan starts (R151) -/

theorem State.scanFlagged_calm (serving : (s.slot g).state = .serving) : Calm s (s.scanFlagged p g) :=
  .ite (fun _ => State.updateJob_calm ⟨rfl, rfl, rfl, rfl, rfl, rfl, rfl, rfl⟩ ⟨rfl, rfl, rfl, rfl, rfl, rfl, rfl⟩ rfl rfl rfl (.inr serving))
    fun _ => .refl s

theorem State.scanFlagged_served (h : Slot) : (s.job h).served ((s.scanFlagged p g).job h) := by
  unfold State.scanFlagged
  split
  · by_cases e : h = g
    · subst e
      rw [State.job_updateJob]
      exact ⟨rfl, rfl, rfl, rfl, rfl, rfl, rfl⟩
    · rw [State.job, State.job, State.updateJob, State.slot_setSlot_ne _ e]
      exact .refl _
  · exact .refl _

theorem State.startsAt.scanning (k : s.startsAt p g .scan) : ((s.startScan p g).port p).scanning (s.job g) ∧
    ((s.startScan p g).port p).unoffered := by
  rw [State.startScan_eq, State.port_setPort]
  have chain := k.waiting.bare
  refine ⟨⟨ScanPhase.noConfusion, k.print, k.hold, ⟨?_, Nat.zero_le _, fun _ => rfl, ?_, Nat.zero_le _⟩, ⟨fun e => (by cases e), fun e => absurd rfl e⟩,
    fun _ => ⟨_, _, offer_own (f := ⟨_, .service _⟩) k.frames⟩, fun e => (by cases e), fun e => absurd rfl e⟩, k.offers.offer _⟩
  · rw [chain]
    rfl
  · rw [chain]
    rfl

theorem State.startsAt.startScan_fits (k : s.startsAt p g .scan) (a : Local v s [g] [p]) (f : v.fits low) : (s.startScan p g).fits low := by
  obtain ⟨scanning, offers⟩ := k.scanning
  have flagged := State.scanFlagged_calm (p := p) k.on.serving
  have change : Local s (s.startScan p g) [g] [p] := by
    rw [State.startScan_eq]
    exact (flagged.still.wide _ _).trans ((State.setPort_local _ p _).mono (List.nil_subset [g]) (List.Subset.refl _))
  have slots : (s.startScan p g).slots = (s.scanFlagged p g).slots := by
    rw [State.startScan_eq]
    rfl
  have job : (s.job g).served ((s.startScan p g).job g) := by
    rw [State.job_congr slots]
    exact State.scanFlagged_served g
  have at_port : ((s.startScan p g).port p).state = (s.port p).state ∧ ((s.startScan p g).port p).job = (s.port p).job := by
    rw [State.startScan_eq, State.port_setPort]
    exact ⟨rfl, rfl⟩
  refine (a.trans change).fits f (fun h m => ?_) fun r m => ?_
  · obtain rfl := List.mem_singleton.mp m
    have fits := flagged.still.slots h List.not_mem_nil (k.on.slotFits fun e => (by cases e))
    exact fits.congr (State.slot_congr slots h) (by rw [State.startScan_eq]; rfl)
  · obtain rfl := List.mem_singleton.mp m
    refine ⟨offers, .inr ⟨g, .scan, at_port.1.trans k.on.state, at_port.2.trans k.on.job, job.cls.trans k.on.ofClass, ?_, ?_, ?_⟩⟩
    · rw [change.portConfig]
      exact k.on.port
    · rw [change.portConfig, job.pool]
      exact k.on.pool
    · exact (PortRecord.served.refl _).scanning job scanning

theorem State.startsAt.startScan_routed (k : s.startsAt p g .scan) : Routed s (s.startScan p g) := by
  have flagged := State.scanFlagged_calm (p := p) k.on.serving
  rw [State.startScan_eq]
  have port : (s.scanFlagged p g).port p = s.port p := by
    unfold State.port
    rw [State.scanFlagged_fields.1]
  exact flagged.routed.trans (State.setPort_routed (by rw [port]) (by rw [port]))

/-! ### A hold starts (R176) -/

theorem timer_ahead (clock : Stamp) {n : Nat} (bound : n ≤ 3600000) : (clock + BitVec.ofNat 32 n - clock).toNat = n := by
  rw [BitVec.add_comm, BitVec.add_sub_cancel, BitVec.toNat_ofNat]
  omega

theorem State.startsAt.startHold_fits (k : s.startsAt p g .hold) (le : ∀ p, low p ≤ 1) (a : Local v s [g] [p]) (f : v.fits low) :
    (s.startHold p g).fits low := by
  rw [State.startHold_eq]
  have change := a.trans ((s.setPort_local p { s.port p with
    hold := { phase := .holding, timer := startTimer s.ctl.clock (s.job g).holdRemaining } }).mono (List.nil_subset [g]) (List.Subset.refl _))
  refine Local.unseen (State.liftEntries_local _ p true false .orphan) (change.fits f (fun h m => ?_) fun r m => ?_)
  · obtain rfl := List.mem_singleton.mp m
    exact k.on.slotFits fun e => (by cases e)
  · obtain rfl := List.mem_singleton.mp m
    unfold State.portFits
    rw [State.port_setPort]
    have one := le r
    have least : 1 ≤ (s.job g).holdRemaining := k.waiting.hold rfl
    refine ⟨k.offers, .inr ⟨g, .hold, k.on.state, k.on.job, k.on.ofClass, k.on.port, k.on.pool, HoldPhase.noConfusion, k.print, k.scan,
      ⟨_, rfl, ?_, ?_⟩, k.frames⟩⟩
    · show low r ≤ (s.ctl.clock + BitVec.ofNat 32 (s.job g).holdRemaining - s.ctl.clock).toNat
      rw [timer_ahead _ k.on.left]
      omega
    · show (s.ctl.clock + BitVec.ofNat 32 (s.job g).holdRemaining - s.ctl.clock).toNat ≤ _
      rw [timer_ahead _ k.on.left]
      exact k.on.left

theorem State.startHold_touch (h : s.touchHolds) : (s.startHold p g).touchHolds := by
  rw [State.startHold_eq]
  have started : Routed s (s.setPort p { s.port p with
    hold := { phase := .holding, timer := startTimer s.ctl.clock (s.job g).holdRemaining } }) := State.setPort_routed rfl rfl
  exact (started.touch h).liftEntries p rfl

/-! ### The start of a service (R74) -/

theorem State.startsAt.fits (k : s.startsAt p g cls) (le : ∀ p, low p ≤ 1) (a : Local v s [g] [p]) (f : v.fits low) :
    (s.startService p g).fits low := by
  cases cls with
  | print =>
    rw [State.startService_printer k.on.port]
    exact k.print_done.fits a f k.on
  | scan =>
    rw [State.startService_scanner k.on.port]
    exact k.startScan_fits a f
  | hold =>
    rw [State.startService_panel k.on.port]
    exact k.startHold_fits le a f

theorem State.startsAt.touch (k : s.startsAt p g cls) (h : s.touchHolds) : (s.startService p g).touchHolds := by
  cases cls with
  | print =>
    rw [State.startService_printer k.on.port]
    exact k.print_done.touch (by rw [k.on.port]; exact PortClass.noConfusion) h
  | scan =>
    rw [State.startService_scanner k.on.port]
    exact k.startScan_routed.touch h
  | hold =>
    rw [State.startService_panel k.on.port]
    exact State.startHold_touch h

theorem State.grant_serves (queued : (s.slot g).state = .queued) (free : (s.port p).state = .free) (running : s.ctl.engine = .running)
    (pool : (s.portConfig p).pool = (s.job g).pool) (some : (s.portConfig p).cls ≠ .none) (rank : Nat) : Serves s (s.grant g rank p) where
  sound := State.grant_sound queued free running rank
  fits low le holds f := by
    obtain ⟨cls, k⟩ := State.paired_startsAt (rank := rank) f holds queued free (by rw [running]; rfl) pool some
    rw [State.grant_eq]
    exact k.fits le State.paired_local f
  touch holds f h := by
    obtain ⟨cls, k⟩ := State.paired_startsAt (rank := rank) f holds queued free (by rw [running]; rfl) pool some
    rw [State.grant_eq]
    exact k.touch (State.paired_touch h (holds.idle (by rw [free]; exact PortState.noConfusion)))

end

end Sys2Proof.Machine
end

/-! SUPPORT. Reviews, entries to FREE and fault ends, as the invariants of the services and of the touch router see them
(R65, R66, R84 to R86, R91 to R93, R120, R121). -/
section
namespace Sys2Proof.Machine

section
variable {s t u : State} {p r : Port} {g h : Slot} {low : Port → Nat} {q : Pool} {ranks : List (Slot × Nat)} {c : Option Condition}

/-! ### Members of a pool (R60) -/

theorem State.freePort_member (found : s.freePort q = some p) : (s.portConfig p).cls ≠ .none ∧ (s.portConfig p).pool = q :=
  State.mem_members.mp (List.mem_of_find?_eq_some found)

/-- The hold that a preemption ends is at a panel. -/
theorem State.preemption_panel (pools : s.poolsFit) (sweeps : sweeping s.ctl.engine = true) (e : s.preemption q ranks g = .endHold p h) :
    (s.portConfig p).cls = .panel := by
  unfold State.preemption at e
  split at e
  · split at e
    · next cand =>
      split at e
      · split at e
        · next cls _ =>
          cases e
          obtain ⟨some, pool⟩ := State.mem_members.mp (List.mem_filter.mp (firstBest_mem _ cand)).1
          rw [← pools.poolClass sweeps some, pool]
          exact cls
        · cases e
        · cases e
      · cases e
    · cases e
  · cases e

/-! ### A review (R65, R66) -/

theorem State.latchQueue_serves (s : State) (q : Pool) : Serves s (s.latchAll (s.queue q)) :=
  .of_structured (s.latchQueue_sound q) fun holds => (State.latchAll_calm _ fun g mem => (((holds.1 q).2 g).mp mem).1).serves

theorem State.reviewRounds_serves (ranks : List (Slot × Nat)) : ∀ (n : Nat) (excluded : List Slot) (s : State), s.ctl.engine = .running →
    s.structured → Serves s (State.reviewRounds q ranks n excluded s)
  | 0, _, s, _, _ => .refl s
  | n + 1, excluded, s, running, holds => by
    refine Serves.of_fits (State.reviewRounds_sound ranks (n + 1) excluded s running holds) fun _ f => ?_
    have sweeps : sweeping s.ctl.engine = true := by rw [running]; rfl
    unfold State.reviewRounds
    split
    · exact .refl s
    · next g best =>
      obtain ⟨queued, pool⟩ := ((holds.1 q).2 g).mp (State.bestWaiting_mem best)
      split
      · next p found =>
        obtain ⟨some, member⟩ := State.freePort_member found
        have granted := State.grant_serves queued (State.freePort_free found) running (member.trans pool.symm) some (rankIn ranks g)
        exact granted.trans
          (State.reviewRounds_serves ranks n excluded _ (by rw [State.grant_ctl]; exact running) (granted.sound.structured holds))
      · split
        · exact .refl s
        · exact (s.askYield_calm _).serves
        · next p h ends =>
          have held := State.holdPreempted_serves (s := s) (State.preemption_endHold ends).2 (by rw [running]; exact Engine.noConfusion)
            (State.preemption_panel f.pools sweeps ends)
          have aged : Serves (s.holdPreempted p h) ((s.holdPreempted p h).latchAged h) :=
            (State.latchAged_calm State.holdPreempted_queued).serves
          exact (held.trans aged).trans (State.reviewRounds_serves ranks n _ _
            (by rw [State.latchAged_ctl, State.holdPreempted_ctl]; exact running) ((held.trans aged).sound.structured holds))

theorem State.review_serves (s : State) (q : Pool) : Serves s (s.review q) := by
  refine Serves.of_structured (s.review_sound q) fun holds => ?_
  have latched := s.latchQueue_serves q
  unfold State.review
  split
  · next running =>
    exact latched.trans (State.reviewRounds_serves _ _ _ _ (by rw [State.latchAll_rest]; exact running) (latched.sound.structured holds))
  · exact latched
  · exact .refl s
  · exact .refl s
  · exact .refl s

theorem State.reviewAll_serves (s : State) : Serves s s.reviewAll := Serves.foldl State.review_serves _ s

theorem State.reviewFreed_serves (s : State) (p : Port) : Serves s (s.reviewFreed p) := .ite (fun _ => s.review_serves _) fun _ => .refl s

theorem State.reviewEnded_serves (s before : State) (p : Port) : Serves s (s.reviewEnded before p) :=
  .ite (fun _ => s.reviewFreed_serves p) fun _ => .refl s

/-! ### A port that serves nothing (R120, R121) -/

theorem State.fits.restingAt (f : s.fits low) (rests : (s.port p).state ≠ .serving) : (s.port p).resting :=
  (f.ports p).2.resolve_right fun ⟨_, _, e⟩ => rests e.state

theorem State.mirrorPort_calm (s : State) (p : Port) : Calm s (s.mirrorPort p) := .of_eq rfl rfl rfl rfl rfl rfl rfl rfl

/-- A change of the state of a port that serves nothing. -/
theorem State.updatePort_serves {f : PortRecord → PortRecord} (sound : Sound s (s.updatePort p f)) (before : (s.port p).state ≠ .serving)
    (after : (f (s.port p)).state ≠ .serving) (job : (f (s.port p)).job = (s.port p).job) (grant : (f (s.port p)).grantNumber = (s.port p).grantNumber)
    (print : (f (s.port p)).print = (s.port p).print) (scan : (f (s.port p)).scan = (s.port p).scan) (hold : (f (s.port p)).hold = (s.port p).hold)
    (frames : ∀ n, ((f (s.port p)).framesOf n).Sublist ((s.port p).framesOf n))
    (contacts : (f (s.port p)).contacts = (s.port p).contacts) : Serves s (s.updatePort p f) where
  sound := sound
  fits low _ _ k := by
    have change : Local s (s.modifyPort p f) [] [p] := s.modifyPort_local p f
    refine ((s.modifyPort p f).mirrorPort_calm p).still.unseen (change.fits k (fun _ m => absurd m List.not_mem_nil) fun r m => ?_)
    obtain rfl := List.mem_singleton.mp m
    unfold State.portFits
    rw [State.port_modifyPort]
    obtain ⟨-, none, noPrint, noScan, noHold⟩ := k.restingAt before
    exact ⟨(k.ports r).1.less grant fun n _ => frames n, .inl ⟨after, job.trans none, print.trans noPrint, scan.trans noScan, hold.trans noHold⟩⟩
  touch _ _ := by
    have routed : Routed s (s.modifyPort p f) := State.setPort_routed contacts job
    exact (routed.trans ((s.modifyPort p f).mirrorPort_calm p).routed).touch

theorem State.enterFree_serves (rests : (s.port p).state ≠ .serving) : Serves s (s.enterFree p) := by
  have quiet : Quiet s (s.updatePort p fun x => { x with state := .free, condition := .ready, probeTimer := none }) :=
    s.updatePort_quiet p ⟨rfl, fun k => (by cases k), fun k => absurd k rests⟩
  have free : Serves s (s.updatePort p fun x => { x with state := .free, condition := .ready, probeTimer := none }) :=
    State.updatePort_serves quiet.sound rests PortState.noConfusion rfl rfl rfl rfl rfl (fun _ => .refl _) rfl
  exact (free.trans (State.setNotice_calm _ _).serves).trans (State.review_serves _ _)

/-! ### Fault ends (R91 to R93) -/

/-- A service that a fault ends, also where the port's transmitter has changed. -/
theorem State.faultEnd_transmit_serves (job : (s.port p).job = some g) (f : Transmitter → Transmitter) :
    Serves s ((s.transmit p f).faultEnd p g c) := by
  unfold State.faultEnd
  dsimp only
  split
  · exact State.faultFinished_serves job f
  · next again =>
    have engine : s.ctl.engine ≠ .draining := State.faultFinish_draining (s := s.transmit p f) again
    exact (State.faultedAgain_serves job engine f).trans (State.review_serves _ _)

theorem State.transmit_id (s : State) (p : Port) : s.transmit p id = s := State.setPort_self s p

theorem State.faultEnd_serves (job : (s.port p).job = some g) : Serves s (s.faultEnd p g c) := by
  have h := State.faultEnd_transmit_serves (c := c) job id
  rwa [State.transmit_id] at h

end

end Sys2Proof.Machine
end

/-! SUPPORT. Acceptances, examinations, station states and visits, as the invariants of the services and of the touch router see them
(R26 to R38, R44 to R46). -/
section
namespace Sys2Proof.Machine

section
variable {s t u : State} {p r : Port} {g h : Slot} {low : Port → Nat} {q : Pool}

/-! ### Acceptance (R35) -/

theorem State.accept_serves (fresh : (s.slot g).state = .empty ∨ (s.slot g).state = .posted) (running : s.ctl.engine = .running) :
    Serves s (s.accept g) := by
  unfold State.accept
  dsimp only
  split
  · exact State.refuse_serves fresh running _
  · next valid passes =>
    refine .ite (fun _ => State.cancelBeforeAccept_serves fresh running _ _) fun _ => ?_
    rw [State.enqueue_eq]
    exact (State.enqueued_serves fresh running (readRequest_deadline _ _) passes).trans (State.review_serves _ _)

theorem State.acceptIfRunning_serves (fresh : (s.slot g).state = .empty ∨ (s.slot g).state = .posted) : Serves s (s.acceptIfRunning g) :=
  .ite (fun running => State.accept_serves fresh running) fun _ => .refl s

/-! ### Examinations (R26 to R29, R36 to R38) -/

/-- The port of a job of a class, where the slot is SERVING. -/
theorem State.fits.portOf (f : s.fits low) (holds : s.structured) {cls : JobClass} (serving : (s.slot g).state = .serving)
    (port : (s.job g).port = some p) (ofClass : (s.job g).cls = some cls) : (s.port p).job = some g ∧ (s.portConfig p).cls = servingClass cls := by
  have job := holds.servedAt serving port
  obtain ⟨cls', e⟩ := f.at_job job
  obtain rfl : cls' = cls := Option.some.inj (e.ofClass.symm.trans ofClass)
  exact ⟨job, e.port⟩

theorem State.cancelServing_serves (serving : (s.slot g).state = .serving) : Serves s (s.cancelServing g) := by
  refine Serves.of_fits (State.cancelServing_sound serving) fun holds f => ?_
  unfold State.cancelServing
  split
  · exact State.cancelLatch_serves serving
  · next p port ofClass =>
    obtain ⟨job, cls⟩ := f.portOf holds serving port ofClass
    exact (State.endScan_serves job (by rw [cls]; exact PortClass.noConfusion)).trans (State.reviewFreed_serves _ _)
  · next p port _ => exact (State.holdCancelled_serves (holds.servedAt serving port)).trans (State.reviewFreed_serves _ _)
  · exact .refl s

theorem State.examine_serves (s : State) (g : Slot) (engine : s.ctl.engine ≠ .starting) : Serves s (s.examine g) := by
  unfold State.examine
  split
  · exact .refl s
  · next e _ => exact State.acceptIfRunning_serves (.inl e)
  · next e _ => exact State.acceptIfRunning_serves (.inr e)
  · next e _ => exact .ite (fun _ => State.finishQueued_serves e) fun _ => .refl s
  · next e _ => exact .ite (fun _ => State.cancelServing_serves e) fun _ => .refl s
  · exact .refl s
  · next e _ => exact State.release_serves e engine
  · next e _ => exact (State.release_serves e engine).trans (State.acceptIfRunning_serves (.inl State.release_state))
  · exact (s.handoverFault_calm g).serves

/-! ### Station states (R44 to R46) -/

theorem State.closeSlot_serves (s : State) (g : Slot) : Serves s (s.closeSlot g) := by
  refine Serves.of_fits (s.closeSlot_sound g) fun holds f => ?_
  unfold State.closeSlot
  split
  · next e => exact State.finishQueued_serves e
  · next serving =>
    split
    · exact State.closeLatch_serves serving
    · next p port ofClass =>
      obtain ⟨job, cls⟩ := f.portOf holds serving port ofClass
      exact State.endScan_serves job (by rw [cls]; exact PortClass.noConfusion)
    · next p port _ => exact State.holdClosed_serves (holds.servedAt serving port)
    · exact .refl s
  · exact .refl s
  · exact .refl s
  · exact .refl s

theorem State.closeStation_serves (s : State) (st : Station) : Serves s (s.closeStation st) :=
  ((Serves.foldl State.closeSlot_serves _ s).trans (State.closeTouch_serves _ st)).trans (Serves.foldl (fun t _ => t.review_serves _) _ _)

theorem State.reopenStation_serves (s : State) (st : Station) : Serves s (s.reopenStation st) :=
  Serves.foldl (fun t q => .ite (fun _ => t.review_serves q) fun _ => .refl t) _ s

theorem State.changeStation_serves (s : State) (st : Station) (before after : StationState) : Serves s (s.changeStation st before after) := by
  unfold State.changeStation
  split
  · exact s.closeStation_serves st
  · exact s.closeStation_serves st
  · exact s.reopenStation_serves st
  all_goals exact .refl s

theorem State.makeVisit_serves (s : State) (st : Station) (engine : s.ctl.engine ≠ .starting) : Serves s (s.makeVisit st) := by
  have sampled : Calm s (s.setControl (beginVisit s.mem st)) := State.setControl_calm rfl rfl rfl rfl
  have examined : ∀ (l : List Slot) (t : State), t.ctl.engine ≠ .starting → Serves t (l.foldl State.examine t) := by
    intro l
    induction l with
    | nil => exact fun t _ => .refl t
    | cons g rest ih =>
      exact fun t standing => (t.examine_serves g standing).trans (ih _ (by rw [(t.examine_tame g).ctl]; exact standing))
  unfold State.makeVisit
  dsimp only
  refine sampled.serves.trans ((State.changeStation_serves _ _ _ _).trans (examined _ _ ?_))
  rw [(State.changeStation_tame _ _ _ _).ctl]
  exact engine

end

end Sys2Proof.Machine
end

/-! SUPPORT. Frames that are completed, and what an ACK tells the service, as the invariants of the services and of the touch router see
them (R106 to R109, R128, R151, R157). -/
section
namespace Sys2Proof.Machine

section
variable {s t u : State} {p r : Port} {g h : Slot} {low : Port → Nat} {n : Nat} {x : PortRecord} {j : JobRecord} {clock : Stamp} {cls : JobClass}
  {y : Transmitter} {o : Outstanding} {owner : FrameOwner} {f : Offered} {frame : AnswerFrame} {rest : List AnswerFrame}

/-! ### The frames of a transmitter after a completed one -/

theorem awaitedFrame_some (h : awaitedFrame y = some f) : ∃ o, y.outstanding = some o ∧ o.offered = f := by
  unfold awaitedFrame at h
  split at h
  · next o out =>
    split at h
    · exact ⟨o, out, Option.some.inj h⟩
    · cases h
  · cases h

theorem ackAnswers_awaited (h : ackAnswers y = some f) : awaitedFrame y = some f := by
  unfold ackAnswers at h
  split at h
  · next e =>
    split at h
    · cases h
    · rw [e]
      exact h
  · cases h

theorem completeFrame_own (out : y.outstanding = some o) (own : o.offered.owner = owner) :
    y.framesOf owner = o.offered.frame :: (completeFrame y).framesOf owner := by
  show y.places.filterMap _ = _ :: (completeFrame y).places.filterMap _
  rw [completeFrame_places]
  unfold Transmitter.places
  rw [out]
  simp [own]

theorem completeFrame_foreign (out : y.outstanding = some o) (foreign : o.offered.owner ≠ owner) :
    (completeFrame y).framesOf owner = y.framesOf owner := by
  show (completeFrame y).places.filterMap _ = y.places.filterMap _
  rw [completeFrame_places]
  unfold Transmitter.places
  rw [out]
  simp [foreign]

/-! ### Frames of others -/

/-- A change of the transmitter that leaves the frames of the current service. -/
theorem PortRecord.serves.reframe (h : x.serves j clock n cls) (same : ({ x with transmitter := y } : PortRecord).frames = x.frames) :
    ({ x with transmitter := y } : PortRecord).serves j clock n cls := by
  cases cls with
  | print =>
    obtain ⟨phase, scan, hold, placed, fed, unfed⟩ := h
    exact ⟨phase, scan, hold, ⟨placed.reaches, placed.entry, placed.sheet⟩, fun k => by rw [same]; exact fed k, fun k => by rw [same]; exact unfed k⟩
  | scan =>
    obtain ⟨phase, print, hold, storing, starved, opening, closing, others⟩ := h
    exact ⟨phase, print, hold, storing.rephase rfl rfl rfl, starved, fun k => by rw [same]; exact opening k, fun k => by rw [same]; exact closing k,
      fun k l => by rw [same]; exact others k l⟩
  | hold =>
    obtain ⟨phase, print, scan, timer, frames⟩ := h
    exact ⟨phase, print, scan, timer, by rw [same]; exact frames⟩

/-- The frames of a service that has ended go, those of the current one stay. -/
theorem State.transmit_foreign {f : Transmitter → Transmitter}
    (same : (s.port p).state = .serving → (f (s.port p).transmitter).framesOf (.service (s.port p).grantNumber) = (s.port p).frames)
    (less : (f (s.port p).transmitter).places.Sublist (s.port p).transmitter.places) : Local s (s.transmit p f) [] [] where
  work := rfl
  clock := rfl
  pools := id
  slots _ _ := id
  ports r _ n fits := by
    by_cases e : r = p
    · subst e
      have port := s.transmit_port r f
      refine ⟨State.transmit_unoffered fits.1 less, fits.2.imp (fun rest => ?_) fun ⟨g, cls, e⟩ => ⟨g, cls, ?_⟩⟩ <;> rw [port]
      · exact ⟨rest.state, rest.job, rest.print, rest.scan, rest.hold⟩
      · exact ⟨e.state, e.job, e.ofClass, e.port, e.pool, PortRecord.serves.reframe e.serves (same e.state)⟩
    · exact (s.transmit_local p f).ports r (fun m => e (List.mem_singleton.mp m)) n fits

/-- A frame that is completed is none of the current service. -/
theorem State.completed_serves (out : (s.port p).transmitter.outstanding = some o)
    (foreign : (s.port p).state = .serving → o.offered.owner ≠ .service (s.port p).grantNumber) : Serves s (s.transmit p completeFrame) :=
  ⟨(s.transmit_quiet p _).sound, fun _ _ _ => (State.transmit_foreign (fun k => completeFrame_foreign out (foreign k)) (completeFrame_sublist _)).unseen,
    fun _ _ => (s.transmit_routed p _).touch⟩

/-! ### The frame of the current service (R106) -/

/-- The frame on the line of a service, by class and phase. -/
theorem PortRecord.serves.told (h : x.serves j clock n cls) (frames : x.frames = frame :: rest) : rest = [] ∧
    ((cls = .print ∧ x.print.phase = .feeding ∧ ∃ data, frame = .feed data) ∨
      (cls = .scan ∧ x.scan.phase = .opening ∧ ∃ mode resolution, frame = .openScan mode resolution) ∨
      (cls = .scan ∧ x.scan.phase = .closing ∧ frame = .closeScan)) := by
  cases cls with
  | print =>
    have h : x.printing j := h
    by_cases feeding : x.print.phase = .feeding
    · obtain ⟨data, e⟩ := h.fed feeding
      obtain ⟨rfl, rfl⟩ := List.cons.inj (frames.symm.trans e)
      exact ⟨rfl, .inl ⟨rfl, feeding, data, rfl⟩⟩
    · cases frames.symm.trans (h.unfed feeding)
  | scan =>
    have h : x.scanning j := h
    by_cases opening : x.scan.phase = .opening
    · obtain ⟨mode, resolution, e⟩ := h.opening opening
      obtain ⟨rfl, rfl⟩ := List.cons.inj (frames.symm.trans e)
      exact ⟨rfl, .inr (.inl ⟨rfl, opening, mode, resolution, rfl⟩)⟩
    · by_cases closing : x.scan.phase = .closing
      · obtain ⟨rfl, rfl⟩ := List.cons.inj (frames.symm.trans (h.closing closing))
        exact ⟨rfl, .inr (.inr ⟨rfl, closing, rfl⟩)⟩
      · cases frames.symm.trans (h.others opening closing)
  | hold => cases frames.symm.trans (PortRecord.holding.frames h)

/-! ### The service is told (R109) -/

theorem State.tellService_current (state : (s.port p).state = .serving) (job : (s.port p).job = some g)
    (own : f.owner = .service (s.port p).grantNumber) : s.tellService p f = match f.frame with
      | .feed _ => s.feedAnswered p g
      | .openScan _ _ => s.modifyScan p fun x => { x with phase := .taking }
      | .closeScan => s.finishScan p g .doneShort .truncated none
      | .ask => s := by
  unfold State.tellService
  rw [state, job]
  dsimp only
  rw [if_pos own] <;> rfl

theorem State.tellService_foreign (foreign : (s.port p).state = .serving → f.owner ≠ .service (s.port p).grantNumber) : s.tellService p f = s := by
  unfold State.tellService
  split
  · next state _ => exact if_neg (foreign state)
  · rfl

theorem State.onPort.transmit (k : s.onPort p g cls) (f : Transmitter → Transmitter) : (s.transmit p f).onPort p g cls := by
  have port := s.transmit_port p f
  refine ⟨?_, ?_, k.ofClass, k.port, k.pool, k.ofPool, k.serving, k.sheets, k.left, k.bare, fun r ne => ?_⟩
  · rw [port]
    exact k.state
  · rw [port]
    exact k.job
  · rw [State.transmit, State.port_modifyPort_ne _ ne]
    exact k.alone r ne

/-- A print whose FEED is completed stands at its entry. -/
theorem State.printsOn.answered (h : s.printsOn p g) (done : ((completeFrame (s.port p).transmitter).framesOf (.service (s.port p).grantNumber)) = []) :
    (s.transmit p completeFrame).printsAt p g := by
  obtain ⟨offers, chained, -, scan, hold, placed, -, -⟩ := h
  have port := s.transmit_port p completeFrame
  refine ⟨⟨State.transmit_unoffered offers (completeFrame_sublist _), chained, placed.reaches.bound chained, ?_, ?_, ?_⟩, ?_⟩ <;> rw [port]
  · exact scan
  · exact hold
  · exact done
  · exact ⟨placed.reaches, placed.entry, placed.sheet⟩

theorem State.feedAnswered_serves (job : (s.port p).job = some g) (printer : (s.portConfig p).cls = .printer)
    (done : ((completeFrame (s.port p).transmitter).framesOf (.service (s.port p).grantNumber)) = []) :
    Serves s ((s.transmit p completeFrame).feedAnswered p g) := by
  have sent := s.transmit_routed p completeFrame
  have step := (s.transmit p completeFrame).feedAnswered_step p g
  refine ⟨(s.transmit_quiet p _).sound.trans (step.sound ((sent.jobs p).trans job)), fun low _ holds f => ?_, fun holds f h => ?_⟩
  · obtain ⟨on, k⟩ := f.printsOn holds job printer
    exact (on.answered done).feedAnswered.fits ((s.transmit_local p _).mono (List.nil_subset [g]) (List.Subset.refl _)) f (k.transmit _)
  · obtain ⟨on, -⟩ := f.printsOn holds job printer
    exact (on.answered done).feedAnswered.touch (printer.trans_ne PortClass.noConfusion) (sent.touch h)

/-- A scan that has been opened takes frames. -/
theorem PortRecord.scanning.opened (h : x.scanning j) (opening : x.scan.phase = .opening)
    (done : ({ x with transmitter := y } : PortRecord).frames = []) :
    ({ x with transmitter := y, scan := { x.scan with phase := .taking } } : PortRecord).scanning j where
  phase := ScanPhase.noConfusion
  print := h.print
  hold := h.hold
  storing := h.storing.rephase rfl rfl rfl
  starved := by
    have still : x.scan.starveTimer = none := by
      by_contra some
      cases opening.symm.trans (h.starved.mpr some)
    exact ⟨fun k => (by cases k), fun k => absurd still k⟩
  opening k := by cases k
  closing k := by cases k
  others _ _ := done

theorem State.opened_serves (job : (s.port p).job = some g) (scanner : (s.portConfig p).cls = .scanner) (opening : (s.port p).scan.phase = .opening)
    (done : ((completeFrame (s.port p).transmitter).framesOf (.service (s.port p).grantNumber)) = []) :
    Serves s ((s.transmit p completeFrame).modifyScan p fun x => { x with phase := .taking }) := by
  have port : ((s.transmit p completeFrame).modifyScan p fun x => { x with phase := .taking }).port p = { s.port p with
      transmitter := completeFrame (s.port p).transmitter, scan := { (s.port p).scan with phase := .taking } } := by
    rw [State.modifyScan, State.port_modifyPort, State.transmit_port]
  have taken : Routed (s.transmit p completeFrame) ((s.transmit p completeFrame).modifyScan p fun x => { x with phase := .taking }) :=
    State.setPort_routed rfl rfl
  refine ⟨((s.transmit_quiet p _).trans (State.modifyScan_quiet _ p _)).sound, fun low _ _ f => ?_, fun _ _ => ((s.transmit_routed p _).trans taken).touch⟩
  refine ((s.transmit_local p _).trans (State.modifyPort_local _ p _)).fits f (fun _ m => absurd m List.not_mem_nil) fun r m => ?_
  obtain rfl := List.mem_singleton.mp m
  have e := f.atScan job scanner
  unfold State.portFits
  have offers := State.transmit_unoffered (f := completeFrame) (f.ports r).1 (completeFrame_sublist _)
  rw [State.transmit_port] at offers
  have at_port : ((s.transmit r completeFrame).modifyPort r fun x => { x with scan := { x.scan with phase := .taking } }).port r = _ := port
  rw [at_port]
  exact ⟨offers, .inr ⟨g, .scan, e.state, e.job, e.ofClass, e.port, e.pool, PortRecord.scanning.opened e.serves opening done⟩⟩

theorem State.tellService_serves (answered : ackAnswers (s.port p).transmitter = some f) :
    Serves s ((s.transmit p completeFrame).tellService p f) := by
  obtain ⟨o, out, rfl⟩ := awaitedFrame_some (ackAnswers_awaited answered)
  refine Serves.of_fits ((s.transmit_quiet p _).sound.trans (State.tellService_sound _ p _)) fun holds f => ?_
  have port := s.transmit_port p completeFrame
  by_cases current : (s.port p).state = .serving ∧ o.offered.owner = .service (s.port p).grantNumber
  · obtain ⟨state, own⟩ := current
    obtain ⟨g, job⟩ := Option.ne_none_iff_exists'.mp ((holds.2.2.1.1 p).mp state)
    obtain ⟨cls, e⟩ := f.at_job job
    obtain ⟨done, told⟩ := e.serves.told (completeFrame_own out own)
    rw [State.tellService_current (g := g) (by rw [port]; exact state) (by rw [port]; exact job) (by rw [port]; exact own)]
    have ofPort := e.port
    rcases told with ⟨rfl, -, data, frame⟩ | ⟨rfl, opening, mode, resolution, frame⟩ | ⟨rfl, -, frame⟩ <;> rw [frame]
    · exact State.feedAnswered_serves job ofPort done
    · exact State.opened_serves job ofPort opening done
    · exact (State.transmit_transmits (completeFrame_sublist _)).finishScan
        ((s.transmit_quiet p _).sound.trans (State.finishScan_sound (((s.transmit_routed p _).jobs p).trans job)))
        (by rw [ofPort]; exact PortClass.noConfusion)
  · have foreign (state : (s.port p).state = .serving) : o.offered.owner ≠ .service (s.port p).grantNumber := fun own => current ⟨state, own⟩
    rw [State.tellService_foreign (by rw [port]; exact foreign)]
    exact State.completed_serves out foreign

theorem State.ackTaken_serves (s : State) (p : Port) : Serves s (s.ackTaken p) := by
  unfold State.ackTaken
  split
  · next answered => exact (State.tellService_serves answered).trans (State.reviewEnded_serves _ s p)
  · exact .refl s

end

end Sys2Proof.Machine
end

/-! SUPPORT. What arrives on a line and the expiries of timers, as the invariants of the services and of the touch router see them
(R98 to R110, R115 to R119, R128 to R131, R152 to R159). -/
section
namespace Sys2Proof.Machine

section
variable {s t u : State} {p r : Port} {g h : Slot} {low : Port → Nat} {c : Option Condition} {o : Outstanding}

/-! ### A send that fails (R110) -/

/-- The entry to FAULTED of a port that serves nothing, also where its transmitter has changed. -/
theorem State.enterFaulted_transmit_serves (rests : (s.port p).state ≠ .serving) (f : Transmitter → Transmitter) :
    Serves s ((s.transmit p f).enterFaulted p c) where
  sound := by
    refine (s.transmit_quiet p f).sound.trans (State.enterFaulted_sound ?_)
    rw [State.transmit_port]
    exact rests
  fits _ _ _ fits := (s.transmit_local p f).enterFaulted fits fun _ m => absurd m List.not_mem_nil
  touch _ _ h := ((s.transmit_routed p f).touch h).enterFaulted p c

/-- A port that serves nothing may lose frames. -/
theorem State.transmit_resting_serves {f : Transmitter → Transmitter} (rests : (s.port p).state ≠ .serving)
    (less : (f (s.port p).transmitter).places.Sublist (s.port p).transmitter.places) : Serves s (s.transmit p f) :=
  ⟨(s.transmit_quiet p f).sound, fun _ _ _ => (State.transmit_foreign (fun k => absurd k rests) less).unseen,
    fun _ _ => (s.transmit_routed p f).touch⟩

theorem State.abandoned_serves (s : State) (p : Port) (c : Condition) : Serves s ((s.transmit p abandonOutstanding).faultAt p c) := by
  have state : ((s.transmit p abandonOutstanding).port p).state = (s.port p).state := by rw [State.transmit_port]
  have job : ((s.transmit p abandonOutstanding).port p).job = (s.port p).job := by rw [State.transmit_port]
  have noted (t : State) : Serves t (t.notePort p fun x => { x with condition := c }) :=
    (t.notePort_calm p (.of_eq rfl rfl rfl rfl rfl rfl rfl) rfl).serves
  unfold State.faultAt
  rw [state, job]
  split
  · next e => exact State.enterFaulted_transmit_serves (by rw [e]; exact PortState.noConfusion) _
  · next e => exact State.enterFaulted_transmit_serves (by rw [e]; exact PortState.noConfusion) _
  · next serving =>
    refine Serves.of_structured ?_ fun holds => ?_
    · have sound := (s.transmit_quiet p abandonOutstanding).sound.trans (State.faultAt_sound _ p c)
      unfold State.faultAt at sound
      rw [state, serving, job] at sound
      exact sound
    · split
      · next g at_p => exact State.faultEnd_transmit_serves at_p _
      · next gone => exact absurd gone ((holds.2.2.1.1 p).mp serving)
  · next e =>
    exact (State.transmit_resting_serves (by rw [e]; exact PortState.noConfusion) (abandonOutstanding_sublist _)).trans (noted _)
  · next e => exact State.transmit_resting_serves (by rw [e]; exact PortState.noConfusion) (abandonOutstanding_sublist _)

theorem State.sendFailed_serves (s : State) (p : Port) (c : Condition) : Serves s (s.sendFailed p c) := by
  unfold State.sendFailed
  split
  · next o out =>
    have counted := (s.updateLineCounters_calm p fun x => { x with resend := saturate max32 x.resend 1 }).serves
    have same : (((s.updateLineCounters p fun x => { x with resend := saturate max32 x.resend 1 }).port p).transmitter).outstanding = some o := by
      have port := congrArg PortRecord.transmitter (s.port_modifyPort p
        fun x => { x with counters := { (s.port p).counters with resend := saturate max32 (s.port p).counters.resend 1 } })
      exact (congrArg Transmitter.outstanding port).trans out
    refine .ite (fun _ => counted.trans (State.transmit_calm (resendFrame_places same)).serves) fun _ => ?_
    exact .ite (fun _ => s.abandoned_serves p c) fun _ => (s.abandoned_serves p c).trans (State.transmit_calm (moveUp_places _)).serves
  · exact .refl s

theorem State.nakTaken_serves (s : State) (p : Port) : Serves s (s.nakTaken p) := by
  unfold State.nakTaken
  split
  · exact s.sendFailed_serves p _
  · exact .refl s

/-! ### STATE and the other frames (R105, R115 to R119) -/

/-- An ASK is no frame of a service. -/
theorem State.fits.ask_foreign (f : s.fits low) (holds : s.structured) (out : (s.port p).transmitter.outstanding = some o)
    (ask : o.offered.frame = .ask) (serving : (s.port p).state = .serving) : o.offered.owner ≠ .service (s.port p).grantNumber := fun own => by
  obtain ⟨g, job⟩ := Option.ne_none_iff_exists'.mp ((holds.2.2.1.1 p).mp serving)
  obtain ⟨cls, e⟩ := f.at_job job
  obtain ⟨-, told⟩ := e.serves.told (completeFrame_own out own)
  rw [ask] at told
  rcases told with ⟨-, -, data, frame⟩ | ⟨-, -, mode, resolution, frame⟩ | ⟨-, -, frame⟩ <;> cases frame

theorem State.stateAnswers_serves (s : State) (p : Port) (c : Condition) : Serves s (s.stateAnswers p c) := by
  refine Serves.of_fits (s.stateAnswers_quiet p c).sound fun holds f => ?_
  unfold State.stateAnswers
  split
  · next a awaited =>
    obtain ⟨o, out, rfl⟩ := awaitedFrame_some awaited
    exact .ite (fun ask => State.completed_serves out (f.ask_foreign holds out ask)) fun _ => .refl s
  · refine .ite (fun overtakes => ?_) fun _ => .refl s
    unfold State.readyOvertakes at overtakes
    simp only [Bool.and_eq_true, beq_iff_eq] at overtakes
    exact State.transmit_resting_serves (by rw [overtakes.1.2]; exact PortState.noConfusion) (completeUnsent_sublist _)

theorem State.stateActs_serves (s : State) (p : Port) (c : Condition) : Serves s (s.stateActs p c) := by
  unfold State.stateActs
  split
  · exact .refl s
  · next e =>
    have rests : (s.port p).state ≠ .serving := by rw [e]; exact PortState.noConfusion
    exact .ite (fun _ => State.enterFree_serves rests) fun _ => State.enterFaulted_serves rests
  · next e => exact .ite (fun _ => .refl s) fun _ => State.enterFaulted_serves (by rw [e]; exact PortState.noConfusion)
  · split
    · next g job =>
      refine .ite (fun _ => .ite (fun printer => ?_) fun _ => .refl s) fun _ => State.faultEnd_serves job
      exact (State.printCondition_serves job printer c).trans (State.reviewEnded_serves _ s p)
    · exact .refl s
  · next e => exact .ite (fun _ => State.enterFree_serves (by rw [e]; exact PortState.noConfusion)) fun _ => .refl s

theorem State.stateTaken_serves (s : State) (p : Port) (c : Condition) (capability : Byte) : Serves s (s.stateTaken p c capability) :=
  ((s.stateAnswers_serves p c).trans (State.notePort_calm _ p (.of_eq rfl rfl rfl rfl rfl rfl rfl) rfl).serves).trans (State.stateActs_serves _ p c)

theorem State.servedJob_cls {cls : PortClass} (h : s.servedJob p cls = some g) : (s.portConfig p).cls = cls := by
  unfold State.servedJob at h
  split at h
  · next both => exact both.2
  · cases h

theorem State.dispatch_serves (s : State) (p : Port) (f : PeripheralFrame) : Serves s (s.dispatch p f) := by
  unfold State.dispatch
  split
  · exact s.ackTaken_serves p
  · exact s.nakTaken_serves p
  · split
    · exact s.stateTaken_serves p _ _
    · exact .refl s
  · split
    · next g job =>
      exact (State.sheetTaken_serves (State.servedJob_job job) (State.servedJob_cls job)).trans (State.reviewEnded_serves _ s p)
    · exact .refl s
  · split
    · next g job => exact State.imageTaken_serves (State.servedJob_job job) (State.servedJob_cls job) _
    · exact .refl s
  · split
    · next g job =>
      exact (State.imageEndTaken_serves (State.servedJob_job job) (by rw [State.servedJob_cls job]; exact PortClass.noConfusion) _).trans
        (State.reviewEnded_serves _ s p)
    · exact .refl s
  · exact s.contactTaken_serves p _

/-! ### The receiver (R101 to R103) -/

theorem State.rejectCheck_calm (s : State) (p : Port) (kind : Byte) : Calm s (s.rejectCheck p kind) :=
  .ite (fun _ => (s.updateLineCounters_calm p _).trans (State.reply_calm _ p _)) fun _ => s.updateLineCounters_calm p _

theorem State.frameComplete_serves (s : State) (p : Port) (kind : Byte) (payload : List Byte) (check : Byte) :
    Serves s (s.frameComplete p kind payload check) := by
  have hunting := s.setReceiver_calm p .hunting
  unfold State.frameComplete
  refine .ite (fun _ => (hunting.trans (State.rejectCheck_calm _ p kind)).serves) fun _ => ?_
  split
  · exact hunting.serves.trans (State.dispatch_serves _ p _)
  · exact (hunting.trans (State.updateLineCounters_calm _ p _)).serves

theorem State.frameCharacter_serves (s : State) (p : Port) (b : Byte) : Serves s (s.frameCharacter p b) := by
  unfold State.frameCharacter
  split
  · exact .refl s
  · exact .refl s
  · exact (Calm.ite (fun _ => (s.setReceiver_calm p _).trans (State.updateLineCounters_calm _ p _))
      fun _ => .ite (fun _ => s.setReceiver_calm p _) fun _ => s.setReceiver_calm p _).serves
  · exact (Calm.ite (fun _ => s.setReceiver_calm p _) fun _ => s.setReceiver_calm p _).serves
  · exact s.frameComplete_serves p _ _ _

theorem State.receive_serves (s : State) (p : Port) (c : Character) : Serves s (s.receive p c) := by
  unfold State.receive
  split
  · exact ((s.setReceiver_calm p _).trans (State.updateLineCounters_calm _ p _)).serves
  · exact ((s.setReceiver_calm p _).trans (State.updateLineCounters_calm _ p _)).serves
  · refine .ite (fun _ => ?_) fun _ => s.frameCharacter_serves p _
    split
    · exact (s.setReceiver_calm p _).serves
    · exact (s.setReceiver_calm p _).serves
    · exact ((s.updateLineCounters_calm p _).trans (State.setReceiver_calm _ p _)).serves

theorem State.characterEvent_serves (s : State) (p : Port) (c : LineCharacter) : Serves s (s.characterEvent p c) := by
  have wait : Serves s (s.endWait p) := (Calm.ite (fun _ => s.setReceiver_calm p _) fun _ => .refl s).serves
  unfold State.characterEvent
  refine .ite (fun _ => ?_) fun _ => .refl s
  split
  · next ch _ =>
    have received := State.receive_serves (s.endWait p) p ch
    exact wait.trans (.ite (fun _ => received.trans (State.setReceiver_calm _ p _).serves) fun _ => received)
  · exact wait

theorem State.frameEvent_serves (s : State) (p : Port) (f : PeripheralFrame) : Serves s (s.frameEvent p f) :=
  .ite (fun _ => .ite (fun _ => (s.setReceiver_calm p _).serves.trans (State.dispatch_serves _ p f))
    fun _ => ((s.setReceiver_calm p _).trans (State.updateLineCounters_calm _ p _)).serves) fun _ => .refl s

theorem State.rejectEvent_serves (s : State) (p : Port) (kind : Byte) (payload : List Byte) (check : Byte) :
    Serves s (s.rejectEvent p kind payload check) := by
  have hunting := s.setReceiver_calm p .hunting
  unfold State.rejectEvent
  refine .ite (fun _ => .ite (fun _ => (hunting.trans (State.rejectCheck_calm _ p kind)).serves) fun _ => ?_) fun _ => .refl s
  split
  · exact .refl s
  · exact (hunting.trans (State.updateLineCounters_calm _ p _)).serves

theorem portSent_served (clock : Stamp) (timeout : Nat) (x : PortRecord) : x.served (portSent clock timeout x) ∧
    (portSent clock timeout x).contacts = x.contacts := by
  unfold portSent
  split
  · exact ⟨.refl x, rfl⟩
  · exact ⟨⟨rfl, rfl, rfl, rfl, rfl, rfl, fun _ => Transmitter.framesOf_congr (frameDone_places _ _ _) _⟩, rfl⟩

theorem State.sentEvent_calm (s : State) (p : Port) : Calm s (s.sentEvent p) :=
  State.modifyPort_calm (portSent_served _ _ _).1 (portSent_served _ _ _).2

/-! ### Expiries (R51, R58, R109, R119, R131, R155, R177) -/

theorem State.responseEvent_serves (s : State) (p : Port) : Serves s (s.responseEvent p) :=
  .ite (fun _ => (State.transmit_calm rfl).serves.trans (State.sendFailed_serves _ p _)) fun _ => .refl s

theorem State.offerAsk_serves (rests : (s.port p).state ≠ .serving) : Serves s (s.offerAsk p) where
  sound := (s.offerAsk_quiet p).sound
  fits low _ _ f := by
    have resting := f.restingAt rests
    exact (State.transmit_resting resting fun n => offer_other FrameOwner.noConfusion _).unseen f
  touch _ _ := (s.transmit_routed p _).touch

theorem State.probeEvent_serves (s : State) (p : Port) : Serves s (s.probeEvent p) := by
  have restarted : Calm s (s.modifyPort p fun x =>
      { x with probeTimer := startTimer s.ctl.clock ((s.portConfig p).probeInterval * 1000) }) :=
    State.modifyPort_calm (.of_eq rfl rfl rfl rfl rfl rfl rfl) rfl
  refine .ite (fun faulted => .ite (fun _ => restarted.serves.trans (State.offerAsk_serves ?_)) fun _ => restarted.serves) fun _ => .refl s
  rw [State.port_modifyPort]
  show (s.port p).state ≠ _
  rw [faulted.2]
  exact PortState.noConfusion

theorem State.sheetEvent_serves (s : State) (p : Port) : Serves s (s.sheetEvent p) := by
  unfold State.sheetEvent
  refine .ite (fun _ => ?_) fun _ => .refl s
  split
  · next g job => exact State.faultEnd_serves (State.servedJob_job job)
  · exact .refl s

theorem State.starveEvent_serves (s : State) (p : Port) : Serves s (s.starveEvent p) := by
  unfold State.starveEvent
  refine .ite (fun _ => ?_) fun _ => .refl s
  split
  · next g job =>
    exact (State.starveOut_serves (State.servedJob_job job) (by rw [State.servedJob_cls job]; exact PortClass.noConfusion)).trans
      (State.reviewFreed_serves _ p)
  · exact .refl s

theorem State.holdEvent_serves (s : State) (p : Port) : Serves s (s.holdEvent p) := by
  unfold State.holdEvent
  refine .ite (fun _ => ?_) fun _ => .refl s
  split
  · next g job => exact (State.holdExpired_serves (State.servedJob_job job)).trans (State.reviewFreed_serves _ p)
  · exact .refl s

theorem State.decayEvent_serves (s : State) : Serves s s.decayEvent := by
  refine .ite (fun _ => ?_) fun _ => .refl s
  have restarted : Calm s (s.setControl fun c => { c with decayTimer := startTimer c.clock (c.work.decayPeriod * 1000) }) :=
    State.setControl_calm rfl rfl rfl rfl
  exact (restarted.trans (Calm.foldl (fun t st => t.halveUsage_calm st) _ _)).serves.trans (State.reviewAll_serves _)

theorem startSweepIfDue_work (c : Control) : (startSweepIfDue c).work = c.work := by
  unfold startSweepIfDue beginSweep
  split
  · split <;> rfl
  · rfl

theorem State.startSweepIfDue_calm (s : State) : Calm s (s.setControl startSweepIfDue) :=
  State.setControl_calm (startSweepIfDue_work _) (startSweepIfDue_engine _).1 (startSweepIfDue_engine _).2.1 (startSweepIfDue_clock _)

theorem expireSweepTimer_work (c : Control) : (expireSweepTimer c).work = c.work := by
  unfold expireSweepTimer
  split
  · rfl
  · exact startSweepIfDue_work _

theorem State.sweepTimerEvent_calm (s : State) : Calm s s.sweepTimerEvent :=
  .ite (fun _ => State.setControl_calm (expireSweepTimer_work _) (expireSweepTimer_engine _).1 (expireSweepTimer_engine _).2.1
    (expireSweepTimer_clock _)) fun _ => .refl s

theorem endSweep_work (w : Sweep) (c : Control) : (endSweep w c).work = c.work := by
  unfold endSweep
  split <;> rfl

theorem State.closeSweep_serves (s : State) (w : Sweep) : Serves s (s.closeSweep w) := by
  have ended (t : State) : Calm t (t.setControl (endSweep w)) :=
    State.setControl_calm (endSweep_work w _) (endSweep_engine w _).1 (endSweep_engine w _).2.1 (endSweep_clock w _)
  exact ((s.sampleAllZones_calm.serves.trans (State.spliceRefill_serves _)).trans (State.reviewAll_serves _)).trans (ended _).serves

end

end Sys2Proof.Machine
end

/-! SUPPORT. The end of an event and a STOP, as the invariants of the services and of the touch router see them (R7, R19, R20, R174). -/
section
namespace Sys2Proof.Machine

section
variable {s t u : State} {p r : Port} {g h : Slot} {low : Port → Nat} {e : Engine}

/-! ### The entry to STOPPED (R20) -/

theorem State.fits.resting_all (f : s.fits low) (idle : s.anyServing = false) (p : Port) : (s.port p).resting :=
  f.restingAt ((State.anyServing_eq_false_iff s).mp idle p)

theorem State.enterStopped_fits (f : s.fits low) (idle : s.anyServing = false) : s.enterStopped.fits low where
  pools := by
    unfold State.poolsFit State.portConfig
    rw [State.enterStopped_ctl]
    exact fun k => f.pools (k.imp (fun e => (by cases e)) id)
  slots g := (f.slots g).congr (by rw [State.enterStopped_eq]; rfl) (by rw [State.enterStopped_ctl]; rfl)
  ports p := by
    have rest := f.resting_all idle p
    unfold State.portFits
    rw [State.enterStopped_port]
    exact ⟨fun _ _ => rfl, .inl ⟨PortState.noConfusion, rest.job, rest.print, rest.scan, rest.hold⟩⟩

/-- Where no contact is left, the touch router's law is that of its records. -/
theorem State.touchHolds.emptied (h : s.touchHolds) (mailboxes : t.mailboxes = s.mailboxes) (empty : ∀ p i, t.contact p i = .none) :
    t.touchHolds := by
  have box (st : Station) (r : Fin 4) : t.mailbox st r = s.mailbox st r := by
    unfold State.mailbox
    rw [mailboxes]
  refine ⟨fun st r k => ?_, fun p i c k => ?_, fun p i c k => ?_, fun p i c k => ?_, fun st r => ?_, fun p i k => absurd (empty p i) k,
    fun _ => empty⟩
  · rw [box, box]
    exact h.keys st r k
  · rw [empty] at k
    cases k
  · rw [empty] at k
    cases k
  · rw [empty] at k
    cases k
  · rw [box]
    exact h.even st r

theorem State.enterStopped_serves (queued : s.structured → ∀ g, (s.slot g).state ≠ .queued) (idle : s.anyServing = false)
    (engine : s.ctl.engine ≠ .running) : Serves s s.enterStopped where
  sound := State.enterStopped_sound queued idle
  fits _ _ _ f := State.enterStopped_fits f idle
  touch _ _ h := by
    refine h.emptied (by rw [State.enterStopped_eq]) fun p i => ?_
    unfold State.contact
    rw [State.enterStopped_port]
    exact h.resting engine p i

/-! ### The end of an event (R7) -/

theorem settleInterrupt_calm (s t : State) : Calm t (settleInterrupt s t) := by
  rw [settleInterrupt_eq]
  exact State.setControl_calm (f := fun c => { c with messagesSent := _ }) rfl rfl rfl rfl

theorem closeEvent_serves (s t : State) : Serves t (closeEvent s t) := by
  have ended : Serves t (drainEnd s t) := by
    rcases drainEnd_cases s t with e | ⟨draining, -, idle, e⟩ <;> rw [e]
    · exact .refl t
    · exact State.enterStopped_serves (fun holds => (holds.2.2.2.2.1.2 draining).2.2) idle (by rw [draining]; exact Engine.noConfusion)
  exact ended.trans (settleInterrupt_calm s _).serves

/-! ### STOP in RUNNING (R19) -/

/-- A work of a STOP, seen from RUNNING. -/
structure Drains (s t : State) : Prop where
  sound : Sound (s.inEngine .running) (t.inEngine .running)
  fits : ∀ low, (s.inEngine .running).structured → s.fits low → t.fits low

theorem Drains.refl (s : State) : Drains s s := ⟨.refl _, fun _ _ => id⟩

theorem Drains.trans (a : Drains s t) (b : Drains t u) : Drains s u :=
  ⟨a.sound.trans b.sound, fun low holds f => b.fits low (a.sound.structured holds) (a.fits low holds f)⟩

theorem Drains.foldl {α : Type} {f : State → α → State} (one : ∀ t a, Drains t (f t a)) (l : List α) : ∀ t, Drains t (l.foldl f t) := by
  induction l with
  | nil => exact fun t => .refl t
  | cons a rest ih => exact fun t => (one t a).trans (ih _)

theorem State.finishQueued_fits (f : s.fits low) (alone : ∀ p, (s.port p).job ≠ some g) (o : JobOutcome) (d : Detail) :
    (s.finishQueued g o d).fits low := by
  have slots : (s.finishQueued g o d).slots = _ := State.finish_slots (s := s.unqueued g)
  have own := slot_of_set slots
  have kept : s.slotsKept (s.finishQueued g o d) [g] := slotsKept_of_set slots
  have ctl : (s.finishQueued g o d).ctl = s.ctl := State.finish_ctl ..
  have port (p : Port) : (s.finishQueued g o d).port p = s.port p := State.finish_port (s := s.unqueued g) p
  have change : Local s (s.finishQueued g o d) [g] [] := by
    refine .of_records (by rw [ctl]) (by rw [ctl]) (by rw [ctl]) (by rw [ctl]) (fun h out fits => fits.congr (kept h out) (by rw [ctl]))
      (fun p _ => by rw [port]; exact .refl _) fun p h _ job => ?_
    unfold State.job
    rw [kept h fun m => alone p (List.mem_singleton.mp m ▸ job)]
    exact .refl _
  refine change.fits f (fun h m => ?_) fun _ m => absurd m List.not_mem_nil
  obtain rfl := List.mem_singleton.mp m
  refine f.aside ?_ ?_ ?_ <;> rw [own]
  · exact SlotState.noConfusion
  · exact SlotState.noConfusion
  · rfl

theorem State.stopQueued_drains (s : State) (g : Slot) : Drains s (s.stopQueued g) := by
  refine ⟨s.stopQueued_running g, fun low holds f => ?_⟩
  unfold State.stopQueued
  split
  · next queued => exact State.finishQueued_fits f (fun p job => by
      cases queued.symm.trans (State.structured.served (s := s.inEngine .running) (p := p) holds job)) _ _
  · exact f

theorem State.stopService_drains (s : State) (p : Port) : Drains s (s.stopService p) := by
  refine ⟨s.stopService_running p, fun low holds f => ?_⟩
  unfold State.stopService
  split
  · next g _ _ job =>
    have closed := s.closeScanFrames_transmits p
    exact (closed.places.mono (List.nil_subset [g]) (List.Subset.refl _)).finishScan f (closed.places.slots g List.not_mem_nil (f.slots g))
      (closed.offers (f.ports p).1)
  · next g _ _ job =>
    have serving : (s.slot g).state = .serving := State.structured.served (s := s.inEngine .running) (p := p) holds job
    exact ((s.keepHold_local g _).mono (List.Subset.refl _) (List.nil_subset [p])).finishScan f
      ((f.slots g).keepHold serving (f.holdLeft p)) (f.ports p).1
  · exact f

theorem State.drained_drains (s : State) : Drains s.stopping s.drained := by
  have touched (t : State) : Drains t t.stopTouch :=
    ⟨(Quiet.inEngine (State.stopTouch_quiet t) .running).sound, fun _ _ f => t.stopTouch_local.unseen f⟩
  exact ((Drains.foldl State.stopQueued_drains allSlots _).trans (touched _)).trans (Drains.foldl State.stopService_drains allPorts _)

/-! ### The touch router at a STOP (R174) -/

theorem State.mailboxWrite_inEngine (s : State) (e : Engine) (st : Station) (r : Fin 4) (fresh : Bool) (m : MailReport) :
    (s.inEngine e).mailboxWrite st r fresh m = (s.mailboxWrite st r fresh m).inEngine e := by
  unfold State.mailboxWrite
  dsimp only
  rw [apply_ite fun t => State.inEngine t e] <;> rfl

theorem State.liftEntry_inEngine (s : State) (e : Engine) (p : Port) (after : Contact) (i : Fin 10) :
    State.liftEntry true true p after (s.inEngine e) i = (State.liftEntry true true p after s i).inEngine e := by
  have lifted (c : Capture) : ((s.inEngine e).syntheticUp p i c).setContact p i after = ((s.syntheticUp p i c).setContact p i after).inEngine e := by
    unfold State.syntheticUp
    rw [State.mailboxWrite_inEngine]
    rfl
  unfold State.liftEntry
  have contact : (s.inEngine e).contact p i = s.contact p i := rfl
  rw [contact]
  cases s.contact p i with
  | zone c => exact lifted c
  | hold c => exact lifted c
  | none => rfl
  | orphan => rfl
  | dropped => rfl

theorem foldl_inEngine {α : Type} {f : State → α → State} (one : ∀ s a, f (s.inEngine e) a = (f s a).inEngine e) (l : List α) :
    ∀ s, l.foldl f (s.inEngine e) = (l.foldl f s).inEngine e := by
  induction l with
  | nil => exact fun s => rfl
  | cons a rest ih =>
    intro s
    rw [List.foldl_cons, one, ih]
    rfl

theorem State.stopTouch_inEngine (s : State) (e : Engine) : (s.inEngine e).stopTouch = s.stopTouch.inEngine e :=
  foldl_inEngine (fun s p => by
    have lifted : (s.inEngine e).liftEntries p true true .none = (s.liftEntries p true true .none).inEngine e :=
      foldl_inEngine (fun t i => t.liftEntry_inEngine e p .none i) tenIndices s
    have cleared (t : State) : (t.inEngine e).clearContacts p = (t.clearContacts p).inEngine e := rfl
    rw [lifted, cleared]) allPorts s

theorem State.touchHolds.clearContacts (h : s.touchHolds) (p : Port) : (s.clearContacts p).touchHolds := by
  have own : (s.clearContacts p).port p = { s.port p with contacts := Vector.replicate 10 .none } := s.port_modifyPort p _
  have other {r : Port} (ne : r ≠ p) : (s.clearContacts p).port r = s.port r := s.port_modifyPort_ne ne _
  refine h.released rfl rfl rfl (fun r => ?_) fun r i => ?_
  · by_cases e : r = p
    · subst e
      rw [own]
    · rw [other e]
  · unfold State.contact
    by_cases e : r = p
    · subst e
      refine .inr (.inl ?_)
      rw [own]
      exact Vector.getElem_replicate _
    · exact .inl (by rw [other e])

theorem State.touchHolds.stopTouch (h : s.touchHolds) : s.stopTouch.touchHolds :=
  State.touchHolds.foldl (fun _ p h => State.touchHolds.clearContacts (h.liftEntries p rfl) p) _ s h

theorem State.closeScanFrames_mailboxes (s : State) (p : Port) : (s.closeScanFrames p).mailboxes = s.mailboxes :=
  (s.closeScanFrames_transmits p).routed.mailboxes

theorem State.stopService_mailboxes (s : State) (p : Port) : (s.stopService p).mailboxes = s.mailboxes := by
  unfold State.stopService
  split
  · unfold State.endScan
    rw [State.finishScan_mailboxes, State.closeScanFrames_mailboxes]
  · next g _ _ job =>
    have held : (s.holdStopped p g) = (s.keepHold g (s.holdLeft p)).finishScan p g .doneShort .engineStop none := rfl
    rw [held, State.finishScan_mailboxes, State.keepHold_mailboxes]
  · rfl

theorem State.stopQueued_mailboxes (s : State) (g : Slot) : (s.stopQueued g).mailboxes = s.mailboxes := by
  unfold State.stopQueued
  split
  · exact State.finish_mailboxes ..
  · rfl

theorem State.drained_contact (s : State) (p : Port) (i : Fin 10) : s.drained.contact p i = .none := by
  unfold State.contact
  rw [State.drained_port, PortRecord.stopped_contacts]
  exact Vector.getElem_replicate _

theorem State.stopServices_mailboxes (l : List Port) : ∀ s : State, (l.foldl State.stopService s).mailboxes = s.mailboxes :=
  State.foldl_same State.mailboxes State.stopService_mailboxes l

theorem State.inEngine_mailboxes (s : State) (e : Engine) : (s.inEngine e).mailboxes = s.mailboxes := rfl

theorem State.stopTouch_running (s : State) (e : Engine) : s.stopTouch.mailboxes = (s.inEngine e).stopTouch.mailboxes := by
  rw [State.stopTouch_inEngine, State.inEngine_mailboxes]

theorem State.touchHolds.from_running (h : s.touchHolds) (mailboxes : t.mailboxes = s.mailboxes) (work : t.ctl.work = s.ctl.work)
    (ports : ∀ p, t.port p = s.port p) : (t.inEngine .running).touchHolds :=
  h.kept mailboxes work (fun k => absurd rfl k) (fun p => congrArg PortRecord.contacts (ports p)) fun p _ _ _ => congrArg PortRecord.job (ports p)

theorem State.drained_touch (h : s.touchHolds) : s.drained.touchHolds := by
  have dequeued : s.dequeued.mailboxes = s.mailboxes := State.foldl_same State.mailboxes State.stopQueued_mailboxes allSlots s.stopping
  have before : (s.dequeued.inEngine .running).touchHolds :=
    h.from_running dequeued (by rw [s.dequeued_kept.ctl]; rfl) s.dequeued_port
  have after : s.drained.mailboxes = s.dequeued.stopTouch.mailboxes := by
    rw [State.drained_eq]
    exact State.stopServices_mailboxes _ _
  exact before.stopTouch.emptied (after.trans (s.dequeued.stopTouch_running .running)) s.drained_contact

theorem State.drained_serves (running : s.ctl.engine = .running) : Serves s s.drained where
  sound := State.drained_sound running
  fits low _ holds f := by
    have quiet : Quiet s (s.stopping.inEngine .running) :=
      ⟨⟨running.symm, rfl, rfl, fun _ _ => .refl _, fun _ _ => .refl _⟩, rfl, rfl, rfl, rfl⟩
    have stopping : s.stopping.fits low :=
      ⟨fun _ => f.pools (.inl (by rw [running]; rfl)), f.slots, f.ports⟩
    exact s.drained_drains.fits low (quiet.sound.structured holds) stopping
  touch _ _ := State.drained_touch

theorem State.drain_serves (running : s.ctl.engine = .running) : Serves s s.drain := by
  rw [State.drain_eq]
  refine .ite (fun _ => State.drained_serves running) fun idle => (State.drained_serves running).trans ?_
  exact State.enterStopped_serves (fun _ => s.drained_unqueued) (Bool.eq_false_iff.mpr idle) (by rw [State.drained_ctl]; exact Engine.noConfusion)

theorem State.recordCommand_calm (s : State) (k : Command) (o : CommandOutcome) (r : RefusalReason) :
    Calm s (s.setControl (recordCommand k o r)) := State.setControl_calm rfl rfl rfl rfl

end

end Sys2Proof.Machine
end

/-! SUPPORT. The commands of the engine keep the services and the touch router at their invariants: START, its steps, WIPE, RESET and the
power-on (R12 to R17, R21). -/
section
namespace Sys2Proof.Machine

/-- A command keeps the invariants of the services and of the touch router, of a part whose records agree. -/
structure Upholds (s t : State) : Prop where
  structured : s.structured → t.structured
  fits : s.structured → s.fits (fun _ => 0) → t.fits fun _ => 0
  touch : s.structured → s.fits (fun _ => 0) → s.touchHolds → t.touchHolds

/-- The counts of the jobs are in their ranges. -/
def State.countsFit (s : State) : Prop := ∀ g, (s.job g).sheetsDone ≤ 8064 ∧ (s.job g).holdRemaining ≤ 3600000

section
variable {s t u : State} {g h : Slot} {p : Port} {todo : List Slot} {low : Port → Nat} {blocks : List Nat}

theorem Serves.upholds (a : Serves s t) : Upholds s t := ⟨a.sound.structured, a.fits _ fun _ => Nat.zero_le _, a.touch⟩

theorem Upholds.then (a : Upholds s t) (b : Serves t u) : Upholds s u :=
  ⟨fun k => b.sound.structured (a.structured k), fun k f => b.fits _ (fun _ => Nat.zero_le _) (a.structured k) (a.fits k f),
    fun k f h => b.touch (a.structured k) (a.fits k f) (a.touch k f h)⟩

/-! ### A part in which nothing waits and nothing is served -/

theorem State.fits.countsFit (f : s.fits low) : s.countsFit := fun g => ⟨(f.slots g).sheets, (f.slots g).left⟩

theorem State.countsFit.same (f : s.countsFit) (jobs : ∀ g, t.job g = s.job g) : t.countsFit := fun g => by
  rw [jobs]
  exact f g

theorem State.restored.fits (r : t.restored todo) (pools : t.poolsFit) (range : t.countsFit)
    (ports : ∀ p, (t.port p).resting ∧ (t.port p).unoffered) : t.fits low where
  pools := pools
  slots g := .idle (r.idle g).1 (r.idle g).2 (range g).1 (range g).2
  ports p := ⟨(ports p).2, .inl (ports p).1⟩

theorem State.fits.restingPort (f : s.fits low) (r : s.restored todo) (p : Port) : (s.port p).resting ∧ (s.port p).unoffered :=
  ⟨f.restingAt (r.unserved p).1, (f.ports p).1⟩

/-- A change of the control registers alone, of a part at rest. -/
theorem Upholds.of_control (lawful : Lawful s t) (still : sweeping s.ctl.engine = false) (slots : t.slots = s.slots) (ports : t.ports = s.ports)
    (queues : t.queues = s.queues) (deadlines : t.deadlines = s.deadlines) (spare : t.spare = s.spare) (marks : t.marks = s.marks)
    (mailboxes : t.mailboxes = s.mailboxes) (pools : s.poolsFit → t.poolsFit) : Upholds s t where
  structured := lawful.structured
  fits k f := by
    have r := k.restored still
    have port (p : Port) : t.port p = s.port p := by
      unfold State.port
      rw [ports]
    have same : t.restored [] := r.same slots queues deadlines spare marks fun p => by
      rw [port]
      exact r.unserved p
    exact same.fits (pools f.pools) (f.countsFit.same (State.job_congr slots)) fun p => by
      rw [port]
      exact f.restingPort r p
  touch _ _ h := h.emptied mailboxes fun p i => by
    unfold State.contact State.port
    rw [ports]
    exact h.resting (fun e => by rw [e] at still; cases still) p i

/-! ### START, WIPE, RESET and the power-on (R13 to R15, R21) -/

theorem State.acceptStart_upholds (stopped : s.ctl.engine = .stopped) : Upholds s s.acceptStart :=
  .of_control (State.acceptStart_lawful stopped) (by rw [stopped]; rfl) rfl rfl rfl rfl rfl rfl rfl fun _ k => by
    rcases k with e | ⟨n, e⟩ <;> cases e

theorem State.failStart_upholds (starting : s.ctl.engine = .starting) (r : ConfigResult) (n : Nat) : Upholds s (s.failStart r n) :=
  .of_control (State.failStart_lawful starting r n) (by rw [starting]; rfl) rfl rfl rfl rfl rfl rfl rfl fun _ k => by
    rcases k with e | ⟨n, e⟩ <;> cases e

theorem State.completeWipe_upholds (wiping : s.ctl.engine = .wiping) : Upholds s s.completeWipe :=
  .of_control (State.completeWipe_lawful wiping) (by rw [wiping]; rfl) rfl rfl rfl rfl rfl rfl rfl fun f k =>
    f (k.imp (fun e => by cases e) id)

/-- Mailbox records that have been cleared. -/
theorem touchHolds_cleared (mailboxes : t.mailboxes = Vector.replicate 32 (Vector.replicate 4 {})) (empty : ∀ p i, t.contact p i = .none) :
    t.touchHolds := by
  have box (st : Station) (r : Fin 4) : t.mailbox st r = {} := by
    unfold State.mailbox
    rw [mailboxes, Vector.getElem_replicate, Vector.getElem_replicate]
  refine ⟨fun st r k some => ?_, fun p i c k => ?_, fun p i c k => ?_, fun p i c k => ?_, fun st r => ?_, fun p i k => absurd (empty p i) k,
    fun _ => empty⟩
  · rw [box] at some
    exact absurd rfl some
  · rw [empty] at k
    cases k
  · rw [empty] at k
    cases k
  · rw [empty] at k
    cases k
  · rw [box]
    rfl

theorem State.acceptWipe_upholds (stopped : s.ctl.engine = .stopped) : Upholds s s.acceptWipe where
  structured := (State.acceptWipe_lawful stopped).structured
  fits k f := by
    have still : sweeping s.ctl.engine = false := by
      rw [stopped]
      rfl
    have slot (g : Slot) : s.acceptWipe.slot g = {} := Vector.getElem_replicate g.isLt
    have after := ((State.acceptWipe_lawful stopped).structured k).restored (by rfl)
    refine after.fits (fun k => f.pools (k.imp (fun e => by cases e) id)) (fun g => ?_) fun p => f.restingPort (k.restored still) p
    unfold State.job
    rw [slot]
    exact ⟨Nat.zero_le _, Nat.zero_le _⟩
  touch _ _ h := touchHolds_cleared rfl fun p i => h.resting (by rw [stopped]; exact Engine.noConfusion) p i

/-- A part that has been reset to rest. -/
theorem Upholds.of_reset (lawful : Lawful s t) (still : sweeping t.ctl.engine = false) (phase : t.ctl.startPhase = .idle)
    (jobs : ∀ g, t.job g = {}) (ports : ∀ p, ∃ cut, t.port p = { cut := cut })
    (mailboxes : t.mailboxes = Vector.replicate 32 (Vector.replicate 4 {})) : Upholds s t where
  structured := lawful.structured
  fits k _ := by
    refine ((lawful.structured k).restored still).fits (fun e => ?_) (fun g => ?_) fun p => ?_
    · rw [still, phase] at e
      rcases e with e | ⟨n, e⟩ <;> cases e
    · rw [jobs]
      exact ⟨Nat.zero_le _, Nat.zero_le _⟩
    · obtain ⟨cut, port⟩ := ports p
      rw [port]
      exact ⟨⟨PortState.noConfusion, rfl, rfl, rfl, rfl⟩, fun _ _ => rfl⟩
  touch _ _ _ := touchHolds_cleared mailboxes fun p i => by
    obtain ⟨cut, port⟩ := ports p
    unfold State.contact
    rw [port]
    exact Vector.getElem_replicate _

theorem State.acceptReset_upholds (s : State) : Upholds s s.acceptReset :=
  .of_reset s.acceptReset_lawful rfl rfl (fun g => (clearShadow_slot (s := s) rfl g).2)
    (fun p => ⟨cutFrame p (s.port p), Vector.getElem_ofFn p.isLt⟩) rfl

theorem State.powerOn_upholds (s : State) : Upholds s s.powerOn := by
  refine .of_reset s.powerOn_lawful rfl rfl (fun g => ?_) (fun p => ⟨{}, State.port_reset p⟩) rfl
  have slot : s.powerOn.slot g = {} := Vector.getElem_replicate g.isLt
  unfold State.job
  rw [slot]

/-! ### The rebuild and START's completion (R16, R17) -/

theorem State.rebuildSlots_countsFit (l : List Slot) : ∀ {s : State}, s.countsFit → (s.rebuildSlots l).countsFit := by
  induction l with
  | nil => exact fun range => range
  | cons g rest ih =>
    intro s range
    refine ih (s := s.rebuildSlot g) fun h => ?_
    obtain ⟨blocks, -, restores⟩ := s.rebuildSlot_restores g
    by_cases e : h = g
    · subst e
      rw [restores.job]
      exact range h
    · unfold State.job
      rw [restores.slots h e]
      exact range h

/-- The validation passes where every port is of a class and every pool of one (R14, R15). -/
theorem WorkingCopy.validate_none {w : WorkingCopy} (passes : w.validate = none) :
    (∀ p : Port, w.ports[p.val].cls ≠ .bad) ∧ ∀ p r : Port, w.ports[p.val].cls ≠ .none → w.ports[r.val].cls ≠ .none →
      w.ports[p.val].pool = w.ports[r.val].pool → w.ports[p.val].cls = w.ports[r.val].cls := by
  unfold WorkingCopy.validate at passes
  split at passes
  · cases passes
  next good =>
    split at passes
    · cases passes
    · split at passes
      · cases passes
      next unmixed =>
        refine ⟨fun p bad => ?_, fun p r some other pool => ?_⟩
        · have := List.find?_eq_none.mp good p (List.mem_finRange p)
          simp [bad] at this
        · have unlike := List.find?_eq_none.mp unmixed w.ports[p.val].pool (List.mem_finRange _)
          by_contra ne
          refine unlike (List.any_eq_true.mpr ⟨p, List.mem_finRange p, List.any_eq_true.mpr ⟨r, List.mem_finRange r, ?_⟩⟩)
          simp [some, other, pool, ne]

theorem State.validateStart_upholds (starting : s.ctl.engine = .starting) : Upholds s s.validateStart := by
  have still : sweeping s.ctl.engine = false := by
    rw [starting]
    rfl
  have lawful := State.validateStart_lawful starting
  cases result : s.ctl.work.validate with
  | some failed =>
    have same : s.validateStart = s.failStart failed.1 failed.2 := by
      unfold State.validateStart
      rw [result]
    rw [same]
    exact State.failStart_upholds starting _ _
  | none =>
    have same : s.validateStart = ((s.rebuildClear.rebuildSlots (allSlots.take s.rebuildReach)).setControl fun c =>
        { c with startPhase := .rebuilding s.rebuildReach }).drawFree := by
      unfold State.validateStart
      rw [result]
    have ctl : s.validateStart.ctl = { s.ctl with startPhase := .rebuilding s.rebuildReach } := by
      have inner : (s.rebuildClear.rebuildSlots (allSlots.take s.rebuildReach)).ctl = s.ctl := by simp
      rw [same, ← inner]
      rfl
    have port (p : Port) : s.validateStart.port p = { s.port p with counters := {}, discards := {} } := by
      have inner : (s.rebuildClear.rebuildSlots (allSlots.take s.rebuildReach)).ports = s.rebuildClear.ports := by simp
      rw [← State.rebuildClear_port]
      unfold State.port
      rw [← inner, same]
      rfl
    refine ⟨lawful.structured, fun k f => ?_, fun _ _ h => ?_⟩
    · refine ((lawful.structured k).restored (by rw [ctl]; exact still)).fits (fun _ => ?_) ?_ fun p => ?_
      · unfold State.portConfig
        rw [ctl]
        exact WorkingCopy.validate_none result
      · have cleared : s.rebuildClear.countsFit := fun g => by
          rw [State.rebuildClear_job]
          exact ⟨Nat.zero_le _, Nat.zero_le _⟩
        rw [same]
        exact State.rebuildSlots_countsFit _ cleared
      · obtain ⟨⟨state, job, print, scan, hold⟩, offers⟩ := f.restingPort (k.restored still) p
        rw [port]
        exact ⟨⟨state, job, print, scan, hold⟩, offers⟩
    · refine h.emptied ?_ fun p i => ?_
      · have inner : (s.rebuildClear.rebuildSlots (allSlots.take s.rebuildReach)).mailboxes = s.mailboxes := by simp
        rw [same, ← inner]
        rfl
      · unfold State.contact
        rw [port]
        exact h.resting (by rw [starting]; exact Engine.noConfusion) p i

/-- A port that enters RUNNING rests, and its probe's ASK is no frame of a service. -/
theorem PortRecord.started_resting {x : PortRecord} (cls : PortClass) (rest : x.resting) (offers : x.unoffered) :
    (x.started cls).resting ∧ (x.started cls).unoffered := by
  obtain ⟨state, job, print, scan, hold⟩ := rest
  unfold PortRecord.started probingPort
  split
  · exact ⟨⟨state, job, print, scan, hold⟩, offers⟩
  · refine ⟨⟨PortState.noConfusion, job, print, scan, hold⟩, offers.less rfl fun n _ => offer_other FrameOwner.noConfusion _⟩

theorem State.evenSeq_even (s : State) (st : Station) (r : Fin 4) : (s.evenSeq st r).toNat % 2 = 0 := by
  unfold State.evenSeq
  generalize (s.word (mailboxAddress st r)).extractLsb' 0 16 = seq
  split
  · next odd =>
    have step : (seq + 1).toNat = (seq.toNat + 1) % 65536 := BitVec.toNat_add seq 1
    omega
  · omega

theorem State.completeStart_touch (w : Memory.wf s.mem = true) (panels : ∀ p i, s.completeStart.contact p i = .none) : s.completeStart.touchHolds := by
  have box (st : Station) (r : Fin 4) : s.completeStart.mailbox st r = { seq := s.evenSeq st r + 2 } := (State.completeStart_opens w st r).1
  refine ⟨fun st r k some => ?_, fun p i c k => ?_, fun p i c k => ?_, fun p i c k => ?_, fun st r => ?_, fun p i k => absurd (panels p i) k,
    fun _ => panels⟩
  · rw [box] at some
    exact absurd rfl some
  · rw [panels] at k
    cases k
  · rw [panels] at k
    cases k
  · rw [panels] at k
    cases k
  · rw [box]
    exact seq_even (s.evenSeq_even st r)

theorem State.completeStart_contact (s : State) (p : Port) (i : Fin 10) : s.completeStart.contact p i = .none := by
  unfold State.contact
  rw [State.completeStart_port]
  unfold PortRecord.started probingPort
  split <;> exact Vector.getElem_replicate _

theorem State.startCompletion_upholds {next : Nat} (w : Memory.wf (s.rebuildSlots (allSlots.drop next)).mem = true)
    (starting : s.ctl.engine = .starting) (phase : s.ctl.startPhase = .rebuilding next) :
    Upholds s (s.rebuildSlots (allSlots.drop next)).completeStart where
  structured := (State.startCompletion_lawful starting phase).structured
  fits k f := by
    have still : sweeping s.ctl.engine = false := by
      rw [starting]
      rfl
    have rebuilt : (s.rebuildSlots (allSlots.drop next)).restored [] := by
      have taken := k.rebuilding starting phase
      rw [← List.append_nil (allSlots.drop next)] at taken
      refine taken.all ?_
      rw [List.append_nil]
      exact (List.nodup_finRange 128).sublist (List.drop_sublist _ _)
    have slots : (s.rebuildSlots (allSlots.drop next)).completeStart.slots = (s.rebuildSlots (allSlots.drop next)).slots :=
      State.completeStart_same State.slots (fun _ _ => rfl) (fun _ _ _ => rfl) (fun _ _ _ => rfl) (fun _ _ _ _ => rfl) (fun _ _ => rfl) _
    have ports : (s.rebuildSlots (allSlots.drop next)).ports = s.ports := by simp
    have ctl : (s.rebuildSlots (allSlots.drop next)).ctl = s.ctl := by simp
    refine (State.completeStart_restored rebuilt).fits (fun _ => ?_) ((State.rebuildSlots_countsFit _ f.countsFit).same (State.job_congr slots)) fun p => ?_
    · have pools := f.pools (.inr ⟨next, phase⟩)
      unfold State.portConfig at *
      rw [State.completeStart_ctl]
      show (∀ p : Port, (s.rebuildSlots (allSlots.drop next)).ctl.work.ports[p.val].cls ≠ .bad) ∧ _
      rw [ctl]
      exact pools
    · rw [State.completeStart_port]
      have port : (s.rebuildSlots (allSlots.drop next)).port p = s.port p := by
        unfold State.port
        rw [ports]
      rw [port]
      obtain ⟨⟨state, job, print, scan, hold⟩, offers⟩ := f.restingPort (k.restored still) p
      refine PortRecord.started_resting _ ?_ ?_ <;> unfold PortRecord.zonesSampled <;> split
      · exact ⟨state, job, print, scan, hold⟩
      · exact ⟨state, job, print, scan, hold⟩
      · exact offers
      · exact offers
  touch _ _ _ := State.completeStart_touch w (State.completeStart_contact _)

end

end Sys2Proof.Machine
end

/-! SUPPORT. A hall tick keeps the services at work: the hold timers that are reached expire before the clock rises (R48, R51, R177). -/
section
namespace Sys2Proof.Machine

section
variable {s t u : State} {g h : Slot} {p r : Port} {low : Port → Nat}

/-! ### Hold timers that are not reached -/

/-- The hold timer of a port has at least one tick to go, if it runs. -/
def State.timerAhead (s : State) (p : Port) : Prop := ∀ e, (s.port p).hold.timer = some e → 1 ≤ (e - s.ctl.clock).toNat

theorem State.timerAhead.of_unreached (unreached : timerReached s.ctl.clock (s.port p).hold.timer = false) : s.timerAhead p := fun e timer => by
  rw [timer] at unreached
  unfold timerReached reached interval at unreached
  rw [decide_eq_false_iff_not] at unreached
  by_contra zero
  have same : e = s.ctl.clock := by bv_omega
  rw [same] at unreached
  simp at unreached

theorem State.timerAhead.of_idle (idle : (s.port p).hold = {}) : s.timerAhead p := fun e timer => by
  rw [idle] at timer
  cases timer

/-- The bound of one port's timer. -/
theorem State.portFits.raise {n : Nat} (f : s.portFits n p) (ahead : s.timerAhead p) : s.portFits 1 p := by
  refine ⟨f.1, f.2.imp id fun ⟨g, cls, e⟩ => ⟨g, cls, e.state, e.job, e.ofClass, e.port, e.pool, ?_⟩⟩
  have serves := e.serves
  cases cls with
  | print => exact serves
  | scan => exact serves
  | hold =>
    obtain ⟨phase, print, scan, ⟨e, timer, -, bound⟩, frames⟩ := serves
    exact ⟨phase, print, scan, ⟨e, timer, ahead e timer, bound⟩, frames⟩

theorem State.fits.raise (f : s.fits low) (ahead : s.timerAhead p) : s.fits (Function.update low p 1) where
  pools := f.pools
  slots := f.slots
  ports r := by
    by_cases e : r = p
    · subst e
      rw [Function.update_self]
      exact (f.ports r).raise ahead
    · rw [Function.update_of_ne e]
      exact f.ports r

theorem State.fits.raise_all (f : s.fits low) (ahead : ∀ p, s.timerAhead p) : s.fits fun _ => 1 :=
  ⟨f.pools, f.slots, fun p => (f.ports p).raise (ahead p)⟩

/-- The hold of a port that serves no hold is idle. -/
theorem State.portFits.unheld {n : Nat} (f : s.portFits n p) (gone : s.servedJob p .panel = none) : (s.port p).hold = {} := by
  rcases f.2 with rest | ⟨g, cls, e⟩
  · exact rest.hold
  · have serves := e.serves
    cases cls with
    | print => exact PortRecord.printing.hold serves
    | scan => exact PortRecord.scanning.hold serves
    | hold =>
      unfold State.servedJob at gone
      rw [if_pos ⟨e.state, e.port⟩] at gone
      cases gone.symm.trans e.job

theorem update_le_one (le : ∀ p, low p ≤ 1) (p r : Port) : Function.update low p 1 r ≤ 1 := by
  by_cases e : r = p
  · subst e
    rw [Function.update_self]
  · rw [Function.update_of_ne e]
    exact le r

/-- After its expiry test a port's hold timer has at least one tick to go. -/
theorem State.holdEvent_raises (le : ∀ p, low p ≤ 1) (holds : s.structured) (f : s.fits low) : (s.holdEvent p).fits (Function.update low p 1) := by
  unfold State.holdEvent
  split
  · split
    · next g job =>
      have at_p := State.servedJob_job job
      have ended := State.holdExpired_serves at_p
      have after := ended.fits low le holds f
      have port : (s.holdExpired p g).port p = _ := State.finishScan_port
      exact (State.reviewFreed_serves _ p).fits _ (update_le_one le p) (ended.sound.structured holds) (after.raise (.of_idle (by rw [port]; rfl)))
    · next gone => exact f.raise (.of_idle ((f.ports p).unheld gone))
  · next quiet =>
    refine f.raise ?_
    rw [not_and_or] at quiet
    rcases quiet with unreached | phase
    · exact .of_unreached (Bool.eq_false_iff.mpr unreached)
    · rcases (f.ports p).2 with rest | ⟨g, cls, e⟩
      · exact .of_idle rest.hold
      · refine .of_idle ((f.ports p).unheld ?_)
        unfold State.servedJob
        refine if_neg fun panel => ?_
        obtain rfl : cls = .hold := servingClass_injective (e.port.symm.trans panel.2)
        have some := PortRecord.holding.phase e.serves
        cases phased : (s.port p).hold.phase with
        | idle => exact some phased
        | holding => exact phase phased

/-! ### The expiries of a clock value (R55) -/

theorem State.ownEvent_serves {f : State → State} (serves : ∀ s, Serves s (f s)) (s : State) : Serves s (s.ownEvent f) :=
  (serves s).trans (closeEvent_serves s (f s))

theorem State.deadlineExpiries_serves (n : Nat) : ∀ s, Serves s (State.deadlineExpiries n s) := by
  induction n with
  | zero => exact fun s => .refl s
  | succ n ih =>
    intro s
    unfold State.deadlineExpiries
    exact .ite (fun _ => (State.ownEvent_serves State.deadlineEvent_serves s).trans (ih _)) fun _ => .refl s

/-- The expiries of a port but for the hold timer's. -/
theorem State.otherExpiries_serves (s : State) (p : Port) : Serves s ((((s.ownEvent fun s => s.responseEvent p).ownEvent fun s => s.probeEvent p).ownEvent
    fun s => s.sheetEvent p).ownEvent fun s => s.starveEvent p) :=
  (((State.ownEvent_serves (fun t => t.responseEvent_serves p) s).trans (State.ownEvent_serves (fun t => t.probeEvent_serves p) _)).trans
    (State.ownEvent_serves (fun t => t.sheetEvent_serves p) _)).trans (State.ownEvent_serves (fun t => t.starveEvent_serves p) _)

theorem State.portExpiries_serves (s : State) (p : Port) : Serves s (s.portExpiries p) :=
  (s.otherExpiries_serves p).trans (State.ownEvent_serves (fun t => t.holdEvent_serves p) _)

theorem State.portExpiries_raises (le : ∀ p, low p ≤ 1) (holds : s.structured) (f : s.fits low) : (s.portExpiries p).fits (Function.update low p 1) := by
  have before := s.otherExpiries_serves p
  have held := State.holdEvent_raises (p := p) le (before.sound.structured holds) (before.fits low le holds f)
  exact (closeEvent_serves _ _).fits _ (update_le_one le p)
    ((State.holdEvent_serves _ p).sound.structured (before.sound.structured holds)) held

/-- After the expiries of some ports their hold timers have at least one tick to go. -/
theorem State.expiries_raise (l : List Port) : ∀ {s : State} {low : Port → Nat}, (∀ p, low p ≤ 1) → s.structured → s.fits low →
    ∃ raised : Port → Nat, (∀ p, raised p ≤ 1) ∧ (∀ p, low p ≤ raised p) ∧ (∀ p ∈ l, 1 ≤ raised p) ∧ (l.foldl State.portExpiries s).fits raised := by
  induction l with
  | nil => exact fun {s low} le _ f => ⟨low, le, fun _ => Nat.le_refl _, fun p k => absurd k List.not_mem_nil, f⟩
  | cons q rest ih =>
    intro s low le holds f
    have first := State.portExpiries_raises (p := q) le holds f
    obtain ⟨raised, small, grows, done, fits⟩ := ih (update_le_one le q) ((s.portExpiries_serves q).sound.structured holds) first
    refine ⟨raised, small, fun p => (?_ : low p ≤ Function.update low q 1 p).trans (grows p), fun p k => ?_, fits⟩
    · by_cases e : p = q
      · subst e
        rw [Function.update_self]
        exact le p
      · rw [Function.update_of_ne e]
    · rcases List.mem_cons.mp k with rfl | later
      · have own := grows p
        rw [Function.update_self] at own
        exact own
      · exact done p later

/-- The expiries but for those of the ports. -/
theorem State.listExpiries_serves (s : State) :
    Serves s (((State.deadlineExpiries s.deadlines.length s).ownEvent State.sweepTimerEvent).ownEvent State.decayEvent) :=
  ((State.deadlineExpiries_serves _ s).trans (State.ownEvent_serves (fun t => t.sweepTimerEvent_calm.serves) _)).trans
    (State.ownEvent_serves State.decayEvent_serves _)

theorem State.takeExpiries_serves (s : State) : Serves s s.takeExpiries :=
  s.listExpiries_serves.trans (Serves.foldl State.portExpiries_serves _ _)

theorem State.takeExpiries_raises (holds : s.structured) (f : s.fits fun _ => 0) : s.takeExpiries.fits fun _ => 1 := by
  have before := s.listExpiries_serves
  obtain ⟨raised, small, -, done, fits⟩ := State.expiries_raise allPorts (fun _ => Nat.zero_le _) (before.sound.structured holds)
    (before.fits _ (fun _ => Nat.zero_le _) holds f)
  have all : raised = fun _ => 1 := funext fun p => Nat.le_antisymm (small p) (done p (List.mem_finRange p))
  rw [all] at fits
  exact fits

/-! ### The clock rises (R48) -/

theorem State.raiseClock_fits (f : s.fits fun _ => 1) : s.raiseClock.fits fun _ => 0 where
  pools := f.pools
  slots := f.slots
  ports p := by
    refine ⟨(f.ports p).1, (f.ports p).2.imp id fun ⟨g, cls, e⟩ => ⟨g, cls, e.state, e.job, e.ofClass, e.port, e.pool, ?_⟩⟩
    have serves := e.serves
    cases cls with
    | print => exact serves
    | scan => exact serves
    | hold =>
      obtain ⟨phase, print, scan, ⟨e, timer, one, bound⟩, frames⟩ := serves
      have clock : s.raiseClock.ctl.clock = s.ctl.clock + 1 := rfl
      refine ⟨phase, print, scan, ⟨e, timer, Nat.zero_le _, ?_⟩, frames⟩
      rw [clock]
      bv_omega

theorem State.raiseClock_touch (h : s.touchHolds) : s.raiseClock.touchHolds :=
  h.kept rfl rfl id (fun _ => rfl) fun _ _ _ _ => rfl

theorem State.tick_upholds (s : State) : Upholds s s.tick where
  structured := s.tick_lawful.structured
  fits holds f := by
    unfold State.tick
    split
    · exact State.raiseClock_fits (State.takeExpiries_raises holds f)
    · next quiet =>
      unfold State.expiryDue at quiet
      simp only [Bool.or_eq_true, not_or, List.any_eq_true, not_exists, not_and, Bool.not_eq_true] at quiet
      refine State.raiseClock_fits (f.raise_all fun p => .of_unreached ?_)
      exact (quiet.2 p (List.mem_finRange p)).2
  touch holds f h := by
    unfold State.tick
    split
    · exact State.raiseClock_touch (s.takeExpiries_serves.touch holds f h)
    · exact State.raiseClock_touch h

end

end Sys2Proof.Machine
end

/-! The obligation about the services and the touch router, under every command. -/
section
namespace Sys2Proof.Machine

section
variable {s t : State} {c : Instr}

theorem Calm.upholds (a : Calm s t) : Upholds s t := a.serves.upholds

theorem State.control_upholds (s : State) (k : Command) : Upholds s (s.control k) := by
  unfold State.control
  cases accepted : judgeCommand k s.ctl.engine with
  | some r => exact (s.recordCommand_calm k .refused r).upholds
  | none =>
    cases k with
    | start => exact State.acceptStart_upholds (accepted_stopped (.inl rfl) accepted)
    | stop =>
      show Upholds s (if s.ctl.engine = .draining then s.setControl (recordCommand .stop .accepted .none) else s.drain)
      split
      · exact (s.recordCommand_calm _ _ _).upholds
      · next draining => exact (State.drain_serves (accepted_running accepted draining)).upholds
    | wipe => exact State.acceptWipe_upholds (accepted_stopped (.inr rfl) accepted)
    | reset => exact s.acceptReset_upholds
    | none => exact (Calm.refl s).upholds

theorem State.nudgeVisit_calm (s : State) (st : Station) : Calm s (s.nudgeVisit st) :=
  .ite (fun _ => State.setControl_calm rfl rfl rfl rfl) fun _ => .refl s

theorem State.nudgeSweep_calm (s : State) : Calm s s.nudgeSweep :=
  .ite (fun _ => State.setControl_calm rfl rfl rfl rfl) fun _ => .refl s

theorem State.writeNotice_calm (s : State) (w : Word) : Calm s (s.writeNotice w) := .of_eq rfl rfl rfl rfl rfl rfl rfl rfl

theorem State.writeStationNotice_calm (s : State) (w : Word) : Calm s (s.writeStationNotice w) := .of_eq rfl rfl rfl rfl rfl rfl rfl rfl

theorem State.registerWrite_upholds (s : State) (offset : Nat) (lanes : BitVec 4) (w : Word) : Upholds s (s.registerWrite offset lanes w) := by
  unfold State.registerWrite
  split
  · exact (Calm.refl s).upholds
  · split
    · unfold State.writeControl
      split
      · exact s.control_upholds _
      · exact (Calm.refl s).upholds
    · unfold State.nudge
      split
      · exact (s.nudgeVisit_calm _).upholds
      · split
        · exact s.nudgeSweep_calm.upholds
        · exact (Calm.refl s).upholds
    · exact (s.writeNotice_calm w).upholds
    · exact (State.setControl_calm rfl rfl rfl rfl).upholds
    · exact (s.writeStationNotice_calm w).upholds
    · exact (Calm.refl s).upholds

theorem exec_upholds (wf : s.wellFormed) (h : exec c s = .next t) : Upholds s t := by
  have closes {u : State} (a : Upholds s u) : Upholds s (closeEvent s u) := a.then (closeEvent_serves s u)
  have event {u : State} (a : Serves s u) : Upholds s (closeEvent s u) := closes a.upholds
  cases c
  case powerOnReset => cases h; exact s.powerOn_upholds
  case wipeCompletion =>
    simp only [exec, execWipeCompletion] at h
    split at h <;> cases h
    · next wiping => exact closes (State.completeWipe_upholds wiping)
    · exact (Calm.refl s).upholds
  case start | stop | wipe | reset => cases h; exact closes (s.control_upholds _)
  case configurationValidation =>
    simp only [exec, execConfigurationValidation] at h
    split at h <;> cases h
    · next starting => exact closes (State.validateStart_upholds starting.1)
    · exact (Calm.refl s).upholds
  case startCompletion =>
    simp only [exec, execStartCompletion] at h
    split at h <;> cases h
    · next next starting phase =>
      exact closes (State.startCompletion_upholds ((s.rebuildSlots_kept _).data wf).memory starting phase)
    · exact (Calm.refl s).upholds
  case nudgeVisit st => cases h; exact (s.nudgeVisit_calm st).upholds
  case nudgeWholeSweep => cases h; exact s.nudgeSweep_calm.upholds
  case noticeWrite w =>
    cases h
    exact ((s.writeNotice_calm w).trans (settleInterrupt_calm s _)).upholds
  case maskWrite w =>
    cases h
    have masked : Calm s (s.writeMask w) := State.setControl_calm rfl rfl rfl rfl
    exact (masked.trans (settleInterrupt_calm s _)).upholds
  case stationNoticeWrite w =>
    cases h
    exact ((s.writeStationNotice_calm w).trans (settleInterrupt_calm s _)).upholds
  case registerWriteIgnored offset lanes w =>
    simp only [exec, execRegisterWriteIgnored] at h
    split at h
    · cases h
    · split at h <;> cases h
      exact closes (s.registerWrite_upholds offset lanes w)
  case messagesEnabledChange b => cases h; exact (State.setControl_calm rfl rfl rfl rfl).upholds
  case hallTick => cases h; exact s.tick_upholds
  case deadlineExpiry => cases h; exact event s.deadlineEvent_serves
  case sweepTimerExpiry => cases h; exact event s.sweepTimerEvent_calm.serves
  case wholeSweepStart => cases h; exact s.startSweepIfDue_calm.upholds
  case visit st =>
    simp only [exec, execVisit] at h
    split at h <;> cases h
    · next due => exact event (s.makeVisit_serves st (State.visitDue_sweeps due))
    · exact (Calm.refl s).upholds
  case wholeSweepEnd =>
    simp only [exec, execWholeSweepEnd] at h
    split at h
    · split at h <;> cases h
      · exact event (s.closeSweep_serves _)
      · exact (Calm.refl s).upholds
    · cases h; exact (Calm.refl s).upholds
  case decayTimerExpiry => cases h; exact event s.decayEvent_serves
  case characterReceived p ch => cases h; exact event (s.characterEvent_serves p ch)
  case frameRejected p k l x => cases h; exact event (s.rejectEvent_serves p k l x)
  case frameSent p => cases h; exact (s.sentEvent_calm p).upholds
  case responseTimerExpiry p => cases h; exact event (s.responseEvent_serves p)
  case probeTimerExpiry p => cases h; exact event (s.probeEvent_serves p)
  case sheetTimerExpiry p => cases h; exact event (s.sheetEvent_serves p)
  case starveTimerExpiry p => cases h; exact event (s.starveEvent_serves p)
  case holdTimerExpiry p => cases h; exact event (s.holdEvent_serves p)
  case hostExchangeMemoryWrite offset lanes w =>
    simp only [exec, execHostExchangeMemoryWrite] at h
    split at h
    · cases h
    · split at h <;> cases h
      refine Calm.upholds ?_
      exact .ite (fun _ => .of_eq rfl rfl rfl rfl rfl rfl rfl rfl) fun _ => .refl s
  case stateFrame | sheetFrame | imageFrame | imageEndFrame | contactFrame | ackFrame | nakFrame =>
    cases h; exact event (s.frameEvent_serves _ _)

/-- The commands that wait are none of the records. -/
theorem step_upholds (wf : s.wellFormed) (h : step s = .next t) : Upholds s t := by
  rcases step_cases h with rfl | ⟨c, rest, -, run⟩
  · exact (Calm.refl _).upholds
  · have calm : Calm s { s with pending := rest } := .of_eq rfl rfl rfl rfl rfl rfl rfl rfl
    have run := exec_upholds (wf.pending rest) run
    have before := calm.upholds
    exact ⟨fun k => run.structured (before.structured k), fun k f => run.fits (before.structured k) (before.fits k f),
      fun k f h => run.touch (before.structured k) (before.fits k f) (before.touch k f h)⟩

/-- Settles O8: every change of the records keeps what each slot and each port meets (`Serves`), and the clock rises when no hold timer is
reached (`tick_upholds`). -/
theorem stepKeepsTheServices : Obligations.StepKeepsTheServices := by
  refine ⟨fun s t wf holds services h => ?_, fun s t wf holds services touch h => ?_⟩
  · have step := step_upholds wf h
    exact (step.fits holds (services.fits holds)).servicesHold (step.structured holds)
  · exact (step_upholds wf h).touch holds (services.fits holds) touch

end

end Sys2Proof.Machine
end
